-- ==== Sys2Proof/Word.lean ====
section
/-!
DEFINITION. The word types of Galmus 1.0 and the small records that instructions and package events carry:
register numbers, vector bodies, packets, hart names.
-/
namespace Sys2Proof

/-- One byte of memory. -/
abbrev Byte := BitVec 8

/-- A scalar register's contents, 64 bits (06 Table 6.2). -/
abbrev Word := BitVec 64

/-- A register field of an instruction, x0 to x31 or v0 to v31. -/
abbrev Reg := BitVec 5

/-- One 64-byte Itmin flit (01 Table 1.3). -/
abbrev Flit := BitVec 512

/-- The fields of a 64-bit vector body (12 Table 12.6) but for its class and funct8, which choose the constructor. -/
structure Body where
  /-- [63:52] modifiers. -/
  mod : BitVec 12
  /-- [39:38] register group code, 0 to 3 for groups 1, 2, 4 and 8. -/
  grp : BitVec 2
  /-- [37:32] element type code (11 Table 11.1). -/
  ty : BitVec 6
  /-- [31] inverted mask. -/
  pol : Bool
  /-- [30] mask enable. -/
  men : Bool
  /-- [29:27] mask register. -/
  msk : BitVec 3
  /-- [26:22] third vector source, or the scalar register xs. -/
  vs3 : Reg
  /-- [21:17] second vector source. -/
  vs2 : Reg
  /-- [16:12] first vector source. -/
  vs1 : Reg
  /-- [11:7] destination, or first operand of a member that writes no register. -/
  vd : Reg
  deriving DecidableEq, Repr

/-- Which part of an 8-byte register a host access reaches (03 R61): all of it, or one 4-byte half; or an access of another length, which
reaches nothing. -/
inductive Half where
  | whole | low | high | odd
  deriving DecidableEq, Repr

/-- The ordering bits of an RV64A instruction and its width (13 R345). -/
structure AmoBits where
  /-- true for the 64-bit form, false for the 32-bit form. -/
  dbl : Bool
  aq : Bool
  rl : Bool
  deriving DecidableEq, Repr

/-- A hart slot of the package: core 0 to 255, slot 0 to 15 (00 Table 0.1). -/
structure HartRef where
  core : BitVec 8
  slot : BitVec 4
  deriving DecidableEq, Repr

/-- What the forward error correction of a received codeword reports (01 R28). -/
inductive Fec where
  /-- no symbol error -/
  | ok
  /-- `n` symbol errors, corrected -/
  | corrected (n : Nat)
  /-- the codeword could not be corrected -/
  | uncorrectable
  deriving DecidableEq, Repr

/-- A packet of the Itmin transaction layer: its header fields (01 Table 1.5), its payload words after the header, and the port at
which it arrived (0 for one of this device's own). -/
structure Packet where
  dst : BitVec 12
  src : BitVec 12
  cls : BitVec 3
  op : BitVec 5
  tag : BitVec 10
  len : BitVec 6
  ctx : BitVec 8
  hops : BitVec 4
  /-- the channel it travels on (01 Tables 1.3, 1.4) -/
  chan : BitVec 3
  body : List Word
  port : BitVec 4
  deriving DecidableEq, Repr

/-- The eight words of a 64-byte task record (05 Table 5.4). -/
structure TaskRec where
  w0 : Word
  w1 : Word
  w2 : Word
  w3 : Word
  w4 : Word
  w5 : Word
  w6 : Word
  w7 : Word
  deriving DecidableEq, Repr

/-- Who writes a bank command: the host for a cluster (07 R176), or the current hart. -/
inductive BankIssuer where
  | host (cl : BitVec 5)
  | hart
  deriving DecidableEq, Repr

/-- An engine with a command queue: the stream engine of a cluster or the sort engine of a die (09 R230). -/
inductive EngineRef where
  | stream (cl : BitVec 5)
  | sort (die : BitVec 2)
  deriving DecidableEq, Repr

/-- A register block that a host write can name (03 Tables 3.1 to 3.5): the management block, or the supervisor
page of a context. -/
inductive RegBlock where
  | mgt
  | sup (c : BitVec 8)
  deriving DecidableEq, Repr

/-- An atomic operation at a home slice (07 R192, 08 R211). -/
structure SauOp where
  /-- the element lies in host memory (09 R243) -/
  host : Bool
  /-- physical address of the element -/
  pa : Nat
  /-- function code of 08 R211, and 64 bits wide -/
  fn : BitVec 6
  dbl : Bool
  a : Word
  b : Word
  /-- the device that waits for its response, and the request's tag -/
  reply : Option (BitVec 12 × BitVec 10)
  /-- an issuer of this device: context, and the element's virtual address there -/
  issuer : Option (BitVec 8 × Word)
  /-- an element of 1 or 2 bytes (15 R414, R415) -/
  narrow : Option Nat := none
  /-- further elements of the line, by address and value, that a conditional write of the vector link set writes with it (15 R415) -/
  also : List (Nat × Nat) := []
  deriving DecidableEq, Repr

end Sys2Proof
end

