-- ==== Sys2Proof/Config.lean ====
section
/-!
DEFINITION. What one manufactured part fixes and the spec leaves to it, and the free values: constants with no body,
so that nothing can evaluate them. A free value is applied to the State counter `freshCount` (log 1), or to the
operands it depends on.
-/
namespace Sys2Proof.Config

/-- A word the spec leaves undefined (00 R10), by free-value index. Log 1. -/
opaque freeWord : Nat → Word
/-- A choice the spec leaves unspecified (00 R10), by free-value index. Log 1. -/
opaque freeBool : Nat → Bool
/-- An undefined register image of `bytes` bytes (06 R156, 10 R262); its user reduces it to its width. Log 1. -/
opaque freeNat : Nat → Nat
/-- A decoded texel channel of the formats the spec names by reference only (16 R443): format code with the footprint, block bytes, x, y,
channel; a NaN, or a numerator over the denominator's successor. Log 1. -/
opaque freeTexel : Nat → Nat → Nat → Nat → Nat → Option (Int × Nat)
/-- The 12 check symbols of a codeword's 256 data symbols (01 R27): the spec does not give the code's field and generator. Log 49. -/
opaque fecCheck : BitVec 2048 → BitVec 96
/-- The SHA-384 digest of a byte string (02 R44 to R52), named by reference only. Log 1. -/
opaque digest : List Byte → Nat
/-- The header and body of a firmware image (02 R45). Log 1. -/
opaque imageBody : List Byte → List Byte
/-- The signatures an image carries (02 R45): 0 RSASSA-PSS, 1 SLH-DSA-SHA2-192s. Log 1. -/
opaque imageSignature : Nat → List Byte → List Byte
/-- Whether a signature of a kind over a SHA-384 digest verifies (02 R45). Log 1. -/
opaque verifies : Nat → Nat → List Byte → Bool
/-- The device's fused secret (02 R49). Log 1. -/
opaque deviceSecret : Nat
/-- The identity private keys in boot flash, wrapped under a key derived from the fused secret (02 R49): 0 RSA-3072, 1 SLH-DSA. Log 1. -/
opaque wrappedKey : Nat → List Byte
/-- Unwrap an identity private key (02 R49). Log 1. -/
opaque unwrap : Nat → List Byte → Nat
/-- The SHA-384 digest of an SPDM transcript (02 R51). Log 1. -/
opaque transcriptDigest : List Nat → Nat
/-- The signature of a kind with a private key over a transcript digest (02 R51). Log 1. -/
opaque sign : Nat → Nat → Nat → Nat
/-- The certificate chain of a slot (02 R49, R51): of the kind, the identity key that signs the alias certificate, the alias key, and the
digest of the running image that the certificate binds. Log 1. -/
opaque certChain : Nat → Nat → Nat → Nat → List Byte
/-- The security version an image claims (02 R45). Log 1. -/
opaque imageSecver : List Byte → BitVec 16

end Sys2Proof.Config
end

