-- ==== Sys2Proof/Syntax.lean ====
section
/-!
DEFINITION. The instructions of Galmus 1.0 and the steps of the T960 package: one constructor per row of the opcode
table. A row that a hart executes carries the instruction's fields; a row of the package carries what arrives with it.
-/
namespace Sys2Proof

/-- One constructor per row of the opcode table: the scalar instructions and the convoy, then the steps of the package
(those the machine starts by itself first), then the vector instructions. -/
inductive Instr where
  /-- LUI, R341. -/
  | lui (rd : Reg) (imm : BitVec 20)
  /-- AUIPC, R341. -/
  | auipc (rd : Reg) (imm : BitVec 20)
  /-- JAL, R311. -/
  | jal (rd : Reg) (imm : BitVec 20)
  /-- JALR, R311. -/
  | jalr (rd rs1 : Reg) (imm : BitVec 12)
  /-- BEQ, R341. -/
  | beq (rs1 rs2 : Reg) (imm : BitVec 12)
  /-- BNE, R341. -/
  | bne (rs1 rs2 : Reg) (imm : BitVec 12)
  /-- BLT, R341. -/
  | blt (rs1 rs2 : Reg) (imm : BitVec 12)
  /-- BGE, R341. -/
  | bge (rs1 rs2 : Reg) (imm : BitVec 12)
  /-- BLTU, R341. -/
  | bltu (rs1 rs2 : Reg) (imm : BitVec 12)
  /-- BGEU, R341. -/
  | bgeu (rs1 rs2 : Reg) (imm : BitVec 12)
  /-- LB, R342. -/
  | lb (rd rs1 : Reg) (imm : BitVec 12)
  /-- LH, R342. -/
  | lh (rd rs1 : Reg) (imm : BitVec 12)
  /-- LW, R342. -/
  | lw (rd rs1 : Reg) (imm : BitVec 12)
  /-- LD, R342. -/
  | ld (rd rs1 : Reg) (imm : BitVec 12)
  /-- LBU, R342. -/
  | lbu (rd rs1 : Reg) (imm : BitVec 12)
  /-- LHU, R342. -/
  | lhu (rd rs1 : Reg) (imm : BitVec 12)
  /-- LWU, R342. -/
  | lwu (rd rs1 : Reg) (imm : BitVec 12)
  /-- SB, R342. -/
  | sb (rs1 rs2 : Reg) (imm : BitVec 12)
  /-- SH, R342. -/
  | sh (rs1 rs2 : Reg) (imm : BitVec 12)
  /-- SW, R342. -/
  | sw (rs1 rs2 : Reg) (imm : BitVec 12)
  /-- SD, R342. -/
  | sd (rs1 rs2 : Reg) (imm : BitVec 12)
  /-- ADDI, R341. -/
  | addi (rd rs1 : Reg) (imm : BitVec 12)
  /-- SLTI, R341. -/
  | slti (rd rs1 : Reg) (imm : BitVec 12)
  /-- SLTIU, R341. -/
  | sltiu (rd rs1 : Reg) (imm : BitVec 12)
  /-- XORI, R341. -/
  | xori (rd rs1 : Reg) (imm : BitVec 12)
  /-- ORI, R341. -/
  | ori (rd rs1 : Reg) (imm : BitVec 12)
  /-- ANDI, R341. -/
  | andi (rd rs1 : Reg) (imm : BitVec 12)
  /-- SLLI, R341. -/
  | slli (rd rs1 : Reg) (sh : BitVec 6)
  /-- SRLI, R341. -/
  | srli (rd rs1 : Reg) (sh : BitVec 6)
  /-- SRAI, R341. -/
  | srai (rd rs1 : Reg) (sh : BitVec 6)
  /-- ADDIW, R341. -/
  | addiw (rd rs1 : Reg) (imm : BitVec 12)
  /-- SLLIW, R341. -/
  | slliw (rd rs1 : Reg) (sh : BitVec 5)
  /-- SRLIW, R341. -/
  | srliw (rd rs1 : Reg) (sh : BitVec 5)
  /-- SRAIW, R341. -/
  | sraiw (rd rs1 : Reg) (sh : BitVec 5)
  /-- ADD, R341. -/
  | add (rd rs1 rs2 : Reg)
  /-- SUB, R341. -/
  | sub (rd rs1 rs2 : Reg)
  /-- SLL, R341. -/
  | sll (rd rs1 rs2 : Reg)
  /-- SLT, R341. -/
  | slt (rd rs1 rs2 : Reg)
  /-- SLTU, R341. -/
  | sltu (rd rs1 rs2 : Reg)
  /-- XOR, R341. -/
  | xorr (rd rs1 rs2 : Reg)
  /-- SRL, R341. -/
  | srl (rd rs1 rs2 : Reg)
  /-- SRA, R341. -/
  | sra (rd rs1 rs2 : Reg)
  /-- OR, R341. -/
  | orr (rd rs1 rs2 : Reg)
  /-- AND, R341. -/
  | andd (rd rs1 rs2 : Reg)
  /-- MUL, R341. -/
  | mul (rd rs1 rs2 : Reg)
  /-- MULH, R341. -/
  | mulh (rd rs1 rs2 : Reg)
  /-- MULHSU, R341. -/
  | mulhsu (rd rs1 rs2 : Reg)
  /-- MULHU, R341. -/
  | mulhu (rd rs1 rs2 : Reg)
  /-- DIV, R341. -/
  | div (rd rs1 rs2 : Reg)
  /-- DIVU, R341. -/
  | divu (rd rs1 rs2 : Reg)
  /-- REM, R341. -/
  | rem (rd rs1 rs2 : Reg)
  /-- REMU, R341. -/
  | remu (rd rs1 rs2 : Reg)
  /-- ADDW, R341. -/
  | addw (rd rs1 rs2 : Reg)
  /-- SUBW, R341. -/
  | subw (rd rs1 rs2 : Reg)
  /-- SLLW, R341. -/
  | sllw (rd rs1 rs2 : Reg)
  /-- SRLW, R341. -/
  | srlw (rd rs1 rs2 : Reg)
  /-- SRAW, R341. -/
  | sraw (rd rs1 rs2 : Reg)
  /-- MULW, R341. -/
  | mulw (rd rs1 rs2 : Reg)
  /-- DIVW, R341. -/
  | divw (rd rs1 rs2 : Reg)
  /-- DIVUW, R341. -/
  | divuw (rd rs1 rs2 : Reg)
  /-- REMW, R341. -/
  | remw (rd rs1 rs2 : Reg)
  /-- REMUW, R341. -/
  | remuw (rd rs1 rs2 : Reg)
  /-- LR, R344. -/
  | lr (rd rs1 : Reg) (a : AmoBits)
  /-- SC, R344. -/
  | sc (rd rs1 rs2 : Reg) (a : AmoBits)
  /-- AMOSWAP, R344. -/
  | amoswap (rd rs1 rs2 : Reg) (a : AmoBits)
  /-- AMOADD, R344. -/
  | amoadd (rd rs1 rs2 : Reg) (a : AmoBits)
  /-- AMOXOR, R344. -/
  | amoxor (rd rs1 rs2 : Reg) (a : AmoBits)
  /-- AMOAND, R344. -/
  | amoand (rd rs1 rs2 : Reg) (a : AmoBits)
  /-- AMOOR, R344. -/
  | amoor (rd rs1 rs2 : Reg) (a : AmoBits)
  /-- AMOMIN, R344. -/
  | amomin (rd rs1 rs2 : Reg) (a : AmoBits)
  /-- AMOMAX, R344. -/
  | amomax (rd rs1 rs2 : Reg) (a : AmoBits)
  /-- AMOMINU, R344. -/
  | amominu (rd rs1 rs2 : Reg) (a : AmoBits)
  /-- AMOMAXU, R344. -/
  | amomaxu (rd rs1 rs2 : Reg) (a : AmoBits)
  /-- FENCE, R345. -/
  | fence (rd rs1 : Reg) (fm pred succ : BitVec 4)
  /-- FENCE_TSO, R345. -/
  | fenceTso (rd rs1 : Reg)
  /-- PAUSE, R345. -/
  | pause
  /-- FENCE_I, R345. -/
  | fenceI (rd rs1 : Reg) (imm : BitVec 12)
  /-- ECALL, R346. -/
  | ecall
  /-- EBREAK, R271. -/
  | ebreak
  /-- CSRRW, R347. -/
  | csrrw (rd rs1 : Reg) (csr : BitVec 12)
  /-- CSRRS, R347. -/
  | csrrs (rd rs1 : Reg) (csr : BitVec 12)
  /-- CSRRC, R347. -/
  | csrrc (rd rs1 : Reg) (csr : BitVec 12)
  /-- CSRRWI, R347. -/
  | csrrwi (rd : Reg) (imm : BitVec 5) (csr : BitVec 12)
  /-- CSRRSI, R347. -/
  | csrrsi (rd : Reg) (imm : BitVec 5) (csr : BitVec 12)
  /-- CSRRCI, R347. -/
  | csrrci (rd : Reg) (imm : BitVec 5) (csr : BitVec 12)
  /-- VSETVL, R367. -/
  | vsetvl (rd rs1 : Reg) (eew : BitVec 3) (grp : BitVec 2)
  /-- VSETVL_B, R155. -/
  | vsetvlB (rd rs1 : Reg) (eew : BitVec 3) (grp : BitVec 2)
  /-- VSETSHAPE, R367. -/
  | vsetshape (rd rs1 rs2 : Reg) (eew : BitVec 3) (grp : BitVec 2)
  /-- VSETSHAPE_B, R155. -/
  | vsetshapeB (rd rs1 rs2 : Reg) (eew : BitVec 3) (grp : BitVec 2)
  /-- TSHAPE, R425. -/
  | tshape (rd rs1 rs2 : Reg)
  /-- TFREE, R426. -/
  | tfree (rs1 : Reg)
  /-- CTLOAD, R407. -/
  | ctload (rd rs1 rs2 : Reg)
  /-- TQPUSH, R125. -/
  | tqpush (rd rs1 rs2 : Reg)
  /-- TQPUSH_P, R125. -/
  | tqpushP (rd rs1 rs2 : Reg)
  /-- TEXIT, R129. -/
  | texit
  /-- GBAR, R129. -/
  | gbar
  /-- TYIELD, R129. -/
  | tyield
  /-- XCALL, R98. -/
  | xcall (rd rs1 rs2 : Reg)
  /-- FENCE_SCOPED, R354. -/
  | fenceScoped (rd : Reg) (scope : BitVec 3)
  /-- FENCE_ACQ, R354. -/
  | fenceAcq (scope : BitVec 3)
  /-- FENCE_REL, R354. -/
  | fenceRel (rd : Reg) (scope : BitVec 3)
  /-- VISWAIT, R355. -/
  | viswait (rs1 : Reg)
  /-- TKGET, R359. -/
  | tkget (rd rs1 : Reg)
  /-- TKWAIT, R359. -/
  | tkwait (rs1 rs2 : Reg)
  /-- TKDONE, R359. -/
  | tkdone (rs1 : Reg)
  /-- STV, R356. -/
  | stv (rd rs1 rs2 : Reg)
  /-- SXFER, R421. -/
  | sxfer (rd rs1 rs2 : Reg)
  /-- SORT, R421. -/
  | sort (rd rs1 rs2 : Reg)
  /-- ESTAT, R422. -/
  | estat (rd rs1 : Reg)
  /-- ECANCEL, R423. -/
  | ecancel (rd rs1 : Reg)
  /-- TRET, R253. -/
  | tret
  /-- HWAIT, R362. -/
  | hwait (rd rs1 rs2 : Reg)
  /-- SFENCE_T, R363. -/
  | sfenceT (rs1 rs2 : Reg)
  /-- UIRET, R256. -/
  | uiret
  /-- CTRIG, R364. -/
  | ctrig (rs1 : Reg)
  /-- TMARK, R365. -/
  | tmark (rs1 : Reg)
  /-- ILLEGAL_INSTRUCTION, R11. -/
  | illegalInstruction (w : BitVec 32)
  /-- CONVOY, R325. -/
  | convoy (hdr : BitVec 32) (bodies : List Word)
  /-- BOOT, R44. -/
  | boot (trainOk linksOk : Bool)
  /-- CONVOY_ISSUE, R164. -/
  | convoyIssue (h : HartRef)
  /-- CONVOY_DRAIN, R162. -/
  | convoyDrain (h : HartRef)
  /-- USER_INTERRUPT_ENTRY, R256. -/
  | userInterruptEntry (h : HartRef)
  /-- HART_SAVE, R260. -/
  | hartSave (h : HartRef)
  /-- STRIP_CLOSE, R278. -/
  | stripClose (h : HartRef)
  /-- TKWAIT_GRANT, R359. -/
  | tkwaitGrant (h : HartRef)
  /-- HWAIT_WAKE, R362. -/
  | hwaitWake (h : HartRef)
  /-- GBAR_COMPLETE, R129. -/
  | gbarComplete (g : BitVec 16)
  /-- FENCE_WAIT_END, R227. -/
  | fenceWaitEnd (h : HartRef)
  /-- SYSTEM_FENCE_TIMEOUT, R228. -/
  | systemFenceTimeout (h : HartRef)
  /-- VISWAIT_END, R226. -/
  | viswaitEnd (h : HartRef)
  /-- STV_REPLY, R356. -/
  | stvReply (h : HartRef)
  /-- VLB_REBIND, R155. -/
  | vlbRebind (h : HartRef)
  /-- TELLER_PLACEMENT, R132. -/
  | tellerPlacement (cl : BitVec 5)
  /-- HANDLER_RECHECK, R122. -/
  | handlerRecheck (cl : BitVec 5)
  /-- PREEMPTION_REQUEST, R134. -/
  | preemptionRequest (cl : BitVec 5)
  /-- GANG_RESUME, R266. -/
  | gangResume (g : BitVec 16) (cl : BitVec 5)
  /-- PENDING_STOP_COMPLETE, R73. -/
  | pendingStopComplete (c : BitVec 8)
  /-- CONTEXT_RESET_COMPLETE, R81. -/
  | contextResetComplete (c : BitVec 8)
  /-- TLB_INVALIDATION_COMPLETE, R89. -/
  | tlbInvalidationComplete (c : BitVec 8)
  /-- PAGE_WALK, R85. -/
  | pageWalk (die : BitVec 2)
  /-- XCALL_PACKET_SEND, R100. -/
  | xcallPacketSend (core : BitVec 8) (entry : BitVec 6)
  /-- PUSH_RELEASE_COMPLETE, R126. -/
  | pushReleaseComplete (h : HartRef)
  /-- RELEASED_RECORD_APPEND, R128. -/
  | releasedRecordAppend (qid : BitVec 16)
  /-- JOIN_DECREMENT, R129. -/
  | joinDecrement
  /-- TASK_END_REPORT, R108. -/
  | taskEndReport
  /-- TOS_COMPLETE, R177. -/
  | tosComplete (cl : BitVec 5)
  /-- TRANSFER_START, R238. -/
  | transferStart (cl : BitVec 5)
  /-- SORT_START, R240. -/
  | sortStart (die : BitVec 2)
  /-- TRANSFER_DONE, R238. -/
  | transferDone (cl : BitVec 5) (x : Nat)
  /-- SORT_DONE, R239. -/
  | sortDone (die : BitVec 2)
  /-- AUDIT_ENTRY_PROCESS, R249. -/
  | auditEntryProcess (cl : BitVec 5)
  /-- DUMP_START, R269. -/
  | dumpStart
  /-- DUMP_COMPLETE, R267. -/
  | dumpComplete
  /-- STAGING_COMPLETE, R46. -/
  | stagingComplete
  /-- INSERTION_SEND, R67. -/
  | insertionSend
  /-- PEER_L_WRITE_ACK, R210. -/
  | peerLWriteAck
  /-- L_WRITE_PERFORM, R205. -/
  | lWritePerform (line : Nat)
  /-- COUNTER_LATCH, R277. -/
  | counterLatch
  /-- PURSE_REFILL, R136. -/
  | purseRefill (core : BitVec 8)
  /-- STEP_COMPLETE, R272. -/
  | stepComplete (core : BitVec 8)
  /-- POWER_ON_RESET, R43. -/
  | powerOnReset
  /-- PERST_ASSERT, R43. -/
  | perstAssert
  /-- BOOTCTL_PKRST, R43. -/
  | bootctlPkrst
  /-- BOOTCTL_STAGE, R46. -/
  | bootctlStage
  /-- MAILBOX_WRITE, R63. -/
  | mailboxWrite (off : BitVec 16) (half : Half) (data : Word)
  /-- BOOTCTL_MAINT, R58. -/
  | bootctlMaint
  /-- MAINT_CLUSTER_MEASURE, R59. -/
  | maintClusterMeasure (cl : BitVec 5) (num den : Nat)
  /-- MAINT_CLUSTER_TIMEOUT, R58. -/
  | maintClusterTimeout (cl : BitVec 5)
  /-- THERMCTL_WRITE, R57. -/
  | thermctlWrite (half : Half) (data : Word)
  /-- THROTTLE_STEP, R56. -/
  | throttleStep (tj : BitVec 8) (watts : Nat)
  /-- THERMAL_TRIP, R57. -/
  | thermalTrip (cl : BitVec 5) (sensor : Bool) (tj : BitVec 8)
  /-- UNCORRECTABLE_STATE_ERROR, R54. -/
  | uncorrectableStateError
  /-- PATROL_SCRUB, R21. -/
  | patrolScrub (pa : Nat)
  /-- DIE_LINK_REPLAY, R19. -/
  | dieLinkReplay (repair : Bool)
  /-- DIE_LINK_FAILURE, R19. -/
  | dieLinkFailure
  /-- GET_VERSION, R50. -/
  | getVersion
  /-- GET_CAPABILITIES, R50. -/
  | getCapabilities
  /-- NEGOTIATE_ALGORITHMS, R50. -/
  | negotiateAlgorithms (rsa3072 sha384 : Bool)
  /-- GET_DIGESTS, R50. -/
  | getDigests
  /-- GET_CERTIFICATE, R51. -/
  | getCertificate (slot : BitVec 3) (off len : BitVec 16)
  /-- CHALLENGE, R51. -/
  | challenge (slot : BitVec 3) (nonce : Nat)
  /-- GET_MEASUREMENTS, R52. -/
  | getMeasurements (index : BitVec 8) (nonce : Nat)
  /-- SPDM_UNSUPPORTED_REQUEST, R50. -/
  | spdmUnsupportedRequest (code : BitVec 8)
  /-- CODEWORD_RECEIVE, R28. -/
  | codewordReceive (port : BitVec 4) (fec : Fec) (f0 f1 f2 f3 : Flit)
  /-- NAK_RECEIVED, R29. -/
  | nakReceived (port : BitVec 4) (ack : BitVec 12)
  /-- CREDIT_FLIT_RECEIVED, R30. -/
  | creditFlitReceived (port : BitVec 4) (incs : BitVec 112)
  /-- CREDIT_RETURN, R30. -/
  | creditReturn (port : BitVec 4)
  /-- FLIT_TRANSMIT, R31. -/
  | flitTransmit (port : BitVec 4)
  /-- PACKET_FORWARD, R34. -/
  | packetForward (p : Packet)
  /-- TIME_STAMP_EXCHANGE, R36. -/
  | timeStampExchange (port : BitVec 4)
  /-- TIME_STAMP_REQUEST, R36. -/
  | timeStampRequest (p : Packet)
  /-- TIME_STAMP_RESPONSE, R36. -/
  | timeStampResponse (p : Packet)
  /-- LINK_DETECT_COMPLETE, R37. -/
  | linkDetectComplete (port : BitVec 4) (lanes : BitVec 8)
  /-- TRAIN_SUCCESS, R37. -/
  | trainSuccess (port : BitVec 4)
  /-- TRAIN_TIMEOUT, R37. -/
  | trainTimeout (port : BitVec 4)
  /-- ALIGN_LOCK, R37. -/
  | alignLock (port : BitVec 4)
  /-- ALIGN_TIMEOUT, R37. -/
  | alignTimeout (port : BitVec 4)
  /-- PARAM_EXCHANGE, R37. -/
  | paramExchange (port : BitVec 4) (peer : BitVec 12) (sizes : BitVec 112)
  /-- RETRAIN_ENTRY, R37. -/
  | retrainEntry (port : BitVec 4)
  /-- RETRAIN_DONE, R38. -/
  | retrainDone (port : BitVec 4) (lanes : BitVec 8)
  /-- LINK_RECOVERY_LIMIT_EXPIRY, R37. -/
  | linkRecoveryLimitExpiry (port : BitVec 4)
  /-- REQUEST_TIMEOUT, R40. -/
  | requestTimeout (tag : BitVec 10)
  /-- FABCTL_DEVID_WRITE, R42. -/
  | fabctlDevidWrite (id : BitVec 12)
  /-- FABCTL_LNKEN_WRITE, R37. -/
  | fabctlLnkenWrite (en : BitVec 16)
  /-- NBCMD_READ, R42. -/
  | nbcmdRead (v : Word)
  /-- NBCMD_WRITE, R42. -/
  | nbcmdWrite (v : Word)
  /-- NBCMD_ANSWER, R42. -/
  | nbcmdAnswer (p : Packet)
  /-- NBCMD_TIMEOUT, R42. -/
  | nbcmdTimeout
  /-- RTACC_SET, R42. -/
  | rtaccSet (v : Word)
  /-- REGISTER_WRITE, R12. -/
  | registerWrite (t : RegBlock) (off : BitVec 16) (half : Half) (data : Word)
  /-- MGT_REGISTER_READ, R62. -/
  | mgtRegisterRead (p : Packet)
  /-- MGT_REGISTER_WRITE, R62. -/
  | mgtRegisterWrite (p : Packet)
  /-- MGT_REGISTER_DATA, R62. -/
  | mgtRegisterData (p : Packet)
  /-- MGT_ACKNOWLEDGE, R62. -/
  | mgtAcknowledge (p : Packet)
  /-- MGT_LINK_EVENT, R42. -/
  | mgtLinkEvent (p : Packet)
  /-- SLOT_MANAGEMENT_ACCESS, R62. -/
  | slotManagementAccess (slot : BitVec 4) (block : RegBlock) (off : BitVec 16) (half : Half) (wr : Option Word)
  /-- MEMORY_WINDOW_READ, R64. -/
  | memoryWindowRead (off : BitVec 15) (half : Half)
  /-- MEMORY_WINDOW_WRITE, R64. -/
  | memoryWindowWrite (off : BitVec 15) (half : Half) (data : Word)
  /-- CXL_MEM_ACCESS, R64. -/
  | cxlMemAccess (pa : Nat) (wr : Option (List Byte)) (len : Nat)
  /-- HOST_INSERTION, R66. -/
  | hostInsertion (slot : BitVec 4) (queue : BitVec 16) (off : BitVec 12) (whole : Bool) (rec : TaskRec)
  /-- QUEUE_INSERTION_ARRIVAL, R69. -/
  | queueInsertionArrival (p : Packet)
  /-- INSERTION_REPORT, R69. -/
  | insertionReport (p : Packet)
  /-- INSERTION_STATUS_READ, R70. -/
  | insertionStatusRead (slot : BitVec 4) (queue : BitVec 16) (off : BitVec 12) (half : Half)
  /-- HOST_READ, R71. -/
  | hostRead (p : Packet)
  /-- HOST_READ_DATA, R71. -/
  | hostReadData (p : Packet)
  /-- HOST_WRITE, R71. -/
  | hostWrite (p : Packet)
  /-- HOST_WRITE_ACK, R209. -/
  | hostWriteAck (p : Packet)
  /-- HOST_ERROR_RESPONSE, R71. -/
  | hostErrorResponse (p : Packet)
  /-- CTXCTL_ALLOC_SET, R73. -/
  | ctxctlAllocSet (c : BitVec 8)
  /-- CTXCTL_ALLOC_CLEAR, R73. -/
  | ctxctlAllocClear (c : BitVec 8)
  /-- CTXCTL_RUN_SET, R73. -/
  | ctxctlRunSet (c : BitVec 8)
  /-- CTXCTL_RUN_CLEAR, R73. -/
  | ctxctlRunClear (c : BitVec 8)
  /-- CTXCTL_RST, R81. -/
  | ctxctlRst (c : BitVec 8)
  /-- TLBINV_WRITE, R89. -/
  | tlbinvWrite (c : BitVec 8) (v : Word)
  /-- TRANSLATION_MISS, R91. -/
  | translationMiss (die : BitVec 2) (c : BitVec 8) (va : Word)
  /-- INVOCATION_CALL, R106. -/
  | invocationCall (p : Packet)
  /-- ARRIVAL_REPORT, R110. -/
  | arrivalReport (p : Packet)
  /-- END_REPORT, R110. -/
  | endReport (p : Packet)
  /-- CALL_LOST, R112. -/
  | callLost (core : BitVec 8) (entry : BitVec 6)
  /-- QCMD_CREATE, R117. -/
  | qcmdCreate (qid : BitVec 16)
  /-- QCMD_MODIFY, R117. -/
  | qcmdModify (qid : BitVec 16)
  /-- QCMD_DELETE, R117. -/
  | qcmdDelete (qid : BitVec 16)
  /-- QCMD_READ, R117. -/
  | qcmdRead (qid : BitVec 16)
  /-- BKCMD_TOC, R175. -/
  | bkcmdToc (i : BankIssuer) (v : Word)
  /-- BKCMD_TOS, R177. -/
  | bkcmdTos (i : BankIssuer) (v : Word)
  /-- BKCMD_HOLD, R175. -/
  | bkcmdHold (i : BankIssuer) (v : Word)
  /-- BKCMD_RELEASE, R175. -/
  | bkcmdRelease (i : BankIssuer) (v : Word)
  /-- BKCMD_SETF, R175. -/
  | bkcmdSetf (i : BankIssuer) (v : Word)
  /-- BKCMD_SETS, R175. -/
  | bkcmdSets (i : BankIssuer) (v : Word)
  /-- BKCMD_READ, R176. -/
  | bkcmdRead (i : BankIssuer) (v : Word)
  /-- ENGINE_FIFO_APPEND, R185. -/
  | engineFifoAppend (cl : BitVec 5) (x : Nat)
  /-- CHAINED_LOAD_ELEMENT, R187. -/
  | chainedLoadElement (h : HartRef)
  /-- SAU_OPERATION, R192. -/
  | sauOperation (o : SauOp)
  /-- SAU_CHAIN_APPLY, R193. -/
  | sauChainApply (line : Nat)
  /-- OWNERSHIP_REQUEST, R197. -/
  | ownershipRequest (core : BitVec 8) (line : Nat)
  /-- INVALIDATION, R198. -/
  | invalidation (core : BitVec 8) (line : Nat) (seq : BitVec 8)
  /-- LINE_FILL, R198. -/
  | lineFill (core : BitVec 8) (line : Nat) (seq : BitVec 8)
  /-- L2_EVICTION, R206. -/
  | l2Eviction (line : Nat)
  /-- LEASE_READ, R203. -/
  | leaseRead (core : BitVec 8) (line : Nat)
  /-- L_WRITE_ARRIVAL, R205. -/
  | lWriteArrival
  /-- MEMORY_READ, R210. -/
  | memoryRead (p : Packet)
  /-- MEMORY_READ_DATA, R202. -/
  | memoryReadData (p : Packet)
  /-- MEMORY_WRITE, R210. -/
  | memoryWrite (p : Packet)
  /-- MEMORY_WRITE_ACK, R210. -/
  | memoryWriteAck (p : Packet)
  /-- MEMORY_ERROR_RESPONSE, R210. -/
  | memoryErrorResponse (p : Packet)
  /-- ATOMIC_REQUEST, R211. -/
  | atomicRequest (p : Packet)
  /-- CXL_SNOOP, R243. -/
  | cxlSnoop (line : Nat)
  /-- ATOMIC_RESPONSE, R211. -/
  | atomicResponse (p : Packet)
  /-- ATOMIC_ERROR_RESPONSE, R211. -/
  | atomicErrorResponse (p : Packet)
  /-- TRANSFER_FAILED, R234. -/
  | transferFailed (e : EngineRef) (x : Nat)
  /-- DBCTL_HALT, R270. -/
  | dbctlHalt (core : BitVec 8)
  /-- DBCTL_RESUME, R270. -/
  | dbctlResume (core : BitVec 8)
  /-- DBCTL_STEP, R272. -/
  | dbctlStep (core : BitVec 8)
  /-- DBCTL_STEPREP, R272. -/
  | dbctlSteprep (core : BitVec 8)
  /-- DBCTL_SNAP, R270. -/
  | dbctlSnap (core : BitVec 8)
  /-- PMTRIG_WRITE, R277. -/
  | pmtrigWrite (t : Word)
  /-- POWER_REMOVAL, R57. -/
  | powerRemoval
  /-- HOST_PORT_COMPLETION, R71. -/
  | hostPortCompletion (tag : BitVec 10) (good : Bool) (data : List Word)
  /-- VADD, R373. -/
  | vadd (b : Body)
  /-- VSUB, R373. -/
  | vsub (b : Body)
  /-- VRSUB, R373. -/
  | vrsub (b : Body)
  /-- VMIN, R373. -/
  | vmin (b : Body)
  /-- VMAX, R373. -/
  | vmax (b : Body)
  /-- VMINU, R373. -/
  | vminu (b : Body)
  /-- VMAXU, R373. -/
  | vmaxu (b : Body)
  /-- VAND, R373. -/
  | vand (b : Body)
  /-- VOR, R373. -/
  | vor (b : Body)
  /-- VXOR, R373. -/
  | vxor (b : Body)
  /-- VSLL, R373. -/
  | vsll (b : Body)
  /-- VSRL, R373. -/
  | vsrl (b : Body)
  /-- VSRA, R373. -/
  | vsra (b : Body)
  /-- VMUL, R373. -/
  | vmul (b : Body)
  /-- VMULH, R373. -/
  | vmulh (b : Body)
  /-- VMULHU, R373. -/
  | vmulhu (b : Body)
  /-- VMULHSU, R373. -/
  | vmulhsu (b : Body)
  /-- VSADD, R373. -/
  | vsadd (b : Body)
  /-- VSADDU, R373. -/
  | vsaddu (b : Body)
  /-- VSSUB, R373. -/
  | vssub (b : Body)
  /-- VSSUBU, R373. -/
  | vssubu (b : Body)
  /-- VAADD, R373. -/
  | vaadd (b : Body)
  /-- VAADDU, R373. -/
  | vaaddu (b : Body)
  /-- VWADD, R374. -/
  | vwadd (b : Body)
  /-- VWADDU, R374. -/
  | vwaddu (b : Body)
  /-- VWMUL, R374. -/
  | vwmul (b : Body)
  /-- VWMULU, R374. -/
  | vwmulu (b : Body)
  /-- VWMULSU, R374. -/
  | vwmulsu (b : Body)
  /-- VWMACC, R374. -/
  | vwmacc (b : Body)
  /-- VWMACCU, R374. -/
  | vwmaccu (b : Body)
  /-- VWMACCSU, R374. -/
  | vwmaccsu (b : Body)
  /-- VNSRL, R375. -/
  | vnsrl (b : Body)
  /-- VNSRA, R375. -/
  | vnsra (b : Body)
  /-- VNCLIP, R375. -/
  | vnclip (b : Body)
  /-- VNCLIPU, R375. -/
  | vnclipu (b : Body)
  /-- VMSEQ, R376. -/
  | vmseq (b : Body)
  /-- VMSNE, R376. -/
  | vmsne (b : Body)
  /-- VMSLT, R376. -/
  | vmslt (b : Body)
  /-- VMSLTU, R376. -/
  | vmsltu (b : Body)
  /-- VMSLE, R376. -/
  | vmsle (b : Body)
  /-- VMSLEU, R376. -/
  | vmsleu (b : Body)
  /-- VMSGT, R376. -/
  | vmsgt (b : Body)
  /-- VMSGTU, R376. -/
  | vmsgtu (b : Body)
  /-- VMERGE, R377. -/
  | vmerge (b : Body)
  /-- VMV, R377. -/
  | vmv (b : Body)
  /-- VID, R378. -/
  | vid (b : Body)
  /-- VROWID, R378. -/
  | vrowid (b : Body)
  /-- VCOLID, R378. -/
  | vcolid (b : Body)
  /-- VFADD, R379. -/
  | vfadd (b : Body)
  /-- VFSUB, R379. -/
  | vfsub (b : Body)
  /-- VFMUL, R379. -/
  | vfmul (b : Body)
  /-- VFMACC, R379. -/
  | vfmacc (b : Body)
  /-- VFNMACC, R379. -/
  | vfnmacc (b : Body)
  /-- VFMSAC, R379. -/
  | vfmsac (b : Body)
  /-- VFNMSAC, R379. -/
  | vfnmsac (b : Body)
  /-- VFMIN, R379. -/
  | vfmin (b : Body)
  /-- VFMAX, R379. -/
  | vfmax (b : Body)
  /-- VFSGNJ, R379. -/
  | vfsgnj (b : Body)
  /-- VFSGNJN, R379. -/
  | vfsgnjn (b : Body)
  /-- VFSGNJX, R379. -/
  | vfsgnjx (b : Body)
  /-- VMFEQ, R380. -/
  | vmfeq (b : Body)
  /-- VMFNE, R380. -/
  | vmfne (b : Body)
  /-- VMFLT, R380. -/
  | vmflt (b : Body)
  /-- VMFLE, R380. -/
  | vmfle (b : Body)
  /-- VMFGT, R380. -/
  | vmfgt (b : Body)
  /-- VFCLASS, R381. -/
  | vfclass (b : Body)
  /-- VFCVT_F_X, R383. -/
  | vfcvtFX (b : Body)
  /-- VFCVT_X_F, R383. -/
  | vfcvtXF (b : Body)
  /-- VFWCVT, R384. -/
  | vfwcvt (b : Body)
  /-- VFNCVT, R383. -/
  | vfncvt (b : Body)
  /-- VLE, R401. -/
  | vle (b : Body)
  /-- VLSE, R401. -/
  | vlse (b : Body)
  /-- VLXE, R401. -/
  | vlxe (b : Body)
  /-- VLSEG, R403. -/
  | vlseg (b : Body)
  /-- VLMX, R404. -/
  | vlmx (b : Body)
  /-- VLW, R405. -/
  | vlw (b : Body)
  /-- VLCX, R408. -/
  | vlcx (b : Body)
  /-- VLEFF, R409. -/
  | vleff (b : Body)
  /-- VGL, R414. -/
  | vgl (b : Body)
  /-- VPOP, R411. -/
  | vpop (b : Body)
  /-- VSE, R401. -/
  | vse (b : Body)
  /-- VSSE, R401. -/
  | vsse (b : Body)
  /-- VSXE, R401. -/
  | vsxe (b : Body)
  /-- VSSEG, R403. -/
  | vsseg (b : Body)
  /-- VSMX, R404. -/
  | vsmx (b : Body)
  /-- VSN, R405. -/
  | vsn (b : Body)
  /-- VSC, R415. -/
  | vsc (b : Body)
  /-- VAMOADD, R417. -/
  | vamoadd (b : Body)
  /-- VAMOAND, R417. -/
  | vamoand (b : Body)
  /-- VAMOOR, R417. -/
  | vamoor (b : Body)
  /-- VAMOXOR, R417. -/
  | vamoxor (b : Body)
  /-- VAMOMIN, R417. -/
  | vamomin (b : Body)
  /-- VAMOMAX, R417. -/
  | vamomax (b : Body)
  /-- VAMOMINU, R417. -/
  | vamominu (b : Body)
  /-- VAMOMAXU, R417. -/
  | vamomaxu (b : Body)
  /-- VAMOSWAP, R417. -/
  | vamoswap (b : Body)
  /-- VAMOFADD, R417. -/
  | vamofadd (b : Body)
  /-- VAMOFMIN, R417. -/
  | vamofmin (b : Body)
  /-- VAMOFMAX, R417. -/
  | vamofmax (b : Body)
  /-- VAMOFXADD, R419. -/
  | vamofxadd (b : Body)
  /-- VSAPP, R412. -/
  | vsapp (b : Body)
  /-- VSLIDEUP, R386. -/
  | vslideup (b : Body)
  /-- VSLIDEDOWN, R386. -/
  | vslidedown (b : Body)
  /-- VRGATHER, R387. -/
  | vrgather (b : Body)
  /-- VPSWAP, R388. -/
  | vpswap (b : Body)
  /-- VTRANS, R389. -/
  | vtrans (b : Body)
  /-- VREDSUM, R390. -/
  | vredsum (b : Body)
  /-- VFREDSUM, R391. -/
  | vfredsum (b : Body)
  /-- VFSUM_BS, R392. -/
  | vfsumBs (b : Body)
  /-- VREDMIN, R390. -/
  | vredmin (b : Body)
  /-- VREDMAX, R390. -/
  | vredmax (b : Body)
  /-- VREDMINU, R390. -/
  | vredminu (b : Body)
  /-- VREDMAXU, R390. -/
  | vredmaxu (b : Body)
  /-- VFREDMIN, R390. -/
  | vfredmin (b : Body)
  /-- VFREDMAX, R390. -/
  | vfredmax (b : Body)
  /-- VMAND, R393. -/
  | vmand (b : Body)
  /-- VMOR, R393. -/
  | vmor (b : Body)
  /-- VMXOR, R393. -/
  | vmxor (b : Body)
  /-- VMNOT, R393. -/
  | vmnot (b : Body)
  /-- VPOPC, R394. -/
  | vpopc (b : Body)
  /-- VFIRST, R394. -/
  | vfirst (b : Body)
  /-- VIOTA, R395. -/
  | viota (b : Body)
  /-- VCOMPRESS, R395. -/
  | vcompress (b : Body)
  /-- VMV_X_S, R396. -/
  | vmvXS (b : Body)
  /-- VMV_S_X, R396. -/
  | vmvSX (b : Body)
  /-- TZERO, R430. -/
  | tzero (b : Body)
  /-- TMAC, R432. -/
  | tmac (b : Body)
  /-- TOPA, R433. -/
  | topa (b : Body)
  /-- TREAD, R435. -/
  | tread (b : Body)
  /-- TWRITE, R435. -/
  | twrite (b : Body)
  /-- TDRAIN, R436. -/
  | tdrain (b : Body)
  /-- VSIN, R439. -/
  | vsin (b : Body)
  /-- VCOS, R439. -/
  | vcos (b : Body)
  /-- VEXP2, R439. -/
  | vexp2 (b : Body)
  /-- VLOG2, R439. -/
  | vlog2 (b : Body)
  /-- VRCP, R439. -/
  | vrcp (b : Body)
  /-- VRSQRT, R439. -/
  | vrsqrt (b : Body)
  /-- VSQRT, R439. -/
  | vsqrt (b : Body)
  /-- VDIV, R439. -/
  | vdiv (b : Body)
  /-- VTEX, R444. -/
  | vtex (b : Body)
  /-- VRAYBOX, R445. -/
  | vraybox (b : Body)
  /-- VRAYTRI, R446. -/
  | vraytri (b : Body)
  /-- VCOVER, R442. -/
  | vcover (b : Body)
  deriving DecidableEq, Repr

end Sys2Proof
end

