-- ==== Sys2Proof/Decode.lean ====
section
/-!
DEFINITION. Instruction decoding and encoding: the framing of 12 R311 to R316, the opcode map of Tables 12.3 and 12.4, the
convoy header and vector body of Tables 12.5 and 12.6, and the operation codes of Tables 12.8 to 12.14. Decoding is total:
what is no instruction is rejected by name.
-/
namespace Sys2Proof

/-- Why a word is no instruction. -/
inductive Reject where
  /-- fewer bytes than one parcel -/
  | short
  /-- bits [1:0] are not 0b11, or a mark of 48 bits or more (12 Table 12.1) -/
  | lengthMark
  /-- a vector body met as a start (12 R312) -/
  | orphanBody
  /-- a major opcode that 12 Table 12.3 refuses -/
  | reservedOpcode
  /-- an encoding that its opcode leaves unassigned (12 R318 to R320) -/
  | reservedEncoding
  deriving DecidableEq, Repr

/-- Bits [lo + n - 1 : lo] of a word (00 R5). -/
def field {m : Nat} (w : BitVec m) (lo n : Nat) : BitVec n := w.extractLsb' lo n

/-- The number of little-endian bytes (00 R6). -/
def leNat : List Byte → Nat
  | [] => 0
  | b :: bs => b.toNat + 256 * leNat bs

/-- `n` little-endian bytes of a number (00 R6). -/
def leBytes : Nat → Nat → List Byte
  | 0, _ => []
  | n + 1, v => BitVec.ofNat 8 v :: leBytes n (v / 256)

/-- The fields of a vector body (12 Table 12.6). -/
def bodyOf (w : Word) : Body :=
  { mod := field w 52 12, grp := field w 38 2, ty := field w 32 6, pol := field w 31 1 = 1#1, men := field w 30 1 = 1#1
    msk := field w 27 3, vs3 := field w 22 5, vs2 := field w 17 5, vs1 := field w 12 5, vd := field w 7 5 }

/-- The class nibble and funct8 of a vector body (12 Table 12.6). -/
def bodyOp (w : Word) : BitVec 4 × BitVec 8 := (field w 48 4, field w 40 8)

/-- The class, funct8 and fields of a vector instruction (12 Tables 12.8 to 12.14); none for every other row. -/
def memberCode : Instr → Option (BitVec 4 × BitVec 8 × Body)
  | .vadd b => some (0, 0, b)
  | .vsub b => some (0, 1, b)
  | .vrsub b => some (0, 2, b)
  | .vmin b => some (0, 3, b)
  | .vmax b => some (0, 4, b)
  | .vminu b => some (0, 5, b)
  | .vmaxu b => some (0, 6, b)
  | .vand b => some (0, 7, b)
  | .vor b => some (0, 8, b)
  | .vxor b => some (0, 9, b)
  | .vsll b => some (0, 10, b)
  | .vsrl b => some (0, 11, b)
  | .vsra b => some (0, 12, b)
  | .vmul b => some (0, 13, b)
  | .vmulh b => some (0, 14, b)
  | .vmulhu b => some (0, 15, b)
  | .vmulhsu b => some (0, 16, b)
  | .vsadd b => some (0, 17, b)
  | .vsaddu b => some (0, 18, b)
  | .vssub b => some (0, 19, b)
  | .vssubu b => some (0, 20, b)
  | .vaadd b => some (0, 21, b)
  | .vaaddu b => some (0, 22, b)
  | .vwadd b => some (0, 23, b)
  | .vwaddu b => some (0, 24, b)
  | .vwmul b => some (0, 25, b)
  | .vwmulu b => some (0, 26, b)
  | .vwmulsu b => some (0, 27, b)
  | .vwmacc b => some (0, 28, b)
  | .vwmaccu b => some (0, 29, b)
  | .vwmaccsu b => some (0, 30, b)
  | .vnsrl b => some (0, 31, b)
  | .vnsra b => some (0, 32, b)
  | .vnclip b => some (0, 33, b)
  | .vnclipu b => some (0, 34, b)
  | .vmseq b => some (0, 35, b)
  | .vmsne b => some (0, 36, b)
  | .vmslt b => some (0, 37, b)
  | .vmsltu b => some (0, 38, b)
  | .vmsle b => some (0, 39, b)
  | .vmsleu b => some (0, 40, b)
  | .vmsgt b => some (0, 41, b)
  | .vmsgtu b => some (0, 42, b)
  | .vmerge b => some (0, 43, b)
  | .vmv b => some (0, 44, b)
  | .vid b => some (0, 45, b)
  | .vrowid b => some (0, 46, b)
  | .vcolid b => some (0, 47, b)
  | .vfadd b => some (1, 0, b)
  | .vfsub b => some (1, 1, b)
  | .vfmul b => some (1, 2, b)
  | .vfmacc b => some (1, 3, b)
  | .vfnmacc b => some (1, 4, b)
  | .vfmsac b => some (1, 5, b)
  | .vfnmsac b => some (1, 6, b)
  | .vfmin b => some (1, 7, b)
  | .vfmax b => some (1, 8, b)
  | .vfsgnj b => some (1, 9, b)
  | .vfsgnjn b => some (1, 10, b)
  | .vfsgnjx b => some (1, 11, b)
  | .vmfeq b => some (1, 12, b)
  | .vmfne b => some (1, 13, b)
  | .vmflt b => some (1, 14, b)
  | .vmfle b => some (1, 15, b)
  | .vmfgt b => some (1, 16, b)
  | .vfclass b => some (1, 17, b)
  | .vfcvtFX b => some (1, 18, b)
  | .vfcvtXF b => some (1, 19, b)
  | .vfwcvt b => some (1, 20, b)
  | .vfncvt b => some (1, 21, b)
  | .vle b => some (2, 0, b)
  | .vlse b => some (2, 1, b)
  | .vlxe b => some (2, 2, b)
  | .vlseg b => some (2, 3, b)
  | .vlmx b => some (2, 4, b)
  | .vlw b => some (2, 5, b)
  | .vlcx b => some (2, 6, b)
  | .vleff b => some (2, 7, b)
  | .vgl b => some (2, 8, b)
  | .vpop b => some (2, 9, b)
  | .vse b => some (3, 0, b)
  | .vsse b => some (3, 1, b)
  | .vsxe b => some (3, 2, b)
  | .vsseg b => some (3, 3, b)
  | .vsmx b => some (3, 4, b)
  | .vsn b => some (3, 5, b)
  | .vsc b => some (3, 6, b)
  | .vamoadd b => some (3, 7, b)
  | .vamoand b => some (3, 8, b)
  | .vamoor b => some (3, 9, b)
  | .vamoxor b => some (3, 10, b)
  | .vamomin b => some (3, 11, b)
  | .vamomax b => some (3, 12, b)
  | .vamominu b => some (3, 13, b)
  | .vamomaxu b => some (3, 14, b)
  | .vamoswap b => some (3, 15, b)
  | .vamofadd b => some (3, 16, b)
  | .vamofmin b => some (3, 17, b)
  | .vamofmax b => some (3, 18, b)
  | .vamofxadd b => some (3, 19, b)
  | .vsapp b => some (3, 20, b)
  | .vslideup b => some (4, 0, b)
  | .vslidedown b => some (4, 1, b)
  | .vrgather b => some (4, 2, b)
  | .vpswap b => some (4, 3, b)
  | .vtrans b => some (4, 4, b)
  | .vredsum b => some (4, 5, b)
  | .vfredsum b => some (4, 6, b)
  | .vfsumBs b => some (4, 7, b)
  | .vredmin b => some (4, 8, b)
  | .vredmax b => some (4, 9, b)
  | .vredminu b => some (4, 10, b)
  | .vredmaxu b => some (4, 11, b)
  | .vfredmin b => some (4, 12, b)
  | .vfredmax b => some (4, 13, b)
  | .vmand b => some (4, 14, b)
  | .vmor b => some (4, 15, b)
  | .vmxor b => some (4, 16, b)
  | .vmnot b => some (4, 17, b)
  | .vpopc b => some (4, 18, b)
  | .vfirst b => some (4, 19, b)
  | .viota b => some (4, 20, b)
  | .vcompress b => some (4, 21, b)
  | .vmvXS b => some (4, 22, b)
  | .vmvSX b => some (4, 23, b)
  | .tzero b => some (5, 0, b)
  | .tmac b => some (5, 1, b)
  | .topa b => some (5, 2, b)
  | .tread b => some (5, 3, b)
  | .twrite b => some (5, 4, b)
  | .tdrain b => some (5, 5, b)
  | .vsin b => some (6, 0, b)
  | .vcos b => some (6, 1, b)
  | .vexp2 b => some (6, 2, b)
  | .vlog2 b => some (6, 3, b)
  | .vrcp b => some (6, 4, b)
  | .vrsqrt b => some (6, 5, b)
  | .vsqrt b => some (6, 6, b)
  | .vdiv b => some (6, 7, b)
  | .vtex b => some (6, 8, b)
  | .vraybox b => some (6, 9, b)
  | .vraytri b => some (6, 10, b)
  | .vcover b => some (6, 11, b)
  | _ => none

/-- The 64 bits of a vector body (12 Table 12.6). -/
def encodeBody (cls : BitVec 4) (f : BitVec 8) (b : Body) : Word :=
  b.mod ++ cls ++ f ++ b.grp ++ b.ty ++ BitVec.ofBool b.pol ++ BitVec.ofBool b.men ++ b.msk ++ b.vs3 ++ b.vs2 ++ b.vs1
    ++ b.vd ++ 0x3F#7

/-- A body with its mark, class, funct8 and fields is the encoding of a vector instruction. -/
def encodesMember (w : Word) (i : Instr) : Bool :=
  field w 0 7 = 0x3F#7 ∧ memberCode i = some ((bodyOp w).1, (bodyOp w).2, bodyOf w)

/-- Header of a lone convoy of a class with sync and nochain 0 (12 R321, R334). -/
def loneHeader (cls : BitVec 4) : BitVec 32 := 0#19 ++ field cls 0 3 ++ 1#3 ++ 0x2B#7

/-- Members a header announces: its count, or 0 where the count is 0 or 7 (12 R313). -/
def headerCount (w : BitVec 32) : Nat :=
  if (field w 7 3).toNat = 7 then 0 else (field w 7 3).toNat

/-- Immediate and register fields of the base formats (12 Table 12.2). -/
def rdOf (w : BitVec 32) : Reg := field w 7 5
/-- rs1 (12 Table 12.2). -/
def rs1Of (w : BitVec 32) : Reg := field w 15 5
/-- rs2 (12 Table 12.2). -/
def rs2Of (w : BitVec 32) : Reg := field w 20 5
/-- funct3 (12 Table 12.2). -/
def f3Of (w : BitVec 32) : BitVec 3 := field w 12 3
/-- funct7 (12 Table 12.2). -/
def f7Of (w : BitVec 32) : BitVec 7 := field w 25 7
/-- The I-format immediate, imm[11:0]. -/
def immI (w : BitVec 32) : BitVec 12 := field w 20 12
/-- The S-format immediate, imm[11:0]. -/
def immS (w : BitVec 32) : BitVec 12 := field w 25 7 ++ field w 7 5
/-- The B-format immediate, imm[12:1]. -/
def immB (w : BitVec 32) : BitVec 12 := field w 31 1 ++ field w 7 1 ++ field w 25 6 ++ field w 8 4
/-- The U-format immediate, imm[31:12]. -/
def immU (w : BitVec 32) : BitVec 20 := field w 12 20
/-- The J-format immediate, imm[20:1]. -/
def immJ (w : BitVec 32) : BitVec 20 := field w 31 1 ++ field w 12 8 ++ field w 20 1 ++ field w 21 10

/-- Major opcode LOAD (13 Table 13.1). -/
def decodeLoad (w : BitVec 32) : Except Reject Instr :=
  match f3Of w with
  | 0#3 => .ok (.lb (rdOf w) (rs1Of w) (immI w))
  | 1#3 => .ok (.lh (rdOf w) (rs1Of w) (immI w))
  | 2#3 => .ok (.lw (rdOf w) (rs1Of w) (immI w))
  | 3#3 => .ok (.ld (rdOf w) (rs1Of w) (immI w))
  | 4#3 => .ok (.lbu (rdOf w) (rs1Of w) (immI w))
  | 5#3 => .ok (.lhu (rdOf w) (rs1Of w) (immI w))
  | 6#3 => .ok (.lwu (rdOf w) (rs1Of w) (immI w))
  | _ => .error .reservedEncoding

/-- Major opcode STORE (13 Table 13.1). -/
def decodeStore (w : BitVec 32) : Except Reject Instr :=
  match f3Of w with
  | 0#3 => .ok (.sb (rs1Of w) (rs2Of w) (immS w))
  | 1#3 => .ok (.sh (rs1Of w) (rs2Of w) (immS w))
  | 2#3 => .ok (.sw (rs1Of w) (rs2Of w) (immS w))
  | 3#3 => .ok (.sd (rs1Of w) (rs2Of w) (immS w))
  | _ => .error .reservedEncoding

/-- Major opcode BRANCH (13 Table 13.1). -/
def decodeBranch (w : BitVec 32) : Except Reject Instr :=
  match f3Of w with
  | 0#3 => .ok (.beq (rs1Of w) (rs2Of w) (immB w))
  | 1#3 => .ok (.bne (rs1Of w) (rs2Of w) (immB w))
  | 4#3 => .ok (.blt (rs1Of w) (rs2Of w) (immB w))
  | 5#3 => .ok (.bge (rs1Of w) (rs2Of w) (immB w))
  | 6#3 => .ok (.bltu (rs1Of w) (rs2Of w) (immB w))
  | 7#3 => .ok (.bgeu (rs1Of w) (rs2Of w) (immB w))
  | _ => .error .reservedEncoding

/-- Major opcode OP-IMM (13 Table 13.1). -/
def decodeOpImm (w : BitVec 32) : Except Reject Instr :=
  match f3Of w with
  | 0#3 => .ok (.addi (rdOf w) (rs1Of w) (immI w))
  | 1#3 => if field w 26 6 = 0#6 then .ok (.slli (rdOf w) (rs1Of w) (field w 20 6)) else .error .reservedEncoding
  | 2#3 => .ok (.slti (rdOf w) (rs1Of w) (immI w))
  | 3#3 => .ok (.sltiu (rdOf w) (rs1Of w) (immI w))
  | 4#3 => .ok (.xori (rdOf w) (rs1Of w) (immI w))
  | 5#3 =>
    match field w 26 6 with
    | 0#6 => .ok (.srli (rdOf w) (rs1Of w) (field w 20 6))
    | 16#6 => .ok (.srai (rdOf w) (rs1Of w) (field w 20 6))
    | _ => .error .reservedEncoding
  | 6#3 => .ok (.ori (rdOf w) (rs1Of w) (immI w))
  | _ => .ok (.andi (rdOf w) (rs1Of w) (immI w))

/-- Major opcode OP-IMM-32 (13 Table 13.1). -/
def decodeOpImm32 (w : BitVec 32) : Except Reject Instr :=
  match f3Of w, f7Of w with
  | 0#3, _ => .ok (.addiw (rdOf w) (rs1Of w) (immI w))
  | 1#3, 0#7 => .ok (.slliw (rdOf w) (rs1Of w) (rs2Of w))
  | 5#3, 0#7 => .ok (.srliw (rdOf w) (rs1Of w) (rs2Of w))
  | 5#3, 32#7 => .ok (.sraiw (rdOf w) (rs1Of w) (rs2Of w))
  | _, _ => .error .reservedEncoding

/-- Major opcode OP (13 Table 13.1). -/
def decodeOp (w : BitVec 32) : Except Reject Instr :=
  match f7Of w, f3Of w with
  | 0#7, 0#3 => .ok (.add (rdOf w) (rs1Of w) (rs2Of w))
  | 32#7, 0#3 => .ok (.sub (rdOf w) (rs1Of w) (rs2Of w))
  | 0#7, 1#3 => .ok (.sll (rdOf w) (rs1Of w) (rs2Of w))
  | 0#7, 2#3 => .ok (.slt (rdOf w) (rs1Of w) (rs2Of w))
  | 0#7, 3#3 => .ok (.sltu (rdOf w) (rs1Of w) (rs2Of w))
  | 0#7, 4#3 => .ok (.xorr (rdOf w) (rs1Of w) (rs2Of w))
  | 0#7, 5#3 => .ok (.srl (rdOf w) (rs1Of w) (rs2Of w))
  | 32#7, 5#3 => .ok (.sra (rdOf w) (rs1Of w) (rs2Of w))
  | 0#7, 6#3 => .ok (.orr (rdOf w) (rs1Of w) (rs2Of w))
  | 0#7, 7#3 => .ok (.andd (rdOf w) (rs1Of w) (rs2Of w))
  | 1#7, 0#3 => .ok (.mul (rdOf w) (rs1Of w) (rs2Of w))
  | 1#7, 1#3 => .ok (.mulh (rdOf w) (rs1Of w) (rs2Of w))
  | 1#7, 2#3 => .ok (.mulhsu (rdOf w) (rs1Of w) (rs2Of w))
  | 1#7, 3#3 => .ok (.mulhu (rdOf w) (rs1Of w) (rs2Of w))
  | 1#7, 4#3 => .ok (.div (rdOf w) (rs1Of w) (rs2Of w))
  | 1#7, 5#3 => .ok (.divu (rdOf w) (rs1Of w) (rs2Of w))
  | 1#7, 6#3 => .ok (.rem (rdOf w) (rs1Of w) (rs2Of w))
  | 1#7, 7#3 => .ok (.remu (rdOf w) (rs1Of w) (rs2Of w))
  | _, _ => .error .reservedEncoding

/-- Major opcode OP-32 (13 Table 13.1). -/
def decodeOp32 (w : BitVec 32) : Except Reject Instr :=
  match f7Of w, f3Of w with
  | 0#7, 0#3 => .ok (.addw (rdOf w) (rs1Of w) (rs2Of w))
  | 32#7, 0#3 => .ok (.subw (rdOf w) (rs1Of w) (rs2Of w))
  | 0#7, 1#3 => .ok (.sllw (rdOf w) (rs1Of w) (rs2Of w))
  | 0#7, 5#3 => .ok (.srlw (rdOf w) (rs1Of w) (rs2Of w))
  | 32#7, 5#3 => .ok (.sraw (rdOf w) (rs1Of w) (rs2Of w))
  | 1#7, 0#3 => .ok (.mulw (rdOf w) (rs1Of w) (rs2Of w))
  | 1#7, 4#3 => .ok (.divw (rdOf w) (rs1Of w) (rs2Of w))
  | 1#7, 5#3 => .ok (.divuw (rdOf w) (rs1Of w) (rs2Of w))
  | 1#7, 6#3 => .ok (.remw (rdOf w) (rs1Of w) (rs2Of w))
  | 1#7, 7#3 => .ok (.remuw (rdOf w) (rs1Of w) (rs2Of w))
  | _, _ => .error .reservedEncoding

/-- One width of major opcode AMO (13 R344); the order of funct5 is that of the RV64A encoding. -/
def decodeAmoOp (w : BitVec 32) (dbl : Bool) : Except Reject Instr :=
  let a : AmoBits := { dbl := dbl, aq := field w 26 1 = 1#1, rl := field w 25 1 = 1#1 }
  match field w 27 5 with
  | 0#5 => .ok (.amoadd (rdOf w) (rs1Of w) (rs2Of w) a)
  | 1#5 => .ok (.amoswap (rdOf w) (rs1Of w) (rs2Of w) a)
  | 2#5 => if rs2Of w = 0#5 then .ok (.lr (rdOf w) (rs1Of w) a) else .error .reservedEncoding
  | 3#5 => .ok (.sc (rdOf w) (rs1Of w) (rs2Of w) a)
  | 4#5 => .ok (.amoxor (rdOf w) (rs1Of w) (rs2Of w) a)
  | 8#5 => .ok (.amoor (rdOf w) (rs1Of w) (rs2Of w) a)
  | 12#5 => .ok (.amoand (rdOf w) (rs1Of w) (rs2Of w) a)
  | 16#5 => .ok (.amomin (rdOf w) (rs1Of w) (rs2Of w) a)
  | 20#5 => .ok (.amomax (rdOf w) (rs1Of w) (rs2Of w) a)
  | 24#5 => .ok (.amominu (rdOf w) (rs1Of w) (rs2Of w) a)
  | 28#5 => .ok (.amomaxu (rdOf w) (rs1Of w) (rs2Of w) a)
  | _ => .error .reservedEncoding

/-- Major opcode AMO. -/
def decodeAmo (w : BitVec 32) : Except Reject Instr :=
  match f3Of w with
  | 2#3 => decodeAmoOp w false
  | 3#3 => decodeAmoOp w true
  | _ => .error .reservedEncoding

/-- Major opcode MISC-MEM (13 R345). -/
def decodeMiscMem (w : BitVec 32) : Except Reject Instr :=
  match f3Of w with
  | 0#3 =>
    if w = 0x0100000F#32 then .ok .pause
    else if field w 20 12 = 0x833#12 then .ok (.fenceTso (rdOf w) (rs1Of w))
    else .ok (.fence (rdOf w) (rs1Of w) (field w 28 4) (field w 24 4) (field w 20 4))
  | 1#3 => .ok (.fenceI (rdOf w) (rs1Of w) (immI w))
  | _ => .error .reservedEncoding

/-- Major opcode SYSTEM (13 R346, R347). -/
def decodeSystem (w : BitVec 32) : Except Reject Instr :=
  match f3Of w with
  | 0#3 => if w = 0x00000073#32 then .ok .ecall else if w = 0x00100073#32 then .ok .ebreak else .error .reservedEncoding
  | 1#3 => .ok (.csrrw (rdOf w) (rs1Of w) (immI w))
  | 2#3 => .ok (.csrrs (rdOf w) (rs1Of w) (immI w))
  | 3#3 => .ok (.csrrc (rdOf w) (rs1Of w) (immI w))
  | 5#3 => .ok (.csrrwi (rdOf w) (rs1Of w) (immI w))
  | 6#3 => .ok (.csrrsi (rdOf w) (rs1Of w) (immI w))
  | 7#3 => .ok (.csrrci (rdOf w) (rs1Of w) (immI w))
  | _ => .error .reservedEncoding

/-- `i` where every condition of 12 R320 on its unused fields holds. -/
def okIf (c : Bool) (i : Instr) : Except Reject Instr := if c then .ok i else .error .reservedEncoding

/-- The SYNC group: op [31:29], scope [28:26], [25] = 0 (12 Table 12.4, R320). -/
def decodeSync (w : BitVec 32) : Except Reject Instr :=
  let rd := rdOf w
  let rs1 := rs1Of w
  let rs2 := rs2Of w
  let scope : BitVec 3 := field w 26 3
  if field w 25 1 = 1#1 ∨ 6 ≤ scope.toNat then .error .reservedEncoding
  else
    match field w 29 3 with
    | 0#3 => okIf (rs1 = 0 ∧ rs2 = 0) (.fenceScoped rd scope)
    | 1#3 => okIf (rd = 0 ∧ rs1 = 0 ∧ rs2 = 0) (.fenceAcq scope)
    | 2#3 => okIf (rs1 = 0 ∧ rs2 = 0) (.fenceRel rd scope)
    | 3#3 => okIf (scope = 0 ∧ rd = 0 ∧ rs2 = 0) (.viswait rs1)
    | 4#3 => okIf (scope = 0 ∧ rs2 = 0) (.tkget rd rs1)
    | 5#3 => okIf (scope = 0 ∧ rd = 0) (.tkwait rs1 rs2)
    | 6#3 => okIf (scope = 0 ∧ rd = 0 ∧ rs2 = 0) (.tkdone rs1)
    | _ => okIf (scope = 0) (.stv rd rs1 rs2)

/-- The Galmus scalar groups of major opcode 0b0001011 (12 Table 12.4, R320). -/
def decodeGalmus (w : BitVec 32) : Except Reject Instr :=
  let rd := rdOf w
  let rs1 := rs1Of w
  let rs2 := rs2Of w
  match f3Of w with
  | 0#3 =>
    match field w 30 2 with
    | 0#2 => okIf (rs2 = 0) (.vsetvl rd rs1 (field w 27 3) (field w 25 2))
    | 1#2 => okIf (rs2 = 0) (.vsetvlB rd rs1 (field w 27 3) (field w 25 2))
    | 2#2 => .ok (.vsetshape rd rs1 rs2 (field w 27 3) (field w 25 2))
    | _ => .ok (.vsetshapeB rd rs1 rs2 (field w 27 3) (field w 25 2))
  | 1#3 =>
    match f7Of w with
    | 0#7 => .ok (.tshape rd rs1 rs2)
    | 1#7 => okIf (rd = 0 ∧ rs2 = 0) (.tfree rs1)
    | 2#7 => .ok (.ctload rd rs1 rs2)
    | _ => .error .reservedEncoding
  | 2#3 =>
    match f7Of w with
    | 0#7 => .ok (.tqpush rd rs1 rs2)
    | 1#7 => .ok (.tqpushP rd rs1 rs2)
    | 2#7 => okIf (rd = 0 ∧ rs1 = 0 ∧ rs2 = 0) .texit
    | 3#7 => okIf (rd = 0 ∧ rs1 = 0 ∧ rs2 = 0) .gbar
    | 4#7 => okIf (rd = 0 ∧ rs1 = 0 ∧ rs2 = 0) .tyield
    | 5#7 => .ok (.xcall rd rs1 rs2)
    | _ => .error .reservedEncoding
  | 3#3 => decodeSync w
  | 4#3 =>
    match f7Of w with
    | 0#7 => .ok (.sxfer rd rs1 rs2)
    | 1#7 => .ok (.sort rd rs1 rs2)
    | 2#7 => okIf (rs2 = 0) (.estat rd rs1)
    | 3#7 => okIf (rs2 = 0) (.ecancel rd rs1)
    | _ => .error .reservedEncoding
  | 5#3 =>
    match f7Of w with
    | 0#7 => okIf (rd = 0 ∧ rs1 = 0 ∧ rs2 = 0) .tret
    | 1#7 => .ok (.hwait rd rs1 rs2)
    | 2#7 => okIf (rd = 0) (.sfenceT rs1 rs2)
    | 3#7 => okIf (rd = 0 ∧ rs1 = 0 ∧ rs2 = 0) .uiret
    | 4#7 => okIf (rd = 0 ∧ rs2 = 0) (.ctrig rs1)
    | 5#7 => okIf (rd = 0 ∧ rs2 = 0) (.tmark rs1)
    | _ => .error .reservedEncoding
  | _ => .error .reservedEncoding

/-- A 32-bit parcel that is no convoy header, by its major opcode (12 Tables 12.1 and 12.3). -/
def decodeWord (w : BitVec 32) : Except Reject Instr :=
  match field w 0 7 with
  | 0x03#7 => decodeLoad w
  | 0x0B#7 => decodeGalmus w
  | 0x0F#7 => decodeMiscMem w
  | 0x13#7 => decodeOpImm w
  | 0x17#7 => .ok (.auipc (rdOf w) (immU w))
  | 0x1B#7 => decodeOpImm32 w
  | 0x23#7 => decodeStore w
  | 0x2F#7 => decodeAmo w
  | 0x33#7 => decodeOp w
  | 0x37#7 => .ok (.lui (rdOf w) (immU w))
  | 0x3B#7 => decodeOp32 w
  | 0x3F#7 => .error .orphanBody
  | 0x63#7 => decodeBranch w
  | 0x67#7 => if f3Of w = 0#3 then .ok (.jalr (rdOf w) (rs1Of w) (immI w)) else .error .reservedEncoding
  | 0x6F#7 => .ok (.jal (rdOf w) (immJ w))
  | 0x73#7 => decodeSystem w
  | o => if field o 0 2 = 3#2 ∧ o ≠ 0x1F#7 ∧ o ≠ 0x5F#7 ∧ o ≠ 0x7F#7 then .error .reservedOpcode else .error .lengthMark

/-- Take `n` 64-bit bodies from bytes; none when there are too few (12 R313). -/
def takeBodies : Nat → List Byte → Option (List Word × List Byte)
  | 0, bs => some ([], bs)
  | n + 1, b0 :: b1 :: b2 :: b3 :: b4 :: b5 :: b6 :: b7 :: bs =>
    match takeBodies n bs with
    | some (ws, rest) => some ((b7 ++ b6 ++ b5 ++ b4 ++ b3 ++ b2 ++ b1 ++ b0) :: ws, rest)
    | none => none
  | _ + 1, _ => none

/-- The instruction at the front of a byte string, and the bytes after it (12 R312, R313). A header with a count of 0 or
7, or whose bodies run past the bytes, is the convoy with no body, which 12 R325 makes illegal. -/
def decode (bs : List Byte) : Except Reject (Instr × List Byte) :=
  match bs with
  | b0 :: b1 :: b2 :: b3 :: rest =>
    let w : BitVec 32 := b3 ++ b2 ++ b1 ++ b0
    if field w 0 7 = 0x2B#7 then
      match takeBodies (headerCount w) rest with
      | some (ws, rest') => .ok (Instr.convoy w ws, rest')
      | none => .ok (.convoy w [], rest)
    else
      match decodeWord w with
      | .ok i => .ok (i, rest)
      | .error e => .error e
  | _ => .error .short

/-! ### The encoder -/

/-- R format (12 Table 12.2). -/
def encR (f7 : BitVec 7) (rs2 rs1 : Reg) (f3 : BitVec 3) (rd : Reg) (op : BitVec 7) : BitVec 32 :=
  f7 ++ rs2 ++ rs1 ++ f3 ++ rd ++ op
/-- I format. -/
def encI (imm : BitVec 12) (rs1 : Reg) (f3 : BitVec 3) (rd : Reg) (op : BitVec 7) : BitVec 32 :=
  imm ++ rs1 ++ f3 ++ rd ++ op
/-- S format. -/
def encS (imm : BitVec 12) (rs2 rs1 : Reg) (f3 : BitVec 3) (op : BitVec 7) : BitVec 32 :=
  field imm 5 7 ++ rs2 ++ rs1 ++ f3 ++ field imm 0 5 ++ op
/-- B format; `imm` is imm[12:1]. -/
def encB (imm : BitVec 12) (rs2 rs1 : Reg) (f3 : BitVec 3) (op : BitVec 7) : BitVec 32 :=
  field imm 11 1 ++ field imm 4 6 ++ rs2 ++ rs1 ++ f3 ++ field imm 0 4 ++ field imm 10 1 ++ op
/-- U format. -/
def encU (imm : BitVec 20) (rd : Reg) (op : BitVec 7) : BitVec 32 := imm ++ rd ++ op
/-- J format; `imm` is imm[20:1]. -/
def encJ (imm : BitVec 20) (rd : Reg) (op : BitVec 7) : BitVec 32 :=
  field imm 19 1 ++ field imm 0 10 ++ field imm 10 1 ++ field imm 11 8 ++ rd ++ op
/-- RV64A format. -/
def encA (f5 : BitVec 5) (a : AmoBits) (rs2 rs1 rd : Reg) : BitVec 32 :=
  f5 ++ BitVec.ofBool a.aq ++ BitVec.ofBool a.rl ++ rs2 ++ rs1 ++ (if a.dbl then 3#3 else 2#3) ++ rd ++ 0x2F#7
/-- A VCFG instruction: op, eew, grp in funct7 (12 Table 12.4). -/
def encV (op : BitVec 2) (eew : BitVec 3) (grp : BitVec 2) (rs2 rs1 rd : Reg) : BitVec 32 :=
  op ++ eew ++ grp ++ rs2 ++ rs1 ++ 0#3 ++ rd ++ 0x0B#7
/-- A SYNC instruction: op, scope and a 0 in funct7 (12 Table 12.4). -/
def encY (op scope : BitVec 3) (rs2 rs1 rd : Reg) : BitVec 32 :=
  op ++ scope ++ 0#1 ++ rs2 ++ rs1 ++ 3#3 ++ rd ++ 0x0B#7

/-- The word of a scalar instruction; none for a convoy, a vector member and every row of the package. -/
def encodeScalar : Instr → Option (BitVec 32)
  | .lui rd imm => some (encU imm rd 0x37)
  | .auipc rd imm => some (encU imm rd 0x17)
  | .jal rd imm => some (encJ imm rd 0x6F)
  | .jalr rd rs1 imm => some (encI imm rs1 0 rd 0x67)
  | .beq rs1 rs2 imm => some (encB imm rs2 rs1 0 0x63)
  | .bne rs1 rs2 imm => some (encB imm rs2 rs1 1 0x63)
  | .blt rs1 rs2 imm => some (encB imm rs2 rs1 4 0x63)
  | .bge rs1 rs2 imm => some (encB imm rs2 rs1 5 0x63)
  | .bltu rs1 rs2 imm => some (encB imm rs2 rs1 6 0x63)
  | .bgeu rs1 rs2 imm => some (encB imm rs2 rs1 7 0x63)
  | .lb rd rs1 imm => some (encI imm rs1 0 rd 0x03)
  | .lh rd rs1 imm => some (encI imm rs1 1 rd 0x03)
  | .lw rd rs1 imm => some (encI imm rs1 2 rd 0x03)
  | .ld rd rs1 imm => some (encI imm rs1 3 rd 0x03)
  | .lbu rd rs1 imm => some (encI imm rs1 4 rd 0x03)
  | .lhu rd rs1 imm => some (encI imm rs1 5 rd 0x03)
  | .lwu rd rs1 imm => some (encI imm rs1 6 rd 0x03)
  | .sb rs1 rs2 imm => some (encS imm rs2 rs1 0 0x23)
  | .sh rs1 rs2 imm => some (encS imm rs2 rs1 1 0x23)
  | .sw rs1 rs2 imm => some (encS imm rs2 rs1 2 0x23)
  | .sd rs1 rs2 imm => some (encS imm rs2 rs1 3 0x23)
  | .addi rd rs1 imm => some (encI imm rs1 0 rd 0x13)
  | .slti rd rs1 imm => some (encI imm rs1 2 rd 0x13)
  | .sltiu rd rs1 imm => some (encI imm rs1 3 rd 0x13)
  | .xori rd rs1 imm => some (encI imm rs1 4 rd 0x13)
  | .ori rd rs1 imm => some (encI imm rs1 6 rd 0x13)
  | .andi rd rs1 imm => some (encI imm rs1 7 rd 0x13)
  | .slli rd rs1 sh => some (encI (0#6 ++ sh) rs1 1 rd 0x13)
  | .srli rd rs1 sh => some (encI (0#6 ++ sh) rs1 5 rd 0x13)
  | .srai rd rs1 sh => some (encI (16#6 ++ sh) rs1 5 rd 0x13)
  | .addiw rd rs1 imm => some (encI imm rs1 0 rd 0x1B)
  | .slliw rd rs1 sh => some (encR 0 sh rs1 1 rd 0x1B)
  | .srliw rd rs1 sh => some (encR 0 sh rs1 5 rd 0x1B)
  | .sraiw rd rs1 sh => some (encR 32 sh rs1 5 rd 0x1B)
  | .add rd rs1 rs2 => some (encR 0 rs2 rs1 0 rd 0x33)
  | .sub rd rs1 rs2 => some (encR 32 rs2 rs1 0 rd 0x33)
  | .sll rd rs1 rs2 => some (encR 0 rs2 rs1 1 rd 0x33)
  | .slt rd rs1 rs2 => some (encR 0 rs2 rs1 2 rd 0x33)
  | .sltu rd rs1 rs2 => some (encR 0 rs2 rs1 3 rd 0x33)
  | .xorr rd rs1 rs2 => some (encR 0 rs2 rs1 4 rd 0x33)
  | .srl rd rs1 rs2 => some (encR 0 rs2 rs1 5 rd 0x33)
  | .sra rd rs1 rs2 => some (encR 32 rs2 rs1 5 rd 0x33)
  | .orr rd rs1 rs2 => some (encR 0 rs2 rs1 6 rd 0x33)
  | .andd rd rs1 rs2 => some (encR 0 rs2 rs1 7 rd 0x33)
  | .mul rd rs1 rs2 => some (encR 1 rs2 rs1 0 rd 0x33)
  | .mulh rd rs1 rs2 => some (encR 1 rs2 rs1 1 rd 0x33)
  | .mulhsu rd rs1 rs2 => some (encR 1 rs2 rs1 2 rd 0x33)
  | .mulhu rd rs1 rs2 => some (encR 1 rs2 rs1 3 rd 0x33)
  | .div rd rs1 rs2 => some (encR 1 rs2 rs1 4 rd 0x33)
  | .divu rd rs1 rs2 => some (encR 1 rs2 rs1 5 rd 0x33)
  | .rem rd rs1 rs2 => some (encR 1 rs2 rs1 6 rd 0x33)
  | .remu rd rs1 rs2 => some (encR 1 rs2 rs1 7 rd 0x33)
  | .addw rd rs1 rs2 => some (encR 0 rs2 rs1 0 rd 0x3B)
  | .subw rd rs1 rs2 => some (encR 32 rs2 rs1 0 rd 0x3B)
  | .sllw rd rs1 rs2 => some (encR 0 rs2 rs1 1 rd 0x3B)
  | .srlw rd rs1 rs2 => some (encR 0 rs2 rs1 5 rd 0x3B)
  | .sraw rd rs1 rs2 => some (encR 32 rs2 rs1 5 rd 0x3B)
  | .mulw rd rs1 rs2 => some (encR 1 rs2 rs1 0 rd 0x3B)
  | .divw rd rs1 rs2 => some (encR 1 rs2 rs1 4 rd 0x3B)
  | .divuw rd rs1 rs2 => some (encR 1 rs2 rs1 5 rd 0x3B)
  | .remw rd rs1 rs2 => some (encR 1 rs2 rs1 6 rd 0x3B)
  | .remuw rd rs1 rs2 => some (encR 1 rs2 rs1 7 rd 0x3B)
  | .lr rd rs1 a => some (encA 2 a 0 rs1 rd)
  | .sc rd rs1 rs2 a => some (encA 3 a rs2 rs1 rd)
  | .amoswap rd rs1 rs2 a => some (encA 1 a rs2 rs1 rd)
  | .amoadd rd rs1 rs2 a => some (encA 0 a rs2 rs1 rd)
  | .amoxor rd rs1 rs2 a => some (encA 4 a rs2 rs1 rd)
  | .amoand rd rs1 rs2 a => some (encA 12 a rs2 rs1 rd)
  | .amoor rd rs1 rs2 a => some (encA 8 a rs2 rs1 rd)
  | .amomin rd rs1 rs2 a => some (encA 16 a rs2 rs1 rd)
  | .amomax rd rs1 rs2 a => some (encA 20 a rs2 rs1 rd)
  | .amominu rd rs1 rs2 a => some (encA 24 a rs2 rs1 rd)
  | .amomaxu rd rs1 rs2 a => some (encA 28 a rs2 rs1 rd)
  | .fence rd rs1 fm pred succ => some (encI (fm ++ pred ++ succ) rs1 0 rd 0x0F)
  | .fenceTso rd rs1 => some (encI 0x833 rs1 0 rd 0x0F)
  | .pause => some 0x0100000F#32
  | .fenceI rd rs1 imm => some (encI imm rs1 1 rd 0x0F)
  | .ecall => some 0x00000073#32
  | .ebreak => some 0x00100073#32
  | .csrrw rd rs1 csr => some (encI csr rs1 1 rd 0x73)
  | .csrrs rd rs1 csr => some (encI csr rs1 2 rd 0x73)
  | .csrrc rd rs1 csr => some (encI csr rs1 3 rd 0x73)
  | .csrrwi rd imm csr => some (encI csr imm 5 rd 0x73)
  | .csrrsi rd imm csr => some (encI csr imm 6 rd 0x73)
  | .csrrci rd imm csr => some (encI csr imm 7 rd 0x73)
  | .vsetvl rd rs1 eew grp => some (encV 0 eew grp 0 rs1 rd)
  | .vsetvlB rd rs1 eew grp => some (encV 1 eew grp 0 rs1 rd)
  | .vsetshape rd rs1 rs2 eew grp => some (encV 2 eew grp rs2 rs1 rd)
  | .vsetshapeB rd rs1 rs2 eew grp => some (encV 3 eew grp rs2 rs1 rd)
  | .tshape rd rs1 rs2 => some (encR 0 rs2 rs1 1 rd 0x0B)
  | .tfree rs1 => some (encR 1 0 rs1 1 0 0x0B)
  | .ctload rd rs1 rs2 => some (encR 2 rs2 rs1 1 rd 0x0B)
  | .tqpush rd rs1 rs2 => some (encR 0 rs2 rs1 2 rd 0x0B)
  | .tqpushP rd rs1 rs2 => some (encR 1 rs2 rs1 2 rd 0x0B)
  | .texit => some (encR 2 0 0 2 0 0x0B)
  | .gbar => some (encR 3 0 0 2 0 0x0B)
  | .tyield => some (encR 4 0 0 2 0 0x0B)
  | .xcall rd rs1 rs2 => some (encR 5 rs2 rs1 2 rd 0x0B)
  | .fenceScoped rd scope => some (encY 0 scope 0 0 rd)
  | .fenceAcq scope => some (encY 1 scope 0 0 0)
  | .fenceRel rd scope => some (encY 2 scope 0 0 rd)
  | .viswait rs1 => some (encY 3 0 0 rs1 0)
  | .tkget rd rs1 => some (encY 4 0 0 rs1 rd)
  | .tkwait rs1 rs2 => some (encY 5 0 rs2 rs1 0)
  | .tkdone rs1 => some (encY 6 0 0 rs1 0)
  | .stv rd rs1 rs2 => some (encY 7 0 rs2 rs1 rd)
  | .sxfer rd rs1 rs2 => some (encR 0 rs2 rs1 4 rd 0x0B)
  | .sort rd rs1 rs2 => some (encR 1 rs2 rs1 4 rd 0x0B)
  | .estat rd rs1 => some (encR 2 0 rs1 4 rd 0x0B)
  | .ecancel rd rs1 => some (encR 3 0 rs1 4 rd 0x0B)
  | .tret => some (encR 0 0 0 5 0 0x0B)
  | .hwait rd rs1 rs2 => some (encR 1 rs2 rs1 5 rd 0x0B)
  | .sfenceT rs1 rs2 => some (encR 2 rs2 rs1 5 0 0x0B)
  | .uiret => some (encR 3 0 0 5 0 0x0B)
  | .ctrig rs1 => some (encR 4 0 rs1 5 0 0x0B)
  | .tmark rs1 => some (encR 5 0 rs1 5 0 0x0B)
  | _ => none

/-- The parcels of an instruction that a hart executes, first parcel first: a scalar word, a lone convoy of a vector
instruction (00 R16), or a convoy's header and bodies; nothing for a row of the package. -/
def encode (i : Instr) : List (BitVec 32) :=
  match i with
  | .convoy hdr bodies => hdr :: bodies.flatMap (fun b => [field b 0 32, field b 32 32])
  | _ =>
    match encodeScalar i with
    | some w => [w]
    | none =>
      match memberCode i with
      | some (cls, f, b) => [loneHeader cls, field (encodeBody cls f b) 0 32, field (encodeBody cls f b) 32 32]
      | none => []

/-- The bytes of parcels as the hardware stores them (00 R6). -/
def parcelBytes (ws : List (BitVec 32)) : List Byte :=
  ws.flatMap (fun w => [field w 0 8, field w 8 8, field w 16 8, field w 24 8])

/-- The longest instruction, a convoy of six members, in bytes (12 R313). -/
def longestBytes : Nat := 52

/-- The bytes of an instruction whose bits are `w`, numbered as the opcode table numbers them, with the bits above
`nbits` zero up to the longest instruction. -/
def tableBytes (nbits w : Nat) : List Byte := leBytes longestBytes (w % 2 ^ nbits)

/-- What the decoder reads from the bits of an opcode-table row. -/
def decodeTableWord (nbits w : Nat) : Option Instr :=
  match decode (tableBytes nbits w) with
  | .ok (i, _) => some i
  | .error _ => none

end Sys2Proof
end

