-- ==== Sys2Proof/Machine/Types.lean ====
section
/-!
DEFINITION. The parts of the machine's state: what a hart, a gang, a queue, a context, a bank, a core, a cluster, a die,
a link and a coherent line hold. Plain data only.
-/
namespace Sys2Proof.Machine

/-- A sparse table: key and value pairs, keys strictly rising; a key not listed has the table's default. -/
abbrev Table (α : Type) := List (Nat × α)

/-! ### Translations -/

/-- A cached translation (03 R90): the leaf entry and the size of its page, in the first-level TLB of a core or the
second-level TLB of a cluster. -/
structure TlbEntry where
  /-- second-level entry, of cluster `unit`; else first-level, of core `unit` -/
  second : Bool
  unit : BitVec 8
  ctx : BitVec 8
  /-- first virtual address of the page -/
  base : Nat
  /-- log2 of the page size: 12, 16, 21 or 30 -/
  bits : Nat
  leaf : Word
  deriving DecidableEq, Repr

/-- A table pointer of a level 3, 2 or 1 that a walk has read, in a die's walk cache (03 Table 3.11). -/
structure WalkEntry where
  ctx : BitVec 8
  level : Nat
  /-- the virtual address without the bits that the level and those below it translate -/
  tag : Nat
  ptr : Word
  deriving DecidableEq, Repr

/-! ### Harts -/

/-- A vector element type's lengths as a convoy captures them at dispatch (06 R146), with every scalar a member names. -/
structure Captured where
  vl : Nat
  vrows : Nat
  vcols : Nat
  /-- listed by R146; no member uses it (R150) -/
  vtype : BitVec 4
  /-- row in [63:32], column in [31:0] (00 R3) -/
  vstart : Word
  vxrm : BitVec 2
  vfrm : BitVec 3
  /-- the scalar registers at dispatch -/
  x : Vector Word 32
  deriving DecidableEq, Repr

/-- A dispatched convoy that has not drained (06 R146, R164). -/
structure Convoy where
  pc : Word
  hdr : BitVec 32
  bodies : List Word
  cap : Captured
  /-- members that `cvidx.done` marks at dispatch (06 R168) -/
  done : BitVec 6
  /-- members that `cvidx.restart` marks at dispatch (06 R168) -/
  restart : BitVec 6
  /-- its members have issued and completed; it drains next -/
  issued : Bool
  deriving DecidableEq, Repr

/-- The state of an engine transfer in a hart's status table (09 Table 9.2). -/
inductive XferState where
  | running | done | failed
  deriving DecidableEq, Repr

/-- An entry of a hart's transfer status table (09 R230 to R232). -/
structure Xfer where
  id : BitVec 16
  state : XferState
  code : BitVec 8
  addr : BitVec 48
  irq : Bool
  handler : BitVec 48
  /-- true for a sort -/
  sort : Bool
  /-- when irq = 1 and the transfer has ended: its place in the order of ending (10 R256) -/
  order : Nat
  deriving DecidableEq, Repr

/-- What a hart waits for before it issues its next instruction. -/
inductive Wait where
  | none
  /-- TKWAIT on a tile id of a cluster for a ticket (13 R357, R359) -/
  | ticket (tile : BitVec 20) (k : BitVec 32) (cl : BitVec 5)
  /-- HWAIT: address or none, expected value, destination, start (13 R362) -/
  | hwait (addr : Option Word) (expect : Word) (rd : Reg) (start : Word)
  /-- GBAR (05 R129) -/
  | gbar
  /-- a fence: scope, rd, its start (08 R227, R228) -/
  | fence (scope : BitVec 3) (rd : Reg) (report : Bool) (start : Word)
  /-- FENCE.I (13 R345), and step 1 of SFENCE.T (13 R363) -/
  | fenceI
  /-- VISWAIT until dtime reaches t (13 R355) -/
  | viswait (t : Word)
  /-- an STV's reply for rd (13 R356); the value once known -/
  | stv (rd : Reg) (value : Option Word)
  /-- a reply to the request with this tag (01 R32) -/
  | reply (tag : BitVec 10)
  /-- an access that overlaps an engine transfer in flight (07 R187, 08 R222) -/
  | transfer
  /-- an older convoy has to drain (06 R166), or a strip closing point has to pass (13 R349) -/
  | drain
  /-- a code table is loading (15 R417) -/
  | ctload
  /-- TEXIT while transfers run (05 R129) -/
  | texit
  /-- its state is in the frame, and the save of its gang goes on (10 R260) -/
  | saved
  /-- its context stopped it (10 R267) -/
  | halted
  /-- the hart has ended or its context stopped it (05 R129, 10 R267) -/
  | ended
  deriving DecidableEq, Repr

/-- A posted write of a hart to a peer or host page that has no acknowledgement yet, or has failed (08 R228). -/
structure Posted where
  /-- place in the hart's program order -/
  seq : Nat
  tag : BitVec 10
  port : BitVec 4
  va : Word
  /-- the line it is to: of a peer's memory, or of the host's -/
  line : Nat
  failed : Bool
  deriving DecidableEq, Repr

/-- A reply the hart's waiting instruction consumes when it executes again (01 R32, 08 R210): in order of request. -/
structure Reply where
  tag : BitVec 10
  /-- status code of 08 R210; 0xFF for a request that failed under R39 or R40 -/
  status : BitVec 8
  data : List Byte
  /-- device time at which it arrived (08 R208) -/
  time : Nat
  deriving DecidableEq, Repr

/-- A convoy stopped between two repeat steps of its TMAC (10 R272): the steps completed, the tile before the first, the members before
the TMAC, and what the convoy captured. -/
structure RepHold where
  steps : Nat
  orig : Nat
  done : BitVec 6
  cap : Captured
  deriving DecidableEq, Repr

/-- A strip that an instruction closes, whose record is still to be stored (10 R278): what the record takes from the instruction, the convoys
dispatched before it that have not drained, and from its closing point on the strip's cycles, coins, arithmetic-busy and memory-busy
cycles. -/
structure StripDue where
  pc : Word
  vrows : Nat
  vcols : Nat
  vl : Nat
  ahead : Nat
  counts : Option (Nat × Nat × Nat × Nat)
  deriving DecidableEq, Repr

/-- A hart: the architectural state of 06 Table 6.2 and 13 Table 13.2, and what it is in the middle of. -/
structure Hart where
  /-- the slot holds a hart (06 R142) -/
  live : Bool
  core : BitVec 8
  slot : BitVec 4
  /-- ctxid, gang, grank, gsize (06 R144) -/
  ctx : BitVec 8
  gang : BitVec 16
  rank : BitVec 6
  gsize : BitVec 7
  /-- accumulator tiles it holds, 0 to 4 (06 R143) -/
  tiles : BitVec 3
  /-- the record's grow bit (06 R155) -/
  grow : Bool
  /-- program counter (06 Table 6.2; 12 R311) -/
  pc : Word
  /-- privilege: true in supervisor mode (06 Table 6.2) -/
  sup : Bool
  /-- x0 to x31; x0 holds 0 (06 Table 6.2, 00 R14) -/
  x : Vector Word 32
  /-- v0 to v31, each the little-endian number of its VLB bytes (06 R151) -/
  v : Vector Nat 32
  /-- m0 to m7, each the number of its 8 x VLB bits (06 R148) -/
  m : Vector Nat 8
  /-- acc0 to acc3, each the little-endian number of its 64 KiB (16 R427) -/
  acc : Vector Nat 4
  vstart : Word
  vkeep : BitVec 32
  /-- with adirty as bits [43:40] (10 Table 10.6) -/
  vdirty : BitVec 44
  vxrm : BitVec 2
  vfrm : BitVec 3
  vxsat : Bool
  /-- [4] NV, [3] DZ, [2] OF, [1] UF, [0] NX (11 Table 11.4) -/
  vfflags : BitVec 5
  vcarryFmt : BitVec 6
  vcarryRes : BitVec 32
  atag : BitVec 16
  sdisc : Bool
  uiePie : Bool
  uieIe : Bool
  uepc : BitVec 48
  ucause : BitVec 8
  xtid : BitVec 16
  xhandler : BitVec 48
  xstat : Word
  /-- bits [47:12] (10 Table 10.13) -/
  srbase : BitVec 36
  srhead : Word
  srFlt : Bool
  srK : BitVec 5
  srEn : Bool
  /-- the strip in progress: its start in cycles, coins, arithmetic-busy and memory-busy cycles (10 R279) -/
  stripStart : Nat
  stripCoins : Nat
  stripArith : Nat
  stripMem : Nat
  /-- strips whose records are still to be stored, oldest first (10 R278) -/
  stripDue : List StripDue
  asampN : BitVec 5
  aseed : Word
  ahist : BitVec 36
  athrBin : BitVec 5
  athrCount : BitVec 32
  actlHandler : BitVec 16
  vl : BitVec 17
  vrows : BitVec 17
  vcols : BitVec 17
  vtEew : BitVec 2
  vtGrp : BitVec 2
  vlb : BitVec 14
  /-- VLB granted at launch or at the last resumption (06 R155) -/
  vlb0 : BitVec 14
  tsm : BitVec 8
  tsn : BitVec 8
  tsk : BitVec 16
  tfKind : BitVec 2
  tfSat : Bool
  tfTile : BitVec 2
  tfB : BitVec 5
  tfA : BitVec 5
  vispend : Word
  instret : Word
  /-- the last value a read of dtime returned (13 R349) -/
  dtimeLast : Word
  wpsk : Bool
  tact : Bool
  spp : Bool
  /-- stvec.base, address bits [47:2] (10 Table 10.2) -/
  stvec : BitVec 46
  sepc : Word
  scause : BitVec 8
  stval : Word
  cvRestart : BitVec 6
  cvDone : BitVec 6
  cvMember : BitVec 3
  /-- the one-instruction watchpoint skip (10 R253) -/
  wpSkip : Bool
  bkcmd : Word
  bkstat : Word
  bkfifo : Word
  /-- line of the scalar link set by the last LR (13 R344) -/
  link : Option Nat
  /-- a vector link set is open, and its generation (15 R413) -/
  vlinkOpen : Bool
  vlinkGen : BitVec 16
  /-- transfer status table, 32 entries (09 R230) -/
  xfers : List Xfer
  /-- transfers that have ended so far (order of ending, 10 R256) -/
  xferEnded : Nat
  /-- tiles held under 13 R358 -/
  held : List (BitVec 20)
  /-- vector dispatch queue, oldest first, 4 convoys (06 R146) -/
  disp : List Convoy
  wait : Wait
  replies : List Reply
  posted : List Posted
  /-- program-order count of posted and of class L writes -/
  postSeq : Nat
  /-- greatest V of its local L writes (08 R227) -/
  maxV : Nat
  /-- stopped between repeat steps of the TMAC at its pc (10 R272) -/
  rep : Option RepHold
  /-- next issue not before this cycle (13 R345 PAUSE) -/
  pauseUntil : Nat
  /-- when the waits of a release began that the instruction at the pc makes (08 R228; 13 R354) -/
  relStart : Option Nat
  /-- pages that the vector memory instruction in progress has looked up (03 R91) -/
  lookups : List TlbEntry
  /-- vector registers and tiles with an uncorrectable, and with a corrected, error (02 R53) -/
  vbad : BitVec 32
  abad : BitVec 4
  vsoft : BitVec 32
  asoft : BitVec 4
  deriving DecidableEq, Repr

/-! ### Gangs, queues, contexts -/

/-- What a saved rank keeps that its frame has no slot for (10 Table 10.5, R278, R279, R470; 13 R349): `instret`, the last
value of dtime read, the strip in progress with the cycles it has run, its posted writes that failed, the greatest V of its
class L writes, the count of ended transfers, which of its transfer ids are sorts, the sorts that ended while it was saved, and what it
waits for. -/
structure Carry where
  /-- its VLB, which the teller needs before it reads the frame (05 R132, R135) -/
  vlb : BitVec 14
  instret : Word
  dtimeLast : Word
  stripCycles : Nat
  stripCoins : Nat
  stripArith : Nat
  stripMem : Nat
  posted : List Posted
  postSeq : Nat
  maxV : Nat
  xferEnded : Nat
  sorts : List (BitVec 16)
  ended : List Xfer
  /-- its pc, and how it goes on there, when it was saved in a TKWAIT or an HWAIT (10 R260) -/
  resume : Option (Word × Wait)
  deriving DecidableEq, Repr

/-- The writes a push or an XCALL waits for (04 R100, 05 R126): those its hart posted before it, the greatest V of its class L
writes, and its engine transfers in flight then. -/
structure Release where
  gang : BitVec 16
  rank : BitVec 6
  seq : Nat
  v : Nat
  xfers : List (BitVec 16)
  deriving DecidableEq, Repr

/-- A gang that is resident or saved (05 R132 to R135, 06 R144, 10 R263). -/
structure Gang where
  ctx : BitVec 8
  queue : BitVec 16
  /-- the queue's policy and weight at placement, kept when the queue is deleted (05 R135) -/
  policy : BitVec 2
  weight : BitVec 8
  /-- placed priority (05 R130) -/
  prio : BitVec 3
  /-- the record as placed -/
  task : TaskRec
  /-- its pc (05 R122) -/
  pc : Word
  cluster : BitVec 5
  /-- the granted VLB (05 R120) -/
  grant : BitVec 14
  /-- its banks in allocation order, cluster indices (07 R180) -/
  banks : List Nat
  /-- barrier generation and the ranks that reached it (05 R129) -/
  barGen : BitVec 32
  barArr : BitVec 64
  /-- ranks that have ended -/
  ended : BitVec 64
  /-- every ended rank ended by a user-mode TEXIT (04 R109) -/
  userEnd : Bool
  /-- base of its save frame in the pool, none without one (10 R263) -/
  frame : Option Nat
  /-- ranks whose part of the frame a save or a snap has written -/
  framed : BitVec 64
  /-- saved ranks; the gang is saved when all living ranks are (10 R260) -/
  savedRanks : BitVec 64
  saved : Bool
  /-- its ranks saved at a boundary instruction (05 R135) -/
  boundary : BitVec 64
  /-- a pre-emption is requested (05 R134) -/
  preempt : Bool
  /-- what each saved rank keeps beside its frame -/
  carry : Table Carry
  /-- order of placement (05 R134) -/
  placedAt : Nat
  /-- its queue was deleted and it carries the queue's last attributes (05 R135) -/
  orphan : Bool
  /-- its queue's affinity mask and binned bit, kept when the queue is deleted (05 R135) -/
  aff : BitVec 32
  binned : Bool
  deriving DecidableEq, Repr

/-- A record in a queue: the record, the pc a remote call fixed at arrival (05 R122), the pushing context, its order of
append, and the release it waits for (05 R126). -/
structure QRec where
  task : TaskRec
  pc : Option Word
  pusher : BitVec 8
  /-- the handler version the call saw (04 R107) -/
  version : BitVec 16
  /-- while its release is pending: the writes it waits for -/
  rel : Option Release
  /-- an uncorrectable error lies in it (02 R55) -/
  bad : Bool
  /-- an SAU-saturation event, whose placement clears its context's sticky flag (09 R244) -/
  sau : Bool
  deriving DecidableEq, Repr

/-- A queue descriptor with its records in append order (05 R115, Table 5.2). -/
structure Queue where
  ctx : BitVec 8
  weight : BitVec 8
  pri : BitVec 3
  policy : BitVec 2
  keyed : Bool
  binned : Bool
  opn : Bool
  cap : BitVec 4
  aff : BitVec 32
  hwm : BitVec 17
  recs : List QRec
  deriving DecidableEq, Repr

/-- A parked record (05 R128): counter address, queue, record, pushing context, released. -/
structure Parked where
  pa : Nat
  qid : BitVec 16
  task : TaskRec
  pusher : BitVec 8
  released : Bool
  rel : Option Release
  /-- an uncorrectable error lies in it (02 R55) -/
  bad : Bool
  deriving DecidableEq, Repr

/-- An entry of the return table (04 R108): what the call's end report will carry (Table 4.5). -/
structure RetSlot where
  /-- caller's global id and reset epoch -/
  gid : BitVec 20
  epoch : BitVec 8
  /-- target context -/
  ctx : BitVec 8
  core : BitVec 8
  entry : BitVec 6
  gen : BitVec 16
  /-- early, evt, cmpl -/
  flags : BitVec 3
  callTag : BitVec 16
  handler : BitVec 16
  version : BitVec 16
  /-- descriptor word 1: the ring -/
  ring : Word
  /-- effective priority, for the channel -/
  pri : BitVec 3
  /-- an uncorrectable error lies in it (02 R55) -/
  bad : Bool
  deriving DecidableEq, Repr

/-- A queued join decrement or end report of an ended task (05 R129, 04 R109). -/
structure TaskEnd where
  ctx : BitVec 8
  gang : BitVec 16
  queue : BitVec 16
  /-- join counter virtual address -/
  join : Word
  /-- return slot and outcome of an end report (04 R109) -/
  rslot : Nat
  outcome : BitVec 8
  /-- the writes of the gang that have still to complete (04 R108) -/
  rels : List Release
  deriving DecidableEq, Repr

/-- Context states (03 Table 3.3c), in the table's code order. -/
inductive CtxState where
  | free | stopped | running | resetting | dumping | dead
  deriving DecidableEq, Repr

/-- A code table of a context (11 R301): its bytes once loaded, its generation, and, while the table of that generation is still to be
written, the gang and rank that load it and its bytes. -/
structure CodeTable where
  bytes : Option (List Byte)
  gen : BitVec 32
  loading : Option (BitVec 16 × BitVec 6 × List Byte)
  deriving DecidableEq, Repr

/-- A fault record (03 Table 3.7). -/
structure FaultRec where
  time : Word
  kind : BitVec 8
  cause : BitVec 8
  gang : BitVec 16
  handler : BitVec 16
  queue : BitVec 16
  addr : Word
  pc : Word
  deriving DecidableEq, Repr

/-- A TLB invalidation of a context in progress or queued (03 R89). -/
structure TlbInv where
  val : Word
  deriving DecidableEq, Repr

/-- A context (03 R72 to R82, Tables 3.4 to 3.6). -/
structure Ctx where
  state : CtxState
  run : Bool
  ftrap : Bool
  fqirq : Bool
  /-- a stop was asked and resident gangs remain (03 R73) -/
  stopPending : Bool
  /-- a reset is held until the dump in writing ends (10 R269) -/
  resetHeld : Bool
  fqlost : BitVec 32
  ptbase : Word
  fqbase : Word
  fqhead : BitVec 32
  fqtail : BitVec 32
  evq : Word
  ovbase : Word
  ovhead : BitVec 32
  ovtail : BitVec 32
  htbase : Word
  ctxirqa : Word
  ctxirqd : BitVec 32
  dumpbase : Word
  dumpsize : Word
  quota : Word
  ssvpool : Word
  /-- frames allocated in the pool: base and size, in 64 KiB units (10 R263) -/
  frames : List (Nat × Nat)
  /-- invalidations, the first in progress (03 R89) -/
  tlbinv : List TlbInv
  /-- reset epoch (04 R102) -/
  epoch : BitVec 8
  /-- code table slots 0 to 3 (11 R301) -/
  codes : List CodeTable
  /-- auditing disabled (09 R250) -/
  adis : Bool
  /-- SAU saturation event sticky (09 R244) -/
  sauSticky : Bool
  /-- fault records since the context entered DUMPING (10 R267, R268) -/
  dumpRecs : List FaultRec
  /-- the gang of the first fault after the dump started -/
  dumpFault : Option (BitVec 16)
  deriving DecidableEq, Repr

/-! ### Engines -/

/-- A transfer in an engine's queue (09 R230, R233 to R241): who issued it, its id, and its copied parameter block. -/
structure EngXfer where
  core : BitVec 8
  slot : BitVec 4
  ctx : BitVec 8
  gang : BitVec 16
  rank : BitVec 6
  id : BitVec 16
  /-- issued in supervisor mode -/
  sup : Bool
  /-- the parameter block's eight words (09 Tables 9.1, 9.3) -/
  blk : TaskRec
  /-- elements: `vl` at an SXFER, 1 for a sort, which is performed as a whole -/
  count : Nat
  /-- the writes of the hart before it, which it starts after (08 R222) -/
  rel : Release
  started : Bool
  /-- elements not performed yet, and the one in progress -/
  left : List Nat
  cur : Option Nat
  /-- an ECANCEL waits for what it still has in flight -/
  cancelled : Bool
  /-- replies to what the element in progress has asked of a peer or the host, and that one is awaited -/
  replies : List Reply
  waiting : Bool
  /-- greatest visibility time of its class L writes (08 R207) -/
  maxV : Nat
  /-- how it has failed, while its writes are not all visible yet (08 R207, 09 R232) -/
  fail : Option (BitVec 8 × Word) := none
  deriving DecidableEq, Repr

/-- A read or write range of an engine transfer or vector access in a core's ARIT (06 R170). -/
structure AritEntry where
  slot : BitVec 4
  id : BitVec 16
  rlo : Nat
  rhi : Nat
  wlo : Nat
  whi : Nat
  deriving DecidableEq, Repr

/-- An audit escrow entry (09 R248): the context, CSRs, pc and gang at issue, its size in bytes, `m` x `k` values of A and `k` x `n` of
B (exact as FP64 encodings, row by row), `m` x `n` FP32 accumulator elements before and after, and the replies to what its audit has
asked of a peer. -/
structure Escrow where
  ctx : BitVec 8
  gang : BitVec 16
  tag : BitVec 16
  pc : Word
  hist : Word
  thrBin : BitVec 5
  thrCount : BitVec 32
  handler : BitVec 16
  size : Nat
  m : Nat
  n : Nat
  k : Nat
  a : List Nat
  b : List Nat
  before : List Nat
  after : List Nat
  replies : List Reply
  waiting : Bool
  /-- an uncorrectable error lies in it (02 R53) -/
  bad : Bool
  deriving DecidableEq, Repr

/-! ### Banks, cores, clusters, dies -/

/-- Bank modes (07 Table 7.1). -/
inductive BankMode where
  | C | S | F | X
  deriving DecidableEq, Repr

/-- Who holds a bank (07 R171). -/
inductive Holder where
  | none
  | ctx (c : BitVec 8)
  | gang (c : BitVec 8) (g : BitVec 16)
  deriving DecidableEq, Repr

/-- A bank of a cluster (07 R171 to R186). -/
structure Bank where
  mode : BankMode
  holder : Holder
  keep : Bool
  stream : BitVec 3
  /-- FIFO pointers modulo 49,152 (07 R183) -/
  head : Nat
  tail : Nat
  arr : Nat
  /-- 24 KiB of contents, the little-endian number of its bytes -/
  data : Nat
  /-- engine transfers in flight into the bank, oldest first: owner core, slot, id, arrival pointer (07 R186) -/
  writers : List (BitVec 8 × BitVec 4 × BitVec 16 × Nat)
  /-- its 64-bit words with an uncorrectable, and with a corrected, error (02 R53) -/
  bad : List Nat
  soft : List Nat
  deriving DecidableEq, Repr

/-- What takes its turn among a cluster's bank commands (07 R177): a command, the release of banks at the end of a task, or the return of a
core's banks from X. -/
inductive BankWork where
  | command
  | release (banks : List Nat)
  | settle (core : BitVec 8)
  deriving DecidableEq, Repr

/-- A bank command that runs or waits for its turn (07 R177). -/
structure BankCmd where
  host : Bool
  cl : BitVec 5
  ref : HartRef
  val : Word
  work : BankWork := .command
  deriving DecidableEq, Repr

/-- A pair of ticket counters (13 R357), and who holds its serving ticket. -/
structure Ticket where
  ctx : BitVec 8
  cl : BitVec 5
  tile : BitVec 20
  t : BitVec 32
  s : BitVec 32
  holder : Option (BitVec 16 × BitVec 6)
  deriving DecidableEq, Repr

/-- A programmable counter of a core (10 Table 10.10). -/
structure PmCounter where
  en : Bool
  ctx : BitVec 8
  u : Bool
  s : Bool
  event : BitVec 9
  count : BitVec 48
  shadow : BitVec 48
  deriving DecidableEq, Repr

/-- An entry of a core's XCALL send queue (04 R98 to R102). -/
structure SendEntry where
  slot : BitVec 4
  ctx : BitVec 8
  gang : BitVec 16
  rank : BitVec 6
  gen : BitVec 16
  callTag : BitVec 16
  /-- the caller's reset epoch (R102) -/
  epoch : BitVec 8
  /-- the descriptor copied at XCALL (Table 4.3) -/
  desc : TaskRec
  /-- order of the XCALLs of the core -/
  order : Nat
  /-- the writes its packet waits for (R100), and that one of them failed -/
  rel : Release
  abort : Bool
  sent : Bool
  /-- device time at which its packet left -/
  since : Nat
  deriving DecidableEq, Repr

/-- A core's own state (06 Table 6.1; 10 Tables 10.9, 10.10). -/
structure Core where
  purses : Table Int
  pm : Table PmCounter
  /-- send queue by entry 0 to 63 (04 R98) -/
  send : Table SendEntry
  /-- generation per entry (04 R101) -/
  sendGen : Table (BitVec 16)
  arit : List AritEntry
  /-- instruction cache lines: physical line number, its 128 bytes as a number (12 R315) -/
  icache : Table Nat
  /-- its instruction cache lines with an uncorrectable error, which a fetch reads anew (02 R53) -/
  icBad : List Nat
  /-- last hart the sequencer and the scalar stage chose (05 R137, 06 R145) -/
  lastSlot : BitVec 4
  dShart : BitVec 4
  dTren : Bool
  dWpact : Bool
  dEbh : Bool
  dRstep : BitVec 4
  dHart : BitVec 4
  dReason : BitVec 4
  dNosnap : Bool
  dHalted : Bool
  dbbp : Word
  dbwp : Word
  /-- a snap was taken since the halt (10 R270) -/
  snapped : Bool
  /-- a step (false) or steprep (true) runs (10 R272), and its instruction has begun -/
  stepping : Option Bool
  stepBegan : Bool
  deriving DecidableEq, Repr

/-- Which head a cluster's teller has reserved for (05 R133). -/
inductive HeadId where
  | gang (id : Nat)
  | record (r : QRec)
  deriving DecidableEq, Repr

/-- The reservation of a cluster (05 R133, R134): its queue or private list, its head, the device time of the first failed fit, and what
residents may still take: pool banks, and bytes of storage in use in each core of the cluster. -/
structure Reservation where
  key : Nat
  head : HeadId
  since : Nat
  pool : List Nat
  used : List Nat
  deriving DecidableEq, Repr

/-- A cluster's own state (05 R131 to R133; 07 R174; 09 R230, R248). -/
structure Cluster where
  hbkcmd : Word
  hbkstat : Word
  hbkfifo : Word
  bankCmd : List BankCmd
  stream : List EngXfer
  escrow : List Escrow
  /-- teller: ring pointer (queue id), deficit per queue, rotation of weight-0 queues (05 R131) -/
  ring : Nat
  /-- the queue at the pointer has had its weight for this visit -/
  ringPaid : Bool
  deficit : Table Nat
  ring0 : Nat
  reserved : Option Reservation
  /-- closed for maintenance since (02 R58) -/
  closed : Option Nat
  mwin : BitVec 32
  guard : BitVec 8
  ageIdx : BitVec 8
  deriving DecidableEq, Repr

/-- An uncore counter of a die (10 R276). -/
structure Uncore where
  sel : Word
  count : BitVec 48
  shadow : BitVec 48
  deriving DecidableEq, Repr

/-- A translation that waits for a walk (03 R91). -/
structure Miss where
  ctx : BitVec 8
  va : Word
  deriving DecidableEq, Repr

/-- A die's own state (03 R90, R91; 09 R230; 10 R274, R276). -/
structure Die where
  sort : List EngXfer
  /-- misses that wait for a walk, oldest first: the first 1,024 in the queue, and those that hold their core's memory pipe -/
  missQ : List Miss
  walks : List WalkEntry
  uncore : Table Uncore
  /-- trace sink: first and second word, next record, records lost (10 R274) -/
  sinkBase : Word
  sinkSize : Word
  sinkPos : Nat
  sinkLost : Nat
  deriving DecidableEq, Repr

/-! ### Coherence -/

/-- Directory state of a class D line (08 Table 8.2). -/
inductive DirState where
  | I | S | M | P
  deriving DecidableEq, Repr

/-- A tenure: its core and the bytes written in it (08 R199). -/
structure Tenure where
  core : BitVec 8
  mask : BitVec 128
  deriving DecidableEq, Repr

/-- A core's copy of a class D line (08 R197 to R201): bytes, and for M and P copies the bytes written. -/
structure DCopy where
  core : BitVec 8
  /-- bytes its harts wrote in this tenure, or since the last write-back of a privatised copy -/
  written : BitVec 128
  /-- the mask of a privatised copy (08 R199) -/
  mask : BitVec 128
  /-- the copy is in the core; the home also lists a clean copy that the core has dropped, or that is on its way (08 R197, R198) -/
  held : Bool := true
  deriving DecidableEq, Repr

/-- The directory entry of a class D line, and its copies (08 R197 to R201). -/
structure DirLine where
  state : DirState
  seq : BitVec 8
  copies : List DCopy
  tenures : List Tenure
  /-- misses pending: core, the number its fill carries, and that of a recorded invalidation (08 R198) -/
  pending : List (BitVec 8 × BitVec 8 × Option (BitVec 8))
  deriving DecidableEq, Repr

/-- A class L write on its way to its home, or one that has taken its visibility time `v` and is kept until device time reaches it
(08 R205). -/
structure LWrite where
  core : BitVec 8
  slot : BitVec 4
  ctx : BitVec 8
  gang : BitVec 16
  rank : BitVec 6
  /-- place in the hart's program order -/
  seq : Nat
  pa : Nat
  /-- the page's da bit -/
  da : Bool
  data : List Byte
  v : Nat
  performed : Bool
  /-- it came from another device or from no hart of this one -/
  foreign : Bool
  /-- an operation of the line's scatter-add unit, which takes a place among the line's writes (08 R207) -/
  sau : Bool := false
  /-- the rest of an indivisible access that runs into another line: address, da bit and bytes (08 R221) -/
  more : Option (Nat × Bool × List Byte) := none
  /-- an element of an instruction with `.o`, performed after those before it (15 R402) -/
  ordered : Bool := false
  deriving DecidableEq, Repr

/-- An atomic operation held at its home (07 R192, R193): a host line is pulled for it, a class L line's time has to come (08 R207), or it
waits behind another one; `l` for one that takes a visibility time. -/
structure SauWait where
  op : SauOp
  l : Bool
  /-- the page's da bit (07 R190) -/
  da : Bool
  /-- it has reached its home; else it is on its way there from a hart or a unit of this device -/
  placed : Bool
  deriving DecidableEq, Repr

/-- The acknowledgement of a peer's class L write, owed when dtime reaches V (08 R210). -/
structure PeerAck where
  dst : BitVec 12
  tag : BitVec 10
  v : Nat
  /-- it answers a write through the memory window instead (03 R67) -/
  mgt : Bool := false
  deriving DecidableEq, Repr

/-- A leased copy in a core (08 R202). -/
structure LCopy where
  core : BitVec 8
  expiry : Nat
  data : Nat
  /-- it has an uncorrectable error, and is read again from its home (02 R53) -/
  bad : Bool := false
  deriving DecidableEq, Repr

/-- The home's record of a class L line (08 R203 to R206). -/
structure LLine where
  horizon : Nat
  lease : Nat
  lastV : Nat
  /-- a write was performed since the last grant (08 R204) -/
  written : Bool
  copies : List LCopy
  /-- the da bit its home was found with (07 R190) -/
  da : Bool := false
  deriving DecidableEq, Repr

/-- A link in a slice's link table (09 R245). -/
structure LinkEntry where
  dev : BitVec 12
  ctx : BitVec 8
  gang : BitVec 16
  rank : BitVec 6
  scalar : Bool
  gen : BitVec 16
  line : Nat
  intact : Bool
  /-- the da bit of the page it was set through (07 R190) -/
  da : Bool := false
  deriving DecidableEq, Repr

/-! ### Links and packets -/

/-- Training and operating states of a link (01 R37, Table 1.7). -/
inductive LinkState where
  | down | detect | train | align | param | active | retrain
  deriving DecidableEq, Repr

/-- One Itmin link port (01 R27 to R41). -/
structure Link where
  state : LinkState
  width : BitVec 8
  fecfix : Nat
  naks : BitVec 16
  retrains : BitVec 8
  peerid : BitVec 12
  /-- receiver: next sequence number expected, discarding after a gap (01 R29) -/
  rxNext : BitVec 12
  rxDiscard : Bool
  /-- receiver: flits of the packet in progress per channel -/
  rxPart : Table (List Flit)
  /-- receiver: buffer flits freed but not yet returned, per channel (01 R31) -/
  rxOwed : Table Nat
  /-- receiver: flit times since buffer space that is owed was freed (01 R30) -/
  owedFor : Nat
  /-- transmitter: next sequence number, unacknowledged flits with their numbers (01 R29) -/
  txNext : BitVec 12
  retry : List (BitVec 12 × Flit)
  /-- transmitter: flits to send again -/
  replay : List Flit
  /-- transmitter: credits per channel (01 R31) -/
  credits : Table Nat
  /-- packets queued per channel (01 R30) -/
  txq : List Packet
  /-- flits still to send of the packet in progress, per channel -/
  txFlits : Table (List Flit)
  /-- NAKs of one sequence number in a row (01 R29) -/
  nakRun : Nat
  nakAck : BitVec 12
  /-- flit times since the last flit of each channel (01 R31) -/
  idle : Table Nat
  /-- device time at which the link entered its state (01 R37) -/
  since : Nat
  /-- device time of the last stamp exchange on the link (01 R36) -/
  stamped : Nat
  /-- flits put on the wire, oldest first -/
  out : List Flit
  deriving DecidableEq, Repr

/-- What a report says of a call (04 Table 4.5): the other context's global id, outcome, hint, version, flags, tag, handler, ring. -/
structure Report where
  tgid : BitVec 20
  outcome : BitVec 8
  hint : BitVec 8
  version : BitVec 16
  flags : BitVec 3
  tag : BitVec 16
  handler : BitVec 16
  ring : Word
  deriving DecidableEq, Repr

/-- A report whose record the device writes into its context's ring (04 R110, R111): what its counter gave, the visibility time of its
record, and the answers to what it has asked of a peer, of the host or of a scatter-add unit. -/
structure RingJob where
  id : Nat
  ctx : BitVec 8
  report : Report
  seq : Option Nat
  vis : Option Nat
  replies : List Reply
  waiting : Bool
  deriving DecidableEq, Repr

/-- Who waits for the answer to an outstanding request (01 R32). -/
inductive Waiter where
  /-- a load or atomic of a hart -/
  | hart (r : HartRef)
  /-- a posted write of a hart -/
  | write (r : HartRef)
  /-- the neighbour command (01 R38) -/
  | nbcmd
  /-- a time stamp exchange (01 R36) -/
  | stamp
  /-- a host read relayed by the bridge -/
  | hostRead (src : BitVec 12) (tag : BitVec 10)
  /-- a slot management access (03 R62), a write or a read -/
  | slotMgmt (wr : Bool)
  /-- a transfer of an engine: issuing gang, rank and id -/
  | engine (e : EngineRef) (gang : BitVec 16) (rank : BitVec 6) (id : BitVec 16)
  /-- the audit of a cluster -/
  | audit (cl : BitVec 5)
  /-- the drop counter of a context's audit: the cluster, the sample's gang and pc, and the counter's address (09 R248, R251) -/
  | drop (ctx : BitVec 8) (cl : BitVec 5) (gang : BitVec 16) (pc addr : Word)
  /-- a completion record (04 R111) -/
  | ring (id : Nat)
  /-- an atomic that pulls this host line (09 R243) -/
  | pull (line : Nat)
  /-- nobody -/
  | other
  deriving DecidableEq, Repr

/-- An outstanding request of this device (01 R32, R40). -/
structure Request where
  tag : BitVec 10
  dst : BitVec 12
  port : BitVec 4
  since : Nat
  waiter : Waiter
  /-- the peer line it asks a lease of (08 R202) -/
  lease : Option Nat
  deriving DecidableEq, Repr

/-- Something the device gave to the host (03 R61 to R71). -/
inductive HostOut where
  /-- the completion of a BAR read -/
  | read (data : Word)
  /-- the completion of a CXL.mem read, and its poison indication (03 R64) -/
  | memData (data : List Byte) (poison : Bool)
  /-- a posted write into host memory -/
  | write (addr : Nat) (data : List Byte)
  /-- a read of host memory with the request's tag -/
  | memRead (tag : BitVec 10) (addr : Nat) (len : Nat)
  /-- an exclusive pull of a host line over CXL.cache with the request's tag (09 R243) -/
  | pull (tag : BitVec 10) (line : Nat)
  /-- a health event: a cluster has used its rated slowdown (02 R59) -/
  | health (cl : BitVec 5)
  /-- an SPDM response (02 R50) -/
  | spdm (bytes : List Nat)
  deriving DecidableEq, Repr

/-- A host insertion that waits at the bridge for the host's earlier writes (03 R66 to R68): the tags of those that other devices have
not acknowledged. -/
structure Insertion where
  slot : BitVec 4
  queue : BitVec 16
  task : TaskRec
  after : List (BitVec 10)
  /-- the visibility time of the host's writes before it (03 R67) -/
  vis : Nat
  deriving DecidableEq, Repr

/-- An error in a memory of the package (01 R21, 02 R53 to R55): `soft` for one that is corrected when it is read. -/
inductive Upset where
  /-- a 32-byte granule of local memory, in HBM or in L2 -/
  | memory (granule : Nat) (soft : Bool)
  /-- a 64-bit word of a bank of the package -/
  | bank (i word : Nat) (soft : Bool)
  /-- a vector register of a hart -/
  | vector (r : HartRef) (k : BitVec 5) (soft : Bool)
  /-- an accumulator tile of a hart -/
  | tile (r : HartRef) (k : BitVec 2) (soft : Bool)
  /-- a line of a core's instruction cache -/
  | icache (core : BitVec 8) (line : Nat)
  /-- a core's clean copy of a class L line -/
  | copy (core : BitVec 8) (line : Nat)
  /-- an entry of a cluster's escrow -/
  | escrow (cl : BitVec 5) (k : Nat)
  /-- a queued record, a parked one, or an entry of the return table -/
  | queued (q : BitVec 16) (k : Nat)
  | parked (k : Nat)
  | returned (slot : Nat)
  /-- an error elsewhere, found and corrected -/
  | corrected
  deriving DecidableEq, Repr

/-- One entry of the agenda: what the environment or the schedule does next. -/
inductive Move where
  /-- a step of the package -/
  | event (i : Instr)
  /-- a packet of this device for itself arrives (01 R34) -/
  | packet (p : Packet)
  /-- a hart's turn -/
  | hart (r : HartRef)
  /-- device time passes -/
  | time (ticks : Nat)
  /-- an error arises in a memory -/
  | upset (u : Upset)
  deriving DecidableEq, Repr

end Sys2Proof.Machine
end

