-- ==== Sys2Proof/Machine/State.lean ====
section
/-!
DEFINITION. The state of one T960 package as plain data, the named reasons a step can stop, and the state right after
power-on reset.
-/
namespace Sys2Proof.Machine

/-- Why the machine stops. -/
inductive Fault where
  /-- A step of a package that an uncorrectable error, a die-link failure or a thermal trip has stopped
  (01 R19, 02 R54, R57): raised by `step`; safe, the spec gives it no further
  step but power-on reset. -/
  | packageStopped
  /-- A step of a package whose power is removed: raised by `step` after POWER_REMOVAL; safe. -/
  | powerOff
  deriving DecidableEq, Repr

/-- Why a step has no meaning here. -/
inductive Refusal where
  /-- An instruction of the table that has no meaning yet: raised by its arm of `exec`; safe. -/
  | notModelled (mnemonic : String)
  deriving DecidableEq, Repr

/-- The service core's registers and the parts of the package that belong to no core (02; 01 R21; 03 R63, R64). -/
structure Pkg where
  /-- bootstat (02 Table 2.5) -/
  secver : BitVec 16
  minver : BitVec 16
  failcode : BitVec 16
  bootState : BitVec 4
  /-- bootctl (02 Table 2.6) -/
  maint : Bool
  stage : Bool
  /-- errcnt (02 Table 2.2) -/
  sramce : BitVec 16
  hbmce : BitVec 16
  ue : BitVec 16
  dreplay : BitVec 16
  /-- thermctl (02 Table 2.3) -/
  tthrot : BitVec 8
  ttrip : BitVec 8
  pcap : BitVec 16
  clkpct : BitVec 8
  tjmax : BitVec 8
  /-- boot flash: the image, and the logs kept in it (02 R46, R57, R59) -/
  flash : List Byte
  /-- the running image (02 R49, R52) -/
  image : List Byte
  tripLog : List (Nat × Nat)
  fuseRaises : Nat
  /-- staged image bytes by offset (02 R46, 03 R63) -/
  staged : Table Byte
  /-- the alias private keys of this boot, RSA and SLH-DSA, once they exist (02 R44, R49) -/
  keys : Option (Nat × Nat)
  stopped : Bool
  tripOut : Bool
  powered : Bool
  scrubLog : List Nat
  /-- SPDM: negotiated, version read, digest of the transcript so far (02 R50 to R52) -/
  spdmAlgos : Bool
  spdmLog : List Nat
  /-- cluster being measured in a maintenance window (02 R58) -/
  maintCl : Option (BitVec 5)
  /-- device time in ticks (00 R8) -/
  dtime : Word
  /-- thousandths of an arithmetic-clock cycle since package reset (10 Table 10.10) -/
  kcycles : Nat
  /-- mbxbase, mwbase (03 R63, R64) -/
  mbxbase : Word
  mwbase : Word
  /-- insstat (03 Table 3.3) -/
  insMgtfail : BitVec 16
  insBad : BitVec 16
  insLost : BitVec 32
  /-- queue command registers (05 Tables 5.1 to 5.3) -/
  qcResult : BitVec 8
  qcOp : BitVec 4
  qcQid : BitVec 16
  qcBusy : Bool
  qattr : Word
  qlimit : Word
  qocc : Word
  qsfree : BitVec 32
  /-- pmtrig and whether it has still to fire (10 R277) -/
  pmtrig : Word
  pmPending : Bool
  /-- device time of the last trigger, which every die records (10 R277, Table 10.10) -/
  pmLast : Word
  deriving DecidableEq, Repr

/-- The fabric registers and tables of the device (01 R33 to R41; 03 R62; 04 R96). -/
structure Fabric where
  devid : BitVec 12
  lrlim : BitVec 16
  lnken : BitVec 16
  /-- this device bridges the group to a host (01 R26, 03 R61) -/
  bridge : Bool
  /-- the group's bridge and time master (01 R36) -/
  master : BitVec 12
  nbcmd : Word
  nbdata : Word
  rtIdx : BitVec 12
  rtEntry : BitVec 8
  /-- route table, 4,096 one-byte entries, 0 where not listed (01 R34) -/
  route : Table (BitVec 8)
  /-- group slots 1 to 15 (03 R62) -/
  grpmap : Table Word
  xperm : Table Word
  reqs : List Request
  nextTag : BitVec 10
  mgtDrops : Nat
  linkEvents : List Word
  /-- packets held at the source for a route entry whose hold bit is set (01 R35) -/
  held : List Packet
  /-- greatest distance of device time from the time master's, once an exchange has bounded it (01 R36) -/
  skew : Option Nat
  /-- the environment's: ranges of host addresses that the host port rejects (03 R71) -/
  rejects : List (Nat × Nat)
  /-- greatest visibility time of the host's writes through the window and to HDM (03 R67) -/
  hostVis : Nat
  deriving DecidableEq, Repr

/-- The machine. -/
structure State where
  pkg : Pkg
  fab : Fabric
  /-- links 0 to 15, one at its reset value where not listed -/
  links : Table Link
  /-- the current hart -/
  hart : Hart
  /-- the other resident harts -/
  harts : List Hart
  /-- gangs by gang id, resident and saved (05 R132 to R135, 10 R260 to R266) -/
  gangs : Table Gang
  nextGang : BitVec 16
  placeCount : Nat
  queues : Table Queue
  park : List Parked
  retTable : Table RetSlot
  ends : List TaskEnd
  reports : List TaskEnd
  rings : List RingJob
  ctxs : Table Ctx
  cores : Table Core
  clusters : Table Cluster
  dies : Table Die
  /-- banks by 192 x cluster + index, one at its reset value where not listed (07 R172) -/
  banks : Table Bank
  tickets : List Ticket
  tlb : List TlbEntry
  /-- local physical memory: bytes by address, 0 where not listed (02 R44) -/
  mem : List Host.Cell
  /-- granules of 32 bytes with an uncorrectable, or a correctable, error (01 R21, 02 R53) -/
  poison : List Nat
  correctable : List Nat
  dir : Table DirLine
  lines : Table LLine
  /-- class L writes on their way to their homes, oldest first, and those that have arrived -/
  ltransit : List LWrite
  lwrites : List LWrite
  peerAcks : List PeerAck
  evicted : Table Nat
  linkTable : List LinkEntry
  sauq : List SauWait
  /-- lines in the ways of the L2 slices left for caching, and whether they are modified, by (48 x die + slice) x 1,024 + set (07 R191) -/
  l2 : Table (List (Nat × Bool))
  hostOut : List HostOut
  insertions : List Insertion
  /-- CXL.cache negotiated, and host lines pulled, with their bytes and whether they are modified (09 R243) -/
  cxlCache : Bool
  pulled : Table (Nat × Bool)
  /-- host lines whose snoop waits for the operations chained for them (09 R243) -/
  snoops : List Nat
  dumpCtx : Option (BitVec 8)
  dumpWaiting : List (BitVec 8)
  /-- the model's own: what the environment and the schedule do next -/
  agenda : List Move
  /-- the model's own: index of the next free value -/
  freshCount : Nat
  deriving DecidableEq, Repr

/-- The launch values of 13 Table 13.2 and 05 R121, in a slot that holds no hart. -/
def Hart.empty : Hart :=
  { live := false, core := 0, slot := 0, ctx := 0, gang := 0, rank := 0, gsize := 0, tiles := 0, grow := false
    pc := 0, sup := false, x := Vector.replicate 32 0, v := Vector.replicate 32 0, m := Vector.replicate 8 0
    acc := Vector.replicate 4 0, vstart := 0, vkeep := 0, vdirty := 0, vxrm := 0, vfrm := 0, vxsat := false
    vfflags := 0, vcarryFmt := 0, vcarryRes := 0, atag := 0, sdisc := false, uiePie := false, uieIe := false
    uepc := 0, ucause := 0, xtid := 0, xhandler := 0, xstat := 0, srbase := 0, srhead := 0, srFlt := false
    srK := 0, srEn := false, stripStart := 0, stripCoins := 0, stripArith := 0, stripMem := 0, stripDue := []
    asampN := 0, aseed := 1, ahist := 0, athrBin := 0, athrCount := 0, actlHandler := 0, vl := 0, vrows := 0
    vcols := 0, vtEew := 0, vtGrp := 0, vlb := 256, vlb0 := 256, tsm := 0, tsn := 0, tsk := 0, tfKind := 0
    tfSat := false, tfTile := 0, tfB := 0, tfA := 0, vispend := 0, instret := 0, dtimeLast := 0, wpsk := false
    tact := false, spp := false, stvec := 0, sepc := 0, scause := 0, stval := 0, cvRestart := 0, cvDone := 0
    cvMember := 0, wpSkip := false, bkcmd := 0, bkstat := 0, bkfifo := 0, link := none, vlinkOpen := false
    vlinkGen := 0, xfers := [], xferEnded := 0, held := [], disp := [], wait := .none
    replies := [], posted := [], postSeq := 0, maxV := 0, rep := none, pauseUntil := 0, relStart := none, lookups := []
    vbad := 0, abad := 0, vsoft := 0, asoft := 0 }

/-- The service core's part after power-on (02 Tables 2.2 to 2.6; 05 Table 5.3). -/
def Pkg.reset : Pkg :=
  { secver := 0, minver := 0, failcode := 0, bootState := 0, maint := false, stage := false, sramce := 0, hbmce := 0
    ue := 0, dreplay := 0, tthrot := 95, ttrip := 110, pcap := 2000, clkpct := 100, tjmax := 0, flash := [], image := []
    tripLog := [], fuseRaises := 0, staged := [], keys := none, stopped := false, tripOut := false, powered := true
    scrubLog := [], spdmAlgos := false, spdmLog := [], maintCl := none, dtime := 0, kcycles := 0, mbxbase := 0
    mwbase := 0, insMgtfail := 0, insBad := 0, insLost := 0, qcResult := 0, qcOp := 0, qcQid := 0
    qcBusy := false, qattr := 0, qlimit := 0, qocc := 0, qsfree := 1097728, pmtrig := 0, pmPending := false, pmLast := 0 }

/-- The fabric after reset (01 Tables 1.8, 1.10 to 1.12; 03 R62; 04 R96). -/
def Fabric.reset : Fabric :=
  { devid := 0xFFF, lrlim := 1000, lnken := 0xFFFF, bridge := true, master := 0xFFF, nbcmd := 0, nbdata := 0, rtIdx := 0, rtEntry := 0, route := []
    grpmap := [], xperm := [], reqs := [], nextTag := 0, mgtDrops := 0, linkEvents := [], held := [], skew := none, rejects := [], hostVis := 0 }

/-- The machine right after power-on reset, before the service core boots (02 R43, R44). -/
def State.reset : State :=
  { pkg := Pkg.reset, fab := Fabric.reset, links := [], hart := Hart.empty, harts := [], gangs := [], nextGang := 0
    placeCount := 0, queues := [], park := [], retTable := [], ends := [], reports := [], rings := [], ctxs := [], cores := []
    clusters := [], dies := [], banks := [], tickets := [], tlb := [], mem := [], poison := [], correctable := []
    dir := [], lines := [], ltransit := [], lwrites := [], peerAcks := [], evicted := [], linkTable := [], sauq := [], l2 := [], hostOut := [], insertions := []
    cxlCache := false, pulled := [], snoops := [], dumpCtx := none, dumpWaiting := [], agenda := []
    freshCount := 0 }

end Sys2Proof.Machine
end

