-- ==== Sys2Proof/Machine/Bits.lean ====
section
/-!
DEFINITION. Bit fields, register images and sparse tables: the helpers every operation uses.
-/
namespace Sys2Proof.Machine

/-- Entry `k` of a sparse table, if listed. -/
def tget {α : Type} : Table α → Nat → Option α
  | [], _ => none
  | (k, a) :: t, n => if k = n then some a else tget t n

/-- Set entry `k` of a sparse table, keys strictly rising. -/
def tset {α : Type} : Table α → Nat → α → Table α
  | [], n, v => [(n, v)]
  | (k, a) :: t, n, v => if n < k then (n, v) :: (k, a) :: t else if n = k then (n, v) :: t else (k, a) :: tset t n v

/-- Remove entry `k` of a sparse table. -/
def tdel {α : Type} : Table α → Nat → Table α
  | [], _ => []
  | (k, a) :: t, n => if k = n then t else (k, a) :: tdel t n

/-- Entry `k` of a sparse table, or the table's default. -/
def tgetD {α : Type} (t : Table α) (n : Nat) (d : α) : α := (tget t n).getD d

/-- Set entry `k`, leaving a default unlisted. -/
def tsetD {α : Type} [DecidableEq α] (t : Table α) (n : Nat) (v d : α) : Table α := if v = d then tdel t n else tset t n v

/-- Bits [lo + n - 1 : lo] of a number (00 R5). -/
def nfield (v lo n : Nat) : Nat := (v >>> lo) % 2 ^ n

/-- A number with bits [lo + n - 1 : lo] replaced. -/
def nsetField (v lo n x : Nat) : Nat := (v >>> (lo + n)) <<< (lo + n) + ((x % 2 ^ n) <<< lo) + v % 2 ^ lo

/-- A bit of a number. -/
def nbit (v i : Nat) : Bool := v.testBit i

/-- A number with bit `i` set to `b`. -/
def nsetBit (v i : Nat) (b : Bool) : Nat := nsetField v i 1 b.toNat

/-- A BitVec with bit `i` set to `b`. -/
def bset {n : Nat} (v : BitVec n) (i : Nat) (b : Bool) : BitVec n :=
  if b then v ||| BitVec.twoPow n i else v &&& ~~~ BitVec.twoPow n i

/-- A word with bits [lo + n - 1 : lo] replaced. -/
def wsetField {m : Nat} (w : BitVec m) (lo n : Nat) (x : Nat) : BitVec m := BitVec.ofNat m (nsetField w.toNat lo n x)

/-- Bits [lo + n - 1 : lo] of a word as a number. -/
def wfield {m : Nat} (w : BitVec m) (lo n : Nat) : Nat := nfield w.toNat lo n

/-- Bit `i` of a word. -/
def wbit {m : Nat} (w : BitVec m) (i : Nat) : Bool := w.getLsbD i

/-- The low `n` bits of an integer as a number (12 Table 12.15 zext; narrowing of 00 R14). -/
def narrow (n : Nat) (v : Int) : Nat := (v % (2 ^ n : Nat)).toNat

/-- The low `n` bits of a number, sign-extended to an integer (12 Table 12.15). -/
def sextN (n v : Nat) : Int := if n = 0 then 0 else
  let u := v % 2 ^ n
  if u < 2 ^ (n - 1) then (u : Int) else (u : Int) - (2 ^ n : Nat)

/-- `v` limited to `lo` to `hi` (12 Table 12.15). -/
def clampI (v lo hi : Int) : Int := if v < lo then lo else if hi < v then hi else v

/-- Least multiple of `m` not below `v`. -/
def roundUp (v m : Nat) : Nat := (v + m - 1) / m * m

/-- ceil(a / b). -/
def cdiv (a b : Nat) : Nat := (a + b - 1) / b

/-- Whether serial number `a` precedes `b` modulo 256 (08 R198). -/
def precedes (a b : BitVec 8) : Bool := a ≠ b ∧ (b - a).toNat < 128

end Sys2Proof.Machine
end

