-- ==== Sys2Proof/Machine/Memory.lean ====
section
/-!
DEFINITION. Byte memory: a list of cells with strictly rising addresses, no cell equal to the 0 that an unlisted address
reads as (02 R44 step 3 clears memory). Little-endian accesses of several bytes (00 R6).
-/
namespace Sys2Proof.Machine

/-- The byte at an address; 0 where not listed. -/
def memGet : List Host.Cell → Nat → Byte
  | [], _ => 0
  | (k, b) :: m, a => if k = a then b else if a < k then 0 else memGet m a

/-- Write a nonzero byte, or remove the cell for a zero byte. -/
def memSet : List Host.Cell → Nat → Byte → List Host.Cell
  | [], a, b => if b = 0 then [] else [(a, b)]
  | (k, c) :: m, a, b =>
    if a < k then (if b = 0 then (k, c) :: m else (a, b) :: (k, c) :: m)
    else if a = k then (if b = 0 then m else (a, b) :: m)
    else (k, c) :: memSet m a b

/-- `n` bytes from an address up. -/
def memRead (m : List Host.Cell) : Nat → Nat → List Byte
  | _, 0 => []
  | a, n + 1 => memGet m a :: memRead m (a + 1) n

/-- Write bytes from an address up. -/
def memWrite (m : List Host.Cell) : Nat → List Byte → List Host.Cell
  | _, [] => m
  | a, b :: bs => memWrite (memSet m a b) (a + 1) bs

/-- The cells above an address hold the canonical form. -/
def Memory.wfFrom : Nat → List Host.Cell → Bool
  | _, [] => true
  | lo, (k, b) :: m => lo ≤ k && b != 0 && Memory.wfFrom (k + 1) m

/-- The canonical form of memory: addresses strictly rising, no cell that holds 0. -/
def Memory.wf (m : List Host.Cell) : Bool := Memory.wfFrom 0 m

/-- A little-endian number of `n` bytes of memory. -/
def memNat (m : List Host.Cell) (a n : Nat) : Nat := leNat (memRead m a n)

end Sys2Proof.Machine
end

