-- ==== Sys2Proof/Machine/Ops.lean ====
section
/-!
DEFINITION. The named operations over registers, harts, time, memory and the fabric, taking a trap and returning from one.
-/
namespace Sys2Proof.Machine

/-! ### Registers and harts -/

/-- x[r]; x0 reads 0 (00 R14). -/
def State.getX (s : State) (r : Reg) : Word := if r = 0#5 then 0 else s.hart.x[r.toNat]'(by omega)

/-- x[r] := v; writes to x0 are discarded (00 R14). -/
def State.setX (s : State) (r : Reg) (v : Word) : State :=
  if r = 0#5 then s else { s with hart := { s.hart with x := s.hart.x.set r.toNat v (by omega) } }

/-- The cluster of a core (10, core = 64 x die + 8 x cluster + core within the cluster). -/
def clusterOf (core : BitVec 8) : BitVec 5 := field core 3 5

/-- The die of a core. -/
def dieOf (core : BitVec 8) : BitVec 2 := field core 6 2

/-- The hart's slot of the package. -/
def Hart.ref (h : Hart) : HartRef := { core := h.core, slot := h.slot }

/-- The hart in a slot, the current one among them. -/
def State.findHart (s : State) (r : HartRef) : Option Hart :=
  if s.hart.live ∧ s.hart.ref = r then some s.hart else s.harts.find? (fun h => h.live ∧ h.ref = r)

/-- Change the hart in a slot. -/
def State.modHart (s : State) (r : HartRef) (f : Hart → Hart) : State :=
  if s.hart.live ∧ s.hart.ref = r then { s with hart := f s.hart }
  else { s with harts := s.harts.map (fun h => if h.live ∧ h.ref = r then f h else h) }

/-- Make the hart in a slot the current one. -/
def State.select (s : State) (r : HartRef) : State :=
  if s.hart.live ∧ s.hart.ref = r then s
  else
    match s.harts.find? (fun h => h.live ∧ h.ref = r) with
    | none => s
    | some h =>
      let others := s.harts.filter (fun g => ¬ (g.live ∧ g.ref = r))
      { s with hart := h, harts := if s.hart.live then s.hart :: others else others }

/-- Do something as the hart in a slot, if there is one. -/
def State.asHart (s : State) (r : HartRef) (f : State → Host.Outcome State Fault Refusal) : Host.Outcome State Fault Refusal :=
  if (s.select r).hart.live ∧ (s.select r).hart.ref = r then f (s.select r) else .next s

/-- Every resident hart, the current one first. -/
def State.allHarts (s : State) : List Hart := if s.hart.live then s.hart :: s.harts else s.harts

/-- The harts of a core. -/
def State.coreHarts (s : State) (core : BitVec 8) : List Hart := s.allHarts.filter (fun h => h.core = core)

/-- Change every resident hart. -/
def State.mapHarts (s : State) (f : Hart → Hart) : State :=
  { s with hart := if s.hart.live then f s.hart else s.hart, harts := s.harts.map f }

/-- Change the current hart. -/
def State.withHart (s : State) (f : Hart → Hart) : State := { s with hart := f s.hart }

/-- A core no instruction has touched (10 Tables 10.9, 10.10; 05 R136). -/
def Core.empty : Core :=
  { purses := [], pm := [], send := [], sendGen := [], arit := [], icache := [], icBad := [], lastSlot := 0, dShart := 0
    dTren := false, dWpact := false, dEbh := false, dRstep := 0, dHart := 0, dReason := 0, dNosnap := false
    dHalted := false, dbbp := 0, dbwp := 0, snapped := false, stepping := none, stepBegan := false }

/-- A cluster at reset (02 Table 2.4; 07 Table 7.2; 05 R131). -/
def Cluster.empty : Cluster :=
  { hbkcmd := 0, hbkstat := 0, hbkfifo := 0, bankCmd := [], stream := [], escrow := [], ring := 0, ringPaid := false, deficit := []
    ring0 := 0, reserved := none, closed := none, mwin := 0, guard := 20, ageIdx := 0 }

/-- A die at reset (10 R274, R276). -/
def Die.empty : Die :=
  { sort := [], missQ := [], walks := [], uncore := [], sinkBase := 0, sinkSize := 0, sinkPos := 0, sinkLost := 0 }

/-- A context in FREE (03 Tables 3.4, 3.5). -/
def Ctx.empty : Ctx :=
  { state := .free, run := false, ftrap := false, fqirq := false, stopPending := false, resetHeld := false, fqlost := 0
    ptbase := 0, fqbase := 0, fqhead := 0, fqtail := 0, evq := 0, ovbase := 0, ovhead := 0, ovtail := 0, htbase := 0
    ctxirqa := 0, ctxirqd := 0, dumpbase := 0, dumpsize := 0, quota := 0, ssvpool := 0, frames := [], tlbinv := []
    epoch := 0, codes := [], adis := false, sauSticky := false, dumpRecs := [], dumpFault := none }

/-- A core's state. -/
def State.core (s : State) (c : BitVec 8) : Core := tgetD s.cores c.toNat Core.empty
/-- Change a core's state. -/
def State.modCore (s : State) (c : BitVec 8) (f : Core → Core) : State :=
  { s with cores := tset s.cores c.toNat (f (s.core c)) }
/-- A cluster's state. -/
def State.cluster (s : State) (c : BitVec 5) : Cluster := tgetD s.clusters c.toNat Cluster.empty
/-- Change a cluster's state. -/
def State.modCluster (s : State) (c : BitVec 5) (f : Cluster → Cluster) : State :=
  { s with clusters := tset s.clusters c.toNat (f (s.cluster c)) }
/-- A die's state. -/
def State.die (s : State) (d : BitVec 2) : Die := tgetD s.dies d.toNat Die.empty
/-- Change a die's state. -/
def State.modDie (s : State) (d : BitVec 2) (f : Die → Die) : State :=
  { s with dies := tset s.dies d.toNat (f (s.die d)) }
/-- A context's state. -/
def State.ctx (s : State) (c : BitVec 8) : Ctx := tgetD s.ctxs c.toNat Ctx.empty
/-- Change a context's state. -/
def State.modCtx (s : State) (c : BitVec 8) (f : Ctx → Ctx) : State :=
  { s with ctxs := tset s.ctxs c.toNat (f (s.ctx c)) }
/-- Change a gang. -/
def State.modGang (s : State) (g : BitVec 16) (f : Gang → Gang) : State :=
  match tget s.gangs g.toNat with
  | some v => { s with gangs := tset s.gangs g.toNat (f v) }
  | none => s
/-- Change a queue. -/
def State.modQueue (s : State) (q : BitVec 16) (f : Queue → Queue) : State :=
  match tget s.queues q.toNat with
  | some v => { s with queues := tset s.queues q.toNat (f v) }
  | none => s

/-- One more in a counter of 16 bits that saturates. -/
def satUp (c : BitVec 16) : BitVec 16 := if c = 0xFFFF then 0xFFFF else c + 1
/-- Count an uncorrectable error in `errcnt.ue` (02 Table 2.2). -/
def State.countUe (s : State) : State := { s with pkg := { s.pkg with ue := satUp s.pkg.ue } }
/-- Count corrected errors of SRAMs (02 R53, Table 2.2). -/
def State.sramUp (s : State) (k : Nat) : State :=
  if k = 0 then s else { s with pkg := { s.pkg with sramce := BitVec.ofNat 16 (min 0xFFFF (s.pkg.sramce.toNat + k)) } }
/-- Count the granules with a correctable error that an access to memory reads (01 R21, 02 R53, Table 2.2). -/
def State.scrubbed (s : State) (pa n : Nat) : State :=
  let k := (s.correctable.filter (fun g => g * 32 < pa + n ∧ pa < g * 32 + 32)).length
  if k = 0 then s else { s with pkg := { s.pkg with hbmce := BitVec.ofNat 16 (min 0xFFFF (s.pkg.hbmce.toNat + k)) } }

/-- Write bytes of local memory; a 32-byte check unit written whole holds good check data again, where it was uncorrectable; one with a
correctable error keeps it until a scrub (01 R21; DEDUCED, log 21). -/
def State.putMem (s : State) (pa : Nat) (data : List Byte) : State :=
  { s with mem := memWrite s.mem pa data, poison := s.poison.filter (fun g => g * 32 < pa ∨ pa + data.length < g * 32 + 32) }

/-- The next free word (log 1). -/
def State.freshWord (s : State) : Word × State := (Config.freeWord s.freshCount, { s with freshCount := s.freshCount + 1 })
/-- The next free choice (log 1). -/
def State.freshBool (s : State) : Bool × State := (Config.freeBool s.freshCount, { s with freshCount := s.freshCount + 1 })
/-- The next free image below 2^n (log 1). -/
def State.freshImage (s : State) (n : Nat) : Nat × State :=
  (Config.freeNat s.freshCount % 2 ^ n, { s with freshCount := s.freshCount + 1 })

/-! ### Counters and retiring -/

/-- The event number of 10 Table 10.11 for `n` counts on the current hart's core. -/
def State.count (s : State) (ev : Nat) (n : Nat) : State :=
  match tget s.cores s.hart.core.toNat with
  | none => s
  | some c =>
    let bump (p : Nat × PmCounter) : Nat × PmCounter :=
      if p.2.en ∧ p.2.event.toNat = ev ∧ p.2.ctx = s.hart.ctx ∧ (if s.hart.sup then p.2.s else p.2.u)
      then (p.1, { p.2 with count := p.2.count + BitVec.ofNat 48 n }) else p
    { s with cores := tset s.cores s.hart.core.toNat { c with pm := c.pm.map bump } }

/-- The event for `n` counts of a hart, on its core. -/
def State.countFor (s : State) (h : Hart) (ev n : Nat) : State := { State.count { s with hart := h } ev n with hart := s.hart }

/-- An uncore event of a die (10 R276). -/
def State.uncount (s : State) (d : BitVec 2) (ev : Nat) (n : Nat) : State :=
  match tget s.dies d.toNat with
  | none => s
  | some c =>
    let bump (p : Nat × Uncore) : Nat × Uncore :=
      if p.2.sel.getLsbD 63 ∧ wfield p.2.sel 0 8 = ev then (p.1, { p.2 with count := p.2.count + BitVec.ofNat 48 n }) else p
    { s with dies := tset s.dies d.toNat { c with uncore := c.uncore.map bump } }

/-- What retiring an instruction or a convoy does to the hart besides its effect: the count of 10 Table 10.10, and the end
of a one-instruction watchpoint skip (10 R253) and of the replies it consumed. -/
def Hart.retired (h : Hart) : Hart := { h with instret := h.instret + 1, wpSkip := false, replies := [], wait := .none, relStart := none, lookups := [] }

/-- The closing points of strips with no convoy left before them have come: each takes the counts of its strip, and the next strip begins
(10 R278, R279). -/
def closePoints (cycles : Nat) : List StripDue → Hart → List StripDue × Hart
  | [], h => ([], h)
  | d :: ds, h =>
    if d.ahead = 0 ∧ d.counts = none then
      let c := (cycles - h.stripStart, h.stripCoins, h.stripArith, h.stripMem)
      let (ds, h) := closePoints cycles ds { h with stripStart := cycles, stripCoins := 0, stripArith := 0, stripMem := 0 }
      ({ d with counts := some c } :: ds, h)
    else
      let (ds, h) := closePoints cycles ds h
      (d :: ds, h)

/-- The closing points that have come. -/
def Hart.stripPoints (h : Hart) (cycles : Nat) : Hart :=
  let (ds, k) := closePoints cycles h.stripDue h
  { k with stripDue := ds }

/-- Convoys before the strips that are due are gone: so many of the oldest have drained (10 R278). -/
def Hart.stripsAfter (h : Hart) (n cycles : Nat) : Hart :=
  Hart.stripPoints { h with stripDue := h.stripDue.map (fun d => { d with ahead := d.ahead - n }) } cycles

/-- A scalar instruction retires at the next pc (10 Table 10.10, Table 10.11 event 1). -/
def State.retireAt (s : State) (pc : Word) : State :=
  State.count { s with hart := { s.hart.retired with pc := pc } } 1 1

/-- A scalar instruction retires and execution goes on sequentially. -/
def State.retire (s : State) : State := s.retireAt (s.hart.pc + 4)

/-! ### Trace (10 R274) -/

/-- Records that fit a die's trace sink. -/
def Die.sinkCap (d : Die) : Nat := d.sinkSize.toNat * 256

/-- Store a trace record of the current hart at the sink's next place. -/
def State.traceRec (s : State) (kind : Nat) (second : Word) : State :=
  let d := s.die (dieOf s.hart.core)
  let w0 := wfield s.hart.pc 0 48 + s.hart.slot.toNat <<< 48 + kind <<< 52 + wfield s.pkg.dtime 0 8 <<< 56
  let at' := (wfield d.sinkBase 12 40) <<< 12 + 16 * (d.sinkPos % d.sinkCap)
  ((s.putMem at' (leBytes 8 w0)).putMem (at' + 8) (leBytes 8 second.toNat)).modDie (dieOf s.hart.core)
    (fun d => { d with sinkPos := d.sinkPos + 1 })

/-- Trace an event of the current hart, when its core traces; a sink without room loses it, and a record of kind 5 counts those lost before
the next record it takes (10 R274, 13 R365). -/
def State.trace (s : State) (kind : Nat) (second : Word) : State :=
  if (s.core s.hart.core).dTren then
    let d := s.die (dieOf s.hart.core)
    if d.sinkCap = 0 then s.modDie (dieOf s.hart.core) (fun d => { d with sinkLost := d.sinkLost + 1 })
    else if d.sinkLost = 0 then s.traceRec kind second
    else
      ((s.traceRec 5 (BitVec.ofNat 64 d.sinkLost)).modDie (dieOf s.hart.core) (fun d => { d with sinkLost := 0 })).traceRec kind second
  else s

/-- Trace an event whose second word the spec does not give (log 1). -/
def State.traceFree (s : State) (kind : Nat) : State :=
  if (s.core s.hart.core).dTren then s.freshWord.2.trace kind s.freshWord.1 else s

/-! ### Fault records, and the end of a context's running (03 R77 to R80, 10 R254, R267) -/

/-- The 32 bytes of a fault record (03 Table 3.7). -/
def FaultRec.bytes (r : FaultRec) : List Byte :=
  leBytes 8 r.time.toNat
    ++ leBytes 8 (r.kind.toNat <<< 56 + r.cause.toNat <<< 48 + r.gang.toNat <<< 32 + r.handler.toNat <<< 16 + r.queue.toNat)
    ++ leBytes 8 r.addr.toNat ++ leBytes 8 r.pc.toNat

/-- log2 of a ring's entries, from `fqbase` or `ovbase` (03 Table 3.4); none where the value disables the ring. -/
def ringLog (base : Word) : Option Nat :=
  let n := wfield base 0 5
  if 7 ≤ n ∧ n ≤ 16 then some n else none

/-- Append a packet to the transmit queue of a port, or answer that there is no route (01 R34, R39). Packets to the
device itself go to its own agenda as an arrival. -/
def routePort (s : State) (dst : BitVec 12) : Option (BitVec 4) :=
  let e := tgetD s.fab.route dst.toNat 0
  if e.getLsbD 7 then some (field e 0 4) else none

/-- The reset value of a link (01 Table 1.9, R30). -/
def Link.reset : Link :=
  { state := .down, width := 0, fecfix := 0, naks := 0, retrains := 0, peerid := 0xFFF, rxNext := 0, rxDiscard := false
    rxPart := [], rxOwed := [], owedFor := 0, txNext := 0, retry := [], replay := [], credits := [], txq := [], txFlits := [], nakRun := 0
    nakAck := 0, idle := [], since := 0, stamped := 0, out := [] }

/-- A link port. -/
def State.link (s : State) (p : BitVec 4) : Link := tgetD s.links p.toNat Link.reset
/-- Change a link port. -/
def State.modLink (s : State) (p : BitVec 4) (f : Link → Link) : State :=
  { s with links := tset s.links p.toNat (f (s.link p)) }

/-- Queue a packet at a port. -/
def State.enqueue (s : State) (port : BitVec 4) (p : Packet) : State :=
  s.modLink port (fun l => { l with txq := l.txq ++ [p] })

/-- What `sendPacket` found for a packet's destination. -/
inductive Sent where
  /-- queued at a port -/
  | at (port : BitVec 4)
  /-- the host port took it, or it is for this device and arrives next -/
  | loop
  /-- no valid route: it fails at its source (01 R39) -/
  | failed
  deriving DecidableEq, Repr

/-- A packet of this device for itself, which crosses no link. -/
def State.sendSelf (s : State) (p : Packet) : State := { s with agenda := s.agenda ++ [.packet p] }

/-- Send a packet with hops = 15 (01 R34): to this device itself, held at the source (R35), or to the port of its route; a device without
an id sends none. -/
def State.sendPacket (s : State) (p : Packet) : Sent × State :=
  if s.fab.devid = 0xFFF then (.failed, s)
  else if p.dst = s.fab.devid then (.at 0xF, s.sendSelf p)
  else
    match routePort s p.dst with
    | some port =>
      if wbit (tgetD s.fab.route p.dst.toNat 0) 6 then (.at port, { s with fab := { s.fab with held := s.fab.held ++ [p] } })
      else (.at port, s.enqueue port { p with port := port })
    | none => (.failed, s)

/-- The channel of a packet by its class and operation (01 Table 1.4); invocation packets travel by priority. -/
def chanOf (cls : BitVec 3) (op : BitVec 5) : BitVec 3 :=
  match cls.toNat with
  | 0 => if op = 0 ∨ op = 2 then 0 else 1
  | 1 => if op = 0 then 0 else 1
  | 3 => if op = 0 ∨ op = 2 ∨ op = 4 then 0 else 1
  | _ => 6

/-- The channel of an invocation packet of a priority (01 Table 1.4). -/
def chanInv (pri : BitVec 3) : BitVec 3 := BitVec.ofNat 3 (2 + pri.toNat / 2)

/-- Take the next request tag (01 R32). -/
def State.newTag (s : State) : BitVec 10 × State :=
  (s.fab.nextTag, { s with fab := { s.fab with nextTag := s.fab.nextTag + 1 } })

/-- Record an outstanding request (01 R32, R40). -/
def State.await (s : State) (r : Request) : State := { s with fab := { s.fab with reqs := s.fab.reqs ++ [r] } }

/-- A packet of this device's own (01 R34). -/
def State.mkPacket (s : State) (dst : BitVec 12) (cls : BitVec 3) (op : BitVec 5) (tag : BitVec 10) (ctx : BitVec 8)
    (body : List Word) : Packet :=
  { dst := dst, src := s.fab.devid, cls := cls, op := op, tag := tag, len := BitVec.ofNat 6 (cdiv (8 + 8 * body.length) 56 - 1)
    ctx := ctx, hops := 15, chan := chanOf cls op, body := body, port := 0 }

/-- Send an answer: to this device itself, whether or not it has an id, or by a route. -/
def State.sendAnswer (s : State) (p : Packet) : State := if p.dst = s.fab.devid then s.sendSelf p else (s.sendPacket p).2

/-- A request that left the device: to a neighbour, or to another device (01 R32, R40). -/
def Request.away (r : Request) (devid : BitVec 12) : Bool := r.waiter = .nbcmd || r.waiter = .stamp || r.dst ≠ devid

/-- Words of little-endian bytes, padded with zero bytes (08 Table 8.3). -/
def bytesWords : List Byte → List Word
  | [] => []
  | b0 :: b1 :: b2 :: b3 :: b4 :: b5 :: b6 :: b7 :: bs => (b7 ++ b6 ++ b5 ++ b4 ++ b3 ++ b2 ++ b1 ++ b0) :: bytesWords bs
  | bs => [BitVec.ofNat 64 (leNat bs)]

/-- Bytes of little-endian words. -/
def wordsBytes (ws : List Word) : List Byte := ws.flatMap (fun w => leBytes 8 w.toNat)

/-- The host port rejects an access to these bytes of the host (03 R71). -/
def hostRejects (s : State) (addr n : Nat) : Bool := s.fab.rejects.any (fun r => r.1 < addr + n ∧ addr < r.2)

/-- Write to host memory: through the host port on the bridge, else by a host-class packet, whose data are padded to a multiple of 8 bytes
(03 R71, R80; log 39). -/
def State.hostWrite (s : State) (addr : Nat) (data : List Byte) (w : Waiter) : Sent × BitVec 10 × State :=
  let (tag, s) := s.newTag
  if s.fab.bridge ∧ hostRejects s addr data.length then (.failed, tag, s)
  else if s.fab.bridge then (.loop, tag, { s with hostOut := s.hostOut ++ [HostOut.write addr data] })
  else
    let hd : Word := BitVec.ofNat 64 (addr % 2 ^ 52 + data.length <<< 56)
    let (r, s) := s.sendPacket (s.mkPacket s.fab.master 3 2 tag 0 (hd :: bytesWords data))
    match r with
    | .at port => (r, tag, s.await { tag := tag, dst := s.fab.master, port := port, since := s.pkg.dtime.toNat, waiter := w, lease := none })
    | _ => (r, tag, s)

/-- Post a fault record to a context (03 R77, R80, R82); a context that is DUMPING also keeps it for its dump. -/
def State.postFault (s : State) (c : BitVec 8) (r : FaultRec) : State :=
  let x := s.ctx c
  match x.state with
  | .resetting => s
  | _ =>
    let full (n : Nat) : Bool := (x.fqtail - x.fqhead).toNat = 2 ^ n
    match ringLog x.fqbase with
    | none => s.modCtx c (fun x => { x with fqlost := if x.fqlost = BitVec.allOnes 32 then x.fqlost else x.fqlost + 1 })
    | some n =>
      if full n then s.modCtx c (fun x => { x with fqlost := if x.fqlost = BitVec.allOnes 32 then x.fqlost else x.fqlost + 1 })
      else
        let a := (wfield x.fqbase 12 40) <<< 12 + 32 * (x.fqtail.toNat % 2 ^ n)
        let s := s.putMem a r.bytes
        let s := s.modCtx c (fun x => { x with fqtail := x.fqtail + 1 })
        if x.fqirq then (s.hostWrite x.ctxirqa.toNat (leBytes 4 x.ctxirqd.toNat) .other).2.2 else s

/-- The writes of a gang's harts so far, and their engine transfers in flight (04 R108). -/
def State.gangReleases (s : State) (g : Nat) : List Release :=
  (s.allHarts.filter (fun h => h.gang.toNat = g)).map (fun h =>
    { gang := h.gang, rank := h.rank, seq := h.postSeq, v := h.maxV
      xfers := (h.xfers.filter (fun x => x.state = .running)).map (fun x => x.id) })

/-- A fatal fault of their context ends the tasks of its resident gangs: what was called is reported as HFAULT (04 R108, R109). -/
def State.faultGangs (s : State) (c : BitVec 8) : State :=
  let mine (g : Gang) : Bool := g.ctx = c && !g.saved && wbit g.task.w0 47
  let ends := (s.gangs.filter (fun p => mine p.2)).map (fun p =>
    { ctx := c, gang := BitVec.ofNat 16 p.1, queue := p.2.queue, join := 0, rslot := wfield p.2.task.w0 48 16, outcome := 2
      rels := s.gangReleases p.1 : TaskEnd })
  let gangs := s.gangs.map (fun p => if mine p.2 then (p.1, { p.2 with task := { p.2.task with w0 := bset p.2.task.w0 47 false } }) else p)
  { s with reports := s.reports ++ ends, gangs := gangs }

/-- The size of a dump's header for so many gangs (10 Table 10.8). -/
def dumpHeadSize (n : Nat) : Nat := 0x240 + 16 * n

/-- A context's dump region holds the header; else it has no dump at all (10 R267). -/
def dumpFits (s : State) (c : BitVec 8) : Bool :=
  dumpHeadSize (s.gangs.filter (fun p => p.2.ctx = c)).length ≤ (s.ctx c).dumpsize.toNat

/-- A fatal fault of a context (10 R254, R267 to R269): a record of kind 1; the context enters DUMPING, or DEAD where it has no dump, and its
harts stop; or, when it is already DUMPING, the record joins its dump. -/
def State.fatalFault (s : State) (c : BitVec 8) (cause : BitVec 8) (gang : BitVec 16) (pc addr : Word) : State :=
  let r : FaultRec := { time := s.pkg.dtime, kind := 1, cause := cause, gang := gang, handler := 0xFFFF, queue := 0xFFFF
                        addr := addr, pc := pc }
  let s := s.postFault c r
  match (s.ctx c).state with
  | .running =>
    let dump := dumpFits s c
    let s := s.modCtx c (fun x => { x with state := if dump then .dumping else .dead, run := false, stopPending := false, dumpRecs := [r] })
    let s := (s.mapHarts (fun h => if h.ctx = c then { h with wait := .halted } else h)).faultGangs c
    if dump then { s with dumpWaiting := s.dumpWaiting ++ [c] } else s
  | .dumping =>
    s.modCtx c (fun x => { x with dumpRecs := if x.dumpRecs.length < 16 then x.dumpRecs ++ [r] else x.dumpRecs
                                  dumpFault := if s.dumpCtx = some c ∧ x.dumpFault.isNone then some gang else x.dumpFault })
  | _ => s

/-- A fatal fault in the device's own access to a context's memory; an uncorrectable error is counted. -/
def State.fatalError (s : State) (c : BitVec 8) (cause : BitVec 8) (gang : BitVec 16) (pc addr : Word) : State :=
  (if cause = 0x15 then s.countUe else s).fatalFault c cause gang pc addr

/-! ### Traps -/

/-- The trap of a convoy or of a member reports these (06 R167); every other trap writes 0 to `cvidx`. -/
structure TrapCv where
  vstart : Word
  restart : BitVec 6
  done : BitVec 6
  member : BitVec 3
  deriving DecidableEq, Repr

/-- The state of the hart at the first instruction of its trap handler (10 R252). -/
def Hart.trapEntry (h : Hart) (cause : BitVec 8) (tval : Word) (cv : Option TrapCv) : Hart :=
  let h := match cv with
    | some v => { h with vstart := v.vstart, cvRestart := v.restart, cvDone := v.done, cvMember := v.member }
    | none => { h with cvRestart := 0, cvDone := 0, cvMember := 0 }
  { h with sepc := h.pc, scause := cause, stval := tval, spp := h.sup, tact := true, sup := true
           pc := BitVec.ofNat 64 (h.stvec.toNat * 4), wpSkip := false, wait := .none, replies := [], relStart := none, lookups := [] }

/-- The entry covers the page of an address of a context. -/
def TlbEntry.covers (t : TlbEntry) (c : BitVec 8) (va : Nat) : Bool := t.ctx = c ∧ va >>> t.bits = t.base >>> t.bits

/-- The faults of an access, whose `stval` holds its address: 0x05 to 0x09, 0x15. -/
def accessCause (cause : BitVec 8) : Bool := (0x05 ≤ cause.toNat ∧ cause.toNat ≤ 0x09) || cause = 0x15

/-- An access that faults has missed the TLBs and started a walk like any other (10 R275, R276). -/
def State.countWalk (s : State) (cause : BitVec 8) (tval : Word) : State :=
  let t := s.tlb.filter (fun t => t.covers s.hart.ctx tval.toNat)
  if ¬ accessCause cause ∨ 0xFC0000000000 ≤ tval.toNat ∨ t.any (fun t => !t.second && t.unit = s.hart.core) then s
  else
    let s := s.count 0x0B 1
    if t.any (fun t => t.second && t.unit = (clusterOf s.hart.core).setWidth 8) then s else s.uncount (dieOf s.hart.core) 7 1

/-- A trap is taken (10 R252), or is a fatal fault of the context (10 R254). -/
def State.takeTrap (s : State) (cause : BitVec 8) (tval : Word) (cv : Option TrapCv) : State :=
  let s := (if cause = 0x15 then s.countUe else s).countWalk cause tval
  if s.hart.tact ∨ s.hart.stvec = 0 then s.fatalFault s.hart.ctx cause s.hart.gang s.hart.pc tval
  else
    let s := (s.count 0x13 1).trace 1 (cause.setWidth 64)
    { s with hart := s.hart.trapEntry cause tval cv }

/-- TRET's effect on the hart (10 R253). -/
def Hart.trapReturn (h : Hart) : Hart :=
  { h with pc := h.sepc, sup := h.spp, tact := false, wpSkip := h.wpsk, wpsk := false, instret := h.instret + 1
           wait := .none, replies := [], relStart := none, lookups := [] }

/-! ### What an operation of an instruction answers -/

/-- Why an instruction cannot complete now. -/
inductive Need where
  /-- a request packet whose answer the instruction needs (01 R32) -/
  | request (dst : BitVec 12) (cls : BitVec 3) (op : BitVec 5) (ctx : BitVec 8) (body : List Word)
  /-- a read of host memory (03 R71) -/
  | hostRead (addr : Nat) (len : Nat)
  /-- an atomic on a host page of the bridge's own port (09 R243) -/
  | hostAtomic (body : List Word)
  /-- an atomic at its home on this device that takes its turn among others, or its visibility time, and the page's da bit (07 R192, 08
  R207) -/
  | sau (op : SauOp) (l da : Bool)
  /-- the hart's core halts in debug with this reason (10 Table 10.9) -/
  | halt (reason : BitVec 4)
  /-- the waits of a release of system scope, which began at this time (08 R228, 13 R354) -/
  | release (start : Word)
  /-- something else the hart waits for -/
  | wait (w : Wait)
  deriving DecidableEq, Repr

/-- The answer of an operation: a value and a state, a trap, or a need. -/
inductive Res (α : Type) where
  | ok (a : α) (s : State)
  | trap (cause : BitVec 8) (tval : Word)
  | need (n : Need)

/-- Go on with a value. -/
def Res.bind {α β : Type} (r : Res α) (f : α → State → Res β) : Res β :=
  match r with
  | .ok a s => f a s
  | .trap c t => .trap c t
  | .need n => .need n

/-- The key of a line of a peer's memory. -/
def peerLine (dev : BitVec 12) (pa : Nat) : Nat := (dev.toNat + 1) * 2 ^ 52 + pa / 128

/-- The peer line that a memory read asks a lease of (08 Table 8.3). -/
def leaseOf (dst : BitVec 12) (cls : BitVec 3) (op : BitVec 5) (body : List Word) : Option Nat :=
  let hd := body.headD 0
  if cls = 0 ∧ op = 0 ∧ wbit hd 63 then some (peerLine dst (wfield hd 0 52)) else none

/-- Send a request for the current hart, which waits for its answer; one that has no route fails at once (01 R39). -/
def State.request (s : State) (dst : BitVec 12) (cls : BitVec 3) (op : BitVec 5) (ctx : BitVec 8) (body : List Word) : State :=
  let (tag, s) := s.newTag
  let (r, s) := s.sendPacket (s.mkPacket dst cls op tag ctx body)
  match r with
  | .at port =>
    let s := s.await { tag := tag, dst := dst, port := port, since := s.pkg.dtime.toNat, waiter := .hart s.hart.ref
                       lease := leaseOf dst cls op body }
    s.withHart (fun h => { h with wait := .reply tag })
  | _ => s.withHart (fun h => { h with replies := h.replies ++ [{ tag := tag, status := 0xFF, data := [], time := s.pkg.dtime.toNat }] })

/-- The hart waits, at its instruction, for what it needs. -/
def State.applyNeed (s : State) (n : Need) : State :=
  match n with
  | .request dst cls op ctx body => s.request dst cls op ctx body
  | .sau op l da =>
    let (tag, s) := s.newTag
    let o : SauWait := { op := { op with reply := some (s.fab.devid, tag) }, l := l, da := da, placed := false }
    let s := { s with sauq := s.sauq ++ [o] }.await
      { tag := tag, dst := s.fab.devid, port := 0xF, since := s.pkg.dtime.toNat, waiter := .hart s.hart.ref, lease := none }
    s.withHart (fun h => { h with wait := .reply tag })
  | .hostRead addr len =>
    if s.fab.bridge ∧ hostRejects s addr len then
      s.withHart (fun h => { h with replies := h.replies ++ [{ tag := s.fab.nextTag, status := 0xFF, data := [], time := s.pkg.dtime.toNat }] })
    else if s.fab.bridge then
      let (tag, s) := s.newTag
      let s := { s with hostOut := s.hostOut ++ [HostOut.memRead tag addr len] }
      let s := s.await { tag := tag, dst := s.fab.devid, port := 0xF, since := s.pkg.dtime.toNat, waiter := .hart s.hart.ref, lease := none }
      s.withHart (fun h => { h with wait := .reply tag })
    else s.request s.fab.master 3 0 0 [BitVec.ofNat 64 (addr % 2 ^ 52 + len <<< 56)]
  | .hostAtomic body =>
    if s.fab.bridge then
      let (tag, s) := s.newTag
      let s := s.sendSelf (s.mkPacket s.fab.devid 1 0 tag 1 body)
      let s := s.await { tag := tag, dst := s.fab.devid, port := 0xF, since := s.pkg.dtime.toNat, waiter := .hart s.hart.ref, lease := none }
      s.withHart (fun h => { h with wait := .reply tag })
    else s.request s.fab.master 1 0 1 body
  | .halt r =>
    s.modCore s.hart.core (fun c => { c with dHalted := true, dReason := r, dHart := s.hart.slot, stepping := none })
  | .release t => s.withHart (fun h => { h with wait := .fence 5 0 false t, relStart := some t.toNat })
  | .wait w => s.withHart (fun h => { h with wait := w })

/-- What an instruction does to the machine, from its answer: its own state, its trap with `cvidx` 0, or its wait. -/
def Res.finish (r : Res Unit) (s : State) : Host.Outcome State Fault Refusal :=
  match r with
  | .ok _ s' => .next s'
  | .trap c t => .next (s.takeTrap c t none)
  | .need n => .next (s.applyNeed n)

end Sys2Proof.Machine
end

