-- ==== Sys2Proof/Machine/Access.lean ====
section
/-!
DEFINITION. Translation (03 R83 to R92), the places an access can reach, the coherence classes (08 R195 to R209), and one
access of a hart: load, store, and the read-modify-write of the scatter-add units (07 R192).
-/
namespace Sys2Proof.Machine

/-- The kinds of access (12 Table 12.15 mem_read). -/
inductive Kind where
  | fetch | load | store | amo
  deriving DecidableEq, Repr

/-- The page fault of a kind (03 R83). -/
def Kind.pageFault : Kind → BitVec 8
  | .fetch => 0x05
  | .load => 0x06
  | _ => 0x07

/-- The access fault of a kind (03 Table 3.8, R88). -/
def Kind.accessFault : Kind → BitVec 8
  | .fetch => 0x05
  | .load => 0x08
  | _ => 0x09

/-- A store or an atomic. -/
def Kind.writes : Kind → Bool
  | .store => true
  | .amo => true
  | _ => false

/-- A load or an atomic. -/
def Kind.reads : Kind → Bool
  | .load => true
  | .amo => true
  | _ => false

/-! ### Homes (07 R189, R190) -/

/-- Memory above this address is the firmware's (01 R22, 03 R88). -/
def contextTop : Nat := 0x7FE0000000

/-- The stack that holds a local byte (07 R189). -/
def stackOf (pa : Nat) : Nat :=
  nfield pa 21 3 ^^^ nfield pa 24 3 ^^^ nfield pa 27 3 ^^^ nfield pa 30 3 ^^^ nfield pa 33 3 ^^^ nfield pa 36 3

/-- The home of a line: die and slice on that die (07 R190). -/
def homeOf (pa : Nat) (da : Bool) : BitVec 2 × Nat :=
  let a := nfield pa 7 45
  let x := nfield a 0 12 ^^^ nfield a 12 12 ^^^ nfield a 24 12 ^^^ nfield a 36 9
  (BitVec.ofNat 2 (if da then stackOf pa / 2 else nfield x 0 2), 16 * (a % 3) + nfield x 2 4)

/-! ### Errors in memory (01 R21, 02 R53) -/

/-- A byte range meets a granule with an uncorrectable error. -/
def poisoned (s : State) (pa n : Nat) : Bool := s.poison.any (fun g => g * 32 < pa + n ∧ pa < g * 32 + 32)

/-! ### Who accesses -/

/-- Who accesses: context, gang, core and privilege; `unit` for an engine or the audit unit, which is no hart (10 R275). -/
structure Who where
  ctx : BitVec 8
  gang : BitVec 16
  core : BitVec 8
  slot : BitVec 4
  rank : BitVec 6
  sup : Bool
  unit : Bool
  deriving DecidableEq, Repr

/-- The current hart as an issuer. -/
def Hart.who (h : Hart) : Who := { ctx := h.ctx, gang := h.gang, core := h.core, slot := h.slot, rank := h.rank, sup := h.sup, unit := false }

/-! ### Links (09 R245) -/

/-- The link of a hart that a conditional write names. -/
def LinkEntry.same (a b : LinkEntry) : Bool :=
  a.dev = b.dev ∧ a.ctx = b.ctx ∧ a.gang = b.gang ∧ a.rank = b.rank ∧ a.scalar = b.scalar

/-- A write to a line by another agent breaks the links to it (09 R245); `mine` spares one agent's own links. -/
def State.breakLinks (s : State) (lo hi : Nat) (mine : LinkEntry → Bool) : State :=
  let cut (e : LinkEntry) : LinkEntry := if lo ≤ e.line ∧ e.line ≤ hi ∧ ¬ mine e then { e with intact := false } else e
  { s with linkTable := s.linkTable.map cut }

/-- The links a hart of this device holds. -/
def Who.owns (w : Who) (dev : BitVec 12) (e : LinkEntry) : Bool :=
  e.dev = dev ∧ e.ctx = w.ctx ∧ e.gang = w.gang ∧ e.rank = w.rank

/-! ### Banks (07 R171 to R173) -/

/-- The mode, holder, pointers and contents of a bank at reset (07 R172). -/
def Bank.reset (i : Nat) : Bank :=
  { mode := if i % 24 < 16 then .C else .S, holder := .none, keep := false, stream := 0, head := 0, tail := 0, arr := 0
    data := 0, writers := [], bad := [], soft := [] }

/-- A bank of the package by 192 x cluster + index. -/
def State.bank (s : State) (i : Nat) : Bank := tgetD s.banks i (Bank.reset i)
/-- Change a bank. -/
def State.setBank (s : State) (i : Nat) (b : Bank) : State := { s with banks := tset s.banks i b }

/-- Bank index in the package of a core's bank (07 R171). -/
def bankIndex (core : BitVec 8) (bank : Nat) : Nat :=
  192 * (clusterOf core).toNat + 24 * (core.toNat % 8) + bank

/-- The banks of a core in a mode, ascending. -/
def banksIn (s : State) (core : BitVec 8) (m : BankMode) : List Nat :=
  ((List.range 24).map (bankIndex core)).filter (fun i => (s.bank i).mode = m)

/-- The ways that the C-mode banks of a core give each of the 64 sets of its data cache (07 R173). -/
def cWays (s : State) (core : BitVec 8) : Nat := 3 * (banksIn s core .C).length

/-! ### Class D directory (08 R197 to R201) -/

/-- A line that no core holds. -/
def DirLine.empty : DirLine := { state := .I, seq := 0, copies := [], tenures := [], pending := [] }

/-- The mask of bytes [off, off + n) of a line. -/
def lineMask (off n : Nat) : BitVec 128 := BitVec.ofNat 128 ((2 ^ n - 1) <<< off)

/-- The union of a core's recorded masks (08 R199). -/
def coreMask (ts : List Tenure) (c : BitVec 8) : BitVec 128 :=
  ts.foldl (fun m t => if t.core = c then m ||| t.mask else m) 0

/-- The conditions of R199 for a privatised copy of core `c`. -/
def privatises (ts : List Tenure) (c : BitVec 8) : Bool :=
  ts.length = 3 ∧ (∃ t ∈ ts, ∃ u ∈ ts, t.core ≠ u.core)
    ∧ (∀ t ∈ ts, ∀ u ∈ ts, t.core ≠ u.core → coreMask ts t.core &&& coreMask ts u.core = 0) ∧ (∃ t ∈ ts, t.core = c)

/-- The tenures kept: the last three (08 R199). -/
def keepTenures (ts : List Tenure) : List Tenure := ts.drop (ts.length - 3)

/-- Recall an M copy: its tenure is recorded (08 R197, R199). -/
def DirLine.recall (l : DirLine) : DirLine :=
  match l.state with
  | .M => { l with state := .I, copies := [], tenures := keepTenures (l.tenures ++ l.copies.map (fun c => { core := c.core, mask := c.written })) }
  | _ => l

/-- An overlapping access: every privatised copy is recalled and merged; the line returns to I (08 R200). -/
def DirLine.merge (l : DirLine) : DirLine := if l.state = .P then { l with state := .I, copies := [], tenures := [] } else l

/-- Bytes of core `c`'s own mask, by which it holds or is due a privatised copy (08 R199). -/
def DirLine.inMask (l : DirLine) (c : BitVec 8) (m : BitVec 128) : Bool :=
  m &&& ~~~ coreMask l.tenures c = 0 ∧ (l.tenures.any fun t => t.core = c)

/-- Core `c` takes its privatised copy of a line in P (08 R199). -/
def DirLine.takeMask (l : DirLine) (c : BitVec 8) : DirLine :=
  { l with copies := l.copies.filter (fun k => k.core ≠ c) ++ [{ core := c, written := 0, mask := coreMask l.tenures c }] }

/-- Core `c` has a copy that serves a read of bytes `m` (08 Table 8.2). -/
def DirLine.hit (l : DirLine) (c : BitVec 8) (m : BitVec 128) : Bool :=
  l.copies.any (fun k => k.core = c ∧ k.held ∧ (l.state = .P → m &&& ~~~ k.mask = 0))

/-- A read miss of core `c` is served: the home lists the core, and the fill, which carries the line's number, is on its way (08 R198). -/
def DirLine.miss (l : DirLine) (c : BitVec 8) : DirLine :=
  { l with state := .S, copies := l.copies.filter (fun k => k.core ≠ c) ++ [{ core := c, written := 0, mask := 0, held := false }]
           pending := if l.pending.any (fun p => p.1 = c) then l.pending else l.pending ++ [(c, l.seq, none)] }

/-- Core `c` reads bytes of a line (08 Table 8.1): from its copy, from the privatised copy it is due, or at the home. -/
def DirLine.read (l : DirLine) (c : BitVec 8) (m : BitVec 128) : DirLine :=
  if l.hit c m then l
  else
    match l.state with
    | .P => if l.inMask c m then l.takeMask c else l.merge.miss c
    | .M => l.recall.miss c
    | _ => l.miss c

/-- The home sends an invalidation, each with the next number, for every copy it lists but core `c`'s (08 R198): the copies are gone, and a
core with a miss pending records the number. -/
def DirLine.invalidate (l : DirLine) (c : Option (BitVec 8)) : DirLine :=
  (l.copies.filter (fun k => some k.core ≠ c)).foldl (fun l k =>
      { l with seq := l.seq + 1, pending := l.pending.map (fun p => if p.1 = k.core then (p.1, p.2.1, some (l.seq + 1)) else p) })
    { l with copies := l.copies.filter (fun k => some k.core = c) }

/-- A core's ownership request: the other copies are invalidated or recalled, and the line is granted in M, or as a
privatised copy (08 R197, R199). -/
def DirLine.own (l : DirLine) (c : BitVec 8) (m : BitVec 128) : DirLine :=
  let l := if l.state = .P then (if l.inMask c m then l else l.merge) else l.recall
  if l.state = .P then l.takeMask c
  else
    let l := l.invalidate (some c)
    let l := { l with pending := l.pending.filter (fun p => p.1 ≠ c) }
    if privatises l.tenures c then { l with state := .P, copies := [{ core := c, written := 0, mask := coreMask l.tenures c }] }
    else { l with state := .M, copies := [{ core := c, written := 0, mask := 0 }] }

/-- The core may write bytes `m` now: it owns the line, or they lie in its privatised mask (08 Table 8.2). -/
def DirLine.mayWrite (l : DirLine) (c : BitVec 8) (m : BitVec 128) : Bool :=
  match l.state with
  | .M => l.copies.any (fun k => k.core = c)
  | .P => l.copies.any (fun k => k.core = c ∧ m &&& ~~~ k.mask = 0)
  | _ => false

/-- Core `c` writes bytes of a line: with ownership or in its privatised copy (08 R197, R200). -/
def DirLine.write (l : DirLine) (c : BitVec 8) (m : BitVec 128) : DirLine :=
  let l := if l.mayWrite c m then l else l.own c m
  let l := if l.mayWrite c m then l else l.merge.own c m
  { l with copies := l.copies.map (fun k => if k.core = c then { k with written := k.written ||| m } else k) }

/-- An access at the home by an agent that holds no copy: copies are recalled or merged (08 R197, R200); a write also
invalidates clean copies. -/
def DirLine.home (l : DirLine) (writes : Bool) : DirLine :=
  let l := l.merge.recall
  if writes ∧ l.state = .S then { l.invalidate none with state := .I } else l

/-- Core `c` evicts its copy of a line: a clean one silently, so that the home still lists it; an M copy is written back, which ends its
tenure; of a privatised one the written bytes go home, and the line stays in P (08 R197, R199, R201). -/
def DirLine.evictCopy (l : DirLine) (c : BitVec 8) : DirLine :=
  if l.copies.any (fun k => k.core = c) then
    match l.state with
    | .M => l.recall
    | .P => { l with copies := l.copies.filter (fun k => k.core ≠ c) }
    | _ => { l with copies := l.copies.map (fun k => if k.core = c then { k with held := false } else k) }
  else l

/-- Change the directory entry of the line of `pa`, and of the next one when the access runs into it. -/
def State.dirLines (s : State) (pa n : Nat) (f : DirLine → BitVec 128 → DirLine) : State :=
  let l := pa / 128
  let one (d : Table DirLine) (l : Nat) (m : BitVec 128) : Table DirLine :=
    tsetD d l (f (tgetD d l DirLine.empty) m) DirLine.empty
  let d := one s.dir l (lineMask (pa % 128) (min n (128 - pa % 128)))
  { s with dir := if pa % 128 + n ≤ 128 then d else one d (l + 1) (lineMask 0 (pa % 128 + n - 128)) }

/-! ### Class L (08 R202 to R208) -/

/-- A line the slice has just filled (08 R204, R206). -/
def LLine.empty : LLine := { horizon := 0, lease := 64, lastV := 0, written := false, copies := [] }

/-- A class L line's record at its home; the horizon of an absent line is its slice's evicted horizon (08 R206). -/
def State.lline (s : State) (da : Bool) (l : Nat) : LLine :=
  match tget s.lines l with
  | some x => x
  | none =>
    let h := homeOf (l * 128) da
    { LLine.empty with horizon := tgetD s.evicted (48 * h.1.toNat + h.2) 0, da := da }

/-- The writes of a line that are pending at its home in arrival order, its atomic operations among them. -/
def State.pendingOf (s : State) (l : Nat) : List LWrite := s.lwrites.filter (fun w => w.pa / 128 = l ∧ ¬ w.performed)

/-- A class L write of a rank of a gang. -/
def LWrite.isBy (w : LWrite) (g : BitVec 16) (r : BitVec 6) : Bool := w.gang = g && w.rank = r && !w.foreign

/-- A class L write of a rank, before a place in its program order, is on its way or not visible yet. -/
def State.unseen (s : State) (g : BitVec 16) (r : BitVec 6) (seq : Nat) : Bool :=
  s.ltransit.any (fun w => w.isBy g r && w.seq < seq) || s.lwrites.any (fun w => w.isBy g r && w.seq < seq)

/-- A class L write of a rank is on its way. -/
def State.inTransit (s : State) (g : BitVec 16) (r : BitVec 6) : Bool := s.ltransit.any (fun w => w.isBy g r)

/-- A lease granted at the home (08 R203, R204): its end; `renew` when the reader still holds an expired copy. -/
def State.leaseGrant (s : State) (da : Bool) (l : Nat) (renew : Bool) : Nat × State :=
  let now := s.pkg.dtime.toNat
  let x := s.lline da l
  let p := if renew ∧ ¬ x.written then min (2 * x.lease) 65536 else x.lease
  let e := match (s.pendingOf l).head? with
    | some w => min (now + p) w.v
    | none => now + p
  (e, { s with lines := tset s.lines l { x with horizon := max x.horizon e, lease := p, written := false } })

/-- A core's copy of a class L line takes the place of the one it had. -/
def State.putCopy (s : State) (da : Bool) (l : Nat) (c : LCopy) : State :=
  let x := s.lline da l
  { s with lines := tset s.lines l { x with copies := x.copies.filter (fun k => k.core ≠ c.core) ++ [c] } }

/-- Lines of a set of which a core holds a copy (07 R173): of class D, and of class L. -/
def coreLines (s : State) (core : BitVec 8) (set : Nat) : List (Nat × Bool) :=
  ((s.dir.filter (fun d => d.1 % 64 = set && d.2.copies.any (fun k => k.core = core && k.held))).map (fun d => (d.1, true)))
    ++ ((s.lines.filter (fun d => d.1 % 64 = set && d.2.copies.any (fun k => k.core = core))).map (fun d => (d.1, false)))

/-- A core's data cache drops its copy of a line of class D, or of class L. -/
def State.dropCopy (s : State) (core : BitVec 8) (v : Nat × Bool) : State :=
  if v.2 then { s with dir := tsetD s.dir v.1 ((tgetD s.dir v.1 DirLine.empty).evictCopy core) DirLine.empty }
  else
    match tget s.lines v.1 with
    | none => s
    | some x => { s with lines := tset s.lines v.1 { x with copies := x.copies.filter (fun k => k.core ≠ core) } }

/-- A core has taken a copy of a line: where its set holds more than its ways, one other copy leaves, which the spec does not name
(07 R173; log 1). -/
def State.makeRoom (s : State) (core : BitVec 8) (line : Nat) : State :=
  let here := coreLines s core (line % 64)
  if here.length ≤ cWays s core then s
  else
    let (i, s) := s.freshImage 8
    let out := here.filter (fun v => v.1 ≠ line)
    match out[i % out.length]? with
    | some v => s.dropCopy core v
    | none => s

/-- A bank of a core has left mode C, and its own lines leave the cache (07 R173, R177): which they are is free, but that what stays
fits the ways that are left. -/
def State.leaveC (s : State) (core : BitVec 8) : State :=
  let all := (List.range 64).flatMap (coreLines s core)
  all.foldl (fun s v =>
    let (b, s) := s.freshBool
    if b ∨ cWays s core < (coreLines s core (v.1 % 64)).length then s.dropCopy core v else s) s

/-- A read of a core that misses takes a lease at the home (08 R202 to R204); a grant that leaves no hit time, or that finds no C-mode bank,
serves the access alone. -/
def State.leaseRead (s : State) (da : Bool) (core : BitVec 8) (l : Nat) : State :=
  let (e, s) := s.leaseGrant da l ((s.lline da l).copies.any (fun k => k.core = core))
  if s.pkg.dtime.toNat + 8 < e ∧ 0 < cWays s core then
    (s.putCopy da l { core := core, expiry := e, data := memNat s.mem (l * 128) 128 }).makeRoom core l
  else s

/-- The parts of a write: one for each of its lines (08 R221). -/
def LWrite.parts (w : LWrite) : List LWrite :=
  match w.more with
  | none => [w]
  | some (pa, da, data) => [{ w with more := none }, { w with pa := pa, da := da, data := data, more := none }]

/-- The visibility time V = max(a, H, Vp) that a line gives a write that reaches it now (08 R205). -/
def visAt (s : State) (da : Bool) (l : Nat) : Nat := max s.pkg.dtime.toNat (max (s.lline da l).horizon (s.lline da l).lastV)

/-- A write, or a part of one, takes its place among its line's writes with a visibility time (08 R205). -/
def State.lPlace (s : State) (v : Nat) (w : LWrite) : State :=
  { s with lines := tset s.lines (w.pa / 128) { s.lline w.da (w.pa / 128) with lastV := v, lease := 64 }, lwrites := s.lwrites ++ [{ w with v := v }] }

/-- A write that reaches its home takes its visibility time (08 R205); one that lies on two lines is indivisible, and takes the later of
theirs (R221; DEDUCED, log 54). -/
def State.lArrive (s : State) (w : LWrite) : Nat × State :=
  let v := (w.parts.map (fun p => visAt s p.da (p.pa / 128))).foldl max 0
  (v, w.parts.foldl (fun s p => s.lPlace v p) s)

/-- A write may reach its home now: it is the oldest of its hart on its way, and after a `.o` element that is not performed yet no other
element of the instruction comes (08 R205, 15 R402). -/
def mayArrive (s : State) (before : List LWrite) (w : LWrite) : Bool :=
  let mine (u : LWrite) : Bool := u.isBy w.gang w.rank && !w.foreign
  !before.any mine && !(w.ordered && s.lwrites.any (fun u => mine u && u.ordered && !u.performed))

/-- The oldest write on its way that may reach its home. -/
def nextArrival (s : State) : List LWrite → List LWrite → Option LWrite
  | _, [] => none
  | before, w :: ws => if mayArrive s before w then some w else nextArrival s (before ++ [w]) ws

/-- Perform the write at the head of the pending ones: its bytes reach memory (08 R205). -/
def State.lPerform (s : State) (w : LWrite) : State :=
  let s := { s.putMem w.pa w.data with lwrites := s.lwrites.map (fun u => if u = w then { u with performed := true } else u) }
  let s := { s with lines := match tget s.lines (w.pa / 128) with
                              | some x => tset s.lines (w.pa / 128) { x with written := true }
                              | none => s.lines }
  s.breakLinks (w.pa / 128) ((w.pa + w.data.length - 1) / 128)
    (fun e => e.ctx = w.ctx ∧ e.gang = w.gang ∧ e.rank = w.rank ∧ e.dev = s.fab.devid ∧ ¬ w.foreign)

/-- Perform the pending writes whose time has come, those of one line in arrival order: dtime reaches V - 4 (08 R205). The operations of the
scatter-add units among them are performed there (08 R207). -/
def performDue (s : State) : List LWrite → State
  | [] => s
  | w :: ws =>
    performDue (if w.v ≤ s.pkg.dtime.toNat + 4 ∧ (s.pendingOf (w.pa / 128)).head? = some w ∧ ¬ w.sau then s.lPerform w else s) ws

/-- Perform the pending writes that are due, and forget those that device time has reached. -/
def State.lDue (s : State) : State :=
  let s := performDue s s.lwrites
  { s with lwrites := s.lwrites.filter (fun w => ¬ (w.performed ∧ w.v ≤ s.pkg.dtime.toNat)) }

/-! ### The shared level (07 R191) -/

/-- The ways of a set that are left for caching: 16 less the 4 that firmware pins. -/
def l2Ways : Nat := 12

/-- The set of a slice that a line lies in; the spec does not give the function (DESIGN CHOICE, log 51). -/
def l2Set (line : Nat) : Nat := line / 192 % 1024

/-- The key of a line's set: slice and set of its home. -/
def l2Key (line : Nat) (da : Bool) : Nat := (48 * (homeOf (line * 128) da).1.toNat + (homeOf (line * 128) da).2) * 1024 + l2Set line

/-- The die whose stacks hold a line. -/
def stackDie (line : Nat) : BitVec 2 := BitVec.ofNat 2 (stackOf (line * 128) / 2)

/-- The operations held at a home for a line; a host line lies above every line of local memory. -/
def SauWait.line (w : SauWait) : Nat := if w.op.host then 2 ^ 45 + w.op.pa / 128 else w.op.pa / 128

/-- A line that its slice may drop now: no write to it and no atomic operation waits (log 16). -/
def quiet (s : State) (line : Nat) : Bool := (s.pendingOf line).isEmpty && !s.sauq.any (fun o => o.line = line)

/-- A line is no longer in its slice; a modified one is written to memory (10 R276). -/
def State.l2Drop (s : State) (line : Nat) (da : Bool) : State :=
  let k := l2Key line da
  match (tgetD s.l2 k []).find? (fun w => w.1 = line) with
  | none => s
  | some w =>
    { (if w.2 then s.uncount (stackDie line) 5 1 else s) with l2 := tsetD s.l2 k ((tgetD s.l2 k []).erase w) [] }

/-- A line's home drops it (08 R197, R206): directory copies are invalidated, recalled or merged; a class L line whose horizon has not
passed raises its slice's evicted horizon. A line with writes pending stays (log 16). -/
def State.evict (s : State) (line : Nat) : State :=
  let s := s.dirLines (line * 128) 128 (fun l _ => l.home true)
  match tget s.lines line with
  | none => (s.l2Drop line false).l2Drop line true
  | some x =>
    let h := homeOf (line * 128) x.da
    let k := 48 * h.1.toNat + h.2
    let up := if s.pkg.dtime.toNat < x.horizon then max (tgetD s.evicted k 0) x.horizon else tgetD s.evicted k 0
    { s.l2Drop line x.da with lines := tdel s.lines line, evicted := tsetD s.evicted k up 0 }

/-- An access reaches a line at its home slice, which fetches it from memory where it does not hold it (07 R191): a line of a full set
goes, and which one the spec does not say (log 1). A line on its way to another die is counted (10 R276). -/
def State.l2Touch (s : State) (dest : Option (BitVec 2)) (line : Nat) (da write : Bool) : State :=
  let die := (homeOf (line * 128) da).1
  let k := l2Key line da
  let s := if dest.any (fun d => d ≠ die) then s.uncount die 6 1 else s
  let ways := tgetD s.l2 k []
  if ways.any (fun w => w.1 = line) then
    { s.uncount die 1 1 with l2 := if write then tset s.l2 k (ways.map (fun w => if w.1 = line then (line, true) else w)) else s.l2 }
  else
    let s := (s.uncount die 2 1).uncount (stackDie line) 4 1
    if ways.length < l2Ways then { s with l2 := tset s.l2 k (ways ++ [(line, write)]) }
    else
      let out := ways.filter (fun w => quiet s w.1)
      let (i, s) := s.freshImage 4
      match out[i % out.length]? with
      | some v =>
        let s := s.evict v.1
        { s with l2 := tset s.l2 k (tgetD s.l2 k [] ++ [(line, write)]) }
      | none => s

/-- The lines of a byte range of at most two lines. -/
def linesOf (pa n : Nat) : List Nat := if pa % 128 + n ≤ 128 then [pa / 128] else [pa / 128, pa / 128 + 1]

/-- A byte range is read or written at its home slices. -/
def State.homeLines (s : State) (dest : Option (BitVec 2)) (pa n : Nat) (da write : Bool) : State :=
  (linesOf pa n).foldl (fun s l =>
    s.l2Touch dest l da (write || decide ((tgetD s.dir l DirLine.empty).state = .M) || decide ((tgetD s.dir l DirLine.empty).state = .P))) s

/-- An access at the home of a byte range by an agent that holds no copy (08 R197, R200, R209). -/
def State.atHome (s : State) (dest : Option (BitVec 2)) (pa n : Nat) (da write : Bool) : State :=
  (s.homeLines dest pa n da write).dirLines pa n (fun l _ => l.home write)

/-- A hart's core reads or writes a class D range (08 R197 to R200): in its data cache, where it has one, else at the home (07 R173). -/
def State.cached (s : State) (core : BitVec 8) (pa n : Nat) (da write : Bool) : State :=
  if cWays s core = 0 then s.atHome (some (dieOf core)) pa n da write
  else
    let l := pa / 128
    let m := min n (128 - pa % 128)
    let has (l : Nat) (m : BitVec 128) : Bool :=
      let d := tgetD s.dir l DirLine.empty
      if write then d.mayWrite core m else d.hit core m
    let hit := has l (lineMask (pa % 128) m) && (pa % 128 + n ≤ 128 || has (l + 1) (lineMask 0 (pa % 128 + n - 128)))
    let s := s.count (if hit then 0x0C else 0x0D) 1
    let s := if hit then s else s.homeLines (some (dieOf core)) pa n da false
    let s := s.dirLines pa n (fun l m => if write then l.write core m else l.read core m)
    if hit then s else (linesOf pa n).foldl (fun s l => s.makeRoom core l) s

/-! ### A hart's reads of class L (08 R202, R203, R207) -/

/-- Bytes of a pending write of the reading hart itself that lie over a read (08 R207, R213). -/
def overlay (bytes : List Byte) (pa : Nat) (w : LWrite) : List Byte :=
  bytes.zipIdx.map (fun (b, i) =>
    if w.pa ≤ pa + i ∧ pa + i < w.pa + w.data.length then (w.data[pa + i - w.pa]?).getD b else b)

/-- A hart's read of a class L line: a copy whose lease runs, else the home with a lease; its own pending writes are seen
early (08 R202, R203, R207). -/
def State.lRead (s : State) (who : Who) (da : Bool) (pa n : Nat) : List Byte × State :=
  let l := pa / 128
  let hit := (s.lline da l).copies.find? (fun k => k.core = who.core ∧ s.pkg.dtime.toNat + 8 < k.expiry ∧ ¬ k.bad)
  let s := if 0 < cWays s who.core then s.count (if hit.isSome then 0x0C else 0x0D) 1 else s
  let (bytes, s) := match hit with
    | some k => if pa % 128 + n ≤ 128 then (leBytes n (k.data >>> (8 * (pa % 128))), s) else (memRead s.mem pa n, s)
    | none => (memRead s.mem pa n, (s.homeLines (some (dieOf who.core)) pa n da false).leaseRead da who.core l)
  let mine := (s.lwrites ++ s.ltransit.flatMap LWrite.parts).filter (fun w => w.isBy who.gang who.rank ∧ ¬ w.performed)
  (mine.foldl (fun b w => overlay b pa w) bytes, s)

/-! ### Page tables -/

/-- Read a page-table entry. -/
def pteAt (s : State) (a : Nat) : Word := BitVec.ofNat 64 (memNat s.mem a 8)

/-- A table pointer: V = 1, R = W = X = 0 (03 R85). -/
def isPointer (e : Word) : Bool := wbit e 0 ∧ wfield e 1 3 = 0

/-- A table pointer's other fields are zero (03 R86, R87); its [63:62] are ignored. -/
def pointerOk (e : Word) : Bool := wfield e 52 10 = 0 ∧ wfield e 4 8 = 0

/-- The checks of a leaf that do not depend on the access (03 R87), for a page of 2^bits bytes. -/
def leafOk (e : Word) (bits : Nat) : Bool :=
  wfield e 54 8 = 0 ∧ ¬ (wbit e 2 ∧ ¬ wbit e 1) ∧ wfield e 8 2 ≠ 3 ∧ wfield e 10 2 ≠ 3
    ∧ (wfield e 10 2 = 2 → wfield e 8 2 = 2)
    ∧ (if wfield e 10 2 = 1 then wfield e 12 28 else wfield e 12 40) % 2 ^ (bits - 12) = 0

/-- The walk from a level's table down (03 R85): the leaf and log2 of its page size, or none for a page fault. `ptr` gives the table
pointers that are not read from memory, by level. -/
def walkFrom (s : State) (ptr : Nat → Option Word) (va : Nat) : Nat → Nat → Option (Word × Nat)
  | 0, table =>
    let e := pteAt s (table + 8 * nfield va 12 9)
    if ¬ wbit e 0 ∨ wfield e 54 8 ≠ 0 then none
    else if wbit e 53 then
      let f := pteAt s (table + 8 * (nfield va 16 5 * 16))
      if wbit f 0 ∧ wbit f 53 ∧ ¬ isPointer f ∧ leafOk f 16 then some (f, 16) else none
    else if ¬ isPointer e ∧ leafOk e 12 then some (e, 12) else none
  | l + 1, table =>
    let e := (ptr (l + 1)).getD (pteAt s (table + 8 * nfield va (12 + 9 * (l + 1)) 9))
    if ¬ wbit e 0 ∨ wfield e 54 8 ≠ 0 then none
    else if isPointer e then (if pointerOk e then walkFrom s ptr va l ((wfield e 12 40) <<< 12) else none)
    else if l + 1 = 3 ∨ wbit e 53 then none
    else if leafOk e (12 + 9 * (l + 1)) then some (e, 12 + 9 * (l + 1)) else none

/-- The table entries that a walk reads: their levels and addresses. -/
def walkReads (s : State) (ptr : Nat → Option Word) (va : Nat) : Nat → Nat → List (Nat × Nat)
  | 0, table =>
    let a := table + 8 * nfield va 12 9
    if wbit (pteAt s a) 0 ∧ wfield (pteAt s a) 54 8 = 0 ∧ wbit (pteAt s a) 53 then [(0, a), (0, table + 8 * (nfield va 16 5 * 16))] else [(0, a)]
  | l + 1, table =>
    let a := table + 8 * nfield va (12 + 9 * (l + 1)) 9
    let e := (ptr (l + 1)).getD (pteAt s a)
    let down := if wbit e 0 ∧ wfield e 54 8 = 0 ∧ isPointer e ∧ pointerOk e then walkReads s ptr va l ((wfield e 12 40) <<< 12) else []
    if (ptr (l + 1)).isSome then down else (l + 1, a) :: down

/-- The level-3 table of a context. -/
def rootOf (s : State) (c : BitVec 8) : Nat := (wfield (s.ctx c).ptbase 12 40) <<< 12

/-- The walk of a context's tables in memory from `ptbase` (03 R85). -/
def walk (s : State) (c : BitVec 8) (va : Nat) : Option (Word × Nat) := walkFrom s (fun _ => none) va 3 (rootOf s c)

/-- The bits of an address that choose the entry of a level and of those above it. -/
def walkTag (va level : Nat) : Nat := va >>> (12 + 9 * level)

/-- The table pointer of a level in a die's walk cache (03 Table 3.11). -/
def walkHit (s : State) (die : BitVec 2) (c : BitVec 8) (va level : Nat) : Option Word :=
  ((s.die die).walks.find? (fun w => w.ctx = c && w.level = level && w.tag = walkTag va level)).map (fun w => w.ptr)

/-- What a walk finds: a leaf and log2 of its page size, a page fault, or an uncorrectable error in an entry it reads (01 R21). -/
inductive Walked where
  | leaf (e : Word) (bits : Nat)
  | fault
  | error
  deriving DecidableEq, Repr

/-- Keep the table pointers that a walk has read in its die's walk cache; a full one drops its oldest (log 6). -/
def keepPointers (s : State) (c : BitVec 8) (va : Nat) (reads : List (Nat × Nat)) (ws : List WalkEntry) : List WalkEntry :=
  reads.foldl (fun ws r =>
    if r.1 ≠ 0 ∧ wbit (pteAt s r.2) 0 ∧ isPointer (pteAt s r.2) ∧ pointerOk (pteAt s r.2) then
      (if 512 ≤ ws.length then ws.tail else ws) ++ [{ ctx := c, level := r.1, tag := walkTag va r.1, ptr := pteAt s r.2 }]
    else ws) ws

/-- A walker of a die walks for a context, with table reads through L2 (03 R85, R90; 10 R276). -/
def State.walkOn (s : State) (die : BitVec 2) (c : BitVec 8) (va : Nat) : Walked × State :=
  let ptr := walkHit s die c va
  let reads := walkReads s ptr va 3 (rootOf s c)
  let found : Walked :=
    if reads.any (fun r => poisoned s r.2 8) then .error
    else match walkFrom s ptr va 3 (rootOf s c) with
      | some (e, bits) => .leaf e bits
      | none => .fault
  let t := reads.foldl (fun t r => (t.scrubbed r.2 8).atHome (some die) r.2 8 false false) (s.uncount die 7 1)
  (found, if found = .error then t else t.modDie die (fun d => { d with walks := keepPointers s c va reads d.walks }))

/-- The access checks of R87 against a leaf: permissions, U, A and D, and the location of a fetch. -/
def permits (e : Word) (k : Kind) (sup : Bool) : Bool :=
  wbit e 6
    && (match k with
        | .fetch => wbit e 3 && wfield e 10 2 == 0 && !(sup && wbit e 4)
        | .load => wbit e 1
        | .store => wbit e 2 && wbit e 7
        | .amo => wbit e 1 && wbit e 2 && wbit e 7)
    && (sup || wbit e 4)

/-- Entries that compete for a place with one: those of its core's first-level TLB, which is fully associative with 128 entries, or those of
its set of its cluster's second-level TLB, which has 512 sets of 8 (03 Table 3.11; the set function is a DESIGN CHOICE, log 6). -/
def tlbRivals (tlb : List TlbEntry) (t : TlbEntry) : List TlbEntry :=
  tlb.filter (fun u => u.second = t.second ∧ u.unit = t.unit ∧ (t.second → (u.base >>> u.bits) % 512 = (t.base >>> t.bits) % 512))

/-- Places that those entries have. -/
def tlbCap (second : Bool) : Nat := if second then 8 else 128

/-- Put an entry into a TLB; a full set drops its oldest (log 6). -/
def tlbInsert (tlb : List TlbEntry) (t : TlbEntry) : List TlbEntry :=
  let rivals := tlbRivals tlb t
  let tlb := if tlbCap t.second ≤ rivals.length then tlb.erase (rivals.head?.getD t) else tlb
  tlb ++ [t]

/-- The page that an instruction in progress has looked up already (03 R91). -/
def lookedUp (s : State) (w : Who) (va : Nat) : Option TlbEntry := if w.unit then none else s.hart.lookups.find? (fun t => t.covers w.ctx va)

/-- An instruction in progress keeps a page it has looked up (03 R91). -/
def State.keepLookup (s : State) (w : Who) (t : TlbEntry) : State :=
  if w.unit then s else s.withHart (fun h => { h with lookups := h.lookups ++ [t] })

/-- The leaf that translates an address for a hart's core: a page the instruction has looked up, its first-level TLB, its cluster's
second-level TLB, or a walk (03 R89 to R91). -/
def translate (s : State) (w : Who) (va : Nat) : Walked × State :=
  let c := w.ctx
  let core := w.core
  let cl : BitVec 8 := (clusterOf core).setWidth 8
  match lookedUp s w va with
  | some t => (.leaf t.leaf t.bits, s)
  | none =>
    match s.tlb.find? (fun t => ¬ t.second ∧ t.unit = core ∧ t.covers c va) with
    | some t => (.leaf t.leaf t.bits, s.keepLookup w t)
    | none =>
      let s := if w.unit then s else s.count 0x0B 1
      match s.tlb.find? (fun t => t.second ∧ t.unit = cl ∧ t.covers c va) with
      | some t => (.leaf t.leaf t.bits, { s with tlb := tlbInsert s.tlb { t with second := false, unit := core } }.keepLookup w t)
      | none =>
        let (r, s) := s.walkOn (dieOf core) c va
        match r with
        | .leaf leaf bits =>
          let t : TlbEntry := { second := false, unit := core, ctx := c, base := va >>> bits <<< bits, bits := bits, leaf := leaf }
          (.leaf leaf bits, { s with tlb := tlbInsert (tlbInsert s.tlb t) { t with second := true, unit := cl } }.keepLookup w t)
        | r => (r, s)

/-- Where an access goes. -/
inductive Place where
  /-- local physical memory: address, class, die-affine bit -/
  | phys (pa : Nat) (cls : BitVec 2) (da : Bool)
  /-- a bank of the package, 192 x cluster + index, at an offset (07 R179) -/
  | bank (i : Nat) (off : Nat)
  /-- a peer's memory: device, address, class (03 R88) -/
  | peer (dev : BitVec 12) (pa : Nat) (cls : BitVec 2)
  /-- host memory (03 R88) -/
  | host (addr : Nat)
  /-- the context's supervisor register page (03 R76) -/
  | page (off : Nat)
  deriving DecidableEq, Repr

/-- The bank is in scratch or FIFO mode and the context holds it, itself or through a gang (03 R84, 07 R182). -/
def bankReach (b : Bank) (c : BitVec 8) : Bool :=
  (b.mode == .S || b.mode == .F)
    && (match b.holder with
        | .ctx d => d == c
        | .gang d _ => d == c
        | .none => false)

/-- A place, or the cause of a fault at the address. -/
abbrev Found := Except (BitVec 8) Place

/-- Resolve the windows (03 Table 3.8, R76, R84); none for an address that translates. -/
def resolveWindow (s : State) (w : Who) (va : Nat) (k : Kind) : Option Found :=
  if va < 0xFC0000000000 then none
  else if k = .fetch then some (.error 0x05)
  else if va < 0xFC0000001000 then
    some (if w.sup ∧ k ≠ .amo then .ok (.page (va - 0xFC0000000000)) else .error k.accessFault)
  else if 0xFD0000000000 ≤ va ∧ va < 0xFD0000600000 then
    let o := va - 0xFD0000000000
    if o % 0x8000 < 0x6000 then
      let i := 192 * (clusterOf w.core).toNat + o / 0x8000
      some (if bankReach (s.bank i) w.ctx then .ok (.bank i (o % 0x8000)) else .error 0x14)
    else some (.error k.accessFault)
  else if 0xFE0000000000 ≤ va ∧ va < 0xFE0000180000 then
    let o := va - 0xFE0000000000
    match tget s.gangs w.gang.toNat with
    | none => some (.error 0x14)
    | some g =>
      match g.banks[o / 0x6000]? with
      | none => some (.error 0x14)
      | some b =>
        let i := 192 * g.cluster.toNat + b
        some (if bankReach (s.bank i) w.ctx then .ok (.bank i (o % 0x6000)) else .error 0x14)
  else some (.error k.accessFault)

/-- The place that a leaf gives an address, by its location (03 R88). -/
def leafPlace (e : Word) (bits va : Nat) (k : Kind) : Found :=
  let off := va % 2 ^ bits
  match wfield e 10 2 with
  | 0 =>
    let pa := (wfield e 12 40) <<< 12 + off
    if contextTop ≤ pa then .error k.accessFault else .ok (.phys pa (field e 8 2) (wbit e 52))
  | 1 => .ok (.peer (field e 40 12) ((wfield e 12 28) <<< 12 + off) (field e 8 2))
  | _ => .ok (.host ((wfield e 12 40) <<< 12 + off))

/-- Resolve an address for an access: R83 to R88 in order. -/
def resolve (s : State) (w : Who) (va : Word) (k : Kind) : Found × State :=
  if wfield va 48 16 ≠ 0 then (.error k.pageFault, s)
  else
    match resolveWindow s w va.toNat k with
    | some f => (f, s)
    | none =>
      let (t, s) := translate s w va.toNat
      match t with
      | .fault => (.error k.pageFault, s)
      | .error => (.error 0x15, s)
      | .leaf e bits => (if permits e k w.sup then leafPlace e bits va.toNat k else .error k.pageFault, s)

/-! ### Time -/

/-- Copy every counter into its shadow when a trigger's time has come, and record the tick (10 R277). -/
def State.latch (s : State) (tick : Nat) : State :=
  let pm (p : Nat × PmCounter) : Nat × PmCounter := (p.1, { p.2 with shadow := p.2.count })
  let un (p : Nat × Uncore) : Nat × Uncore := (p.1, { p.2 with shadow := p.2.count })
  { s with pkg := { s.pkg with pmPending := false, pmLast := BitVec.ofNat 64 tick }
           cores := s.cores.map (fun c => (c.1, { c.2 with pm := c.2.pm.map pm }))
           dies := s.dies.map (fun d => (d.1, { d.2 with uncore := d.2.uncore.map un })) }

/-- Device time passes (00 R8): one tick is 1 ns, in which the arithmetic clock runs 1.9 cycles at 100 %; due class L writes are performed,
and a due trigger fires at the first tick at or after its time. The dies' times may differ by 4 ticks (08 R196); the model keeps one count
for the package, with no difference between dies (DESIGN CHOICE, log 3). -/
def State.tick (s : State) (n : Nat) : State :=
  let first := max (s.pkg.dtime.toNat + 1) s.pkg.pmtrig.toNat
  let s := { s with pkg := { s.pkg with dtime := s.pkg.dtime + BitVec.ofNat 64 n
                                        kcycles := s.pkg.kcycles + 19 * s.pkg.clkpct.toNat * n } }
  let s := s.lDue
  if s.pkg.pmPending ∧ s.pkg.pmtrig.toNat ≤ s.pkg.dtime.toNat then s.latch (min first s.pkg.dtime.toNat) else s

/-- Core cycles since package reset (10 Table 10.10). -/
def State.cycles (s : State) : Nat := s.pkg.kcycles / 1000

end Sys2Proof.Machine
end

