-- ==== Sys2Proof/Machine/Context.lean ====
section
/-!
DEFINITION. Contexts (03 R72 to R82, R89): the supervisor register page, the context states and their transitions, context
reset, and the invalidation of translations. What frees a hart, a gang's banks and register storage stands here too.
-/
namespace Sys2Proof.Machine

/-! ### Releasing what a hart or a gang holds -/

/-- A bank returns to the pool, cleared before any new holder can read it (07 R172, R180). -/
def State.freeBank (s : State) (i : Nat) : State :=
  let b : Bank := { Bank.reset i with mode := .S }
  { s with banks := if b = Bank.reset i then tdel s.banks i else tset s.banks i b }

/-- The register storage of the harts of a core, in bytes (06 R154). -/
def coreStorage (s : State) (core : BitVec 8) : Nat :=
  ((s.allHarts.filter (fun h => h.core = core)).map (fun h => 32 * h.vlb.toNat)).sum

/-- Banks in mode X that a storage of so many bytes needs (06 R154). -/
def xNeeded (bytes : Nat) : Nat := cdiv (bytes - 262144) 24576

/-- X banks that a core no longer needs (06 R157): the highest-numbered. -/
def spareX (s : State) (core : BitVec 8) : List Nat :=
  let xs := banksIn s core .X
  xs.reverse.take (xs.length - xNeeded (coreStorage s core))

/-- The spare X banks of a core return to mode C, empty. -/
def State.settleNow (s : State) (core : BitVec 8) : State :=
  (spareX s core).foldl (fun s i => s.setBank i { Bank.reset i with mode := .C }) s

/-- Work takes its turn behind a cluster's bank commands (07 R177). -/
def State.queueWork (s : State) (cl : BitVec 5) (w : BankWork) : State :=
  s.modCluster cl (fun c => { c with bankCmd := c.bankCmd ++ [{ host := false, cl := cl, ref := { core := 0, slot := 0 }, val := 0, work := w }] })

/-- A core's spare X banks return to mode C, when the switch has its turn (06 R157, 07 R177). -/
def State.settleX (s : State) (core : BitVec 8) : State :=
  if (s.cluster (clusterOf core)).bankCmd.isEmpty then s.settleNow core
  else if (spareX s core).isEmpty then s
  else s.queueWork (clusterOf core) (.settle core)

/-- The key of a gang's purse: its queue, or its own private list (05 R136). -/
def purseKey (id : Nat) (g : Gang) : Nat := if g.orphan then 65536 + id else g.queue.toNat

/-- The key of a hart's purse. -/
def Hart.purse (s : State) (h : Hart) : Option Nat := (tget s.gangs h.gang.toNat).map (purseKey h.gang.toNat)

/-- A purse is discarded when its last hart leaves the core (05 R136). -/
def State.settlePurse (s : State) (core : BitVec 8) (key : Nat) : State :=
  if s.allHarts.any (fun h => h.core = core ∧ h.purse s = some key) then s
  else s.modCore core (fun c => { c with purses := tdel c.purses key })

/-- The hart leaves its slot: slot, register storage and tiles are free, and its links break (05 R129, 09 R245). -/
def State.freeHart (s : State) (h : Hart) : State :=
  let key := h.purse s
  let s := if s.hart.live ∧ s.hart.ref = h.ref
    then { s with hart := { Hart.empty with core := h.core, slot := h.slot } }
    else { s with harts := s.harts.filter (fun g => ¬ (g.live ∧ g.ref = h.ref)) }
  let s := s.breakLinks 0 (2 ^ 52) (fun e => ¬ h.who.owns s.fab.devid e)
  let s := s.modCore h.core (fun c => { c with arit := c.arit.filter (fun a => a.slot ≠ h.slot) })
  let s := s.settleX h.core
  match key with
  | some k => s.settlePurse h.core k
  | none => s

/-- The resident harts of a gang. -/
def State.gangHarts (s : State) (g : BitVec 16) : List Hart := s.allHarts.filter (fun h => h.gang = g)

/-- Banks of a cluster return to the pool. -/
def State.releaseBanks (s : State) (cl : BitVec 5) (banks : List Nat) : State :=
  banks.foldl (fun s b => s.freeBank (192 * cl.toNat + b)) s

/-- A gang's banks return to the pool, when the release has its turn (05 R129, 07 R177, R180). -/
def State.freeGangBanks (s : State) (g : Gang) : State :=
  if (s.cluster g.cluster).bankCmd.isEmpty then s.releaseBanks g.cluster g.banks
  else if g.banks.isEmpty then s
  else s.queueWork g.cluster (.release g.banks)

/-- Gangs of a context that are resident (05 R135). -/
def State.residentGangs (s : State) (c : BitVec 8) : List (Nat × Gang) :=
  s.gangs.filter (fun p => p.2.ctx = c ∧ ¬ p.2.saved)

/-! ### The supervisor register page (03 Table 3.4) -/

/-- The bytes of a register that an access of a half carries (03 R61): the old value with the written half. -/
def mergeHalf (h : Half) (old data : Word) : Word :=
  match h with
  | .whole => data
  | .low => wsetField old 0 32 (wfield data 0 32)
  | .high => wsetField old 32 32 (wfield data 0 32)
  | .odd => old

/-- The bits a write of a half carries, 0 elsewhere. -/
def carried (h : Half) (data : Word) : Word := mergeHalf h 0 data

/-- The half of a read value that an access returns. -/
def pickHalf (h : Half) (v : Word) : Word :=
  match h with
  | .whole => v
  | .low => BitVec.ofNat 64 (wfield v 0 32)
  | .high => BitVec.ofNat 64 (wfield v 32 32)
  | .odd => BitVec.allOnes 64

/-- A host access that reaches nothing (03 R61): it is not aligned, or not 4 or 8 bytes long. -/
def badAccess (off : Nat) (h : Half) : Bool := off % 8 ≠ 0 || h = .odd

/-- A word with only the listed field kept: bits [lo + n - 1 : lo]. -/
def keepField (v : Word) (lo n : Nat) : Word := BitVec.ofNat 64 ((wfield v lo n) <<< lo)

/-- `ctxstat.state` codes (03 Table 3.3c). -/
def CtxState.code : CtxState → Nat
  | .free => 0
  | .stopped => 1
  | .running => 2
  | .resetting => 3
  | .dumping => 4
  | .dead => 5

/-- `ctxctl` as read (03 Table 3.5). -/
def Ctx.ctl (x : Ctx) : Word :=
  BitVec.ofNat 64 (x.fqirq.toNat <<< 5 + x.ftrap.toNat <<< 4 + x.run.toNat <<< 2 + (decide (x.state ≠ .free)).toNat)

/-- `ctxstat` as read (03 Table 3.6). -/
def ctxStat (s : State) (c : BitVec 8) : Word :=
  let x := s.ctx c
  BitVec.ofNat 64 (x.fqlost.toNat <<< 32 + ((s.residentGangs c).length % 2 ^ 16) <<< 16
    + (decide (x.tlbinv ≠ [])).toNat <<< 4 + x.state.code)

/-- Global id of a context (03 R72). -/
def gidOf (s : State) (c : BitVec 8) : BitVec 20 := s.fab.devid ++ c

/-- A register of the supervisor page (03 Table 3.4); offsets not listed read 0. -/
def supRead (s : State) (c : BitVec 8) (off : Nat) : Word :=
  let x := s.ctx c
  match off with
  | 0x000 => x.ctl
  | 0x008 => ctxStat s c
  | 0x010 => x.ptbase
  | 0x020 => x.fqbase
  | 0x028 => x.fqhead.setWidth 64
  | 0x030 => x.fqtail.setWidth 64
  | 0x038 => x.evq
  | 0x040 => x.ovbase
  | 0x048 => x.ovhead.setWidth 64
  | 0x050 => x.ovtail.setWidth 64
  | 0x058 => x.htbase
  | 0x060 => x.ctxirqa
  | 0x068 => x.ctxirqd.setWidth 64
  | 0x070 => x.dumpbase
  | 0x078 => x.dumpsize
  | 0x080 => x.quota
  | 0x088 => (gidOf s c).setWidth 64
  | _ => 0

/-! ### Transitions (03 R73) -/

/-- alloc := 1 in FREE: the context enters STOPPED with its registers at their reset values (03 Table 3.3c, R351); none is created
before the device is ready (02 R48). Its code tables are empty (11 R301). -/
def State.allocSet (s : State) (c : BitVec 8) : State :=
  if (s.ctx c).state = .free ∧ s.pkg.bootState = 4 then s.modCtx c (fun x => { x with state := .stopped, ssvpool := 0, codes := [] }) else s

/-- alloc := 0 in STOPPED: the context enters FREE. -/
def State.allocClear (s : State) (c : BitVec 8) : State :=
  if (s.ctx c).state = .stopped then s.modCtx c (fun x => { x with state := .free }) else s

/-- What a saved hart that goes on waits for: its barrier, when it has reached one, or what it waited for at its pc (10 R260), else
nothing. -/
def State.waitBack (s : State) (h : Hart) : Wait :=
  match tget s.gangs h.gang.toNat with
  | none => .none
  | some g =>
    if wbit g.barArr h.rank.toNat ∧ g.ended = 0 then .gbar
    else
      match (tget g.carry h.rank.toNat).bind (fun c => c.resume) with
      | some (pc, w) => if pc = h.pc then w else .none
      | none => .none

/-- run := 1 in STOPPED enters RUNNING; during a pending stop it cancels the stop and the pre-emption requests that have not
yet saved their gang, whose harts go on. -/
def State.runSet (s : State) (c : BitVec 8) : State :=
  match (s.ctx c).state with
  | .stopped => s.modCtx c (fun x => { x with state := .running, run := true })
  | .running =>
    if (s.ctx c).stopPending then
      let s := s.modCtx c (fun x => { x with stopPending := false, run := true })
      let drop (p : Nat × Gang) : Nat × Gang :=
        if p.2.ctx = c ∧ ¬ p.2.saved then (p.1, { p.2 with preempt := false, savedRanks := 0, boundary := 0 }) else p
      { s with gangs := s.gangs.map drop }.mapHarts
        (fun h => if h.ctx = c ∧ h.wait = Wait.saved then { h with wait := s.waitBack h } else h)
    else s
  | _ => s

/-- The last gang of a pending stop has left: the context enters STOPPED. -/
def State.stopDone (s : State) (c : BitVec 8) : State :=
  let x := s.ctx c
  if x.state = .running ∧ x.stopPending ∧ (s.residentGangs c) = [] then
    s.modCtx c (fun x => { x with state := .stopped, stopPending := false })
  else s

/-- run := 0 in RUNNING: a pending stop; the gangs that may be saved get a pre-emption request (05 Table 5.8). -/
def State.runClear (s : State) (c : BitVec 8) : State :=
  if (s.ctx c).state = .running ∧ (s.ctx c).run then
    let s := s.modCtx c (fun x => { x with stopPending := true, run := false })
    let ask (p : Nat × Gang) : Nat × Gang :=
      if p.2.ctx = c ∧ ¬ p.2.saved ∧ p.2.frame.isSome ∧ 2 ≤ p.2.policy.toNat then (p.1, { p.2 with preempt := true }) else p
    ({ s with gangs := s.gangs.map ask }).stopDone c
  else s

/-! ### Context reset (03 R81) -/

/-- Step 3: the context's engine transfers and escrow entries are gone, and the answers that its audits wait for. -/
def State.dropEngines (s : State) (c : BitVec 8) : State :=
  let cl (p : Nat × Cluster) : Nat × Cluster :=
    (p.1, { p.2 with stream := p.2.stream.filter (fun x => x.ctx ≠ c), escrow := p.2.escrow.filter (fun x => x.ctx ≠ c) })
  let di (p : Nat × Die) : Nat × Die := (p.1, { p.2 with sort := p.2.sort.filter (fun x => x.ctx ≠ c) })
  let asked (r : Request) : Bool := match r.waiter with
    | .audit k => (s.cluster k).escrow.head?.any (fun e => e.ctx = c)
    | .drop k _ _ _ _ => k = c
    | _ => false
  { s with clusters := s.clusters.map cl, dies := s.dies.map di, fab := { s.fab with reqs := s.fab.reqs.filter (fun r => !asked r) } }

/-- Step 4: the context's unsent send-queue entries are discarded (04 R102), and the reports it still has to record. -/
def State.dropSends (s : State) (c : BitVec 8) : State :=
  let co (p : Nat × Core) : Nat × Core := (p.1, { p.2 with send := p.2.send.filter (fun e => e.2.ctx ≠ c ∨ e.2.sent) })
  { s with cores := s.cores.map co, rings := s.rings.filter (fun j => j.ctx ≠ c) }

/-- A hart that its context's reset has stopped: it holds its slot until step 5, and only what has left it goes on. -/
def Hart.stopped (h : Hart) : Hart := { h with wait := .halted, disp := [], stripDue := [], replies := [], rep := none }

/-- Steps 1 to 4: RESETTING; every resident gang stops at once, its transfers and escrow entries are cancelled, and its unsent calls
discarded. -/
def State.resetStart (s : State) (c : BitVec 8) : State :=
  let s := s.modCtx c (fun x => { x with state := .resetting, run := false, stopPending := false, resetHeld := false })
  let s := { s with dumpWaiting := s.dumpWaiting.filter (fun d => d ≠ c) }
  ((s.mapHarts (fun h => if h.ctx = c then h.stopped else h)).dropEngines c).dropSends c

/-- `ctxctl.rst` := 1 (03 R73, 10 R269). -/
def State.rstWrite (s : State) (c : BitVec 8) : State :=
  match (s.ctx c).state with
  | .stopped => s.resetStart c
  | .running => s.resetStart c
  | .dead => s.resetStart c
  | .dumping => if s.dumpCtx = some c then s.modCtx c (fun x => { x with resetHeld := true }) else s.resetStart c
  | _ => s

/-- A context holds the bank, itself or through a gang. -/
def Bank.heldBy (b : Bank) (c : BitVec 8) : Bool :=
  match b.holder with
  | .ctx d => d = c
  | .gang d _ => d = c
  | .none => false

/-- Step 5: the context's banks return to the pool. -/
def State.dropBanks (s : State) (c : BitVec 8) : State :=
  (s.banks.filter (fun p => p.2.heldBy c)).foldl (fun s p => s.freeBank p.1) s

/-- A die's walk cache drops what it holds of a context. -/
def Die.forget (d : Die) (c : BitVec 8) : Die := { d with walks := d.walks.filter (fun w => w.ctx ≠ c) }

/-- Record storage in use counts against `qsfree` (05 R117): a queue of so many records returns. -/
def capRecords (cap : BitVec 4) : Nat := 2 ^ (cap.toNat + 4)

/-- A fault record with only its kind, cause and addr (03 Table 3.7). -/
def faultRec (s : State) (kind cause : BitVec 8) (gang handler queue : BitVec 16) (addr pc : Word) : FaultRec :=
  { time := s.pkg.dtime, kind := kind, cause := cause, gang := gang, handler := handler, queue := queue, addr := addr, pc := pc }

/-- The end reports that a discarded record's return slot yields (04 R109). -/
def State.discardReport (s : State) (c : BitVec 8) (q : BitVec 16) (t : TaskRec) : State :=
  if wbit t.w0 47 then
    { s with reports := s.reports ++ [{ ctx := c, gang := 0xFFFF, queue := q, join := 0, rslot := wfield t.w0 48 16, outcome := 0x09, rels := [] }] }
  else s

/-- A task record with an uncorrectable error is discarded (02 R55): its return slot is freed without a report. -/
def State.spoil (s : State) (c : BitVec 8) (q : BitVec 16) (t : TaskRec) : State :=
  let s := s.countUe
  let s := if wbit t.w0 47 then { s with retTable := tdel s.retTable (wfield t.w0 48 16) } else s
  s.postFault c (faultRec s 8 0x15 0xFFFF 0xFFFF q 0 0)

/-- A queue or parked record is removed before it ran. -/
def State.removeRec (s : State) (c : BitVec 8) (q : BitVec 16) (t : TaskRec) (bad : Bool) : State :=
  if bad then s.spoil c q t else s.discardReport c q t

/-- The records of a queue, and those parked for it, are removed (02 R55, 04 R109, 05 R117, R128). -/
def State.removeAll (s : State) (c : BitVec 8) (q : Nat) (rs : List QRec) : State :=
  let qid := BitVec.ofNat 16 q
  let s := rs.foldl (fun s r => s.removeRec c qid r.task r.bad) s
  (s.park.filter (fun p => p.qid = qid)).foldl (fun s p => s.removeRec c qid p.task p.bad) s

/-- Delete a queue: its records and the records parked for it are discarded (05 R117, R128). -/
def State.dropQueue (s : State) (q : Nat) : State :=
  match tget s.queues q with
  | none => s
  | some d =>
    let s := s.removeAll d.ctx q d.recs
    { s with queues := tdel s.queues q, park := s.park.filter (fun p => p.qid.toNat ≠ q)
             pkg := { s.pkg with qsfree := s.pkg.qsfree + BitVec.ofNat 32 (capRecords d.cap) } }

/-- A gang that a reset stops, and that held a return slot, is reported as discarded once its harts' writes are complete (04 R108,
R109). -/
def State.stopGangs (s : State) (c : BitVec 8) : State :=
  let one (p : Nat × Gang) : TaskEnd :=
    { ctx := c, gang := 0xFFFF, queue := p.2.queue, join := 0, rslot := wfield p.2.task.w0 48 16, outcome := 0x09, rels := s.gangReleases p.1 }
  { s with reports := s.reports ++ (s.gangs.filter (fun p => p.2.ctx = c && wbit p.2.task.w0 47)).map one }

/-- Class L writes of a context are on their way or not yet performed. -/
def lWritesLeft (s : State) (c : BitVec 8) : Bool :=
  s.ltransit.any (fun w => w.ctx = c && !w.foreign) || s.lwrites.any (fun w => w.ctx = c && !w.foreign && !w.performed)

/-- A request of a hart of the context, or a posted write, has no answer yet. -/
def askedBy (s : State) (c : BitVec 8) : Bool :=
  let mine (r : HartRef) : Bool := (s.findHart r).any (fun h => h.ctx = c)
  s.fab.reqs.any (fun r => match r.waiter with
    | .hart h => mine h
    | .write h => mine h
    | _ => false)

/-- A cluster in which the context holds a bank or a slot runs bank commands, behind which the releases of step 5 take their turn (07 R177). -/
def banksBusy (s : State) (c : BitVec 8) : Bool :=
  let busy (cl : Nat) : Bool := !(s.cluster (BitVec.ofNat 5 cl)).bankCmd.isEmpty
  s.banks.any (fun p => p.2.heldBy c && busy (p.1 / 192)) || s.allHarts.any (fun h => h.ctx = c && busy (clusterOf h.core).toNat)

/-- What a context reset waits for in step 4, and before step 5. -/
def resetWaits (s : State) (c : BitVec 8) : Bool := lWritesLeft s c || askedBy s c || banksBusy s c

/-- Queues of a context with a record of theirs, queued or parked, that has an uncorrectable error: one entry for each record. -/
def badRecs (s : State) (c : BitVec 8) : List (BitVec 16) :=
  (s.queues.filter (fun p => p.2.ctx = c)).flatMap (fun p =>
    let q := BitVec.ofNat 16 p.1
    ((p.2.recs.filter (fun r => r.bad)).map (fun _ => q)) ++ ((s.park.filter (fun k => k.qid = q && k.bad)).map (fun _ => q)))

/-- Steps 5 to 7 (03 R81; R301, R357 for code tables and tickets), once what has left its harts is complete. The fault records of its bad
task records are posted when it has entered STOPPED (02 R55; DEDUCED, log 50). -/
def State.resetEnd (s : State) (c : BitVec 8) : State :=
  if (s.ctx c).state = .resetting ∧ ¬ resetWaits s c then
    let bad := badRecs s c
    let s := s.stopGangs c
    let s := ((s.allHarts.filter (fun h => h.ctx = c)).foldl (fun s h => s.freeHart h) s).dropBanks c
    let s := { s with gangs := s.gangs.filter (fun p => p.2.ctx ≠ c), tickets := s.tickets.filter (fun t => t.ctx ≠ c)
                      tlb := s.tlb.filter (fun t => t.ctx ≠ c)
                      dies := s.dies.map (fun (d : Nat × Die) => (d.1, { d.2.forget c with missQ := d.2.missQ.filter (fun m => m.ctx ≠ c) })) }
    let s := (s.queues.filter (fun p => p.2.ctx = c)).foldl (fun s p => s.dropQueue p.1) s
    let s := s.modCtx c (fun x => { x with state := .stopped, codes := [], evq := 0, fqhead := 0, fqtail := 0, ovhead := 0
                                           ovtail := 0, ssvpool := 0, frames := [], tlbinv := [], epoch := x.epoch + 1
                                           adis := false, sauSticky := false, dumpRecs := [], dumpFault := none })
    bad.foldl (fun s q => s.postFault c (faultRec s 8 0x15 0xFFFF 0xFFFF q 0 0)) s
  else s

/-! ### Invalidation (03 R89) -/

/-- The entries of a context that a `tlbinv` value names: bit 0 all pages, bit 1 keeps global entries. -/
def invDrops (v : Word) (t : TlbEntry) (c : BitVec 8) : Bool :=
  t.ctx = c ∧ ¬ (wbit v 1 ∧ wbit t.leaf 5) ∧ (wbit v 0 ∨ (wfield v 12 36 <<< 12) >>> t.bits = t.base >>> t.bits)

/-- A write to `tlbinv`: it runs, or is queued behind the one in progress. -/
def State.tlbinvWrite (s : State) (c : BitVec 8) (v : Word) : State :=
  s.modCtx c (fun x => { x with tlbinv := x.tlbinv ++ [{ val := v }] })

/-- The invalidation in progress completes: every TLB has dropped the entries, the walk caches hold nothing of the context (DEDUCED, log
6), and every earlier walk has finished. -/
def State.tlbinvDone (s : State) (c : BitVec 8) : State :=
  match (s.ctx c).tlbinv with
  | [] => s
  | i :: rest =>
    let s := { s with tlb := s.tlb.filter (fun t => ¬ invDrops i.val t c), dies := s.dies.map (fun (d : Nat × Die) => (d.1, d.2.forget c)) }
    s.modCtx c (fun x => { x with tlbinv := rest })

/-! ### Register writes -/

/-- A write to `ctxctl` (03 R73): alloc first, then run, each only when the written bit differs from what it reads. The
runtime's write of alloc is lost (R76). The spec does not place rst among them: the model takes it last (DESIGN CHOICE, log 50). -/
def State.ctlWrite (s : State) (c : BitVec 8) (h : Half) (data : Word) (host : Bool) : State :=
  let v := mergeHalf h (s.ctx c).ctl data
  let rst := wbit (carried h data) 3
  let s := s.modCtx c (fun x => { x with ftrap := wbit v 4, fqirq := wbit v 5 })
  let s := if host ∧ wbit v 0 ≠ wbit (s.ctx c).ctl 0 then (if wbit v 0 then s.allocSet c else s.allocClear c) else s
  let s := if wbit v 2 ≠ wbit (s.ctx c).ctl 2 then (if wbit v 2 then s.runSet c else s.runClear c) else s
  if rst then s.rstWrite c else s

/-- A write to a register of the supervisor page (03 Table 3.4, R74, R76). -/
def State.supWrite (s : State) (c : BitVec 8) (off : Nat) (h : Half) (data : Word) (host : Bool) : State :=
  let v := mergeHalf h (supRead s c off) data
  let idle := (s.ctx c).state = .free ∨ (s.ctx c).state = .stopped
  match off with
  | 0x000 => s.ctlWrite c h data host
  | 0x010 => if host ∧ idle then s.modCtx c (fun x => { x with ptbase := keepField v 12 40 }) else s
  | 0x018 => s.tlbinvWrite c (carried h data)
  | 0x020 => if idle then s.modCtx c (fun x => { x with fqbase := keepField v 12 40 + keepField v 0 5 }) else s
  | 0x028 => s.modCtx c (fun x => { x with fqhead := field v 0 32 })
  | 0x038 => s.modCtx c (fun x => { x with evq := keepField v 63 1 + keepField v 0 16 })
  | 0x040 => if idle then s.modCtx c (fun x => { x with ovbase := keepField v 12 40 + keepField v 0 5 }) else s
  | 0x048 => s.modCtx c (fun x => { x with ovhead := field v 0 32 })
  | 0x058 => s.modCtx c (fun x => { x with htbase := keepField v 12 36 + keepField v 0 5 })
  | 0x060 => s.modCtx c (fun x => { x with ctxirqa := v })
  | 0x068 => s.modCtx c (fun x => { x with ctxirqd := field v 0 32 })
  | 0x070 => s.modCtx c (fun x => { x with dumpbase := v })
  | 0x078 => s.modCtx c (fun x => { x with dumpsize := v })
  | 0x080 =>
    if host ∧ idle then s.modCtx c (fun x => { x with quota := keepField v 32 16 + keepField v 16 12 + keepField v 0 9 }) else s
  | _ => s

/-! ### The rows -/

/-- CTXCTL_ALLOC_SET (03 R73). -/
def execCtxctlAllocSet (c : BitVec 8) (s : State) : Host.Outcome State Fault Refusal := .next (s.allocSet c)
/-- CTXCTL_ALLOC_CLEAR (03 R73). -/
def execCtxctlAllocClear (c : BitVec 8) (s : State) : Host.Outcome State Fault Refusal := .next (s.allocClear c)
/-- CTXCTL_RUN_SET (03 R73). -/
def execCtxctlRunSet (c : BitVec 8) (s : State) : Host.Outcome State Fault Refusal := .next (s.runSet c)
/-- CTXCTL_RUN_CLEAR (03 R73). -/
def execCtxctlRunClear (c : BitVec 8) (s : State) : Host.Outcome State Fault Refusal := .next (s.runClear c)
/-- PENDING_STOP_COMPLETE (03 R73). -/
def execPendingStopComplete (c : BitVec 8) (s : State) : Host.Outcome State Fault Refusal := .next (s.stopDone c)
/-- CTXCTL_RST (03 R73, R81). -/
def execCtxctlRst (c : BitVec 8) (s : State) : Host.Outcome State Fault Refusal := .next (s.rstWrite c)
/-- CONTEXT_RESET_COMPLETE (03 R81). -/
def execContextResetComplete (c : BitVec 8) (s : State) : Host.Outcome State Fault Refusal := .next (s.resetEnd c)
/-- TLBINV_WRITE (03 R89); in recovery the supervisor pages cannot be reached (02 R48). -/
def execTlbinvWrite (c : BitVec 8) (v : Word) (s : State) : Host.Outcome State Fault Refusal :=
  .next (if s.pkg.bootState = 4 then s.tlbinvWrite c v else s)
/-- TLB_INVALIDATION_COMPLETE (03 R89). -/
def execTlbInvalidationComplete (c : BitVec 8) (s : State) : Host.Outcome State Fault Refusal := .next (s.tlbinvDone c)

/-- TRANSLATION_MISS (03 R91): a miss joins the die's queue unless it attaches to one for its page; beyond 1,024 misses it holds its core's
memory pipe until a place is free. -/
def execTranslationMiss (die : BitVec 2) (c : BitVec 8) (va : Word) (s : State) : Host.Outcome State Fault Refusal :=
  let d := s.die die
  if d.missQ.any fun m => m.ctx = c ∧ wfield m.va 12 36 = wfield va 12 36 then .next s
  else .next (s.modDie die (fun d => { d with missQ := d.missQ ++ [{ ctx := c, va := va }] }))

/-- PAGE_WALK (03 R85, R90, R91): the oldest miss of the die is walked; a good leaf goes to the second-level TLBs of the
die's clusters. -/
def execPageWalk (die : BitVec 2) (s : State) : Host.Outcome State Fault Refusal :=
  match (s.die die).missQ with
  | [] => .next s
  | m :: rest =>
    match (s.modDie die (fun d => { d with missQ := rest })).walkOn die m.ctx m.va.toNat with
    | (.leaf leaf bits, s) =>
      let put (s : State) (k : Nat) : State :=
        let t : TlbEntry := { second := true, unit := BitVec.ofNat 8 (8 * die.toNat + k), ctx := m.ctx
                              base := m.va.toNat >>> bits <<< bits, bits := bits, leaf := leaf }
        { s with tlb := tlbInsert s.tlb t }
      .next ((List.range 8).foldl put s)
    | (_, s) => .next s

end Sys2Proof.Machine
end

