-- ==== Sys2Proof/Machine/HartMem.lean ====
section
/-!
DEFINITION. One access of the current hart: a load, a store, and a read-modify-write at a scatter-add unit, with the checks
of 03 R83 to R92, watchpoints (10 R273), engine transfers in flight (08 R222, 07 R187), the coherence classes (08), windows
(07), and peer and host pages (08 R210, R211; 03 R71; 09 R243).
-/
namespace Sys2Proof.Machine

/-- Two byte ranges meet. -/
def overlaps (a n lo hi : Nat) : Bool := a < hi ∧ lo < a + n

/-- The lowest byte of an access that the core's watchpoint matches (10 R273). -/
def watchHit (s : State) (va n : Nat) (ld st : Bool) : Option Nat :=
  match tget s.cores s.hart.core.toNat with
  | none => none
  | some c =>
    let size := min (wfield c.dbwp 56 5) 20
    let lo := (wfield c.dbwp 0 48) >>> size <<< size
    if wbit c.dbwp 63 ∧ ¬ s.hart.wpSkip ∧ wfield c.dbwp 48 8 = s.hart.ctx.toNat
        ∧ ((ld ∧ wbit c.dbwp 62) ∨ (st ∧ wbit c.dbwp 61)) ∧ overlaps va n lo (lo + 2 ^ size)
    then some (max va lo) else none

/-- What a watchpoint match does, before the access is performed. -/
def watched {α : Type} (s : State) (va n : Nat) (ld st : Bool) (k : Res α) : Res α :=
  match watchHit s va n ld st with
  | none => k
  | some a => if (s.core s.hart.core).dWpact then .need (.halt 3) else .trap 0x16 (BitVec.ofNat 64 a)

/-- The hart's transfers in flight whose ranges an access meets: the write range for a load, either range for a store
(08 R222 rules 2 and 3). -/
def transfersMet (s : State) (va n : Nat) (st : Bool) : List AritEntry :=
  ((tget s.cores s.hart.core.toNat).getD Core.empty).arit.filter
    (fun a => a.slot = s.hart.slot ∧ (overlaps va n a.wlo a.whi ∨ (st ∧ overlaps va n a.rlo a.rhi)))

/-- A scratch load may chain on the one transfer it meets, once that is the bank's oldest writer and its bytes lie below the bank's
arrival pointer (07 R186, R187). -/
def chainReady (s : State) (p : Place) (n : Nat) (met : List AritEntry) : Bool :=
  match p with
  | .bank i off =>
    match (s.bank i).writers with
    | [] => true
    | (core, slot, id, arr) :: _ =>
      core = s.hart.core && slot = s.hart.slot && met.all (fun a => a.id = id)
        && off + n ≤ (if (s.bank i).mode = .F then (s.bank i).arr % 24576 else arr)
  | _ => false

/-- Count the words of a bank with a corrected error that an access reads (02 R53, Table 2.2). -/
def State.softRead (s : State) (i off n : Nat) : State :=
  s.sramUp ((s.bank i).soft.filter (fun w => w * 8 < off + n ∧ off < w * 8 + 8)).length

/-- Bytes of a bank from an offset (07 R179). -/
def bankBytes (b : Bank) (off n : Nat) : List Byte := leBytes n (b.data >>> (8 * off))

/-- A byte range of a bank meets a word with an uncorrectable error (02 R53). -/
def bankBad (b : Bank) (off n : Nat) : Bool := b.bad.any (fun w => w * 8 < off + n ∧ off < w * 8 + 8)

/-- A bank with bytes written at an offset (07 R179); a word written whole is good again. -/
def bankWrite (b : Bank) (off : Nat) (data : List Byte) : Bank :=
  let left (ws : List Nat) : List Nat := ws.filter (fun w => ¬ (off ≤ w * 8 ∧ w * 8 + 8 ≤ off + data.length))
  { b with bad := left b.bad, soft := left b.soft, data := nsetField b.data (8 * off) (8 * data.length) (leNat data) }

/-- Take the oldest reply of the instruction in progress (01 R32). -/
def State.takeReply (s : State) : Option (Reply × State) :=
  match s.hart.replies with
  | [] => none
  | r :: rs => some (r, s.withHart (fun h => { h with replies := rs }))

/-- The cause that a reply's status raises at the access (08 R210): 0x15 for uncorrectable data, else an access fault. -/
def replyCause (k : Kind) (status : BitVec 8) : BitVec 8 := if status = 1 then 0x15 else k.accessFault

/-- The header word of a memory packet (08 Table 8.3). -/
def memHead (lease l : Bool) (n pa : Nat) : Word :=
  BitVec.ofNat 64 (lease.toNat <<< 63 + l.toNat <<< 62 + (n - 1) <<< 55 + pa % 2 ^ 52)

/-- A register of the supervisor page read by 4 or 8 bytes (03 R76). -/
def pageRead (s : State) (off n : Nat) : List Byte :=
  let v := supRead s s.hart.ctx (off / 8 * 8)
  if n = 8 then leBytes 8 v.toNat else leBytes 4 (pickHalf (if off % 8 = 0 then .low else .high) v).toNat

/-- Whether a place is local memory or a bank: its accesses need no packet. -/
def Place.near : Place → Bool
  | .phys _ _ _ => true
  | .bank _ _ => true
  | _ => false

/-- The header word of a read for a lease, with the renewal bit (08 Table 8.3, R204). -/
def leaseHead (renew : Bool) (pa : Nat) : Word := memHead true renew 128 (pa / 128 * 128)

/-- Read bytes of one line of a peer's class L page: a copy whose lease runs, else the whole line from its home, under a lease
(08 R195, R202). The hart's own write to the line comes first (R214). -/
def readLeased (s : State) (va : Word) (dev : BitVec 12) (pa n : Nat) (k : Kind) : Res (List Byte) :=
  let key := peerLine dev pa
  let part (line : List Byte) : List Byte := (line.drop (pa % 128)).take n
  if s.hart.posted.any (fun p => p.line = key ∧ ¬ p.failed) then .need (.wait .transfer)
  else
    match s.takeReply with
    | some (r, s) => if r.status = 0 then .ok (part r.data) s else .trap (replyCause k r.status) va
    | none =>
      let cs := (s.lline false key).copies.filter (fun c => c.core = s.hart.core)
      match cs.find? (fun c => s.pkg.dtime.toNat + 8 < c.expiry) with
      | some c => .ok (part (leBytes 128 c.data)) s
      | none => .need (.request dev 0 0 0 [leaseHead (!cs.isEmpty) pa])

/-- Read `n` bytes at a place for the current hart. -/
def readPlace (s : State) (va : Word) (p : Place) (n : Nat) (k : Kind) : Res (List Byte) :=
  match p with
  | .phys pa cls da =>
    if poisoned s pa n then .trap 0x15 va
    else if cls = 1 then
      let (b, s) := (s.scrubbed pa n).lRead s.hart.who da pa n
      .ok b s
    else
      let s := s.scrubbed pa n
      let s := if cls = 0 then s.cached s.hart.core pa n da false else s.atHome (some (dieOf s.hart.core)) pa n da false
      .ok (memRead s.mem pa n) s
  | .bank i off =>
    let b := s.bank i
    if 24576 < off + n then .trap 0x14 va
    else if bankBad b off n then .trap 0x15 va
    else .ok (bankBytes b off n) ((s.softRead i off n).count 0x0E 1)
  | .page off => if n = 4 ∨ n = 8 then .ok (pageRead s off n) s else .trap k.accessFault va
  | .peer dev pa cls =>
    if cls = 1 ∧ pa % 128 + n ≤ 128 then readLeased s va dev pa n k
    else
      match s.takeReply with
      | some (r, s) => if r.status = 0 then .ok (r.data.take n) s else .trap (replyCause k r.status) va
      | none => .need (.request dev 0 0 0 [memHead false false n pa])
  | .host a =>
    match s.takeReply with
    | some (r, s) => if r.status = 0 then .ok (r.data.take n) s else .trap (replyCause k r.status) va
    | none => .need (.hostRead a n)

/-- The supervisor register page, which only scalar loads and stores reach (03 R76). -/
def Place.isPage : Place → Bool
  | .page _ => true
  | _ => false

/-- One load of the current hart of `n` bytes, by a scalar load or by another instruction: the bytes read (12 Table 12.15 mem_read;
alignment is the caller's). -/
def hartLoadBy (scalar : Bool) (s : State) (va : Word) (n : Nat) : Res (List Byte) :=
  let (f, s) := resolve s s.hart.who va .load
  match f with
  | .error c => .trap c va
  | .ok p =>
    if !scalar && p.isPage then .trap 0x08 va
    else
      watched s va.toNat n true false
        (if (transfersMet s va.toNat n false) ≠ [] ∧ ¬ chainReady s p n (transfersMet s va.toNat n false) then .need (.wait .transfer)
         else readPlace s va p n .load)

/-- One load by an instruction that is no scalar load. -/
def hartLoad (s : State) (va : Word) (n : Nat) : Res (List Byte) := hartLoadBy false s va n

/-- The visibility value of a write (08 R208) reaches the hart's `vispend`. -/
def Hart.visible (h : Hart) (v : Nat) : Hart := { h with vispend := BitVec.ofNat 64 (max h.vispend.toNat v) }

/-- The fault record of a posted write that failed (03 R92). -/
def failedRec (s : State) (h : Hart) (va : Word) : FaultRec :=
  { time := s.pkg.dtime, kind := 7, cause := 0, gang := h.gang, handler := 0xFFFF, queue := 0xFFFF, addr := va, pc := 0 }

/-- A posted write to a peer or host page: the packet leaves, and the hart remembers it until its acknowledgement, or that it has
failed (08 R210, R228; 03 R92). -/
def State.post (s : State) (va : Word) (line : Nat) (tag : BitVec 10) (r : Sent) : State :=
  let put (port : BitVec 4) (failed : Bool) : State :=
    s.withHart (fun h => { h with posted := h.posted ++ [{ seq := h.postSeq, tag := tag, port := port, va := va, line := line, failed := failed }]
                                  postSeq := h.postSeq + 1 })
  match r with
  | .at port => put port false
  | .loop => s.withHart (fun h => h.visible s.pkg.dtime.toNat)
  | .failed => (put 0xF true).postFault s.hart.ctx (failedRec s s.hart va)

/-- Write bytes at a place for the current hart; the value is that of R208 where it is known at once. A class L write leaves for its
home (08 R205). -/
def writePlace (s : State) (va : Word) (p : Place) (data : List Byte) : Res (Option Nat) :=
  let now := s.pkg.dtime.toNat
  match p with
  | .phys pa cls da =>
    let n := data.length
    if cls = 1 then
      let w : LWrite := { core := s.hart.core, slot := s.hart.slot, ctx := s.hart.ctx, gang := s.hart.gang, rank := s.hart.rank
                          seq := s.hart.postSeq, pa := pa, da := da, data := data, v := 0, performed := false, foreign := false }
      .ok none ({ s with ltransit := s.ltransit ++ [w] }.withHart (fun h => { h with postSeq := h.postSeq + 1 }))
    else
      let s := if cls = 0 then s.cached s.hart.core pa n da true else s.atHome (some (dieOf s.hart.core)) pa n da true
      let s := s.breakLinks (pa / 128) ((pa + n - 1) / 128) (s.hart.who.owns s.fab.devid)
      .ok (some now) ((s.putMem pa data).withHart (fun h => h.visible now))
  | .bank i off =>
    if off + data.length ≤ 24576 then
      .ok (some now) (((s.setBank i (bankWrite (s.bank i) off data)).withHart (fun h => h.visible now)).count 0x0E 1)
    else .trap 0x14 va
  | .page off =>
    if data.length = 4 ∨ data.length = 8 then
      let h : Half := if data.length = 8 then .whole else if off % 8 = 0 then .low else .high
      .ok (some now) (s.supWrite s.hart.ctx (off / 8 * 8) h (BitVec.ofNat 64 (leNat data)) false)
    else .trap 0x09 va
  | .peer dev pa cls =>
    let (tag, s) := s.newTag
    let (r, s) := s.sendPacket (s.mkPacket dev 0 2 tag 0 (memHead false (cls = 1) data.length pa :: bytesWords data))
    let s := match r with
      | .at port => s.await { tag := tag, dst := dev, port := port, since := now, waiter := .write s.hart.ref, lease := none }
      | _ => s
    .ok none (s.post va (peerLine dev pa) tag r)
  | .host a =>
    let (r, tag, s) := s.hostWrite a data (.write s.hart.ref)
    .ok (if r = .loop then some now else none) (s.post va (2 ^ 70 + a / 128) tag r)

/-- One store of the current hart, by a scalar store or by another instruction, with its visibility value where known. -/
def hartStoreV (scalar : Bool) (s : State) (va : Word) (data : List Byte) : Res (Option Nat) :=
  let (f, s) := resolve s s.hart.who va .store
  match f with
  | .error c => .trap c va
  | .ok p =>
    if !scalar && p.isPage then .trap 0x09 va
    else
      watched s va.toNat data.length false true
        (if transfersMet s va.toNat data.length true ≠ [] then .need (.wait .transfer) else writePlace s va p data)

/-- Two class L writes of one indivisible access leave as one (08 R221). -/
def State.joinTransit (s : State) (before : Nat) : State :=
  match s.ltransit.drop before with
  | [a, b] => { s with ltransit := s.ltransit.take before ++ [{ a with more := some (b.pa, b.da, b.data) }] }
  | _ => s

/-- The class L writes of an instruction with `.o` are performed in order (15 R402). -/
def State.orderTransit (s : State) (before : Nat) : State :=
  { s with ltransit := s.ltransit.take before ++ (s.ltransit.drop before).map (fun w => { w with ordered := true }) }

/-- One store by an instruction that is no scalar store. -/
def hartStore (s : State) (va : Word) (data : List Byte) : Res Unit := (hartStoreV false s va data).bind fun _ s => .ok () s

/-! ### Read-modify-write at a scatter-add unit (07 R192, 08 R211) -/

/-- An atomic operation: how a peer is asked for it (function code of 08 R211, 64-bit, operands a and b), and what it does
to the old value: the new value to write, if it writes, and the value it returns. -/
structure Rmw where
  code : Nat
  dbl : Bool
  a : Word
  b : Word
  act : Nat → Option Nat × Nat
  /-- a width below 32 bits, in bytes (15 R414, R415) -/
  narrow : Option Nat := none
  /-- further elements that a conditional write at a local line writes with it: physical address and value (15 R415) -/
  also : List (Nat × Nat) := []

/-- The atomic packet's content (08 Table 8.4). -/
def Rmw.body (r : Rmw) (pa : Nat) : List Word :=
  [BitVec.ofNat 64 (r.code <<< 58 + r.dbl.toNat <<< 57 + pa % 2 ^ 52), r.a, r.b]

/-- Width in bytes. -/
def Rmw.bytes (r : Rmw) : Nat := r.narrow.getD (if r.dbl then 8 else 4)

/-- A linked read is checked as a load, and every other operation as a store (13 R344). -/
def Rmw.kind (r : Rmw) : Kind := if r.code = 14 then .load else .amo

/-- The operation as its home takes it (08 R211). -/
def Rmw.op (r : Rmw) (pa : Nat) : SauOp :=
  { host := false, pa := pa, fn := BitVec.ofNat 6 r.code, dbl := r.dbl, a := r.a, b := r.b, reply := none, issuer := none, narrow := r.narrow
    also := r.also }

/-- The operation has written, by the value it returns (08 R212): a conditional write says so itself. -/
def Rmw.wrote (r : Rmw) (ret : Nat) : Bool := if r.code = 15 then ret = 0 else (r.act ret).1.isSome

/-- Perform an atomic at a local line's home for a hart or another agent: `mine` names the links it keeps. -/
def State.sauPerform (s : State) (pa : Nat) (da : Bool) (n : Nat) (act : Nat → Option Nat × Nat) (mine : LinkEntry → Bool) : Nat × State :=
  let (new, ret) := act (memNat s.mem pa n)
  let s := s.uncount (homeOf pa da).1 3 1
  match new with
  | none => (ret, s)
  | some v =>
    let s := s.breakLinks (pa / 128) ((pa + n - 1) / 128) mine
    (ret, s.putMem pa (leBytes n v))

/-- An answer to an atomic that the hart has asked for: the value it returns, and when it wrote, the time of its arrival (08 R208). -/
def rmwAnswer (s : State) (va : Word) (r : Rmw) (q : Reply) (seen : Bool) : Res Nat :=
  if q.status = 0 ∨ q.status = 5 then
    let ret := leNat (q.data.take 8)
    .ok ret (if seen ∧ r.wrote ret then s.withHart (fun h => h.visible q.time) else s)
  else .trap (replyCause r.kind q.status) va

/-- An atomic of the current hart at a place; returns the value its operation returns. On a class L line it takes its visibility time when
it reaches its home, and is performed and answered there (08 R207); on another line it waits behind the operations held there (07 R192). -/
def rmwPlace (s : State) (va : Word) (p : Place) (r : Rmw) : Res Nat :=
  let n := r.bytes
  let now := s.pkg.dtime.toNat
  match p with
  | .phys pa cls da =>
    if cls = 1 then
      match s.takeReply with
      | some (q, s) => rmwAnswer s va r q false
      | none =>
        if poisoned s pa n then .trap 0x15 va
        else if s.inTransit s.hart.gang s.hart.rank then .need (.wait .transfer)
        else .need (.sau (r.op pa) true da)
    else if poisoned s pa n then .trap 0x15 va
    else if s.sauq.any (fun w => w.line = pa / 128) then .need (.wait .transfer)
    else
      let writes := (r.act (memNat s.mem pa n)).1.isSome
      let s := (s.scrubbed pa n).atHome (some (dieOf s.hart.core)) pa n da true
      let (ret, s) := s.sauPerform pa da n r.act (s.hart.who.owns s.fab.devid)
      .ok ret (if writes then s.withHart (fun h => h.visible now) else s)
  | .bank i off =>
    if bankBad (s.bank i) off n then .trap 0x15 va
    else if off + n ≤ 24576 then
      let s := (s.softRead i off n).count 0x0E 1
      let (new, ret) := r.act (leNat (bankBytes (s.bank i) off n))
      match new with
      | none => .ok ret s
      | some v => .ok ret ((s.setBank i (bankWrite (s.bank i) off (leBytes n v))).withHart (fun h => h.visible now))
    else .trap 0x14 va
  | .page _ => .trap 0x09 va
  | .peer dev pa _ =>
    match s.takeReply with
    | some (q, s) => rmwAnswer s va r q true
    | none => .need (.request dev 1 0 0 (r.body pa))
  | .host a =>
    match s.takeReply with
    | some (q, s) => rmwAnswer s va r q true
    | none => .need (.hostAtomic (r.body a))

/-- One atomic of the current hart (alignment is the caller's). -/
def hartRmw (s : State) (va : Word) (r : Rmw) : Res Nat :=
  let (f, s) := resolve s s.hart.who va .amo
  match f with
  | .error c => .trap c va
  | .ok p =>
    watched s va.toNat r.bytes true true
      (if transfersMet s va.toNat r.bytes true ≠ [] then .need (.wait .transfer) else rmwPlace s va p r)

end Sys2Proof.Machine
end

