-- ==== Sys2Proof/Machine/Scalar.lean ====
section
/-!
DEFINITION. The integer instructions of the scalar base (13 Table 13.1, R341): LUI, AUIPC, jumps, branches, OP-IMM, OP,
OP-IMM-32 and OP-32.
-/
namespace Sys2Proof.Machine

/-- An outcome of `exec`. -/
abbrev Out := Host.Outcome State Fault Refusal

/-- An instruction that writes x[rd] and goes on. -/
def State.putX (s : State) (rd : Reg) (v : Word) : Out := .next (s.setX rd v).retire

/-- The sign-extended low 32 bits of a word (13 Table 13.1, word forms). -/
def sextW (w : BitVec 32) : Word := w.signExtend 64

/-- The low 32 bits of a word. -/
def lowW (w : Word) : BitVec 32 := w.setWidth 32

/-- A sign-extended 12-bit immediate. -/
def sext12 (imm : BitVec 12) : Word := imm.signExtend 64

/-- Signed quotient with the corners of 13 Table 13.1. -/
def divS {n : Nat} (a b : BitVec n) : BitVec n := if b = 0 then BitVec.allOnes n else BitVec.sdiv a b

/-- Unsigned quotient with the corner of 13 Table 13.1. -/
def divU {n : Nat} (a b : BitVec n) : BitVec n := if b = 0 then BitVec.allOnes n else BitVec.udiv a b

/-- Signed remainder with the corners of 13 Table 13.1. -/
def remS {n : Nat} (a b : BitVec n) : BitVec n := if b = 0 then a else BitVec.srem a b

/-- Unsigned remainder with the corner of 13 Table 13.1. -/
def remU {n : Nat} (a b : BitVec n) : BitVec n := if b = 0 then a else BitVec.umod a b

/-- Bits [127:64] of a product of two integers. -/
def highProduct (a b : Int) : Word := BitVec.ofInt 64 (a * b / (2 ^ 64 : Nat))

/-- 0 or 1 in a register. -/
def flag (b : Bool) : Word := if b then 1 else 0

/-- A taken branch or jump (12 R311): a target with bit 1 set is misaligned; else `rd` takes the link and pc the target. -/
def State.jump (s : State) (target : Word) (rd : Reg) : Res Unit :=
  if target.getLsbD 1 then .trap 0x01 target
  else .ok () (((s.trace 0 target).setX rd (s.hart.pc + 4)).retireAt target)

/-- A branch: taken to pc + imm, where `imm` is imm[12:1], or not taken. -/
def State.branch (s : State) (taken : Bool) (imm : BitVec 12) : Res Unit :=
  if taken then s.jump (s.hart.pc + (imm ++ 0#1).signExtend 64) 0 else .ok () s.retire

/-- LUI (13 Table 13.1): rd := sext(imm[31:12] << 12). -/
def execLui (rd : Reg) (imm : BitVec 20) (s : State) : Out := s.putX rd ((imm ++ 0#12).signExtend 64)
/-- AUIPC (13 Table 13.1): rd := pc + sext(imm[31:12] << 12). -/
def execAuipc (rd : Reg) (imm : BitVec 20) (s : State) : Out := s.putX rd (s.hart.pc + (imm ++ 0#12).signExtend 64)
/-- JAL (13 Table 13.1, 12 R311); `imm` is imm[20:1]. -/
def execJal (rd : Reg) (imm : BitVec 20) (s : State) : Out :=
  (s.jump (s.hart.pc + (imm ++ 0#1).signExtend 64) rd).finish s
/-- JALR (13 Table 13.1, 12 R311): bit 0 of the target is cleared first. -/
def execJalr (rd rs1 : Reg) (imm : BitVec 12) (s : State) : Out :=
  (s.jump ((s.getX rs1 + sext12 imm) &&& ~~~ 1#64) rd).finish s
/-- BEQ (13 Table 13.1): branch when equal. -/
def execBeq (rs1 rs2 : Reg) (imm : BitVec 12) (s : State) : Out := (s.branch (s.getX rs1 = s.getX rs2) imm).finish s
/-- BNE (13 Table 13.1): branch when not equal. -/
def execBne (rs1 rs2 : Reg) (imm : BitVec 12) (s : State) : Out := (s.branch (s.getX rs1 ≠ s.getX rs2) imm).finish s
/-- BLT (13 Table 13.1): branch when less, signed. -/
def execBlt (rs1 rs2 : Reg) (imm : BitVec 12) (s : State) : Out := (s.branch ((s.getX rs1).slt (s.getX rs2)) imm).finish s
/-- BGE (13 Table 13.1): branch when not less, signed. -/
def execBge (rs1 rs2 : Reg) (imm : BitVec 12) (s : State) : Out := (s.branch (¬ (s.getX rs1).slt (s.getX rs2)) imm).finish s
/-- BLTU (13 Table 13.1): branch when less, unsigned. -/
def execBltu (rs1 rs2 : Reg) (imm : BitVec 12) (s : State) : Out := (s.branch ((s.getX rs1).ult (s.getX rs2)) imm).finish s
/-- BGEU (13 Table 13.1): branch when not less, unsigned. -/
def execBgeu (rs1 rs2 : Reg) (imm : BitVec 12) (s : State) : Out := (s.branch (¬ (s.getX rs1).ult (s.getX rs2)) imm).finish s
/-- ADDI (13 Table 13.1). -/
def execAddi (rd rs1 : Reg) (imm : BitVec 12) (s : State) : Out := s.putX rd (s.getX rs1 + sext12 imm)
/-- SLTI (13 Table 13.1). -/
def execSlti (rd rs1 : Reg) (imm : BitVec 12) (s : State) : Out := s.putX rd (flag ((s.getX rs1).slt (sext12 imm)))
/-- SLTIU (13 Table 13.1). -/
def execSltiu (rd rs1 : Reg) (imm : BitVec 12) (s : State) : Out := s.putX rd (flag ((s.getX rs1).ult (sext12 imm)))
/-- XORI (13 Table 13.1). -/
def execXori (rd rs1 : Reg) (imm : BitVec 12) (s : State) : Out := s.putX rd (s.getX rs1 ^^^ sext12 imm)
/-- ORI (13 Table 13.1). -/
def execOri (rd rs1 : Reg) (imm : BitVec 12) (s : State) : Out := s.putX rd (s.getX rs1 ||| sext12 imm)
/-- ANDI (13 Table 13.1). -/
def execAndi (rd rs1 : Reg) (imm : BitVec 12) (s : State) : Out := s.putX rd (s.getX rs1 &&& sext12 imm)
/-- ADDIW (13 Table 13.1). -/
def execAddiw (rd rs1 : Reg) (imm : BitVec 12) (s : State) : Out := s.putX rd (sextW (lowW (s.getX rs1 + sext12 imm)))
/-- SLLI (13 Table 13.1). -/
def execSlli (rd rs1 : Reg) (sh : BitVec 6) (s : State) : Out := s.putX rd (s.getX rs1 <<< sh.toNat)
/-- SRLI (13 Table 13.1). -/
def execSrli (rd rs1 : Reg) (sh : BitVec 6) (s : State) : Out := s.putX rd (s.getX rs1 >>> sh.toNat)
/-- SRAI (13 Table 13.1). -/
def execSrai (rd rs1 : Reg) (sh : BitVec 6) (s : State) : Out := s.putX rd ((s.getX rs1).sshiftRight sh.toNat)
/-- SLLIW (13 Table 13.1). -/
def execSlliw (rd rs1 : Reg) (sh : BitVec 5) (s : State) : Out := s.putX rd (sextW (lowW (s.getX rs1) <<< sh.toNat))
/-- SRLIW (13 Table 13.1). -/
def execSrliw (rd rs1 : Reg) (sh : BitVec 5) (s : State) : Out := s.putX rd (sextW (lowW (s.getX rs1) >>> sh.toNat))
/-- SRAIW (13 Table 13.1). -/
def execSraiw (rd rs1 : Reg) (sh : BitVec 5) (s : State) : Out := s.putX rd (sextW ((lowW (s.getX rs1)).sshiftRight sh.toNat))
/-- ADD (13 Table 13.1). -/
def execAdd (rd rs1 rs2 : Reg) (s : State) : Out := s.putX rd (s.getX rs1 + s.getX rs2)
/-- SUB (13 Table 13.1). -/
def execSub (rd rs1 rs2 : Reg) (s : State) : Out := s.putX rd (s.getX rs1 - s.getX rs2)
/-- SLL (13 Table 13.1). -/
def execSll (rd rs1 rs2 : Reg) (s : State) : Out := s.putX rd (s.getX rs1 <<< ((s.getX rs2).toNat % 64))
/-- SLT (13 Table 13.1). -/
def execSlt (rd rs1 rs2 : Reg) (s : State) : Out := s.putX rd (flag ((s.getX rs1).slt (s.getX rs2)))
/-- SLTU (13 Table 13.1). -/
def execSltu (rd rs1 rs2 : Reg) (s : State) : Out := s.putX rd (flag ((s.getX rs1).ult (s.getX rs2)))
/-- XOR (13 Table 13.1). -/
def execXorr (rd rs1 rs2 : Reg) (s : State) : Out := s.putX rd (s.getX rs1 ^^^ s.getX rs2)
/-- SRL (13 Table 13.1). -/
def execSrl (rd rs1 rs2 : Reg) (s : State) : Out := s.putX rd (s.getX rs1 >>> ((s.getX rs2).toNat % 64))
/-- SRA (13 Table 13.1). -/
def execSra (rd rs1 rs2 : Reg) (s : State) : Out := s.putX rd ((s.getX rs1).sshiftRight ((s.getX rs2).toNat % 64))
/-- OR (13 Table 13.1). -/
def execOrr (rd rs1 rs2 : Reg) (s : State) : Out := s.putX rd (s.getX rs1 ||| s.getX rs2)
/-- AND (13 Table 13.1). -/
def execAndd (rd rs1 rs2 : Reg) (s : State) : Out := s.putX rd (s.getX rs1 &&& s.getX rs2)
/-- MUL (13 Table 13.1). -/
def execMul (rd rs1 rs2 : Reg) (s : State) : Out := s.putX rd (s.getX rs1 * s.getX rs2)
/-- MULH (13 Table 13.1). -/
def execMulh (rd rs1 rs2 : Reg) (s : State) : Out := s.putX rd (highProduct (s.getX rs1).toInt (s.getX rs2).toInt)
/-- MULHSU (13 Table 13.1). -/
def execMulhsu (rd rs1 rs2 : Reg) (s : State) : Out := s.putX rd (highProduct (s.getX rs1).toInt (s.getX rs2).toNat)
/-- MULHU (13 Table 13.1). -/
def execMulhu (rd rs1 rs2 : Reg) (s : State) : Out := s.putX rd (highProduct (s.getX rs1).toNat (s.getX rs2).toNat)
/-- DIV (13 Table 13.1). -/
def execDiv (rd rs1 rs2 : Reg) (s : State) : Out := s.putX rd (divS (s.getX rs1) (s.getX rs2))
/-- DIVU (13 Table 13.1). -/
def execDivu (rd rs1 rs2 : Reg) (s : State) : Out := s.putX rd (divU (s.getX rs1) (s.getX rs2))
/-- REM (13 Table 13.1). -/
def execRem (rd rs1 rs2 : Reg) (s : State) : Out := s.putX rd (remS (s.getX rs1) (s.getX rs2))
/-- REMU (13 Table 13.1). -/
def execRemu (rd rs1 rs2 : Reg) (s : State) : Out := s.putX rd (remU (s.getX rs1) (s.getX rs2))
/-- ADDW (13 Table 13.1). -/
def execAddw (rd rs1 rs2 : Reg) (s : State) : Out := s.putX rd (sextW (lowW (s.getX rs1) + lowW (s.getX rs2)))
/-- SUBW (13 Table 13.1). -/
def execSubw (rd rs1 rs2 : Reg) (s : State) : Out := s.putX rd (sextW (lowW (s.getX rs1) - lowW (s.getX rs2)))
/-- SLLW (13 Table 13.1). -/
def execSllw (rd rs1 rs2 : Reg) (s : State) : Out := s.putX rd (sextW (lowW (s.getX rs1) <<< ((s.getX rs2).toNat % 32)))
/-- SRLW (13 Table 13.1). -/
def execSrlw (rd rs1 rs2 : Reg) (s : State) : Out := s.putX rd (sextW (lowW (s.getX rs1) >>> ((s.getX rs2).toNat % 32)))
/-- SRAW (13 Table 13.1). -/
def execSraw (rd rs1 rs2 : Reg) (s : State) : Out := s.putX rd (sextW ((lowW (s.getX rs1)).sshiftRight ((s.getX rs2).toNat % 32)))
/-- MULW (13 Table 13.1). -/
def execMulw (rd rs1 rs2 : Reg) (s : State) : Out := s.putX rd (sextW (lowW (s.getX rs1) * lowW (s.getX rs2)))
/-- DIVW (13 Table 13.1). -/
def execDivw (rd rs1 rs2 : Reg) (s : State) : Out := s.putX rd (sextW (divS (lowW (s.getX rs1)) (lowW (s.getX rs2))))
/-- DIVUW (13 Table 13.1). -/
def execDivuw (rd rs1 rs2 : Reg) (s : State) : Out := s.putX rd (sextW (divU (lowW (s.getX rs1)) (lowW (s.getX rs2))))
/-- REMW (13 Table 13.1). -/
def execRemw (rd rs1 rs2 : Reg) (s : State) : Out := s.putX rd (sextW (remS (lowW (s.getX rs1)) (lowW (s.getX rs2))))
/-- REMUW (13 Table 13.1). -/
def execRemuw (rd rs1 rs2 : Reg) (s : State) : Out := s.putX rd (sextW (remU (lowW (s.getX rs1)) (lowW (s.getX rs2))))

end Sys2Proof.Machine
end

