-- ==== Sys2Proof/Machine/ScalarMem.lean ====
section
/-!
DEFINITION. Scalar loads, stores and RV64A (13 R342 to R344), with the waits of a release annotation (08 Table 8.7).
-/
namespace Sys2Proof.Machine

/-- dtime has reached the V of every class L write of the current hart. -/
def seenAll (s : State) : Bool := s.hart.stripDue.isEmpty ∧ s.hart.maxV ≤ s.pkg.dtime.toNat ∧ ¬ s.unseen s.hart.gang s.hart.rank s.hart.postSeq

/-- The waits of Table 8.7 from core to device scope: the hart's earlier transfers are complete, and dtime has reached the
greatest V of its local L writes. -/
def fenceReady (s : State) : Bool :=
  ¬ (s.hart.xfers.any fun x => x.state = .running) ∧ seenAll s

/-- The hart's core writes home the bytes of its privatised copies (08 R201). -/
def State.writeHome (s : State) : State :=
  let one (l : DirLine) : DirLine :=
    if l.state = .P then { l with copies := l.copies.map (fun k => if k.core = s.hart.core then { k with written := 0 } else k) } else l
  { s with dir := s.dir.map (fun p => (p.1, one p.2)) }

/-- A release of device scope or narrower waits, then goes on (08 R227, R201). It has no limit, unlike a system-scope one (08 R228). -/
def released (s : State) (k : State → Res Unit) : Res Unit :=
  if fenceReady s then k s.writeHome else .need (.wait (.fence 4 0 false s.pkg.dtime))

/-- The effective address of a scalar load or store (13 Table 13.1). -/
def effAddr (s : State) (rs1 : Reg) (imm : BitVec 12) : Word := s.getX rs1 + sext12 imm

/-- A scalar load of `n` bytes (13 R342, R343): `ext` makes the register's value from the number read. -/
def scalarLoad (rd rs1 : Reg) (imm : BitVec 12) (n : Nat) (ext : Nat → Word) (s : State) : Out :=
  let a := effAddr s rs1 imm
  (if a.toNat % n ≠ 0 then .trap 0x0A a
   else (hartLoadBy true s a n).bind fun b s => .ok () (s.setX rd (ext (leNat b))).retire).finish s

/-- A scalar store of `n` bytes (13 R342, R343). -/
def scalarStore (rs1 rs2 : Reg) (imm : BitVec 12) (n : Nat) (s : State) : Out :=
  let a := effAddr s rs1 imm
  (if a.toNat % n ≠ 0 then .trap 0x0A a
   else (hartStoreV true s a (leBytes n (s.getX rs2).toNat)).bind fun _ s => .ok () s.retire).finish s

/-- LB (13 Table 13.1). -/
def execLb (rd rs1 : Reg) (imm : BitVec 12) (s : State) : Out := scalarLoad rd rs1 imm 1 (fun v => (BitVec.ofNat 8 v).signExtend 64) s
/-- LH (13 Table 13.1). -/
def execLh (rd rs1 : Reg) (imm : BitVec 12) (s : State) : Out := scalarLoad rd rs1 imm 2 (fun v => (BitVec.ofNat 16 v).signExtend 64) s
/-- LW (13 Table 13.1). -/
def execLw (rd rs1 : Reg) (imm : BitVec 12) (s : State) : Out := scalarLoad rd rs1 imm 4 (fun v => (BitVec.ofNat 32 v).signExtend 64) s
/-- LD (13 Table 13.1). -/
def execLd (rd rs1 : Reg) (imm : BitVec 12) (s : State) : Out := scalarLoad rd rs1 imm 8 (BitVec.ofNat 64) s
/-- LBU (13 Table 13.1). -/
def execLbu (rd rs1 : Reg) (imm : BitVec 12) (s : State) : Out := scalarLoad rd rs1 imm 1 (BitVec.ofNat 64) s
/-- LHU (13 Table 13.1). -/
def execLhu (rd rs1 : Reg) (imm : BitVec 12) (s : State) : Out := scalarLoad rd rs1 imm 2 (BitVec.ofNat 64) s
/-- LWU (13 Table 13.1). -/
def execLwu (rd rs1 : Reg) (imm : BitVec 12) (s : State) : Out := scalarLoad rd rs1 imm 4 (BitVec.ofNat 64) s
/-- SB (13 Table 13.1). -/
def execSb (rs1 rs2 : Reg) (imm : BitVec 12) (s : State) : Out := scalarStore rs1 rs2 imm 1 s
/-- SH (13 Table 13.1). -/
def execSh (rs1 rs2 : Reg) (imm : BitVec 12) (s : State) : Out := scalarStore rs1 rs2 imm 2 s
/-- SW (13 Table 13.1). -/
def execSw (rs1 rs2 : Reg) (imm : BitVec 12) (s : State) : Out := scalarStore rs1 rs2 imm 4 s
/-- SD (13 Table 13.1). -/
def execSd (rs1 rs2 : Reg) (imm : BitVec 12) (s : State) : Out := scalarStore rs1 rs2 imm 8 s

/-! ### RV64A (13 R344) -/

/-- Bytes of an RV64A form. -/
def amoBytes (a : AmoBits) : Nat := if a.dbl then 8 else 4

/-- The value of an RV64A form in rd: word forms sign-extend (13 R344). -/
def amoExt (a : AmoBits) (v : Nat) : Word := if a.dbl then BitVec.ofNat 64 v else (BitVec.ofNat 32 v).signExtend 64

/-- The integer operations of a scatter-add unit on `bits`-wide words, by the function codes of 08 R211: add, and, or, xor,
min, max, minu, maxu, swap. -/
def intRmw (code bits old b : Nat) : Nat :=
  let b := b % 2 ^ bits
  match code with
  | 0 => (old + b) % 2 ^ bits
  | 1 => old &&& b
  | 2 => old ||| b
  | 3 => old ^^^ b
  | 4 => if sextN bits b < sextN bits old then b else old
  | 5 => if sextN bits old < sextN bits b then b else old
  | 6 => if b < old then b else old
  | 7 => if old < b then b else old
  | _ => b

/-- A scalar AMO (13 R344): `code` is its function code. -/
def scalarAmo (code : Nat) (rd rs1 rs2 : Reg) (a : AmoBits) (s : State) : Out :=
  let va := s.getX rs1
  let v := s.getX rs2
  let op : Rmw := { code := code, dbl := a.dbl, a := v, b := 0
                    act := fun old => (some (intRmw code (8 * amoBytes a) old v.toNat), old) }
  (if va.toNat % amoBytes a ≠ 0 then .trap 0x0A va
   else
    let go (s : State) : Res Unit := (hartRmw s va op).bind fun old s => .ok () (s.setX rd (amoExt a old)).retire
    if a.rl then released s go else go s).finish s

/-- AMOADD (13 R344). -/
def execAmoadd (rd rs1 rs2 : Reg) (a : AmoBits) (s : State) : Out := scalarAmo 0 rd rs1 rs2 a s
/-- AMOAND (13 R344). -/
def execAmoand (rd rs1 rs2 : Reg) (a : AmoBits) (s : State) : Out := scalarAmo 1 rd rs1 rs2 a s
/-- AMOOR (13 R344). -/
def execAmoor (rd rs1 rs2 : Reg) (a : AmoBits) (s : State) : Out := scalarAmo 2 rd rs1 rs2 a s
/-- AMOXOR (13 R344). -/
def execAmoxor (rd rs1 rs2 : Reg) (a : AmoBits) (s : State) : Out := scalarAmo 3 rd rs1 rs2 a s
/-- AMOMIN (13 R344). -/
def execAmomin (rd rs1 rs2 : Reg) (a : AmoBits) (s : State) : Out := scalarAmo 4 rd rs1 rs2 a s
/-- AMOMAX (13 R344). -/
def execAmomax (rd rs1 rs2 : Reg) (a : AmoBits) (s : State) : Out := scalarAmo 5 rd rs1 rs2 a s
/-- AMOMINU (13 R344). -/
def execAmominu (rd rs1 rs2 : Reg) (a : AmoBits) (s : State) : Out := scalarAmo 6 rd rs1 rs2 a s
/-- AMOMAXU (13 R344). -/
def execAmomaxu (rd rs1 rs2 : Reg) (a : AmoBits) (s : State) : Out := scalarAmo 7 rd rs1 rs2 a s
/-- AMOSWAP (13 R344). -/
def execAmoswap (rd rs1 rs2 : Reg) (a : AmoBits) (s : State) : Out := scalarAmo 8 rd rs1 rs2 a s

/-- The link identity of the current hart (08 R211). -/
def linkId (s : State) (scalar : Bool) (gen : BitVec 16) : Word :=
  BitVec.ofNat 64 (s.hart.ctx.toNat <<< 40 + s.hart.gang.toNat <<< 24 + s.hart.rank.toNat <<< 18 + scalar.toNat <<< 16 + gen.toNat)

/-- A link of the current hart to a local line. -/
def linkEntry (s : State) (scalar : Bool) (gen : BitVec 16) (line : Nat) (da : Bool) : LinkEntry :=
  { dev := s.fab.devid, ctx := s.hart.ctx, gang := s.hart.gang, rank := s.hart.rank, scalar := scalar, gen := gen
    line := line, intact := true, da := da }

/-- Links in the table of the slice where one's line homes. -/
def sliceLinks (s : State) (e : LinkEntry) : List LinkEntry :=
  s.linkTable.filter (fun f => homeOf (f.line * 128) f.da = homeOf (e.line * 128) e.da)

/-- A new entry of a link table; a full slice's table loses its oldest (09 R245). -/
def State.addLink (s : State) (e : LinkEntry) : State :=
  let t := if 256 ≤ (sliceLinks s e).length then s.linkTable.erase ((sliceLinks s e).head?.getD e) else s.linkTable
  { s with linkTable := t ++ [e] }

/-- The hart's scalar link is gone (13 R344). -/
def State.dropScalarLink (s : State) : State :=
  let e := linkEntry s true 0 0 false
  { s with linkTable := s.linkTable.filter (fun f => ¬ f.same e), hart := { s.hart with link := none } }

/-- A place that LR and SC reach: local or peer memory (13 R344). -/
def linkable (p : Place) : Bool :=
  match p with
  | .phys _ _ _ => true
  | .peer _ _ _ => true
  | _ => false

/-- The line a place lies on, for the hart's own record of its link. -/
def Place.line (p : Place) : Nat :=
  match p with
  | .phys pa _ _ => pa / 128
  | .peer dev pa _ => (dev.toNat + 1) * 2 ^ 52 + pa / 128
  | _ => 0

/-- LR at its address (13 R344): reads the value and sets the hart's link; on a class L line the home enters it in its table. -/
def lrAt (rd : Reg) (va : Word) (a : AmoBits) (s : State) : Res Unit :=
  let (f, s) := resolve s s.hart.who va .load
  match f with
  | .error c => .trap c va
  | .ok p =>
    if linkable p then
      watched s va.toNat (amoBytes a) true false
        (if transfersMet s va.toNat (amoBytes a) false ≠ [] then .need (.wait .transfer)
         else
          (rmwPlace s va p { code := 14, dbl := a.dbl, a := 0, b := linkId s true 0, act := fun old => (none, old) }).bind
            fun old s =>
              let s := match p with
                | .phys pa cls da => if cls = 1 then s else s.dropScalarLink.addLink (linkEntry s true 0 (pa / 128) da)
                | _ => s.dropScalarLink
              .ok () ((s.withHart (fun h => { h with link := some p.line })).setX rd (amoExt a old)).retire)
    else .trap 0x08 va

/-- LR (13 R344). -/
def execLr (rd rs1 : Reg) (a : AmoBits) (s : State) : Out :=
  let va := s.getX rs1
  (if va.toNat % amoBytes a ≠ 0 then .trap 0x0A va
   else if a.rl then released s (lrAt rd va a) else lrAt rd va a s).finish s

/-- The link set by the hart's last LR is intact and names the line (13 R344). -/
def linkIntact (s : State) (p : Place) : Bool :=
  s.hart.link == some p.line
    && (match p with
        | .phys pa _ _ => s.linkTable.any (fun e => e.same (linkEntry s true 0 0 false) ∧ e.line = pa / 128 ∧ e.intact)
        | _ => true)

/-- The home of a place has answered the instruction's conditional write. -/
def homeAnswered (s : State) (p : Place) : Bool :=
  !s.hart.replies.isEmpty
    && (match p with
        | .phys _ cls _ => cls == 1
        | _ => true)

/-- SC at its address (13 R344). -/
def scAt (rd rs2 : Reg) (va : Word) (a : AmoBits) (s : State) : Res Unit :=
  let v := s.getX rs2
  let (f, s) := resolve s s.hart.who va .store
  match f with
  | .error c => .trap c va
  | .ok p =>
    if linkable p then
      watched s va.toNat (amoBytes a) false true
        (if transfersMet s va.toNat (amoBytes a) true ≠ [] then .need (.wait .transfer)
         else
          let done (ret : Nat) (s : State) : Res Unit := .ok () ((s.dropScalarLink).setX rd (if ret = 0 then 0 else 1)).retire
          if ¬ linkIntact s p ∧ ¬ homeAnswered s p then done 1 s
          else
            let act (_ : Nat) : Option Nat × Nat := (some (v.toNat % 2 ^ (8 * amoBytes a)), 0)
            (rmwPlace s va p { code := 15, dbl := a.dbl, a := v, b := linkId s true 0, act := act }).bind done)
    else .trap 0x09 va

/-- SC (13 R344). -/
def execSc (rd rs1 rs2 : Reg) (a : AmoBits) (s : State) : Out :=
  let va := s.getX rs1
  (if va.toNat % amoBytes a ≠ 0 then .trap 0x0A va
   else if a.rl then released s (scAt rd rs2 va a) else scAt rd rs2 va a s).finish s

end Sys2Proof.Machine
end

