-- ==== Sys2Proof/Machine/Banks.lean ====
section
/-!
DEFINITION. Bank commands (07 R174 to R178): the ops of Table 7.3 for a supervisor hart and for the host's mirror of a
cluster, one at a time per cluster.
-/
namespace Sys2Proof.Machine

/-- The modes' codes (07 Table 7.1). -/
def BankMode.code : BankMode → Nat
  | .C => 0
  | .S => 1
  | .F => 2
  | .X => 3

/-- Fields of `bkcmd` (07 Table 7.2). -/
def bkOp (v : Word) : Nat := wfield v 28 4
/-- The gang field. -/
def bkGang (v : Word) : BitVec 16 := field v 32 16
/-- The stream field. -/
def bkStream (v : Word) : BitVec 3 := field v 25 3
/-- The bank field. -/
def bkBank (v : Word) : Nat := wfield v 0 8

/-- `bkcmd` as read: the written fields with busy and result (07 Table 7.2). -/
def bkReg (v : Word) (busy : Bool) (result : Nat) : Word :=
  BitVec.ofNat 64 (wfield v 0 48 + result <<< 48 + busy.toNat <<< 63)

/-- The cluster index that a command names: a cluster index 0 to 191, or gang bank index k of a gang (07 Table 7.2). -/
def bkTarget (s : State) (cl : BitVec 5) (v : Word) : Option Nat :=
  if bkGang v = 0xFFFF then (if bkBank v < 192 then some (bkBank v) else none)
  else if 64 ≤ bkBank v then none
  else
    match tget s.gangs (bkGang v).toNat with
    | some g => if g.cluster = cl ∧ ¬ g.saved then g.banks[bkBank v]? else none
    | none => none

/-- Banks a context holds, for its quota (07 R172). -/
def banksHeld (s : State) (c : BitVec 8) : Nat :=
  (s.banks.filter (fun p => match p.2.holder with
    | .ctx d => d = c
    | .gang d _ => d = c
    | .none => false)).length

/-- Whether the issuer may name the gang: it belongs to the hart's context and is resident on the cluster (07 R175). -/
def bkGangOk (s : State) (cl : BitVec 5) (c : BitVec 8) (g : BitVec 16) : Bool :=
  g = 0xFFFF ∨ ((tget s.gangs g.toNat).any fun x => x.ctx = c ∧ x.cluster = cl ∧ ¬ x.saved)

/-- The holder is the context, or, when the command names a gang, that gang. -/
def bkHolds (b : Bank) (c : BitVec 8) (g : BitVec 16) : Bool :=
  if g = 0xFFFF then b.holder = .ctx c else b.holder = .gang c g

/-- `bkstat` and `bkfifo` of a bank; a supervisor sees mode and holder only of a bank another context holds (07 R176). -/
def bkRead (b : Bank) (host : Bool) (c : BitVec 8) : Word × Word :=
  let code := match b.mode, b.holder with
    | .X, _ => 3
    | _, .none => 0
    | _, .ctx _ => 1
    | _, .gang _ _ => 2
  let hc : BitVec 8 := match b.holder with
    | .ctx d => d
    | .gang d _ => d
    | .none => 0
  let hg : BitVec 16 := match b.holder with
    | .gang _ g => g
    | _ => 0
  let base := b.mode.code <<< 62 + code <<< 60
  if ¬ host ∧ b.holder ≠ .none ∧ hc ≠ c then (BitVec.ofNat 64 base, 0)
  else
    (BitVec.ofNat 64 (base + hc.toNat <<< 52 + hg.toNat <<< 36 + b.keep.toNat <<< 35 + b.stream.toNat <<< 32
      + min b.writers.length 255),
     if b.mode = .F then BitVec.ofNat 64 (b.head <<< 32 + b.tail <<< 16 + b.arr) else 0)

/-- A bank of the pool that was freed while a head waits in its cluster, for which it is held (05 R133). -/
def heldForHead (s : State) (cl : BitVec 5) (k : Nat) : Bool := (s.cluster cl).reserved.any (fun r => !r.pool.contains k)

/-- What a bank command answers: a result code, and the bank it leaves when the result is 0, or that a READ describes. A READ of an X bank
fails as R178 says, and its registers say what Table 7.4 says of such a bank (DEDUCED, log 52). -/
def bkAct (s : State) (cl : BitVec 5) (host : Bool) (c : BitVec 8) (v : Word) : Nat × Option (Nat × Bank) :=
  let op := bkOp v
  let g := bkGang v
  if wfield v 8 17 ≠ 0 ∨ op = 0 ∨ 8 ≤ op ∨ (if g = 0xFFFF then 192 ≤ bkBank v else 64 ≤ bkBank v) then (6, none)
  else if (host ∧ 3 ≤ op ∧ op ≤ 6) ∨ (¬ host ∧ op ≤ 2) ∨ (¬ host ∧ ¬ bkGangOk s cl c g) then (1, none)
  else
    match bkTarget s cl v with
    | none => (6, none)
    | some k =>
      let i := 192 * cl.toNat + k
      let b := s.bank i
      match op with
      | 1 =>
        if b.mode ≠ .S then (4, none) else if b.holder ≠ .none ∨ heldForHead s cl k then (2, none)
        else (0, some (i, { Bank.reset i with mode := .C }))
      | 2 => if b.mode ≠ .C then (4, none) else (0, some (i, { Bank.reset i with mode := .S }))
      | 3 =>
        if b.mode ≠ .S then (4, none)
        else if b.holder ≠ .none ∨ heldForHead s cl k then (2, none)
        else if wfield (s.ctx c).quota 0 9 ≤ banksHeld s c then (3, none)
        else (0, some (i, { b with holder := .ctx c }))
      | 4 =>
        if b.mode = .X then (4, none)
        else if b.holder ≠ .ctx c then (1, none)
        else if b.writers ≠ [] then (2, none)
        else (0, some (i, { Bank.reset i with mode := .S }))
      | 5 =>
        if b.mode ≠ .S then (4, none)
        else if ¬ bkHolds b c g then (1, none)
        else if b.writers ≠ [] then (2, none)
        else if g = 0xFFFF ∧ bkStream v ≠ 0 then (6, none)
        else if g ≠ 0xFFFF ∧ (s.banks.any fun p => p.2.mode = .F ∧ p.2.holder = .gang c g ∧ p.2.stream = bkStream v) then (5, none)
        else (0, some (i, { b with mode := .F, stream := bkStream v, head := 0, tail := 0, arr := 0 }))
      | 6 =>
        if b.mode ≠ .F then (4, none)
        else if ¬ bkHolds b c g then (1, none)
        else if b.writers ≠ [] then (2, none)
        else (0, some (i, { b with mode := .S, stream := 0, head := 0, tail := 0, arr := 0 }))
      | _ => (if b.mode = .X then 4 else 0, some (i, b))

/-- Put the answer of a command into its issuer's registers. -/
def State.bkAnswer (s : State) (b : BankCmd) (result : Nat) (stat : Option (Word × Word)) : State :=
  if b.host then
    s.modCluster b.cl (fun c => { c with hbkcmd := bkReg b.val false result
                                         hbkstat := (stat.map Prod.fst).getD c.hbkstat
                                         hbkfifo := (stat.map Prod.snd).getD c.hbkfifo })
  else
    s.modHart b.ref (fun h => { h with bkcmd := bkReg b.val false result, bkstat := (stat.map Prod.fst).getD h.bkstat
                                       bkfifo := (stat.map Prod.snd).getD h.bkfifo })

/-- What a reservation leaves to the residents, after a command has changed a bank (05 R133): a held bank is no longer theirs, and one that
a TOS puts into the pool is. -/
def Reservation.after (r : Reservation) (op k : Nat) : Reservation :=
  if op = 2 then { r with pool := r.pool ++ [k] } else if op = 1 ∨ op = 3 then { r with pool := r.pool.erase k } else r

/-- A bank of the package changes as a command says; its core's lines leave a bank that leaves mode C (07 R177). -/
def State.bkPut (s : State) (cl : BitVec 5) (op i : Nat) (k : Bank) : State :=
  let s := s.modCluster cl (fun c => { c with reserved := c.reserved.map (fun r => r.after op (i % 192)) })
  if op = 2 then (s.setBank i k).leaveC (BitVec.ofNat 8 (i / 24)) else s.setBank i k

/-- Run one bank command, or other work of its queue, to its end (07 R177). -/
def State.bkRun (s : State) (b : BankCmd) : State :=
  match b.work with
  | .release banks => s.releaseBanks b.cl banks
  | .settle core => s.settleNow core
  | .command =>
    let c := ((s.findHart b.ref).map (fun h => h.ctx)).getD 0
    let (r, e) := bkAct s b.cl b.host c b.val
    match e with
    | none => s.bkAnswer b r none
    | some (i, k) =>
      if bkOp b.val = 7 then s.bkAnswer b r (some (bkRead k b.host c)) else (s.bkPut b.cl (bkOp b.val) i k).bkAnswer b r none

/-- A TOS that passes its checks takes time (07 R177): it waits in the cluster as the command in progress. -/
def bkSlow (s : State) (b : BankCmd) : Bool :=
  b.work = .command ∧ bkOp b.val = 2 ∧ b.host ∧ (bkAct s b.cl true 0 b.val).2.isSome

/-- Run the queued commands of a cluster in order, up to a TOS. -/
def State.bkDrain (s : State) : List BankCmd → State
  | [] => s
  | b :: bs =>
    if bkSlow s b then s.modCluster b.cl (fun c => { c with bankCmd := b :: bs })
    else ((s.bkRun b).modCluster b.cl (fun c => { c with bankCmd := bs })).bkDrain bs

/-- A write to `bkcmd` (07 R174): ignored while busy; else the command takes its turn in its cluster. -/
def State.bkSubmit (s : State) (b : BankCmd) : State :=
  let busy := if b.host then wbit (s.cluster b.cl).hbkcmd 63 else ((s.findHart b.ref).map (fun h => wbit h.bkcmd 63)).getD true
  if busy then s
  else
    let s := if b.host then s.modCluster b.cl (fun c => { c with hbkcmd := bkReg b.val true 0 })
      else s.modHart b.ref (fun h => { h with bkcmd := bkReg b.val true 0 })
    match (s.cluster b.cl).bankCmd with
    | [] => s.bkDrain [b]
    | q => s.modCluster b.cl (fun c => { c with bankCmd := q ++ [b] })

/-- The issuer of a command row, as a queued command. -/
def bkCmd (s : State) (i : BankIssuer) (v : Word) : BankCmd :=
  match i with
  | .host cl => { host := true, cl := cl, ref := { core := 0, slot := 0 }, val := v }
  | .hart => { host := false, cl := clusterOf s.hart.core, ref := s.hart.ref, val := v }

/-- A row of one op: the value's op field is that op. -/
def bkRow (op : Nat) (i : BankIssuer) (v : Word) (s : State) : Out := .next (s.bkSubmit (bkCmd s i (wsetField v 28 4 op)))

/-- BKCMD_TOC (07 Table 7.3): an S pool bank becomes C, empty. -/
def execBkcmdToc (i : BankIssuer) (v : Word) (s : State) : Out := bkRow 1 i v s
/-- BKCMD_TOS (07 Table 7.3, R177): a C bank becomes an S pool bank after its write-back. -/
def execBkcmdTos (i : BankIssuer) (v : Word) (s : State) : Out := bkRow 2 i v s
/-- BKCMD_HOLD (07 Table 7.3). -/
def execBkcmdHold (i : BankIssuer) (v : Word) (s : State) : Out := bkRow 3 i v s
/-- BKCMD_RELEASE (07 Table 7.3). -/
def execBkcmdRelease (i : BankIssuer) (v : Word) (s : State) : Out := bkRow 4 i v s
/-- BKCMD_SETF (07 Table 7.3). -/
def execBkcmdSetf (i : BankIssuer) (v : Word) (s : State) : Out := bkRow 5 i v s
/-- BKCMD_SETS (07 Table 7.3). -/
def execBkcmdSets (i : BankIssuer) (v : Word) (s : State) : Out := bkRow 6 i v s
/-- BKCMD_READ (07 Table 7.3). -/
def execBkcmdRead (i : BankIssuer) (v : Word) (s : State) : Out := bkRow 7 i v s

/-- TOS_COMPLETE (07 R177): the write-back of the cluster's TOS has ended; the bank joins the pool and the next commands
take their turn. -/
def execTosComplete (cl : BitVec 5) (s : State) : Out :=
  match (s.cluster cl).bankCmd with
  | [] => .next s
  | b :: bs => .next (((s.bkRun b).modCluster cl (fun c => { c with bankCmd := bs })).bkDrain bs)

end Sys2Proof.Machine
end

