-- ==== Sys2Proof/Machine/Csr.lean ====
section
/-!
DEFINITION. Control and status registers (13 R347 to R350, Table 13.2): what a read returns, what a write stores, which
accesses trap or wait, and the six Zicsr instructions.
-/
namespace Sys2Proof.Machine

/-- `dcfg0` to `dcfg7` of the T960 (03 Table 3.2a). -/
def dcfg : Nat → Word
  | 0 => 0x0100096004080810
  | 1 => 0x0020010008180018
  | 2 => 0x0004004001001000
  | 3 => 0x0030006000180040
  | 4 => 0x0008000000080010
  | 5 => 0x0000076C3B9ACA00
  | 6 => 0x0001000001000040
  | 7 => 0x0000400000200020
  | _ => 0

/-- Interrupts owed to the hart: ended transfers with irq = 1 whose entry is not freed (10 Table 10.3, 09 R231). -/
def Hart.owed (h : Hart) : List Xfer := h.xfers.filter (fun x => x.irq ∧ x.state ≠ .running)

/-- `cvidx` as read (06 Table 6.5). -/
def Hart.cvidx (h : Hart) : Word := BitVec.ofNat 64 (h.cvRestart.toNat <<< 16 + h.cvDone.toNat <<< 8 + h.cvMember.toNat)

/-- `tfmt` as read (16 Table 16.1). -/
def Hart.tfmt (h : Hart) : Word :=
  BitVec.ofNat 64 (h.tfKind.toNat <<< 13 + h.tfSat.toNat <<< 12 + h.tfTile.toNat <<< 10 + h.tfB.toNat <<< 5 + h.tfA.toNat)

/-- `srctl` as read (10 Table 10.13). -/
def Hart.srctl (h : Hart) : Word := BitVec.ofNat 64 (h.srFlt.toNat <<< 8 + h.srK.toNat <<< 1 + h.srEn.toNat)

/-- `sstatus` as read (10 Table 10.2). -/
def Hart.sstatus (h : Hart) : Word := BitVec.ofNat 64 (h.wpsk.toNat <<< 3 + h.tact.toNat <<< 1 + h.spp.toNat)

/-- The value a read of dtime returns to a hart: device time, never below its last read (13 R349). -/
def readTime (s : State) : Word := if s.pkg.dtime.toNat < s.hart.dtimeLast.toNat then s.hart.dtimeLast else s.pkg.dtime

/-- A programmable counter of the hart's core. -/
def pmOf (s : State) (i : Nat) : PmCounter :=
  tgetD (s.core s.hart.core).pm i { en := false, ctx := 0, u := false, s := false, event := 0, count := 0, shadow := 0 }

/-- The counter belongs to another context (10 R275). -/
def pmForeign (s : State) (i : Nat) : Bool := (pmOf s i).en ∧ (pmOf s i).ctx ≠ s.hart.ctx

/-- `pmsel` as read (10 Table 10.10). -/
def pmSel (p : PmCounter) : Word :=
  BitVec.ofNat 64 (p.en.toNat <<< 63 + p.ctx.toNat <<< 55 + p.u.toNat <<< 11 + p.s.toNat <<< 10 + p.event.toNat)

/-- What a read of a CSR returns (13 Table 13.2); none for a number the table does not give. -/
def csrRead (s : State) (n : Nat) : Option Word :=
  let h := s.hart
  match n with
  | 0x800 => some h.vstart
  | 0x801 => some (h.vkeep.setWidth 64)
  | 0x802 => some (h.vdirty.setWidth 64)
  | 0x803 => some ((field h.vdirty 40 4).setWidth 64)
  | 0x804 => some (h.vxrm.setWidth 64)
  | 0x805 => some (h.vfrm.setWidth 64)
  | 0x806 => some (flag h.vxsat)
  | 0x807 => some (h.vfflags.setWidth 64)
  | 0x808 => some ((h.vcarryFmt ++ h.vcarryRes).setWidth 64)
  | 0x809 => some (h.atag.setWidth 64)
  | 0x80A => some (flag h.sdisc)
  | 0x810 => some (BitVec.ofNat 64 (2 * h.uiePie.toNat + h.uieIe.toNat))
  | 0x811 => some (h.uepc.setWidth 64)
  | 0x812 => some (h.ucause.setWidth 64)
  | 0x813 => some (h.xtid.setWidth 64)
  | 0x814 => some (h.xhandler.setWidth 64)
  | 0x815 => some h.xstat
  | 0x818 => some (BitVec.ofNat 64 (h.srbase.toNat <<< 12))
  | 0x819 => some h.srhead
  | 0x81A => some h.srctl
  | 0x820 => some (h.asampN.setWidth 64)
  | 0x821 => some h.aseed
  | 0x822 => some (BitVec.ofNat 64 (h.ahist.toNat <<< 12))
  | 0x823 => some ((h.athrBin ++ h.athrCount).setWidth 64)
  | 0x824 => some (BitVec.ofNat 64 ((s.ctx h.ctx).adis.toNat <<< 63 + h.actlHandler.toNat))
  | 0xC00 => some (BitVec.ofNat 64 s.cycles)
  | 0xC01 => some (readTime s)
  | 0xC02 => some h.instret
  | 0xC03 => some s.pkg.pmLast
  | 0xC20 => some (h.vl.setWidth 64)
  | 0xC21 => some (h.vrows.setWidth 64)
  | 0xC22 => some (h.vcols.setWidth 64)
  | 0xC23 => some ((h.vtEew ++ h.vtGrp).setWidth 64)
  | 0xC24 => some (h.vlb.setWidth 64)
  | 0xC28 => some (h.tsm.setWidth 64)
  | 0xC29 => some (h.tsn.setWidth 64)
  | 0xC2A => some (h.tsk.setWidth 64)
  | 0xC2B => some h.tfmt
  | 0xC30 => some (h.gang.setWidth 64)
  | 0xC31 => some (h.rank.setWidth 64)
  | 0xC32 => some (h.gsize.setWidth 64)
  | 0xC33 => some (h.ctx.setWidth 64)
  | 0xC38 => some h.vispend
  | 0xC39 => some (BitVec.ofNat 64 h.owed.length)
  | 0x500 => some h.sstatus
  | 0x501 => some (BitVec.ofNat 64 (h.stvec.toNat <<< 2))
  | 0x502 => some h.sepc
  | 0x503 => some (h.scause.setWidth 64)
  | 0x504 => some h.stval
  | 0x505 => some h.cvidx
  | 0x508 => some (s.ctx h.ctx).ssvpool
  | 0x510 => some h.bkcmd
  | 0xD10 => some h.bkstat
  | 0xD11 => some h.bkfifo
  | _ =>
    if 0xC08 ≤ n ∧ n ≤ 0xC0F then some (if pmForeign s (n - 0xC08) then 0 else (pmOf s (n - 0xC08)).shadow.setWidth 64)
    else if 0xC40 ≤ n ∧ n ≤ 0xC47 then some (dcfg (n - 0xC40))
    else if 0x520 ≤ n ∧ n ≤ 0x527 then some (if pmForeign s (n - 0x520) then 0 else pmSel (pmOf s (n - 0x520)))
    else if 0x528 ≤ n ∧ n ≤ 0x52F then some (if pmForeign s (n - 0x528) then 0 else (pmOf s (n - 0x528)).count.setWidth 64)
    else none

/-- `srctl.k` as stored: a value outside 1 to 20 stores the nearer limit (10 Table 10.13). -/
def clampK (k : Nat) : BitVec 5 := if k < 1 then 1 else if 20 < k then 20 else BitVec.ofNat 5 k

/-- Any gang of the context holds a save frame (10 R263). -/
def framesHeld (s : State) (c : BitVec 8) : Bool := (s.ctx c).frames ≠ []

/-- A write to `sstatus`: kill := 1 in supervisor mode is a fatal fault with the cause in `scause` (10 R254). -/
def writeSstatus (s : State) (v : Word) : State :=
  let s := s.withHart (fun h => { h with wpsk := wbit v 3, tact := wbit v 1, spp := wbit v 0 })
  if wbit v 4 ∧ s.hart.sup then s.fatalFault s.hart.ctx s.hart.scause s.hart.gang s.hart.pc s.hart.stval else s

/-- A write to a programmable counter's select (10 Table 10.10, R275). -/
def writePmSel (s : State) (i : Nat) (v : Word) : State :=
  if pmForeign s i then s
  else
    let p := { pmOf s i with en := wbit v 63, ctx := s.hart.ctx, u := wbit v 11, s := wbit v 10, event := field v 0 9 }
    s.modCore s.hart.core (fun c => { c with pm := tset c.pm i p })

/-- A write to a programmable counter's count. -/
def writePmCnt (s : State) (i : Nat) (v : Word) : State :=
  if pmForeign s i then s
  else s.modCore s.hart.core (fun c => { c with pm := tset c.pm i { pmOf s i with count := field v 0 48 } })

/-- What a write of a CSR stores (13 Table 13.2); `src` is the instruction's source operand, which W1C fields clear by
(R347). Read-only numbers are not written. -/
def csrWrite (s : State) (n : Nat) (v src : Word) : State :=
  let setH := s.withHart
  match n with
  | 0x800 => setH (fun h => { h with vstart := v })
  | 0x801 => setH (fun h => { h with vkeep := field v 0 32 })
  | 0x802 => setH (fun h => { h with vdirty := field v 0 44 })
  | 0x803 => setH (fun h => { h with vdirty := field v 0 4 ++ field h.vdirty 0 40 })
  | 0x804 => setH (fun h => { h with vxrm := field v 0 2 })
  | 0x805 => setH (fun h => { h with vfrm := field v 0 3 })
  | 0x806 => setH (fun h => { h with vxsat := wbit v 0 })
  | 0x807 => setH (fun h => { h with vfflags := field v 0 5 })
  | 0x808 => setH (fun h => { h with vcarryFmt := field v 32 6, vcarryRes := field v 0 32 })
  | 0x809 => setH (fun h => { h with atag := field v 0 16 })
  | 0x80A => setH (fun h => { h with sdisc := h.sdisc && !wbit src 0 })
  | 0x810 => setH (fun h => { h with uiePie := wbit v 1, uieIe := wbit v 0 })
  | 0x811 => setH (fun h => { h with uepc := field v 2 46 ++ 0#2 })
  | 0x812 => setH (fun h => { h with ucause := field v 0 8 })
  | 0x813 => setH (fun h => { h with xtid := field v 0 16 })
  | 0x814 => setH (fun h => { h with xhandler := field v 0 48 })
  | 0x815 => setH (fun h => { h with xstat := v })
  | 0x818 => setH (fun h => { h with srbase := field v 12 36 })
  | 0x819 => setH (fun h => { h with srhead := v })
  | 0x81A => setH (fun h => { h with srFlt := wbit v 8, srK := clampK (wfield v 1 5), srEn := wbit v 0 })
  | 0x820 =>
    (setH (fun h => { h with asampN := if 24 < wfield v 0 5 then 24 else field v 0 5 })).modCtx s.hart.ctx (fun x => { x with adis := false })
  | 0x821 => setH (fun h => { h with aseed := if v = 0 then 1 else v })
  | 0x822 => setH (fun h => { h with ahist := field v 12 36 })
  | 0x823 => setH (fun h => { h with athrBin := field v 32 5, athrCount := field v 0 32 })
  | 0x824 => setH (fun h => { h with actlHandler := field v 0 16 })
  | 0x500 => writeSstatus s v
  | 0x501 => setH (fun h => { h with stvec := field v 2 46 })
  | 0x502 => setH (fun h => { h with sepc := v &&& ~~~ 3#64 })
  | 0x503 => setH (fun h => { h with scause := field v 0 8 })
  | 0x504 => setH (fun h => { h with stval := v })
  | 0x505 => setH (fun h => { h with cvRestart := field v 16 6, cvDone := field v 8 6, cvMember := field v 0 3 })
  | 0x508 =>
    if framesHeld s s.hart.ctx then s
    else s.modCtx s.hart.ctx (fun x => { x with ssvpool := keepField v 16 32 + keepField v 0 5 })
  | 0x510 => s.bkSubmit { host := false, cl := clusterOf s.hart.core, ref := s.hart.ref, val := v }
  | _ =>
    if 0x520 ≤ n ∧ n ≤ 0x527 then writePmSel s (n - 0x520) v
    else if 0x528 ≤ n ∧ n ≤ 0x52F then writePmCnt s (n - 0x528) v
    else s

/-- The access traps with cause 0x02 (13 R348): a write of a read-only number, a user access to a supervisor CSR but for
reads of the counters, a number the table does not give. -/
def csrIllegal (s : State) (n : Nat) (writes : Bool) : Bool :=
  (csrRead s n).isNone || (writes && nfield n 10 2 == 3)
    || (!s.hart.sup && nfield n 8 2 == 1 && !(0x520 ≤ n && n ≤ 0x52F && !writes))

/-- CSRs whose access waits for the hart's convoys (06 R166). -/
def csrDrains (n : Nat) : Bool :=
  n ∈ [0x800, 0x802, 0x803, 0x806, 0x807, 0x808, 0xC28, 0xC29, 0xC2A, 0xC2B, 0x820, 0x821, 0x822, 0x823, 0x824]

/-- What an access waits for before it is performed (13 R349), if anything. -/
def csrWaits (s : State) (n : Nat) (reads : Bool) : Bool :=
  (csrDrains n && !s.hart.disp.isEmpty)
    || (n == 0xC38 && reads && (s.hart.posted.any (fun p => !p.failed) || s.inTransit s.hart.gang s.hart.rank))
    || ((n == 0x819 || n == 0x81A) && !s.hart.stripDue.isEmpty)

/-- A read of dtime is remembered (13 R349). -/
def State.noteTime (s : State) (n : Nat) (reads : Bool) : State :=
  if n = 0xC01 ∧ reads then s.withHart (fun h => { h with dtimeLast := readTime s }) else s

/-- The word of the instruction, for `stval` (13 R348). -/
def csrWord (f3 : BitVec 3) (rd rs1 : Reg) (csr : BitVec 12) : Word := (encI csr rs1 f3 rd 0x73).setWidth 64

/-- One Zicsr instruction (13 R347): `f` makes the new value from the old one and the source operand. -/
def csrOp (f3 : BitVec 3) (rd rs1 : Reg) (csr : BitVec 12) (src : Word) (reads writes : Bool) (f : Word → Word → Word)
    (s : State) : Out :=
  let n := csr.toNat
  let r : Res Unit := if csrIllegal s n writes then .trap 0x02 (csrWord f3 rd rs1 csr)
    else if csrWaits s n reads then .need (.wait .drain)
    else
      let old := (csrRead s n).getD 0
      let s := s.noteTime n reads
      let s := if writes then csrWrite s n (f old src) src else s
      .ok () (if reads then s.setX rd old else s).retire
  r.finish s

/-- CSRRW (13 R347). -/
def execCsrrw (rd rs1 : Reg) (csr : BitVec 12) (s : State) : Out :=
  csrOp 1 rd rs1 csr (s.getX rs1) (rd ≠ 0) true (fun _ v => v) s
/-- CSRRS (13 R347). -/
def execCsrrs (rd rs1 : Reg) (csr : BitVec 12) (s : State) : Out :=
  csrOp 2 rd rs1 csr (s.getX rs1) true (rs1 ≠ 0) (fun o v => o ||| v) s
/-- CSRRC (13 R347). -/
def execCsrrc (rd rs1 : Reg) (csr : BitVec 12) (s : State) : Out :=
  csrOp 3 rd rs1 csr (s.getX rs1) true (rs1 ≠ 0) (fun o v => o &&& ~~~ v) s
/-- CSRRWI (13 R347). -/
def execCsrrwi (rd : Reg) (imm : BitVec 5) (csr : BitVec 12) (s : State) : Out :=
  csrOp 5 rd imm csr (imm.setWidth 64) (rd ≠ 0) true (fun _ v => v) s
/-- CSRRSI (13 R347). -/
def execCsrrsi (rd : Reg) (imm : BitVec 5) (csr : BitVec 12) (s : State) : Out :=
  csrOp 6 rd imm csr (imm.setWidth 64) true (imm ≠ 0) (fun o v => o ||| v) s
/-- CSRRCI (13 R347). -/
def execCsrrci (rd : Reg) (imm : BitVec 5) (csr : BitVec 12) (s : State) : Out :=
  csrOp 7 rd imm csr (imm.setWidth 64) true (imm ≠ 0) (fun o v => o &&& ~~~ v) s

end Sys2Proof.Machine
end

