-- ==== Sys2Proof/Machine/Queues.lean ====
section
/-!
DEFINITION. Queues and task records (05 R115 to R129), handler tables (04 R93, R94), events and the overflow ring (03 R78, R79;
10 R258, R259), and what the device reads and writes in a context's memory by itself.
-/
namespace Sys2Proof.Machine

/-! ### The device's own accesses to a context's memory -/

/-- Where an address of a context leads at supervisor privilege, by the context's tables in memory (03 R83 to R88). -/
def ctxPlace (s : State) (c : BitVec 8) (va : Word) (k : Kind) : Found :=
  if wfield va 48 16 ≠ 0 then .error k.pageFault
  else if 0xFC0000000000 ≤ va.toNat then .error k.accessFault
  else if (walkReads s (fun _ => none) va.toNat 3 (rootOf s c)).any (fun r => poisoned s r.2 8) then .error 0x15
  else
    match walk s c va.toNat with
    | none => .error k.pageFault
    | some (e, bits) => if permits e k true then leafPlace e bits va.toNat k else .error k.pageFault

/-- A local physical address of a context at supervisor privilege, its class and its da bit, or the cause of a fault; another location has
none. -/
def ctxPhys (s : State) (c : BitVec 8) (va : Word) (k : Kind) : Except (BitVec 8) (Nat × BitVec 2 × Bool) :=
  match ctxPlace s c va k with
  | .ok (.phys pa cls da) => .ok (pa, cls, da)
  | .ok _ => .error k.accessFault
  | .error e => .error e

/-- Write bytes of a context's memory for the device: at once for classes D and U, under R205 for class L; the visibility time. -/
def State.ctxStore (s : State) (c : BitVec 8) (pa : Nat) (cls : BitVec 2) (da : Bool) (data : List Byte) : Nat × State :=
  if cls = 1 then
    let w : LWrite := { core := 0, slot := 0, ctx := c, gang := 0xFFFF, rank := 0, seq := 0, pa := pa, da := da, data := data
                        v := 0, performed := false, foreign := true }
    let (v, s) := s.lArrive w
    (v, s.lDue)
  else
    let s := s.atHome none pa data.length da true
    let s := s.breakLinks (pa / 128) ((pa + data.length - 1) / 128) (fun _ => false)
    (0, s.putMem pa data)

/-! ### Handler tables (04 R93, R94) -/

/-- A usable or disabled handler entry (04 Table 4.1). -/
structure Handler where
  pc : Word
  dis : Bool
  queue : BitVec 16
  spill : Bool
  shape : BitVec 20
  version : BitVec 16
  self : Bool
  loc : Bool
  remote : Bool
  maxpri : BitVec 3
  deriving DecidableEq, Repr

/-- A lookup's answer: an entry, or no handler with the addr and cause of its fault record (04 R93). -/
inductive Lookup where
  | entry (h : Handler)
  | none (addr : Word) (cause : BitVec 8)
  deriving DecidableEq, Repr

/-- The four words of an entry, as a valid handler (04 R94). -/
def handlerOf (w0 w1 w2 w3 : Word) : Option Handler :=
  if wbit w0 63 ∧ wfield w0 48 14 = 0 ∧ wfield w0 0 2 = 0 ∧ wfield w1 36 11 = 0 ∧ wfield w2 6 58 = 0 ∧ w3 = 0 then
    some { pc := keepField w0 0 48, dis := wbit w0 62, queue := field w1 48 16, spill := wbit w1 47
           shape := field w1 16 20, version := field w1 0 16, self := wbit w2 5, loc := wbit w2 4
           remote := wbit w2 3, maxpri := field w2 0 3 }
  else none

/-- The virtual address of a context's handler entry. -/
def handlerAddr (s : State) (c : BitVec 8) (idx : Nat) : Word := BitVec.ofNat 64 ((wfield (s.ctx c).htbase 12 36) <<< 12 + 32 * idx)

/-- The words of a context's handler entry, or the addr and cause of the fault record when it cannot be read (04 R93, R95). -/
def handlerWords (s : State) (c : BitVec 8) (idx : Nat) : Except (Word × BitVec 8) (Nat → Word) :=
  let n := wfield (s.ctx c).htbase 0 5
  if 16 < n ∨ 2 ^ n ≤ idx then .error (0, 0)
  else
    let va := handlerAddr s c idx
    match ctxPhys s c va .load with
    | .ok (pa, cls, _) =>
      if cls = 1 then .error (va, 0)
      else if poisoned s pa 32 then .error (va, 0x15)
      else .ok (fun i => BitVec.ofNat 64 (memNat s.mem (pa + 8 * i) 8))
    | .error e => .error (va, if e = 0x15 then 0x15 else 0)

/-- Look up a handler index in a context's table (04 R93 to R95). -/
def handlerLookup (s : State) (c : BitVec 8) (idx : Nat) : Lookup :=
  match handlerWords s c idx with
  | .error (va, cause) => .none va cause
  | .ok w =>
    match handlerOf (w 0) (w 1) (w 2) (w 3) with
    | some h => .entry h
    | none => .none (handlerAddr s c idx) 0

/-! ### Task records (05 Table 5.4, R119) -/

/-- Fields of word 0. -/
def gszOf (t : TaskRec) : Nat := wfield t.w0 16 6
/-- Requested VLB code. -/
def vlbreqOf (t : TaskRec) : Nat := wfield t.w0 22 3
/-- Accumulator tiles for each hart. -/
def tilesOf (t : TaskRec) : Nat := wfield t.w0 26 3
/-- Scratch banks. -/
def banksOf (t : TaskRec) : Nat := wfield t.w0 29 6
/-- Handler index. -/
def handlerIdx (t : TaskRec) : BitVec 16 := field t.w0 0 16

/-- A record is well formed (05 R119). -/
def taskOk (t : TaskRec) : Bool :=
  vlbreqOf t ≤ 5 ∧ tilesOf t ≤ 4 ∧ cdiv (gszOf t + 1) 8 * tilesOf t ≤ 4 ∧ t.w2.toNat % 8 = 0

/-- A task record from its 64 bytes. -/
def taskOfBytes (b : List Byte) : TaskRec :=
  let w (i : Nat) : Word := BitVec.ofNat 64 (leNat ((b.drop (8 * i)).take 8))
  { w0 := w 0, w1 := w 1, w2 := w 2, w3 := w 3, w4 := w 4, w5 := w 5, w6 := w 6, w7 := w 7 }

/-- The 64 bytes of a record. -/
def taskBytes (t : TaskRec) : List Byte := wordsBytes [t.w0, t.w1, t.w2, t.w3, t.w4, t.w5, t.w6, t.w7]

/-- Word 0 bits [63:39] := 0 (05 R118). -/
def plainTask (t : TaskRec) : TaskRec := { t with w0 := keepField t.w0 0 39 }

/-! ### Appends -/

/-- Records a queue holds, those whose release is pending among them (05 R126). -/
def Queue.depth (q : Queue) : Nat := q.recs.length

/-- A record that is takeable at once. -/
def qrec (t : TaskRec) (pc : Option Word) (pusher : BitVec 8) (version : BitVec 16) : QRec :=
  { task := t, pc := pc, pusher := pusher, version := version, rel := none, bad := false, sau := false }

/-- An uncore counter of a die counts an event. -/
def Die.counts (d : Die) (ev : Nat) : Bool := d.uncore.any (fun u => wbit u.2.sel 63 && wfield u.2.sel 0 8 = ev)

/-- An operation on QSTORE is counted, where a die counts them (10 R276); which die's part it meets the spec does not say (log 1). -/
def State.qstore (s : State) : State :=
  if s.dies.any (fun d => d.2.counts 8) then
    let (i, s) := s.freshImage 2
    s.uncount (BitVec.ofNat 2 i) 8 1
  else s

/-- Append a record to a queue (05 R123). -/
def State.append (s : State) (q : BitVec 16) (r : QRec) : State := s.qstore.modQueue q (fun x => { x with recs := x.recs ++ [r] })

/-- Append to a context's overflow ring, if it has room (03 R79). -/
def State.spillTo (s : State) (c : BitVec 8) (t : TaskRec) : Option State :=
  let x := s.ctx c
  match ringLog x.ovbase with
  | none => none
  | some n =>
    if (x.ovtail - x.ovhead).toNat = 2 ^ n then none
    else
      let a := (wfield x.ovbase 12 40) <<< 12 + 64 * (x.ovtail.toNat % 2 ^ n)
      some ((s.putMem a (taskBytes t)).modCtx c (fun x => { x with ovtail := x.ovtail + 1 }))

/-- Post an event to a context (03 R78, 10 R259): a task record in its event queue, or a fault record of kind 6. -/
def State.postEvent (s : State) (c : BitVec 8) (code : BitVec 8) (handler : BitVec 16) (x10 x11 x12 x13 x14 : Word) : State :=
  let x := s.ctx c
  if x.state = .resetting then s
  else
    let q : BitVec 16 := field x.evq 0 16
    let shape := match handlerWords s c handler.toNat with
      | .ok w => wfield (w 1) 16 20
      | .error _ => 0
    let t : TaskRec := { w0 := BitVec.ofNat 64 (handler.toNat + shape <<< 16), w1 := s.pkg.dtime, w2 := 0, w3 := x10, w4 := x11
                         w5 := x12, w6 := x13, w7 := x14 }
    let lost : State :=
      let s := if code = 0x13 then s.modCtx c (fun x => { x with sauSticky := false }) else s
      s.postFault c (faultRec s 6 code 0xFFFF handler (if wbit x.evq 63 then q else 0xFFFF) x10 0)
    match tget s.queues q.toNat with
    | none => lost
    | some d =>
      if ¬ wbit x.evq 63 ∨ d.ctx ≠ c ∨ capRecords d.cap ≤ d.depth then lost
      else s.append q { qrec t none c 0 with sau := code = 0x13 }

/-- A link fault: fault record of kind 2 and link-fault event (08 R228, 10 Table 10.4). -/
def State.postLinkFault (s : State) (c : BitVec 8) (port : BitVec 4) (addr : Word) : State :=
  (s.postFault c (faultRec s 2 0 0xFFFF 0xFFFF 0xFFFF (port.setWidth 64) 0)).postEvent c 0x14 0x14 (port.setWidth 64) addr 0 0 0

/-! ### Pushes (05 R125 to R128) -/

/-- The writes the current hart has issued so far. -/
def Hart.release (h : Hart) : Release :=
  { gang := h.gang, rank := h.rank, seq := h.postSeq, v := h.maxV
    xfers := (h.xfers.filter (fun x => x.state = .running)).map (fun x => x.id) }

/-- An engine still holds one of the transfers. -/
def engineHolds (s : State) (r : Release) : Bool :=
  let mine (e : EngXfer) : Bool := e.gang = r.gang ∧ e.rank = r.rank ∧ e.id ∈ r.xfers
  s.clusters.any (fun c => c.2.stream.any mine) || s.dies.any (fun d => d.2.sort.any mine)

/-- Every write the hart issued before a push or an XCALL is complete (04 R100): none of its posted writes up to then is
outstanding, dtime has reached the V of each of its class L writes, and its transfers have ended. -/
def writesDone (s : State) (r : Release) : Bool :=
  r.v ≤ s.pkg.dtime.toNat && !engineHolds s r && !s.unseen r.gang r.rank r.seq
    && !s.allHarts.any (fun h => h.gang = r.gang && h.rank = r.rank && h.posted.any (fun p => p.seq < r.seq && !p.failed))

/-- An earlier push of the current hart to the queue is pending (05 R123). -/
def pushPends (s : State) (d : Queue) : Bool :=
  d.recs.any (fun r => r.rel.any (fun e => e.gang = s.hart.gang && e.rank = s.hart.rank))

/-- A push of the current hart: takeable at once when its earlier writes are complete, and so are its earlier pushes to the queue; else it
pends its release (05 R123, R126). -/
def pushRec (s : State) (d : Queue) (t : TaskRec) : QRec :=
  { task := t, pc := none, pusher := s.hart.ctx, version := 0
    rel := if writesDone s s.hart.release && !pushPends s d then none else some s.hart.release, bad := false, sau := false }

/-- Does the queue accept a push of the current context: no queue, RESETTING (as full), or yes (05 R125). -/
def pushTarget (s : State) (q : BitVec 16) : Except Word Queue :=
  match tget s.queues q.toNat with
  | none => .error 2
  | some d =>
    let st := (s.ctx d.ctx).state
    if d.ctx ≠ s.hart.ctx ∧ (¬ d.opn ∨ ¬ (st = .running ∨ st = .stopped ∨ st = .resetting)) then .error 2
    else if st = .resetting then .error 1
    else .ok d

/-- The record read by a push: 64 bytes at an aligned address, eight words of the hart's context (05 R125). -/
def loadTask (s : State) (va : Word) : Res TaskRec :=
  if va.toNat % 64 ≠ 0 then .trap 0x0A va
  else (hartLoad s va 64).bind fun b s => .ok (taskOfBytes b) s

/-- TQPUSH (05 R125). -/
def execTqpush (rd rs1 rs2 : Reg) (s : State) : Out :=
  let a := s.getX rs2
  let q : BitVec 16 := field (s.getX rs1) 0 16
  ((loadTask s a).bind fun t s =>
    let t := plainTask t
    if ¬ taskOk t then .trap 0x0E a
    else
      match pushTarget s q with
      | .error r => .ok () (s.setX rd r).retire
      | .ok d =>
        if d.hwm.toNat ≤ d.depth then .ok () (s.setX rd 1).retire
        else .ok () ((s.writeHome.append q (pushRec s d t)).setX rd 0).retire).finish s

/-- The counter of a parking push: an aligned word of local class D memory that an atomic may reach (05 R125). -/
def counterAt (s : State) (va : Word) : Res Nat :=
  if va.toNat % 8 ≠ 0 then .trap 0x0A va
  else
    let (f, s) := resolve s s.hart.who va .amo
    match f with
    | .error c => .trap c va
    | .ok (.phys pa cls _) =>
      if cls = 0 then watched s va.toNat 8 true true (if poisoned s pa 8 then .trap 0x15 va else .ok pa s) else .trap 0x09 va
    | .ok _ => .trap 0x09 va

/-- TQPUSH.P (05 R125, R128): pushes when the counter is 0, else parks on it. -/
def execTqpushP (rd rs1 rs2 : Reg) (s : State) : Out :=
  let a := s.getX rs2
  let q : BitVec 16 := field (s.getX rs1) 0 16
  ((loadTask s a).bind fun t s =>
    let t := plainTask t
    if ¬ taskOk t then .trap 0x0E a
    else
      match pushTarget s q with
      | .error r => .ok () (s.setX rd r).retire
      | .ok d =>
        (counterAt s (BitVec.ofNat 64 (wfield (s.getX rs1) 16 48))).bind fun pa s =>
          if s.sauq.any (fun w => w.line = pa / 128) then .need (.wait .transfer)
          else if memNat s.mem pa 8 = 0 then
            if d.hwm.toNat ≤ d.depth then .ok () (s.setX rd 1).retire
            else .ok () ((s.writeHome.append q (pushRec s d t)).setX rd 0).retire
          else if 262144 ≤ s.park.length then .ok () (s.setX rd 1).retire
          else
            let p : Parked :=
              { pa := pa, qid := q, task := t, pusher := s.hart.ctx, released := false, rel := some s.hart.release, bad := false }
            .ok () (({ s.writeHome.qstore with park := s.park ++ [p] }).setX rd 0).retire).finish s

/-- A pending release belongs to the hart in a slot, or to a hart that is not resident. -/
def Release.of (r : Release) (s : State) (h : HartRef) : Bool :=
  match s.findHart h with
  | some h => h.gang = r.gang ∧ h.rank = r.rank
  | none => !s.allHarts.any (fun h => h.gang = r.gang && h.rank = r.rank)

/-- Make a hart's oldest pending push that is complete takeable: it enters the order of appends now (05 R123, R126). -/
def releasePush (s : State) (r : HartRef) : List (Nat × Queue) → State
  | [] => s
  | (q, d) :: rest =>
    match d.recs.find? (fun x => x.rel.any (fun e => e.of s r && writesDone s e)) with
    | some x => { s with queues := tset s.queues q { d with recs := d.recs.erase x ++ [{ x with rel := none }] } }
    | none => releasePush s r rest

/-- PUSH_RELEASE_COMPLETE (05 R126). -/
def execPushReleaseComplete (h : HartRef) (s : State) : Out := .next (releasePush s h s.queues)

/-- RELEASED_RECORD_APPEND (05 R128): the first released record of the queue is appended when there is room below capacity. One with an
uncorrectable error is discarded; where it has no queue it is counted and nothing more (02 R55). -/
def execReleasedRecordAppend (qid : BitVec 16) (s : State) : Out :=
  match s.park.find? (fun p => p.released ∧ p.qid = qid), tget s.queues qid.toNat with
  | some p, some d =>
    if p.bad then .next ({ s with park := s.park.erase p }.spoil d.ctx qid p.task)
    else if d.depth < capRecords d.cap then
      .next ({ s with park := s.park.erase p }.append qid { qrec p.task none p.pusher 0 with rel := p.rel })
    else .next s
  | some p, none => .next (if p.bad then { s with park := s.park.erase p }.countUe else s)
  | _, _ => .next s

/-- Records parked on a counter are released in park order, behind those released before (05 R128). -/
def State.releaseParked (s : State) (pa : Nat) : State :=
  let now (p : Parked) : Bool := p.pa = pa && !p.released
  { s with park := s.park.filter (fun p => !now p) ++ (s.park.filter now).map (fun p => { p with released := true }) }

/-- A join counter cannot be reached: a fault record of kind 7 (05 R129); an uncorrectable error is counted (02 R53). -/
def State.joinLost (s : State) (e : TaskEnd) (cause : BitVec 8) : State :=
  (if cause = 0x15 then s.countUe else s).postFault e.ctx (faultRec s 7 0 e.gang 0xFFFF e.queue e.join 0)

/-- The decrement of an ended task's join counter (05 R128, R129). -/
def State.joinDec (s : State) (e : TaskEnd) : State :=
  match ctxPhys s e.ctx e.join .amo with
  | .ok (pa, cls, da) =>
    if poisoned s pa 8 then s.joinLost e 0x15
    else if cls ≠ 0 then s.joinLost e 0
    else
      let s := s.atHome none pa 8 da true
      let (_, s) := s.sauPerform pa da 8 (fun o => (some ((o + 2 ^ 64 - 1) % 2 ^ 64), o)) (fun _ => false)
      if memNat s.mem pa 8 = 0 then s.releaseParked pa else s
  | .error c => s.joinLost e c

/-- A join decrement waits behind the operations that its counter's line holds (07 R192). -/
def joinHeld (s : State) (e : TaskEnd) : Bool :=
  match ctxPhys s e.ctx e.join .amo with
  | .ok (pa, _, _) => s.sauq.any (fun w => w.line = pa / 128)
  | .error _ => false

/-- JOIN_DECREMENT (05 R129): the oldest ended task's counter. -/
def execJoinDecrement (s : State) : Out :=
  match s.ends with
  | [] => .next s
  | e :: rest => .next (if joinHeld s e then s else ({ s with ends := rest }).joinDec e)

/-! ### Queue commands (05 R116, R117) -/

/-- The attributes in `qattr` and `qlimit` are good (05 Tables 5.2, 5.3). -/
def attrOk (a l : Word) : Bool :=
  wfield a 36 4 ≤ 12 ∧ wfield a 32 4 = 0 ∧ wfield a 0 32 ≠ 0 ∧ wfield l 17 47 = 0 ∧ 1 ≤ wfield l 0 17
    ∧ wfield l 0 17 ≤ capRecords (field a 36 4) ∧ (wbit a 41 → wbit a 42)

/-- The queue that `qattr` and `qlimit` describe. -/
def queueOf (a l : Word) : Queue :=
  { ctx := field a 56 8, weight := field a 48 8, pri := field a 45 3, policy := field a 43 2, keyed := wbit a 42
    binned := wbit a 41, opn := wbit a 40, cap := field a 36 4, aff := field a 0 32, hwm := field l 0 17, recs := [] }

/-- `qattr` of a queue. -/
def Queue.attr (q : Queue) : Word :=
  q.ctx ++ q.weight ++ q.pri ++ q.policy ++ BitVec.ofBool q.keyed ++ BitVec.ofBool q.binned ++ BitVec.ofBool q.opn ++ q.cap
    ++ 0#4 ++ q.aff

/-- A queue command ends with a result (05 Table 5.1). -/
def State.qcDone (s : State) (op : BitVec 4) (qid : BitVec 16) (r : BitVec 8) : State :=
  { s.qstore with pkg := { s.pkg with qcResult := r, qcOp := op, qcQid := qid, qcBusy := false } }

/-- Create (05 R117). -/
def qCreate (qid : BitVec 16) (s : State) : State :=
  let a := s.pkg.qattr
  let c : BitVec 8 := field a 56 8
  let st := (s.ctx c).state
  if (tget s.queues qid.toNat).isSome then s.qcDone 1 qid 1
  else if ¬ attrOk a s.pkg.qlimit then s.qcDone 1 qid 6
  else if st ≠ .stopped ∧ st ≠ .running then s.qcDone 1 qid 3
  else if wfield (s.ctx c).quota 32 16 ≤ (s.queues.filter fun p => p.2.ctx = c).length then s.qcDone 1 qid 4
  else if s.pkg.qsfree.toNat < capRecords (field a 36 4) then s.qcDone 1 qid 5
  else
    let s := { s with queues := tset s.queues qid.toNat (queueOf a s.pkg.qlimit)
                      pkg := { s.pkg with qsfree := s.pkg.qsfree - BitVec.ofNat 32 (capRecords (field a 36 4)) } }
    s.qcDone 1 qid 0

/-- Modify (05 R117): a binned queue's records are hashed by their key whenever they are taken, so a new mask re-hashes
them. -/
def qModify (qid : BitVec 16) (s : State) : State :=
  let a := s.pkg.qattr
  let n := queueOf a s.pkg.qlimit
  match tget s.queues qid.toNat with
  | none => s.qcDone 2 qid 2
  | some d =>
    if ¬ attrOk a s.pkg.qlimit ∨ d.ctx ≠ n.ctx ∨ d.keyed ≠ n.keyed ∨ d.binned ≠ n.binned ∨ d.cap ≠ n.cap then s.qcDone 2 qid 6
    else
      let d := { d with weight := n.weight, pri := n.pri, policy := n.policy, opn := n.opn, aff := n.aff, hwm := n.hwm }
      ({ s with queues := tset s.queues qid.toNat d }).qcDone 2 qid 0

/-- The purses of a core when a queue is deleted: each of its gangs with harts there keeps one of its own (05 R136). -/
def splitPurse (s : State) (q : BitVec 16) (core : Nat) (ps : Table Int) : Table Int :=
  match tget ps q.toNat with
  | none => ps
  | some v =>
    let mine := s.gangs.filter (fun p => p.2.queue = q && !p.2.orphan
      && s.allHarts.any (fun h => h.core.toNat = core && h.gang.toNat = p.1))
    mine.foldl (fun ps p => tset ps (65536 + p.1) v) (tdel ps q.toNat)

/-- Gangs of a deleted queue keep its last attributes (05 R135). -/
def State.orphanGangs (s : State) (q : BitVec 16) (d : Queue) : State :=
  let one (p : Nat × Gang) : Nat × Gang :=
    if p.2.queue = q ∧ ¬ p.2.orphan then
      (p.1, { p.2 with orphan := true, policy := d.policy, weight := d.weight, aff := d.aff, binned := d.binned })
    else p
  { s with gangs := s.gangs.map one, cores := s.cores.map (fun c => (c.1, { c.2 with purses := splitPurse s q c.1 c.2.purses })) }

/-- Delete (05 R117). -/
def qDelete (qid : BitVec 16) (s : State) : State :=
  match tget s.queues qid.toNat with
  | none => s.qcDone 3 qid 2
  | some d =>
    ((s.orphanGangs qid d).dropQueue qid.toNat).qcDone 3 qid 0

/-- Read (05 R117): `qattr`, `qlimit` and `qocc` take a snapshot. -/
def qRead (qid : BitVec 16) (s : State) : State :=
  match tget s.queues qid.toNat with
  | none => s.qcDone 4 qid 2
  | some d =>
    let gangs := (s.gangs.filter fun p => p.2.queue = qid ∧ ¬ p.2.saved ∧ ¬ p.2.orphan).length
    ({ s with pkg := { s.pkg with qattr := d.attr, qlimit := d.hwm.setWidth 64
                                  qocc := BitVec.ofNat 64 ((gangs % 2 ^ 16) <<< 48 + d.depth) } }).qcDone 4 qid 0

/-- QCMD_CREATE (05 R117). -/
def execQcmdCreate (qid : BitVec 16) (s : State) : Out := .next (qCreate qid s)
/-- QCMD_MODIFY (05 R117). -/
def execQcmdModify (qid : BitVec 16) (s : State) : Out := .next (qModify qid s)
/-- QCMD_DELETE (05 R117). -/
def execQcmdDelete (qid : BitVec 16) (s : State) : Out := .next (qDelete qid s)
/-- QCMD_READ (05 R117). -/
def execQcmdRead (qid : BitVec 16) (s : State) : Out := .next (qRead qid s)

/-- A write to `qcmd` (05 R116): the op runs, or ends with result 6. -/
def State.qcmdWrite (s : State) (op : BitVec 4) (qid : BitVec 16) : State :=
  match op.toNat with
  | 1 => qCreate qid s
  | 2 => qModify qid s
  | 3 => qDelete qid s
  | 4 => qRead qid s
  | _ => s.qcDone op qid 6

end Sys2Proof.Machine
end

