-- ==== Sys2Proof/Machine/Sync.lean ====
section
/-!
DEFINITION. Fences and what they wait for (13 R345, R353, R354; 08 R225 to R229), the visibility wait and STV (13 R355, R356),
and tickets (13 R357 to R359).
-/
namespace Sys2Proof.Machine

/-! ### Fences -/

/-- How a fence stands. -/
inductive FenceEnd where
  | waits
  | complete
  /-- the write it reports (08 R228) -/
  | linkDown (p : Posted)
  deriving DecidableEq, Repr

/-- The start of the fence, or of the release, in progress: the time its wait began, or now. -/
def fenceStart (s : State) : Word :=
  match s.hart.wait with
  | .fence _ _ _ t => t
  | _ => (s.hart.relStart.map (BitVec.ofNat 64)).getD s.pkg.dtime

/-- The earliest write in program order among the failed and the outstanding ones (08 R228). -/
def firstPosted (ps : List Posted) : Option Posted :=
  ps.foldl (fun b p => match b with
    | none => some p
    | some q => if p.seq < q.seq then some p else some q) none

/-- Ticks of the link-recovery limit (01 Table 1.8, in µs). -/
def lrTicks (s : State) : Nat := 1000 * s.fab.lrlim.toNat

/-- The waits of Table 8.7 for a fence or release of a scope that began at `start` (08 R227, R228). -/
def fenceEnd (s : State) (scope : Nat) (start : Word) : FenceEnd :=
  if s.hart.xfers.any (fun x => x.state = .running) then .waits
  else if scope = 0 then .complete
  else if ¬ fenceReady s then .waits
  else if scope < 5 then .complete
  else
    match firstPosted s.hart.posted with
    | none => .complete
    | some p =>
      if (s.hart.posted.any fun q => q.failed) ∨ start.toNat + lrTicks s ≤ s.pkg.dtime.toNat then .linkDown p else .waits

/-- The failed writes that a fence has reported are forgotten (log 8). -/
def Hart.forgetFailed (h : Hart) : Hart := { h with posted := h.posted.filter (fun p => ¬ p.failed) }

/-- A fence that reports: status in rd, or cause 0x10 when the context traps failed fences (08 R228, R229; 13 R354). -/
def reportingFence (rd : Reg) (scope : BitVec 3) (s : State) : Out :=
  let start := fenceStart s
  match fenceEnd s scope.toNat start with
  | .waits => .next (s.applyNeed (.wait (.fence scope rd true start)))
  | .complete => .next ((if scope = 0 then s else s.writeHome).setX rd 0).retire
  | .linkDown p =>
    let s := (s.writeHome.postLinkFault s.hart.ctx p.port p.va).withHart Hart.forgetFailed
    if (s.ctx s.hart.ctx).ftrap then .next (s.takeTrap 0x10 (p.port.setWidth 64) none)
    else .next (s.setX rd (BitVec.ofNat 64 (1 + p.port.toNat <<< 8))).retire

/-- FENCE of a scope (13 R354). -/
def execFenceScoped (rd : Reg) (scope : BitVec 3) (s : State) : Out := reportingFence rd scope s
/-- FENCE.REL (13 R354). -/
def execFenceRel (rd : Reg) (scope : BitVec 3) (s : State) : Out := reportingFence rd scope s

/-- FENCE.ACQ (13 R354, 08 R227): waits for the loads it orders, transfers among them. -/
def execFenceAcq (scope : BitVec 3) (s : State) : Out :=
  if s.hart.xfers.any (fun x => x.state = .running) then .next (s.applyNeed (.wait (.fence scope 0 false (fenceStart s))))
  else .next s.retire

/-- FENCE (13 R345, 08 R225): a device-scope fence over its predecessor and successor sets, I as R and O as W; an empty set
orders nothing. Log 9 for fm. -/
def execFence (_rd _rs1 : Reg) (_fm pred succ : BitVec 4) (s : State) : Out :=
  let writes := wbit pred 0 ∨ wbit pred 2
  if pred = 0 ∨ succ = 0 then .next s.retire
  else
    match fenceEnd s (if writes then 4 else 0) (fenceStart s) with
    | .waits => .next (s.applyNeed (.wait (.fence 4 0 false (fenceStart s))))
    | _ => .next (if writes then s.writeHome else s).retire

/-- FENCE.TSO (13 R345). -/
def execFenceTso (_rd _rs1 : Reg) (s : State) : Out :=
  match fenceEnd s 4 (fenceStart s) with
  | .waits => .next (s.applyNeed (.wait (.fence 4 0 false (fenceStart s))))
  | _ => .next s.writeHome.retire

/-- PAUSE (13 R345): the hart's next issue is held for 32 cycles. -/
def execPause (s : State) : Out := .next (s.retire.withHart (fun h => { h with pauseUntil := s.cycles + 32 }))

/-- FENCE.I (13 R345): waits until the hart's stores are performed at device scope, then discards the core's instruction
cache. -/
def execFenceI (_rd _rs1 : Reg) (_imm : BitVec 12) (s : State) : Out :=
  if seenAll s then
    .next (s.writeHome.modCore s.hart.core (fun c => { c with icache := [] })).retire
  else .next (s.applyNeed (.wait .fenceI))

/-- The release annotation of system scope on a store (13 R354): its waits; when they end as LINK_DOWN the store is still
performed, and the fault is reported by record and event alone. -/
def releasedSystem (s : State) (k : State → Res Unit) : Res Unit :=
  match fenceEnd s 5 (fenceStart s) with
  | .waits => .need (.release (fenceStart s))
  | .complete => k s.writeHome
  | .linkDown p => k ((s.writeHome.postLinkFault s.hart.ctx p.port p.va).withHart Hart.forgetFailed)

/-! ### Visibility -/

/-- VISWAIT (13 R355, 08 R226): waits until dtime reaches t. -/
def execViswait (rs1 : Reg) (s : State) : Out :=
  let t := s.getX rs1
  if t.toNat ≤ s.pkg.dtime.toNat then .next s.retire else .next (s.applyNeed (.wait (.viswait t)))

/-- STV (13 R356): a plain store of a doubleword whose visibility value goes to rd. -/
def execStv (rd rs1 rs2 : Reg) (s : State) : Out :=
  let a := s.getX rs1
  (if a.toNat % 8 ≠ 0 then .trap 0x0A a
   else
    (hartStoreV true s a (leBytes 8 (s.getX rs2).toNat)).bind fun v s =>
      match v with
      | some t => .ok () (s.setX rd (BitVec.ofNat 64 t)).retire
      | none =>
        if s.hart.posted.any (fun p => p.failed && p.seq + 1 = s.hart.postSeq) then .ok () (s.setX rd 0).retire
        else .ok () (if rd = 0 then s.retire else s.retire.withHart (fun h => { h with wait := .stv rd none }))).finish s

/-- Write a register of a hart. -/
def Hart.putX (h : Hart) (rd : Reg) (v : Word) : Hart := if rd = 0 then h else { h with x := h.x.set rd.toNat v (by omega) }

/-- STV_REPLY (13 R356): the reply's value reaches rd. -/
def execStvReply (h : HartRef) (s : State) : Out :=
  .next (s.modHart h (fun h => match h.wait with
    | .stv rd (some v) => { h.putX rd v with wait := .none }
    | _ => h))

/-- A wait that ends when its condition holds: the hart executes its instruction again. -/
def Hart.wake (h : Hart) : Hart := { h with wait := .none }

/-- The current hart's fence wait is over (08 R227, R228). -/
def fenceOver (s : State) : Bool :=
  match s.hart.wait with
  | .fence scope _ _ t => fenceEnd s scope.toNat t ≠ .waits
  | .fenceI => seenAll s
  | _ => false

/-- FENCE_WAIT_END (08 R227): the waits of the hart's fence are over; a FENCE or FENCE.REL completes, and any other
instruction that waited as a release executes again. -/
def execFenceWaitEnd (h : HartRef) (s : State) : Out :=
  s.asHart h fun s =>
  if fenceOver s then
    match s.hart.wait with
    | .fence scope rd true _ => reportingFence rd scope s
    | _ => .next (s.withHart Hart.wake)
  else .next s

/-- SYSTEM_FENCE_TIMEOUT (08 R228): the limit of the hart's system-scope fence expired; it completes with LINK_DOWN. -/
def execSystemFenceTimeout (h : HartRef) (s : State) : Out :=
  s.asHart h fun s =>
  match s.hart.wait with
  | .fence 5 rd report t =>
    match fenceEnd s 5 t, report with
    | .linkDown _, true => reportingFence rd 5 s
    | _, _ => .next s
  | _ => .next s

/-- VISWAIT_END (13 R355, 08 R226). -/
def execViswaitEnd (h : HartRef) (s : State) : Out :=
  s.asHart h fun s =>
  match s.hart.wait with
  | .viswait t => if t.toNat ≤ s.pkg.dtime.toNat then .next (s.withHart Hart.wake) else .next s
  | _ => .next s

/-! ### Tickets -/

/-- The pair of a context's tile on a cluster. -/
def ticketKey (t : Ticket) (c : BitVec 8) (cl : BitVec 5) (tile : BitVec 20) : Bool := t.ctx = c ∧ t.cl = cl ∧ t.tile = tile

/-- The pair of a tile of the current hart's context on a cluster; one that does not exist reads as T = S = 0 (13 R357). -/
def ticketAt (s : State) (cl : BitVec 5) (tile : BitVec 20) : Ticket :=
  (s.tickets.find? (fun t => ticketKey t s.hart.ctx cl tile)).getD
    { ctx := s.hart.ctx, cl := cl, tile := tile, t := 0, s := 0, holder := none }

/-- The current hart's pair of a tile, on its cluster. -/
def ticketOf (s : State) (tile : BitVec 20) : Ticket := ticketAt s (clusterOf s.hart.core) tile

/-- Put a pair. -/
def State.putTicket (s : State) (p : Ticket) : State :=
  { s with tickets := p :: s.tickets.filter (fun t => ¬ ticketKey t p.ctx p.cl p.tile) }

/-- Pairs beyond the clusters' tables, which lie in the ticket spill (13 R357). -/
def spilledPairs (s : State) : Nat :=
  ((List.range 32).map (fun c => (s.tickets.filter (fun t => t.cl.toNat = c)).length - 4096)).sum

/-- No room for a new pair: the cluster's table and the whole spill are full (13 R357). -/
def ticketsFull (s : State) : Bool :=
  4096 ≤ (s.tickets.filter (fun t => t.cl = clusterOf s.hart.core)).length ∧ 524288 ≤ spilledPairs s

/-- A pair with T = S on which no hart waits may be discarded (13 R357); the model discards them when it needs room. -/
def State.discardPairs (s : State) : State :=
  { s with tickets := s.tickets.filter (fun t => t.t ≠ t.s ∨ t.holder.isSome) }

/-- The hart's pair for an instruction that needs one, when there is room. -/
def needPair (s : State) (tile : BitVec 20) : Option State :=
  let cl := clusterOf s.hart.core
  if s.tickets.any (fun t => ticketKey t s.hart.ctx cl tile) ∨ ¬ ticketsFull s then some s
  else if ticketsFull s.discardPairs then none else some s.discardPairs

/-- A tile id with a nonzero bit in [63:20] is a ticket fault (13 R359). -/
def tileOf (s : State) (rs1 : Reg) : Option (BitVec 20) :=
  if wfield (s.getX rs1) 20 44 = 0 then some (field (s.getX rs1) 0 20) else none

/-- TKGET (13 R359). -/
def execTkget (rd rs1 : Reg) (s : State) : Out :=
  let v := s.getX rs1
  let r : Res Unit := match tileOf s rs1 with
    | none => .trap 0x11 v
    | some tile =>
      match needPair s tile with
      | none => .trap 0x11 v
      | some s =>
        let p := ticketOf s tile
        .ok () ((s.putTicket { p with t := p.t + 1 }).setX rd (p.t.setWidth 64)).retire
  r.finish s

/-- The hart takes the serving ticket of a tile on a cluster and goes on (13 R358, R359). -/
def State.grantTile (s : State) (cl : BitVec 5) (tile : BitVec 20) : State :=
  let p := ticketAt s cl tile
  ((s.putTicket { p with holder := some (s.hart.gang, s.hart.rank) }).withHart
    (fun h => { h with held := if tile ∈ h.held then h.held else h.held ++ [tile] })).retire

/-- TKWAIT (13 R359): waits until its ticket is served. -/
def execTkwait (rs1 rs2 : Reg) (s : State) : Out :=
  let v := s.getX rs1
  let k : BitVec 32 := field (s.getX rs2) 0 32
  let r : Res Unit := match tileOf s rs1 with
    | none => .trap 0x11 v
    | some tile =>
      let p := ticketOf s tile
      if (p.t - p.s).toNat ≤ (k - p.s).toNat then .trap 0x11 v
      else if p.s = k then .ok () (s.grantTile (clusterOf s.hart.core) tile)
      else .need (.wait (.ticket tile k (clusterOf s.hart.core)))
  r.finish s

/-- TKWAIT_GRANT (13 R359): the waiting hart's ticket is served now, on the cluster where it began to wait. -/
def execTkwaitGrant (h : HartRef) (s : State) : Out :=
  s.asHart h fun s =>
  match s.hart.wait with
  | .ticket tile k cl => if (ticketAt s cl tile).s = k then .next (s.grantTile cl tile) else .next s
  | _ => .next s

/-- A hart holds the serving ticket of a pair. -/
def Hart.holds (h : Hart) (t : Ticket) : Bool := t.ctx = h.ctx && t.holder = some (h.gang, h.rank)

/-- The pair of a tile whose serving ticket the current hart holds: on its cluster, or on the one it held it on before a pre-emption took it
elsewhere (13 R358; DEDUCED, log 53). -/
def heldPair (s : State) (tile : BitVec 20) : Ticket :=
  let mine := s.tickets.filter (fun t => s.hart.holds t && t.tile = tile)
  ((mine.find? (fun t => t.cl = clusterOf s.hart.core)).orElse (fun _ => mine.head?)).getD (ticketOf s tile)

/-- The serving counter of a held tile advances, and the hart no longer holds it (13 R358, R359). -/
def State.doneTile (s : State) (tile : BitVec 20) : State :=
  let p := heldPair s tile
  let s := s.putTicket { p with s := p.s + 1, holder := none }
  let more := s.tickets.any (fun t => s.hart.holds t && t.tile = tile)
  s.withHart (fun h => { h with held := if more then h.held else h.held.filter (fun t => t ≠ tile) })

/-- A hart that ends is done with every tile it holds (13 R358). -/
def State.doneTiles (s : State) : State :=
  { s with tickets := s.tickets.map (fun t => if s.hart.holds t then { t with s := t.s + 1, holder := none } else t) }.withHart
    (fun h => { h with held := [] })

/-- TKDONE (13 R359): a cluster-scope release, then the serving counter advances. -/
def execTkdone (rs1 : Reg) (s : State) : Out :=
  let v := s.getX rs1
  let r : Res Unit := match tileOf s rs1 with
    | none => .trap 0x11 v
    | some tile =>
      if tile ∈ s.hart.held then released s (fun s => .ok () (s.doneTile tile).retire) else .trap 0x11 v
  r.finish s

end Sys2Proof.Machine
end

