-- ==== Sys2Proof/Machine/Save.lean ====
section
/-!
DEFINITION. Save frames and the saved state of harts (10 R260 to R266, R470): what a save writes into a gang's frame, and what a
resumption loads from it.
-/
namespace Sys2Proof.Machine

/-! ### The frame (10 R263, R264, R470) -/

/-- vmax of a frame (10 R264). -/
def frameVmax (g : Gang) : Nat := if wbit g.task.w0 25 then 8192 else g.grant.toNat

/-- Hb of a frame (10 R264). -/
def frameHb (g : Gang) : Nat := roundUp (4096 + 40 * frameVmax g + 65536 * tilesOf g.task) 4096

/-- Frame size in bytes (10 R264). -/
def frameSize (g : Gang) : Nat := roundUp (4096 + 24576 * banksOf g.task + (gszOf g.task + 1) * frameHb g) 65536

/-- Offset of a rank's hart area (10 Table 10.7). -/
def frameHart (g : Gang) (rank : Nat) : Nat := 4096 + 24576 * banksOf g.task + rank * frameHb g

/-- Bytes of the context's pool and its virtual base, from `ssvpool` (10 R263). -/
def poolOf (x : Ctx) : Nat × Nat :=
  let n := wfield x.ssvpool 0 5
  ((wfield x.ssvpool 16 32) <<< 16, if 1 ≤ n ∧ n ≤ 20 then 2 ^ n * 65536 else 0)

/-- The lowest free unit of the pool at which so many units fit (10 R263). -/
def findFrame (used : List (Nat × Nat)) (units total : Nat) : Nat → Nat → Option Nat
  | 0, _ => none
  | fuel + 1, at' =>
    if total < at' + units then none
    else
      match used.find? (fun u => at' < u.1 + u.2 ∧ u.1 < at' + units) with
      | none => some at'
      | some u => findFrame used units total fuel (u.1 + u.2)

/-- Allocate a gang's frame; its virtual base, or none when none fits (10 R263). -/
def allocFrame (s : State) (g : Gang) : Option Nat × State :=
  let x := s.ctx g.ctx
  let (base, size) := poolOf x
  let units := frameSize g / 65536
  match findFrame x.frames units (size / 65536) (x.frames.length + 1) 0 with
  | none => (none, s)
  | some u => (some (base + 65536 * u), s.modCtx g.ctx (fun x => { x with frames := x.frames ++ [(u, units)] }))

/-- Free a gang's frame (10 R263). -/
def freeFrame (s : State) (g : Gang) : State :=
  match g.frame with
  | none => s
  | some f => s.modCtx g.ctx (fun x => { x with frames := x.frames.filter (fun u => (poolOf x).1 + 65536 * u.1 ≠ f) })

/-- A save or restore access that faulted: the cause and the address (10 R265). -/
abbrev FrameFault := BitVec 8 × Word

/-- Physical address of a frame byte: local, class D, with R, W, A and D set and U = 0 (10 R265). -/
def framePhys (s : State) (c : BitVec 8) (va : Nat) (k : Kind) : Except FrameFault Nat :=
  match if (walkReads s (fun _ => none) va 3 (rootOf s c)).any (fun r => poisoned s r.2 8) then none else some (walk s c va) with
  | none => .error (0x15, BitVec.ofNat 64 va)
  | some none => .error (k.pageFault, BitVec.ofNat 64 va)
  | some (some (e, bits)) =>
    let pa := (wfield e 12 40) <<< 12 + va % 2 ^ bits
    if ¬ permits e .load true ∨ ¬ permits e .store true then .error (k.pageFault, BitVec.ofNat 64 va)
    else if wbit e 4 ∨ wfield e 8 2 ≠ 0 ∨ wfield e 10 2 ≠ 0 ∨ contextTop ≤ pa then .error (k.accessFault, BitVec.ofNat 64 va)
    else .ok pa

/-- The cores' copies of the lines of a byte range are recalled or merged, and for a write invalidated (08 R197, R200). -/
def State.homeRange (s : State) (pa n : Nat) (writes : Bool) : State :=
  let one (d : Nat × DirLine) : Nat × DirLine := if pa / 128 ≤ d.1 ∧ d.1 ≤ (pa + n - 1) / 128 then (d.1, d.2.home writes) else d
  { s with dir := (s.dir.map one).filter (fun d => d.2 ≠ DirLine.empty) }

/-- Write bytes into a frame, page by page. -/
def frameWrite (s : State) (c : BitVec 8) : Nat → Nat → List Byte → Except FrameFault State
  | 0, _, _ => .ok s
  | fuel + 1, va, bs =>
    if bs = [] then .ok s
    else
      let n := 4096 - va % 4096
      match framePhys s c va .store with
      | .error f => .error f
      | .ok pa => frameWrite ((s.homeRange pa (bs.take n).length true).putMem pa (bs.take n)) c fuel (va + n) (bs.drop n)

/-- Read bytes of a frame, page by page. -/
def frameRead (s : State) (c : BitVec 8) : Nat → Nat → Nat → Except FrameFault (List Byte)
  | 0, _, _ => .ok []
  | fuel + 1, va, n =>
    if n = 0 then .ok []
    else
      let m := min n (4096 - va % 4096)
      match framePhys s c va .load with
      | .error f => .error f
      | .ok pa =>
        if poisoned s pa m then .error (0x15, BitVec.ofNat 64 va)
        else
          match frameRead s c fuel (va + m) (n - m) with
          | .error f => .error f
          | .ok bs => .ok (memRead s.mem pa m ++ bs)

/-- Pages that so many bytes can meet. -/
def pages (n : Nat) : Nat := n / 4096 + 2

/-- Write and go on. -/
def fput (c : BitVec 8) (va : Nat) (bs : List Byte) (s : State) : Except FrameFault State := frameWrite s c (pages bs.length) va bs

/-- The 512 user, supervisor and other CSR slots of a hart's control area, as a read returns them (10 Table 10.7b). -/
def csrSlots (s : State) : List (Nat × Word) :=
  let v (n : Nat) : Word := (csrRead s n).getD 0
  (List.range 64).map (fun i => (0x200 + 8 * i, if i = 2 ∨ i = 3 then 0 else v (0x800 + i)))
    ++ (List.range 6).map (fun i => (0x400 + 8 * i, v (0x500 + i)))
    ++ (List.range 12).map (fun i => (0x430 + 8 * i, v (0xC20 + i)))
    ++ [(0x490, v 0xC38), (0x498, v 0xC39)]

/-- The order number of an owed interrupt among the owed ones (10 R470). -/
def owedPlace (h : Hart) (x : Xfer) : Nat := (h.owed.filter (fun y => y.order < x.order)).length

/-- A transfer's status word (09 Table 9.2). -/
def Xfer.status (x : Xfer) : Nat :=
  (match x.state with
    | .running => 1
    | .done => 2
    | .failed => 3) <<< 62 + x.code.toNat <<< 48 + (if x.state = .failed then x.addr.toNat else 0)

/-- The transfer status table of a hart in its frame, 32 entries of 16 bytes (10 R470). -/
def xferBytes (h : Hart) : List Byte :=
  let one (x : Xfer) : List Byte :=
    leBytes 8 (x.status + (if x.irq ∧ x.state ≠ .running then owedPlace h x <<< 56 else 0))
      ++ leBytes 8 (x.id.toNat <<< 48 + (x.handler.toNat / 4) <<< 2 + 2 * x.irq.toNat + 1)
  ((h.xfers.take 32).flatMap one) ++ List.replicate (512 - 16 * (min h.xfers.length 32)) 0

/-- The control area of the current hart, 0xF00 bytes from + 0x100 (10 Tables 10.7, 10.7b, R470); `saved` is the saved map. -/
def controlBytes (s : State) (saved : Nat) : List Byte :=
  let h := s.hart
  let put (b : List Byte) (p : Nat × Word) : List Byte := b.take (p.1 - 0x100) ++ leBytes 8 p.2.toNat ++ b.drop (p.1 - 0x100 + 8)
  ([(0x100, h.pc), (0x108, flag h.sup), (0x110, BitVec.ofNat 64 saved), (0x118, h.vlb0.setWidth 64)] ++ csrSlots s).foldl put
    (List.replicate 0x400 0) ++ xferBytes h ++ List.replicate 0x900 0

/-- The saved map already in a rank's control area, empty before the first save (log 15). -/
def savedMap (s : State) (g : Gang) (f rank : Nat) : Except FrameFault Nat :=
  if ¬ wbit g.framed rank then .ok 0 else (frameRead s g.ctx 2 (f + frameHart g rank + 0x110) 8).map leNat

/-- A register or tile that a save would write has an uncorrectable error (02 R53). -/
def Hart.badImage (h : Hart) : Bool := h.vdirty.toNat &&& (h.vbad.toNat + h.abad.toNat <<< 40) ≠ 0

/-- Write the current hart's images into its frame (10 R262, R264, R470): x registers, control area, and every register whose
`vdirty` bit is 1. -/
def saveImages (s : State) (g : Gang) (f : Nat) : Except FrameFault State := do
  let h := s.hart
  let base := f + frameHart g h.rank.toNat
  let n := h.vlb.toNat
  let vm := frameVmax g
  let _ ← if h.badImage then .error (0x15, BitVec.ofNat 64 base) else (.ok () : Except FrameFault Unit)
  let old ← savedMap s g f h.rank.toNat
  let map := old ||| h.vdirty.toNat
  let s ← fput g.ctx base ((List.range 32).flatMap (fun i => leBytes 8 (s.getX (BitVec.ofNat 5 i)).toNat)) s
  let s ← fput g.ctx (base + 0x100) (controlBytes s map) s
  let s ← (List.range 8).foldlM
    (fun s i => if wbit h.vdirty (32 + i) then fput g.ctx (base + 0x1000 + i * vm) (leBytes n (h.m.toList.getD i 0)) s else .ok s) s
  let s ← (List.range 32).foldlM
    (fun s i => if wbit h.vdirty i then fput g.ctx (base + 0x1000 + 8 * vm + i * vm) (leBytes n (h.v.toList.getD i 0)) s else .ok s) s
  let s ← (List.range h.tiles.toNat).foldlM
    (fun s i => if wbit h.vdirty (40 + i) then
        fput g.ctx (base + 0x1000 + 40 * vm + 65536 * i) (leBytes 65536 (h.acc.toList.getD i 0)) s
      else .ok s) s
  .ok (s.modGang h.gang (fun g => { g with framed := g.framed ||| BitVec.twoPow 64 h.rank.toNat }))

/-- The gang block of a frame (10 Table 10.7a), and the images of keep and F banks (Table 10.7). -/
def saveGang (s : State) (id : Nat) (g : Gang) (f : Nat) : Except FrameFault State := do
  let bank (k : Nat) : Bank := s.bank (192 * g.cluster.toNat + g.banks.getD k 0)
  let bw (k : Nat) : List Byte :=
    let b := bank k
    leBytes 8 (b.keep.toNat + b.mode.code <<< 1 + b.stream.toNat <<< 4)
      ++ leBytes 8 (if b.mode = .F then b.head <<< 32 + b.tail <<< 16 + b.arr else 0)
  let blk := [id, g.queue.toNat + g.prio.toNat <<< 16, g.task.w0.toNat, g.task.w2.toNat, g.barGen.toNat, g.barArr.toNat,
    g.ended.toNat, 0].flatMap (leBytes 8) ++ (List.range g.banks.length).flatMap bw
  let s ← fput g.ctx f (blk ++ List.replicate (4096 - blk.length) 0) s
  (List.range g.banks.length).foldlM
    (fun s k => if (bank k).keep ∨ (bank k).mode = .F then fput g.ctx (f + 0x1000 + 24576 * k) (leBytes 24576 (bank k).data) s
      else .ok s) s

/-- Bit [1] of the state word of each ended rank (10 R470). -/
def endedWords (s : State) (g : Gang) (f : Nat) : Except FrameFault State :=
  (List.range (gszOf g.task + 1)).foldlM (fun s r => if wbit g.ended r then fput g.ctx (f + frameHart g r + 0x108) (leBytes 8 2) s else .ok s) s

/-- A value of an Except frame operation as a state: a fault in a save or a restore is a fatal fault of the context
(10 R265). -/
def frameOr (s : State) (c : BitVec 8) (gang : BitVec 16) (pc : Word) (r : Except FrameFault State) : State :=
  match r with
  | .ok s => s
  | .error (cause, addr) => s.fatalError c cause gang pc addr

/-- Everything R260 waits for before a hart is saved; the acknowledgements of its posted writes too (log 10). -/
def saveReady (s : State) : Bool :=
  s.hart.disp.isEmpty && s.hart.stripDue.isEmpty && s.hart.replies.isEmpty
    && !s.hart.xfers.any (fun x => x.state = .running ∧ ¬ x.sort)
    && !(s.core s.hart.core).send.any (fun e => e.2.gang = s.hart.gang && e.2.rank = s.hart.rank)
    && !wbit s.hart.bkcmd 63
    && !s.hart.posted.any (fun p => !p.failed) && !s.inTransit s.hart.gang s.hart.rank
    && (match s.hart.wait with
        | .stv _ _ => false
        | .reply _ => false
        | _ => true)

/-- A wait a hart may be saved in (10 R260); a VISWAIT only under the precise policy (13 R355). -/
def savableWait (w : Wait) (precise : Bool) : Bool :=
  match w with
  | .none => true
  | .ticket _ _ _ => true
  | .hwait _ _ _ _ => true
  | .gbar => true
  | .viswait _ => precise
  | _ => false

/-- How a saved hart goes on at its pc: it waits for its ticket as before, and an HWAIT begins again before anything else (10 R260, 13 R362). -/
def Hart.resumes (h : Hart) : Option (Word × Wait) :=
  match h.wait with
  | .ticket t k cl => some (h.pc, .ticket t k cl)
  | .hwait _ _ _ _ => some (h.pc, .drain)
  | _ => none

/-- What a saved rank keeps beside its frame. -/
def Hart.carry (h : Hart) (cycles : Nat) : Carry :=
  { vlb := h.vlb, instret := h.instret, dtimeLast := h.dtimeLast, stripCycles := cycles - h.stripStart, stripCoins := h.stripCoins
    stripArith := h.stripArith, stripMem := h.stripMem, posted := h.posted, postSeq := h.postSeq, maxV := h.maxV
    xferEnded := h.xferEnded, sorts := (h.xfers.filter (fun x => x.sort)).map (fun x => x.id), ended := []
    resume := h.resumes }

/-- The current hart is saved: its images go to the frame and its links break (10 R260 to R265); `boundary` when it stands at
VSETVL.B or VSETSHAPE.B (05 R135). -/
def State.saveHart (s : State) (boundary : Bool) : State :=
  match tget s.gangs s.hart.gang.toNat with
  | none => s
  | some g =>
    match g.frame with
    | none => s
    | some f =>
      let h := s.hart
      match saveImages s g f with
      | .error (cause, addr) => s.fatalError g.ctx cause h.gang h.pc addr
      | .ok s =>
        let bit := BitVec.twoPow 64 h.rank.toNat
        let s := s.modGang h.gang (fun g =>
          { g with savedRanks := g.savedRanks ||| bit, boundary := if boundary then g.boundary ||| bit else g.boundary
                   carry := tset g.carry h.rank.toNat (h.carry s.cycles) })
        let s := { s with linkTable := s.linkTable.filter (fun e => ¬ h.who.owns s.fab.devid e) }
        s.withHart (fun h => { h with wait := .saved, vdirty := 0, link := none, vlinkOpen := false })

/-- All living ranks of the gang are saved. -/
def allSaved (g : Gang) : Bool :=
  let all : BitVec 64 := BitVec.ofNat 64 (2 ^ (gszOf g.task + 1) - 1)
  g.savedRanks ||| g.ended = all

/-- The last hart of the gang is saved: the gang block and its banks are written, and its resources are freed (10 R260,
07 R181). -/
def State.saveGangEnd (s : State) (id : BitVec 16) : State :=
  match tget s.gangs id.toNat with
  | none => s
  | some g =>
    match g.frame with
    | none => s
    | some f =>
      let s := frameOr s g.ctx id 0 (do endedWords (← saveGang s id.toNat g f) g f)
      if (s.ctx g.ctx).state ≠ .running then s
      else
      let s := (s.gangHarts id).foldl (fun s h => s.freeHart h) s
      let s := s.freeGangBanks g
      (s.modGang id (fun g => { g with saved := true, preempt := false, banks := [] })).stopDone g.ctx

/-- Save the current hart, and end its gang's save when it is the last. -/
def State.saveNow (s : State) (boundary : Bool) : State :=
  let id := s.hart.gang
  let s := s.saveHart boundary
  match tget s.gangs id.toNat with
  | some g => if allSaved g ∧ (s.ctx g.ctx).state = .running then s.saveGangEnd id else s
  | none => s

end Sys2Proof.Machine
end

