-- ==== Sys2Proof/Machine/Invoke.lean ====
section
/-!
DEFINITION. Remote invocation (04): XCALL and its send queue, the packets of a call, what a call meets on arrival, and its
reports at the caller.
-/
namespace Sys2Proof.Machine

/-! ### The call descriptor (04 R97, R99) -/

/-- The target context's global id. -/
def descGid (d : TaskRec) : BitVec 20 := field d.w0 44 20
/-- The target device. -/
def descDev (d : TaskRec) : BitVec 12 := field d.w0 32 12
/-- The requested priority. -/
def descPri (d : TaskRec) : BitVec 3 := field d.w0 13 3
/-- The flags early, evt, cmpl. -/
def descFlags (d : TaskRec) : BitVec 3 := field d.w0 0 3
/-- early: report acceptance at queueing. -/
def flagEarly (f : BitVec 3) : Bool := wbit f 2
/-- evt: post an XCALL completion event. -/
def flagEvt (f : BitVec 3) : Bool := wbit f 1
/-- cmpl: write a completion record. -/
def flagCmpl (f : BitVec 3) : Bool := wbit f 0

/-- A ring's log2 and base, from descriptor word 1. -/
def ringOf (w : Word) : Nat × Nat := (wfield w 0 5, (wfield w 12 36) <<< 12)

/-- descriptor_bad (04 R99). -/
def descBad (d : TaskRec) : Bool :=
  descDev d ≠ field (descGid d) 8 12 ∨ descDev d = 0xFFF ∨ wfield d.w0 3 10 ≠ 0 ∨ wfield d.w1 48 16 ≠ 0 ∨ wfield d.w1 5 7 ≠ 0
    ∨ (flagCmpl (descFlags d) ∧ ((ringOf d.w1).2 = 0 ∨ (ringOf d.w1).1 < 1 ∨ 16 < (ringOf d.w1).1))
    ∨ (flagEarly (descFlags d) ∧ ¬ flagCmpl (descFlags d) ∧ ¬ flagEvt (descFlags d))

/-- The lowest free entry of a send queue (04 R101). -/
def freeEntry (t : Table SendEntry) : Option Nat := (List.range 64).find? (fun i => (tget t i).isNone)

/-- The entry an XCALL of the current hart makes (04 R98, R101): the descriptor, the tag and the caller as they are now. -/
def sendEntryOf (s : State) (d : TaskRec) (tag : BitVec 16) (gen : BitVec 16) (order : Nat) : SendEntry :=
  { slot := s.hart.slot, ctx := s.hart.ctx, gang := s.hart.gang, rank := s.hart.rank, gen := gen, callTag := tag
    epoch := (s.ctx s.hart.ctx).epoch, desc := d, order := order, rel := s.hart.release
    abort := s.hart.posted.any (fun p => p.failed), sent := false, since := 0 }

/-- Put a call into the send queue of the current hart's core: the result code of XCALL. -/
def State.enter (s : State) (d : TaskRec) (tag : BitVec 16) : Word × State :=
  let c := s.core s.hart.core
  match freeEntry c.send with
  | none => (1, s)
  | some i =>
    let gen := tgetD c.sendGen i 0 + 1
    let order := (c.send.map (fun e => e.2.order + 1)).foldl max 0
    (0, s.writeHome.modCore s.hart.core (fun c =>
      { c with send := tset c.send i (sendEntryOf s d tag gen order), sendGen := tset c.sendGen i gen }))

/-- XCALL (04 R98). -/
def execXcall (rd rs1 rs2 : Reg) (s : State) : Out :=
  let a := s.getX rs1
  let tag : BitVec 16 := field (s.getX rs2) 0 16
  ((loadTask s a).bind fun d s =>
    if descBad d then .trap 0x0F a
    else
      let (r, s) := s.enter d tag
      .ok () (s.setX rd r).retire).finish s

/-! ### Reports (04 R105, R110, R111) -/

/-- The caller's side of a call id: its context, epoch, core, entry and generation. -/
structure CallId where
  ctx : BitVec 8
  epoch : BitVec 8
  core : BitVec 8
  entry : BitVec 6
  gen : BitVec 16
  deriving DecidableEq, Repr

/-- The content of a completion packet (04 Table 4.5). -/
def reportWords (r : Report) (i : CallId) (ending : Bool) : List Word :=
  [BitVec.ofNat 64 (r.tgid.toNat <<< 44 + i.epoch.toNat <<< 36 + i.core.toNat <<< 28 + i.entry.toNat <<< 22 + ending.toNat <<< 21
      + r.outcome.toNat <<< 8 + r.hint.toNat),
   BitVec.ofNat 64 (r.version.toNat <<< 48 + i.gen.toNat <<< 19 + r.flags.toNat <<< 16 + r.tag.toNat),
   BitVec.ofNat 64 (r.handler.toNat <<< 48 + wfield r.ring 0 48)]

/-- A word of a packet's content, 0 where it has none. -/
def pword (p : Packet) (i : Nat) : Word := p.body.getD i 0

/-- The report and the call id in a completion packet. -/
def preport (p : Packet) : Report × CallId × Bool :=
  let a := pword p 0
  let b := pword p 1
  let c := pword p 2
  ({ tgid := field a 44 20, outcome := field a 8 8, hint := field a 0 8, version := field b 48 16, flags := field b 16 3
     tag := field b 0 16, handler := field c 48 16, ring := keepField c 0 48 },
   { ctx := p.ctx, epoch := field a 36 8, core := field a 28 8, entry := field a 22 6, gen := field b 19 16 }, wbit a 21)

/-- Send a completion packet to a caller's device on the channel of a priority (04 R105). -/
def State.sendReport (s : State) (dst : BitVec 12) (pri : BitVec 3) (r : Report) (i : CallId) (ending : Bool) : State :=
  (s.sendPacket { s.mkPacket dst 2 1 0 i.ctx (reportWords r i ending) with chan := chanInv pri }).2

/-- Whether a report of an outcome writes anything (04 Table 4.7). -/
def reportShown (r : Report) : Bool := r.outcome ≠ 0 ∨ flagEarly r.flags

/-- The event of a report, with its record's seq, or 0 without one (04 R110). -/
def State.reportEvent (s : State) (c : BitVec 8) (r : Report) (seq : Nat) : State :=
  if r.outcome = 7 then s.postEvent c 0x15 0x15 (r.tag.setWidth 64) (r.tgid.setWidth 64) 0x12 0 0
  else if flagEvt r.flags then
    s.postEvent c 0x10 0x10 (r.tag.setWidth 64) (r.outcome.setWidth 64) (r.tgid.setWidth 64) (r.version.setWidth 64)
      (BitVec.ofNat 64 seq)
  else s

/-- A number that names no record in writing. -/
def ringId (s : State) : Nat :=
  let asked (r : Request) : Option Nat := match r.waiter with
    | .ring id => some id
    | _ => none
  (s.rings.map RingJob.id ++ s.fab.reqs.filterMap asked).foldl max 0 + 1

/-- What a report does at the caller: the record, then the event (04 R110). -/
def State.reported (s : State) (c : BitVec 8) (r : Report) : State :=
  if (s.ctx c).state = .resetting ∨ ¬ reportShown r then s
  else if flagCmpl r.flags then
    { s with rings := s.rings ++ [{ id := ringId s, ctx := c, report := r, seq := none, vis := none, replies := [], waiting := false }] }
  else s.reportEvent c r 0

/-- Free a send-queue entry (04 R110). -/
def State.freeSend (s : State) (core : BitVec 8) (entry : BitVec 6) : State :=
  s.modCore core (fun c => { c with send := tdel c.send entry.toNat })

/-- ARRIVAL_REPORT (04 R110): matched by call id and epoch. -/
def execArrivalReport (p : Packet) (s : State) : Out :=
  let (r, i, _) := preport p
  match tget (s.core i.core).send i.entry.toNat with
  | none => .next s
  | some e =>
    if e.gen ≠ i.gen ∨ ¬ e.sent ∨ e.ctx ≠ i.ctx then .next s
    else
      let s := s.freeSend i.core i.entry
      if (s.ctx i.ctx).epoch = i.epoch then .next (s.reported i.ctx r) else .next s

/-- END_REPORT (04 R110). -/
def execEndReport (p : Packet) (s : State) : Out :=
  let (r, i, _) := preport p
  if (s.ctx i.ctx).epoch = i.epoch then .next (s.reported i.ctx r) else .next s

/-! ### Sending (04 R100 to R103, R112) -/

/-- The content of a call packet (04 Table 4.4). -/
def callWords (s : State) (core : BitVec 8) (entry : Nat) (e : SendEntry) : List Word :=
  [BitVec.ofNat 64 ((gidOf s e.ctx).toNat <<< 44 + e.epoch.toNat <<< 36 + (descPri e.desc).toNat <<< 33 + wfield e.desc.w0 16 16 <<< 16),
   BitVec.ofNat 64 (e.gen.toNat <<< 40 + core.toNat <<< 32 + entry <<< 26 + (descFlags e.desc).toNat <<< 16 + e.callTag.toNat),
   e.desc.w1, e.desc.w2, e.desc.w3, e.desc.w4, e.desc.w5, e.desc.w6, e.desc.w7]

/-- An earlier call of the same hart to the same context holds this one back (04 R101). -/
def heldBack (t : Table SendEntry) (e : SendEntry) : Bool :=
  t.any (fun p => p.2.order < e.order && p.2.ctx = e.ctx && p.2.gang = e.gang && p.2.rank = e.rank && descGid p.2.desc = descGid e.desc
    && (!p.2.sent || chanInv (descPri p.2.desc) ≠ chanInv (descPri e.desc)))

/-- One of the writes an unsent call waits for has failed (04 R100). -/
def callAborted (s : State) (e : SendEntry) : Bool :=
  e.abort || s.allHarts.any (fun h => h.gang = e.gang && h.rank = e.rank && h.posted.any (fun p => p.seq < e.rel.seq && p.failed))

/-- The report of a call that ends at its own device: LOST or ABORTED. -/
def localReport (e : SendEntry) (outcome : BitVec 8) : Report :=
  { tgid := descGid e.desc, outcome := outcome, hint := 0, version := 0, flags := descFlags e.desc, tag := e.callTag
    handler := field e.desc.w0 16 16, ring := keepField e.desc.w1 0 48 }

/-- A call ends at its own device. -/
def State.endLocal (s : State) (core : BitVec 8) (entry : BitVec 6) (e : SendEntry) (outcome : BitVec 8) : State :=
  let s := s.freeSend core entry
  if (s.ctx e.ctx).epoch = e.epoch then s.reported e.ctx (localReport e outcome) else s

/-- XCALL_PACKET_SEND (04 R100, R101, R103): the packet leaves once the hart's earlier writes are complete. -/
def execXcallPacketSend (core : BitVec 8) (entry : BitVec 6) (s : State) : Out :=
  match tget (s.core core).send entry.toNat with
  | none => .next s
  | some e =>
    if e.sent then .next s
    else if callAborted s e then .next (s.endLocal core entry e 0x0A)
    else if ¬ writesDone s e.rel ∨ heldBack (s.core core).send e then .next s
    else
      let p := { s.mkPacket (descDev e.desc) 2 0 0 (field (descGid e.desc) 0 8) (callWords s core entry.toNat e) with
                 chan := chanInv (descPri e.desc) }
      let s := (s.sendPacket p).2
      .next (s.modCore core (fun c =>
        { c with send := tset c.send entry.toNat { e with sent := true, since := s.pkg.dtime.toNat } }))

/-- CALL_LOST (04 R112): no arrival report within twice the link-recovery limit. -/
def execCallLost (core : BitVec 8) (entry : BitVec 6) (s : State) : Out :=
  match tget (s.core core).send entry.toNat with
  | none => .next s
  | some e =>
    if e.sent ∧ e.since + 2 * lrTicks s ≤ s.pkg.dtime.toNat then .next (s.endLocal core entry e 0x08) else .next s

/-! ### Arrival (04 R96, R106 to R109) -/

/-- The cap of the first permission entry that admits a caller to a context (04 R96). -/
def xpermCap (s : State) (g : BitVec 20) (c : BitVec 8) : Option (BitVec 3) :=
  if g = gidOf s c then some 7
  else
    (s.fab.xperm.find? (fun p => wbit p.2 63 ∧ field p.2 48 8 = c
      ∧ g &&& field p.2 8 20 = field p.2 28 20 &&& field p.2 8 20)).map (fun p => field p.2 60 3)

/-- The entry's self, local or remote bit admits the caller (04 Table 4.6 step 5). -/
def admits (s : State) (h : Handler) (g : BitVec 20) (c : BitVec 8) : Bool :=
  if g = gidOf s c then h.self else if field g 8 12 = s.fab.devid then h.loc else h.remote

/-- The least of three priorities (04 R96). -/
def effPri (a b c : BitVec 3) : BitVec 3 := BitVec.ofNat 3 (min a.toNat (min b.toNat c.toNat))

/-- The task record of an accepted call (04 R107). -/
def callTask (idx : BitVec 16) (shape : BitVec 20) (pri : BitVec 3) (slot : Option Nat) (a : Nat → Word) : TaskRec :=
  { w0 := BitVec.ofNat 64 (idx.toNat + shape.toNat <<< 16 + pri.toNat <<< 36 + slot.elim 0 (fun k => 1 <<< 47 + k <<< 48))
    w1 := a 5, w2 := 0, w3 := a 0, w4 := a 1, w5 := a 2, w6 := a 3, w7 := a 4 }

/-- The lowest free entry of the return table (04 R108). -/
def freeReturn (t : Table RetSlot) : Option Nat :=
  if 16384 ≤ t.length then none else (List.range (t.length + 1)).find? (fun i => (tget t i).isNone)

/-- What a call meets on arrival: outcome, hint, version, effective priority, and the state after it. -/
structure Met where
  outcome : BitVec 8
  hint : BitVec 8
  version : BitVec 16
  pri : BitVec 3
  state : State

/-- A task record is appended to the owning context's overflow ring, with its spill event (03 R79). -/
def State.spill (s : State) (c : BitVec 8) (q : BitVec 16) (t : TaskRec) (fromHost : Bool) : Option State :=
  (s.spillTo c t).map (fun s =>
    s.postEvent c 0x11 0x11 ((s.ctx c).ovtail.setWidth 64) (q.setWidth 64) (flag fromHost) 0 0)

/-- Steps 6 to 10 of 04 Table 4.6 for a usable entry that admits the caller. -/
def meetQueue (s : State) (p : Packet) (h : Handler) (g : BitVec 20) (pri : BitVec 3) (idx : BitVec 16) : Met :=
  let c := p.ctx
  let flags : BitVec 3 := field (pword p 1) 16 3
  let wantSlot : Bool := flagCmpl flags && !flagEarly flags
  match (tget s.queues h.queue.toNat).filter (fun d => d.ctx = c) with
  | none =>
    { outcome := 5, hint := 0, version := h.version, pri := pri
      state := s.postFault c (faultRec s 4 0 0xFFFF idx h.queue 0 0) }
  | some d =>
    let busy (hint : BitVec 8) : Met := { outcome := 3, hint := hint, version := h.version, pri := pri, state := s }
    let slot := if wantSlot then freeReturn s.retTable else none
    if wantSlot ∧ slot.isNone then busy 1
    else if d.depth < capRecords d.cap then
      let t := callTask idx h.shape pri slot (fun i => pword p (3 + i))
      let r : RetSlot := { gid := g, epoch := field (pword p 0) 36 8, ctx := c, core := field (pword p 1) 32 8
                           entry := field (pword p 1) 26 6, gen := field (pword p 1) 40 16, flags := flags
                           callTag := field (pword p 1) 0 16, handler := idx, version := h.version, ring := pword p 2, pri := pri
                           bad := false }
      let s := match slot with
        | some k => { s with retTable := tset s.retTable k r }
        | none => s
      { outcome := 0, hint := 0, version := h.version, pri := pri, state := s.append h.queue (qrec t (some h.pc) c h.version) }
    else
      match (if h.spill then s.spill c h.queue (callTask idx h.shape pri none (fun i => pword p (3 + i))) false else none) with
      | some s => { outcome := 4, hint := 0, version := h.version, pri := pri, state := s }
      | none => busy (BitVec.ofNat 8 (min 255 (cdiv d.depth 16)))

/-- The steps of 04 Table 4.6, in order. -/
def meet (s : State) (p : Packet) : Met :=
  let c := p.ctx
  let g : BitVec 20 := field (pword p 0) 44 20
  let idx : BitVec 16 := field (pword p 0) 16 16
  let dpri : BitVec 3 := field (pword p 0) 33 3
  let out (o hint : BitVec 8) (v : BitVec 16) (s : State) : Met := { outcome := o, hint := hint, version := v, pri := dpri, state := s }
  let st := (s.ctx c).state
  match xpermCap s g c with
  | none => out 7 0 0 s
  | some cap =>
    if st ≠ .running ∧ st ≠ .stopped then out 5 0 0 s
    else
      match handlerLookup s c idx.toNat with
      | .none addr cause => out 5 0 0 ((if cause = 0x15 then s.countUe else s).postFault c (faultRec s 4 cause 0xFFFF idx 0xFFFF addr 0))
      | .entry h =>
        let pri := effPri dpri cap h.maxpri
        if ¬ taskOk (callTask idx h.shape pri none (fun _ => 0)) then
          out 5 0 0 (s.postFault c (faultRec s 4 0 0xFFFF idx 0xFFFF
            (BitVec.ofNat 64 ((wfield (s.ctx c).htbase 12 36) <<< 12 + 32 * idx.toNat)) 0))
        else if h.dis then { out 6 1 h.version s with pri := pri }
        else if ¬ admits s h g c then { out 7 0 h.version s with pri := pri }
        else meetQueue s p h g pri idx

/-- INVOCATION_CALL (04 R106): a call arrives, is decided, and its arrival report leaves. -/
def execInvocationCall (p : Packet) (s : State) : Out :=
  if wbit (pword p 0) 32 then .next s
  else
    let m := meet s p
    let r : Report := { tgid := gidOf s p.ctx, outcome := m.outcome, hint := m.hint, version := m.version
                        flags := field (pword p 1) 16 3, tag := field (pword p 1) 0 16, handler := field (pword p 0) 16 16
                        ring := keepField (pword p 2) 0 48 }
    let i : CallId := { ctx := field (pword p 0) 44 8, epoch := field (pword p 0) 36 8, core := field (pword p 1) 32 8
                        entry := field (pword p 1) 26 6, gen := field (pword p 1) 40 16 }
    .next (m.state.sendReport p.src m.pri r i false)

/-- TASK_END_REPORT (04 R108, R109): the oldest end report owed leaves, and its return slot is free. -/
def execTaskEndReport (s : State) : Out :=
  match s.reports.find? (fun e => e.rels.all (writesDone s)) with
  | none => .next s
  | some e =>
    let s := { s with reports := s.reports.erase e }
    match tget s.retTable e.rslot with
    | none => .next s
    | some k =>
      if k.bad then .next { s.countUe with retTable := tdel s.retTable e.rslot }
      else
        let r : Report := { tgid := gidOf s k.ctx, outcome := e.outcome, hint := 0, version := k.version, flags := k.flags
                            tag := k.callTag, handler := k.handler, ring := keepField k.ring 0 48 }
        let i : CallId := { ctx := field k.gid 0 8, epoch := k.epoch, core := k.core, entry := k.entry, gen := k.gen }
        .next (({ s with retTable := tdel s.retTable e.rslot }).sendReport (field k.gid 8 12) k.pri r i true)

end Sys2Proof.Machine
end

