-- ==== Sys2Proof/Machine/Float.lean ====
section
/-!
DEFINITION. Floating formats and their arithmetic (11 R283 to R292): exact values, one rounding, and the exception flags.
-/
namespace Sys2Proof.Machine

/-- A floating value: a NaN (signalling or not), an infinity, or (-1)^neg x m x 2^e, the zeros among them. -/
inductive Fv where
  | nan (sig : Bool)
  | inf (neg : Bool)
  | num (neg : Bool) (m : Nat) (e : Int)
  deriving DecidableEq, Repr

/-- What the top exponent field of a format holds (11 Table 11.2). -/
inductive Top where
  /-- infinities and NaNs -/
  | ieee
  /-- one NaN at all ones, else normal values -/
  | one
  /-- normal values only -/
  | full
  deriving DecidableEq, Repr

/-- A floating format: exponent bits, fraction bits, bias, and its top exponent. -/
structure Fmt where
  eb : Nat
  mb : Nat
  bias : Nat
  top : Top
  deriving DecidableEq, Repr

/-- FP64 (11 Table 11.2). -/
def fp64 : Fmt := { eb := 11, mb := 52, bias := 1023, top := .ieee }
/-- FP32. -/
def fp32 : Fmt := { eb := 8, mb := 23, bias := 127, top := .ieee }
/-- BF16. -/
def bf16 : Fmt := { eb := 8, mb := 7, bias := 127, top := .ieee }
/-- FP16. -/
def fp16 : Fmt := { eb := 5, mb := 10, bias := 15, top := .ieee }
/-- E5M2. -/
def e5m2 : Fmt := { eb := 5, mb := 2, bias := 15, top := .ieee }
/-- E4M3. -/
def e4m3 : Fmt := { eb := 4, mb := 3, bias := 7, top := .one }
/-- E3M2. -/
def e3m2 : Fmt := { eb := 3, mb := 2, bias := 3, top := .full }
/-- E2M3. -/
def e2m3 : Fmt := { eb := 2, mb := 3, bias := 1, top := .full }
/-- E2M1. -/
def e2m1 : Fmt := { eb := 2, mb := 1, bias := 1, top := .full }

/-- Bits of a format. -/
def Fmt.width (f : Fmt) : Nat := 1 + f.eb + f.mb

/-- The exponent of a format's subnormal quantum. -/
def Fmt.qmin (f : Fmt) : Int := 1 - (f.bias : Int) - f.mb

/-- The greatest finite encoding of a format, without its sign (11 Table 11.2). -/
def Fmt.maxBits (f : Fmt) : Nat :=
  match f.top with
  | .ieee => (2 ^ f.eb - 1) * 2 ^ f.mb - 1
  | .one => 2 ^ (f.eb + f.mb) - 2
  | .full => 2 ^ (f.eb + f.mb) - 1

/-- The canonical NaN (11 R284); a format without one gives 0. -/
def Fmt.nanBits (f : Fmt) : Nat :=
  match f.top with
  | .ieee => (2 ^ f.eb - 1) * 2 ^ f.mb + 2 ^ (f.mb - 1)
  | .one => 2 ^ (f.eb + f.mb) - 1
  | .full => 0

/-- The encoding of an infinity, where the format has one. -/
def Fmt.infBits (f : Fmt) : Nat := (2 ^ f.eb - 1) * 2 ^ f.mb

/-- A sign in front of the other bits of a format. -/
def Fmt.signed (f : Fmt) (neg : Bool) (bits : Nat) : Nat := neg.toNat * 2 ^ (f.eb + f.mb) + bits

/-- The value that an encoding denotes (11 R283, R284). -/
def Fmt.value (f : Fmt) (v : Nat) : Fv :=
  let neg := nbit v (f.eb + f.mb)
  let e := nfield v f.mb f.eb
  let m := nfield v 0 f.mb
  let finite : Fv := if e = 0 then .num neg m f.qmin else .num neg (2 ^ f.mb + m) (f.qmin + (e : Int) - 1)
  match f.top with
  | .ieee => if e = 2 ^ f.eb - 1 then (if m = 0 then .inf neg else .nan (!nbit m (f.mb - 1))) else finite
  | .one => if e = 2 ^ f.eb - 1 ∧ m = 2 ^ f.mb - 1 then .nan false else finite
  | .full => finite

/-! ### Flags (11 R287, Table 11.4) -/

/-- Invalid. -/
def fNV : BitVec 5 := 16
/-- Division by zero. -/
def fDZ : BitVec 5 := 8
/-- Overflow. -/
def fOF : BitVec 5 := 4
/-- Underflow. -/
def fUF : BitVec 5 := 2
/-- Inexact. -/
def fNX : BitVec 5 := 1

/-! ### Rounding (11 R286 to R290) -/

/-- m / 2^d rounded to an integer under a mode (0 RNE, 1 RTZ, 2 RDN, 3 RUP, 4 RMM) of a value of that sign; and whether it
was inexact. -/
def shiftRound (mode : Nat) (neg : Bool) (m d : Nat) : Nat × Bool :=
  let q := m >>> d
  let r := m % 2 ^ d
  let up : Bool :=
    match mode with
    | 0 => 2 * r > 2 ^ d || (2 * r = 2 ^ d && d ≠ 0 && q % 2 = 1)
    | 1 => false
    | 2 => neg && r ≠ 0
    | 3 => !neg && r ≠ 0
    | _ => 2 * r ≥ 2 ^ d && d ≠ 0
  (if up then q + 1 else q, r ≠ 0)

/-- m x 2^e in units of 2^q, rounded. -/
def quantize (mode : Nat) (neg : Bool) (m : Nat) (e q : Int) : Nat × Bool :=
  if q ≤ e then (m <<< (e - q).toNat, false) else shiftRound mode neg m (q - e).toNat

/-- Whether an overflow under a mode gives the greatest finite value (11 R289). -/
def toMax (mode : Nat) (neg : Bool) : Bool := mode = 1 || (mode = 2 && !neg) || (mode = 3 && neg)

/-- The result of an overflow (11 R289): encoding and flags. -/
def Fmt.overflow (f : Fmt) (mode : Nat) (sat neg : Bool) : Nat × BitVec 5 :=
  let bits :=
    if sat || toMax mode neg then f.maxBits
    else
      match f.top with
      | .ieee => f.infBits
      | .one => f.nanBits
      | .full => f.maxBits
  (f.signed neg bits, fOF ||| fNX)

/-- Round a number to a format (11 R286, R287, R289): encoding and flags. -/
def Fmt.roundNum (f : Fmt) (mode : Nat) (sat neg : Bool) (m : Nat) (e : Int) : Nat × BitVec 5 :=
  if m = 0 then (f.signed neg 0, 0)
  else
    let uq := (Nat.log2 m : Int) + e - f.mb
    let (um, _) := quantize mode neg m e uq
    let tiny : Bool := uq < f.qmin && !(um = 2 ^ (f.mb + 1) && uq + 1 = f.qmin)
    let q := max uq f.qmin
    let (n, inexact) := quantize mode neg m e q
    let bits := (q - f.qmin).toNat * 2 ^ f.mb + n
    if f.maxBits < bits then f.overflow mode sat neg
    else (f.signed neg bits, (if inexact then fNX else 0) ||| (if inexact && tiny then fUF else 0))

/-- Round a value to a format, with the special values of 11 Table 11.6: encoding and flags. -/
def Fmt.round (f : Fmt) (mode : Nat) (sat : Bool) (v : Fv) : Nat × BitVec 5 :=
  match v with
  | .num neg m e => f.roundNum mode sat neg m e
  | .nan sig =>
    match f.top with
    | .full => (0, fNV)
    | _ => (f.nanBits, if sig then fNV else 0)
  | .inf neg =>
    match f.top with
    | .ieee => if sat then (f.signed neg f.maxBits, fOF ||| fNX) else (f.signed neg f.infBits, 0)
    | .one => if sat then (f.signed neg f.maxBits, fOF ||| fNX) else (f.signed neg f.nanBits, fNV)
    | .full => (f.signed neg f.maxBits, fOF ||| fNX)

/-- An arithmetic result in a format: NaN results are canonical, and a signalling operand has raised NV already. -/
def Fmt.result (f : Fmt) (mode : Nat) (v : Fv) : Nat × BitVec 5 :=
  match v with
  | .nan _ => (f.nanBits, 0)
  | .inf neg => (f.signed neg f.infBits, 0)
  | .num neg m e => f.roundNum mode false neg m e

/-! ### Exact arithmetic -/

/-- The signed integer of a number in units of 2^q, for q at most its exponent. -/
def unitsOf (neg : Bool) (m : Nat) (e q : Int) : Int :=
  let v : Int := (m <<< (e - q).toNat : Nat)
  if neg then -v else v

/-- A signalling NaN among operands raises NV. -/
def Fv.sig (v : Fv) : BitVec 5 :=
  match v with
  | .nan true => fNV
  | _ => 0

/-- Is a NaN. -/
def Fv.isNan (v : Fv) : Bool :=
  match v with
  | .nan _ => true
  | _ => false

/-- The negated value. -/
def Fv.neg (v : Fv) : Fv :=
  match v with
  | .nan s => .nan s
  | .inf n => .inf !n
  | .num n m e => .num (!n) m e

/-- An integer in units of 2^q as a value; an exact zero sum takes the sign of `zneg`. -/
def ofUnits (v : Int) (q : Int) (zneg : Bool) : Fv := if v = 0 then .num zneg 0 0 else .num (v < 0) v.natAbs q

/-- The exact sum, and NV for infinities of both signs; an exact zero sum of unlike signs is -0 under RDN only. -/
def Fv.add (mode : Nat) (a b : Fv) : Fv × BitVec 5 :=
  match a, b with
  | .nan _, _ => (.nan false, a.sig ||| b.sig)
  | _, .nan _ => (.nan false, a.sig ||| b.sig)
  | .inf x, .inf y => if x = y then (.inf x, 0) else (.nan false, fNV)
  | .inf x, _ => (.inf x, 0)
  | _, .inf y => (.inf y, 0)
  | .num x m e, .num y n g =>
    let q := min e g
    (ofUnits (unitsOf x m e q + unitsOf y n g q) q (if x = y then x else mode = 2), 0)

/-- The exact product, and NV for 0 x infinity. -/
def Fv.mul (a b : Fv) : Fv × BitVec 5 :=
  match a, b with
  | .nan _, _ => (.nan false, a.sig ||| b.sig)
  | _, .nan _ => (.nan false, a.sig ||| b.sig)
  | .inf x, .inf y => (.inf (x != y), 0)
  | .inf x, .num y n _ => if n = 0 then (.nan false, fNV) else (.inf (x != y), 0)
  | .num x m _, .inf y => if m = 0 then (.nan false, fNV) else (.inf (x != y), 0)
  | .num x m e, .num y n g => (.num (x != y) (m * n) (e + g), 0)

/-- The exact a x b + c, with NV of either step and of any signalling operand. -/
def Fv.fma (mode : Nat) (a b c : Fv) : Fv × BitVec 5 :=
  let (p, f) := a.mul b
  let (r, g) := p.add mode c
  (r, f ||| g)

/-- The value times 2^k, exactly. -/
def Fv.scale (v : Fv) (k : Int) : Fv :=
  match v with
  | .num n m e => .num n m (e + k)
  | w => w

/-- -1, 0 or 1 as a compares with b, for values that are no NaN; the zeros are equal. -/
def Fv.cmp (a b : Fv) : Int :=
  match a, b with
  | .inf x, .inf y => if x = y then 0 else if x then -1 else 1
  | .inf x, _ => if x then -1 else 1
  | _, .inf y => if y then 1 else -1
  | .num x m e, .num y n g =>
    let q := min e g
    let u := unitsOf x m e q
    let v := unitsOf y n g q
    if u < v then -1 else if v < u then 1 else 0
  | _, _ => 0

/-- Less in the total order of minimumNumber, in which -0 lies below +0 (11 R292). -/
def Fv.below (a b : Fv) : Bool :=
  if a.cmp b < 0 then true
  else if a.cmp b = 0 then
    match a, b with
    | .num true 0 _, .num false 0 _ => true
    | _, _ => false
  else false

/-- minimumNumber or maximumNumber of two encodings (11 R292): encoding and flags. -/
def Fmt.minmax (f : Fmt) (isMax : Bool) (x y : Nat) : Nat × BitVec 5 :=
  let a := f.value x
  let b := f.value y
  let fl := a.sig ||| b.sig
  if a.isNan then (if b.isNan then f.nanBits else y % 2 ^ f.width, fl)
  else if b.isNan then (x % 2 ^ f.width, fl)
  else if isMax then (if a.below b then y % 2 ^ f.width else x % 2 ^ f.width, fl)
  else (if b.below a then y % 2 ^ f.width else x % 2 ^ f.width, fl)

/-- The greatest integer whose square is at most n, by bits from 2^k down. -/
def isqrtFrom (n : Nat) : Nat → Nat → Nat
  | 0, r => if (r + 1) * (r + 1) ≤ n then r + 1 else r
  | k + 1, r => isqrtFrom n k (if (r + 2 ^ (k + 1)) * (r + 2 ^ (k + 1)) ≤ n then r + 2 ^ (k + 1) else r)

/-- Integer square root. -/
def isqrt (n : Nat) : Nat := isqrtFrom n (Nat.log2 n / 2 + 1) 0

/-- The quotient of two nonzero numbers to so many bits, its last bit 1 when it is not exact: it rounds as the quotient does to
any format of fewer bits. -/
def divOdd (bits : Nat) (m n : Nat) (e : Int) : Nat × Int :=
  let k := bits + Nat.log2 n + 1 - Nat.log2 m
  let q := (m <<< k) / n
  (2 * q + (if (m <<< k) % n = 0 then 0 else 1), e - k - 1)

/-- The square root of a nonzero number to so many bits, its last bit 1 when it is not exact. -/
def sqrtOdd (bits : Nat) (m : Nat) (e : Int) : Nat × Int :=
  let k0 := 2 * bits + 2
  let k := if (e - k0) % 2 = 0 then k0 else k0 + 1
  let a := m <<< k
  let r := isqrt a
  (2 * r + (if r * r = a then 0 else 1), (e - k) / 2 - 1)

/-- The quotient (11 R287): DZ for a finite nonzero value by zero, NV for 0 / 0 and infinity / infinity. -/
def Fv.div (a b : Fv) : Fv × BitVec 5 :=
  match a, b with
  | .nan _, _ => (.nan false, a.sig ||| b.sig)
  | _, .nan _ => (.nan false, a.sig ||| b.sig)
  | .inf _, .inf _ => (.nan false, fNV)
  | .inf x, .num y _ _ => (.inf (x != y), 0)
  | .num x _ _, .inf y => (.num (x != y) 0 0, 0)
  | .num x m e, .num y n g =>
    if n = 0 then (if m = 0 then (.nan false, fNV) else (.inf (x != y), fDZ))
    else if m = 0 then (.num (x != y) 0 0, 0)
    else
      let (q, h) := divOdd 64 m n (e - g)
      (.num (x != y) q h, 0)

/-- The square root: NV for a negative nonzero value. -/
def Fv.sqrt (a : Fv) : Fv × BitVec 5 :=
  match a with
  | .nan _ => (.nan false, a.sig)
  | .inf false => (.inf false, 0)
  | .inf true => (.nan false, fNV)
  | .num x m e =>
    if m = 0 then (.num x 0 0, 0)
    else if x then (.nan false, fNV)
    else
      let (r, h) := sqrtOdd 64 m e
      (.num false r h, 0)

/-- A value rounded to an integer under a mode, and whether that was inexact; for numbers only. -/
def roundInt (mode : Nat) (neg : Bool) (m : Nat) (e : Int) : Int × Bool :=
  let (n, inexact) := quantize mode neg m e 0
  (if neg then -(n : Int) else (n : Int), inexact)

/-- Floating point to integer of `w` bits (11 R291): low bits of the result, and flags. -/
def toInt (w : Nat) (signed : Bool) (mode : Nat) (v : Fv) : Nat × BitVec 5 :=
  let lo : Int := if signed then -(2 ^ (w - 1) : Nat) else 0
  let hi : Int := if signed then (2 ^ (w - 1) : Nat) - 1 else (2 ^ w : Nat) - 1
  match v with
  | .nan _ => (narrow w hi, fNV)
  | .inf neg => (narrow w (if neg then lo else hi), fNV)
  | .num neg m e =>
    let (n, inexact) := roundInt mode neg m e
    if n < lo then (narrow w lo, fNV)
    else if hi < n then (narrow w hi, fNV)
    else (narrow w n, if inexact then fNX else 0)

/-- An integer as a value. -/
def ofInt (v : Int) : Fv := .num (v < 0) v.natAbs 0

end Sys2Proof.Machine
end

