-- ==== Sys2Proof/Machine/Fetch.lean ====
section
/-!
DEFINITION. Fetching an instruction (12 R311 to R315): translation of the pc, the line and its starts, the instruction cache
that does not snoop stores, and the traps of a fetch.
-/
namespace Sys2Proof.Machine

/-- The word at an offset of a line. -/
def lineWord (line : List Byte) (off : Nat) : BitVec 32 := BitVec.ofNat 32 (leNat ((line.drop off).take 4))

/-- Bytes from a start to the next (12 R313). -/
def startSize (w : BitVec 32) : Nat :=
  if field w 0 7 = 0x2B#7 then (if headerCount w = 0 then 4 else 4 + 8 * headerCount w)
  else if field w 0 7 = 0x3F#7 then 8
  else 4

/-- The start at or before an offset of a line, by the scan of 12 R313, `fuel` starts at most. -/
def scanStart (line : List Byte) (off : Nat) : Nat → Nat → Nat
  | 0, p => p
  | fuel + 1, p =>
    let n := startSize (lineWord line p)
    if off < p + n ∨ 128 ≤ p + n then p else scanStart line off fuel (p + n)

/-- The start whose bytes hold an offset of a line. -/
def startOf (line : List Byte) (off : Nat) : Nat := scanStart line off 32 0

/-- A line is read from L2 into the core's instruction cache. -/
def State.fillLine (s : State) (da : Bool) (l : Nat) (now : List Byte) : State :=
  ((s.scrubbed (l * 128) 128).homeLines (some (dieOf s.hart.core)) (l * 128) 128 da false).modCore s.hart.core
    (fun c => { c with icache := tset c.icache l (leNat now), icBad := c.icBad.filter (fun k => k ≠ l) })

/-- The line a fetch returns: a cached line that memory no longer holds may be returned as it was (12 R315, log 1); one with an
uncorrectable error is fetched again (02 R53). -/
def State.fetchLine (s : State) (pa : Nat) (da : Bool) : List Byte × State :=
  let l := pa / 128
  let now := memRead s.mem (l * 128) 128
  match if l ∈ (s.core s.hart.core).icBad then none else tget (s.core s.hart.core).icache l with
  | none => (now, s.fillLine da l now)
  | some old =>
    if old = leNat now then (now, s)
    else
      let (keep, s) := s.freshBool
      if keep then (leBytes 128 old, s) else (now, s.fillLine da l now)

/-- What a fetch gives: an instruction word to decode with the bytes of its line from it on, or a trap, reported at a pc with
`cvidx.member`. -/
inductive Fetched where
  | bytes (bs : List Byte)
  | trap (cause : BitVec 8) (tval : Word) (pc : Word) (member : BitVec 3)
  deriving DecidableEq, Repr

/-- Fetch at the pc of the current hart (12 R311 to R315, 03 R92). -/
def State.fetch (s : State) : Fetched × State :=
  let pc := s.hart.pc
  let (f, s) := resolve s s.hart.who pc .fetch
  match f with
  | .ok (.phys pa _ da) =>
    if poisoned s (pa / 128 * 128) 128 then (.trap 0x15 pc pc 0, s)
    else
      let (line, s) := s.fetchLine pa da
      let off := pa % 128
      let st := startOf line off
      let w := lineWord line st
      if st = off then (.bytes (line.drop off), s)
      else if field w 0 7 = 0x2B#7 then
        (.trap 0x03 (w.setWidth 64) (pc - BitVec.ofNat 64 (off - st)) (BitVec.ofNat 3 ((off - st - 4) / 8)), s)
      else (.trap 0x03 (w.setWidth 64) (pc - BitVec.ofNat 64 (off - st)) 0, s)
  | .error 0x15 => (.trap 0x15 pc pc 0, s)
  | _ => (.trap 0x05 (pc &&& ~~~ 0xFFF#64) pc 0, s)

/-- A breakpoint matches the fetch at an address, or an instruction of so many bytes from it on (10 R271). -/
def breakHit (s : State) (pc : Word) (n : Nat) : Option Nat :=
  match tget s.cores s.hart.core.toNat with
  | none => none
  | some c =>
    let a := (wfield c.dbbp 2 46) <<< 2
    if wbit c.dbbp 63 ∧ (wbit c.dbbp 62 → wfield c.dbbp 54 8 = s.hart.ctx.toNat) ∧ overlaps pc.toNat n a (a + 1)
    then some (if a < pc.toNat + 4 then 0 else (a - pc.toNat - 4) / 8) else none

/-- The members that `cvidx` marks done and restart, which a convoy uses when a trap return has led to its header (06 R168, log 13):
`sepc` holds its address and no trap is active. -/
def Hart.cvUse (h : Hart) : BitVec 6 × BitVec 6 := if h.pc = h.sepc ∧ ¬ h.tact then (h.cvDone, h.cvRestart) else (0, 0)

/-- The trap of a fetch, taken at the pc it is reported at; `vstart` stays (12 R314, R327), and a convoy that was to be resumed there
stays as `cvidx` marks it (06 R167, log 13). -/
def State.fetchTrap (s : State) (cause : BitVec 8) (tval pc : Word) (member : BitVec 3) : State :=
  let u := if pc = s.hart.pc then s.hart.cvUse else (0, 0)
  (s.withHart (fun h => { h with pc := pc })).takeTrap cause tval
    (some { vstart := s.hart.vstart, restart := u.2, done := u.1, member := member })

end Sys2Proof.Machine
end

