-- ==== Sys2Proof/Machine/Task.lean ====
section
/-!
DEFINITION. The end of a hart and of a task, the gang barrier, and yielding (05 R129, R134; 13 R358).
-/
namespace Sys2Proof.Machine

/-- Every rank of a gang, one bit each. -/
def ranksOf (g : Gang) : BitVec 64 := BitVec.ofNat 64 (2 ^ (gszOf g.task + 1) - 1)

/-- What TEXIT waits for: the hart's transfers (05 R129), and the completion of its writes, its calls' posted writes and its
bank command (log 11). -/
def exitReady (s : State) : Bool :=
  !s.hart.xfers.any (fun x => x.state = .running) && s.hart.disp.isEmpty && fenceReady s
    && !s.hart.posted.any (fun p => !p.failed) && !wbit s.hart.bkcmd 63

/-- The harts of a gang that wait in its barrier trap with cause 0x17 (05 R129). -/
def State.breakBarrier (s : State) (g : BitVec 16) : State :=
  ((s.gangHarts g).filter (fun h => h.wait = .gbar)).foldl
    (fun s h => if ((s.findHart h.ref).map (fun h => h.wait)) = some .gbar then (s.select h.ref).takeTrap 0x17 0 none else s) s

/-- A task has ended: its banks and frame are free, and what it owes is queued (05 R129, 04 R108). -/
def State.endTask (s : State) (id : BitVec 16) (g : Gang) : State :=
  let s := freeFrame (s.freeGangBanks g) g
  let s := { s with gangs := tdel s.gangs id.toNat }
  let e : TaskEnd := { ctx := g.ctx, gang := id, queue := g.queue, join := g.task.w2, rslot := wfield g.task.w0 48 16
                       outcome := if g.userEnd then 1 else 2, rels := [] }
  let s := if g.task.w2 ≠ 0 then { s with ends := s.ends ++ [e] } else s
  let s := if wbit g.task.w0 47 then { s with reports := s.reports ++ [e] } else s
  s.stopDone g.ctx

/-- The current hart ends (05 R129): its held tiles are done, its slot, storage and tiles are free; the last one ends the task,
any other breaks the gang's barrier. -/
def State.endHart (s : State) : State :=
  let h := s.hart
  let s := s.writeHome.doneTiles
  let s := s.modGang h.gang (fun g => { g with ended := g.ended ||| BitVec.twoPow 64 h.rank.toNat, userEnd := g.userEnd && !h.sup })
  let s := s.freeHart s.hart
  match tget s.gangs h.gang.toNat with
  | none => s
  | some g => if g.ended = ranksOf g then s.endTask h.gang g else s.breakBarrier h.gang

/-- TEXIT (05 R129). -/
def execTexit (s : State) : Out :=
  if exitReady s then .next s.endHart else .next (s.applyNeed (.wait .texit))

/-- Every waiting rank of the gang passes the barrier, whose next generation begins (05 R129). -/
def State.passBarrier (s : State) (g : BitVec 16) : State :=
  let s := s.modGang g (fun g => { g with barGen := g.barGen + 1, barArr := 0 })
  ((s.gangHarts g).filter (fun h => h.wait = .gbar)).foldl (fun s h => s.countFor h 1 1)
    (s.mapHarts (fun h => if h.gang = g ∧ h.wait = .gbar then { h.retired with pc := h.pc + 4 } else h))

/-- GBAR (05 R129): a cluster-scope release, the arrival of this rank, and the wait for the others; a generation that all have reached
while some are saved completes when the gang is resident again (10 R260). -/
def execGbar (s : State) : Out :=
  if ¬ fenceReady s then .next (s.applyNeed (.wait (.fence 2 0 false s.pkg.dtime)))
  else
    let s := s.writeHome
    match tget s.gangs s.hart.gang.toNat with
    | none => .next s.retire
    | some g =>
      if g.ended ≠ 0 then .next (s.takeTrap 0x17 0 none)
      else
        let arr := g.barArr ||| BitVec.twoPow 64 s.hart.rank.toNat
        if arr = ranksOf g ∧ g.savedRanks = 0 then .next (s.passBarrier s.hart.gang).retire
        else .next ((s.modGang s.hart.gang (fun g => { g with barArr := arr })).applyNeed (.wait .gbar))

/-- GBAR_COMPLETE (05 R129): every rank has reached the generation. -/
def execGbarComplete (g : BitVec 16) (s : State) : Out :=
  match tget s.gangs g.toNat with
  | none => .next s
  | some x => if x.barArr = ranksOf x ∧ x.ended = 0 ∧ x.savedRanks = 0 then .next (s.passBarrier g) else .next s

/-- The gang of the current hart has a pending pre-emption request that a policy lets save it (05 R134). -/
def preempted (s : State) (policy : BitVec 2) : Bool :=
  (tget s.gangs s.hart.gang.toNat).any (fun g => g.preempt && g.frame.isSome && g.policy == policy
    && !wbit g.savedRanks s.hart.rank.toNat)

/-- TYIELD (05 R129): a pre-emption point under the strip-boundary policy, and otherwise no effect; a request for a hart of a halted core
waits until it runs again (10 R270). -/
def execTyield (s : State) : Out :=
  if preempted s 2 ∧ ¬ (s.core s.hart.core).dHalted then
    if saveReady s then .next (s.retire.saveNow false) else .next (s.applyNeed (.wait .drain))
  else .next s.retire

/-- The current hart stands at VSETVL.B or VSETSHAPE.B (05 R135). -/
def atBoundary (s : State) : Bool :=
  match s.fetch.1 with
  | .bytes bs =>
    match decode bs with
    | .ok (.vsetvlB _ _ _ _, _) => true
    | .ok (.vsetshapeB _ _ _ _ _, _) => true
    | _ => false
  | .trap _ _ _ _ => false

/-- The current hart stands at an instruction at which the strip-boundary policy saves it before it executes (05 R134); TYIELD saves its hart
itself. -/
def atPoint (s : State) : Bool :=
  match s.fetch.1 with
  | .bytes bs =>
    match decode bs with
    | .ok (.vsetvlB _ _ _ _, _) => true
    | .ok (.vsetshapeB _ _ _ _ _, _) => true
    | .ok (.gbar, _) => true
    | .ok (.tkwait _ _, _) => true
    | .ok (.hwait _ _ _, _) => true
    | _ => false
  | .trap _ _ _ _ => false

/-- The current hart is at a pre-emption point of its gang's policy (05 R134): under strip boundary, at or in one of its instructions; under
precise, at any instruction or convoy boundary, and in a wait that a save may interrupt. -/
def savePoint (s : State) : Bool :=
  (preempted s 3 && savableWait s.hart.wait true)
    || (preempted s 2 && savableWait s.hart.wait false && (s.hart.wait ≠ .none || atPoint s))

/-- HART_SAVE (10 R260, 05 R134): a hart of a gang with a pending pre-emption request, at a point where it may be saved; a halted
core's waits (R270). -/
def execHartSave (h : HartRef) (s : State) : Out :=
  s.asHart h fun s =>
  if savePoint s ∧ ¬ (s.core s.hart.core).dHalted ∧ s.hart.rep.isNone ∧ saveReady s then
    .next (s.saveNow (s.hart.wait = .none ∧ atBoundary s))
  else .next s

end Sys2Proof.Machine
end

