-- ==== Sys2Proof/Machine/System.lean ====
section
/-!
DEFINITION. The SYSTEM group (13 R346, R360 to R365; 10 R252 to R257): ECALL, EBREAK, TRET, UIRET, HWAIT, SFENCE.T, CTRIG, TMARK,
the illegal instruction, and entry to a user interrupt.
-/
namespace Sys2Proof.Machine

/-- The word of an instruction, zero-extended, as `stval` of cause 0x02 holds it (10 Table 10.1). -/
def illegalWord (f7 : BitVec 7) (rs2 rs1 : Reg) (f3 : BitVec 3) (rd : Reg) : Word := (encR f7 rs2 rs1 f3 rd 0x0B).setWidth 64

/-- ECALL (13 R346). -/
def execEcall (s : State) : Out := .next (s.takeTrap (if s.hart.sup then 0x0C else 0x0B) 0 none)

/-- EBREAK (10 R271): a trap, or a halt of the core. -/
def execEbreak (s : State) : Out :=
  if (s.core s.hart.core).dEbh then .next (s.applyNeed (.halt 5)) else .next (s.takeTrap 0x04 0 none)

/-- An instruction that no table gives (00 R11, 12 R317). -/
def execIllegalInstruction (w : BitVec 32) (s : State) : Out := .next (s.takeTrap 0x02 (w.setWidth 64) none)

/-- TRET (10 R253, 13 R361). -/
def execTret (s : State) : Out :=
  if ¬ s.hart.sup then .next (s.takeTrap 0x02 (illegalWord 0 0 0 5 0) none)
  else if wbit s.hart.sepc 1 then .next (s.takeTrap 0x01 s.hart.sepc none)
  else .next { ((s.trace 2 s.hart.sepc).count 1 1) with hart := s.hart.trapReturn }

/-- UIRET (10 R256, 13 R361). -/
def execUiret (s : State) : Out :=
  let t : Word := s.hart.uepc.setWidth 64
  if s.hart.sup then .next (s.takeTrap 0x02 (illegalWord 3 0 0 5 0) none)
  else if wbit t 1 then .next (s.takeTrap 0x01 t none)
  else .next ((s.withHart (fun h => { h with uieIe := h.uiePie })).retireAt t)

/-! ### User interrupts (10 R256, R257) -/

/-- The owed interrupt whose transfer ended earliest. -/
def Hart.nextOwed (h : Hart) : Option Xfer :=
  h.owed.foldl (fun b x => match b with
    | none => some x
    | some y => if x.order < y.order then some x else some y) none

/-- The event code of an ended transfer (09 R232, 10 Table 10.4). -/
def Xfer.event (x : Xfer) : BitVec 8 :=
  match x.sort, x.state with
  | false, .done => 1
  | false, _ => 2
  | true, .done => 3
  | true, _ => 4

/-- A user interrupt can be taken (10 R256): user mode, enabled, pending. -/
def Hart.interruptible (h : Hart) : Bool := !h.sup && h.uieIe && !h.owed.isEmpty

/-- Entry to a user interrupt (10 R256). -/
def Hart.interrupt (h : Hart) : Hart :=
  match h.nextOwed with
  | none => h
  | some x =>
    { h with uepc := field h.pc 0 48, ucause := x.event, xtid := x.id, xhandler := x.handler, xstat := BitVec.ofNat 64 x.status
             xfers := h.xfers.erase x, uiePie := h.uieIe, uieIe := false, pc := x.handler.setWidth 64, wait := .none, replies := []
             relStart := none, lookups := [] }

/-- USER_INTERRUPT_ENTRY (10 R256): at a boundary with no convoy in flight. -/
def execUserInterruptEntry (h : HartRef) (s : State) : Out :=
  s.asHart h fun s =>
  if s.hart.interruptible ∧ s.hart.disp.isEmpty ∧ s.hart.wait = .none ∧ s.hart.replies.isEmpty then
    .next ((s.count 0x12 1).withHart Hart.interrupt)
  else .next s

/-! ### HWAIT (13 R362) -/

/-- The checks of HWAIT's address: aligned, on a local page or in a window. -/
def hwaitAddr (s : State) (a : Word) : Res Unit :=
  if a.toNat % 8 ≠ 0 then .trap 0x0A a
  else
    let (f, s) := resolve s s.hart.who a .load
    match f with
    | .error c => .trap c a
    | .ok p => if p.near then .ok () s else .trap 0x08 a

/-- The start time of the HWAIT in progress, or now. -/
def hwaitStart (s : State) : Word :=
  match s.hart.wait with
  | .hwait _ _ _ t => t
  | _ => readTime s

/-- One look of HWAIT: it ends with a result, or goes on. -/
def hwaitLook (s : State) (a : Option Word) (expect : Word) (start : Word) : Res (Option Word) :=
  let later (s : State) : Res (Option Word) :=
    if s.hart.interruptible then .ok (some 1) s
    else if 2 ^ 20 ≤ (s.pkg.dtime - start).toNat then .ok (some 2) s
    else .ok none s
  match a with
  | none => later s
  | some a => (hartLoad s a 8).bind fun b s => if leNat b ≠ expect.toNat then .ok (some 0) s else later s

/-- HWAIT (13 R362). -/
def execHwait (rd rs1 rs2 : Reg) (s : State) : Out :=
  let start := hwaitStart s
  let a := s.getX rs1
  let expect := s.getX rs2
  let go (addr : Option Word) (s : State) : Res Unit := (hwaitLook s addr expect start).bind fun r s =>
    match r with
    | some v => .ok () (s.setX rd v).retire
    | none => .need (.wait (.hwait addr expect rd start))
  let r : Res Unit := if rs1 = 0 then (if rs2 ≠ 0 then .trap 0x02 (illegalWord 1 rs2 rs1 5 rd) else go none s)
    else (hwaitAddr s a).bind fun _ s => go (some a) s
  r.finish s

/-- HWAIT_WAKE (13 R362): the wait ends by its own condition, and otherwise with result 2, which may come at any time. -/
def execHwaitWake (h : HartRef) (s : State) : Out :=
  s.asHart h fun s =>
  match s.hart.wait with
  | .hwait a expect rd start =>
    ((hwaitLook s a expect start).bind fun r s => .ok () (s.setX rd (r.getD 2)).retire).finish s
  | _ => .next s

/-! ### Address fences, triggers, marks -/

/-- The TLB entries an SFENCE.T drops (13 R363): by scope, page and G. The hart's later accesses translate afresh, so its own cluster's
second-level entries go with scopes 0 and 1 too (DEDUCED, log 6). -/
def sfenceDrops (core : BitVec 8) (scope : Nat) (page : Option Nat) (keepG : Bool) (c : BitVec 8) (t : TlbEntry) : Bool :=
  let near : Bool :=
    if t.second then
      (if scope < 3 then t.unit = (clusterOf core).setWidth 8
       else if scope = 3 then t.unit.toNat / 8 = (dieOf core).toNat
       else true)
    else if scope < 2 then t.unit = core
    else if scope = 2 then clusterOf t.unit = clusterOf core
    else if scope = 3 then dieOf t.unit = dieOf core
    else true
  t.ctx = c && near && !(keepG && wbit t.leaf 5)
    && (match page with
        | none => true
        | some va => va >>> t.bits = t.base >>> t.bits)

/-- The walk caches that an SFENCE.T of a scope empties of a context (13 R363). -/
def State.forgetWalks (s : State) (core : BitVec 8) (scope : Nat) (c : BitVec 8) : State :=
  { s with dies := s.dies.map (fun (d : Nat × Die) => (d.1, if 4 ≤ scope ∨ d.1 = (dieOf core).toNat then d.2.forget c else d.2)) }

/-- SFENCE.T (13 R363): it waits for the hart's convoys and stores, and not for its transfers. -/
def execSfenceT (rs1 rs2 : Reg) (s : State) : Out :=
  let o := s.getX rs2
  let scope := wfield o 0 3
  let r : Res Unit := if ¬ s.hart.sup ∨ 6 ≤ scope then .trap 0x02 (illegalWord 2 rs2 rs1 5 0)
    else if ¬ s.hart.disp.isEmpty then .need (.wait .drain)
    else if ¬ seenAll s then .need (.wait .fenceI)
    else
      let s := s.writeHome.forgetWalks s.hart.core scope s.hart.ctx
      let page := if rs1 = 0 then none else some ((wfield (s.getX rs1) 12 36) <<< 12)
      .ok () ({ s with tlb := s.tlb.filter (fun t => ¬ sfenceDrops s.hart.core scope page (wbit o 3) s.hart.ctx t) }).retire
  r.finish s

/-- A counter trigger is set at a device time (10 R277). -/
def State.setTrigger (s : State) (t : Word) : State := { s with pkg := { s.pkg with pmtrig := t, pmPending := true } }

/-- CTRIG (13 R364). -/
def execCtrig (rs1 : Reg) (s : State) : Out :=
  if s.hart.sup then .next (s.setTrigger (s.getX rs1)).retire else .next (s.takeTrap 0x02 (illegalWord 4 0 rs1 5 0) none)

/-- TMARK (13 R365). -/
def execTmark (rs1 : Reg) (s : State) : Out := .next (s.trace 4 (s.getX rs1)).retire

end Sys2Proof.Machine
end

