-- ==== Sys2Proof/Machine/Operands.lean ====
section
/-!
DEFINITION. Operands of vector members: element types (11 Table 11.1), registers and groups (06 R148 to R152), masks, the
register checks of 12 R324 and 14 R371, and what a member is to its convoy.
-/
namespace Sys2Proof.Machine

/-! ### Element types -/

/-- EEW of a type code (11 Table 11.1); 0 for a reserved code. -/
def eewOf (t : Nat) : Nat :=
  if t ∈ [2, 3, 9, 14, 16] then 4
  else if t ∈ [4, 18, 19, 22] then 16
  else if t ∈ [20, 24, 25] then 32
  else if t ∈ [21, 26, 27] then 64
  else if t ≤ 28 then 8
  else 0

/-- The signed integer types. -/
def tySigned (t : Nat) : Bool := t ∈ [0, 2, 4, 15, 24, 26]

/-- The floating format of a type's elements (11 Tables 11.1, 11.2; R294, R296, R297). -/
def fmtOf (t : Nat) : Option Fmt :=
  match t with
  | 5 => some e4m3
  | 6 => some e5m2
  | 7 => some e3m2
  | 8 => some e2m3
  | 9 => some e2m1
  | 10 => some e4m3
  | 11 => some e5m2
  | 12 => some e3m2
  | 13 => some e2m3
  | 14 => some e2m1
  | 16 => some e2m1
  | 17 => some e4m3
  | 18 => some bf16
  | 19 => some fp16
  | 20 => some fp32
  | 21 => some fp64
  | 23 => some e5m2
  | _ => none

/-- Set I of 14 Table 14.3. -/
def inI (t : Nat) : Bool := t ∈ [0, 1, 4, 22, 24, 25, 26, 27]
/-- Set Iw. -/
def inIw (t : Nat) : Bool := t ∈ [0, 1, 4, 22, 24, 25]
/-- Set F. -/
def inF (t : Nat) : Bool := t ∈ [18, 19, 20, 21]
/-- Set A. -/
def inA (t : Nat) : Bool := inI t || inF t
/-- Set Q. -/
def inQ (t : Nat) : Bool := inI t || t = 2 || t = 3
/-- Set S. -/
def inS (t : Nat) : Bool := t ∈ [5, 6, 7, 8, 9]
/-- Set B. -/
def inB (t : Nat) : Bool := t ∈ [10, 11, 12, 13, 14, 15, 16, 17, 23]

/-- Elements of a block of a block type (11 R294, R296, R297). -/
def blockLen (t : Nat) : Nat := if t = 16 then 16 else 32

/-- The value of an unscaled element of a type: exact (11 R282, R283, R294). -/
def elemValue (t v : Nat) : Fv :=
  if t = 28 then (if v % 256 = 255 then .nan false else .num false 1 ((v % 256 : Nat) - 127))
  else if t = 15 then (ofInt (sextN 8 v)).scale (-6)
  else
    match fmtOf t with
    | some f => f.value v
    | none => ofInt (if tySigned t then sextN (eewOf t) v else (v % 2 ^ eewOf t : Nat))

/-- A pair of matrix operand formats is legal (11 R281). -/
def legalPair (a b : Nat) : Bool :=
  (inQ a && inQ b && a ≤ 22 && b ≤ 22)
    || (5 ≤ a && (a ≤ 20 || a = 23) && 5 ≤ b && (b ≤ 20 || b = 23)) || (a = 21 && b = 21)

/-! ### Registers -/

/-- A vector register; numbers past 31 read zero. -/
def Hart.vreg (h : Hart) (i : Nat) : Nat := h.v.toList.getD i 0

/-- A mask register. -/
def Hart.mreg (h : Hart) (i : Nat) : Nat := h.m.toList.getD i 0

/-- Element e of width w of the group at vb (06 R151). -/
def Hart.vget (h : Hart) (vb w e : Nat) : Nat :=
  let bits := 8 * h.vlb.toNat
  nfield (h.vreg (vb + e * w / bits)) (e * w % bits) w

/-- Write element e of width w of the group at vb, and its register's `vdirty` bit (12 Table 12.15 vset). -/
def Hart.vset (h : Hart) (vb w e val : Nat) : Hart :=
  let bits := 8 * h.vlb.toNat
  let r := vb + e * w / bits
  if hr : r < 32 then { h with v := h.v.set r (nsetField h.v[r] (e * w % bits) w val), vdirty := bset h.vdirty r true } else h

/-- Write elements of a group, given as (element, value). -/
def Hart.vputs (h : Hart) (vb w : Nat) (items : List (Nat × Nat)) : Hart := items.foldl (fun h i => h.vset vb w i.1 i.2) h

/-- Bit e of a mask register. -/
def Hart.mget (h : Hart) (m e : Nat) : Bool := nbit (h.mreg m) e

/-- Write bit e of a mask register, and its `vdirty` bit (12 Table 12.15 mset). -/
def Hart.mset (h : Hart) (m e : Nat) (b : Bool) : Hart :=
  if hm : m < 8 then { h with m := h.m.set m (nsetBit h.m[m] e b), vdirty := bset h.vdirty (32 + m) true } else h

/-- Write mask bits, given as (element, bit). -/
def Hart.mputs (h : Hart) (m : Nat) (items : List (Nat × Bool)) : Hart := items.foldl (fun h i => h.mset m i.1 i.2) h

/-- Element e is active (06 R152, 12 Table 12.15). -/
def Hart.active (h : Hart) (b : Body) (e : Nat) : Bool := if b.men then h.mget b.msk.toNat e != b.pol else true

/-- The active elements from lo up to hi - 1, ascending. -/
def Hart.actives (h : Hart) (b : Body) (lo hi : Nat) : List Nat := (List.range' lo (hi - lo)).filter (h.active b)

/-! ### Body fields -/

/-- Registers of the group code. -/
def grpOf (b : Body) : Nat := 2 ^ b.grp.toNat
/-- The type code. -/
def tyOf (b : Body) : Nat := b.ty.toNat
/-- EEW of the type. -/
def wOf (b : Body) : Nat := eewOf b.ty.toNat
/-- sx: the second source is scalar (12 R323). -/
def sxOf (b : Body) : Bool := wbit b.mod 0
/-- Modifier bits beyond those admitted are not 0 (12 R323). -/
def modBad (b : Body) (admitted : BitVec 12) : Bool := b.mod &&& ~~~ admitted ≠ 0
/-- men = 0 while msk or pol is not 0 (12 R324). -/
def maskBad (b : Body) : Bool := !b.men && (b.msk ≠ 0 || b.pol)

/-- A captured scalar register. -/
def Captured.getX (c : Captured) (r : Reg) : Word := if r = 0 then 0 else c.x.toList.getD r.toNat 0

/-- Row and column of an element as `vstart` holds them (00 R3). -/
def startWord (cols e : Nat) : Word := if cols = 0 then 0 else BitVec.ofNat 64 ((e / cols) <<< 32 + e % cols)

/-- The element that `vstart` names (00 R3). -/
def Captured.start (c : Captured) : Nat := wfield c.vstart 32 32 * c.vcols + wfield c.vstart 0 32

/-- What an instruction captures at dispatch (06 R146). -/
def Hart.captured (h : Hart) : Captured :=
  { vl := h.vl.toNat, vrows := h.vrows.toNat, vcols := h.vcols.toNat, vtype := h.vtEew ++ h.vtGrp, vstart := h.vstart
    vxrm := h.vxrm, vfrm := h.vfrm, x := h.x }

/-! ### Members -/

/-- A register operand of a member. -/
structure Opnd where
  reg : Nat
  n : Nat
  w : Nat
  reads : Bool
  writes : Bool
  /-- a mask register -/
  mask : Bool
  /-- a single register of scales or corrections, which takes no part in the widths of 14 R371 -/
  aux : Bool
  deriving DecidableEq, Repr

/-- A source group. -/
def src (r : Reg) (n w : Nat) : Opnd := { reg := r.toNat, n := n, w := w, reads := true, writes := false, mask := false, aux := false }
/-- A destination group. -/
def dst (r : Reg) (n w : Nat) : Opnd := { reg := r.toNat, n := n, w := w, reads := false, writes := true, mask := false, aux := false }
/-- A group both read and written. -/
def acc (r : Reg) (n w : Nat) : Opnd := { dst r n w with reads := true }
/-- A mask source. -/
def msrc (r : Reg) : Opnd := { reg := r.toNat, n := 1, w := 0, reads := true, writes := false, mask := true, aux := false }
/-- A mask destination. -/
def mdst (r : Reg) : Opnd := { msrc r with reads := false, writes := true }
/-- A single register beside the groups. -/
def single (r : Reg) (writes : Bool) : Opnd :=
  { reg := r.toNat, n := 1, w := 8, reads := !writes, writes := writes, mask := false, aux := true }

/-- The registers of an operand: bits 0 to 31 for v0 to v31, 32 to 39 for m0 to m7. -/
def Opnd.regs (o : Opnd) : BitVec 40 :=
  if o.mask then (if o.reg < 8 then BitVec.twoPow 40 (32 + o.reg) else 0)
  else BitVec.ofNat 40 (((2 ^ o.n - 1) <<< o.reg) % 2 ^ 32)

/-- An operand is misaligned, runs past v31, or is no mask register (12 R324, 06 R150). -/
def Opnd.bad (o : Opnd) : Bool := if o.mask then 8 ≤ o.reg else o.n = 0 || 8 < o.n || o.reg % o.n ≠ 0 || 32 < o.reg + o.n

/-- Operands of different EEW share a register (14 R371). -/
def mixed : List Opnd → Bool
  | [] => false
  | o :: os => os.any (fun p => !o.mask && !p.mask && !o.aux && !p.aux && o.w ≠ p.w && o.regs &&& p.regs ≠ 0) || mixed os

/-- What a member's elements answer. -/
inductive MRes where
  | ok (s : State)
  /-- the lowest element that faults, with cause and `stval` -/
  | fault (e : Nat) (cause : BitVec 8) (tval : Word)
  | need (n : Need)

/-- A member of a convoy: its registers, its checks, how it takes its elements, and its effect on elements lo to hi - 1. -/
structure Member where
  ops : List Opnd
  /-- cause 0x02 checks beside those of the registers (12 R324) -/
  bad : Captured → Hart → Bool
  /-- checks of stage 6 of 12 R327 beside lengths and `vstart`, given whether the member ignores `vstart` (06 R168): a cause -/
  shape : Captured → Hart → Bool → Option (BitVec 8)
  /-- EEW and group for 06 R150 and 00 R9 -/
  w : Nat
  n : Nat
  /-- a whole member (06 R163) -/
  whole : Bool
  /-- TZERO, TMAC, TOPA: lengths from the matrix shape, and the coins each charges (16 R429) -/
  mxu : Option (Hart → Nat)
  /-- performs from `vstart` (06 R152) -/
  starts : Bool
  /-- unit size of a unit member, else 1 (06 R471) -/
  unit : Captured → Nat
  /-- writes a scalar register (06 R160) -/
  scalar : Bool
  /-- moves a FIFO pointer, so that the convoy takes no trap while it runs (15 R410) -/
  fifo : Bool := false
  /-- accumulator tiles that it reads -/
  tiles : BitVec 4 := 0
  /-- elements at or above `vstart` that were performed before a trap and are not charged again (09 R242) -/
  applied : Captured → Hart → Nat := fun _ _ => 0
  /-- a fault below the limit has already ended it without a trap (15 R409), from its first element and the limit -/
  ends : Captured → Nat → Nat → State → Bool := fun _ _ _ _ => false
  run : Captured → Nat → Nat → State → MRes

/-- Registers a member reads, its mask among them; an unassigned operation reads none (12 R326). -/
def Member.readSet (m : Member) (b : Body) : BitVec 40 :=
  if m.n = 0 then 0
  else m.ops.foldl (fun s o => if o.reads then s ||| o.regs else s) (if b.men then BitVec.twoPow 40 (32 + b.msk.toNat) else 0)

/-- Registers a member writes. -/
def Member.writeSet (m : Member) : BitVec 40 := m.ops.foldl (fun s o => if o.writes then s ||| o.regs else s) 0

/-- The cause 0x02 checks of a member (12 R324). -/
def Member.illegal (m : Member) (b : Body) (c : Captured) (h : Hart) : Bool :=
  maskBad b || m.ops.any Opnd.bad || mixed m.ops || m.bad c h

/-- The stage 6 checks of a member (12 R327, 06 R150, R152): a cause. -/
def Member.shapeFault (m : Member) (c : Captured) (h : Hart) (done restart : Bool) : Option (BitVec 8) :=
  if m.mxu.isNone && m.w ≠ 0 && h.vlb.toNat * 8 * m.n < c.vl * m.w then some 0x0D
  else if m.mxu.isNone && m.starts && !done && !restart && 0 < c.vcols && c.vcols ≤ wfield c.vstart 0 32 then some 0x0D
  else m.shape c h (done || restart)

/-- A plain element member: no further checks, performing from `vstart`. -/
def Member.plain (ops : List Opnd) (bad : Bool) (w n : Nat) (run : Captured → Nat → Nat → State → MRes) : Member :=
  { ops := ops, bad := fun _ _ => bad, shape := fun _ _ _ => none, w := w, n := n, whole := false, mxu := none, starts := true
    unit := fun _ => 1, scalar := false, run := run }

/-- An unassigned operation of a class (12 R324): it reads and writes nothing. -/
def Member.unassigned : Member := Member.plain [] true 0 0 (fun _ _ _ s => .ok s)

/-- Add flags to the hart. -/
def Hart.raise (h : Hart) (f : BitVec 5) (sat : Bool) : Hart := { h with vfflags := h.vfflags ||| f, vxsat := h.vxsat || sat }

/-- An element's result: its value, its floating flags, whether it saturated. -/
structure Elem where
  val : Nat
  fl : BitVec 5
  sat : Bool
  deriving DecidableEq, Repr

/-- Compute and write elements of a destination of width w; `f` reads the state before the member. -/
def writeOver (es : List Nat) (vd w : Nat) (f : Hart → Nat → Elem) (s : State) : MRes :=
  let rs := es.map (fun e => (e, f s.hart e))
  let h := s.hart.vputs vd w (rs.map (fun r => (r.1, r.2.val)))
  .ok { s with hart := h.raise (rs.foldl (fun a r => a ||| r.2.fl) 0) (rs.any (fun r => r.2.sat)) }

/-- Compute and write the active elements lo to hi - 1 of a destination of width w. -/
def writeElems (b : Body) (vd w : Nat) (lo hi : Nat) (f : Hart → Nat → Elem) (s : State) : MRes :=
  writeOver (s.hart.actives b lo hi) vd w f s

/-- Compute and write the active mask bits lo to hi - 1. -/
def writeBits (b : Body) (md : Nat) (lo hi : Nat) (f : Hart → Nat → Bool × BitVec 5) (s : State) : MRes :=
  let rs := (s.hart.actives b lo hi).map (fun e => (e, f s.hart e))
  let h := s.hart.mputs md (rs.map (fun r => (r.1, r.2.1)))
  .ok { s with hart := h.raise (rs.foldl (fun a r => a ||| r.2.2) 0) false }

/-- The second source of an element: vs2[e], or the low w bits of x[xs] (12 R323). -/
def src2 (b : Body) (c : Captured) (h : Hart) (w e : Nat) : Nat :=
  if sxOf b then wfield (c.getX b.vs3) 0 w else h.vget b.vs2.toNat w e

/-- The unused of vs2 and vs3 is not 0 (12 R323, R324). -/
def src2Bad (b : Body) : Bool := if sxOf b then b.vs2 ≠ 0 else b.vs3 ≠ 0

/-- The second source as an operand. -/
def src2Op (b : Body) (n w : Nat) : List Opnd := if sxOf b then [] else [src b.vs2 n w]

end Sys2Proof.Machine
end

