-- ==== Sys2Proof/Machine/Flags.lean ====
section
/-!
DEFINITION. Fixed-point rounding and saturation (11 R282, R288), the rounding mode of a member (11 R286), and rounding to an
element type.
-/
namespace Sys2Proof.Machine

/-- fx_shift: v shifted right by d and rounded under `vxrm` (11 R288). -/
def fxShift (rm : BitVec 2) (v : Int) (d : Nat) : Int :=
  if d = 0 then v
  else
    let q := v >>> d
    let below := (v % (2 ^ d : Nat)).toNat
    let half := below.testBit (d - 1)
    let rest := below % 2 ^ (d - 1)
    let odd : Bool := q % 2 ≠ 0
    let inc : Bool := match rm.toNat with
      | 0 => half
      | 1 => half && (odd || rest ≠ 0)
      | 2 => false
      | _ => !odd && below ≠ 0
    if inc then q + 1 else q

/-- sat: clamp to the range of a w-bit integer type, and whether it clamps (11 R282). -/
def satInt (w : Nat) (signed : Bool) (v : Int) : Elem :=
  let lo : Int := if signed then -(2 ^ (w - 1) : Nat) else 0
  let hi : Int := if signed then (2 ^ (w - 1) : Nat) - 1 else (2 ^ w : Nat) - 1
  let r := clampI v lo hi
  { val := narrow w r, fl := 0, sat := r ≠ v }

/-- An integer result kept modulo 2^w. -/
def wrapInt (w : Nat) (v : Int) : Elem := { val := narrow w v, fl := 0, sat := false }

/-- A moved element. -/
def bits (v : Nat) : Elem := { val := v, fl := 0, sat := false }

/-- A floating element: encoding and flags. -/
def felem (r : Nat × BitVec 5) : Elem := { val := r.1, fl := r.2, sat := false }

/-- `vfrm` holds 5 to 7 (11 R286). -/
def frmBad (c : Captured) : Bool := 5 ≤ c.vfrm.toNat

/-- Round an exact arithmetic result, with the flags of its operation, to a format (11 R286, R287). -/
def Fmt.arith (f : Fmt) (mode : Nat) (r : Fv × BitVec 5) : Elem :=
  let (v, fl) := f.result mode r.1
  { val := v, fl := fl ||| r.2, sat := false }

/-- E8M0 of a value (11 R285). -/
def toE8M0 (v : Fv) : Nat × BitVec 5 :=
  match v with
  | .nan _ => (255, fNV)
  | .inf _ => (255, fNV)
  | .num neg m e => if m = 0 then (0, 0) else if neg then (255, fNV) else ((clampI ((Nat.log2 m : Int) + e + 127) 0 254).toNat, 0)

end Sys2Proof.Machine
end

