-- ==== Sys2Proof/Machine/Sau.lean ====
section
/-!
DEFINITION. The operations of the scatter-add units (07 R192, R193; 08 R211; 11 R308, R310; 15 Table 15.5), the free association of
combined floating adds, and the saturation event (09 R244).
-/
namespace Sys2Proof.Machine

/-- A fixed-window add on an INT64 word (11 R308): the new word, and whether it saturated. -/
def fxAdd (old x : Nat) (s : Int) : Nat × Bool :=
  let lo : Int := -(2 ^ 63 : Nat)
  let hi : Int := (2 ^ 63 : Nat) - 1
  let (n, sat) : Int × Bool :=
    match fp32.value x with
    | .nan _ => (0, true)
    | .inf neg => (if neg then lo else hi, true)
    | .num neg m e =>
      let q := (roundInt 0 neg m (e + s)).1
      (clampI q lo hi, clampI q lo hi ≠ q)
  let w := sextN 64 old + n
  (narrow 64 (clampI w lo hi), sat || clampI w lo hi ≠ w)

/-- The floating format of an atomic's word. -/
def sauFmt (dbl : Bool) : Fmt := if dbl then fp64 else fp32

/-- A floating add under RNE with a canonical NaN (11 R310). -/
def sauAdd (dbl : Bool) (x y : Nat) : Nat := ((sauFmt dbl).arith 0 (((sauFmt dbl).value x).add 0 ((sauFmt dbl).value y))).val

/-- The new word of a function code 0 to 8 and 10 to 13 (08 R211), and whether a fixed-window add saturated. -/
def sauNew (code : Nat) (dbl : Bool) (old : Nat) (a b : Word) : Nat × Bool :=
  let bits := if dbl then 64 else 32
  let v := a.toNat % 2 ^ bits
  match code with
  | 10 => (sauAdd dbl old v, false)
  | 11 => (((sauFmt dbl).minmax false old v).1, false)
  | 12 => (((sauFmt dbl).minmax true old v).1, false)
  | 13 => fxAdd old (wfield a 0 32) (sextN 8 (wfield b 0 8))
  | _ => (intRmw code bits old v, false)

/-- The atomic of a function code. -/
def sauRmw (code : Nat) (dbl : Bool) (a b : Word) : Rmw :=
  { code := code, dbl := dbl, a := a, b := b, act := fun old => (some (sauNew code dbl old a b).1, old) }

/-- Sum values in a free association (07 R193, 11 R310): two of them, chosen freely, become their sum, until one is left. `k` is the
index of the next free choice and `n` bounds the sums. -/
def treeSumFree (dbl : Bool) : Nat → Nat → List Nat → Nat
  | 0, _, xs => xs.headD 0
  | _, _, [] => 0
  | _, _, [x] => x
  | n + 1, k, x :: y :: t =>
    let xs := x :: y :: t
    let i := Config.freeNat k % xs.length
    let rest := xs.eraseIdx i
    let j := Config.freeNat (k + 1) % rest.length
    treeSumFree dbl n (k + 2) (sauAdd dbl (xs.getD i 0) (rest.getD j 0) :: rest.eraseIdx j)

/-- Addends to one word, combined freely with it. -/
def treeRmw (dbl : Bool) (k : Nat) (vs : List Nat) : Rmw :=
  { code := 10, dbl := dbl, a := 0, b := 0, act := fun old => (some (treeSumFree dbl (vs.length + 1) k (old :: vs)), old) }

/-- A fixed-window add of a context saturated at a virtual address (09 R244). -/
def State.sauSaturated (s : State) (c : BitVec 8) (va : Word) : State :=
  if (s.ctx c).sauSticky then s
  else (s.modCtx c (fun x => { x with sauSticky := true })).postEvent c 0x13 0x13 va 0 0 0 0

end Sys2Proof.Machine
end

