-- ==== Sys2Proof/Machine/Unit.lean ====
section
/-!
DEFINITION. Accesses by a unit other than a hart, on behalf of a context: the engines of a cluster and a die, and the audit unit
(03 R91, R92; 07 R185; 08 R210, R211; 09 R237, R240, R251).
-/
namespace Sys2Proof.Machine

/-- What an access by a unit answers: a value with the state and the replies left, a fault, or what it needs first. -/
inductive UnitRes (α : Type) where
  | ok (a : α) (s : State) (rs : List Reply)
  /-- a translation or access fault, with the page's cause -/
  | fault (cause : BitVec 8)
  /-- a peer or host request failed, with its status -/
  | failed (status : BitVec 8)
  | need (n : Need)

/-- Go on with a value. -/
def UnitRes.bind {α β : Type} (r : UnitRes α) (f : α → State → List Reply → UnitRes β) : UnitRes β :=
  match r with
  | .ok a s rs => f a s rs
  | .fault c => .fault c
  | .failed st => .failed st
  | .need n => .need n

/-- Use the oldest reply, or ask. -/
def useReply {α : Type} (s : State) (rs : List Reply) (n : Need) (f : Reply → α) (good : BitVec 8 → Bool) : UnitRes α :=
  match rs with
  | [] => .need n
  | r :: rs => if good r.status then .ok (f r) s rs else if r.status = 1 then .fault 0x15 else .failed r.status

/-- Read `n` bytes at a place that a unit has resolved. -/
def unitReadAt (s : State) (p : Place) (n : Nat) (rs : List Reply) : UnitRes (List Byte) :=
  match p with
  | .phys pa cls da =>
    if poisoned s pa n then .fault 0x15
    else
      let s := s.scrubbed pa n
      .ok (memRead s.mem pa n) (if cls = 1 then s.homeLines none pa n da false else s.atHome none pa n da false) rs
  | .bank i off =>
    if bankBad (s.bank i) off n then .fault 0x15
    else if off + n ≤ 24576 then .ok (bankBytes (s.bank i) off n) (s.softRead i off n) rs else .fault 0x14
  | .page _ => .fault 0x08
  | .peer dev pa _ => useReply s rs (.request dev 0 0 0 [memHead false false n pa]) (fun r => r.data.take n) (fun st => st = 0)
  | .host a => useReply s rs (.hostRead a n) (fun r => r.data.take n) (fun st => st = 0)

/-- Write bytes at a place that a unit has resolved: the greatest visibility time it takes (08 R205, R210). Writes to a peer and to the
host are answered before the unit goes on. -/
def unitWriteAt (s : State) (w : Who) (p : Place) (data : List Byte) (rs : List Reply) : UnitRes Nat :=
  let n := data.length
  match p with
  | .phys pa cls da =>
    if cls = 1 then
      let (v, s) := s.lArrive { core := w.core, slot := w.slot, ctx := w.ctx, gang := w.gang, rank := w.rank, seq := 0, pa := pa, da := da
                                data := data, v := 0, performed := false, foreign := true }
      .ok v s.lDue rs
    else
      let s := s.atHome none pa n da true
      let s := s.breakLinks (pa / 128) ((pa + n - 1) / 128) (fun _ => false)
      .ok 0 (s.putMem pa data) rs
  | .bank i off => if off + n ≤ 24576 then .ok 0 (s.setBank i (bankWrite (s.bank i) off data)) rs else .fault 0x14
  | .page _ => .fault 0x09
  | .peer dev pa cls =>
    useReply s rs (.request dev 0 2 0 (memHead false (cls = 1) n pa :: bytesWords data)) (fun _ => 0) (fun st => st = 0)
  | .host a =>
    if s.fab.bridge ∧ hostRejects s a n then .failed 0xFF
    else if s.fab.bridge then .ok 0 { s with hostOut := s.hostOut ++ [HostOut.write a data] } rs
    else useReply s rs (.request s.fab.master 3 2 0 (BitVec.ofNat 64 (a % 2 ^ 52 + n <<< 56) :: bytesWords data)) (fun _ => 0) (fun st => st = 0)

/-- An atomic by a unit at a place that it has resolved, performed at its home among the other operations of the line: the old value
(07 R192, 08 R211, 09 R243). -/
def unitRmwAt (s : State) (p : Place) (r : Rmw) (rs : List Reply) : UnitRes Nat :=
  let ask (n : Need) : UnitRes Nat := useReply s rs n (fun q => leNat (q.data.take 8)) (fun st => st = 0 ∨ st = 5)
  match p with
  | .phys pa cls da => if poisoned s pa r.bytes then .fault 0x15 else ask (.sau (r.op pa) (cls = 1) da)
  | .peer dev pa _ => ask (.request dev 1 0 0 (r.body pa))
  | .host a => ask (.hostAtomic (r.body a))
  | _ => .fault 0x09

/-- An atomic by a unit at a local or peer page of class D or L (09 R250). -/
def unitRmw (s : State) (w : Who) (va : Word) (r : Rmw) (rs : List Reply) : UnitRes Nat :=
  match resolve s w va .amo with
  | (.error c, _) => .fault c
  | (.ok (.phys pa cls da), s) => if cls = 2 then .fault 0x09 else unitRmwAt s (.phys pa cls da) r rs
  | (.ok (.peer dev pa cls), s) => if cls = 2 then .fault 0x09 else unitRmwAt s (.peer dev pa cls) r rs
  | _ => .fault 0x09

/-- A read by a unit of local or peer memory of class D or L. -/
def unitRead (s : State) (w : Who) (va : Word) (n : Nat) (rs : List Reply) : UnitRes (List Byte) :=
  match resolve s w va .load with
  | (.error c, _) => .fault c
  | (.ok (.phys pa cls da), s) => if cls = 2 then .fault 0x08 else unitReadAt s (.phys pa cls da) n rs
  | (.ok (.peer dev pa cls), s) => if cls = 2 then .fault 0x08 else unitReadAt s (.peer dev pa cls) n rs
  | _ => .fault 0x08

/-- Send what a unit needs; a request without a route fails at once (01 R39). It answers the reply that the failure gives. -/
def State.askFor (s : State) (w : Waiter) (n : Need) : Option Reply × State :=
  let send (dst : BitVec 12) (cls : BitVec 3) (op : BitVec 5) (ctx : BitVec 8) (body : List Word) (s : State) : Option Reply × State :=
    let (tag, s) := s.newTag
    match s.sendPacket (s.mkPacket dst cls op tag ctx body) with
    | (.at port, s) => (none, s.await { tag := tag, dst := dst, port := port, since := s.pkg.dtime.toNat, waiter := w, lease := none })
    | (_, s) => (some { tag := tag, status := 0xFF, data := [], time := s.pkg.dtime.toNat }, s)
  match n with
  | .sau op l da =>
    let (tag, s) := s.newTag
    let o : SauWait := { op := { op with reply := some (s.fab.devid, tag) }, l := l, da := da, placed := false }
    (none, { s with sauq := s.sauq ++ [o] }.await
      { tag := tag, dst := s.fab.devid, port := 0xF, since := s.pkg.dtime.toNat, waiter := w, lease := none })
  | .request dst cls op ctx body => send dst cls op ctx body s
  | .hostRead addr len =>
    if s.fab.bridge ∧ hostRejects s addr len then (some { tag := s.fab.nextTag, status := 0xFF, data := [], time := s.pkg.dtime.toNat }, s)
    else if s.fab.bridge then
      let (tag, s) := s.newTag
      let s := { s with hostOut := s.hostOut ++ [HostOut.memRead tag addr len] }
      (none, s.await { tag := tag, dst := s.fab.devid, port := 0xF, since := s.pkg.dtime.toNat, waiter := w, lease := none })
    else send s.fab.master 3 0 0 [BitVec.ofNat 64 (addr % 2 ^ 52 + len <<< 56)] s
  | .hostAtomic body =>
    if s.fab.bridge then
      let (tag, s) := s.newTag
      let s := s.sendSelf (s.mkPacket s.fab.devid 1 0 tag 1 body)
      (none, s.await { tag := tag, dst := s.fab.devid, port := 0xF, since := s.pkg.dtime.toNat, waiter := w, lease := none })
    else send s.fab.master 1 0 1 body s
  | _ => (none, s)

end Sys2Proof.Machine
end

