-- ==== Sys2Proof/Machine/Audit.lean ====
section
/-!
DEFINITION. The audit unit (09 R246 to R251): sampling of matrix instructions, escrow, and the audit of an entry.
-/
namespace Sys2Proof.Machine

/-- What a sampled matrix instruction read and wrote (09 R248). -/
structure Sample where
  size : Nat
  m : Nat
  n : Nat
  k : Nat
  a : List Nat
  b : List Nat
  before : List Nat
  after : List Nat
  deriving DecidableEq, Repr

/-- Both operand formats are audited (09 R246). -/
def auditFmt (t : Nat) : Bool := (5 ≤ t && t ≤ 20) || t = 23

/-- The next state of the sampling register (09 R247). -/
def lfsrNext (v : Word) : Word := if wbit v 0 then (v >>> 1) ^^^ 0xD800000000000000 else v >>> 1

/-- The sampling test (09 R247). -/
def lfsrHit (v : Word) (tag : BitVec 16) (n : Nat) : Bool :=
  ((wfield v 0 24) ^^^ ((tag.toNat * 0x9E37) % 2 ^ 24)) % 2 ^ n = 0

/-- Auditing of a context ends in a fault (09 R251): a record, its entries in the cluster are gone, and it is disabled. -/
def State.auditFault (s : State) (c : BitVec 8) (cl : BitVec 5) (cause : BitVec 8) (gang : BitVec 16) (addr pc : Word) : State :=
  let s := (if cause = 0x15 then s.countUe else s).postFault c (faultRec s 3 cause gang 0xFFFF 0xFFFF addr pc)
  let s := s.modCluster cl (fun x => { x with escrow := x.escrow.filter (fun e => e.ctx ≠ c) })
  s.modCtx c (fun x => { x with adis := true })

/-- Who the audit unit of a cluster is when it acts for a context. -/
def auditWho (c : BitVec 8) (cl : BitVec 5) (gang : BitVec 16) : Who :=
  { ctx := c, gang := gang, core := BitVec.ofNat 8 (8 * cl.toNat), slot := 0, rank := 0, sup := true, unit := true }

/-- A sample that finds no room adds 1 to the drop counter (09 R248). -/
def State.dropSample (s : State) (cl : BitVec 5) : State :=
  let h := s.hart
  let va : Word := BitVec.ofNat 64 (h.ahist.toNat * 4096 + 0x802000)
  let s := s.count 0x15 1
  match unitRmw s (auditWho h.ctx cl h.gang) va (sauRmw 0 true 1 0) [] with
  | .ok _ s _ => s
  | .need n =>
    match s.askFor (.drop h.ctx cl h.gang h.pc va) n with
    | (some _, s) => s.auditFault h.ctx cl 0 h.gang va h.pc
    | (none, s) => s
  | .fault c => s.auditFault h.ctx cl c h.gang va h.pc
  | .failed _ => s.auditFault h.ctx cl 0 h.gang va h.pc

/-- An eligible matrix instruction of the current hart retires (09 R246 to R248). -/
def State.auditRetire (s : State) (x : Sample) : State :=
  let h := s.hart
  if h.asampN = 0 || !auditFmt h.tfA.toNat || !auditFmt h.tfB.toNat then s
  else
    let next := lfsrNext h.aseed
    let s := s.withHart (fun h => { h with aseed := next })
    if !lfsrHit next h.atag h.asampN.toNat || (s.ctx h.ctx).adis then s
    else
      let cl := clusterOf h.core
      let size := roundUp x.size 128
      if 262144 - ((s.cluster cl).escrow.map (fun e => e.size)).sum < size then s.dropSample cl
      else
        let e : Escrow := { ctx := h.ctx, gang := h.gang, tag := h.atag, pc := h.pc, hist := BitVec.ofNat 64 (h.ahist.toNat * 4096)
                            thrBin := h.athrBin, thrCount := h.athrCount, handler := h.actlHandler, size := size, m := x.m, n := x.n
                            k := x.k, a := x.a, b := x.b, before := x.before, after := x.after, replies := [], waiting := false, bad := false }
        (s.count 0x14 1).modCluster cl (fun c => { c with escrow := c.escrow ++ [e] })

/-- The reference value of element (i, j) (09 R249): FP64 encoding. -/
def auditRef (e : Escrow) (i j : Nat) : Nat :=
  let start := (fp64.round 0 false (fp32.value (e.before.getD (i * e.n + j) 0))).1
  (List.range e.k).foldl (fun r k =>
    let p := ((fp64.value (e.a.getD (i * e.k + k) 0)).mul (fp64.value (e.b.getD (k * e.n + j) 0))).1
    (fp64.arith 0 ((fp64.value r).add 0 p)).val) start

/-- The bin of a divergence (09 R249): 0 for none, 31 for infinite. -/
def auditBin (ref after : Fv) : Nat :=
  if (ref.isNan && after.isNan) || (!ref.isNan && !after.isNan && ref.cmp after = 0) then 0
  else
    match ref, after with
    | .num rn rm re, .num an am ae =>
      if rm = 0 then 31
      else
        let q := min re ae
        let d : Fv := .num false (unitsOf an am ae q - unitsOf rn rm re q).natAbs q
        match fp64.value (fp64.arith 0 (d.div (.num false rm re))).val with
        | .num _ m x => if m = 0 then 0 else (clampI ((Nat.log2 m : Int) + x + 24) 0 31).toNat
        | _ => 31
    | _, _ => 31

/-- The bin of an entry: that of its greatest divergence (09 R249). -/
def Escrow.bin (e : Escrow) : Nat :=
  ((List.range e.m).flatMap (fun i => (List.range e.n).map (fun j =>
    auditBin (fp64.value (auditRef e i j)) (fp32.value (e.after.getD (i * e.n + j) 0))))).foldl max 0

/-- The accesses of an audit (09 R250): the bin's add, the bins it reads, and the sticky bit; the address in progress is kept for a
fault. It answers the old sticky bit when the threshold is crossed. -/
def auditAccess (s : State) (e : Escrow) (w : Who) : UnitRes (Option Bool) × Word :=
  let row := e.hist + BitVec.ofNat 64 (128 * e.tag.toNat)
  let a1 := row + BitVec.ofNat 64 (4 * e.bin)
  let a2 := row + BitVec.ofNat 64 (4 * e.thrBin.toNat)
  let a3 := e.hist + BitVec.ofNat 64 (0x800000 + e.tag.toNat / 32 * 4)
  let bit := e.tag.toNat % 32
  match unitRmw s w a1 (sauRmw 0 false 1 0) e.replies with
  | .ok _ s rs =>
    match unitRead s w a2 (4 * (32 - e.thrBin.toNat)) rs with
    | .ok bs s rs =>
      let sum := ((List.range (32 - e.thrBin.toNat)).map (fun i => leNat ((bs.drop (4 * i)).take 4))).sum
      if e.thrCount = 0 || sum < e.thrCount.toNat then (.ok none s rs, a2)
      else ((unitRmw s w a3 (sauRmw 2 false (BitVec.ofNat 64 (2 ^ bit)) 0) rs).bind fun old s rs => .ok (some (nbit old bit)) s rs, a3)
    | .fault c => (.fault c, a2)
    | .failed c => (.failed c, a2)
    | .need n => (.need n, a2)
  | .fault c => (.fault c, a1)
  | .failed c => (.failed c, a1)
  | .need n => (.need n, a1)

/-- AUDIT_ENTRY_PROCESS (09 R249 to R251): the oldest entry of a cluster is audited; an uncorrectable error in it is a fault of its audit
(02 R53; which address the record carries is DEDUCED, log 44). -/
def execAuditEntryProcess (cl : BitVec 5) (s : State) : Out :=
  match (s.cluster cl).escrow with
  | [] => .next s
  | e :: rest =>
    if e.waiting then .next s
    else if e.bad then .next (s.auditFault e.ctx cl 0x15 e.gang e.hist e.pc)
    else
      let (r, addr) := auditAccess s e (auditWho e.ctx cl e.gang)
      match r with
      | .ok b s _ =>
        let s := s.modCluster cl (fun c => { c with escrow := rest })
        .next (if b = some false then
          s.postEvent e.ctx 0x12 e.handler (e.tag.setWidth 64) (BitVec.ofNat 64 e.bin) e.pc (e.gang.setWidth 64) 0 else s)
      | .fault c => .next (s.auditFault e.ctx cl c e.gang addr e.pc)
      | .failed _ => .next (s.auditFault e.ctx cl 0 e.gang addr e.pc)
      | .need n =>
        match s.askFor (.audit cl) n with
        | (some q, s) => .next (s.modCluster cl (fun c => { c with escrow := { e with replies := e.replies ++ [q] } :: rest }))
        | (none, s) => .next (s.modCluster cl (fun c => { c with escrow := { e with waiting := true } :: rest }))

end Sys2Proof.Machine
end

