-- ==== Sys2Proof/Machine/Coherence.lean ====
section
/-!
DEFINITION. The home slices (08 R197 to R207; 07 R192, R193; 09 R243, R245): directory and lease steps, the arrival and performance
of class L writes, the chains of atomic operations, and host lines pulled over CXL.cache.
-/
namespace Sys2Proof.Machine

/-! ### Directory lines (08 R197 to R200) -/

/-- OWNERSHIP_REQUEST (08 R197, R199): a core that does not own the line asks for it. -/
def execOwnershipRequest (core : BitVec 8) (line : Nat) (s : State) : Out :=
  .next (s.dirLines (line * 128) 128 (fun l _ => if l.mayWrite core 0 then l else l.own core 0))

/-- An invalidation at a core (08 R198): its clean copy is dropped; when it has a miss pending, it records the number. -/
def DirLine.invalidated (l : DirLine) (core : BitVec 8) (seq : BitVec 8) : DirLine :=
  let l := { l with pending := l.pending.map (fun p => if p.1 = core then (p.1, p.2.1, some seq) else p) }
  if l.state = .S then
    let cs := l.copies.filter (fun k => k.core ≠ core)
    { l with copies := cs, state := if cs.isEmpty then .I else .S }
  else l

/-- INVALIDATION (08 R198). -/
def execInvalidation (core : BitVec 8) (line : Nat) (seq : BitVec 8) (s : State) : Out :=
  .next (s.dirLines (line * 128) 128 (fun l _ => l.invalidated core seq))

/-- A fill at a core that has a miss pending for it (08 R198): it is installed unless its number precedes the recorded one. -/
def DirLine.filled (l : DirLine) (core : BitVec 8) (seq : BitVec 8) : DirLine :=
  match l.pending.find? (fun p => p.1 = core && p.2.1 = seq) with
  | none => l
  | some p =>
    let l := { l with pending := l.pending.erase p }
    if p.2.2.any (fun i => precedes seq i) then l
    else { l with copies := l.copies.map (fun k => if k.core = core then { k with held := true } else k) }

/-- LINE_FILL (08 R198; 07 R173): the copy takes a place in the core's data cache. -/
def execLineFill (core : BitVec 8) (line : Nat) (seq : BitVec 8) (s : State) : Out :=
  .next ((s.dirLines (line * 128) 128 (fun l _ => l.filled core seq)).makeRoom core line)

/-! ### Class L lines (08 R203 to R206) -/

/-- LEASE_READ (08 R203). -/
def execLeaseRead (core : BitVec 8) (line : Nat) (s : State) : Out :=
  .next (s.leaseRead ((tget s.lines line).elim false LLine.da) core line)

/-- A hart's class L write has its value (08 R208): it reaches `vispend`, and an STV that waits for it. -/
def Hart.arrived (h : Hart) (w : LWrite) (v : Nat) : Hart :=
  let h := { h.visible v with maxV := max h.maxV v }
  match h.wait with
  | .stv rd none => if w.seq + 1 = h.postSeq then { h with wait := .stv rd (some (BitVec.ofNat 64 v)) } else h
  | _ => h

/-- L_WRITE_ARRIVAL (08 R205): the oldest write on its way that may reaches its home. -/
def execLWriteArrival (s : State) : Out :=
  match nextArrival s [] s.ltransit with
  | none => .next s
  | some w =>
    let (v, s) := { s with ltransit := s.ltransit.erase w }.lArrive w
    let s := s.mapHarts (fun h => if w.isBy h.gang h.rank then h.arrived w v else h)
    .next s.lDue

/-- L_WRITE_PERFORM (08 R205): the oldest pending write of a line is performed when its home's dtime reaches V - 4; an atomic operation in its
place is its unit's (R207). -/
def execLWritePerform (line : Nat) (s : State) : Out :=
  match s.pendingOf line with
  | [] => .next s
  | w :: _ => .next (if w.v ≤ s.pkg.dtime.toNat + 4 ∧ ¬ w.sau then s.lPerform w else s)

/-- PEER_L_WRITE_ACK (08 R210): the oldest acknowledgement that is due leaves. -/
def execPeerLWriteAck (s : State) : Out :=
  match s.peerAcks.find? (fun a => a.v ≤ s.pkg.dtime.toNat) with
  | none => .next s
  | some a =>
    let s := { s with peerAcks := s.peerAcks.erase a }
    .next (s.sendAnswer (s.mkPacket a.dst (if a.mgt then 4 else 0) 3 a.tag 0 [0]))

/-! ### Atomic operations at a home (07 R192, R193; 08 R211) -/

/-- The key of an operation's line: a host line lies above every line of local memory. -/
def sauLine (o : SauOp) : Nat := if o.host then 2 ^ 45 + o.pa / 128 else o.pa / 128

/-- Width in bytes. -/
def sauBytes (o : SauOp) : Nat := o.narrow.getD (if o.dbl then 8 else 4)

/-- The link that an operation's identity names (08 R211). -/
def sauLink (o : SauOp) (da : Bool) : LinkEntry :=
  { dev := o.reply.elim 0 Prod.fst, ctx := field o.b 40 8, gang := field o.b 24 16, rank := field o.b 18 6, scalar := wbit o.b 16
    gen := field o.b 0 16, line := sauLine o, intact := true, da := da }

/-- Entries of the hart that an operation's identity names. -/
def sauOwns (o : SauOp) (e : LinkEntry) : Bool :=
  o.fn = 15 ∧ e.dev = (sauLink o false).dev ∧ e.ctx = (sauLink o false).ctx ∧ e.gang = (sauLink o false).gang ∧ e.rank = (sauLink o false).rank

/-- The link that a conditional write names is intact. -/
def sauIntact (s : State) (o : SauOp) : Bool :=
  s.linkTable.any (fun e => e.same (sauLink o false) && e.gen = (sauLink o false).gen && e.line = sauLine o && e.intact)

/-- What an operation does to the old value: the new one if it writes, the value it returns, and whether a fixed-window add saturated. -/
def sauAct (o : SauOp) (good : Bool) (old : Nat) : Option Nat × Nat × Bool :=
  let bits := 8 * sauBytes o
  match o.fn.toNat with
  | 9 => (if old = o.b.toNat % 2 ^ bits then some (o.a.toNat % 2 ^ bits) else none, old, false)
  | 14 => (none, old, false)
  | 15 => if good then (some (o.a.toNat % 2 ^ bits), 0, false) else (none, 1, false)
  | c => let r := sauNew c o.dbl old o.a o.b; (some r.1, old, r.2)

/-- The element an operation names. -/
def sauOld (s : State) (o : SauOp) : Nat :=
  if o.host then nfield ((tget s.pulled (o.pa / 128)).elim 0 Prod.fst) (8 * (o.pa % 128)) (8 * sauBytes o) else memNat s.mem o.pa (sauBytes o)

/-- Write an operation's element. -/
def State.sauPut (s : State) (o : SauOp) (v : Nat) : State :=
  if o.host then
    match tget s.pulled (o.pa / 128) with
    | none => s
    | some (d, _) => { s with pulled := tset s.pulled (o.pa / 128) (nsetField d (8 * (o.pa % 128)) (8 * sauBytes o) v, true) }
  else s.putMem o.pa (leBytes (sauBytes o) v)

/-- The hart of this device that asked for an operation sees its write (08 R208). -/
def State.sauSeen (s : State) (o : SauOp) (v : Nat) : State :=
  match o.reply with
  | none => s
  | some (_, tag) =>
    match s.fab.reqs.find? (fun r => r.tag = tag ∧ ¬ r.away s.fab.devid) with
    | some r =>
      match r.waiter with
      | .hart ref => s.modHart ref (fun h => { h.visible v with maxV := max h.maxV v })
      | _ => s
    | none => s

/-- The bookkeeping of an operation at its home: the line's directory copies are recalled, a class L line has been written, links break, a
linked read enters the link table and a conditional write leaves it. -/
def State.sauHome (s : State) (w : SauWait) (writes : Bool) : State :=
  let o := w.op
  let line := sauLine o
  let s := if o.host then s else if w.l then s.homeLines none o.pa (sauBytes o) w.da true else s.atHome none o.pa (sauBytes o) w.da true
  let s := if w.l ∧ writes then
      match tget s.lines line with
      | some x => { s with lines := tset s.lines line { x with lease := 64, written := true } }
      | none => s
    else s
  let s := if writes then s.breakLinks line line (sauOwns o) else s
  let s := if o.fn = 14 then
      let e := sauLink o w.da
      { s with linkTable := s.linkTable.filter (fun f => ¬ (e.scalar ∧ f.same e)) }.addLink e
    else s
  let s := if o.fn = 15 ∧ (sauLink o w.da).scalar then { s with linkTable := s.linkTable.filter (fun e => ¬ e.same (sauLink o w.da)) } else s
  if o.host then s else s.uncount (homeOf o.pa w.da).1 3 1

/-- Write the further elements of an operation (15 R415). -/
def State.sauAlso (s : State) (o : SauOp) : State := o.also.foldl (fun s x => s.putMem x.1 (leBytes (sauBytes o) x.2)) s

/-- Perform an operation: what it returns, whether it saturated. -/
def State.sauDo (s : State) (w : SauWait) : (Nat × Bool) × State :=
  let o := w.op
  let (new, ret, sat) := sauAct o (sauIntact s o) (sauOld s o)
  let s := s.sauHome w new.isSome
  ((ret, sat), match new with
    | some v => (s.sauPut o v).sauAlso o
    | none => s)

/-- Answer an operation: a response packet, and at this device's own contexts the saturation event (08 R211, 09 R244). -/
def State.sauAnswer (s : State) (o : SauOp) (r : Nat × Bool) : State :=
  let s := match o.reply with
    | some (dst, tag) =>
      let st : Nat := if r.2 then 5 else 0
      s.sendAnswer (s.mkPacket dst 1 1 tag 0 [BitVec.ofNat 64 (st <<< 56), BitVec.ofNat 64 r.1, 0])
    | none => s
  match o.issuer with
  | some (c, va) => if r.2 then s.sauSaturated c va else s
  | none => s

/-- Refuse an operation with a status (08 R211). -/
def State.sauRefuse (s : State) (o : SauOp) (status : Nat) : State :=
  match o.reply with
  | some (dst, tag) => s.sendAnswer (s.mkPacket dst 1 2 tag 0 [BitVec.ofNat 64 (status <<< 56), 0, 0])
  | none => s

/-- The operations held for a line, in arrival order; the first 64 form its chain and the others wait at the slice's input. -/
def State.chain (s : State) (line : Nat) : List SauWait := s.sauq.filter (fun w => w.placed && sauLine w.op = line)

/-- The place of an operation among the writes of its class L line (08 R207): it is the oldest pending one. -/
def sauPlace (s : State) (w : SauWait) : Option LWrite := (s.pendingOf (sauLine w.op)).head?.filter (fun m => m.sau)

/-- The operation's time has come: a host line is pulled, and a class L line's dtime has reached V - 4 (08 R205, R207; 09 R243). -/
def sauReady (s : State) (w : SauWait) : Bool :=
  if w.op.host then (tget s.pulled (w.op.pa / 128)).isSome
  else !w.l || (sauPlace s w).any (fun m => m.v ≤ s.pkg.dtime.toNat + 4)

/-- Ask the host for a line in exclusive state (09 R243). -/
def State.pullLine (s : State) (line : Nat) : State :=
  let (tag, s) := s.newTag
  { s with hostOut := s.hostOut ++ [HostOut.pull tag line] }.await
    { tag := tag, dst := s.fab.devid, port := 0xF, since := s.pkg.dtime.toNat, waiter := .pull line, lease := none }

/-- A pulled host line goes back to the host, written back if modified. -/
def State.unpull (s : State) (n : Nat) : State :=
  match tget s.pulled n with
  | none => s
  | some (d, dirty) =>
    let s := { s with pulled := tdel s.pulled n }
    if dirty then { s with hostOut := s.hostOut ++ [HostOut.write (n * 128) (leBytes 128 d)] } else s

/-- The host takes a pulled line back (09 R243, R245). -/
def State.snooped (s : State) (line : Nat) : State :=
  ({ s with snoops := s.snoops.filter (fun k => k ≠ line) }.unpull line).breakLinks (2 ^ 45 + line) (2 ^ 45 + line) (fun _ => false)

/-- Snoops that waited for the operations chained for their lines are answered (09 R243). -/
def State.lateSnoops (s : State) : State :=
  (s.snoops.filter (fun k => (s.chain (2 ^ 45 + k)).isEmpty)).foldl (fun s k => s.snooped k) s

/-- An operation reaches its home (07 R192): on a class L line it takes its visibility time (08 R205, R207); the first for a host line asks
for it (09 R243). -/
def State.sauTake (s : State) (w : SauWait) : State :=
  let o := w.op
  let line := sauLine o
  let first := (s.chain line).isEmpty
  let s := if w.l then
      let x := s.lline w.da line
      let v := max s.pkg.dtime.toNat (max x.horizon x.lastV)
      let m : LWrite := { core := 0, slot := 0, ctx := 0, gang := 0xFFFF, rank := 0, seq := 0, pa := o.pa, da := w.da, data := [], v := v
                          performed := false, foreign := true, sau := true }
      { s with lines := tset s.lines line { x with lastV := v }, lwrites := s.lwrites ++ [m] }
    else s
  let s := { s with sauq := s.sauq ++ [{ w with placed := true }] }
  if first ∧ o.host ∧ (tget s.pulled (o.pa / 128)).isNone then s.pullLine (o.pa / 128) else s

/-- An element of an operation in local memory has an uncorrectable error. -/
def sauSpoilt (s : State) (o : SauOp) : Bool := !o.host && (poisoned s o.pa (sauBytes o) || o.also.any (fun x => poisoned s x.1 (sauBytes o)))

/-- Perform an operation whose line is there, and answer it; uncorrectable data refuse it (08 R210). -/
def State.sauOne (s : State) (w : SauWait) : (Nat × Bool) × State :=
  if sauSpoilt s w.op then ((0, false), s.countUe.sauRefuse w.op 1)
  else
    let (r, s) := s.sauDo w
    (r, s.sauAnswer w.op r)

/-- Apply operations one after another in arrival order. -/
def State.sauAll (s : State) : List SauWait → State
  | [] => s
  | w :: ws => State.sauAll (s.sauOne w).2 ws

/-- The word of a chain to which only floating adds without an answer are made takes their sum in a free association; an add whose old
value is returned, as every packet's is, is applied in arrival order (07 R193, 11 R310; log 1). -/
def State.sauResum (before : State) (ops : List SauOp) (s : State) (o : SauOp) : State :=
  let same := ops.filter (fun p => p.pa = o.pa ∧ sauBytes p = sauBytes o)
  let touched := ops.filter (fun p => p.pa < o.pa + sauBytes o ∧ o.pa < p.pa + sauBytes p)
  if same.head? = some o ∧ same.length = touched.length ∧ same.all (fun p => p.fn = 10 ∧ p.reply = none) ∧ 2 ≤ same.length then
    let vs := sauOld before o :: same.map (fun p => p.a.toNat % 2 ^ (8 * sauBytes p))
    { s with freshCount := s.freshCount + 2 * vs.length }.sauPut o (treeSumFree o.dbl (vs.length + 1) s.freshCount vs)
  else s

/-- An operation on a class L line is performed at V - 4 (08 R207). -/
def State.sauLeased (s : State) (w : SauWait) : State :=
  match sauPlace s w with
  | none => s
  | some m =>
    let writes := (sauAct w.op (sauIntact s w.op) (sauOld s w.op)).1.isSome
    let s := { s with sauq := s.sauq.erase w, lwrites := s.lwrites.map (fun u => if u = m then { u with performed := true } else u) }
    (if writes then s.sauSeen w.op m.v else s).sauOne w |>.2

/-- The SAU applies what is held for a line, when its time has come: one operation of a class L line, or the chain of another. -/
def State.sauRun (s : State) (line : Nat) : State :=
  match s.chain line with
  | [] => s
  | w :: rest =>
    if ¬ sauReady s w then s
    else if w.l then s.sauLeased w
    else
      let ws := (w :: rest).takeWhile (fun w => !w.l) |>.take 64
      let t := State.sauAll { s with sauq := s.sauq.filter (fun u => u ∉ ws) } ws
      (ws.foldl (fun t w => State.sauResum s (ws.map (fun w => w.op)) t w.op) t).lateSnoops

/-- Whether a line takes visibility times: an atomic packet does not carry the page's class, so the home goes by its record of the line, and
by its evicted horizon for a line it does not hold (DEDUCED, log 33). -/
def leasedLine (s : State) (o : SauOp) : Bool :=
  !o.host && ((tget s.lines (o.pa / 128)).isSome || decide (s.pkg.dtime.toNat < (s.lline false (o.pa / 128)).horizon))

/-- An operation reaches its home: it is performed at once where nothing is held before it and its line is ready. -/
def State.sauArrive (s : State) (w : SauWait) : State :=
  let free := (s.chain (sauLine w.op)).isEmpty
  let s := s.sauTake w
  if free then s.sauRun (sauLine w.op) else s

/-- An operation from outside the device's own harts and units. -/
def sauNewWait (s : State) (o : SauOp) : SauWait :=
  { op := o, l := leasedLine s o, da := (tget s.lines (o.pa / 128)).elim false LLine.da, placed := true }

/-- SAU_OPERATION (07 R192): one that is on its way here arrives, or one from elsewhere. -/
def execSauOperation (o : SauOp) (s : State) : Out :=
  match s.sauq.find? (fun w => w.op = o && !w.placed) with
  | some w => .next ({ s with sauq := s.sauq.erase w }.sauArrive w)
  | none => .next (s.sauArrive (sauNewWait s o))

/-- SAU_CHAIN_APPLY (07 R193): the line has arrived, and the SAU applies its chain. -/
def execSauChainApply (line : Nat) (s : State) : Out := .next (s.sauRun line)

/-! ### Evictions and snoops (08 R197, R206; 09 R243, R245) -/

/-- CXL_SNOOP (09 R243): the host takes a pulled line back, at once or when the operations chained for it have been applied. -/
def execCxlSnoop (line : Nat) (s : State) : Out :=
  if (s.chain (2 ^ 45 + line)).isEmpty then .next (s.snooped line)
  else .next { s with snoops := if line ∈ s.snoops then s.snoops else s.snoops ++ [line] }

/-- L2_EVICTION (08 R206): of a line of local memory, or of a pulled host line above 2^45 (09 R243). -/
def execL2Eviction (line : Nat) (s : State) : Out :=
  if ¬ quiet s line then .next s
  else
    let s := s.breakLinks line line (fun _ => false)
    .next (if 2 ^ 45 ≤ line then s.unpull (line - 2 ^ 45) else s.evict line)

end Sys2Proof.Machine
end

