-- ==== Sys2Proof/Machine/Sequence.lean ====
section
/-!
DEFINITION. How a convoy's members perform together (06 R161 to R168, R471, R472; 12 R325 to R327): the checks between members, the
charge, the elements below the lowest fault, and what a trap reports.
-/
namespace Sys2Proof.Machine

/-- A member at its place: its class, body and definition. -/
structure Placed where
  cls : Nat
  body : Body
  word : Word
  m : Member

/-! ### Checks (12 R327 stages 4 to 6) -/

/-- Member j conflicts with an earlier one (12 R325 items 6 and 7). -/
def conflict (p : Placed) (earlier : List Placed) : Bool :=
  earlier.any (fun q => p.m.writeSet &&& (q.m.readSet q.body ||| q.m.writeSet) ≠ 0)

/-- The lowest member that a check refuses, from index j on. -/
def firstBad (f : Nat → Placed → List Placed → Option (BitVec 8 × Word)) : List Placed → List Placed → Nat → Option (BitVec 8 × Word × Nat)
  | [], _, _ => none
  | p :: ps, before, j =>
    match f j p before with
    | some (c, t) => some (c, t, j)
    | none => firstBad f ps (before ++ [p]) (j + 1)

/-- Stages 4, 5 and 6 of 12 R327: cause, `stval`, member. -/
def memberChecks (ps : List Placed) (hdr : BitVec 32) (c : Captured) (done restart : BitVec 6) (h : Hart) :
    Option (BitVec 8 × Word × Nat) :=
  match firstBad (fun _ p before => if conflict p before then some (0x03, hdr.setWidth 64) else none) ps [] 0 with
  | some r => some r
  | none =>
    match firstBad (fun _ p _ => if p.m.illegal p.body c h then some (0x02, (p.word.setWidth 32).setWidth 64) else none) ps [] 0 with
    | some r => some r
    | none => firstBad (fun j p _ => (p.m.shapeFault c h (wbit done j) (wbit restart j)).map (fun k => (k, 0))) ps [] 0

/-! ### Charge (00 R9, 05 R136, 16 R429) -/

/-- The first element a member performs. -/
def Placed.from (p : Placed) (c : Captured) (restart : Bool) : Nat := if p.m.whole || p.m.mxu.isSome || restart then 0 else c.start

/-- Elements over which a member is charged (06 R164): from `vstart`, or from 0 for a restarted member. -/
def Placed.charged (p : Placed) (c : Captured) (restart : Bool) : Nat :=
  if p.m.mxu.isSome then 0 else c.vl - (if restart then 0 else c.start)

/-- The coins of a member (00 R9, 16 R429). -/
def Placed.coins (p : Placed) (c : Captured) (restart : Bool) (h : Hart) : Nat :=
  match p.m.mxu with
  | some f => f h
  | none => cdiv ((p.charged c restart - p.m.applied c h) * p.m.w * p.m.n) 64

/-- Element groups a member issues (06 R161), and the counter event of its unit (10 Table 10.11). -/
def Placed.groups (p : Placed) (c : Captured) (restart : Bool) : Nat := cdiv (p.charged c restart * p.m.w) 2048

/-- The counter event of a unit. -/
def unitEvent (cls : Nat) : Nat := if cls < 5 then 4 + cls else if cls = 5 then 9 else 0x0A

/-- Cycles in which a member's groups issue (06 Table 6.4). -/
def Placed.cycles (p : Placed) (c : Captured) (restart : Bool) (h : Hart) : Nat :=
  let g := p.groups c restart
  if p.cls = 5 then (p.m.mxu.map (fun f => f h)).getD g else if p.cls = 6 then 4 * g else if p.cls = 1 ∧ p.m.w = 64 then 2 * g else g

/-- Charge the current hart's queue (05 R136). -/
def State.charge (s : State) (n : Nat) : State :=
  let key := (s.hart.purse s).getD 0
  let s := s.modCore s.hart.core (fun c =>
    { c with purses := tset c.purses key (max (-(2 ^ 31 : Nat)) (tgetD c.purses key 0 - (n : Int))) })
  (s.count 3 n).withHart (fun h => { h with stripCoins := h.stripCoins + n })

/-- Issue a member: its charge and its counts. -/
def State.issue (s : State) (p : Placed) (c : Captured) (restart : Bool) : State :=
  let n := p.cycles c restart s.hart
  let s := (s.charge (p.coins c restart s.hart)).count (unitEvent p.cls) (if p.cls = 5 then n else p.groups c restart)
  s.withHart (fun h =>
    if p.cls = 2 ∨ p.cls = 3 then { h with stripMem := h.stripMem + n } else { h with stripArith := h.stripArith + n })

/-- A member that runs writes a scalar register, for which the hart waits until the convoy has drained (06 R160). -/
def scalarDrain (done : BitVec 6) (ps : List Placed) : Bool := ps.zipIdx.any (fun p => p.1.m.scalar && !wbit done p.2)

/-- Issue the members that run. -/
def State.issueAll (s : State) (c : Captured) (done restart : BitVec 6) (ps : List Placed) : State :=
  let s := s.traceFree 3
  ((ps.zipIdx.foldl (fun s p => if wbit done p.2 then s else s.issue p.1 c (wbit restart p.2)) s).count 2 1).count 0x11 (scalarDrain done ps).toNat

/-! ### Performing -/

/-- A run of the members so far: the state, the limit the lowest fault sets, that fault (member, element, cause, `stval`), the
members that ran to their end, those left for a restart, the registers of members that wait for a whole member, and the replies that
each member found. -/
structure Run where
  s : State
  lim : Nat
  flt : Option (Nat × Nat × BitVec 8 × Word)
  ended : BitVec 6
  own : BitVec 6
  restart : BitVec 6
  blocked : BitVec 40
  /-- the replies each member found -/
  pre : List (List Reply)

/-- What a convoy answers. -/
inductive Ran where
  | ok (s : State)
  | trap (cause : BitVec 8) (tval : Word) (cv : TrapCv) (s : State)
  | need (n : Need)

/-- Vector registers of a set. -/
def vectorRegs (r : BitVec 40) : BitVec 32 := field r 0 32

/-- The members of a set of registers. -/
def regCount {n : Nat} (r : BitVec n) : Nat := ((List.range n).filter (fun i => r.getLsbD i)).length

/-- Registers with an uncorrectable error that a member reads (02 R53). -/
def Placed.spoilt (p : Placed) (h : Hart) : Bool := vectorRegs (p.m.readSet p.body) &&& h.vbad ≠ 0 || p.m.tiles &&& h.abad ≠ 0

/-- Registers with a corrected error that a member reads (02 R53). -/
def Placed.mended (p : Placed) (h : Hart) : Nat :=
  regCount (vectorRegs (p.m.readSet p.body) &&& h.vsoft) + regCount (p.m.tiles &&& h.asoft)

/-- A member over [lo, hi) writes whole vector registers, which are good again (02 R53). -/
def Placed.fills (p : Placed) (c : Captured) (lo hi : Nat) (h : Hart) : Bool :=
  !p.m.whole && p.m.mxu.isNone && !p.body.men && lo = 0 && hi = c.vl && c.vl * p.m.w = 8 * h.vlb.toNat * p.m.n

/-- The registers that a member fills are good. -/
def Hart.good (h : Hart) (r : BitVec 32) : Hart := { h with vbad := h.vbad &&& ~~~ r, vsoft := h.vsoft &&& ~~~ r }

/-- A member performs its elements lo to hi - 1. -/
def Placed.run (p : Placed) (c : Captured) (lo hi : Nat) (s : State) : MRes :=
  if s.hart.vbad ||| s.hart.vsoft = 0 ∨ ¬ p.fills c lo hi s.hart then p.m.run c lo hi s
  else match p.m.run c lo hi s with
    | .ok s => .ok (s.withHart (fun h => h.good (vectorRegs p.m.writeSet)))
    | r => r

/-- A member starts only when every earlier one has completed: whole members and TZERO, TMAC, TOPA (06 R163, 16 R429). -/
def Member.after (m : Member) : Bool := m.whole || m.mxu.isSome

/-- Member j of the first run: it performs its elements below the limit, unless an earlier fault keeps it from starting. One that reads a
register with an uncorrectable error faults with cause 0x15 (02 R53); the access has no address, and `stval` is free (log 44). -/
def Run.step (c : Captured) (restart : BitVec 6) (r : Run) (j : Nat) (p : Placed) : Except Need Run :=
  let wait := { r with blocked := r.blocked ||| p.m.writeSet }
  if p.m.after && r.flt.isSome then .ok wait
  else if !p.m.after && p.m.readSet p.body &&& r.blocked ≠ 0 then .ok { wait with restart := bset r.restart j true }
  else if c.vl = 0 && p.m.mxu.isNone then .ok { r with ended := bset r.ended j true }
  else
    let lo := p.from c (wbit restart j)
    let ran : MRes := if p.spoilt r.s.hart then .fault c.start 0x15 (Config.freeWord r.s.freshCount) else p.run c lo r.lim r.s
    match ran with
    | .ok s => .ok { r with s := s.sramUp (p.mended r.s.hart), ended := bset r.ended j true }
    | .need n => .error n
    | .fault f cause tval =>
      let r := { r with flt := some (j, f, cause, tval), lim := f, own := bset r.own j true }
      if p.m.whole then .ok { r with blocked := r.blocked ||| p.m.writeSet }
      else
        match p.run c lo f r.s with
        | .ok s => .ok { r with s := s }
        | .need n => .error n
        | .fault _ _ _ => .ok r

/-- The first run over the members that are not done. -/
def Run.all (c : Captured) (done restart : BitVec 6) : Nat → List Placed → Run → Except Need Run
  | _, [], r => .ok r
  | j, p :: ps, r =>
    let r := { r with pre := r.pre ++ [r.s.hart.replies] }
    if wbit done j then Run.all c done restart (j + 1) ps { r with ended := bset r.ended j true }
    else
      match r.step c restart j p with
      | .error n => .error n
      | .ok r => Run.all c done restart (j + 1) ps r

/-- How many of the leading members had completed when a member with these operands started: every whole member that feeds it, directly
or through others, and all that come before that one (06 R163). The members before it, latest first. -/
def startedAfter : List (Placed × Nat) → BitVec 40 → Nat
  | [], _ => 0
  | (p, j) :: before, regs =>
    if p.m.writeSet &&& regs = 0 then startedAfter before regs
    else if p.m.whole then j + 1
    else startedAfter before (regs ||| p.m.readSet p.body)

/-- Which members are marked done and restart at the fault of member k (06 R167, R472), the registers that have not been written, the state
with free choices made, and the state in which those marked done have performed all their elements. -/
structure Marks where
  done : BitVec 6
  restart : BitVec 6
  blocked : BitVec 40
  s : State
  t : State

/-- Which members had completed before the fault of member k (06 R167): those marked already, and of those that could have, the ones
the hardware's timing let complete, a free choice (log 1); one that starts after every earlier one needs them all, an MXU member
before k is always completed (16 R429), and so is every member before a whole member that faults, all that k's start waited for, and a
FIFO member that started with the convoy (15 R410). A member that faults above f is not done, and none that reads what it writes. A member
that reads what a whole member not completed writes has not started, and is marked restart (06 R472). -/
def chooseDone (c : Captured) (r : Run) (k first : Nat) (whole nochain : Bool) (done restart : BitVec 6) :
    Nat → List Placed → List Placed → Marks → Marks
  | _, [], _, a => a
  | j, p :: ps, before, a =>
    if !wbit done j && !p.m.after && p.m.readSet p.body &&& a.blocked ≠ 0 then
      chooseDone c r k first whole nochain done restart (j + 1) ps (before ++ [p])
        { a with restart := bset a.restart j true, blocked := a.blocked ||| p.m.writeSet }
    else
      let mustLater := j < k && ps.zipIdx.any (fun q => q.1.m.mxu.isSome && j + 1 + q.2 < k && wbit r.ended (j + 1 + q.2))
      let must := wbit done j || j < first || p.m.ends c (p.from c (wbit restart j)) r.lim r.s
        || (j < k && (nochain || p.m.mxu.isSome || mustLater || whole))
        || (p.m.fifo && (List.range j).all (fun i => wbit done i))
      let feeds := before.zipIdx.any (fun q => !wbit a.done q.2 && q.1.m.writeSet &&& p.m.readSet p.body ≠ 0)
      let can := j ≠ k && !wbit r.own j && wbit r.ended j && !feeds
        && (!p.m.after || (List.range j).all (fun i => wbit a.done i)) && !(nochain && k < j)
      let (x, s) := a.s.freshBool
      let t := a.t.withHart (fun h => { h with replies := r.pre.getD j [] })
      let lo := p.from c (wbit restart j)
      let skip := wbit done j || (c.vl = 0 && p.m.mxu.isNone)
      let full : Option State := if skip then some t else match p.run c lo c.vl t with
        | .ok u => some u
        | _ => none
      let ends := full.isSome && (must && wbit r.ended j || can && x)
      let part : State := if skip || p.m.after || !wbit (r.ended ||| r.own) j then t else match p.run c lo (max lo r.lim) t with
        | .ok u => u
        | _ => t
      chooseDone c r k first whole nochain done restart (j + 1) ps (before ++ [p])
        { a with done := if ends then bset a.done j true else a.done
                 blocked := if p.m.after && !ends then a.blocked ||| p.m.writeSet else a.blocked, s := s
                 t := if ends then full.getD t else part }

/-- The reported element (06 R471): the fault's, or the least first element of a unit that it cuts. -/
def reported (c : Captured) (f : Nat) (d : BitVec 6) (ps : List Placed) : Nat :=
  ps.zipIdx.foldl (fun e q =>
    let u := q.1.m.unit c
    if 1 < u && !wbit d q.2 then min e (f / u * u) else e) f

/-- The second run: members that completed perform all their elements, the others those below the reported element. -/
def rerun (c : Captured) (was d : BitVec 6) (restart : BitVec 6) (ran : BitVec 6) (e : Nat) (pre : List (List Reply)) :
    Nat → List Placed → State → State
  | _, [], s => s
  | j, p :: ps, s =>
    let lo := p.from c (wbit restart j)
    let s := s.withHart (fun h => { h with replies := pre.getD j [] })
    let part (s : State) : State :=
      if p.m.after || !wbit ran j then s
      else match p.run c lo (max lo e) s with
        | .ok s => s
        | _ => s
    let next : State :=
      if wbit was j || (c.vl = 0 && p.m.mxu.isNone) then s
      else if wbit d j then
        match p.run c lo c.vl s with
        | .ok s => s
        | _ => part s
      else part s
    rerun c was d restart ran e pre (j + 1) ps next

/-- Perform a convoy's members: to the end, or to the trap of its lowest faulting element. -/
def perform (ps : List Placed) (c : Captured) (nochain : Bool) (done restart : BitVec 6) (s : State) : Ran :=
  let s := s.issueAll c done restart ps
  let r0 : Run := { s := s, lim := c.vl, flt := none, ended := 0, own := 0, restart := 0, blocked := 0, pre := [] }
  match Run.all c done restart 0 ps r0 with
  | .error n => .need n
  | .ok r =>
    match r.flt with
    | none => .ok r.s
    | some (k, f, cause, tval) =>
      let start := (ps[k]?).elim 0 (fun p => startedAfter ((ps.take k).zipIdx.reverse) (p.m.readSet p.body))
      let a := chooseDone c r k start ((ps[k]?).any (fun p => p.m.after)) nochain done restart 0 ps []
        { done := 0, restart := 0, blocked := 0, s := s, t := s }
      let e := reported c f a.done ps
      let s := rerun c done a.done restart ((r.ended ||| r.own) &&& ~~~ a.restart) e r.pre 0 ps a.s
      .trap cause tval { vstart := startWord c.vcols e, restart := a.restart, done := a.done, member := BitVec.ofNat 3 k } s

/-! ### A lone convoy -/

/-- The convoy has drained: `vstart` and `cvidx` become 0, and it counts as retired (06 R152, R168). -/
def Hart.drained (h : Hart) : Hart :=
  { h with vstart := 0, cvRestart := 0, cvDone := 0, cvMember := 0, instret := h.instret + 1, wpSkip := false, replies := []
           wait := .none, relStart := none, lookups := [] }

/-- A vector instruction by itself is a convoy of one member (12 R321): dispatched when the hart's earlier convoys have drained,
checked, performed and retired. -/
def lone (cls : BitVec 4) (f8 : BitVec 8) (b : Body) (m : Member) (s : State) : Out :=
  if ¬ s.hart.disp.isEmpty then .next (s.applyNeed (.wait .drain))
  else
    let word := encodeBody cls f8 b
    let c := s.hart.captured
    let done := s.hart.cvUse.1 &&& 1
    let restart := s.hart.cvUse.2 &&& 1 &&& ~~~ done
    let ps : List Placed := [{ cls := cls.toNat, body := b, word := word, m := m }]
    match memberChecks ps (loneHeader cls) c done restart s.hart with
    | some (cause, tval, j) =>
      .next (s.takeTrap cause tval (some { vstart := s.hart.vstart, restart := restart, done := done, member := BitVec.ofNat 3 j }))
    | none =>
      match perform ps c false done restart s with
      | .ok s => .next (s.withHart (fun h => { h.drained with pc := h.pc + 12 }))
      | .trap cause tval cv s => .next (s.takeTrap cause tval (some cv))
      | .need n => .next (s.applyNeed n)

end Sys2Proof.Machine
end

