-- ==== Sys2Proof/Machine/VFloat.lean ====
section
/-!
DEFINITION. Class VFMA: floating-point arithmetic, compares, classes and conversions (14 R379 to R385).
-/
namespace Sys2Proof.Machine

/-- The floating format of set F (11 Table 11.1). -/
def fOf (b : Body) : Fmt := (fmtOf (tyOf b)).getD fp32

/-- A floating operation of two sources, and of the old destination when `reads`; `frm` says that it rounds under `vfrm`
(14 R379). The answer is from the format, the mode and the encodings a, b and d. -/
def floatMember (b : Body) (reads frm : Bool) (f : Fmt → Nat → Nat → Nat → Nat → Elem) : Member :=
  let w := wOf b
  let n := grpOf b
  let vd := if reads then acc b.vd n w else dst b.vd n w
  { Member.plain ([vd, src b.vs1 n w] ++ src2Op b n w) false w n
      (fun c lo hi => writeElems b b.vd.toNat w lo hi (fun h e =>
        f (fOf b) c.vfrm.toNat (h.vget b.vs1.toNat w e) (src2 b c h w e) (h.vget b.vd.toNat w e))) with
    bad := fun c _ => !inF (tyOf b) || modBad b 1 || src2Bad b || (frm && frmBad c) }

/-- A fused multiply-add with the product or the addend negated (14 Table 14.6): one rounding. -/
def fmaMember (b : Body) (negProd negAdd : Bool) : Member :=
  floatMember b true true (fun f mode x y d =>
    let a := f.value x
    let c := f.value d
    f.arith mode (Fv.fma mode (if negProd then a.neg else a) (f.value y) (if negAdd then c.neg else c)))

/-- A sign injection (14 R379): a's magnitude with the sign that `sg` makes of the signs of a and b; a NaN gives the canonical one. -/
def signMember (b : Body) (sg : Bool → Bool → Bool) : Member :=
  floatMember b false false (fun f _ x y _ =>
    let top := f.width - 1
    if (f.value x).isNan then bits f.nanBits else bits (f.signed (sg (nbit x top) (nbit y top)) (x % 2 ^ top)))

/-- A floating compare (14 R380, 11 R292): NV for a signalling NaN, or for any NaN where `loud`. -/
def fcmpMember (b : Body) (loud nan : Bool) (ok : Int → Bool) : Member :=
  let w := wOf b
  let n := grpOf b
  Member.plain ([mdst b.vd, src b.vs1 n w] ++ src2Op b n w) (!inF (tyOf b) || modBad b 1 || src2Bad b) w n
    (fun c lo hi => writeBits b b.vd.toNat lo hi (fun h e =>
      let x := (fOf b).value (h.vget b.vs1.toNat w e)
      let y := (fOf b).value (src2 b c h w e)
      if x.isNan || y.isNan then (nan, if loud then fNV else x.sig ||| y.sig) else (ok (x.cmp y), 0)))

/-- The class of an encoding (14 R381). -/
def fclass (f : Fmt) (x : Nat) : Nat :=
  let normal := nfield x f.mb f.eb ≠ 0
  match f.value x with
  | .nan sig => if sig then 256 else 512
  | .inf neg => if neg then 1 else 128
  | .num neg m _ =>
    if m = 0 then (if neg then 8 else 16)
    else if normal then (if neg then 2 else 64)
    else if neg then 4 else 32

/-! ### Conversions (14 R382 to R385) -/

/-- stype. -/
def stypeOf (b : Body) : Nat := wfield b.mod 4 6
/-- `.sat`. -/
def satOf (b : Body) : Bool := wbit b.mod 1
/-- `.ef`. -/
def efOf (b : Body) : Bool := wbit b.mod 2

/-- Group of an operand of width w where the other's is v: the narrower has the body's group (14 R371). -/
def pairGroup (b : Body) (w v : Nat) : Nat := if w ≤ v || v = 0 then grpOf b else grpOf b * (w / v)

/-- The operands of a conversion. -/
def cvtOps (b : Body) : List Opnd :=
  let wd := wOf b
  let ws := eewOf (stypeOf b)
  [dst b.vd (pairGroup b wd ws) wd, src b.vs1 (pairGroup b ws wd) ws]

/-- A scalar conversion: admitted modifiers, legality of the pair, and the answer from mode and source element. -/
def cvtMember (b : Body) (mods : BitVec 12) (legal : Bool) (f : Nat → Nat → Elem) : Member :=
  let wd := wOf b
  let ws := eewOf (stypeOf b)
  { Member.plain (cvtOps b) false (max wd ws) (max (pairGroup b wd ws) (pairGroup b ws wd))
      (fun c lo hi => writeElems b b.vd.toNat wd lo hi (fun h e => f c.vfrm.toNat (h.vget b.vs1.toNat ws e))) with
    bad := fun c _ => !legal || modBad b mods || b.vs2 ≠ 0 || b.vs3 ≠ 0 || frmBad c }

/-- A register's byte j: a block scale. -/
def Hart.scale (h : Hart) (r : Reg) (j : Nat) : Nat := nfield (h.vreg r.toNat) (8 * j) 8

/-- The value of a block scale byte (11 R285, R296). -/
def scaleValue (t x : Nat) : Fv :=
  if t = 16 then
    if x % 256 = 255 then .nan false
    else if nfield x 4 4 = 0 then .num false (nfield x 0 4) (-11)
    else .num false (16 + nfield x 0 4) ((nfield x 4 4 : Int) - 12)
  else elemValue 28 x

/-- The value of element v of a block type under its scale (11 R294, R296, R297). -/
def blockValue (t v x : Nat) : Fv :=
  match scaleValue t x with
  | .nan _ => .nan false
  | sc =>
    match elemValue t v with
    | .num neg m e => ((Fv.num neg m e).mul sc).1
    | w => w

/-- A block conversion: whole blocks of the type t, elements of `wd` and `ws`, its scales in vs3 (14 R384); its elements are performed
block by block, those blocks that lie wholly in [lo, hi). -/
def blockMember (b : Body) (t : Nat) (mods : BitVec 12) (frm legal writes : Bool)
    (run : Captured → Hart → Nat → (List (Nat × Elem) × Option Nat)) : Member :=
  let wd := wOf b
  let ws := eewOf (stypeOf b)
  let len := blockLen t
  let ops := cvtOps b
  let sc := single b.vs3 writes
  { Member.plain (ops ++ [sc]) false (max wd ws) (max (pairGroup b wd ws) (pairGroup b ws wd))
      (fun c lo hi s =>
        let blocks := List.range' (lo / len) (hi / len - lo / len)
        let rs := blocks.map (fun j => (j, run c s.hart j))
        let h := rs.foldl (fun h r =>
          let h := h.vputs b.vd.toNat wd (r.2.1.map (fun i => (i.1, i.2.val)))
          match r.2.2 with
          | some x => h.vset b.vs3.toNat 8 r.1 x
          | none => h) s.hart
        let es := rs.flatMap (fun r => r.2.1)
        .ok { s with hart := h.raise (es.foldl (fun a i => a ||| i.2.fl) 0) false }) with
    bad := fun c _ => !legal || modBad b mods || b.vs2 ≠ 0 || b.men || (frm && frmBad c)
      || ops.any (fun o => o.regs &&& sc.regs ≠ 0)
    shape := fun c _ skip => if c.vl % len ≠ 0 || (!skip && c.start % len ≠ 0) then some 0x0D else none
    unit := fun _ => len }

/-- floor(log2) of a nonzero number m x 2^e. -/
def fLog2 (m : Nat) (e : Int) : Int := (Nat.log2 m : Int) + e

/-- The greatest magnitude of finite values. -/
def amax (vs : List Fv) : Fv :=
  vs.foldl (fun a v => match v with
    | .num _ m e => if a.cmp (.num false m e) < 0 then .num false m e else a
    | _ => a) (.num false 0 0)

/-- emax of an MX element type (11 R295). -/
def mxEmax (t : Nat) : Int :=
  match t with
  | 10 => 8
  | 11 => 15
  | 12 => 4
  | 13 => 2
  | 14 => 2
  | _ => 0

/-- An MXINT8 element of a value (11 R294, R295): RNE to a multiple of 1/64, clamped. -/
def mxInt8 (v : Fv) : Elem :=
  match v with
  | .num neg m e =>
    let (q, inexact) := roundInt 0 neg m (e + 6)
    let r := clampI q (-128) 127
    { val := narrow 8 r, fl := if r ≠ q then fOF ||| fNX else if inexact then fNX else 0, sat := false }
  | _ => bits 0

/-- UE4M4 of a nonnegative value under RNE, 240 at most (11 R296). -/
def toUE4M4 (v : Fv) : Nat :=
  match v with
  | .num _ m e =>
    if m = 0 then 0
    else
      let q := max (fLog2 m e - 4) (-11)
      let n := (quantize 0 false m e q).1
      min 254 ((q + 11).toNat * 16 + n)
  | _ => 255

/-- A block of FP32 values as a block type: elements and scale byte (11 R295, R296). -/
def toBlock (t : Nat) (vs : List Fv) : List Elem × Nat :=
  let bad := vs.any (fun v => match v with
    | .num _ _ _ => false
    | _ => true)
  if bad then
    let fl : BitVec 5 := if vs.any (fun v => match v with
      | .inf _ => true
      | .nan sig => sig
      | _ => false) then fNV else 0
    (vs.map (fun _ => { val := 0, fl := fl, sat := false }), 255)
  else
    match amax vs with
    | .num _ m e =>
      if m = 0 then (vs.map (fun _ => bits 0), 0)
      else if t = 16 then
        let (q, g) := divOdd 64 m 6 e
        let x := toUE4M4 (.num false q g)
        if x = 0 then (vs.map (fun _ => bits 0), 0)
        else (vs.map (fun v => felem (e2m1.round 0 false (v.div (scaleValue 16 x)).1)), x)
      else
        let x := (clampI (fLog2 m e - mxEmax t + 127) 0 254).toNat
        let f := (fmtOf t).getD e4m3
        let one (v : Fv) : Elem := if t = 15 then mxInt8 (v.scale (127 - x)) else felem (f.round 0 true (v.scale (127 - x)))
        (vs.map one, x)
    | _ => (vs.map (fun _ => bits 0), 255)

/-- The `.ef` chain over elements (11 R303): carry, then (element, value, flags) in order. -/
def efChain (f : Fmt) (mode : Nat) (sat : Bool) (h : Hart) (vs1 : Nat) : List Nat → Nat → List (Nat × Elem) × Nat
  | [], c => ([], c)
  | e :: es, c =>
    let t := (fp32.result 0 (Fv.add 0 (fp32.value (h.vget vs1 32 e)) (fp32.value c)).1).1
    let tv := fp32.value t
    let y := f.round mode sat tv
    let yv := f.value y.1
    let c := match tv, yv with
      | .num _ _ _, .num _ _ _ => (fp32.result 0 (Fv.add 0 tv yv.neg).1).1
      | _, _ => 0
    let (rs, c) := efChain f mode sat h vs1 es c
    ((e, felem y) :: rs, c)

/-- `.ef` (11 R303, R304): a chain that performs no element before a fault leaves `vcarry` as it was. -/
def efRun (b : Body) (c : Captured) (lo hi : Nat) (s : State) : MRes :=
  let h := s.hart
  let es := h.actives b lo hi
  if es.isEmpty && hi < c.vl then .ok s
  else
    let f := (fmtOf (tyOf b)).getD fp32
    let (rs, r) := efChain f c.vfrm.toNat (satOf b) h b.vs1.toNat es (if h.vcarryFmt = b.ty then h.vcarryRes.toNat else 0)
    let h := h.vputs b.vd.toNat (wOf b) (rs.map (fun i => (i.1, i.2.val)))
    .ok { s with hart := { h.raise (rs.foldl (fun a i => a ||| i.2.fl) 0) false with
      vcarryFmt := b.ty, vcarryRes := BitVec.ofNat 32 r } }

/-! ### The members -/

/-- vfadd (14 Table 14.6). -/
def vfaddMember (b : Body) : Member := floatMember b false true (fun f m x y _ => f.arith m ((f.value x).add m (f.value y)))
/-- vfadd (14 Table 14.6). -/
def execVfadd (b : Body) (s : State) : Out := lone 1 0x00 b (vfaddMember b) s
/-- vfsub (14 Table 14.6). -/
def vfsubMember (b : Body) : Member := floatMember b false true (fun f m x y _ => f.arith m ((f.value x).add m (f.value y).neg))
/-- vfsub (14 Table 14.6). -/
def execVfsub (b : Body) (s : State) : Out := lone 1 0x01 b (vfsubMember b) s
/-- vfmul (14 Table 14.6). -/
def vfmulMember (b : Body) : Member := floatMember b false true (fun f m x y _ => f.arith m ((f.value x).mul (f.value y)))
/-- vfmul (14 Table 14.6). -/
def execVfmul (b : Body) (s : State) : Out := lone 1 0x02 b (vfmulMember b) s
/-- vfmacc (14 Table 14.6). -/
def vfmaccMember (b : Body) : Member := fmaMember b false false
/-- vfmacc (14 Table 14.6). -/
def execVfmacc (b : Body) (s : State) : Out := lone 1 0x03 b (vfmaccMember b) s
/-- vfnmacc (14 Table 14.6). -/
def vfnmaccMember (b : Body) : Member := fmaMember b true true
/-- vfnmacc (14 Table 14.6). -/
def execVfnmacc (b : Body) (s : State) : Out := lone 1 0x04 b (vfnmaccMember b) s
/-- vfmsac (14 Table 14.6). -/
def vfmsacMember (b : Body) : Member := fmaMember b false true
/-- vfmsac (14 Table 14.6). -/
def execVfmsac (b : Body) (s : State) : Out := lone 1 0x05 b (vfmsacMember b) s
/-- vfnmsac (14 Table 14.6). -/
def vfnmsacMember (b : Body) : Member := fmaMember b true false
/-- vfnmsac (14 Table 14.6). -/
def execVfnmsac (b : Body) (s : State) : Out := lone 1 0x06 b (vfnmsacMember b) s
/-- vfmin (14 Table 14.6). -/
def vfminMember (b : Body) : Member := floatMember b false false (fun f _ x y _ => felem (f.minmax false x y))
/-- vfmin (14 Table 14.6). -/
def execVfmin (b : Body) (s : State) : Out := lone 1 0x07 b (vfminMember b) s
/-- vfmax (14 Table 14.6). -/
def vfmaxMember (b : Body) : Member := floatMember b false false (fun f _ x y _ => felem (f.minmax true x y))
/-- vfmax (14 Table 14.6). -/
def execVfmax (b : Body) (s : State) : Out := lone 1 0x08 b (vfmaxMember b) s
/-- vfsgnj (14 Table 14.6). -/
def vfsgnjMember (b : Body) : Member := signMember b (fun _ y => y)
/-- vfsgnj (14 Table 14.6). -/
def execVfsgnj (b : Body) (s : State) : Out := lone 1 0x09 b (vfsgnjMember b) s
/-- vfsgnjn (14 Table 14.6). -/
def vfsgnjnMember (b : Body) : Member := signMember b (fun _ y => !y)
/-- vfsgnjn (14 Table 14.6). -/
def execVfsgnjn (b : Body) (s : State) : Out := lone 1 0x0a b (vfsgnjnMember b) s
/-- vfsgnjx (14 Table 14.6). -/
def vfsgnjxMember (b : Body) : Member := signMember b (fun x y => x != y)
/-- vfsgnjx (14 Table 14.6). -/
def execVfsgnjx (b : Body) (s : State) : Out := lone 1 0x0b b (vfsgnjxMember b) s
/-- vmfeq (14 R380). -/
def vmfeqMember (b : Body) : Member := fcmpMember b false false (fun k => k = 0)
/-- vmfeq (14 R380). -/
def execVmfeq (b : Body) (s : State) : Out := lone 1 0x0c b (vmfeqMember b) s
/-- vmfne (14 R380). -/
def vmfneMember (b : Body) : Member := fcmpMember b false true (fun k => k ≠ 0)
/-- vmfne (14 R380). -/
def execVmfne (b : Body) (s : State) : Out := lone 1 0x0d b (vmfneMember b) s
/-- vmflt (14 R380). -/
def vmfltMember (b : Body) : Member := fcmpMember b true false (fun k => k < 0)
/-- vmflt (14 R380). -/
def execVmflt (b : Body) (s : State) : Out := lone 1 0x0e b (vmfltMember b) s
/-- vmfle (14 R380). -/
def vmfleMember (b : Body) : Member := fcmpMember b true false (fun k => k ≤ 0)
/-- vmfle (14 R380). -/
def execVmfle (b : Body) (s : State) : Out := lone 1 0x0f b (vmfleMember b) s
/-- vmfgt (14 R380). -/
def vmfgtMember (b : Body) : Member := fcmpMember b true false (fun k => 0 < k)
/-- vmfgt (14 R380). -/
def execVmfgt (b : Body) (s : State) : Out := lone 1 0x10 b (vmfgtMember b) s
/-- vfclass (14 R381). -/
def vfclassMember (b : Body) : Member :=
  let w := wOf b
  let n := grpOf b
  Member.plain [dst b.vd n w, src b.vs1 n w] (!inF (tyOf b) || modBad b 0 || b.vs2 ≠ 0 || b.vs3 ≠ 0) w n
    (fun _ lo hi => writeElems b b.vd.toNat w lo hi (fun h e => bits (fclass (fOf b) (h.vget b.vs1.toNat w e))))
/-- vfclass (14 R381). -/
def execVfclass (b : Body) (s : State) : Out := lone 1 0x11 b (vfclassMember b) s
/-- vfcvt.f.x (14 R382, R383). -/
def vfcvtFXMember (b : Body) : Member :=
  cvtMember b 0x3F2 ((inS (tyOf b) || inF (tyOf b)) && inQ (stypeOf b)) (fun mode v =>
    felem (((fmtOf (tyOf b)).getD fp32).round mode (satOf b) (elemValue (stypeOf b) v)))
/-- vfcvt.f.x (14 R382, R383). -/
def execVfcvtFX (b : Body) (s : State) : Out := lone 1 0x12 b (vfcvtFXMember b) s
/-- vfcvt.x.f (14 R382, R383; 11 R291). -/
def vfcvtXFMember (b : Body) : Member :=
  cvtMember b 0x3F0 (inQ (tyOf b) && (inS (stypeOf b) || inF (stypeOf b))) (fun mode v =>
    felem (toInt (wOf b) (tySigned (tyOf b)) mode (elemValue (stypeOf b) v)))
/-- vfcvt.x.f (14 R382, R383). -/
def execVfcvtXF (b : Body) (s : State) : Out := lone 1 0x13 b (vfcvtXFMember b) s
/-- vfwcvt (14 R382 to R384). -/
def vfwcvtMember (b : Body) : Member :=
  let t := stypeOf b
  let legal := inF (tyOf b) && (inS t || inB t || inF t || t = 28) && eewOf t < wOf b
  if inB t then
    blockMember b t 0x3F0 true legal false (fun c h j =>
      ((List.range' (blockLen t * j) (blockLen t)).map (fun e =>
        (e, felem ((fOf b).round c.vfrm.toNat false (blockValue t (h.vget b.vs1.toNat (eewOf t) e) (h.scale b.vs3 j))))), none))
  else cvtMember b 0x3F0 legal (fun mode v => felem ((fOf b).round mode false (elemValue t v)))
/-- vfwcvt (14 R382 to R384). -/
def execVfwcvt (b : Body) (s : State) : Out := lone 1 0x14 b (vfwcvtMember b) s
/-- vfncvt (14 R382 to R384; 11 R285, R289, R295, R296, R303). -/
def vfncvtMember (b : Body) : Member :=
  let d := tyOf b
  let t := stypeOf b
  if inB d then
    blockMember b d 0x3F0 false (d ≤ 16 && t = 20) true (fun _ h j =>
      let es := List.range' (blockLen d * j) (blockLen d)
      let (rs, x) := toBlock d (es.map (fun e => fp32.value (h.vget b.vs1.toNat 32 e)))
      (es.zip rs, some x))
  else
    let legal := (inS d || inF d || d = 28) && inF t && wOf b ≤ eewOf t && d ≠ t && !(d = 28 && satOf b)
      && !(efOf b && !(t = 20 && (d = 18 || d = 19 || inS d)))
    let m := cvtMember b 0x3F6 legal (fun mode v =>
      if d = 28 then felem (toE8M0 (elemValue t v)) else felem (((fmtOf d).getD fp32).round mode (satOf b) (elemValue t v)))
    if efOf b then { m with run := efRun b } else m
/-- vfncvt (14 R382 to R384). -/
def execVfncvt (b : Body) (s : State) : Out := lone 1 0x15 b (vfncvtMember b) s

end Sys2Proof.Machine
end

