-- ==== Sys2Proof/Machine/VMem.lean ====
section
/-!
DEFINITION. Classes VLD and VST: vector loads and stores, segments, blocks, coded blocks, widening and narrowing, fault-only-first,
gang streams, linked gathers and scatters, and the atomics (15 R398 to R419).
-/
namespace Sys2Proof.Machine

/-! ### Fields (15 Table 15.3) -/

/-- Set P: types whose memory width is their EEW and whole bytes (15 R398). -/
def inP (t : Nat) : Bool := t ∈ [0, 1, 4, 5, 6, 18, 19, 20, 21, 22, 24, 25, 26, 27, 28]

/-- `.o` -/
def oOf (b : Body) : Bool := wbit b.mod 0
/-- `.rl` -/
def rlOf (b : Body) : Bool := wbit b.mod 2
/-- Scope of aq and rl. -/
def scopeOf (b : Body) : BitVec 3 := field b.mod 3 3
/-- Index width in bits. -/
def iwOf (b : Body) : Nat := 8 * 2 ^ wfield b.mod 6 2
/-- The st mask register. -/
def stOf (b : Body) : Nat := wfield b.mod 8 3
/-- Fields of a segment. -/
def nfOf (b : Body) : Nat := wfield b.mod 6 3 + 1
/-- The memory type M. -/
def mtypeOf (b : Body) : Nat := wfield b.mod 6 5

/-- Modifier checks of 15 R399: only the admitted bits; scope 6 and 7, or a scope without an annotation, are illegal. -/
def memModBad (b : Body) (admitted : BitVec 12) : Bool :=
  modBad b admitted || 6 ≤ (scopeOf b).toNat || (scopeOf b ≠ 0 && !wbit b.mod 1 && !rlOf b)

/-- aq with its scope. -/
def mAq : BitVec 12 := 0x03A
/-- rl with its scope. -/
def mRl : BitVec 12 := 0x03C
/-- o -/
def mO : BitVec 12 := 0x001
/-- iw -/
def mIw : BitVec 12 := 0x0C0
/-- st -/
def mSt : BitVec 12 := 0x700

/-- Memory width of an element type in bits (11 R282, R293). -/
def memBits (t : Nat) : Nat := if t ∈ [7, 8, 12, 13] then 6 else eewOf t

/-- The index operand of an indexed form. -/
def idxOp (b : Body) : Opnd := src b.vs2 (pairGroup b (iwOf b) (wOf b)) (iwOf b)

/-- Group of the data of an indexed form. -/
def idxData (b : Body) : Nat := pairGroup b (wOf b) (iwOf b)

/-- The captured base address. -/
def baseOf (b : Body) (c : Captured) : Word := c.getX b.vs3

/-! ### Elements one after another -/

/-- Perform elements in ascending order up to the first that faults. -/
def overElems (f : Nat → State → Res Unit) : List Nat → State → MRes
  | [], s => .ok s
  | e :: es, s =>
    match f e s with
    | .ok _ s => overElems f es s
    | .trap cause tval => .fault e cause tval
    | .need n => .need n

/-- The waits of a member's release annotation (15 R402, 08 R227, R228), then the member; a write that failed is reported by record and
event alone (13 R354). -/
def vreleased (b : Body) (s : State) (k : State → MRes) : MRes :=
  if rlOf b then
    let home (s : State) : State := if scopeOf b = 0 then s else s.writeHome
    match fenceEnd s (scopeOf b).toNat (fenceStart s) with
    | .waits => .need (if scopeOf b = 5 then .release (fenceStart s) else .wait (.fence (scopeOf b) 0 false (fenceStart s)))
    | .complete => k (home s)
    | .linkDown p => k (((home s).postLinkFault s.hart.ctx p.port p.va).withHart Hart.forgetFailed)
  else k s

/-- A load of bytes that may run over a line: all of them or a fault (15 R403, R404, R408; 08 R210, R221). -/
def loadSpan (s : State) (va : Word) (n : Nat) : Res (List Byte) :=
  let k := 128 - wfield va 0 7
  if n ≤ k then hartLoad s va n
  else
    (hartLoad s va k).bind fun x s => (hartLoad s (va + BitVec.ofNat 64 k) (n - k)).bind fun y s => .ok (x ++ y) s

/-- A store of bytes that may run over a line; on class L pages both parts are one write (08 R221). -/
def storeSpan (s : State) (va : Word) (data : List Byte) : Res Unit :=
  let k := 128 - wfield va 0 7
  if data.length ≤ k then hartStore s va data
  else
    (hartStore s va (data.take k)).bind fun _ t => (hartStore t (va + BitVec.ofNat 64 k) (data.drop k)).bind fun _ t =>
      .ok () (t.joinTransit s.ltransit.length)

/-- The class L writes of a store with `.o` are performed in element order (15 R402). -/
def ordered (b : Body) (s : State) (r : MRes) : MRes :=
  match r with
  | .ok t => .ok (if oOf b then t.orderTransit s.ltransit.length else t)
  | r => r

/-- Numbers that rise strictly. -/
def rises : List Nat → Bool
  | x :: y :: t => x < y && rises (y :: t)
  | _ => true

/-- Aligned elements of one size at these addresses share a location. -/
def sharing (as : List Nat) : Bool := !rises as && !rises as.reverse && !decide as.Nodup

/-- The elements in a free order, from the k-th free choice on (log 1). -/
def freeOrder : Nat → List Nat → List Nat
  | _, [] => []
  | k, e :: es => (freeOrder (k + 1) es).insertIdx (Config.freeNat k % (es.length + 1)) e

/-- Perform the elements of a store: where two of them write one location, without `.o` in an order that is free (08 R219, 15 R402;
log 1). -/
def overStores (b : Body) (f : Nat → State → Res Unit) (addr : Nat → Word) (es : List Nat) (s : State) : MRes :=
  let r := overElems f es s
  if oOf b ∨ ¬ sharing (es.map (fun e => (addr e).toNat)) then ordered b s r
  else
    match r with
    | .ok _ => overElems f (freeOrder s.freshCount es) { s with freshCount := s.freshCount + es.length }
    | r => r

/-- The current hart with an element written. -/
def State.vput (s : State) (vb w e v : Nat) : State := s.withHart (fun h => h.vset vb w e v)

/-! ### Plain forms (15 R401) -/

/-- A load whose element e lies at `addr`. -/
def loadMember (b : Body) (ops : List Opnd) (bad : Bool) (n : Nat) (addr : Captured → Hart → Nat → Word) : Member :=
  let w := wOf b
  let mw := w / 8
  Member.plain (dst b.vd n w :: ops) (!inP (tyOf b) || bad) w n
    (fun c lo hi s =>
      overElems (fun e s =>
        let a := addr c s.hart e
        if a.toNat % mw ≠ 0 then .trap 0x0A a
        else (hartLoad s a mw).bind fun x s => .ok () (s.vput b.vd.toNat w e (leNat x))) (s.hart.actives b lo hi) s)

/-- A store whose element e lies at `addr`. -/
def storeMember (b : Body) (ops : List Opnd) (bad : Bool) (n : Nat) (addr : Captured → Hart → Nat → Word) : Member :=
  let w := wOf b
  let mw := w / 8
  Member.plain (src b.vd n w :: ops) (!inP (tyOf b) || bad) w n
    (fun c lo hi s =>
      vreleased b s fun s =>
        overStores b (fun e s =>
          let a := addr c s.hart e
          if a.toNat % mw ≠ 0 then .trap 0x0A a else hartStore s a (leBytes mw (s.hart.vget b.vd.toNat w e)))
          (addr c s.hart) (s.hart.actives b lo hi) s)

/-- Address of a unit-stride element. -/
def unitAddr (b : Body) (c : Captured) (_ : Hart) (e : Nat) : Word := baseOf b c + BitVec.ofNat 64 (e * (wOf b / 8))
/-- Address of a strided element. -/
def strideAddr (b : Body) (c : Captured) (_ : Hart) (e : Nat) : Word := baseOf b c + BitVec.ofNat 64 e * c.getX b.vs2
/-- Address of an indexed element. -/
def indexAddr (b : Body) (c : Captured) (h : Hart) (e : Nat) : Word :=
  baseOf b c + BitVec.ofNat 64 (h.vget b.vs2.toNat (iwOf b) e)

/-- An indexed form has the wider of data and index for its checks and its charge (14 R371). -/
def widened (b : Body) (m : Member) : Member :=
  { m with w := max (wOf b) (iwOf b), n := max (idxData b) (pairGroup b (iwOf b) (wOf b)) }

/-- vle (15 R401). -/
def vleMember (b : Body) : Member :=
  loadMember b [] (memModBad b (mO ||| mAq) || b.vs1 ≠ 0 || b.vs2 ≠ 0) (grpOf b) (unitAddr b)
/-- vle (15 R401). -/
def execVle (b : Body) (s : State) : Out := lone 2 0x00 b (vleMember b) s
/-- vlse (15 R401). -/
def vlseMember (b : Body) : Member :=
  loadMember b [] (memModBad b (mO ||| mAq) || b.vs1 ≠ 0) (grpOf b) (strideAddr b)
/-- vlse (15 R401). -/
def execVlse (b : Body) (s : State) : Out := lone 2 0x01 b (vlseMember b) s
/-- vlxe (15 R401); vd and the index group do not meet (R400). -/
def vlxeMember (b : Body) : Member :=
  widened b (loadMember b [idxOp b]
    (memModBad b (mO ||| mAq ||| mIw) || b.vs1 ≠ 0 || (dst b.vd (idxData b) (wOf b)).regs &&& (idxOp b).regs ≠ 0)
    (idxData b) (indexAddr b))
/-- vlxe (15 R401). -/
def execVlxe (b : Body) (s : State) : Out := lone 2 0x02 b (vlxeMember b) s
/-- vse (15 R401). -/
def vseMember (b : Body) : Member :=
  storeMember b [] (memModBad b (mO ||| mRl) || b.vs1 ≠ 0 || b.vs2 ≠ 0) (grpOf b) (unitAddr b)
/-- vse (15 R401). -/
def execVse (b : Body) (s : State) : Out := lone 3 0x00 b (vseMember b) s
/-- vsse (15 R401). -/
def vsseMember (b : Body) : Member :=
  storeMember b [] (memModBad b (mO ||| mRl) || b.vs1 ≠ 0) (grpOf b) (strideAddr b)
/-- vsse (15 R401). -/
def execVsse (b : Body) (s : State) : Out := lone 3 0x01 b (vsseMember b) s
/-- vsxe (15 R401). -/
def vsxeMember (b : Body) : Member :=
  widened b (storeMember b [idxOp b] (memModBad b (mO ||| mRl ||| mIw) || b.vs1 ≠ 0) (idxData b) (indexAddr b))
/-- vsxe (15 R401). -/
def execVsxe (b : Body) (s : State) : Out := lone 3 0x02 b (vsxeMember b) s

/-! ### Segments (15 R403) -/

/-- The groups of a segment's fields. -/
def segOps (b : Body) (f : Reg → Nat → Nat → Opnd) : List Opnd :=
  (List.range (nfOf b)).map (fun i => { f b.vd (grpOf b) (wOf b) with reg := b.vd.toNat + i * grpOf b })

/-- What the segment forms check beside their modifiers. -/
def segBad (b : Body) : Bool := !inP (tyOf b) || nfOf b = 1 || b.vs1 ≠ 0 || b.vs2 ≠ 0

/-- Address of a segment. -/
def segAddr (b : Body) (c : Captured) (e : Nat) : Word := baseOf b c + BitVec.ofNat 64 (e * nfOf b * (wOf b / 8))

/-- vlseg (15 R403): a segment is one access. -/
def vlsegMember (b : Body) : Member :=
  let w := wOf b
  let mw := w / 8
  Member.plain (segOps b dst) (segBad b || memModBad b (mO ||| mAq ||| 0x1C0)) w (grpOf b)
    (fun c lo hi s =>
      overElems (fun e s =>
        let a := segAddr b c e
        if a.toNat % mw ≠ 0 then .trap 0x0A a
        else
          (loadSpan s a (nfOf b * mw)).bind fun x s =>
            .ok () ((List.range (nfOf b)).foldl
              (fun s i => s.vput (b.vd.toNat + i * grpOf b) w e (leNat ((x.drop (i * mw)).take mw))) s))
        (s.hart.actives b lo hi) s)
/-- vlseg (15 R403). -/
def execVlseg (b : Body) (s : State) : Out := lone 2 0x03 b (vlsegMember b) s
/-- vsseg (15 R403). -/
def vssegMember (b : Body) : Member :=
  let w := wOf b
  let mw := w / 8
  Member.plain (segOps b src) (segBad b || memModBad b (mO ||| mRl ||| 0x1C0)) w (grpOf b)
    (fun c lo hi s =>
      vreleased b s fun s =>
        ordered b s (overElems (fun e s =>
          let a := segAddr b c e
          if a.toNat % mw ≠ 0 then .trap 0x0A a
          else
            storeSpan s a ((List.range (nfOf b)).flatMap
              (fun i => leBytes mw (s.hart.vget (b.vd.toNat + i * grpOf b) w e)))) (s.hart.actives b lo hi) s))
/-- vsseg (15 R403). -/
def execVsseg (b : Body) (s : State) : Out := lone 3 0x03 b (vssegMember b) s

/-! ### MX and GXF4 blocks (15 R404) -/

/-- Blocks of elements lying wholly in [lo, hi), each performed by `f` and named by its first element. -/
def overBlocks (len lo hi : Nat) (f : Nat → State → Res Unit) (s : State) : MRes :=
  overElems (fun e s => f (e / len) s) ((List.range' (lo / len) (hi / len - lo / len)).map (fun j => j * len)) s

/-- A block member: elements in vd, scales in vs1; whole blocks, no mask (15 R404, R408). -/
def blockMem (b : Body) (len : Nat) (load bad : Bool) (run : Captured → Nat → Nat → State → MRes) : Member :=
  let w := wOf b
  let n := grpOf b
  let vd := if load then dst b.vd n w else src b.vd n w
  let vk := single b.vs1 load
  { Member.plain [vd, vk] (bad || b.men || b.vs2 ≠ 0 || vd.regs &&& vk.regs ≠ 0) w n run with
    shape := fun c _ skip => if c.vl % len ≠ 0 || (!skip && c.start % len ≠ 0) then some 0x0D else none
    unit := fun _ => len }

/-- Bytes of a packed block (15 R404). -/
def blockBytes (t : Nat) : Nat := 1 + blockLen t * memBits t / 8

/-- Address of a block. -/
def blockAddr (b : Body) (c : Captured) (j : Nat) : Word := baseOf b c + BitVec.ofNat 64 (j * blockBytes (tyOf b))

/-- vlmx (15 R404). -/
def vlmxMember (b : Body) : Member :=
  let t := tyOf b
  let len := blockLen t
  let mb := memBits t
  blockMem b len true (!(10 ≤ t && t ≤ 16) || memModBad b mAq) (fun c lo hi =>
    overBlocks len lo hi (fun j s =>
      (loadSpan s (blockAddr b c j) (blockBytes t)).bind fun x s =>
        let v := leNat (x.drop 1)
        let s := (List.range len).foldl (fun s i => s.vput b.vd.toNat (wOf b) (j * len + i) (nfield v (i * mb) mb)) s
        .ok () (s.vput b.vs1.toNat 8 j (leNat (x.take 1)))))
/-- vlmx (15 R404). -/
def execVlmx (b : Body) (s : State) : Out := lone 2 0x04 b (vlmxMember b) s
/-- Elements packed at `mb` bits (11 R282, R293). -/
def packElems (mb : Nat) (vs : List Nat) : Nat := vs.foldr (fun v a => v % 2 ^ mb + a <<< mb) 0
/-- vsmx (15 R404). -/
def vsmxMember (b : Body) : Member :=
  let t := tyOf b
  let len := blockLen t
  blockMem b len false (!(10 ≤ t && t ≤ 16) || memModBad b mRl) (fun c lo hi s =>
    vreleased b s fun s =>
      overBlocks len lo hi (fun j s =>
        let v := packElems (memBits t) ((List.range len).map (fun i => s.hart.vget b.vd.toNat (wOf b) (j * len + i)))
        storeSpan s (blockAddr b c j) (leBytes 1 (s.hart.scale b.vs1 j) ++ leBytes (blockBytes t - 1) v)) s)
/-- vsmx (15 R404). -/
def execVsmx (b : Body) (s : State) : Out := lone 3 0x04 b (vsmxMember b) s

/-! ### Widening loads and narrowing stores (15 R405, R406) -/

/-- Legal pairs of 15 Table 15.4. -/
def widePair (t m : Nat) : Bool :=
  match t with
  | 18 => inS m
  | 19 => inS m
  | 20 => inS m || m = 18 || m = 19
  | 21 => inS m || m = 18 || m = 19 || m = 20
  | 4 => m ≤ 3
  | 22 => m ≤ 3
  | 24 => m ≤ 4 || m = 22
  | 25 => m ≤ 4 || m = 22
  | 26 => m ≤ 4 || m = 22 || m = 24 || m = 25
  | 27 => m ≤ 4 || m = 22 || m = 24 || m = 25
  | _ => false

/-- Address of the first byte of an element of `mb` bits, its bit within it, and the bytes it touches. -/
def subAddr (b : Body) (c : Captured) (mb e : Nat) : Word × Nat × Nat :=
  (baseOf b c + BitVec.ofNat 64 (e * mb / 8), e * mb % 8, cdiv (e * mb % 8 + mb) 8)

/-- vlw (15 R405). -/
def vlwMember (b : Body) : Member :=
  let t := tyOf b
  let m := mtypeOf b
  let mb := memBits m
  Member.plain [dst b.vd (grpOf b) (wOf b)] (!widePair t m || memModBad b (mO ||| mAq ||| 0x7C0) || b.vs1 ≠ 0 || b.vs2 ≠ 0)
    (wOf b) (grpOf b)
    (fun c lo hi s =>
      overElems (fun e s =>
        let (a, sh, n) := subAddr b c mb e
        if mb % 8 = 0 ∧ a.toNat % (mb / 8) ≠ 0 then .trap 0x0A a
        else
          (loadSpan s a n).bind fun x s =>
            let v := nfield (leNat x) sh mb
            let (r, fl) := match fmtOf t with
              | some f => f.round 0 false (elemValue m v)
              | none => (narrow (wOf b) (if tySigned m then sextN mb v else (v : Int)), 0)
            .ok () ((s.vput b.vd.toNat (wOf b) e r).withHart (fun h => h.raise fl false))) (s.hart.actives b lo hi) s)
/-- vlw (15 R405). -/
def execVlw (b : Body) (s : State) : Out := lone 2 0x05 b (vlwMember b) s

/-- An element narrowed to M (15 R405). -/
def narrowed (b : Body) (mode v : Nat) : Elem :=
  let m := mtypeOf b
  let sat := wbit b.mod 11
  match fmtOf m with
  | some f => felem (f.round mode sat (elemValue (tyOf b) v))
  | none =>
    let x : Int := if tySigned (tyOf b) then sextN (wOf b) v else (v : Int)
    if sat then satInt (memBits m) (tySigned m) x else wrapInt (memBits m) x

/-- vsn (15 R405, R406): to 4-bit and 6-bit M by whole packing units. -/
def vsnMember (b : Body) : Member :=
  let t := tyOf b
  let m := mtypeOf b
  let mb := memBits m
  let len := if mb = 4 then 2 else if mb = 6 then 4 else 1
  let unit (c : Captured) (j : Nat) (s : State) : Res Unit :=
    let rs := (List.range len).map (fun i => narrowed b c.vfrm.toNat (s.hart.vget b.vd.toNat (wOf b) (j * len + i)))
    let a := baseOf b c + BitVec.ofNat 64 (j * len * mb / 8)
    if mb % 8 = 0 ∧ a.toNat % (mb / 8) ≠ 0 then .trap 0x0A a
    else
      (storeSpan s a (leBytes (len * mb / 8) (packElems mb (rs.map Elem.val)))).bind fun _ s =>
        .ok () (s.withHart (fun h => h.raise (rs.foldl (fun f r => f ||| r.fl) 0) (rs.any Elem.sat)))
  { Member.plain [src b.vd (grpOf b) (wOf b)] false (wOf b) (grpOf b)
      (fun c lo hi s =>
        vreleased b s fun s =>
          ordered b s (if len = 1 then overElems (unit c) (s.hart.actives b lo hi) s else overBlocks len lo hi (unit c) s)) with
    bad := fun c _ => !widePair t m || memModBad b (mO ||| mRl ||| 0xFC0) || b.vs1 ≠ 0 || b.vs2 ≠ 0
      || ((fmtOf t).isSome && frmBad c) || (len ≠ 1 && b.men)
    shape := fun c _ skip => if c.vl % len ≠ 0 || (!skip && c.start % len ≠ 0) then some 0x0D else none
    unit := fun _ => len }
/-- vsn (15 R405, R406). -/
def execVsn (b : Body) (s : State) : Out := lone 3 0x05 b (vsnMember b) s

/-! ### Coded blocks (15 R408, 11 R297 to R300) -/

/-- Code lengths of a table (11 R298): 0 for an absent symbol. -/
def codeLens (tb : List Byte) : List Nat := (List.range 16).map (fun i => nfield (leNat (tb.take 8)) (4 * i) 4)

/-- A table is valid (11 R298). -/
def codeValid (tb : List Byte) : Bool :=
  let ls := codeLens tb
  let present := ls.filter (fun l => l ≠ 0)
  ls.all (fun l => l ≤ 12) && (tb.getD 8 0).toNat ≤ 1 && (tb.drop 9).all (fun x => x = 0)
    && ((present.map (fun l => 2 ^ (12 - l))).sum = 4096 || present = [1])

/-- The canonical code (11 R298): symbol, length and code, by length and symbol. -/
def codeWords (tb : List Byte) : List (Nat × Nat × Nat) :=
  let ls := codeLens tb
  let order := (List.range' 1 12).flatMap (fun l => (List.range 16).filterMap (fun i => if ls.getD i 0 = l then some (i, l) else none))
  ((order.foldl (fun (a : List (Nat × Nat × Nat) × Nat × Nat) p =>
    let code := if a.2.1 = 0 then 0 else (a.2.2 + 1) <<< (p.2 - a.2.1)
    (a.1 ++ [(p.1, p.2, code)], p.2, code)) ([], 0, 0))).1

/-- Bits of a stream from the most significant bit of its first byte down. -/
def streamBits (bs : List Byte) : List Bool := bs.flatMap (fun x => (List.range 8).map (fun i => x.getLsbD (7 - i)))

/-- The number that the first bits spell. -/
def bitsNat (bs : List Bool) : Nat := bs.foldl (fun a x => 2 * a + x.toNat) 0

/-- Decode `n` symbols: the symbols and the bits left (11 R299); none when no code matches. -/
def codeSymbols (cw : List (Nat × Nat × Nat)) : Nat → List Bool → Option (List Nat × List Bool)
  | 0, bs => some ([], bs)
  | n + 1, bs =>
    match cw.find? (fun c => c.2.1 ≤ bs.length && bitsNat (bs.take c.2.1) = c.2.2) with
    | none => none
    | some c => (codeSymbols cw n (bs.drop c.2.1)).map (fun r => (c.1 :: r.1, r.2))

/-- The decoded byte of a symbol and a nibble (11 R297). -/
def codedByte (e5 : Bool) (y n : Nat) : Nat :=
  if e5 then nfield n 3 1 <<< 7 + (y * 2 + nfield n 2 1) <<< 2 + nfield n 0 2 else nfield n 3 1 <<< 7 + y <<< 3 + nfield n 0 3

/-- A block's 32 bytes (11 R299); none for a code fault. -/
def codedBlock (e5 : Bool) (tb : Option (List Byte)) (blk : List Byte) : Option (List Nat) :=
  match tb with
  | none => none
  | some tb =>
    if !codeValid tb || ((tb.getD 8 0) = 1) != e5 then none
    else
      let len := blk.length
      match codeSymbols (codeWords tb) 32 (streamBits ((blk.drop 3).take (len - 19))) with
      | none => none
      | some (ys, rest) =>
        if 8 ≤ rest.length || rest.any id then none
        else
          let nib := leNat (blk.drop (len - 16))
          some (ys.zipIdx.map (fun p => codedByte e5 p.1 (nfield nib (4 * p.2) 4)))

/-- The bytes of a coded block, as many as its own header says, in one access (15 R408): read again where a header that another agent has
just changed says otherwise, `n` times at most. -/
def codedRead (a : Word) : Nat → Nat → State → Res (List Byte)
  | 0, len, s => loadSpan s a len
  | n + 1, len, s =>
    (loadSpan s a len).bind fun blk t =>
      if (blk.headD 0).toNat = len ∨ (blk.headD 0).toNat < 23 ∨ 67 < (blk.headD 0).toNat then .ok blk t else codedRead a n (blk.headD 0).toNat t

/-- The length and the slot of a header that is good, from its first 2 bytes (15 R408, 11 R299). -/
def codedHead (h : List Byte) : Option (Nat × Nat) :=
  let hdr := leNat (h.take 2)
  let len := nfield hdr 0 8
  if nfield hdr 10 6 ≠ 0 || len < 23 || 67 < len then none else some (len, nfield hdr 8 2)

/-- Blocks from j on at address a, `n` of them (15 R408). -/
def codedLoop (b : Body) (e5 : Bool) : Nat → Nat → Word → State → MRes
  | 0, _, _, s => .ok s
  | n + 1, j, a, s =>
    match loadSpan s a 2 with
    | .trap c t => .fault (32 * j) c t
    | .need n => .need n
    | .ok h s =>
      match codedHead h with
      | none => .fault (32 * j) 0x13 a
      | some (len, _) =>
        match codedRead a 16 len s with
        | .trap c t => .fault (32 * j) c t
        | .need n => .need n
        | .ok blk s =>
          let slot := (codedHead blk).map Prod.snd
          let tb := (slot.bind fun k => (s.ctx s.hart.ctx).codes[k]?).bind CodeTable.bytes
          match codedBlock e5 tb blk with
          | none => .fault (32 * j) 0x13 a
          | some vs =>
            let s := vs.zipIdx.foldl (fun s p => s.vput b.vd.toNat (wOf b) (32 * j + p.2) p.1) s
            codedLoop b e5 n (j + 1) (a + BitVec.ofNat 64 blk.length) (s.vput b.vs1.toNat 8 j (leNat ((blk.drop 2).take 1)))

/-- The address of the first block to decode: the headers of the `n` blocks before it are read again (15 R408). -/
def codedSkip (lo : Nat) : Nat → Word → State → Except MRes (Word × State)
  | 0, a, s => .ok (a, s)
  | n + 1, a, s =>
    match loadSpan s a 2 with
    | .trap c t => .error (.fault lo c t)
    | .need n => .error (.need n)
    | .ok h s => codedSkip lo n (a + BitVec.ofNat 64 (nfield (leNat h) 0 8)) s

/-- vlcx (15 R408); at issue it waits for a table that is being loaded (11 R301). -/
def vlcxMember (b : Body) : Member :=
  let t := tyOf b
  blockMem b 32 true (!(t = 17 || t = 23) || memModBad b mAq) (fun c lo hi s =>
    if s.hart.replies = [] ∧ (s.ctx s.hart.ctx).codes.any (fun k => k.loading.isSome) then .need (.wait .ctload)
    else match codedSkip lo (lo / 32) (baseOf b c) s with
    | .error r => r
    | .ok (a, s) => codedLoop b (t = 23) (hi / 32 - lo / 32) (lo / 32) a s)
/-- vlcx (15 R408). -/
def execVlcx (b : Body) (s : State) : Out := lone 2 0x06 b (vlcxMember b) s

/-! ### Fault-only-first (15 R409) -/

/-- Causes that shorten a vleff. -/
def shortens (cause : BitVec 8) : Bool := cause ∈ ([0x06, 0x08, 0x0A, 0x14, 0x15] : List (BitVec 8))

/-- The element at which a vleff over [lo, hi) stops short, if it does. -/
def shortAt (m : Member) (c : Captured) (lo hi : Nat) (s : State) : Option Nat :=
  match m.run c lo hi s with
  | .fault e cause _ => if e ≠ 0 && shortens cause then some e else none
  | _ => none

/-- vleff (15 R409). -/
def vleffMember (b : Body) : Member :=
  let m := loadMember b [] (memModBad b mAq || b.vs1 ≠ 0) (grpOf b) (unitAddr b)
  { m with
    scalar := true
    ends := fun c lo hi s => (shortAt m c lo hi s).isSome
    run := fun c lo hi s =>
      match shortAt m c lo hi s with
      | some e =>
        match m.run c lo e s with
        | .ok s => .ok (s.setX b.vs2 (BitVec.ofNat 64 e))
        | r => r
      | none =>
        match m.run c lo hi s with
        | .ok s => .ok (if hi = c.vl then s.setX b.vs2 (BitVec.ofNat 64 c.vl) else s)
        | r => r }
/-- vleff (15 R409). -/
def execVleff (b : Body) (s : State) : Out := lone 2 0x07 b (vleffMember b) s

/-! ### Gang streams (15 R410 to R412, 07 R183, R184) -/

/-- Bytes of a ring from a pointer (07 R183). -/
def ringBytes (k : Bank) (p n : Nat) : List Byte :=
  (List.range n).map (fun i => BitVec.ofNat 8 (k.data >>> (8 * ((p + i) % 24576))))

/-- A ring with bytes written from a pointer. -/
def ringWrite (k : Bank) (p : Nat) (bs : List Byte) : Bank :=
  { k with data := bs.zipIdx.foldl (fun d x => nsetField d (8 * ((p + x.2) % 24576)) 8 x.1.toNat) k.data }

/-- Occupancy of a ring (07 R183). -/
def Bank.used (k : Bank) : Nat := (k.tail + 49152 - k.head) % 49152

/-- Bytes that have arrived and are not popped. -/
def Bank.here (k : Bank) : Nat := (k.arr + 49152 - k.head) % 49152

/-- The bank that a window address names, and the offset, whoever holds it: a cluster window bank, or a bank of the hart's gang
(03 Table 3.8). -/
def windowBank (s : State) (va : Word) : Option (Nat × Nat) :=
  let a := va.toNat
  if 0xFD0000000000 ≤ a ∧ a < 0xFD0000600000 ∧ a % 0x8000 < 0x6000 then
    some (192 * (clusterOf s.hart.core).toNat + (a - 0xFD0000000000) / 0x8000, a % 0x8000)
  else if 0xFE0000000000 ≤ a ∧ a < 0xFE0000180000 then
    let o := a - 0xFE0000000000
    match tget s.gangs s.hart.gang.toNat with
    | none => none
    | some g => (g.banks[o / 0x6000]?).map (fun k => (192 * g.cluster.toNat + k, o % 0x6000))
  else none

/-- An address of a window: a gang window address beyond the gang's banks names a bank that nobody holds. -/
def inWindow (va : Word) : Bool :=
  let a := va.toNat
  (0xFD0000000000 ≤ a && a < 0xFD0000600000 && a % 0x8000 < 0x6000) || (0xFE0000000000 ≤ a && a < 0xFE0000180000)

/-- One pop (15 R411). -/
def popRun (b : Body) (c : Captured) (s : State) : MRes :=
  let va := baseOf b c
  let sz := wOf b / 8
  let fault (cause : BitVec 8) : MRes := .fault c.start cause va
  if !inWindow va then fault 0x08
  else
    match windowBank s va with
    | none => fault 0x14
    | some (i, off) =>
      let k := s.bank i
      let held : Bool := match k.holder with
        | .ctx d => d = s.hart.ctx
        | .gang d g => d = s.hart.ctx && g = s.hart.gang
        | .none => false
      if !held then fault 0x14
      else if k.mode ≠ .F || off ≠ 0 then fault 0x08
      else if k.head % sz ≠ 0 then fault 0x0A
      else
        let n := min c.vl (k.used / sz)
        if k.here < n * sz then .need (.wait .transfer)
        else if (List.range (n * sz)).any (fun i => bankBad k ((k.head + i) % 24576) 1) then fault 0x15
        else
          let bs := ringBytes k k.head (n * sz)
          let h := k.head % 24576
          let s := (s.softRead i h (min (n * sz) (24576 - h))).softRead i 0 (n * sz - (24576 - h))
          let s := (List.range n).foldl (fun s e => s.vput b.vd.toNat (wOf b) e (leNat ((bs.drop (e * sz)).take sz))) s
          .ok ((s.setBank i { k with head := (k.head + n * sz) % 49152 }).setX b.vs2 (BitVec.ofNat 64 n))

/-- vpop (15 R410, R411). -/
def vpopMember (b : Body) : Member :=
  { Member.plain [dst b.vd (grpOf b) (wOf b)] (!inP (tyOf b) || modBad b 0 || b.men || b.vs1 ≠ 0) (wOf b) (grpOf b)
      (fun c _ _ s => popRun b c s) with whole := true, starts := false, scalar := true, fifo := true }
/-- vpop (15 R410, R411). -/
def execVpop (b : Body) (s : State) : Out := lone 2 0x09 b (vpopMember b) s

/-- The bank of stream q of the hart's gang (07 R183). -/
def streamBank (s : State) (q : Nat) : Option Nat :=
  (s.banks.find? (fun p => p.2.mode = .F && p.2.holder = .gang s.hart.ctx s.hart.gang && p.2.stream.toNat = q)).map Prod.fst

/-- Append the elements of one stream (15 R412): data as (element, value); the elements that remain. -/
def appendStream (sz : Nat) (q : Nat) (es : List (Nat × Nat)) (s : State) : State × List Nat :=
  match streamBank s q with
  | none => (s, es.map Prod.fst)
  | some i =>
    let k := s.bank i
    let n := min es.length ((24576 - k.used) / sz)
    let bs := (es.take n).flatMap (fun e => leBytes sz e.2)
    let tail := (k.tail + n * sz) % 49152
    let k' := { ringWrite k k.tail bs with tail := tail, arr := if k.arr = k.tail then tail else k.arr }
    (s.setBank i k', (es.drop n).map Prod.fst)

/-- vsapp (15 R412). -/
def vsappMember (b : Body) : Member :=
  let w := wOf b
  let st := stOf b
  widened b { Member.plain [src b.vd (idxData b) w, idxOp b, { mdst 0 with reg := st }]
      (!inP (tyOf b) || modBad b (mIw ||| mSt) || b.vs1 ≠ 0 || b.vs3 ≠ 0 || (b.men && b.msk.toNat = st)) w (idxData b)
      (fun c _ _ s =>
        let es := (s.hart.actives b 0 c.vl).map (fun e => (e, s.hart.vget b.vs2.toNat (iwOf b) e, s.hart.vget b.vd.toNat w e))
        let (s, left) := (List.range 8).foldl (fun (a : State × List Nat) q =>
          let (s, l) := appendStream (w / 8) q ((es.filter (fun x => x.2.1 = q)).map (fun x => (x.1, x.2.2))) a.1
          (s, a.2 ++ l)) (s, (es.filter (fun x => 8 ≤ x.2.1)).map (fun x => x.1))
        .ok (s.withHart (fun h => h.mputs st (es.map (fun x => (x.1, decide (x.1 ∈ left))))))) with whole := true, starts := false, fifo := true }
/-- vsapp (15 R410, R412). -/
def execVsapp (b : Body) (s : State) : Out := lone 3 0x14 b (vsappMember b) s

/-! ### Linked gathers and scatters (15 R413 to R415) -/

/-- A link set is open for a gather: a new generation at `vstart` = 0, or when no set is open that a resumed one could continue (15 R413). -/
def Hart.openLinks (h : Hart) (fresh : Bool) : Hart :=
  { h with vlinkOpen := true, vlinkGen := if fresh ∨ ¬ h.vlinkOpen then h.vlinkGen + 1 else h.vlinkGen }

/-- One gathered element: its bytes, and a link (15 R414). -/
def gatherElem (s : State) (va : Word) (mw : Nat) : Res Nat :=
  let (f, s) := resolve s s.hart.who va .load
  match f with
  | .error c => .trap c va
  | .ok p =>
    watched s va.toNat mw true false
      (if transfersMet s va.toNat mw false ≠ [] then .need (.wait .transfer)
       else
        let r : Rmw := { code := 14, dbl := mw = 8, a := 0, b := linkId s false s.hart.vlinkGen, act := fun old => (none, old)
                         narrow := if mw < 4 then some mw else none }
        match p with
        | .phys pa cls da =>
          (rmwPlace s va p r).bind fun v s => .ok v (if cls = 1 then s else s.addLink (linkEntry s false s.hart.vlinkGen (pa / 128) da))
        | .peer dev pa cls =>
          (rmwPlace s va (.peer dev (pa - (if mw < 4 then pa % 4 else 0)) cls) r).bind fun v s =>
            .ok (if mw < 4 then nfield v (8 * (pa % 4)) (8 * mw) else v) s
        | _ => .trap 0x08 va)

/-- vgl (15 R414). -/
def vglMember (b : Body) : Member :=
  let w := wOf b
  let mw := w / 8
  let vd := dst b.vd (idxData b) w
  widened b (Member.plain [vd, idxOp b]
    (!inP (tyOf b) || memModBad b (mAq ||| mIw) || b.vs1 ≠ 0 || vd.regs &&& (idxOp b).regs ≠ 0) w (idxData b)
    (fun c lo hi s =>
      overElems (fun e s =>
        let a := indexAddr b c s.hart e
        if a.toNat % mw ≠ 0 then .trap 0x0A a
        else (gatherElem s a mw).bind fun v s => .ok () (s.vput b.vd.toNat w e v))
        (s.hart.actives b lo hi) (s.withHart (fun h => h.openLinks (c.vstart = 0)))))
/-- vgl (15 R414). -/
def execVgl (b : Body) (s : State) : Out := lone 2 0x08 b (vglMember b) s

/-- The status bits at issue (09 R242): with `vstart` = 0 those of every active element are cleared. -/
def Hart.clearStatus (h : Hart) (b : Body) (c : Captured) : Hart :=
  if c.vstart = 0 then h.mputs (stOf b) ((h.actives b 0 c.vl).map (fun e => (e, false))) else h

/-- Elements whose status bit says that they were performed. -/
def appliedOf (b : Body) (c : Captured) (h : Hart) : Nat :=
  if c.vstart = 0 then 0 else ((h.actives b c.start c.vl).filter (fun e => h.mget (stOf b) e)).length

/-- The hart's current link set holds an intact link to a local line (15 R415). -/
def vlinkIntact (s : State) (line : Nat) : Bool :=
  s.hart.vlinkOpen && s.linkTable.any (fun e =>
    e.same (linkEntry s false 0 0 false) && e.gen = s.hart.vlinkGen && e.line = line && e.intact)

/-- An element of a scatter that can be performed where it lies: aligned, translated, on memory, watched by nothing and free of errors. -/
def scatters (s : State) (va : Word) (mw : Nat) : Bool :=
  va.toNat % mw = 0 && (watchHit s va.toNat mw false true).isNone
    && (match (resolve s s.hart.who va .store).1 with
        | .ok (.phys pa _ _) => !poisoned s pa mw
        | .ok (.peer _ _ _) => true
        | _ => false)

/-- The conditional write of a vector element (08 R211). -/
def scatterRmw (s : State) (mw v : Nat) : Rmw :=
  { code := 15, dbl := mw = 8, a := BitVec.ofNat 64 v, b := linkId s false s.hart.vlinkGen, act := fun _ => (some v, 0), narrow := if mw < 4 then some mw else none }

/-- The conditional writes of elements of a peer's line, one packet each, which answers whether it wrote; an element narrower than a packet's word
goes with what its word holds, which no other agent has written while the link is intact (08 R211; DEDUCED, log 54). -/
def scatterPeer (va : Word) (dev : BitVec 12) (cls : BitVec 2) (mw : Nat) : List (Nat × Nat × Nat) → State → Res (List (Nat × Bool))
  | [], s => .ok [] s
  | (e, pa, v) :: ws, s =>
    let at' (n : Nat) : Nat := pa - pa % n
    (if mw < 4 then
      match s.takeReply with
      | none => .need (.request dev 0 0 0 [memHead false false 4 (at' 4)])
      | some (r, s) =>
        if r.status ≠ 0 then .trap (replyCause .store r.status) va
        else
          let w := nsetField (leNat (r.data.take 4)) (8 * (pa % 4)) (8 * mw) v
          rmwPlace s va (.peer dev (at' 4) cls) { scatterRmw s mw w with narrow := none }
     else rmwPlace s va (.peer dev pa cls) (scatterRmw s mw v)).bind fun x s =>
      (scatterPeer va dev cls mw ws s).bind fun rest s => .ok ((e, x = 0) :: rest) s

/-- The writes to a local line whose link is intact, one operation of its unit (15 R415). -/
def scatterLocal (va : Word) (da : Bool) (mw : Nat) : List (Nat × Nat × Nat) → State → Res Unit
  | [], s => .ok () s
  | (_, pa, v) :: ws, s => (rmwPlace s va (.phys pa 0 da) (scatterRmw s mw v)).bind fun _ s => scatterLocal va da mw ws s

/-- The elements of one line that write, by element, virtual address and value; `va` is that of the line's lowest element (15 R415). It answers which of
them wrote. -/
def scatterLine (s : State) (va : Word) (mw : Nat) (ws : List (Nat × Nat × Nat)) : Res (List (Nat × Bool)) :=
  let (f, s) := resolve s s.hart.who va .store
  match f with
  | .error c => .trap c va
  | .ok p =>
    watched s va.toNat mw false true
      (if ws.any (fun w => transfersMet s w.2.1 mw true ≠ []) then .need (.wait .transfer)
       else
        let put (pa : Nat) : List (Nat × Nat × Nat) := ws.map (fun w => (w.1, pa / 128 * 128 + w.2.1 % 128, w.2.2))
        let all (b : Bool) : List (Nat × Bool) := ws.map (fun w => (w.1, b))
        match p with
        | .phys pa cls da =>
          if cls = 1 ∧ s.hart.vlinkOpen then
            match put pa with
            | [] => .ok [] s
            | (_, a, v) :: more =>
              (rmwPlace s va (.phys a 1 da) { scatterRmw s mw v with also := more.map (fun w => w.2) }).bind fun x s => .ok (all (x = 0)) s
          else if cls ≠ 1 ∧ vlinkIntact s (pa / 128) then (scatterLocal va da mw (put pa) s).bind fun _ s => .ok (all true) s
          else .ok (all false) s
        | .peer dev pa cls => if s.hart.vlinkOpen then scatterPeer va dev cls mw (put pa) s else .ok (all false) s
        | _ => .trap 0x09 va)

/-- The elements of a scatter, line by line from that of the lowest element on (15 R415): of each address the highest-numbered one writes, and
the status bits tell which did. A line's operation takes its elements below the first that cannot be performed. -/
def scatterLines (addr : Hart → Nat → Word) (mw st : Nat) (value : Hart → Nat → Nat) : Nat → List Nat → State → MRes
  | 0, _, s => .ok s
  | _, [], s => .ok s
  | k + 1, e :: es, s =>
    let a := addr s.hart e
    let line (f : Nat) : Nat := (addr s.hart f).toNat / 128
    let group := e :: (es.takeWhile (fun f => scatters s (addr s.hart f) mw)).filter (fun f => line f = line e)
    let last (f : Nat) : Bool := group.all (fun g => g ≤ f || addr s.hart g ≠ addr s.hart f)
    if a.toNat % mw ≠ 0 then .fault e 0x0A a
    else
      match scatterLine s a mw ((group.filter last).map (fun f => (f, (addr s.hart f).toNat, value s.hart f))) with
      | .trap cause t => .fault e cause t
      | .need n => .need n
      | .ok wrote s =>
        scatterLines addr mw st value k (es.filter (fun f => f ∉ group))
          (s.withHart (fun h => h.mputs st (group.map (fun f => (f, wrote.any (fun w => w = (f, true)))))))

/-- vsc (15 R415). -/
def vscMember (b : Body) : Member :=
  let w := wOf b
  let st := stOf b
  widened b { Member.plain [src b.vd (idxData b) w, idxOp b, { mdst 0 with reg := st, reads := true }]
      (!inP (tyOf b) || memModBad b (mAq ||| mRl ||| mIw ||| mSt) || b.vs1 ≠ 0 || (b.men && b.msk.toNat = st)) w (idxData b)
      (fun c lo hi s =>
        vreleased b s fun s =>
          let h := s.hart.clearStatus b c
          let es := (h.actives b lo hi).filter (fun e => !h.mget st e)
          match scatterLines (indexAddr b c) (w / 8) st (fun h e => h.vget b.vd.toNat w e) es.length es { s with hart := h } with
          | .ok s => .ok (if hi = c.vl then s.withHart (fun h => { h with vlinkOpen := false }) else s)
          | r => r) with applied := appliedOf b }
/-- vsc (15 R415). -/
def execVsc (b : Body) (s : State) : Out := lone 3 0x06 b (vscMember b) s

/-! ### Atomics (15 R417 to R419; 09 R241, R242) -/

/-- How a vamo form acts: function code, admitted types, and whether it is the fixed-window add. -/
structure VAmo where
  code : Nat
  types : List Nat
  fx : Bool
  deriving DecidableEq, Repr

/-- Bytes of the word of an atomic form. -/
def VAmo.bytes (k : VAmo) (b : Body) : Nat := if k.fx then 8 else wOf b / 8

/-- The atomic of an element's data. -/
def VAmo.rmw (k : VAmo) (b : Body) (c : Captured) (d : Nat) : Rmw :=
  sauRmw k.code (k.bytes b = 8) (BitVec.ofNat 64 d) (if k.fx then (field (baseOf b c) 56 8 : BitVec 8).setWidth 64 else 0)

/-- Address of an element (15 R417, R419). -/
def VAmo.addr (k : VAmo) (b : Body) (c : Captured) (h : Hart) (e : Nat) : Word :=
  (if k.fx then keepField (baseOf b c) 0 56 else baseOf b c) + BitVec.ofNat 64 (h.vget b.vs2.toNat (iwOf b) e)

/-- Elements to the same word may be combined: a floating add that neither returns old values nor is ordered (11 R310, 15 R418). -/
def VAmo.combines (k : VAmo) (b : Body) : Bool := k.code = 10 && !wbit b.mod 11 && !oOf b

/-- One element: at its unit, or, where it may be combined and its word is local and takes no visibility time of its own, set aside with its
address (07 R193; log 54). Bits [55:48] of a fixed-window base are zero (R419). -/
def VAmo.elem (k : VAmo) (b : Body) (c : Captured) (e : Nat) (aside : List (Word × Nat)) (s : State) : Res (List (Word × Nat)) :=
  let h := s.hart
  let a := k.addr b c h e
  let d := h.vget b.vs1.toNat (wOf b) e
  let n := k.bytes b
  let mark (s : State) : State := s.withHart (fun h => h.mset (stOf b) e true)
  if a.toNat % n ≠ 0 then .trap 0x0A a
  else if k.fx && wfield (baseOf b c) 48 8 ≠ 0 then .trap 0x07 a
  else
    let one : Res (List (Word × Nat)) :=
      (hartRmw s a (k.rmw b c d)).bind fun old t =>
        let far : Bool := t.hart.replies.length < h.replies.length
        let sat : Bool := if far then (h.replies.head?).any (fun r => r.status = 5)
          else (sauNew k.code (n = 8) old (BitVec.ofNat 64 d) (k.rmw b c d).b).2
        let t := if k.fx && sat then t.sauSaturated h.ctx a else t
        .ok aside (mark (if wbit b.mod 11 then t.vput b.vd.toNat (wOf b) e old else t))
    if k.combines b then
      match resolve s s.hart.who a .amo with
      | (.ok (.phys pa cls _), s') =>
        if cls = 1 then one
        else watched s' a.toNat n true true
          (if transfersMet s' a.toNat n true ≠ [] then .need (.wait .transfer)
           else if poisoned s' pa n then .trap 0x15 a
           else .ok (aside ++ [(a, d)]) (mark s'))
      | _ => one
    else one

/-- Elements in ascending order up to the first fault. -/
def VAmo.elems (k : VAmo) (b : Body) (c : Captured) : List Nat → List (Word × Nat) → State → MRes × List (Word × Nat)
  | [], aside, s => (.ok s, aside)
  | e :: es, aside, s =>
    match k.elem b c e aside s with
    | .ok aside s => k.elems b c es aside s
    | .trap cause t => (.fault e cause t, aside)
    | .need n => (.need n, aside)

/-- Elements above a reported fault: each may have been performed (09 R242), a free choice (log 1). -/
def VAmo.above (k : VAmo) (b : Body) (c : Captured) : List Nat → List (Word × Nat) → State → State × List (Word × Nat)
  | [], aside, s => (s, aside)
  | e :: es, aside, s =>
    let (x, s) := s.freshBool
    let vo := s.hart.vget b.vd.toNat (wOf b) e
    if x then
      match k.elem b c e aside s with
      | .ok aside t => k.above b c es aside (if wbit b.mod 11 then t.vput b.vd.toNat (wOf b) e vo else t)
      | _ => k.above b c es aside s
    else k.above b c es aside s

/-- Apply the adds set aside, one word after another (07 R193). -/
def VAmo.apply (k : VAmo) (b : Body) : List Word → List (Word × Nat) → State → MRes
  | [], _, s => .ok s
  | a :: as, aside, s =>
    let vs := (aside.filter (fun x => x.1 = a)).map Prod.snd
    let i := s.freshCount
    match hartRmw { s with freshCount := i + 2 * (vs.length + 1) } a (treeRmw (k.bytes b = 8) i vs) with
    | .ok _ s => k.apply b as aside s
    | .trap cause t => .fault 0 cause t
    | .need n => .need n

/-- A vector atomic over [lo, hi), in ascending order (log 54), and, when a fault lies at hi, elements above it: none where the resumption
will find `vstart` = 0 and clear the status bits, so that each element is applied at most once (09 R242; DEDUCED, log 54). -/
def VAmo.run (k : VAmo) (b : Body) (c : Captured) (lo hi : Nat) (s : State) : MRes :=
  vreleased b s fun s =>
    let s := s.withHart (fun h => h.clearStatus b c)
    let todo (x y : Nat) : List Nat := (s.hart.actives b x y).filter (fun e => !s.hart.mget (stOf b) e)
    match k.elems b c (todo lo hi) [] s with
    | (.ok s, aside) =>
      let (s, aside) := if 0 < hi ∧ hi < c.vl then k.above b c (todo (hi + 1) c.vl) aside s else (s, aside)
      k.apply b (aside.map Prod.fst).dedup aside s
    | (r, _) => r

/-- A vector atomic (15 R417 to R419). -/
def amoMember (k : VAmo) (b : Body) : Member :=
  let w := wOf b
  let n := idxData b
  let st := stOf b
  let ret := wbit b.mod 11
  let vo := dst b.vd n w
  let vs := src b.vs1 n w
  let vi := idxOp b
  let meet (x y : Opnd) : Bool := x.regs &&& y.regs ≠ 0
  widened b { Member.plain ((if ret then [vo] else []) ++ [vs, vi, { mdst 0 with reg := st, reads := true }])
      (!(tyOf b ∈ k.types) || memModBad b (mAq ||| mRl ||| mIw ||| mSt ||| (if k.fx then 0 else 0x801))
        || (!ret && b.vd ≠ 0) || meet vs vi || (ret && (meet vo vs || meet vo vi)) || (b.men && b.msk.toNat = st)) w n
      (k.run b) with applied := appliedOf b }

/-- Integer words. -/
def amoInts : List Nat := [24, 25, 26, 27]
/-- Floating words. -/
def amoFloats : List Nat := [20, 21]

/-- vamoadd (15 Table 15.5). -/
def vamoaddMember (b : Body) : Member := amoMember ⟨0, amoInts, false⟩ b
/-- vamoadd (15 R417 to R419). -/
def execVamoadd (b : Body) (s : State) : Out := lone 3 0x07 b (vamoaddMember b) s
/-- vamoand (15 Table 15.5). -/
def vamoandMember (b : Body) : Member := amoMember ⟨1, amoInts, false⟩ b
/-- vamoand (15 R417 to R419). -/
def execVamoand (b : Body) (s : State) : Out := lone 3 0x08 b (vamoandMember b) s
/-- vamoor (15 Table 15.5). -/
def vamoorMember (b : Body) : Member := amoMember ⟨2, amoInts, false⟩ b
/-- vamoor (15 R417 to R419). -/
def execVamoor (b : Body) (s : State) : Out := lone 3 0x09 b (vamoorMember b) s
/-- vamoxor (15 Table 15.5). -/
def vamoxorMember (b : Body) : Member := amoMember ⟨3, amoInts, false⟩ b
/-- vamoxor (15 R417 to R419). -/
def execVamoxor (b : Body) (s : State) : Out := lone 3 0x0a b (vamoxorMember b) s
/-- vamomin (15 Table 15.5). -/
def vamominMember (b : Body) : Member := amoMember ⟨4, amoInts, false⟩ b
/-- vamomin (15 R417 to R419). -/
def execVamomin (b : Body) (s : State) : Out := lone 3 0x0b b (vamominMember b) s
/-- vamomax (15 Table 15.5). -/
def vamomaxMember (b : Body) : Member := amoMember ⟨5, amoInts, false⟩ b
/-- vamomax (15 R417 to R419). -/
def execVamomax (b : Body) (s : State) : Out := lone 3 0x0c b (vamomaxMember b) s
/-- vamominu (15 Table 15.5). -/
def vamominuMember (b : Body) : Member := amoMember ⟨6, amoInts, false⟩ b
/-- vamominu (15 R417 to R419). -/
def execVamominu (b : Body) (s : State) : Out := lone 3 0x0d b (vamominuMember b) s
/-- vamomaxu (15 Table 15.5). -/
def vamomaxuMember (b : Body) : Member := amoMember ⟨7, amoInts, false⟩ b
/-- vamomaxu (15 R417 to R419). -/
def execVamomaxu (b : Body) (s : State) : Out := lone 3 0x0e b (vamomaxuMember b) s
/-- vamoswap (15 Table 15.5). -/
def vamoswapMember (b : Body) : Member := amoMember ⟨8, (amoFloats ++ amoInts), false⟩ b
/-- vamoswap (15 R417 to R419). -/
def execVamoswap (b : Body) (s : State) : Out := lone 3 0x0f b (vamoswapMember b) s
/-- vamofadd (15 Table 15.5). -/
def vamofaddMember (b : Body) : Member := amoMember ⟨10, amoFloats, false⟩ b
/-- vamofadd (15 R417 to R419). -/
def execVamofadd (b : Body) (s : State) : Out := lone 3 0x10 b (vamofaddMember b) s
/-- vamofmin (15 Table 15.5). -/
def vamofminMember (b : Body) : Member := amoMember ⟨11, amoFloats, false⟩ b
/-- vamofmin (15 R417 to R419). -/
def execVamofmin (b : Body) (s : State) : Out := lone 3 0x11 b (vamofminMember b) s
/-- vamofmax (15 Table 15.5). -/
def vamofmaxMember (b : Body) : Member := amoMember ⟨12, amoFloats, false⟩ b
/-- vamofmax (15 R417 to R419). -/
def execVamofmax (b : Body) (s : State) : Out := lone 3 0x12 b (vamofmaxMember b) s
/-- vamofxadd (15 Table 15.5). -/
def vamofxaddMember (b : Body) : Member := amoMember ⟨13, [20], true⟩ b
/-- vamofxadd (15 R417 to R419). -/
def execVamofxadd (b : Body) (s : State) : Out := lone 3 0x13 b (vamofxaddMember b) s

end Sys2Proof.Machine
end

