-- ==== Sys2Proof/Machine/Engines.lean ====
section
/-!
DEFINITION. The stream and sort engines (09 R230 to R240; 07 R185 to R188; 08 R222): acceptance, elements, ends, and the commands of a
hart (15 R421 to R423); and the load of a code table (15 R407, 11 R301).
-/
namespace Sys2Proof.Machine

/-! ### Parameter blocks -/

/-- Word i of a parameter block. -/
def blkWord (t : TaskRec) (i : Nat) : Word := [t.w0, t.w1, t.w2, t.w3, t.w4, t.w5, t.w6, t.w7].getD i 0

/-- irq of a block. -/
def blkIrq (t : TaskRec) : Bool := wbit t.w5 48
/-- The handler address of a block. -/
def blkHandler (t : TaskRec) : BitVec 48 := field t.w5 0 48
/-- The checks of word 5 (09 Table 9.1). -/
def blkIrqOk (t : TaskRec) : Bool := wfield t.w5 49 15 = 0 && (!blkIrq t || wfield t.w5 0 2 = 0)

/-- Element size of a stream transfer in bytes. -/
def esizeOf (t : TaskRec) : Nat := 2 ^ wfield t.w4 32 3
/-- Multicast mask. -/
def mcastOf (t : TaskRec) : Nat := wfield t.w4 40 8

/-- The precise checks of a stream block (09 Table 9.1). -/
def streamOk (t : TaskRec) : Bool :=
  let n := esizeOf t
  let d := wfield t.w1 0 48
  wfield t.w0 48 16 = 0 && wfield t.w1 48 16 = 0 && wfield t.w0 0 48 % n = 0 && d % n = 0
    && wfield t.w2 32 32 % n = 0 && wfield t.w2 0 32 % n = 0 && wfield t.w3 32 32 % n = 0 && wfield t.w3 0 32 % n = 0
    && wfield t.w4 48 16 = 0 && wfield t.w4 35 5 = 0 && wfield t.w4 32 3 ≤ 4
    && (mcastOf t = 0 || (0xFD0000000000 ≤ d && d < 0xFD0000600000)) && blkIrqOk t && t.w6 = 0 && t.w7 = 0

/-- The address of element e from a base word and a stride word (09 R236). -/
def streamAddr (base strides : Word) (len e : Nat) : Word :=
  BitVec.ofInt 64 (wfield base 0 48 + (e / len : Nat) * sextN 32 (wfield strides 32 32) + (e % len : Nat) * sextN 32 (wfield strides 0 32))

/-- Elements of a row. -/
def rowLen (t : TaskRec) (count : Nat) : Nat := if wfield t.w4 0 32 = 0 then count else wfield t.w4 0 32

/-- Source address of element k. -/
def srcAddr (t : TaskRec) (count k : Nat) : Word := streamAddr t.w0 t.w2 (rowLen t count) k
/-- Destination address of element k. -/
def dstAddr (t : TaskRec) (count k : Nat) : Word := streamAddr t.w1 t.w3 (rowLen t count) k

/-- The cluster indices of the banks a multicast element reaches, and its offset; none outside the banks of the window (07 R188). -/
def mcastBanks (t : TaskRec) (va : Word) : Option (List Nat × Nat) :=
  let o := va.toNat - 0xFD0000000000
  if va.toNat < 0xFD0000000000 ∨ 0x600000 ≤ o ∨ 0x6000 ≤ o % 0x8000 then none
  else some (((List.range 8).filter (fun c => nbit (mcastOf t) c)).map (fun c => 24 * c + o / 0x8000 % 24), o % 0x8000)

/-- Every destination address of an element: one, or one for each bank of a multicast. -/
def dstAddrs (t : TaskRec) (count k : Nat) : List Nat :=
  let va := dstAddr t count k
  if mcastOf t = 0 then [va.toNat]
  else
    match mcastBanks t va with
    | none => [va.toNat]
    | some (bs, off) => bs.map (fun b => 0xFD0000000000 + 0x8000 * b + off)

/-- The smallest interval that holds runs of `n` bytes at addresses (08 R222). -/
def spanOf (as : List Nat) (n : Nat) : Nat × Nat :=
  match as with
  | [] => (0, 0)
  | a :: rest => rest.foldl (fun r b => (min r.1 b, max r.2 (b + n))) (a, a + n)

/-- The ranges of a stream transfer. -/
def streamRanges (t : TaskRec) (count : Nat) : (Nat × Nat) × (Nat × Nat) :=
  (spanOf ((List.range count).map (fun k => (srcAddr t count k).toNat)) (esizeOf t),
   spanOf ((List.range count).flatMap (dstAddrs t count)) (esizeOf t))

/-! ### Sort blocks (09 Table 9.3) -/

/-- Key bytes. -/
def kwOf (t : TaskRec) : Nat := if wbit t.w6 33 then 8 else 4
/-- Payload bytes. -/
def pwOf (t : TaskRec) : Nat := 4 * wfield t.w6 34 2
/-- Pairs. -/
def pairsOf (t : TaskRec) : Nat := wfield t.w6 0 33
/-- Segment prefix width. -/
def segOf (t : TaskRec) : Nat := wfield t.w6 36 5

/-- Start and bytes of kin, pin, kout, pout, temp and table, in this order. -/
def sortArrays (t : TaskRec) : List (Nat × Nat) :=
  let n := pairsOf t
  [(wfield t.w0 0 48, n * kwOf t), (wfield t.w1 0 48, n * pwOf t), (wfield t.w2 0 48, n * kwOf t), (wfield t.w3 0 48, n * pwOf t),
   (wfield t.w4 0 48, n * (kwOf t + pwOf t)), (wfield t.w7 0 48, if segOf t = 0 then 0 else (2 ^ segOf t + 1) * 8)]

/-- Two arrays share no byte. -/
def apart (a b : Nat × Nat) : Bool := a.2 = 0 || b.2 = 0 || a.1 + a.2 ≤ b.1 || b.1 + b.2 ≤ a.1

/-- An array is apart from every other one. -/
def apartAll (as : List (Nat × Nat)) (i : Nat) : Bool :=
  (List.range as.length).all (fun j => j = i || apart (as.getD i (0, 0)) (as.getD j (0, 0)))

/-- The precise checks of a sort block (09 Table 9.3). -/
def sortOk (t : TaskRec) : Bool :=
  let as := sortArrays t
  let at' (i : Nat) : Nat := (as.getD i (0, 0)).1
  (List.range 8).all (fun i => i = 5 || i = 6 || wfield (blkWord t i) 48 16 = 0) && blkIrqOk t
    && wfield t.w6 41 23 = 0 && segOf t ≤ 16 && wfield t.w6 34 2 ≠ 3 && pairsOf t ≤ 2 ^ 32
    && at' 0 % kwOf t = 0 && (if pwOf t = 0 then at' 1 = 0 && at' 3 = 0 else at' 1 % pwOf t = 0)
    && (at' 2 = at' 0 || apartAll as 2) && (at' 3 = at' 1 || apartAll as 3)
    && at' 4 % 8 = 0 && apartAll as 4 && at' 5 % 8 = 0 && apartAll as 5 && (segOf t ≠ 0 || at' 5 = 0)

/-- The smallest interval that holds arrays. -/
def arraySpan (as : List (Nat × Nat)) : Nat × Nat :=
  match as.filter (fun a => a.2 ≠ 0) with
  | [] => (0, 0)
  | a :: rest => rest.foldl (fun r b => (min r.1 b.1, max r.2 (b.1 + b.2))) (a.1, a.1 + a.2)

/-- The ranges of a sort (09 R240). -/
def sortRanges (t : TaskRec) : (Nat × Nat) × (Nat × Nat) := (arraySpan ((sortArrays t).take 2), arraySpan ((sortArrays t).drop 2))

/-! ### Queues, and the end of a transfer (09 R231 to R235) -/

/-- The transfers an engine holds. -/
def engQueue (s : State) (e : EngineRef) : List EngXfer :=
  match e with
  | .stream cl => (s.cluster cl).stream
  | .sort d => (s.die d).sort

/-- Change an engine's queue. -/
def State.setEngQueue (s : State) (e : EngineRef) (q : List EngXfer) : State :=
  match e with
  | .stream cl => s.modCluster cl (fun c => { c with stream := q })
  | .sort d => s.modDie d (fun x => { x with sort := q })

/-- Two entries are one transfer. -/
def EngXfer.same (a b : EngXfer) : Bool := a.gang = b.gang && a.rank = b.rank && a.id = b.id

/-- Change a transfer in its queue. -/
def State.putXfer (s : State) (e : EngineRef) (x : EngXfer) : State :=
  s.setEngQueue e ((engQueue s e).map (fun y => if y.same x then x else y))

/-- The engine acts as the hart that issued the transfer. -/
def EngXfer.who (x : EngXfer) : Who := { ctx := x.ctx, gang := x.gang, core := x.core, slot := x.slot, rank := x.rank, sup := x.sup, unit := true }

/-- The resident hart that a transfer belongs to. -/
def ownerOf (s : State) (x : EngXfer) : Option Hart := s.allHarts.find? (fun h => h.gang = x.gang && h.rank = x.rank)

/-- A status entry ends. -/
def Xfer.ended (x : Xfer) (st : XferState) (code : BitVec 8) (addr : BitVec 48) (order : Nat) : Xfer :=
  { x with state := st, code := code, addr := addr, order := order }

/-- The hart's entry of a transfer ends (09 R231). -/
def Hart.endXfer (h : Hart) (id : BitVec 16) (st : XferState) (code : BitVec 8) (addr : BitVec 48) : Hart :=
  { h with xfers := h.xfers.map (fun x => if x.id = id ∧ x.state = .running then x.ended st code addr h.xferEnded else x)
           xferEnded := h.xferEnded + 1 }

/-- What a saved rank keeps of a transfer that ends (09 R235). -/
def Carry.endXfer (c : Carry) (x : EngXfer) (st : XferState) (code : BitVec 8) (addr : BitVec 48) : Carry :=
  { c with ended := c.ended ++ [{ id := x.id, state := st, code := code, addr := addr, irq := blkIrq x.blk, handler := blkHandler x.blk
                                  sort := true, order := c.xferEnded }]
           xferEnded := c.xferEnded + 1 }

/-- No bank has the transfer as a writer any more. -/
def State.dropWriter (s : State) (x : EngXfer) : State :=
  let one (p : Nat × Bank) : Nat × Bank :=
    (p.1, { p.2 with writers := p.2.writers.filter (fun w => ¬ (w.1 = x.core ∧ w.2.1 = x.slot ∧ w.2.2.1 = x.id)) })
  { s with banks := s.banks.map one }

/-- A transfer ends, as done or as failed (09 R231 to R235): it leaves its queue, its core's ARIT and the banks it wrote, and its hart,
or what its saved rank keeps, has its status. -/
def State.endXfer (s : State) (e : EngineRef) (x : EngXfer) (st : XferState) (code : BitVec 8) (addr : Word) : State :=
  let a : BitVec 48 := field addr 0 48
  let s := if code = 5 then s.countUe else s
  let s := (s.setEngQueue e ((engQueue s e).filter (fun y => !y.same x))).dropWriter x
  let saved := (tget s.gangs x.gang.toNat).any (fun g => wbit g.savedRanks x.rank.toNat)
  let s := if saved then
      s.modGang x.gang (fun g => { g with carry := g.carry.map (fun p => if p.1 = x.rank.toNat then (p.1, p.2.endXfer x st code a) else p) })
    else s
  match ownerOf s x with
  | none => s
  | some h =>
    (s.modCore h.core (fun c => { c with arit := c.arit.filter (fun t => ¬ (t.slot = h.slot ∧ t.id = x.id)) })).modHart h.ref
      (fun h => h.endXfer x.id st code a)

/-- A transfer whose writes are visible ends (09 R238): as done, or as it has failed. -/
def State.finishXfer (s : State) (e : EngineRef) (x : EngXfer) : State :=
  match x.fail with
  | none => s.endXfer e x .done 0 0
  | some (code, addr) => s.endXfer e x .failed code addr

/-- A transfer fails, and ends once its class L writes are visible (08 R207, 09 R232). -/
def State.failXfer (s : State) (e : EngineRef) (x : EngXfer) (code : BitVec 8) (addr : Word) : State :=
  let x := { x with left := [], cur := none, fail := some (code, addr) }
  if x.maxV ≤ s.pkg.dtime.toNat then s.finishXfer e x else s.putXfer e x

/-- A write of a transfer has failed under 01 R39 or R40: the unsent calls that wait for the transfer are aborted (04 R100). -/
def State.abortCalls (s : State) (x : EngXfer) : State :=
  let one (p : Nat × SendEntry) : Nat × SendEntry :=
    if ¬ p.2.sent ∧ p.2.gang = x.gang ∧ p.2.rank = x.rank ∧ x.id ∈ p.2.rel.xfers then (p.1, { p.2 with abort := true }) else p
  { s with cores := s.cores.map (fun (c : Nat × Core) => (c.1, { c.2 with send := c.2.send.map one })) }

/-! ### Elements of a stream transfer (09 R236 to R238; 07 R185, R186, R188) -/

/-- What an element answers. -/
inductive ElemRes where
  /-- it is performed; the visibility time its write took -/
  | ok (v : Nat) (s : State)
  /-- it failed, with a code of Table 9.4 at an address -/
  | fail (code : BitVec 8) (addr : Word)
  /-- its write failed under 01 R39 or R40, at an address -/
  | lost (addr : Word)
  | need (n : Need)
  /-- the ring it appends to is full -/
  | full

/-- The failure code of a cause at the source (09 Table 9.4). -/
def srcCode (c : BitVec 8) : BitVec 8 := if c = 0x14 then 7 else if c = 0x15 then 5 else if c = 0x06 then 1 else 3

/-- The failure code of a cause at the destination. -/
def dstCode (c : BitVec 8) : BitVec 8 := if c = 0x14 then 7 else if c = 0x15 then 5 else if c = 0x07 then 2 else 4

/-- The F bank that a transfer appends to: its destination address is offset 0 of it (07 R185). -/
def appendsTo (s : State) (x : EngXfer) : Option Nat :=
  match resolveWindow s x.who (wfield x.blk.w1 0 48) .store with
  | some (.ok (.bank i off)) => if off = 0 ∧ (s.bank i).mode = .F ∧ mcastOf x.blk = 0 then some i else none
  | _ => none

/-- Append a run of bytes to a ring with room (07 R184, R185). -/
def Bank.append (k : Bank) (bs : List Byte) : Bank :=
  let t := (k.tail + bs.length) % 49152
  { ringWrite k k.tail bs with tail := t, arr := if k.arr = k.tail then t else k.arr }

/-- A bank of the cluster that a multicast may write: mode S, held by the context (07 R188). -/
def mcastBankOk (s : State) (x : EngXfer) (b : Nat) : Bool :=
  let k := s.bank (192 * (clusterOf x.core).toNat + b)
  k.mode == .S && bankReach k x.ctx

/-- The write of an element. -/
def elemWrite (s : State) (x : EngXfer) (k : Nat) (bs : List Byte) (rs : List Reply) : ElemRes :=
  let va := dstAddr x.blk x.count k
  match appendsTo s x with
  | some i => if (s.bank i).used + bs.length ≤ 24576 then .ok 0 (s.setBank i ((s.bank i).append bs)) else .full
  | none =>
    if mcastOf x.blk ≠ 0 then
      match mcastBanks x.blk va with
      | none => .fail 4 va
      | some (ts, off) =>
        if ts.all (mcastBankOk s x) then
          .ok 0 (ts.foldl (fun s b =>
            let i := 192 * (clusterOf x.core).toNat + b
            s.setBank i (bankWrite (s.bank i) off bs)) s)
        else .fail 7 va
    else
      match resolve s x.who va .store with
      | (.error c, _) => .fail (dstCode c) va
      | (.ok p, s) =>
        let toRing : Bool := match p with
          | .bank i _ => (s.bank i).mode == .F
          | _ => false
        if toRing then .fail 7 va
        else
          match unitWriteAt s x.who p bs rs with
          | .ok v s _ => .ok v s
          | .fault c => .fail (dstCode c) va
          | .failed st => if st = 0xFF then .lost va else .fail 6 va
          | .need n => .need n

/-- One element: one read of the source and one write of the destination (09 R237). -/
def streamElem (s : State) (x : EngXfer) (k : Nat) : ElemRes :=
  let va := srcAddr x.blk x.count k
  match resolve s x.who va .load with
  | (.error c, _) => .fail (srcCode c) va
  | (.ok p, s) =>
    match unitReadAt s p (esizeOf x.blk) x.replies with
    | .ok bs s rs => elemWrite s x k bs rs
    | .fault c => .fail (srcCode c) va
    | .failed _ => .fail 6 va
    | .need n => .need n

/-- The element to perform next: elements of an append in order, others in an order that is free (09 R237, log 1). -/
def nextElem (s : State) (x : EngXfer) : Option Nat × State :=
  match x.cur, x.left with
  | some k, _ => (some k, s)
  | none, [] => (none, s)
  | none, [k] => (some k, s)
  | none, k :: rest =>
    if (appendsTo s x).isSome then (some k, s)
    else (some ((k :: rest).getD (Config.freeNat s.freshCount % (rest.length + 1)) k), { s with freshCount := s.freshCount + 1 })

/-- The destination addresses rise in element order (07 R186). -/
def rising (x : EngXfer) : Bool :=
  (List.range (x.count - 1)).all (fun k => (dstAddr x.blk x.count k).toNat < (dstAddr x.blk x.count (k + 1)).toNat)

/-- The window offset of an element in a bank of the package, if its destination lies there. -/
def elemOff (s : State) (x : EngXfer) (i k : Nat) : Option Nat :=
  (dstAddrs x.blk x.count k).findSome? (fun a =>
    match resolveWindow s x.who a .store with
    | some (.ok (.bank j off)) => if j = i then some off else none
    | _ => none)

/-- The arrival pointer of a transfer in a bank (07 R186). -/
def arrivalOf (s : State) (x : EngXfer) (i : Nat) : Nat :=
  if (s.bank i).mode = .F then (s.bank i).arr % 24576
  else if rising x then (x.left.filterMap (elemOff s x i)).foldl min 24576
  else if x.left = [] then 24576 else 0

/-- The banks a transfer writes have its arrival pointer. -/
def State.arrive (s : State) (x : EngXfer) : State :=
  let mine (w : BitVec 8 × BitVec 4 × BitVec 16 × Nat) : Bool := w.1 = x.core && w.2.1 = x.slot && w.2.2.1 = x.id
  (s.banks.filter (fun p => p.2.writers.any mine)).foldl (fun s p =>
    let a := arrivalOf s x p.1
    let b := s.bank p.1
    s.setBank p.1 { b with writers := b.writers.map (fun w => if mine w then (w.1, w.2.1, w.2.2.1, a) else w) }) s

/-- Perform the next element of a started transfer. -/
def State.streamStep (s : State) (e : EngineRef) (x : EngXfer) : State :=
  match nextElem s x with
  | (none, s) => s
  | (some k, s) =>
    let x := { x with cur := some k }
    match streamElem s x k with
    | .ok v s =>
      let x := { x with cur := none, left := x.left.erase k, replies := [], maxV := max x.maxV v }
      (s.putXfer e x).arrive x
    | .fail code addr => s.failXfer e x code addr
    | .lost addr => (s.abortCalls x).failXfer e x 6 addr
    | .full => s.putXfer e x
    | .need n =>
      match s.askFor (.engine e x.gang x.rank x.id) n with
      | (some q, s) => s.putXfer e { x with replies := x.replies ++ [q] }
      | (none, s) => s.putXfer e { x with waiting := true }

/-! ### A sort (09 R239, R240) -/

/-- Insert a pair before the first one whose key is not below its own. -/
def insertPair (a : Nat × Nat) : List (Nat × Nat) → List (Nat × Nat)
  | [] => [a]
  | b :: bs => if a.1 ≤ b.1 then a :: b :: bs else b :: insertPair a bs

/-- Pairs by key ascending, equal keys in their order (09 R239). -/
def sortPairs : List (Nat × Nat) → List (Nat × Nat)
  | [] => []
  | a :: as => insertPair a (sortPairs as)

/-- Entry j of the segment table: the least output index whose key prefix is at least j. -/
def segEntry (keys : List Nat) (shift j : Nat) : Nat := (keys.findIdx? (fun k => j ≤ k >>> shift)).getD keys.length

/-- A failure: code and address. -/
abbrev SortFail := BitVec 8 × Word

/-- The bytes of a sort's input at an address: a local page of class D or L; a window is refused as a page of another place is (09 R240). -/
def sortRead (x : EngXfer) (s : State) (va n : Nat) : Except SortFail (List Byte × State) :=
  let a : Word := BitVec.ofNat 64 va
  match resolve s x.who a .load with
  | (.error c, _) => .error (if srcCode c = 7 then 3 else srcCode c, a)
  | (.ok (.phys pa cls da), s) =>
    if cls = 2 then .error (3, a)
    else
      match unitReadAt s (.phys pa cls da) n [] with
      | .ok bs s _ => .ok (bs, s)
      | _ => .error (5, a)
  | (.ok _, _) => .error (3, a)

/-- Bytes that a sort writes at an address, within one line. -/
def sortPut (x : EngXfer) (r : Nat × State) (va : Nat) (bs : List Byte) : Except SortFail (Nat × State) :=
  let a : Word := BitVec.ofNat 64 va
  match resolve r.2 x.who a .store with
  | (.error c, _) => .error (if dstCode c = 7 then 4 else dstCode c, a)
  | (.ok (.phys pa cls da), s) =>
    if cls = 2 then .error (4, a)
    else
      match unitWriteAt s x.who (.phys pa cls da) bs [] with
      | .ok v s _ => .ok (max r.1 v, s)
      | _ => .error (4, a)
  | (.ok _, _) => .error (4, a)

/-- A word that a sort writes: an output that is not aligned may run over a line. -/
def sortWrite (x : EngXfer) (r : Nat × State) (va : Nat) (bs : List Byte) : Except SortFail (Nat × State) :=
  let k := 128 - va % 128
  if bs.length ≤ k then sortPut x r va bs
  else do
    let r ← sortPut x r va (bs.take k)
    sortPut x r (va + k) (bs.drop k)

/-- The runs of bytes a sort writes: its outputs, its table, and undefined bytes in its temporary area. -/
def sortRuns (t : TaskRec) (ps : List (Nat × Nat)) (temp : List Byte) : List (Nat × List Byte) :=
  let as := sortArrays t
  let at' (i : Nat) : Nat := (as.getD i (0, 0)).1
  let kw := kwOf t
  let pw := pwOf t
  ps.zipIdx.flatMap (fun p => (at' 2 + p.2 * kw, leBytes kw p.1.1) :: (if pw = 0 then [] else [(at' 3 + p.2 * pw, leBytes pw p.1.2)]))
    ++ (if segOf t = 0 then []
        else (List.range (2 ^ segOf t + 1)).map (fun j =>
          (at' 5 + 8 * j, leBytes 8 (segEntry (ps.map Prod.fst) (8 * kw - segOf t) j))))
    ++ temp.zipIdx.map (fun b => (at' 4 + b.2, [b.1]))

/-- Run a sort: the greatest visibility time of its writes, and the state. A failing sort writes nothing (09 R232 leaves that open). -/
def sortRun (s : State) (x : EngXfer) : Except SortFail (Nat × State) := do
  let t := x.blk
  let kw := kwOf t
  let pw := pwOf t
  let (ps, s) ← (List.range (pairsOf t)).foldlM (fun (r : List (Nat × Nat) × State) i => do
    let (k, s) ← sortRead x r.2 (wfield t.w0 0 48 + i * kw) kw
    let (p, s) ← if pw = 0 then .ok ([], s) else sortRead x s (wfield t.w1 0 48 + i * pw) pw
    .ok ((leNat k, leNat p) :: r.1, s)) ([], s)
  let ps := ps.reverse
  let n := pairsOf t * (kw + pw)
  let (img, s) := s.freshImage (8 * n)
  (sortRuns t (sortPairs ps) (leBytes n img)).foldlM (fun r w => sortWrite x r w.1 w.2) (0, s)

/-- Perform a started sort as a whole. -/
def State.sortStep (s : State) (e : EngineRef) (x : EngXfer) : State :=
  match sortRun s x with
  | .ok (v, s) => s.putXfer e { x with left := [], maxV := v }
  | .error (code, addr) => s.failXfer e x code addr

/-! ### The rows of the engines -/

/-- Two address intervals meet. -/
def meets (a b : Nat × Nat) : Bool := a.1 < b.2 && b.1 < a.2

/-- Two entries conflict: write against read or write (08 R222 rule 4). -/
def AritEntry.conflicts (a b : AritEntry) : Bool :=
  meets (a.wlo, a.whi) (b.wlo, b.whi) || meets (a.wlo, a.whi) (b.rlo, b.rhi) || meets (a.rlo, a.rhi) (b.wlo, b.whi)

/-- A sort of a saved rank's that was accepted earlier runs and conflicts with another of its sorts. -/
def savedEarlier (s : State) (x : EngXfer) : Bool :=
  let range (y : EngXfer) : AritEntry :=
    let (r, w) := sortRanges y.blk
    { slot := 0, id := y.id, rlo := r.1, rhi := r.2, wlo := w.1, whi := w.2 }
  match (tget s.gangs x.gang.toNat).bind (fun g => tget g.carry x.rank.toNat) with
  | none => false
  | some c =>
    let before := c.sorts.takeWhile (fun id => id ≠ x.id)
    s.dies.any (fun d => d.2.sort.any (fun y => y.gang = x.gang && y.rank = x.rank && y.id ∈ before && (range y).conflicts (range x)))

/-- A transfer of the same hart accepted earlier conflicts with it (08 R222 rule 4). -/
def heldByEarlier (s : State) (x : EngXfer) : Bool :=
  match ownerOf s x with
  | none => savedEarlier s x
  | some h =>
    let mine := (s.core h.core).arit.filter (fun a => a.slot = h.slot)
    match mine.find? (fun a => a.id = x.id) with
    | none => false
    | some a => (mine.takeWhile (fun b => b.id ≠ x.id)).any (fun b => b.conflicts a)

/-- A transfer may start: earlier writes of its hart are performed, and no earlier transfer of it conflicts (08 R222). -/
def mayStart (s : State) (x : EngXfer) : Bool := writesDone s x.rel && !heldByEarlier s x

/-- The lowest element whose multicast meets a bank that is not in mode S or not held (07 R188). -/
def mcastFault (s : State) (x : EngXfer) : Option Word :=
  if mcastOf x.blk = 0 then none
  else
    ((List.range x.count).find? (fun k =>
      match mcastBanks x.blk (dstAddr x.blk x.count k) with
      | some (bs, _) => !bs.all (mcastBankOk s x)
      | none => false)).map (dstAddr x.blk x.count)

/-- Start a transfer (09 R238, 07 R188). -/
def State.startXfer (s : State) (e : EngineRef) (x : EngXfer) : State :=
  match mcastFault s x with
  | some a => s.failXfer e x 7 a
  | none => s.putXfer e { x with started := true }

/-- The oldest transfer that has not started, when the engine has room for one more and it may start. -/
def startable (s : State) (e : EngineRef) : Option EngXfer :=
  let q := engQueue s e
  let room := match e with
    | .stream _ => 4
    | .sort _ => 1
  if room ≤ (q.filter (fun x => x.started)).length then none
  else (q.find? (fun x => !x.started)).filter (fun x => mayStart s x && !x.cancelled)

/-- TRANSFER_START (09 R238). -/
def execTransferStart (cl : BitVec 5) (s : State) : Out :=
  match startable s (.stream cl) with
  | some x => .next (s.startXfer (.stream cl) x)
  | none => .next s

/-- SORT_START (09 R240). -/
def execSortStart (die : BitVec 2) (s : State) : Out :=
  match startable s (.sort die) with
  | some x => .next (s.putXfer (.sort die) { x with started := true })
  | none => .next s

/-- A transfer goes on: started, not waiting for a reply, not cancelled. -/
def EngXfer.runs (x : EngXfer) : Bool := x.started && !x.waiting && !x.cancelled

/-- Every element is performed, and every class L write is visible (09 R238). -/
def xferComplete (s : State) (x : EngXfer) : Bool := x.runs && x.left.isEmpty && x.maxV ≤ s.pkg.dtime.toNat

/-- The next element of a stream transfer cannot go on: it appends to a ring that has no room for it (07 R185). -/
def ringFull (s : State) (x : EngXfer) : Bool := (appendsTo s x).any (fun i => 24576 < (s.bank i).used + esizeOf x.blk)

/-- TRANSFER_DONE (09 R238): transfer `x` of the cluster performs what it has left, an element at a time, and ends done when all is
performed and visible. -/
def execTransferDone (cl : BitVec 5) (x : Nat) (s : State) : Out :=
  match (engQueue s (.stream cl))[x]? with
  | none => .next s
  | some t =>
    if xferComplete s t then .next (s.finishXfer (.stream cl) t)
    else if t.runs then .next (s.streamStep (.stream cl) t) else .next s

/-- SORT_DONE (09 R239): the sort that runs writes its outputs, and ends done when they are visible. -/
def execSortDone (die : BitVec 2) (s : State) : Out :=
  match (engQueue s (.sort die)).find? (fun x => x.started) with
  | none => .next s
  | some t =>
    if xferComplete s t then .next (s.finishXfer (.sort die) t)
    else if t.runs && !t.left.isEmpty then
      let s := s.sortStep (.sort die) t
      match (engQueue s (.sort die)).find? (fun x => x.same t) with
      | some t => .next (if xferComplete s t then s.finishXfer (.sort die) t else s)
      | none => .next s
    else .next s

/-- TRANSFER_FAILED (09 R234): the next element of a transfer fails, and the transfer ends failed. -/
def execTransferFailed (e : EngineRef) (x : Nat) (s : State) : Out :=
  match (engQueue s e)[x]? with
  | none => .next s
  | some t =>
    if !t.runs || t.left.isEmpty then .next s
    else
      match e with
      | .stream _ =>
        match nextElem s t with
        | (some k, u) =>
          match streamElem u t k with
          | .fail code addr => .next (u.failXfer e t code addr)
          | .lost addr => .next ((u.abortCalls t).failXfer e t 6 addr)
          | _ => .next s
        | _ => .next s
      | .sort _ =>
        match sortRun s t with
        | .error (code, addr) => .next (s.failXfer e t code addr)
        | .ok _ => .next s

/-- ENGINE_FIFO_APPEND (07 R185): the next element of a transfer into an F bank, when the ring has room. -/
def execEngineFifoAppend (cl : BitVec 5) (x : Nat) (s : State) : Out :=
  match (engQueue s (.stream cl))[x]? with
  | none => .next s
  | some t => if t.runs && (appendsTo s t).isSome then .next (s.streamStep (.stream cl) t) else .next s

/-- CHAINED_LOAD_ELEMENT (07 R187): the hart's waiting load looks again. -/
def execChainedLoadElement (h : HartRef) (s : State) : Out :=
  s.asHart h fun s => if s.hart.wait = .transfer then .next (s.withHart Hart.wake) else .next s

/-! ### Commands of a hart (15 R421 to R423) -/

/-- A bank that a transfer of the current hart writes has it as its newest writer from acceptance on (07 R186). -/
def State.enterWriters (s : State) (x : EngXfer) : State :=
  let is := ((List.range x.count).flatMap (dstAddrs x.blk x.count)).filterMap (fun a =>
    match resolveWindow s x.who a .store with
    | some (.ok (.bank i _)) => some i
    | _ => none)
  is.eraseDups.foldl (fun s i =>
    let b := s.bank i
    s.setBank i { b with writers := b.writers ++ [(x.core, x.slot, x.id, 0)] }) s

/-- Accept a transfer of the current hart (09 R230, R236, R239); none when a table or queue is full. -/
def State.accept (s : State) (e : EngineRef) (id : BitVec 16) (t : TaskRec) (sort : Bool) (count : Nat) : Option State :=
  let h := s.hart
  if 32 ≤ h.xfers.length ∨ 32 ≤ (s.core h.core).arit.length ∨ 32 ≤ (engQueue s e).length then none
  else
    let x : EngXfer := { core := h.core, slot := h.slot, ctx := h.ctx, gang := h.gang, rank := h.rank, id := id, sup := h.sup, blk := t
                         count := count, rel := { h.release with xfers := [] }, started := false, left := List.range count, cur := none
                         cancelled := false, replies := [], waiting := false, maxV := 0 }
    let (r, w) := if sort then sortRanges t else streamRanges t count
    let entry : Xfer := { id := id, state := .running, code := 0, addr := 0, irq := blkIrq t, handler := blkHandler t, sort := sort, order := 0 }
    let s := s.setEngQueue e (engQueue s e ++ [x])
    let s := s.modCore h.core (fun c => { c with arit := c.arit ++ [{ slot := h.slot, id := id, rlo := r.1, rhi := r.2, wlo := w.1, whi := w.2 }] })
    let s := s.withHart (fun h => { h with xfers := h.xfers ++ [entry] })
    if sort then
      if pairsOf t = 0 then
        let s := s.sortStep e x
        match (engQueue s e).find? (fun y => y.same x) with
        | some y => some (if y.maxV ≤ s.pkg.dtime.toNat then s.finishXfer e y else s.putXfer e { y with started := true })
        | none => some s
      else some s
    else if count = 0 then some (s.endXfer e x .done 0 0)
    else some (s.enterWriters x)

/-- SXFER and SORT (15 R421). -/
def submit (rd rs1 rs2 : Reg) (sort : Bool) (s : State) : Out :=
  let p := s.getX rs1
  let id : BitVec 16 := field (s.getX rs2) 0 16
  ((loadTask s p).bind fun t s =>
    if s.hart.xfers.any (fun x => x.id = id) then .trap 0x0F p
    else if !(if sort then sortOk t else streamOk t) then .trap 0x0F p
    else
      let e : EngineRef := if sort then .sort (dieOf s.hart.core) else .stream (clusterOf s.hart.core)
      match s.accept e id t sort (if sort then 1 else s.hart.vl.toNat) with
      | none => .ok () (s.setX rd 1).retire
      | some s => .ok () (s.setX rd 0).retire).finish s

/-- SXFER (15 R421). -/
def execSxfer (rd rs1 rs2 : Reg) (s : State) : Out := submit rd rs1 rs2 false s
/-- SORT (15 R421). -/
def execSort (rd rs1 rs2 : Reg) (s : State) : Out := submit rd rs1 rs2 true s

/-- ESTAT (15 R422, 09 R231). -/
def execEstat (rd rs1 : Reg) (s : State) : Out :=
  let id : BitVec 16 := field (s.getX rs1) 0 16
  match s.hart.xfers.find? (fun x => x.id = id) with
  | none => .next (s.setX rd 0).retire
  | some x =>
    let s := if x.state ≠ .running ∧ ¬ x.irq then s.withHart (fun h => { h with xfers := h.xfers.erase x }) else s
    .next (s.setX rd (BitVec.ofNat 64 x.status)).retire

/-- The engine and the entry of a running transfer of the current hart. -/
def runningXfer (s : State) (id : BitVec 16) : Option (EngineRef × EngXfer) :=
  let mine (x : EngXfer) : Bool := x.gang = s.hart.gang && x.rank = s.hart.rank && x.id = id
  let st := s.clusters.findSome? (fun c => (c.2.stream.find? mine).map (fun x => (EngineRef.stream (BitVec.ofNat 5 c.1), x)))
  let so := s.dies.findSome? (fun d => (d.2.sort.find? mine).map (fun x => (EngineRef.sort (BitVec.ofNat 2 d.1), x)))
  st.orElse (fun _ => so)

/-- ECANCEL (15 R423, 09 R233): a running transfer that has an element left stops, and ends failed with code 8 once nothing of it is in
flight; one whose last write is performed ends as done first. The address of a cancelled transfer is unstated, a free value (log 1). -/
def execEcancel (rd rs1 : Reg) (s : State) : Out :=
  let id : BitVec 16 := field (s.getX rs1) 0 16
  match s.hart.xfers.find? (fun x => x.id = id) with
  | none => .next (s.setX rd 2).retire
  | some x =>
    if x.state ≠ .running then .next (s.setX rd 1).retire
    else
      match runningXfer s id with
      | none => .next (s.setX rd 1).retire
      | some (e, t) =>
        let quiet := !t.waiting && t.maxV ≤ s.pkg.dtime.toNat
        if t.left.isEmpty then
          if quiet then .next ((s.finishXfer e t).setX rd 1).retire else .next (s.applyNeed (.wait .transfer))
        else if quiet then
          let (a, s) := s.freshWord
          .next ((s.endXfer e t .failed 8 a).setX rd 0).retire
        else .next ((s.putXfer e { t with cancelled := true }).applyNeed (.wait .transfer))

/-! ### Code tables (15 R407, 11 R301) -/

/-- Another hart of the context is in the middle of an instruction, which may be a coded load that decodes (11 R301). -/
def decoding (s : State) (c : BitVec 8) (me : HartRef) : Bool :=
  s.allHarts.any (fun h => h.ctx = c && h.ref ≠ me && (!h.replies.isEmpty || (match h.wait with
    | .reply _ => true
    | _ => false)))

/-- A slot that holds no table. -/
def CodeTable.empty : CodeTable := { bytes := none, gen := 0, loading := none }

/-- The slots of a context. -/
def Ctx.slots (x : Ctx) : List CodeTable := (List.range 4).map (fun i => x.codes.getD i CodeTable.empty)

/-- Put a slot. -/
def State.putSlot (s : State) (c : BitVec 8) (slot : Nat) (t : CodeTable) : State := s.modCtx c (fun x => { x with codes := x.slots.set slot t })

/-- Steps 3 and 4 of a CTLOAD (11 R301): it waits while an older decode goes on, and then writes the table. -/
def State.ctFinish (s : State) (rd : Reg) (slot : Nat) (t : CodeTable) (bs : List Byte) : State :=
  if decoding s s.hart.ctx s.hart.ref then
    (s.putSlot s.hart.ctx slot { t with loading := some (s.hart.gang, s.hart.rank, bs) }).applyNeed (.wait .ctload)
  else ((s.putSlot s.hart.ctx slot { t with bytes := some bs, loading := none }).setX rd (t.gen.setWidth 64)).retire

/-- CTLOAD (15 R407, 11 R301): it reads the bytes and takes the next generation; loads of one slot go one after another. -/
def execCtload (rd rs1 rs2 : Reg) (s : State) : Out :=
  let a := s.getX rs1
  let slot := wfield (s.getX rs2) 0 2
  let t := (s.ctx s.hart.ctx).slots.getD slot CodeTable.empty
  match t.loading with
  | some (g, r, bs) =>
    if g = s.hart.gang ∧ r = s.hart.rank then .next (s.ctFinish rd slot t bs) else .next (s.applyNeed (.wait .ctload))
  | none =>
    (if a.toNat % 64 ≠ 0 then .trap 0x0A a
     else (hartLoad s a 64).bind fun bs s => .ok () (s.ctFinish rd slot { t with gen := t.gen + 1 } bs) : Res Unit).finish s

end Sys2Proof.Machine
end

