-- ==== Sys2Proof/Machine/Requests.lean ====
section
/-!
DEFINITION. How an outstanding request ends (01 R32, R39, R40; 08 R202, R208 to R211; 03 R62, R71, R92; 09 R237, R242, R251): its
answer, or its failure, reaches whoever waits for it.
-/
namespace Sys2Proof.Machine

/-- The oldest outstanding request with a tag. -/
def State.findReq (s : State) (tag : BitVec 10) : Option Request := s.fab.reqs.find? (fun r => r.tag = tag)

/-- A request is no longer outstanding. -/
def State.dropReq (s : State) (r : Request) : State := { s with fab := { s.fab with reqs := s.fab.reqs.erase r } }

/-- A reply reaches a hart that waits for it. -/
def Hart.reply (h : Hart) (q : Reply) : Hart :=
  if h.wait = .reply q.tag then { h with replies := h.replies ++ [q], wait := .none } else h

/-- A posted write has its acknowledgement (08 R208, R210): its value reaches `vispend`, and an STV that waits for it. -/
def Hart.acked (h : Hart) (tag : BitVec 10) (now : Nat) : Hart :=
  match h.posted.find? (fun p => p.tag = tag ∧ ¬ p.failed) with
  | none => h
  | some p =>
    let k := { h.visible now with posted := h.posted.erase p }
    match h.wait with
    | .stv rd none => if p.seq + 1 = h.postSeq then { k with wait := .stv rd (some (BitVec.ofNat 64 now)) } else k
    | _ => k

/-- A posted write has failed (03 R92, 08 R228): the hart's fences will say so, and an STV that waits for it leaves 0 (13 R356). -/
def Hart.writeFailed (h : Hart) (tag : BitVec 10) : Hart :=
  match h.posted.find? (fun p => p.tag = tag ∧ ¬ p.failed) with
  | none => h
  | some p =>
    let k := { h with posted := h.posted.map (fun q => if q = p then { q with failed := true } else q) }
    match h.wait with
    | .stv rd none => if p.seq + 1 = h.postSeq then { k with wait := .stv rd (some 0) } else k
    | _ => k

/-- Unsent calls of a hart that wait for a write are aborted when it fails (04 R100). -/
def abortSends (h : Hart) (seq : Nat) (c : Core) : Core :=
  let one (p : Nat × SendEntry) : Nat × SendEntry :=
    if ¬ p.2.sent ∧ p.2.gang = h.gang ∧ p.2.rank = h.rank ∧ seq < p.2.rel.seq then (p.1, { p.2 with abort := true }) else p
  { c with send := c.send.map one }

/-- A posted write of a hart fails: a fault record of kind 7 too (03 R92). -/
def State.writeFails (s : State) (ref : HartRef) (tag : BitVec 10) : State :=
  match s.findHart ref with
  | none => s
  | some h =>
    match h.posted.find? (fun p => p.tag = tag ∧ ¬ p.failed) with
    | none => s
    | some p =>
      let s := (s.modHart ref (fun h => h.writeFailed tag)).postFault h.ctx (failedRec s h p.va)
      if tget s.cores ref.core.toNat = none then s else s.modCore ref.core (abortSends h p.seq)

/-- A reply reaches the transfer of an engine that waits for it. -/
def EngXfer.reply (x : EngXfer) (q : Reply) : EngXfer := { x with replies := x.replies ++ [q], waiting := false }

/-- A reply reaches an engine's transfer. -/
def State.engineReply (s : State) (e : EngineRef) (gang : BitVec 16) (rank : BitVec 6) (id : BitVec 16) (q : Reply) : State :=
  match (engQueue s e).find? (fun x => x.gang = gang ∧ x.rank = rank ∧ x.id = id ∧ x.waiting) with
  | none => s
  | some x => s.putXfer e (x.reply q)

/-- A reply reaches the audit of a cluster. -/
def State.auditReply (s : State) (cl : BitVec 5) (q : Reply) : State :=
  match (s.cluster cl).escrow with
  | [] => s
  | x :: rest =>
    if x.waiting then s.modCluster cl (fun c => { c with escrow := { x with replies := x.replies ++ [q], waiting := false } :: rest }) else s

/-- A peer line read for a lease is kept until its local expiry, the time its request left plus what remained (08 R202). -/
def State.keepLease (s : State) (r : Request) (core : BitVec 8) (d : Nat) (data : List Byte) : State :=
  match r.lease with
  | none => s
  | some l =>
    if s.pkg.dtime.toNat + 8 < r.since + d ∧ data.length = 128 ∧ 0 < cWays s core then
      (s.putCopy false l { core := core, expiry := r.since + d, data := leNat data }).makeRoom core l
    else s

/-- Count a management access that failed (03 R62). -/
def State.mgtFailed (s : State) : State :=
  { s with pkg := { s.pkg with insMgtfail := if s.pkg.insMgtfail = 0xFFFF then 0xFFFF else s.pkg.insMgtfail + 1 } }

/-- A host line arrives for the atomics that wait for it (09 R243). -/
def State.pulledIn (s : State) (line : Nat) (data : List Byte) : State :=
  { s with pulled := tset s.pulled line (leNat (data.take 128), false) }

/-- A reply reaches the completion record that waits for it (04 R111). -/
def State.ringReply (s : State) (id : Nat) (q : Reply) : State :=
  { s with rings := s.rings.map (fun j => if j.id = id ∧ j.waiting then { j with replies := j.replies ++ [q], waiting := false } else j) }

/-- The host refused a line: the atomics that wait for it fail. -/
def State.pullFails (s : State) (line : Nat) : State :=
  let ops := s.chain (2 ^ 45 + line)
  ops.foldl (fun s o => s.sauRefuse o.op 2) { s with sauq := s.sauq.filter (fun o => o ∉ ops) }

/-- The packet that relays the host's answer to a read of another device (03 R71). -/
def State.relay (s : State) (src : BitVec 12) (tag : BitVec 10) (data : Option (List Byte)) : State :=
  let p := match data with
    | some d => s.mkPacket src 3 1 tag 0 (0 :: bytesWords d)
    | none => s.mkPacket src 3 5 tag 0 [1]
  s.sendAnswer p

/-- A request has its answer: a status (08 R210), 0xFF for a failure under 01 R39 or R40, and data; `d` is a lease's remaining time. -/
def State.finishReq (s : State) (r : Request) (status : BitVec 8) (data : List Byte) (d : Nat) : State :=
  let s := s.dropReq r
  let q : Reply := { tag := r.tag, status := status, data := data, time := s.pkg.dtime.toNat }
  match r.waiter with
  | .hart ref => (if status = 0 then s.keepLease r ref.core d data else s).modHart ref (fun h => h.reply q)
  | .write ref => if status = 0 then s.modHart ref (fun h => h.acked r.tag s.pkg.dtime.toNat) else s.writeFails ref r.tag
  | .nbcmd =>
    let res : Nat := if status = 0 then 0 else if status = 0xFF then 2 else if status = 0xFE then 1 else 3
    let nb := wsetField (s.fab.nbcmd &&& ~~~ (1#64 <<< 63)) 48 8 res
    { s with fab := { s.fab with nbcmd := nb
                                 nbdata := if status = 0 ∧ ¬ wbit s.fab.nbcmd 43 then BitVec.ofNat 64 (leNat (data.take 8)) else s.fab.nbdata } }
  | .stamp => s
  | .hostRead src tag => s.relay src tag (if status = 0 then some data else none)
  | .slotMgmt wr =>
    let s := if status = 0xFF ∨ status = 0xFE then s.mgtFailed else s
    if wr then s
    else { s with hostOut := s.hostOut ++ [.read (if status = 0 then BitVec.ofNat 64 (leNat (data.take 8)) else BitVec.allOnes 64)] }
  | .engine e gang rank id => s.engineReply e gang rank id q
  | .audit cl => s.auditReply cl q
  | .drop c cl gang pc addr =>
    if status = 0 ∨ status = 5 then s else s.auditFault c cl (if status = 1 then 0x15 else 0) gang addr pc
  | .ring id => s.ringReply id q
  | .pull line => if status = 0 then s.pulledIn line data else s.pullFails line
  | .other => s

/-- A request fails at its source (01 R39, R40); 0xFE says that its link went down. -/
def State.failReq (s : State) (r : Request) (down : Bool) : State :=
  match r.waiter with
  | .nbcmd => s.finishReq r (if down then 0xFE else 0xFF) [] 0
  | .slotMgmt _ => s.finishReq r (if down then 0xFE else 0xFF) [] 0
  | _ => s.finishReq r 0xFF [] 0

/-- REQUEST_TIMEOUT (01 R40): no response within twice the link-recovery limit. -/
def execRequestTimeout (tag : BitVec 10) (s : State) : Out :=
  match s.findReq tag with
  | none => .next s
  | some r => .next (if r.away s.fab.devid ∧ r.since + 2 * lrTicks s ≤ s.pkg.dtime.toNat then s.failReq r false else s)

end Sys2Proof.Machine
end

