-- ==== Sys2Proof/WellFormed.lean ====
section
/-!
DEFINITION. Which terms of Instr stand for something the hardware can meet: field values that an encoding admits, and packets
and operations that the package's rows can carry.
-/
namespace Sys2Proof

/-- Operations of each packet class (01 Table 1.6). -/
def packetOps : Nat → Nat
  | 0 => 5
  | 1 => 3
  | 2 => 2
  | 3 => 6
  | 4 => 5
  | 5 => 2
  | _ => 0

/-- A packet's class and op are listed, and its length counts its flits (01 R31 to R33): 56 payload bytes a flit. -/
def Packet.wellFormed (p : Packet) : Bool :=
  p.op.toNat < packetOps p.cls.toNat && p.len.toNat + 1 == (8 + 8 * p.body.length + 55) / 56

/-- The packet class a row takes. -/
def packetFor (p : Packet) (cls op : Nat) : Bool := p.wellFormed && p.cls.toNat == cls && p.op.toNat == op

/-- The checks of a term of Instr. -/
def Instr.wellFormed : Instr → Bool
  | .fence rd rs1 fm pred succ =>
    !((fm == 8 && pred == 3 && succ == 3) || (fm == 0 && pred == 1 && succ == 0 && rd == 0 && rs1 == 0))
  | .fenceScoped _ scope => scope.toNat < 6
  | .fenceAcq scope => scope.toNat < 6
  | .fenceRel _ scope => scope.toNat < 6
  | .convoy hdr bodies => field hdr 0 7 == 0x2B#7 && bodies.length == headerCount hdr
  | .illegalInstruction w =>
    match decodeWord w with
    | .ok _ => false
    | .error .orphanBody => false
    | .error _ => field w 0 7 != 0x2B#7
  | .packetForward p => p.wellFormed
  | .timeStampRequest p => packetFor p 5 0
  | .timeStampResponse p => packetFor p 5 1
  | .nbcmdAnswer p => p.wellFormed && p.cls.toNat == 4
  | .mgtRegisterRead p => packetFor p 4 0
  | .mgtRegisterData p => packetFor p 4 1
  | .mgtRegisterWrite p => packetFor p 4 2
  | .mgtAcknowledge p => packetFor p 4 3
  | .mgtLinkEvent p => packetFor p 4 4
  | .queueInsertionArrival p => packetFor p 2 0
  | .insertionReport p => packetFor p 3 4
  | .hostRead p => packetFor p 3 0
  | .hostReadData p => packetFor p 3 1
  | .hostWrite p => packetFor p 3 2
  | .hostWriteAck p => packetFor p 3 3
  | .hostErrorResponse p => packetFor p 3 5
  | .invocationCall p => packetFor p 2 0
  | .arrivalReport p => packetFor p 2 1
  | .endReport p => packetFor p 2 1
  | .memoryRead p => packetFor p 0 0
  | .memoryReadData p => packetFor p 0 1
  | .memoryWrite p => packetFor p 0 2
  | .memoryWriteAck p => packetFor p 0 3
  | .memoryErrorResponse p => packetFor p 0 4
  | .atomicRequest p => packetFor p 1 0
  | .atomicResponse p => packetFor p 1 1
  | .atomicErrorResponse p => packetFor p 1 2
  | .sauOperation o => o.fn.toNat ≤ 15 && o.pa % (if o.dbl then 8 else 4) == 0
  | .challenge slot _ => slot.toNat ≤ 1
  | .getCertificate slot _ _ => slot.toNat ≤ 1
  | .maintClusterMeasure _ _ den => 0 < den
  | .hostPortCompletion _ _ data => data.length ≤ 16
  | .cxlMemAccess _ _ len => 0 < len && len ≤ 64
  | _ => true

end Sys2Proof
end

