-- ==== Sys2Proof/Machine/Fabric.lean ====
section
/-!
DEFINITION. Itmin links (01 R27 to R39): flits, error detection and replay, credits, the choice of channel, packets and routing, time
stamps, and the states of a link.
-/
namespace Sys2Proof.Machine

/-- The ports of the device. -/
def portList : List (BitVec 4) := (List.range 16).map (BitVec.ofNat 4)

/-! ### Flits (01 R27, R28) -/

/-- One bit of CRC-32C, least significant bit first (log 18). -/
def crcBit (c : BitVec 32) (b : Bool) : BitVec 32 := if (c.getLsbD 0) ≠ b then (c >>> 1) ^^^ 0x82F63B78#32 else c >>> 1

/-- CRC-32C over bits [n - 1 : 0] of a flit. -/
def crc32c (f : Flit) (n : Nat) : BitVec 32 := ~~~ ((List.range n).foldl (fun c i => crcBit c (f.getLsbD i)) (BitVec.allOnes 32))

/-- kind -/
def flitKind (f : Flit) : Nat := (field f 0 3).toNat
/-- eop -/
def flitEop (f : Flit) : Bool := f.getLsbD 3
/-- sop -/
def flitSop (f : Flit) : Bool := f.getLsbD 4
/-- chan -/
def flitChan (f : Flit) : BitVec 3 := field f 5 3
/-- ack -/
def flitAck (f : Flit) : BitVec 12 := field f 8 12
/-- seq -/
def flitSeq (f : Flit) : BitVec 12 := field f 20 12
/-- The 56 payload bytes, as a number. -/
def flitPayload (f : Flit) : BitVec 448 := field f 32 448

/-- A flit with its check bits (01 Table 1.3). -/
def mkFlit (payload : BitVec 448) (seq ack : BitVec 12) (chan : BitVec 3) (sop eop : Bool) (kind : BitVec 3) : Flit :=
  let body : BitVec 480 := payload ++ seq ++ ack ++ chan ++ BitVec.ofBool sop ++ BitVec.ofBool eop ++ kind
  crc32c (body.setWidth 512) 480 ++ body

/-- The bits of four flits and of their check symbols: a codeword on the wire (01 R27). The spec does not give the code's field and
generator, so the 12 check symbols are free (log 49). -/
def codeword (fs : List Flit) : BitVec 2144 :=
  let data := BitVec.ofNat 2048 (leNat (fs.flatMap (fun f => leBytes 64 f.toNat)))
  Config.fecCheck data ++ data

/-- The codewords of a sequence of flits, four flits each. -/
def codewords : List Flit → List (BitVec 2144)
  | a :: b :: c :: d :: rest => codeword [a, b, c, d] :: codewords rest
  | _ => []

/-- The codewords a link has put on the wire (01 R27). -/
def Link.wire (l : Link) : List (BitVec 2144) := codewords l.out

/-- The flits that the receive buffer of a channel holds (01 Table 1.4). -/
def bufferFlits (c : Nat) : Nat := if c ≤ 1 then 256 else if c ≤ 5 then 64 else 32

/-- A flit whose check bits hold, of an assigned kind and channel (01 R28). -/
def flitGood (f : Flit) : Bool := field f 480 32 = crc32c f 480 ∧ flitKind f < 5 ∧ ¬ (flitKind f = 1 ∧ flitChan f = 7)

/-! ### Packets and flits (01 R31, R32) -/

/-- The packet header (01 Table 1.5). -/
def packetHead (p : Packet) : Word := p.dst ++ p.src ++ p.cls ++ p.op ++ p.tag ++ p.len ++ p.ctx ++ p.hops ++ 0#4

/-- The payloads of so many flits, from bytes. -/
def payloads : Nat → List Byte → List (BitVec 448)
  | 0, _ => []
  | n + 1, bs => BitVec.ofNat 448 (leNat (bs.take 56)) :: payloads n (bs.drop 56)

/-- Flits of a packet. -/
def packetLen (p : Packet) : Nat := p.len.toNat + 1

/-- The flits of a packet, numbered when they are sent. -/
def packetFlits (p : Packet) : List Flit :=
  let n := packetLen p
  (payloads n (wordsBytes (packetHead p :: p.body))).zipIdx.map (fun x => mkFlit x.1 0 0 p.chan (x.2 = 0) (x.2 + 1 = n) 1)

/-- The packet that the payloads of received flits hold (01 Table 1.5). -/
def packetOf (fs : List Flit) (port : BitVec 4) : Packet :=
  let bs := fs.flatMap (fun f => leBytes 56 (flitPayload f).toNat)
  let ws := bytesWords bs
  let h := ws.headD 0
  { dst := field h 52 12, src := field h 40 12, cls := field h 37 3, op := field h 32 5, tag := field h 22 10, len := field h 16 6
    ctx := field h 8 8, hops := field h 4 4, chan := flitChan (fs.headD 0), body := ws.tail, port := port }

/-- A packet for the device at the other end of a link (01 R34). -/
def isNeighbour (p : Packet) : Bool := (p.cls = 4 ∨ p.cls = 5) ∧ p.dst = 0xFFF ∧ p.hops = 0

/-- A packet that its first receiver drops (01 R33), from so many flits. -/
def malformed (p : Packet) (flits : Nat) : Bool :=
  packetOps p.cls.toNat ≤ p.op.toNat ∨ packetLen p ≠ flits ∨ (p.dst = 0xFFF ∧ ¬ isNeighbour p)

/-- A link event of a kind about a port, in firmware's log. -/
def State.linkEvent (s : State) (kind : Nat) (port : BitVec 4) : State :=
  { s with fab := { s.fab with linkEvents := s.fab.linkEvents ++ [BitVec.ofNat 64 (kind <<< 8 + port.toNat)] } }

/-- A packet is dropped: it is counted, and firmware hears of it (01 R33). -/
def State.dropPacket (s : State) (port : BitVec 4) : State :=
  { s with fab := { s.fab with mgtDrops := s.fab.mgtDrops + 1 } }.linkEvent 2 port

/-- A received packet is delivered, forwarded or dropped (01 R33, R34). -/
def State.forward (s : State) (p : Packet) : State :=
  if malformed p (packetLen p) then s.dropPacket p.port
  else if isNeighbour p then { s with agenda := s.agenda ++ [.packet p] }
  else if s.fab.devid = 0xFFF then s.dropPacket p.port
  else if p.dst = s.fab.devid then { s with agenda := s.agenda ++ [.packet p] }
  else
    match routePort s p.dst with
    | some port => if p.hops = 0 then s.dropPacket p.port else s.enqueue port { p with hops := p.hops - 1, port := port }
    | none => s.dropPacket p.port

/-- PACKET_FORWARD (01 R34). -/
def execPacketForward (p : Packet) (s : State) : Out := .next (s.forward p)

/-- Send a neighbour packet through a port (01 R34). -/
def State.sendNeighbour (s : State) (port : BitVec 4) (cls : BitVec 3) (op : BitVec 5) (tag : BitVec 10) (body : List Word) : State :=
  s.enqueue port { s.mkPacket 0xFFF cls op tag 0 body with hops := 0, port := port }

/-- Answer a management or time packet: a neighbour through the port it came in on, any other device by its route. -/
def State.answer (s : State) (p : Packet) (op : BitVec 5) (body : List Word) : State :=
  if isNeighbour p then s.sendNeighbour p.port p.cls op p.tag body else s.sendAnswer (s.mkPacket p.src p.cls op p.tag 0 body)

/-! ### Receiving (01 R28 to R30) -/

/-- Sequence numbers from one to another, modulo 4,096. -/
def seqDist (a b : BitVec 12) : Nat := (b - a).toNat

/-- Flits of the retry buffer that an ack leaves (01 R29). -/
def Link.ackedBy (l : Link) (ack : BitVec 12) : Link :=
  if l.retry.any (fun p => p.1 = ack) then { l with retry := l.retry.drop (seqDist (l.retry.headD (0, 0)).1 ack + 1) } else l

/-- A NAK (01 R29): every payload flit after the acknowledged one is sent again; equal NAKs in a row are counted (R37). -/
def Link.nak (l : Link) (ack : BitVec 12) : Link :=
  let l := l.ackedBy ack
  { l with naks := if l.naks = 0xFFFF then 0xFFFF else l.naks + 1, replay := l.retry.map Prod.snd
           nakRun := if l.nakRun ≠ 0 ∧ l.nakAck = ack then l.nakRun + 1 else 1, nakAck := ack }

/-- NAK_RECEIVED (01 R29). -/
def execNakReceived (port : BitVec 4) (ack : BitVec 12) (s : State) : Out :=
  .next (if (s.link port).state = .active then s.modLink port (fun l => l.nak ack) else s)

/-- Credits of a credit flit (01 R30): seven increments of 16 bits. -/
def Link.addCredits (l : Link) (incs : BitVec 112) : Link :=
  { l with credits := (List.range 7).foldl (fun c k => tset c k (tgetD c k 0 + (field incs (16 * k) 16).toNat)) l.credits }

/-- CREDIT_FLIT_RECEIVED (01 R30). -/
def execCreditFlitReceived (port : BitVec 4) (incs : BitVec 112) (s : State) : Out :=
  .next (if (s.link port).state = .active then s.modLink port (fun l => l.addCredits incs) else s)

/-- The number of the last payload flit received in order. -/
def Link.lastGood (l : Link) : BitVec 12 := l.rxNext - 1

/-- A bad flit (01 R28): the first one is answered by a NAK, and later payload flits are discarded until the replay, which has arrived
when the payload flit with the next number does (DEDUCED, log 49). -/
def Link.bad (l : Link) : Link :=
  if l.rxDiscard then l else { l with rxDiscard := true, out := l.out ++ [mkFlit 0 (l.txNext - 1) l.lastGood 0 false false 3] }

/-- Whether a codeword is one of the replay asked for, so that a bad flit of it is a first one again: nothing the receiver reads of a bad
flit tells (log 1, log 49). -/
def State.replayBegins (s : State) (port : BitVec 4) : State :=
  if (s.link port).rxDiscard then
    let (b, s) := s.freshBool
    s.modLink port (fun l => { l with rxDiscard := !b })
  else s

/-- Put a payload flit into its channel's buffer; a complete packet leaves it, and its room is owed to the sender (01 R30, R31). A packet
that overruns the buffer, which credits rule out, is dropped (log 49). -/
def State.rxPayload (s : State) (port : BitVec 4) (f : Flit) : State :=
  let l := s.link port
  let c := (flitChan f).toNat
  let part := (if flitSop f then [] else tgetD l.rxPart c []) ++ [f]
  let full : Bool := bufferFlits c < part.length + tgetD l.rxOwed c 0
  let l := { l with rxNext := l.rxNext + 1, rxDiscard := false }
  if full then (s.modLink port (fun _ => { l with rxPart := tdel l.rxPart c })).dropPacket port
  else if flitEop f then
    let s := s.modLink port (fun _ => { l with rxPart := tdel l.rxPart c, rxOwed := tset l.rxOwed c (tgetD l.rxOwed c 0 + part.length) })
    let p := packetOf part port
    if malformed p part.length then s.dropPacket port else s.forward p
  else s.modLink port (fun _ => { l with rxPart := tset l.rxPart c part })

/-- One flit of a codeword that could be corrected, or not; a good payload flit out of sequence is dropped, and no NAK answers it (DESIGN
CHOICE, log 49). -/
def State.rxFlit (s : State) (port : BitVec 4) (lost : Bool) (f : Flit) : State :=
  if lost ∨ ¬ flitGood f then s.modLink port Link.bad
  else
    let s := s.modLink port (fun l => l.ackedBy (flitAck f))
    match flitKind f with
    | 1 => if flitSeq f = (s.link port).rxNext then s.rxPayload port f else s
    | 2 => s.modLink port (fun l => l.addCredits ((flitPayload f).setWidth 112))
    | 3 => s.modLink port (fun l => l.nak (flitAck f))
    | _ => s

/-- A codeword that the code cannot correct: it corrects at most 6 symbols (01 R27). -/
def fecLost : Fec → Bool
  | .ok => false
  | .corrected n => 6 < n
  | .uncorrectable => true

/-- CODEWORD_RECEIVE (01 R28). -/
def execCodewordReceive (port : BitVec 4) (fec : Fec) (f0 f1 f2 f3 : Flit) (s : State) : Out :=
  if (s.link port).state ≠ .active then .next s
  else
    let s := match fec with
      | .corrected _ => if fecLost fec then s else s.modLink port (fun l => { l with fecfix := min (l.fecfix + 1) 0xFFFF })
      | _ => s
    let s := if fecLost fec ∨ ¬ [f0, f1, f2, f3].all flitGood then s.replayBegins port else s
    .next ([f0, f1, f2, f3].foldl (fun s f => s.rxFlit port (fecLost fec) f) s)

/-- Seven numbers of 16 bits in a payload, for channel 0 in the low bits (01 R30). -/
def sizesWord (f : Nat → Nat) : Nat := (List.range 7).foldl (fun v k => v + min (f k) 0xFFFF <<< (16 * k)) 0

/-- The credit flit that returns what is owed (01 R30). -/
def Link.returnCredits (l : Link) : Link :=
  { l with rxOwed := [], owedFor := 0
           out := l.out ++ [mkFlit (BitVec.ofNat 448 (sizesWord (fun k => tgetD l.rxOwed k 0))) (l.txNext - 1) l.lastGood 0 false false 2] }

/-- CREDIT_RETURN (01 R30): room freed in the receive buffers goes back to the sender. -/
def execCreditReturn (port : BitVec 4) (s : State) : Out :=
  let l := s.link port
  if l.state ≠ .active ∨ l.rxOwed.isEmpty then .next s else .next (s.modLink port Link.returnCredits)

/-! ### Sending (01 R29 to R31) -/

/-- A channel can send a flit: of a packet in progress, or of a new one for which it has credits. -/
def Link.ready (l : Link) (c : Nat) : Bool :=
  (tget l.txFlits c).isSome
    || (match l.txq.find? (fun p => p.chan.toNat = c) with
        | some p => packetLen p ≤ tgetD l.credits c 0
        | none => false)

/-- The order of choice: RSP, MGT, INV3, INV2, INV1, INV0, REQ (01 R31). -/
def chanOrder : List Nat := [1, 6, 5, 4, 3, 2, 0]

/-- The channel that sends: the one that has waited longest among those that have waited 9 flit times, so that none waits 16; else the
first ready one in order. -/
def Link.choose (l : Link) : Option Nat :=
  let ready := chanOrder.filter l.ready
  let due := ready.filter (fun c => 9 ≤ tgetD l.idle c 0)
  due.foldl (fun b c => match b with
    | none => some c
    | some d => if tgetD l.idle d 0 < tgetD l.idle c 0 then some c else some d) none |>.or ready.head?

/-- The flits that a channel sends next: those of its packet in progress, or of its next packet, whose credits are deducted at once. -/
def Link.start (l : Link) (c : Nat) : List Flit × Link :=
  match tget l.txFlits c with
  | some fs => (fs, l)
  | none =>
    match l.txq.find? (fun p => p.chan.toNat = c) with
    | none => ([], l)
    | some p => (packetFlits p, { l with txq := l.txq.erase p, credits := tset l.credits c (tgetD l.credits c 0 - packetLen p) })

/-- A flit time of the waiting channels. -/
def Link.waitMore (l : Link) (c : Nat) : Link :=
  { l with idle := (List.range 7).foldl (fun t k =>
      if k = c ∨ ¬ l.ready k then tdel t k else tset t k (tgetD t k 0 + 1)) l.idle }

/-- The flit of one flit time, when no credit flit is due: of a replay, or of the channel that sends. -/
def Link.transmitNext (l : Link) : Link :=
  let idle : Link := { l with out := l.out ++ [mkFlit 0 (l.txNext - 1) l.lastGood 0 false false 0] }
  match l.replay with
  | f :: rest => { l with replay := rest, out := l.out ++ [mkFlit (flitPayload f) (flitSeq f) l.lastGood (flitChan f) (flitSop f) (flitEop f) 1] }
  | [] =>
    if 1024 ≤ l.retry.length then idle
    else
      match l.choose with
      | none => idle
      | some c =>
        match l.start c with
        | ([], _) => idle
        | (f :: rest, k) =>
          let g := mkFlit (flitPayload f) l.txNext l.lastGood (flitChan f) (flitSop f) (flitEop f) 1
          let k := l.waitMore c |>.idle |> fun t => { k with idle := t }
          { k with txFlits := if rest.isEmpty then tdel k.txFlits c else tset k.txFlits c rest, txNext := k.txNext + 1
                   retry := k.retry ++ [(l.txNext, g)], out := k.out ++ [g] }

/-- The flit of one flit time: credits go back within 64 flit times of the freeing of buffer space (01 R30). -/
def Link.transmit (l : Link) : Link :=
  if l.rxOwed.isEmpty then l.transmitNext
  else if 63 ≤ l.owedFor then l.returnCredits
  else { l with owedFor := l.owedFor + 1 }.transmitNext

/-- FLIT_TRANSMIT (01 R31). -/
def execFlitTransmit (port : BitVec 4) (s : State) : Out :=
  let l := s.link port
  if l.state ≠ .active then .next s
  else
    let k := l.transmit
    .next ((s.modLink port (fun _ => k)).uncount 0 9 (if k.txNext = l.txNext then 0 else 1))

/-! ### Link states (01 R37 to R39) -/

/-- A link enters a state. -/
def Link.enter (l : Link) (st : LinkState) (now : Nat) : Link := { l with state := st, since := now }

/-- A packet that waited for a port that goes down: an insertion of the bridge is lost (03 R69). -/
def State.packetFails (s : State) (p : Packet) : State :=
  if p.src = s.fab.devid ∧ p.cls = 2 ∧ p.op = 0 ∧ wbit (p.body.headD 0) 32 then
    { s with pkg := { s.pkg with insLost := if s.pkg.insLost = BitVec.allOnes 32 then s.pkg.insLost else s.pkg.insLost + 1 } }
  else s

/-- A packet asks for an answer. -/
def asksAnswer (p : Packet) : Bool :=
  match p.cls.toNat with
  | 0 => p.op = 0 || p.op = 2
  | 1 => p.op = 0
  | 3 => p.op = 0 || p.op = 2
  | 4 => p.op = 0 || p.op = 2
  | _ => false

/-- Send a packet that was held at its source (01 R35); one whose entry is no longer valid fails at once (R39). -/
def State.sendHeld (s : State) (p : Packet) : State :=
  let mine (r : Request) : Bool := asksAnswer p && r.tag = p.tag && r.dst = p.dst
  match s.sendPacket p with
  | (.at port, s) => { s with fab := { s.fab with reqs := s.fab.reqs.map (fun r => if mine r then { r with port := port } else r) } }
  | (_, s) =>
    match s.fab.reqs.find? mine with
    | some r => s.failReq r false
    | none => s.packetFails p

/-- The packets held for an id whose hold bit is clear go on, in order. -/
def State.flushHeld (s : State) : State :=
  let waits (p : Packet) : Bool := wbit (tgetD s.fab.route p.dst.toNat 0) 7 && wbit (tgetD s.fab.route p.dst.toNat 0) 6
  (s.fab.held.filter (fun p => !waits p)).foldl (fun s p => s.sendHeld p) { s with fab := { s.fab with held := s.fab.held.filter waits } }

/-- A route entry that names a port becomes invalid, with its other fields (01 R39). -/
def routeWithout (t : Table (BitVec 8)) (port : BitVec 4) : Table (BitVec 8) :=
  (t.map (fun e => if e.2.getLsbD 7 ∧ field e.2 0 4 = port then (e.1, e.2 &&& 0x7F#8) else e)).filter (fun e => e.2 ≠ 0)

/-- A link goes DOWN (01 R39). From a state other than ACTIVE and RETRAIN, for which the rule says nothing, what is queued at the port goes
without failing; requests among it end by R40 (DESIGN CHOICE, log 49). -/
def State.linkDown (s : State) (port : BitVec 4) : State :=
  let l := s.link port
  let was := l.state = .active ∨ l.state = .retrain
  let s := s.modLink port (fun l => { Link.reset with fecfix := l.fecfix, naks := l.naks, retrains := l.retrains, peerid := l.peerid, stamped := l.stamped, out := l.out, since := s.pkg.dtime.toNat })
  if ¬ was then s
  else
    let s := { s with fab := { s.fab with route := routeWithout s.fab.route port } }
    let s := l.txq.foldl (fun s p => s.packetFails p) s
    let s := (s.fab.reqs.filter (fun r => r.port = port ∧ r.away s.fab.devid)).foldl (fun s r => s.failReq r true) s
    s.flushHeld.linkEvent 1 port

/-- An enabled link leaves DOWN, and its counters return to 0 (01 R37, R41). -/
def State.linkDetect (s : State) (port : BitVec 4) : State :=
  if (s.link port).state = .down ∧ s.fab.lnken.getLsbD port.toNat ∧ s.pkg.bootState = 4 then
    s.modLink port (fun l => { (l.enter .detect s.pkg.dtime.toNat) with fecfix := 0, naks := 0, retrains := 0 })
  else s

/-- A link moves on from a state. -/
def State.linkMove (s : State) (port : BitVec 4) (a b : LinkState) : State :=
  if (s.link port).state = a then s.modLink port (fun l => l.enter b s.pkg.dtime.toNat) else s

/-- The width that a set of good lanes gives: 8, 4, or none (01 R38). -/
def widthOf (lanes : BitVec 8) : Option (BitVec 8) :=
  if lanes = 0xFF then some 8 else if field lanes 0 4 = 0xF#4 ∨ field lanes 4 4 = 0xF#4 then some 4 else none

/-- LINK_DETECT_COMPLETE (01 R37, R38). -/
def execLinkDetectComplete (port : BitVec 4) (lanes : BitVec 8) (s : State) : Out :=
  let s := s.linkDetect port
  match widthOf lanes with
  | none => .next s
  | some w => .next (if (s.link port).state = .detect then s.modLink port (fun l => { (l.enter .train s.pkg.dtime.toNat) with width := w }) else s)

/-- TRAIN_SUCCESS (01 R37). -/
def execTrainSuccess (port : BitVec 4) (s : State) : Out := .next (s.linkMove port .train .align)

/-- A state has lasted so many ticks, and the link returns to DOWN. -/
def State.linkExpire (s : State) (port : BitVec 4) (st : LinkState) (ticks : Nat) : State :=
  if (s.link port).state = st ∧ (s.link port).since + ticks ≤ s.pkg.dtime.toNat then s.linkDown port else s

/-- TRAIN_TIMEOUT (01 R37): 100 ms. -/
def execTrainTimeout (port : BitVec 4) (s : State) : Out := .next (s.linkExpire port .train 100000000)
/-- The state flit that tells the peer this device's id and buffer sizes (01 R37; its layout DEDUCED, log 49). -/
def paramFlit (id : BitVec 12) : Flit := mkFlit (BitVec.ofNat 448 (sizesWord bufferFlits + id.toNat <<< 112)) 0xFFF 0xFFF 0 false false 4

/-- ALIGN_LOCK (01 R37): in PARAM the device sends its id and its buffer sizes. -/
def execAlignLock (port : BitVec 4) (s : State) : Out :=
  .next (if (s.link port).state = .align then
      s.modLink port (fun l => { (l.enter .param s.pkg.dtime.toNat) with out := l.out ++ [paramFlit s.fab.devid] })
    else s)
/-- ALIGN_TIMEOUT (01 R37): 10 ms. -/
def execAlignTimeout (port : BitVec 4) (s : State) : Out := .next (s.linkExpire port .align 10000000)

/-- PARAM_EXCHANGE (01 R37): the peer's id and buffer sizes arrive. -/
def execParamExchange (port : BitVec 4) (peer : BitVec 12) (sizes : BitVec 112) (s : State) : Out :=
  if (s.link port).state = .param then
    .next (s.modLink port (fun l => { (Link.addCredits { l with credits := [] } sizes) with
      state := .active, since := s.pkg.dtime.toNat, peerid := peer, rxNext := 0, rxDiscard := false, rxPart := [], rxOwed := [], owedFor := 0
      txNext := 0, retry := [], replay := [], txFlits := [], nakRun := 0, idle := [] }))
  else .next s

/-- RETRAIN_ENTRY (01 R37): loss of codeword lock, a lane failure, or eight equal NAKs in a row. -/
def execRetrainEntry (port : BitVec 4) (s : State) : Out :=
  if (s.link port).state = .active then
    .next (s.modLink port (fun l =>
      { (l.enter .retrain s.pkg.dtime.toNat) with retrains := if l.retrains = 0xFF then 0xFF else l.retrains + 1, nakRun := 0 }))
  else .next s

/-- RETRAIN_DONE (01 R37, R38): a usable width was found; everything is kept. -/
def execRetrainDone (port : BitVec 4) (lanes : BitVec 8) (s : State) : Out :=
  match widthOf lanes with
  | none => .next s
  | some w =>
    .next (if (s.link port).state = .retrain then s.modLink port (fun l => { (l.enter .active s.pkg.dtime.toNat) with width := w }) else s)

/-- LINK_RECOVERY_LIMIT_EXPIRY (01 R37). -/
def execLinkRecoveryLimitExpiry (port : BitVec 4) (s : State) : Out := .next (s.linkExpire port .retrain (lrTicks s))

/-! ### Time stamps (01 R36) -/

/-- TIME_STAMP_EXCHANGE (01 R36): a stamp request leaves through an ACTIVE port. -/
def execTimeStampExchange (port : BitVec 4) (s : State) : Out :=
  if (s.link port).state ≠ .active then .next s
  else
    let now := s.pkg.dtime
    let (tag, s) := s.newTag
    let s := s.await { tag := tag, dst := 0xFFF, port := port, since := now.toNat, waiter := .stamp, lease := none }
    .next ((s.modLink port (fun l => { l with stamped := now.toNat })).sendNeighbour port 5 0 tag [now])

/-- A stamp exchange is due on a link: 1 ms after the last one, on the link that leads to the time master (01 R36). -/
def stampDue (s : State) (port : BitVec 4) : Bool :=
  let l := s.link port
  !s.fab.bridge && l.state = .active && (l.peerid = s.fab.master || routePort s s.fab.master = some port)
    && l.stamped + 1000000 ≤ s.pkg.dtime.toNat

/-- How far device time lies from the time master's at most; the bridge is the master from the moment its id is set (01 R36, R42). -/
def State.timeBound (s : State) : Option Nat :=
  if s.fab.bridge then (if s.fab.devid = 0xFFF then none else some 0) else s.fab.skew

/-- TIME_STAMP_REQUEST (01 R36): the answer holds the request's time, this device's, and how far that lies from the master's (log 17). -/
def execTimeStampRequest (p : Packet) (s : State) : Out :=
  let bound : Word := match s.timeBound with
    | some b => BitVec.ofNat 64 b
    | none => BitVec.allOnes 64
  .next (s.answer p 1 [p.body.headD 0, s.pkg.dtime, bound])

/-- TIME_STAMP_RESPONSE (01 R36): every device but the time master takes its neighbour's time, half the round trip later, with an error
that the spec leaves free and that keeps it within 100 ticks of the master's time (log 1, log 19). -/
def execTimeStampResponse (p : Packet) (s : State) : Out :=
  match s.fab.reqs.find? (fun r => r.tag = p.tag ∧ r.waiter = .stamp ∧ r.port = p.port) with
  | none => .next s
  | some r =>
    let s := s.dropReq r
    let bound := (p.body.getD 2 0).toNat
    if s.fab.bridge ∨ 100 < bound then .next s
    else
      let est := (p.body.getD 1 0).toNat + (s.pkg.dtime.toNat - r.since) / 2
      let (d, s) := s.freshImage 32
      let room := 100 - bound
      let k := d % (2 * room + 1)
      .next { s with pkg := { s.pkg with dtime := BitVec.ofNat 64 (est + k - room) }
                     fab := { s.fab with skew := some (bound + (max k room - min k room)) } }

end Sys2Proof.Machine
end

