-- ==== Sys2Proof/Machine/Boot.lean ====
section
/-!
DEFINITION. The service core (01 R19, R21; 02 R43 to R60): resets, boot, the firmware image, maintenance windows, temperature and power,
errors that belong to no access, and attestation.
-/
namespace Sys2Proof.Machine

/-! ### Resets (02 R43) -/

/-- What a package reset keeps of a cluster: its ageing registers, which lie in boot flash (02 Table 2.4). -/
def Cluster.aged (c : Cluster) : Cluster := { Cluster.empty with mwin := c.mwin, guard := c.guard, ageIdx := c.ageIdx }

/-- A package reset, and a power-on reset (02 Table 2.1): fuses and boot flash stay. What lies outside the package stays too: what it gave
the host, whether it bridges, what the host negotiated and rejects, and what the environment does next. -/
def State.packageReset (s : State) : State :=
  let p := s.pkg
  { State.reset with
    pkg := { Pkg.reset with minver := p.minver, fuseRaises := p.fuseRaises, flash := p.flash, tripLog := p.tripLog }
    fab := { Fabric.reset with bridge := s.fab.bridge, rejects := s.fab.rejects }
    clusters := s.clusters.map (fun c => (c.1, c.2.aged))
    hostOut := s.hostOut
    cxlCache := s.cxlCache
    freshCount := s.freshCount
    agenda := s.agenda.filter (fun m => match m with
      | .packet _ => false
      | _ => true) }

/-- POWER_ON_RESET (02 R43, R57): the 54 V input rises; a latched trip is over. -/
def execPowerOnReset (s : State) : Out := .next s.packageReset

/-- POWER_REMOVAL (02 R57): the package stops, and the trip output is released. -/
def execPowerRemoval (s : State) : Out :=
  .next { s with pkg := { s.pkg with powered := false, tripOut := false, stopped := true } }

/-- PERST_ASSERT (02 R43): a package reset of the bridging device, which a thermal trip withstands (R57). -/
def execPerstAssert (s : State) : Out := .next (if s.fab.bridge ∧ ¬ s.pkg.tripOut ∧ s.pkg.powered then s.packageReset else s)

/-- BOOTCTL_PKRST (02 R43). -/
def execBootctlPkrst (s : State) : Out := .next s.packageReset

/-! ### Boot (02 R44 to R49) -/

/-- The boot ends in recovery with a cause. -/
def State.recover (s : State) (code : BitVec 16) : State := { s with pkg := { s.pkg with bootState := 5, failcode := code } }

/-- The image runs: its version, the fused minimum (02 R47), and state 4. -/
def Pkg.ready (p : Pkg) (image : List Byte) (version : BitVec 16) : Pkg :=
  let up : Bool := p.minver.toNat < version.toNat ∧ p.fuseRaises < 63
  { p with secver := version, image := image, minver := if up then version else p.minver
           fuseRaises := if up then p.fuseRaises + 1 else p.fuseRaises, bootState := 4 }

/-- A signature of a kind that an image carries verifies over the SHA-384 digest of its header and body (02 R45). -/
def signatureOk (kind : Nat) (image : List Byte) : Bool :=
  Config.verifies kind (Config.digest (Config.imageBody image)) (Config.imageSignature kind image)

/-- Both signatures verify, over the same digest (02 R45). -/
def imageSigned (image : List Byte) : Bool := signatureOk 0 image && signatureOk 1 image

/-- The alias key pairs of this boot (02 R44, R49): new private keys, which the spec gives no value (log 1). -/
def State.newKeys (s : State) : State :=
  let (rsa, s) := s.freshImage 384
  let (slh, s) := s.freshImage 96
  { s with pkg := { s.pkg with keys := some (rsa, slh) } }

/-- BOOT (02 R44): the five steps. -/
def execBoot (trainOk linksOk : Bool) (s : State) : Out :=
  let image := s.pkg.flash
  let version := Config.imageSecver image
  if s.pkg.bootState ≠ 0 then .next s
  else if ¬ imageSigned image then .next (s.recover 1)
  else if version.toNat < s.pkg.minver.toNat then .next (s.recover 2)
  else if ¬ trainOk then .next (s.recover 3)
  else
    let s := { s with mem := [], poison := [], correctable := [] }
    if ¬ linksOk then .next (s.recover 4)
    else
      let s := State.newKeys { s with pkg := s.pkg.ready image version }
      .next ((List.range 16).foldl (fun s n => s.linkDetect (BitVec.ofNat 4 n)) s)

/-- The staged image: the bytes up to the last one written since power-on or package reset. What becomes of them when a staging has ended
the spec does not say; the model keeps them (DESIGN CHOICE, log 50). -/
def stagedImage (t : Table Byte) : List Byte :=
  (List.range ((t.map (fun p => p.1 + 1)).foldl max 0)).map (fun i => tgetD t i 0)

/-- MAILBOX_WRITE (03 R63, 02 R46). -/
def execMailboxWrite (off : BitVec 16) (half : Half) (data : Word) (s : State) : Out :=
  if off.toNat < 0x1000 ∨ 0x2000 ≤ off.toNat ∨ badAccess off.toNat half then .next s
  else
    let at' := s.pkg.mbxbase.toNat + (off.toNat - 0x1000)
    let bytes := leBytes 8 data.toNat
    let part : Nat × List Byte := match half with
      | .whole => (at', bytes)
      | .low => (at', bytes.take 4)
      | .high => (at' + 4, bytes.take 4)
      | .odd => (at', [])
    .next { s with pkg := { s.pkg with staged := part.2.zipIdx.foldl (fun t b => tset t (part.1 + b.2) b.1) s.pkg.staged } }

/-- BOOTCTL_STAGE (02 R46, R60). -/
def execBootctlStage (s : State) : Out :=
  .next (if s.pkg.maint ∨ s.pkg.stage then s else { s with pkg := { s.pkg with stage := true } })

/-- STAGING_COMPLETE (02 R45, R46): an accepted image is in the boot flash; the code of a rejection is only known to be nonzero (log 1). The
staged bytes stay as they are, so that a shorter image staged next carries the end of this one (DESIGN CHOICE, log 50). -/
def execStagingComplete (s : State) : Out :=
  if ¬ s.pkg.stage then .next s
  else
    let image := stagedImage s.pkg.staged
    let (b, s) := s.freshBool
    let why : BitVec 16 := if ¬ imageSigned image then 1 else if (Config.imageSecver image).toNat < s.pkg.minver.toNat then 2 else 0
    .next { s with pkg := { s.pkg with stage := false, failcode := if why = 0 then 0 else if b then 6 else why
                                       flash := if why = 0 then image else s.pkg.flash } }

/-! ### Maintenance windows (02 R58 to R60) -/

/-- A cluster closes for maintenance: its gangs that their policies let be saved are asked to (02 R58, 05 R134). -/
def State.closeCluster (s : State) (cl : BitVec 5) : State :=
  let s := { s with pkg := { s.pkg with maintCl := some cl } }
  let s := s.modCluster cl (fun c => { c with closed := some s.pkg.dtime.toNat })
  let ask (p : Nat × Gang) : Nat × Gang :=
    if p.2.cluster = cl ∧ ¬ p.2.saved ∧ p.2.frame.isSome ∧ 2 ≤ p.2.policy.toNat then (p.1, { p.2 with preempt := true }) else p
  { s with gangs := s.gangs.map ask }

/-- A cluster reopens, and the next one closes; after the last the window ends. The pre-emption requests of a skipped cluster's gangs stay in
force, which the spec leaves open (DESIGN CHOICE, log 50). -/
def State.reopenCluster (s : State) (cl : BitVec 5) : State :=
  let s := s.modCluster cl (fun c => { c with closed := none })
  if cl = 31 then { s with pkg := { s.pkg with maint := false, maintCl := none } } else s.closeCluster (cl + 1)

/-- BOOTCTL_MAINT (02 R58, R60). -/
def execBootctlMaint (s : State) : Out :=
  .next (if s.pkg.maint ∨ s.pkg.stage then s else { s with pkg := { s.pkg with maint := true } }.closeCluster 0)

/-- A cluster holds gangs. -/
def clusterBusy (s : State) (cl : BitVec 5) : Bool := s.gangs.any (fun p => p.2.cluster = cl && !p.2.saved)

/-- The registers after a measured slowdown of `num / den` percent (02 R59). -/
def Cluster.measured (c : Cluster) (num den : Nat) : Cluster :=
  { c with mwin := c.mwin + 1, guard := BitVec.ofNat 8 (min 255 (20 + cdiv (8 * num) den)), ageIdx := BitVec.ofNat 8 (min 255 (cdiv (51 * num) den)) }

/-- MAINT_CLUSTER_MEASURE (02 R59): at an index of 255 the host hears of it. How the health event of a device that does not bridge reaches the
host the spec does not say; the model gives it to the host at once, without a packet (DESIGN CHOICE, log 50). -/
def execMaintClusterMeasure (cl : BitVec 5) (num den : Nat) (s : State) : Out :=
  if s.pkg.maintCl ≠ some cl ∨ clusterBusy s cl then .next s
  else
    let was := (s.cluster cl).ageIdx
    let s := s.modCluster cl (fun c => c.measured num den)
    let s := if (s.cluster cl).ageIdx = 255 ∧ was ≠ 255 then { s with hostOut := s.hostOut ++ [.health cl] } else s
    .next (s.reopenCluster cl)

/-- MAINT_CLUSTER_TIMEOUT (02 R58): still occupied after 1 s. -/
def execMaintClusterTimeout (cl : BitVec 5) (s : State) : Out :=
  match (s.cluster cl).closed with
  | none => .next s
  | some t =>
    .next (if s.pkg.maintCl = some cl ∧ clusterBusy s cl ∧ t + 1000000000 ≤ s.pkg.dtime.toNat then s.reopenCluster cl else s)

/-! ### Temperature and power (02 R56, R57) -/

/-- `thermctl` (02 Table 2.3). -/
def Pkg.thermctl (p : Pkg) : Word := (0#16 ++ p.tthrot ++ p.ttrip ++ p.pcap ++ p.tjmax ++ p.clkpct : BitVec 64)

/-- THERMCTL_WRITE (02 R57). -/
def execThermctlWrite (half : Half) (data : Word) (s : State) : Out :=
  let v := mergeHalf half s.pkg.thermctl data
  let tthrot := BitVec.ofNat 8 (min (wfield v 40 8) (s.pkg.ttrip.toNat - 5))
  let pcap := BitVec.ofNat 16 (min 2000 (max 600 (wfield v 16 16)))
  .next (if half = .odd then s else { s with pkg := { s.pkg with tthrot := tthrot, pcap := pcap } })

/-- The hottest junction reaches the trip temperature (02 R57): the package stops, with the trip output and a log of the sensor. -/
def State.trip (s : State) (sensor : Nat) (tj : BitVec 8) : State :=
  let p := s.pkg
  { s with pkg := { p with tjmax := tj, stopped := true, tripOut := true, tripLog := p.tripLog ++ [(p.dtime.toNat, sensor)] } }

/-- THROTTLE_STEP (02 R56): one millisecond's temperature and average power. A temperature that has reached the trip point trips (R57); the row
does not say which of the 64 sensors it was (log 1). -/
def execThrottleStep (tj : BitVec 8) (watts : Nat) (s : State) : Out :=
  if s.pkg.ttrip.toNat ≤ tj.toNat then
    let (k, s) := s.freshImage 1
    .next (s.trip (k % 64) tj)
  else
    let p := s.pkg
    let clk := p.clkpct.toNat
    let clk := if p.tthrot.toNat ≤ tj.toNat ∨ p.pcap.toNat < watts then max 50 (clk - 5)
      else if tj.toNat + 3 ≤ p.tthrot.toNat ∧ watts < p.pcap.toNat then min 100 (clk + 5) else clk
    .next { s with pkg := { p with tjmax := tj, clkpct := BitVec.ofNat 8 clk } }

/-- THERMAL_TRIP (02 R57). -/
def execThermalTrip (cl : BitVec 5) (sensor : Bool) (tj : BitVec 8) (s : State) : Out :=
  .next (if tj.toNat < s.pkg.ttrip.toNat then s else s.trip (2 * cl.toNat + sensor.toNat) tj)

/-! ### Errors (01 R19, R21; 02 R53, R54) -/

/-- UNCORRECTABLE_STATE_ERROR (02 R54). -/
def execUncorrectableStateError (s : State) : Out :=
  .next { s.countUe with pkg := { s.countUe.pkg with stopped := true, failcode := 5 } }

/-- PATROL_SCRUB (01 R21): of one location's granule. -/
def execPatrolScrub (pa : Nat) (s : State) : Out :=
  let g := pa / 32
  if g ∈ s.poison then .next { s.countUe with pkg := { s.countUe.pkg with scrubLog := s.pkg.scrubLog ++ [g * 32] } }
  else .next { s.scrubbed (g * 32) 32 with correctable := s.correctable.filter (fun k => k ≠ g) }

/-- DIE_LINK_REPLAY (01 R19): a lane repair changes nothing else. -/
def execDieLinkReplay (_repair : Bool) (s : State) : Out := .next { s with pkg := { s.pkg with dreplay := satUp s.pkg.dreplay } }

/-- DIE_LINK_FAILURE (01 R19). -/
def execDieLinkFailure (s : State) : Out := .next { s with pkg := { s.pkg with stopped := true, failcode := 4 } }

/-! ### Attestation (02 R50 to R52): responses as a code of SPDM 1.3 and its fields (log 20) -/

/-- The service core answers: it bridges, its image runs, and its keys exist (02 R49, R50). -/
def spdmReady (s : State) : Bool := s.fab.bridge && s.pkg.bootState = 4 && s.pkg.keys.isSome

/-- Answer a request, and add it and the answer to the transcript. -/
def State.spdmAnswer (s : State) (req answer : List Nat) : State :=
  if spdmReady s then
    { s with pkg := { s.pkg with spdmLog := s.pkg.spdmLog ++ req ++ answer }, hostOut := s.hostOut ++ [.spdm answer] }
  else s

/-- ERROR with a code. -/
def spdmError (code : Nat) : List Nat := [0x7F, code]

/-- The digest of the running image. -/
def imageDigest (s : State) : Nat := Config.digest s.pkg.image

/-- The alias private key of a kind: 0 RSA, 1 SLH-DSA (02 R49). -/
def aliasKey (s : State) (kind : Nat) : Nat := s.pkg.keys.elim 0 (fun k => if kind = 0 then k.1 else k.2)

/-- The identity private key of a kind (02 R49). -/
def identityKey (kind : Nat) : Nat := Config.unwrap Config.deviceSecret (Config.wrappedKey kind)

/-- The chain of a slot: 0 RSA, 1 SLH-DSA (02 R51). -/
def chainOf (s : State) (slot : Nat) : List Byte := Config.certChain slot (identityKey slot) (aliasKey s slot) (imageDigest s)

/-- Both alias signatures over a transcript's digest: RSA, and SLH-DSA in the opaque data (02 R51). -/
def spdmSign (s : State) (transcript : List Nat) : List Nat :=
  let d := Config.transcriptDigest transcript
  [Config.sign 0 (aliasKey s 0) d, 0x0001, Config.sign 1 (aliasKey s 1) d]

/-- Requests that need the algorithms first. -/
def State.spdmAfter (s : State) (req answer : List Nat) : Out := .next (s.spdmAnswer req (if s.pkg.spdmAlgos then answer else spdmError 4))

/-- GET_VERSION (02 R50): 1.3; it begins a new transcript. -/
def execGetVersion (s : State) : Out :=
  .next (if spdmReady s then State.spdmAnswer { s with pkg := { s.pkg with spdmLog := [], spdmAlgos := false } } [0x84] [0x04, 0x1300] else s)

/-- GET_CAPABILITIES (02 R50): certificates, challenge, signed measurements. -/
def execGetCapabilities (s : State) : Out := .next (s.spdmAnswer [0xE1] [0x61, 0x16])

/-- NEGOTIATE_ALGORITHMS (02 R50): RSAPSS 3072 and SHA 384 only. -/
def execNegotiateAlgorithms (rsa3072 sha384 : Bool) (s : State) : Out :=
  let t := State.spdmAnswer s [0xE3, rsa3072.toNat, sha384.toNat] [0x63, 8 * rsa3072.toNat, 2 * sha384.toNat]
  .next (if spdmReady s then { t with pkg := { t.pkg with spdmAlgos := rsa3072 && sha384 } } else s)

/-- The bytes of a chain as an answer's fields. -/
def byteFields (bs : List Byte) : List Nat := bs.map (fun b => b.toNat)

/-- GET_DIGESTS (02 R50, R51). -/
def execGetDigests (s : State) : Out :=
  s.spdmAfter [0x81] [0x01, 3, Config.digest (chainOf s 0), Config.digest (chainOf s 1)]

/-- GET_CERTIFICATE (02 R51): a part of a slot's chain, and what remains. -/
def execGetCertificate (slot : BitVec 3) (off len : BitVec 16) (s : State) : Out :=
  let rest := (chainOf s slot.toNat).drop off.toNat
  let part := rest.take len.toNat
  s.spdmAfter [0x82, slot.toNat, off.toNat, len.toNat]
    (if slot.toNat ≤ 1 then [0x02, slot.toNat, part.length, rest.length - part.length] ++ byteFields part else spdmError 1)

/-- CHALLENGE (02 R51). -/
def execChallenge (slot : BitVec 3) (nonce : Nat) (s : State) : Out :=
  let req := [0x83, slot.toNat, nonce]
  let body := [0x03, slot.toNat, Config.digest (chainOf s slot.toNat)]
  s.spdmAfter req (if slot.toNat ≤ 1 then body ++ spdmSign s (s.pkg.spdmLog ++ req ++ body) else spdmError 1)

/-- `fabctl` (01 Table 1.8). -/
def Fabric.fabctl (f : Fabric) : Word := (0#20 ++ f.devid ++ f.lrlim ++ f.lnken : BitVec 64)

/-- The value of a measurement index (02 R52). What the fuse configuration holds the spec does not list: the model digests the fused minimum
and the count of its raises (DESIGN CHOICE, log 50). -/
def measurement (s : State) (index : Nat) : List Nat :=
  match index with
  | 1 => [imageDigest s]
  | 2 => [s.pkg.secver.toNat, s.pkg.minver.toNat]
  | 3 => [Config.digest (s.fab.route.flatMap (fun e => leBytes 2 e.1 ++ [e.2]) ++ leBytes 8 s.fab.fabctl.toNat)]
  | 4 => [Config.digest (leBytes 2 s.pkg.minver.toNat ++ leBytes 1 s.pkg.fuseRaises)]
  | _ => []

/-- GET_MEASUREMENTS (02 R52): one index, or all at 0xFF, or their number at 0. -/
def execGetMeasurements (index : BitVec 8) (nonce : Nat) (s : State) : Out :=
  let req := [0xE0, index.toNat, nonce]
  let all := [1, 2, 3, 4].flatMap (fun k => k :: measurement s k)
  let body := if index = 0 then [0x60, 4] else if index = 0xFF then 0x60 :: all else [0x60, index.toNat] ++ measurement s index.toNat
  s.spdmAfter req (if index.toNat ≤ 4 ∨ index = 0xFF then body ++ spdmSign s (s.pkg.spdmLog ++ req ++ body) else spdmError 1)

/-- SPDM_UNSUPPORTED_REQUEST (02 R50): ERROR UnsupportedRequest. -/
def execSpdmUnsupportedRequest (code : BitVec 8) (s : State) : Out := .next (s.spdmAnswer [code.toNat] (spdmError 7))

end Sys2Proof.Machine
end

