-- ==== Sys2Proof/Machine/Graphics.lean ====
section
/-!
DEFINITION. The graphics members of class SFU: VCOVER, VTEX, VRAYBOX and VRAYTRI (16 R441 to R446).
-/
namespace Sys2Proof.Machine

/-- A mask destination in st (16 R441): operand, and its clash with the enabling mask. -/
def gfxMask (b : Body) : Opnd := { mdst 0 with reg := stOf b }
/-- md is msk. -/
def gfxMaskBad (b : Body) : Bool := b.men && b.msk.toNat = stOf b

/-- Groups of FP32 or INT32 from a register up. -/
def groups (b : Body) (r : Reg) (count : Nat) (f : Reg → Nat → Nat → Opnd) : List Opnd :=
  (List.range count).map (fun i => { f r (grpOf b) 32 with reg := r.toNat + i * grpOf b })

/-- An output register lies in an input group (16 R441). -/
def outMeetsIn (ops : List Opnd) : Bool :=
  ops.any (fun o => o.writes && !o.mask && ops.any (fun p => p.reads && !p.mask && o.regs &&& p.regs ≠ 0))

/-- Element e of the i-th group from a register up. -/
def Hart.gget (h : Hart) (b : Body) (r : Reg) (i e : Nat) : Nat := h.vget (r.toNat + i * grpOf b) 32 e

/-- A graphics member over elements. -/
def gfxMember (b : Body) (ty : Nat) (ops : List Opnd) (mods : BitVec 12) (bad : Bool)
    (run : Captured → Nat → Nat → State → MRes) : Member :=
  Member.plain ops (tyOf b ≠ ty || modBad b mods || bad || outMeetsIn ops) 32 (grpOf b) run

/-! ### VCOVER (16 R442) -/

/-- A triangle: vertices, and whether it covers anything; the vertices of a negative one are exchanged, unless culled. -/
def coverSetup (vs : List Int) (cull : Bool) : (Int × Int) × (Int × Int) × (Int × Int) × Bool :=
  let g (i : Nat) : Int := vs.getD i 0
  let a := if vs.any (fun v => v < -(2 ^ 23 : Nat) || (2 ^ 23 : Nat) - 1 < v) then 0
    else (g 2 - g 0) * (g 5 - g 1) - (g 3 - g 1) * (g 4 - g 0)
  if a < 0 && !cull then ((g 0, g 1), (g 4, g 5), (g 2, g 3), true) else ((g 0, g 1), (g 2, g 3), (g 4, g 5), 0 < a)

/-- A centre lies inside an edge from p to q, or on it when it is a top or left edge. -/
def edgeIn (p q : Int × Int) (px py : Int) : Bool :=
  let dx := q.1 - p.1
  let dy := q.2 - p.2
  let e := dx * (py - p.2) - dy * (px - p.1)
  0 < e || (e = 0 && (dy < 0 || (dy = 0 && 0 < dx)))

/-- A pixel centre is covered. -/
def covered (vs : List Int) (cull : Bool) (px py : Int) : Bool :=
  let (p0, p1, p2, live) := coverSetup vs cull
  live && edgeIn p0 p1 px py && edgeIn p1 p2 px py && edgeIn p2 p0 px py

/-- VCOVER (16 R442). -/
def vcoverMember (b : Body) : Member :=
  gfxMember b 24 [{ single b.vs1 false with w := 32 }, dst b.vd (grpOf b) 32, gfxMask b] 0x702 (gfxMaskBad b || b.vs2 ≠ 0)
    (fun c lo hi s =>
      let h := s.hart
      let at' (i : Nat) : Nat := h.vget b.vs1.toNat 32 i
      let vs := (List.range 6).map (fun i => sextN 32 (at' i))
      let o := c.getX b.vs3
      let inside (e : Nat) : Bool :=
        covered vs (wbit b.mod 1) ((sextN 32 (wfield o 0 32) + (e % c.vcols : Nat)) * 256 + 128)
          ((sextN 32 (wfield o 32 32) + (e / c.vcols : Nat)) * 256 + 128)
      let rs := (h.actives b lo hi).map (fun e => (e, inside e))
      let h' := (h.vputs b.vd.toNat 32 ((rs.filter (fun r => r.2)).map (fun r => (r.1, at' 6)))).mputs (stOf b) rs
      .ok { s with hart := h' })
/-- VCOVER (16 R442). -/
def execVcover (b : Body) (s : State) : Out := lone 6 0x0B b (vcoverMember b) s

/-! ### VTEX (16 R443, R444) -/

/-- A texture descriptor (16 Table 16.7). -/
structure Tex where
  base : Nat
  bh : Nat
  bw : Nat
  fmt : Nat
  av : Nat
  au : Nat
  filt : Nat
  lv : Nat
  h : Nat
  w : Nat
  bias : Nat
  deriving DecidableEq, Repr

/-- The ASTC 2D footprints, named by reference in 16 Table 16.7. -/
def astcSizes : List (Nat × Nat) :=
  [(4, 4), (5, 4), (5, 5), (6, 5), (6, 6), (8, 5), (8, 6), (8, 8), (10, 5), (10, 6), (10, 8), (10, 10), (12, 10), (12, 12)]

/-- A finite FP32 encoding. -/
def finite32 (v : Nat) : Bool :=
  match fp32.value v with
  | .num _ _ _ => true
  | _ => false

/-- A descriptor's words, or none where it breaks Table 16.7. -/
def texDecode (w0 w1 w2 w3 : Nat) : Option Tex :=
  let t : Tex := { base := nfield w0 0 48, bh := nfield w1 50 4, bw := nfield w1 46 4, fmt := nfield w1 42 4, av := nfield w1 40 2
                   au := nfield w1 38 2, filt := nfield w1 36 2, lv := nfield w1 32 4, h := nfield w1 16 16, w := nfield w1 0 16
                   bias := nfield w2 0 32 }
  let foot : Bool := if 7 ≤ t.fmt then (t.bw, t.bh) ∈ astcSizes else t.bw = 0 && t.bh = 0
  if nfield w0 48 16 ≠ 0 || t.base % 128 ≠ 0 || nfield w1 54 10 ≠ 0 || 8 < t.fmt || t.av = 3 || t.au = 3 || t.filt = 3 || !foot
    || (max t.w t.h + 1) >>> t.lv = 0 || nfield w2 32 32 ≠ 0 || !finite32 t.bias || w3 ≠ 0 then none
  else some t

/-- Block width, height and bytes (16 Table 16.8). -/
def Tex.block (t : Tex) : Nat × Nat × Nat :=
  match t.fmt with
  | 0 => (1, 1, 4)
  | 1 => (1, 1, 8)
  | 2 => (1, 1, 4)
  | 3 => (4, 4, 8)
  | 4 => (4, 4, 16)
  | 5 => (4, 4, 8)
  | 6 => (4, 4, 16)
  | _ => (t.bw, t.bh, 16)

/-- Width and height of a level (16 R444). -/
def Tex.size (t : Tex) (l : Nat) : Nat × Nat := (max 1 ((t.w + 1) >>> l), max 1 ((t.h + 1) >>> l))

/-- First byte of a level. -/
def Tex.level (t : Tex) (l : Nat) : Nat :=
  let (bw, bh, bytes) := t.block
  (List.range l).foldl (fun a i => a + roundUp (cdiv (t.size i).1 bw * cdiv (t.size i).2 bh * bytes) 128) t.base

/-- An exact channel value: a NaN, an infinity, or a rational with its sign. -/
inductive Chan where
  | nan
  | inf (neg : Bool)
  | rat (neg : Bool) (n d : Nat)
  deriving DecidableEq, Repr

/-- A channel times a weight k / d. -/
def Chan.weigh (c : Chan) (k d : Nat) : Chan :=
  match c with
  | .nan => .nan
  | .inf neg => if k = 0 then .nan else .inf neg
  | .rat neg n e => .rat neg (n * k) (e * d)

/-- The exact sum of two channels. -/
def Chan.add (a b : Chan) : Chan :=
  match a, b with
  | .nan, _ => .nan
  | _, .nan => .nan
  | .inf x, .inf y => if x = y then .inf x else .nan
  | .inf x, _ => .inf x
  | _, .inf y => .inf y
  | .rat x m d, .rat y n e =>
    let v : Int := (if x then -(m * e : Nat) else (m * e : Nat) : Int) + (if y then -(n * d : Nat) else (n * d : Nat) : Int)
    .rat (if v = 0 then x && y else v < 0) v.natAbs (d * e)

/-- A channel of a number. -/
def Chan.ofFv (v : Fv) : Chan :=
  match v with
  | .nan _ => .nan
  | .inf neg => .inf neg
  | .num neg m e => if 0 ≤ e then .rat neg (m <<< e.toNat) 1 else .rat neg m (2 ^ (-e).toNat)

/-- A channel rounded to FP32 (RNE). -/
def Chan.round (c : Chan) : Nat :=
  match c with
  | .nan => fp32.nanBits
  | .inf neg => fp32.signed neg fp32.infBits
  | .rat neg n d =>
    if n = 0 ∨ d = 0 then fp32.signed neg 0
    else
      let (q, e) := divOdd 64 n d 0
      (fp32.roundNum 0 false neg q e).1

/-- The channels of texel (x, y) of a block (16 Table 16.8); formats 3 to 8 decode as a specification named by reference does, so their
channels are free values (log 1). -/
def Tex.decode (t : Tex) (blk : Nat) (x y : Nat) : List Chan :=
  let unit (i : Nat) : Chan := .rat false (nfield blk (8 * i) 8) 255
  let half (i : Nat) : Chan := Chan.ofFv (fp16.value (nfield blk (16 * i) 16))
  let far (i : Nat) : Chan :=
    match Config.freeTexel (t.fmt + 16 * t.bw + 256 * t.bh) blk x y i with
    | none => .nan
    | some (n, d) => .rat (n < 0) n.natAbs (d + 1)
  match t.fmt with
  | 0 => [unit 0, unit 1, unit 2, unit 3]
  | 1 => [half 0, half 1, half 2, half 3]
  | 2 => [Chan.ofFv (fp32.value blk), .rat false 0 1, .rat false 0 1, .rat false 1 1]
  | 3 => [far 0, far 1, far 2, .rat false 1 1]
  | 5 => [far 0, .rat false 0 1, .rat false 0 1, .rat false 1 1]
  | 6 => [far 0, far 1, .rat false 0 1, .rat false 1 1]
  | _ => [far 0, far 1, far 2, far 3]

/-- A coordinate under its addressing (16 R444). -/
def texAddr (mode : Nat) (size : Nat) (i : Int) : Nat :=
  let n : Int := size
  match mode with
  | 0 => (i % n).toNat
  | 1 => (clampI i 0 (n - 1)).toNat
  | _ =>
    let t := i % (2 * n)
    (if t < n then t else 2 * n - 1 - t).toNat

/-- One texel: an access of its block (16 R444). -/
def Tex.texel (t : Tex) (l : Nat) (i j : Int) (s : State) : Res (List Chan) :=
  let (bw, bh, bytes) := t.block
  let (w, h) := t.size l
  let x := texAddr t.au w i
  let y := texAddr t.av h j
  let a := t.level l + (y / bh * cdiv w bw + x / bw) * bytes
  (hartLoad s (BitVec.ofNat 64 a) bytes).bind fun bs s => .ok (t.decode (leNat bs) (x % bw) (y % bh)) s

/-- FP32 arithmetic under RNE, on values. -/
def r32 (v : Fv) : Fv := fp32.value (fp32.result 0 v).1

/-- floor of a number. -/
def floorFv (v : Fv) : Int :=
  match v with
  | .num neg m e => (roundInt 2 neg m e).1
  | _ => 0

/-- 256 times the distance of a number above an integer, rounded to nearest even (16 R444). -/
def weightOf (v : Fv) (i : Int) : Nat :=
  match (v.add 0 (ofInt (-i))).1 with
  | .num neg m e => (roundInt 0 neg m (e + 8)).1.toNat
  | _ => 0

/-- A number that is neither a NaN nor infinite. -/
def Fv.isNum (v : Fv) : Bool :=
  match v with
  | .num _ _ _ => true
  | _ => false

/-- Weighted sum of channel lists. -/
def mixChans (ws : List (Nat × List Chan)) (d : Nat) : List Chan :=
  (List.range 4).map (fun c =>
    let ts := ws.map (fun p => (p.2.getD c .nan).weigh p.1 d)
    match ts with
    | [] => .nan
    | t :: ts => ts.foldl Chan.add t)

/-- One level's colour (16 R444); none where a scaled coordinate is infinite, for which the spec gives no texel (log 14). -/
def Tex.sample (t : Tex) (l : Nat) (u v : Fv) (s : State) : Res (Option (List Chan)) :=
  let (w, h) := t.size l
  let su := r32 (u.mul (ofInt w)).1
  let sv := r32 (v.mul (ofInt h)).1
  if !su.isNum || !sv.isNum then .ok none s
  else if t.filt = 0 then (t.texel l (floorFv su) (floorFv sv) s).bind fun c s => .ok (some c) s
  else
    let half : Fv := .num true 1 (-1)
    let x := r32 (su.add 0 half).1
    let y := r32 (sv.add 0 half).1
    let i := floorFv x
    let j := floorFv y
    let ku := weightOf x i
    let kv := weightOf y j
    (t.texel l i j s).bind fun c00 s => (t.texel l (i + 1) j s).bind fun c10 s =>
      (t.texel l i (j + 1) s).bind fun c01 s => (t.texel l (i + 1) (j + 1) s).bind fun c11 s =>
        .ok (some (mixChans [((256 - ku) * (256 - kv), c00), (ku * (256 - kv), c10), ((256 - ku) * kv, c01), (ku * kv, c11)] 65536)) s

/-- The colour of an element (16 R444). -/
def Tex.colour (t : Tex) (u v lam : Fv) (s : State) : Res (Option (List Chan)) :=
  let lv : Int := t.lv
  if t.filt = 2 then
    let lc : Fv := if lam.cmp (ofInt 0) < 0 then ofInt 0 else if 0 < lam.cmp (ofInt lv) then ofInt lv else lam
    let l0 := floorFv lc
    let l1 := min (l0 + 1) lv
    let kl := weightOf lc l0
    (t.sample l0.toNat u v s).bind fun a s => (t.sample l1.toNat u v s).bind fun b s =>
      match a, b with
      | some a, some b => .ok (some (mixChans [(256 - kl, a), (kl, b)] 256)) s
      | _, _ => .ok none s
  else
    let l0 := clampI (floorFv (lam.add 0 (.num false 1 (-1))).1) 0 lv
    t.sample l0.toNat u v s

/-- Write the four channels of an element. -/
def State.texPut (s : State) (b : Body) (e : Nat) (cs : List Nat) : State :=
  (List.range 4).foldl (fun s i => s.vput (b.vd.toNat + i * grpOf b) 32 e (cs.getD i 0)) s

/-- One element of VTEX. -/
def texElem (t : Tex) (b : Body) (e : Nat) (s : State) : Res Unit :=
  let h := s.hart
  let u := fp32.value (h.gget b b.vs1 0 e)
  let v := fp32.value (h.gget b b.vs1 1 e)
  let lam := r32 ((fp32.value (h.vget b.vs2.toNat 32 e)).add 0 (fp32.value t.bias)).1
  if !u.isNum || !v.isNum || !lam.isNum then .ok () (s.texPut b e [0, 0, 0, 0])
  else
    (t.colour u v lam s).bind fun c s =>
      match c with
      | some c => .ok () (s.texPut b e (c.map Chan.round))
      | none =>
        let (r0, s) := s.freshImage 32
        let (r1, s) := s.freshImage 32
        let (r2, s) := s.freshImage 32
        let (r3, s) := s.freshImage 32
        .ok () (s.texPut b e [r0, r1, r2, r3])

/-- VTEX (16 R443, R444). -/
def vtexMember (b : Body) : Member :=
  gfxMember b 20 (groups b b.vs1 2 src ++ groups b b.vs2 1 src ++ groups b b.vd 4 dst) 0 false
    (fun c lo hi s =>
      match s.hart.actives b lo hi with
      | [] => .ok s
      | e :: es =>
        let a := c.getX b.vs3
        if a.toNat % 32 ≠ 0 then .fault e 0x0A a
        else
          match hartLoad s a 32 with
          | .trap cause t => .fault e cause t
          | .need n => .need n
          | .ok bs s =>
            let w (i : Nat) : Nat := leNat ((bs.drop (8 * i)).take 8)
            match texDecode (w 0) (w 1) (w 2) (w 3) with
            | none => .fault e 0x0F a
            | some t => overElems (texElem t b) (e :: es) s)
/-- VTEX (16 R443, R444). -/
def execVtex (b : Body) (s : State) : Out := lone 6 0x08 b (vtexMember b) s

/-! ### VRAYBOX (16 R445) -/

/-- The interval of a ray through one axis of a child box. -/
def boxAxis (p o inv : Fv) (ex qlo qhi : Nat) (t : Nat × Nat) : Nat × Nat :=
  let step (q : Nat) : Fv := (ofInt q).scale ((ex : Int) - 127)
  let lo := fp32.value (fp32.result 2 (p.add 2 (step qlo)).1).1
  let hi := fp32.value (fp32.result 3 (p.add 3 (step qhi)).1).1
  let t1 := (fp32.result 0 ((r32 (lo.add 0 o.neg).1).mul inv).1).1
  let t2 := (fp32.result 0 ((r32 (hi.add 0 o.neg).1).mul inv).1).1
  ((fp32.minmax true t.1 (fp32.minmax false t1 t2).1).1, (fp32.minmax false t.2 (fp32.minmax true t1 t2).1).1)

/-- Child i of a node: the entry distance when the ray hits it. -/
def boxChild (node : List Byte) (o inv : List Nat) (tmax : Nat) (i : Nat) : Option Nat :=
  let byte (k : Nat) : Nat := (node.getD k 0).toNat
  let p (a : Nat) : Fv := fp32.value (leNat ((node.drop (4 * a)).take 4))
  let q (hi a : Nat) : Nat := byte (16 + 6 * i + 3 * hi + a)
  let nan := (o ++ inv ++ [tmax]).any (fun v => (fp32.value v).isNan)
  if nan || !nbit (byte 15) i || (List.range 3).any (fun a => byte (12 + a) = 255 || q 1 a < q 0 a) then none
  else
    let t := (List.range 3).foldl (fun t a =>
      boxAxis (p a) (fp32.value (o.getD a 0)) (fp32.value (inv.getD a 0)) (byte (12 + a)) (q 0 a) (q 1 a) t) (0, tmax)
    let n := fp32.value t.1
    let f := fp32.value t.2
    if !n.isNan && !f.isNan && n.cmp f ≤ 0 then some t.1 else none

/-- Insert a hit child among hit children ordered by distance, then index (children come in ascending order). -/
def insertHit (x : Nat × Nat) : List (Nat × Nat) → List (Nat × Nat)
  | [] => [x]
  | y :: ys => if (fp32.value x.2).cmp (fp32.value y.2) < 0 then x :: y :: ys else y :: insertHit x ys

/-- The result of an element: hit mask and order of children. -/
def boxResult (hits : List (Option Nat)) : Nat :=
  let hs := hits.zipIdx
  let hit := hs.foldl (fun a x => match x.1 with
    | some t => insertHit (x.2, t) a
    | none => a) []
  let missed := (hs.filter (fun x => x.1.isNone)).map (fun x => x.2)
  let order := hit.map Prod.fst ++ missed
  let mask := hs.foldl (fun a x => if x.1.isSome then a + 2 ^ x.2 else a) 0
  mask + (order.zipIdx.foldl (fun a x => a + x.1 <<< (8 + 3 * x.2)) 0)

/-- One element of VRAYBOX. -/
def boxElem (b : Body) (c : Captured) (e : Nat) (s : State) : Res Unit :=
  let h := s.hart
  let base := c.getX b.vs3
  if base.toNat % 128 ≠ 0 then .trap 0x0A base
  else
    (hartLoad s (base + BitVec.ofNat 64 (128 * h.vget b.vs2.toNat 32 e)) 128).bind fun node s =>
      let g (i : Nat) : Nat := h.gget b b.vs1 i e
      let hits := (List.range 8).map (boxChild node [g 0, g 1, g 2] [g 3, g 4, g 5] (g 6))
      .ok () ((s.vput b.vd.toNat 32 e (boxResult hits)).withHart (fun h => h.mset (stOf b) e (hits.any Option.isSome)))

/-- VRAYBOX (16 R445). -/
def vrayboxMember (b : Body) : Member :=
  gfxMember b 20 (groups b b.vs1 7 src ++ groups b b.vs2 1 src ++ groups b b.vd 1 dst ++ [gfxMask b]) 0x700 (gfxMaskBad b)
    (fun c lo hi s => overElems (boxElem b c) (s.hart.actives b lo hi) s)
/-- VRAYBOX (16 R445). -/
def execVraybox (b : Body) (s : State) : Out := lone 6 0x09 b (vrayboxMember b) s

/-! ### VRAYTRI (16 R446) -/

/-- fma rounded to FP32 under RNE. -/
def fma32 (a b c : Fv) : Fv := r32 (Fv.fma 0 a b c).1

/-- The answer of a leaf: t, u and v, if the ray hits. -/
def triHit (m : Nat → Nat → Fv) (o d : Nat → Fv) (tmax : Fv) (edge : Bool) : Option (Fv × Fv × Fv) :=
  let o' (i : Nat) : Fv := fma32 (m i 0) (o 0) (fma32 (m i 1) (o 1) (fma32 (m i 2) (o 2) (m i 3)))
  let d' (i : Nat) : Fv := fma32 (m i 0) (d 0) (fma32 (m i 1) (d 1) (r32 ((m i 2).mul (d 2)).1))
  let t := r32 ((o' 2).neg.div (d' 2)).1
  let u := fma32 t (d' 0) (o' 0)
  let v := fma32 t (d' 1) (o' 1)
  let w := r32 (u.add 0 v).1
  let one := ofInt 1
  let none' := ofInt 0
  if t.isNum && !u.isNan && !v.isNan && !w.isNan && !tmax.isNan && 0 < t.cmp none' && t.cmp tmax < 0 && 0 ≤ u.cmp none'
    && 0 ≤ v.cmp none' && (w.cmp one < 0 || (w.cmp one = 0 && edge)) then some (t, u, v) else none

/-- One element of VRAYTRI. -/
def triElem (b : Body) (c : Captured) (e : Nat) (s : State) : Res Unit :=
  let h := s.hart
  let base := c.getX b.vs3
  if base.toNat % 64 ≠ 0 then .trap 0x0A base
  else
    (hartLoad s (base + BitVec.ofNat 64 (64 * h.vget b.vs2.toNat 32 e)) 64).bind fun leaf s =>
      let word (k : Nat) : Nat := leNat ((leaf.drop k).take 4)
      let g (i : Nat) : Fv := fp32.value (h.gget b b.vs1 i e)
      match triHit (fun i j => fp32.value (word (4 * (4 * i + j)))) g (fun i => g (3 + i)) (g 6) (nbit (word 52) 0) with
      | none => .ok () (s.withHart (fun h => h.mset (stOf b) e false))
      | some (t, u, v) =>
        let enc (x : Fv) : Nat := (fp32.result 0 x).1
        .ok () ((s.texPut b e [enc t, enc u, enc v, word 48]).withHart (fun h => h.mset (stOf b) e true))

/-- VRAYTRI (16 R446). -/
def vraytriMember (b : Body) : Member :=
  gfxMember b 20 (groups b b.vs1 7 src ++ groups b b.vs2 1 src ++ groups b b.vd 4 dst ++ [gfxMask b]) 0x700 (gfxMaskBad b)
    (fun c lo hi s => overElems (triElem b c) (s.hart.actives b lo hi) s)
/-- VRAYTRI (16 R446). -/
def execVraytri (b : Body) (s : State) : Out := lone 6 0x0A b (vraytriMember b) s

end Sys2Proof.Machine
end

