-- ==== Sys2Proof/Machine/VPerm.lean ====
section
/-!
DEFINITION. Class VXP: permutations, reductions and mask instructions (14 R386 to R396).
-/
namespace Sys2Proof.Machine

/-- A whole member that writes elements: for each chosen destination element its value, from the state before it (06 R163). -/
def wholeMember (ops : List Opnd) (bad : Bool) (w n : Nat) (run : Captured → State → MRes) : Member :=
  { Member.plain ops bad w n (fun c _ _ s => run c s) with whole := true, starts := false }

/-- A slide (14 R386): the amount from x[xs] or from off; `f` answers the element's new value, or none to leave it. -/
def slideMember (b : Body) (f : Nat → Nat → Nat → (Nat → Nat) → Option Nat) : Member :=
  let w := wOf b
  let n := grpOf b
  let sx := sxOf b
  wholeMember [dst b.vd n w, src b.vs1 n w]
    (!inA (tyOf b) || modBad b (if sx then 1 else 0x7FE) || b.vs2 ≠ 0 || (!sx && b.vs3 ≠ 0)) w n
    (fun c s =>
      let k := if sx then wfield (c.getX b.vs3) 0 w else wfield b.mod 1 10
      let get (e : Nat) : Nat := s.hart.vget b.vs1.toNat w e
      let items := (s.hart.actives b 0 c.vl).filterMap (fun e => (f c.vl k e get).map (fun v => (e, v)))
      .ok { s with hart := s.hart.vputs b.vd.toNat w items })

/-- The ranges of a reduction (14 R390): destination element, first source element, length. -/
def ranges (b : Body) (c : Captured) : List (Nat × Nat × Nat) :=
  if wbit b.mod 1 then (List.range c.vrows).map (fun r => (r, r * c.vcols, c.vcols)) else [(0, 0, c.vl)]

/-- A reduction: legality of its type, whether it rounds under `vfrm`, and its answer from the captured state, the initial value and the
elements of the range, each with whether it is active. -/
def redMember (b : Body) (legal frm : Bool) (f : Captured → Nat → List (Nat × Bool) → Nat × BitVec 5) : Member :=
  let w := wOf b
  let n := grpOf b
  { wholeMember [dst b.vd n w, src b.vs1 n w, src b.vs2 n w] false w n
      (fun c s =>
        let h := s.hart
        let rs := (ranges b c).map (fun r =>
          (r.1, f c (h.vget b.vs2.toNat w r.1) ((List.range' r.2.1 r.2.2).map (fun e => (h.vget b.vs1.toNat w e, h.active b e)))))
        let h := h.vputs b.vd.toNat w (rs.map (fun r => (r.1, r.2.1)))
        .ok { s with hart := h.raise (rs.foldl (fun a r => a ||| r.2.2) 0) false }) with
    bad := fun c _ => !legal || modBad b 2 || b.vs3 ≠ 0 || (frm && frmBad c) }

/-- A reduction by a combination of two values that does not depend on order (14 R390). -/
def foldMember (b : Body) (f : Nat → Nat → Nat → Nat) : Member :=
  redMember b (inI (tyOf b)) false (fun _ init es =>
    (es.foldl (fun a e => if e.2 then narrow (wOf b) (f (wOf b) a e.1) else a) init, 0))

/-- A value as a result: a NaN is canonical (11 R284). -/
def Fmt.canon (f : Fmt) (v : Nat) : Nat :=
  match f.value v with
  | .nan _ => f.nanBits
  | _ => v

/-- vfredmin and vfredmax (14 R390); the initial value is among the inputs they read. -/
def ffoldMember (b : Body) (isMax : Bool) : Member :=
  redMember b (inF (tyOf b)) false (fun _ init es =>
    es.foldl (fun a e =>
      if e.2 then
        let (v, fl) := (fOf b).minmax isMax a.1 e.1
        (v, a.2 ||| fl)
      else a) ((fOf b).canon init, ((fOf b).value init).sig))

/-- Sum neighbours, each sum rounded (14 R391). -/
def addPairs (f : Fmt) (mode : Nat) : List (Nat × BitVec 5) → List (Nat × BitVec 5)
  | x :: y :: t =>
    let r := f.arith mode ((f.value x.1).add mode (f.value y.1))
    (r.val, x.2 ||| y.2 ||| r.fl) :: addPairs f mode t
  | t => t

/-- The tree sum of 32 elements: the five levels of 14 R391. -/
def treeSum (f : Fmt) (mode : Nat) (xs : List Nat) : Nat × BitVec 5 :=
  let p := addPairs f mode
  (p (p (p (p (p (xs.map (fun x => (x, 0)))))))).headD (f.signed true 0, 0)

/-- vfredsum over a range, 32 elements at a time; `n` counts the remaining groups (14 R391). -/
def fredSum (f : Fmt) (mode : Nat) : Nat → List (Nat × Bool) → Nat × BitVec 5 → Nat × BitVec 5
  | 0, _, a => a
  | n + 1, es, a =>
    let mz := f.signed true 0
    let xs := (List.range 32).map (fun i => match es[i]? with
      | some e => if e.2 then e.1 else mz
      | none => mz)
    let (t, fl) := treeSum f mode xs
    let r := f.arith mode ((f.value a.1).add mode (f.value t))
    fredSum f mode n (es.drop 32) (r.val, a.2 ||| fl ||| r.fl)

/-- The exact sum of values with the special cases of 11 R305, and NV for infinities of both signs or a signalling NaN. -/
def exactSum (vs : List Fv) : Fv × BitVec 5 :=
  let fl := vs.foldl (fun a v => a ||| v.sig) 0
  if vs.any Fv.isNan then (.nan false, fl)
  else
    let pos := vs.any (fun v => match v with
      | .inf false => true
      | _ => false)
    let neg := vs.any (fun v => match v with
      | .inf true => true
      | _ => false)
    if pos && neg then (.nan false, fl ||| fNV)
    else if pos then (.inf false, fl)
    else if neg then (.inf true, fl)
    else
      let q := vs.foldl (fun q v => match v with
        | .num _ _ e => min q e
        | _ => q) 0
      let t := vs.foldl (fun t v => match v with
        | .num g m e => t + unitsOf g m e q
        | _ => t) 0
      (ofUnits t q (vs.all (fun v => match v with
        | .num true 0 _ => true
        | _ => false)), fl)

/-- vfsum.bs over the blocks from j on (11 R307); `n` counts them. -/
def bsSum (b : Body) (mode : Nat) (h : Hart) (vl : Nat) : Nat → Nat → Nat × BitVec 5 → Nat × BitVec 5
  | 0, _, a => a
  | n + 1, j, a =>
    let xs := (List.range' (32 * j) 32).map (fun e =>
      if e < vl && h.active b e then elemValue (tyOf b) (h.vget b.vs1.toNat (wOf b) e) else .num true 0 0)
    let r1 := fp32.arith mode (exactSum xs)
    let r2 := fp32.arith mode ((fp32.value r1.val).mul (elemValue 28 (h.scale b.vs3 j)))
    let r3 := fp32.arith mode ((fp32.value a.1).add mode (fp32.value r2.val))
    bsSum b mode h vl n (j + 1) (r3.val, a.2 ||| r1.fl ||| r2.fl ||| r3.fl)

/-- The fixed type and group of the mask instructions (14 R393). -/
def maskBody (b : Body) : Bool := b.ty = 0 && b.grp = 3

/-- A mask logic operation (14 R393). -/
def logicMember (b : Body) (two : Bool) (f : Bool → Bool → Bool) : Member :=
  Member.plain ([mdst b.vd, msrc b.vs1] ++ if two then [msrc b.vs2] else [])
    (!maskBody b || modBad b 0 || b.vs3 ≠ 0 || (!two && b.vs2 ≠ 0)) 8 8
    (fun _ lo hi => writeBits b b.vd.toNat lo hi (fun h e => (f (h.mget b.vs1.toNat e) (h.mget b.vs2.toNat e), 0)))

/-- A member that writes x[vd] from the active elements (14 R394). -/
def countMember (b : Body) (f : List Nat → Word) : Member :=
  { wholeMember [] (!maskBody b || modBad b 0 || b.vs1 ≠ 0 || b.vs2 ≠ 0 || b.vs3 ≠ 0) 8 8
      (fun c s => .ok (s.setX b.vd (f (s.hart.actives b 0 c.vl)))) with scalar := true }

/-! ### The members -/

/-- vslideup (14 R386). -/
def vslideupMember (b : Body) : Member := slideMember b (fun _ k e get => if k ≤ e then some (get (e - k)) else none)
/-- vslideup (14 R386). -/
def execVslideup (b : Body) (s : State) : Out := lone 4 0x00 b (vslideupMember b) s
/-- vslidedown (14 R386). -/
def vslidedownMember (b : Body) : Member := slideMember b (fun vl k e get => some (if e + k < vl then get (e + k) else 0))
/-- vslidedown (14 R386). -/
def execVslidedown (b : Body) (s : State) : Out := lone 4 0x01 b (vslidedownMember b) s
/-- vrgather (14 R387). -/
def vrgatherMember (b : Body) : Member :=
  let w := wOf b
  let n := grpOf b
  wholeMember ([dst b.vd n w, src b.vs1 n w] ++ src2Op b n w) (!inA (tyOf b) || modBad b 1 || src2Bad b) w n
    (fun c s => writeElems b b.vd.toNat w 0 c.vl (fun h e =>
      let j := src2 b c h w e
      bits (if j < c.vl then h.vget b.vs1.toNat w j else 0)) s)
/-- vrgather (14 R387). -/
def execVrgather (b : Body) (s : State) : Out := lone 4 0x02 b (vrgatherMember b) s
/-- vpswap (14 R388): pairs as units when `vcols` is even, whole when it is odd. -/
def vpswapMember (b : Body) (odd : Bool) : Member :=
  let w := wOf b
  let n := grpOf b
  let vd := dst b.vd n w
  let vs := src b.vs1 n w
  let bad := !inA (tyOf b) || modBad b 0 || b.vs2 ≠ 0 || b.vs3 ≠ 0 || vd.regs &&& vs.regs ≠ 0
  let el (c : Captured) (h : Hart) (e : Nat) : Elem := bits (h.vget b.vs1.toNat w (if e ^^^ 1 < c.vl then e ^^^ 1 else e))
  if odd then wholeMember [vd, vs] bad w n (fun c s => writeElems b b.vd.toNat w 0 c.vl (el c) s)
  else { Member.plain [vd, vs] bad w n (fun c lo hi => writeElems b b.vd.toNat w lo (hi / 2 * 2) (el c)) with unit := fun _ => 2 }
/-- vpswap (14 R388). -/
def execVpswap (b : Body) (s : State) : Out := lone 4 0x03 b (vpswapMember b (wbit s.hart.vcols 0)) s
/-- vtrans (14 R389). -/
def vtransMember (b : Body) : Member :=
  let w := wOf b
  let n := grpOf b
  wholeMember [dst b.vd n w, src b.vs1 n w] (!inA (tyOf b) || modBad b 0 || b.vs2 ≠ 0 || b.vs3 ≠ 0) w n
    (fun c s => writeElems b b.vd.toNat w 0 c.vl (fun h e =>
      bits (h.vget b.vs1.toNat w (e % c.vrows * c.vcols + e / c.vrows))) s)
/-- vtrans (14 R389). -/
def execVtrans (b : Body) (s : State) : Out := lone 4 0x04 b (vtransMember b) s
/-- vredsum (14 R390). -/
def vredsumMember (b : Body) : Member := foldMember b (fun _ x y => x + y)
/-- vredsum (14 R390). -/
def execVredsum (b : Body) (s : State) : Out := lone 4 0x05 b (vredsumMember b) s
/-- vfredsum (14 R391). -/
def vfredsumMember (b : Body) : Member :=
  redMember b (inF (tyOf b)) true (fun c init es => fredSum (fOf b) c.vfrm.toNat (cdiv es.length 32) es (init, 0))
/-- vfredsum (14 R391). -/
def execVfredsum (b : Body) (s : State) : Out := lone 4 0x06 b (vfredsumMember b) s
/-- vfsum.bs (14 R392, 11 R307). -/
def vfsumBsMember (b : Body) : Member :=
  let w := wOf b
  let n := grpOf b
  let t := tyOf b
  let vs1 := src b.vs1 n w
  let vd := { single b.vd true with w := 32 }
  let vs2 := { single b.vs2 false with w := 32 }
  let vs3 := single b.vs3 false
  { wholeMember [vd, vs1, vs2, vs3] false w n
      (fun c s =>
        let h := s.hart
        let (v, fl) := bsSum b c.vfrm.toNat h c.vl (cdiv c.vl 32) 0 (h.vget b.vs2.toNat 32 0, 0)
        .ok { s with hart := (h.vset b.vd.toNat 32 0 v).raise fl false }) with
    bad := fun c _ => !((10 ≤ t && t ≤ 15) || t = 17 || t = 23) || modBad b 0 || frmBad c
      || (vd.regs ||| vs2.regs ||| vs3.regs) &&& vs1.regs ≠ 0 || b.vs3 = b.vd || b.vs3 = b.vs2 }
/-- vfsum.bs (14 R392). -/
def execVfsumBs (b : Body) (s : State) : Out := lone 4 0x07 b (vfsumBsMember b) s
/-- vredmin (14 R390). -/
def vredminMember (b : Body) : Member := foldMember b (fun w x y => if sextN w y < sextN w x then y else x)
/-- vredmin (14 R390). -/
def execVredmin (b : Body) (s : State) : Out := lone 4 0x08 b (vredminMember b) s
/-- vredmax (14 R390). -/
def vredmaxMember (b : Body) : Member := foldMember b (fun w x y => if sextN w x < sextN w y then y else x)
/-- vredmax (14 R390). -/
def execVredmax (b : Body) (s : State) : Out := lone 4 0x09 b (vredmaxMember b) s
/-- vredminu (14 R390). -/
def vredminuMember (b : Body) : Member := foldMember b (fun _ x y => min x y)
/-- vredminu (14 R390). -/
def execVredminu (b : Body) (s : State) : Out := lone 4 0x0a b (vredminuMember b) s
/-- vredmaxu (14 R390). -/
def vredmaxuMember (b : Body) : Member := foldMember b (fun _ x y => max x y)
/-- vredmaxu (14 R390). -/
def execVredmaxu (b : Body) (s : State) : Out := lone 4 0x0b b (vredmaxuMember b) s
/-- vfredmin (14 R390). -/
def vfredminMember (b : Body) : Member := ffoldMember b false
/-- vfredmin (14 R390). -/
def execVfredmin (b : Body) (s : State) : Out := lone 4 0x0c b (vfredminMember b) s
/-- vfredmax (14 R390). -/
def vfredmaxMember (b : Body) : Member := ffoldMember b true
/-- vfredmax (14 R390). -/
def execVfredmax (b : Body) (s : State) : Out := lone 4 0x0d b (vfredmaxMember b) s
/-- vmand (14 R393). -/
def vmandMember (b : Body) : Member := logicMember b true (fun x y => x && y)
/-- vmand (14 R393). -/
def execVmand (b : Body) (s : State) : Out := lone 4 0x0e b (vmandMember b) s
/-- vmor (14 R393). -/
def vmorMember (b : Body) : Member := logicMember b true (fun x y => x || y)
/-- vmor (14 R393). -/
def execVmor (b : Body) (s : State) : Out := lone 4 0x0f b (vmorMember b) s
/-- vmxor (14 R393). -/
def vmxorMember (b : Body) : Member := logicMember b true (fun x y => x != y)
/-- vmxor (14 R393). -/
def execVmxor (b : Body) (s : State) : Out := lone 4 0x10 b (vmxorMember b) s
/-- vmnot (14 R393). -/
def vmnotMember (b : Body) : Member := logicMember b false (fun x _ => !x)
/-- vmnot (14 R393). -/
def execVmnot (b : Body) (s : State) : Out := lone 4 0x11 b (vmnotMember b) s
/-- vpopc (14 R394). -/
def vpopcMember (b : Body) : Member := countMember b (fun es => BitVec.ofNat 64 es.length)
/-- vpopc (14 R394). -/
def execVpopc (b : Body) (s : State) : Out := lone 4 0x12 b (vpopcMember b) s
/-- vfirst (14 R394). -/
def vfirstMember (b : Body) : Member := countMember b (fun es => match es with | [] => -1 | e :: _ => BitVec.ofNat 64 e)
/-- vfirst (14 R394). -/
def execVfirst (b : Body) (s : State) : Out := lone 4 0x13 b (vfirstMember b) s
/-- viota (14 R395). -/
def viotaMember (b : Body) : Member :=
  let w := wOf b
  let n := grpOf b
  wholeMember [dst b.vd n w] (!inI (tyOf b) || modBad b 0 || b.vs1 ≠ 0 || b.vs2 ≠ 0 || b.vs3 ≠ 0) w n
    (fun c s =>
      .ok { s with hart := s.hart.vputs b.vd.toNat w ((s.hart.actives b 0 c.vl).zipIdx.map (fun p => (p.1, p.2))) })
/-- viota (14 R395). -/
def execViota (b : Body) (s : State) : Out := lone 4 0x14 b (viotaMember b) s
/-- vcompress (14 R395). -/
def vcompressMember (b : Body) : Member :=
  let w := wOf b
  let n := grpOf b
  wholeMember [dst b.vd n w, src b.vs1 n w] (!inA (tyOf b) || modBad b 0 || b.vs2 ≠ 0 || b.vs3 ≠ 0) w n
    (fun c s =>
      let items := (s.hart.actives b 0 c.vl).zipIdx.map (fun p => (p.2, s.hart.vget b.vs1.toNat w p.1))
      .ok { s with hart := s.hart.vputs b.vd.toNat w items })
/-- vcompress (14 R395). -/
def execVcompress (b : Body) (s : State) : Out := lone 4 0x15 b (vcompressMember b) s
/-- vmv.x.s (14 R396). -/
def vmvXSMember (b : Body) : Member :=
  let w := wOf b
  let n := grpOf b
  { wholeMember [src b.vs1 n w] (!inA (tyOf b) || modBad b 0 || b.vs2 ≠ 0 || b.vs3 ≠ 0 || b.men) w n
      (fun _ s => .ok (s.setX b.vd (BitVec.ofInt 64 (sextN w (s.hart.vget b.vs1.toNat w 0))))) with scalar := true }
/-- vmv.x.s (14 R396). -/
def execVmvXS (b : Body) (s : State) : Out := lone 4 0x16 b (vmvXSMember b) s
/-- vmv.s.x (14 R396). -/
def vmvSXMember (b : Body) : Member :=
  let w := wOf b
  let n := grpOf b
  Member.plain [dst b.vd n w] (!inA (tyOf b) || modBad b 1 || !sxOf b || b.vs1 ≠ 0 || b.vs2 ≠ 0 || b.men) w n
    (fun c lo hi => writeOver (if lo = 0 && 0 < hi then [0] else []) b.vd.toNat w (fun _ _ => bits (wfield (c.getX b.vs3) 0 w)))
/-- vmv.s.x (14 R396). -/
def execVmvSX (b : Body) (s : State) : Out := lone 4 0x17 b (vmvSXMember b) s

end Sys2Proof.Machine
end

