-- ==== Sys2Proof/Machine/Matrix.lean ====
section
/-!
DEFINITION. The matrix shape (16 R424 to R426), accumulator tiles (R427), and class MXU (R428 to R437).
-/
namespace Sys2Proof.Machine

/-! ### Shape -/

/-- TSHAPE's grant (16 R425): the shape CSRs m, n, k and the accumulator kind, or none for cause 0x0E. -/
def shapeGrant (vlb tiles : Nat) (r1 r2 : Word) : Option (Nat × Nat × Nat × BitVec 2) :=
  let rm := wfield r1 0 16
  let rn := wfield r1 16 16
  let rk := wfield r1 32 16
  let fa := wfield r2 0 5
  let fb := wfield r2 5 5
  if 23 < fa || 23 < fb || !legalPair fa fb || tiles ≤ wfield r2 10 2 || rm = 0 || rn = 0 || rk < 32 then none
  else
    let kind : BitVec 2 := if inQ fa && inQ fb then 2 else if fa = 21 && fb = 21 then 3 else 1
    let m := min rm (if kind = 3 then 64 else 128)
    let n := min rn 128
    let k := min rk (min (vlb * 8 / eewOf fa) (64 * vlb / (n * eewOf fb)))
    let k := k - k % 32
    if k < 32 then none else some (m, n, k, kind)

/-- TSHAPE (16 R424, R425): waits until the hart's convoys have drained. -/
def execTshape (rd rs1 rs2 : Reg) (s : State) : Out :=
  let r2 := s.getX rs2
  (if ¬ s.hart.disp.isEmpty then .need (.wait .drain)
   else
    match shapeGrant s.hart.vlb.toNat s.hart.tiles.toNat (s.getX rs1) r2 with
    | none => .trap 0x0E 0
    | some (m, n, k, kind) =>
      let s := s.withHart (fun h => { h with tsm := BitVec.ofNat 8 m, tsn := BitVec.ofNat 8 n, tsk := BitVec.ofNat 16 k, tfKind := kind
                                             tfSat := wbit r2 12, tfTile := field r2 10 2, tfB := field r2 5 5, tfA := field r2 0 5 })
      .ok () (s.setX rd (BitVec.ofNat 64 (m + n <<< 16 + k <<< 32))).retire : Res Unit).finish s

/-- `adirty` bits of the tiles a hart holds that a mask names, cleared (16 R426). -/
def Hart.clearDirty (h : Hart) (mask : Word) : Hart :=
  { h with vdirty := (List.range h.tiles.toNat).foldl (fun d i => if wbit mask i then bset d (40 + i) false else d) h.vdirty }

/-- TFREE (16 R424, R426). -/
def execTfree (rs1 : Reg) (s : State) : Out :=
  (if ¬ s.hart.disp.isEmpty then .need (.wait .drain)
   else
    .ok () (s.withHart (fun h => { h.clearDirty (s.getX rs1) with tsm := 0, tsn := 0, tsk := 0, tfKind := 0, tfSat := false
                                                                  tfTile := 0, tfB := 0, tfA := 0 })).retire : Res Unit).finish s

/-! ### Tiles -/

/-- First bit and width of a tile element (16 R427). -/
def tileBits (kind : BitVec 2) (r c : Nat) : Nat × Nat :=
  if kind = 3 then (8 * (1024 * r + 8 * c), 64) else (8 * (512 * r + 4 * c), 32)

/-- A tile's contents. -/
def Hart.tile (h : Hart) (t : Nat) : Nat := h.acc.toList.getD t 0

/-- Element (r, c) of a tile, under the kind in `tfmt`. -/
def Hart.tget (h : Hart) (t r c : Nat) : Nat :=
  let (lo, w) := tileBits h.tfKind r c
  nfield (h.tile t) lo w

/-- A tile with its contents replaced, and its `adirty` bit set. -/
def Hart.setTile (h : Hart) (t v : Nat) : Hart :=
  if ht : t < 4 then { h with acc := h.acc.set t v, vdirty := bset h.vdirty (40 + t) true } else h

/-- A tile with elements (row, column, value) written. -/
def Hart.tputs (h : Hart) (t : Nat) (items : List (Nat × Nat × Nat)) : Hart :=
  if items.isEmpty then h else h.setTile t (items.foldl (fun v i =>
    let (lo, w) := tileBits h.tfKind i.1 i.2.1
    nsetField v lo w i.2.2) (h.tile t))

/-! ### Member fields (16 R428) -/

/-- The tile. -/
def mTile (b : Body) : Nat := wfield b.mod 0 2
/-- rep -/
def mRep (b : Body) : Nat := wfield b.mod 2 3 + 1
/-- row0 -/
def mRow (b : Body) : Nat := wfield b.mod 5 7

/-- A tile that the hart does not hold, or no shape (16 R429). -/
def tileBad (b : Body) (h : Hart) (shaped : Bool) : Bool := h.tiles.toNat ≤ mTile b || (shaped && h.tsm = 0)

/-- A member that takes its lengths from the shape (16 R429): men = 0, type and group 0. -/
def mxuMember (ops : List Opnd) (b : Body) (bad : Bool) (shape : Hart → Bool) (coins : Hart → Nat) (run : State → State) : Member :=
  { ops := ops, bad := fun _ _ => bad || b.men || b.ty ≠ 0 || b.grp ≠ 0 || b.vd ≠ 0
    shape := fun _ h _ => if shape h then some 0x0E else none, w := 0, n := 1, whole := false, mxu := some coins, starts := false
    unit := fun _ => 1, scalar := false, run := fun _ _ _ s => .ok (run s) }

/-- A block format among a matrix member's operands (16 R431). -/
def Hart.blocky (h : Hart) : Bool := inB h.tfA.toNat || inB h.tfB.toNat

/-- Rows of A in one register (16 R431). -/
def Hart.rowsPerReg (h : Hart) : Nat := if h.tsk = 0 then 0 else h.vlb.toNat * 8 / (h.tsk.toNat * eewOf h.tfA.toNat)

/-- Rows a TMAC performs (16 R432). -/
def tmacRows (b : Body) (h : Hart) : Nat := min (mRep b * h.rowsPerReg) (h.tsm.toNat - mRow b)

/-- Scale bytes for A and B that a TMAC reads, and the operand blocks of a row of A. -/
def tmacScales (b : Body) (h : Hart) : Nat × Nat :=
  let fa := h.tfA.toNat
  let fb := h.tfB.toNat
  let k := h.tsk.toNat
  (if inB fa then tmacRows b h * (k / blockLen fa) else 0, if inB fb then k / blockLen fb * h.tsn.toNat else 0)

/-- The 0x0E checks of a TMAC (16 R429, R432). -/
def tmacShape (b : Body) (h : Hart) : Bool :=
  tileBad b h true || h.rowsPerReg = 0 || h.tsm.toNat ≤ mRow b || 64 * h.vlb.toNat < h.tsk.toNat * h.tsn.toNat * eewOf h.tfB.toNat
    || h.vlb.toNat < (tmacScales b h).1 || h.vlb.toNat < (tmacScales b h).2

/-- A matrix operand's exact value: a block element under its scale, or the element. -/
def mxValue (t v scale : Nat) : Fv := if inB t then blockValue t v scale else elemValue t v

/-- A(i, kk) of a TMAC: encoding and scale. -/
def Hart.mxA (h : Hart) (b : Body) (i kk : Nat) : Nat × Nat :=
  let t := h.tfA.toNat
  let k := h.tsk.toNat
  let q := h.rowsPerReg
  (h.vget (b.vs1.toNat + i / q) (eewOf t) (i % q * k + kk),
   if inB t then nfield (h.vreg b.vs3.toNat) (8 * (i * (k / blockLen t) + kk / blockLen t)) 8 else 0)

/-- B(kk, j) of a TMAC: encoding and scale. -/
def Hart.mxB (h : Hart) (b : Body) (kk j : Nat) : Nat × Nat :=
  let t := h.tfB.toNat
  let n := h.tsn.toNat
  (h.vget b.vs2.toNat (eewOf t) (kk * n + j),
   if inB t then nfield (h.vreg (b.vs3.toNat + 1)) (8 * (kk / blockLen t * n + j)) 8 else 0)

/-- An integer matrix operand (16 R432). -/
def mxInt (t v : Nat) : Int := if tySigned t then sextN (eewOf t) v else ((v % 2 ^ eewOf t : Nat) : Int)

/-- The integer step (11 R306): the accumulator after a sum, and whether it clamped. -/
def intStep (sat : Bool) (acc : Nat) (sum : Int) : Nat × Bool :=
  let v := sextN 32 acc + sum
  if sat then ((satInt 32 true v).val, (satInt 32 true v).sat) else (narrow 32 v, false)

/-- The floating step (11 R305): one rounding of the accumulator and the exact products. -/
def floatStep (f : Fmt) (acc : Nat) (ps : List Fv) : Nat := (f.result 0 (exactSum (ps ++ [f.value acc])).1).1

/-- The format of a kind's floating accumulator. -/
def kindFmt (kind : BitVec 2) : Fmt := if kind = 3 then fp64 else fp32

/-- A tile element after the groups of 32 products from g on; `n` counts them. -/
def tmacElem (h : Hart) (a b : Nat → Nat × Nat) : Nat → Nat → Nat × Bool → Nat × Bool
  | 0, _, x => x
  | n + 1, g, (acc, clamped) =>
    let ks := List.range' g 32
    let x : Nat × Bool :=
      if h.tfKind = 2 then
        let (v, c) := intStep h.tfSat acc ((ks.map (fun k => mxInt h.tfA.toNat (a k).1 * mxInt h.tfB.toNat (b k).1)).sum)
        (v, clamped || c)
      else
        (floatStep (kindFmt h.tfKind) acc (ks.map (fun k =>
          ((mxValue h.tfA.toNat (a k).1 (a k).2).mul (mxValue h.tfB.toNat (b k).1 (b k).2)).1)), clamped)
    tmacElem h a b n (g + 32) x

/-- An operand value as an FP64 encoding, which holds it exactly. -/
def asF64 (v : Fv) : Nat := (fp64.result 0 v).1

/-- Rows `lo` to `hi - 1` of a TMAC's effect (16 R432). -/
def Hart.tmacPart (h : Hart) (b : Body) (lo hi : Nat) : Hart :=
  let t := mTile b
  let k := h.tsk.toNat
  let cells := (List.range' lo (hi - lo)).flatMap (fun i => (List.range h.tsn.toNat).map (fun j => (i, j)))
  let rs := cells.map (fun c => tmacElem h (fun x => h.mxA b c.1 x) (fun x => h.mxB b x c.2) (k / 32) 0 (h.tget t (mRow b + c.1) c.2, false))
  let items := (cells.zip rs).map (fun x => (mRow b + x.1.1, x.1.2, x.2.1))
  (h.tputs t items).raise 0 (rs.any Prod.snd)

/-- TMAC's effect (16 R432), from the repeat steps on that `steprep` has completed (10 R272), and its audit (R437). -/
def tmacRun (b : Body) (s : State) : State :=
  let h := s.hart
  let t := mTile b
  let m := tmacRows b h
  let n := h.tsn.toNat
  let k := h.tsk.toNat
  let cells := (List.range m).flatMap (fun i => (List.range n).map (fun j => (i, j)))
  let orig := match h.rep with
    | some r => h.setTile t r.orig
    | none => h
  let s := { s with hart := { h.tmacPart b (min m ((h.rep.elim 0 (fun r => r.steps)) * h.rowsPerReg)) m with rep := none } }
  let fa := h.tfA.toNat
  let fb := h.tfB.toNat
  let sc := tmacScales b h
  s.auditRetire
    { size := m * k * eewOf fa / 8 + k * n * eewOf fb / 8 + sc.1 + sc.2 + 8 * m * n, m := m, n := n, k := k
      a := (List.range m).flatMap (fun i => (List.range k).map (fun x => asF64 (mxValue fa (h.mxA b i x).1 (h.mxA b i x).2)))
      b := (List.range k).flatMap (fun x => (List.range n).map (fun j => asF64 (mxValue fb (h.mxB b x j).1 (h.mxB b x j).2)))
      before := cells.map (fun c => orig.tget t (mRow b + c.1) c.2), after := cells.map (fun c => s.hart.tget t (mRow b + c.1) c.2) }

/-- Coins of a TMAC (16 R429). -/
def tmacCoins (b : Body) (h : Hart) : Nat := cdiv (tmacRows b h * h.tsn.toNat) 2

/-- The registers of A of a TMAC, one by one. -/
def tmacA (b : Body) : List Opnd := (List.range (mRep b)).map (fun i => { single b.vs1 false with reg := b.vs1.toNat + i })

/-- TZERO (16 R430). -/
def tzeroMember (b : Body) : Member :=
  mxuMember [] b (modBad b 3 || b.vs1 ≠ 0 || b.vs2 ≠ 0 || b.vs3 ≠ 0) (fun h => tileBad b h false) (fun _ => 64)
    (fun s => s.withHart (fun h => { h.setTile (mTile b) 0 with abad := bset h.abad (mTile b) false, asoft := bset h.asoft (mTile b) false }))
/-- TZERO (16 R430). -/
def execTzero (b : Body) (s : State) : Out := lone 5 0x00 b (tzeroMember b) s

/-- TMAC (16 R431, R432); `blocky` says that a format in `tfmt` is a block type, so that vs3 names the scales. -/
def tmacMember (b : Body) (blocky : Bool) : Member :=
  let sc := if blocky then [single b.vs3 false, { single b.vs3 false with reg := b.vs3.toNat + 1 }] else []
  { mxuMember (tmacA b ++ [{ src b.vs2 8 8 with aux := true }] ++ sc) b (if blocky then wbit b.vs3 0 else b.vs3 ≠ 0)
      (tmacShape b) (tmacCoins b) (tmacRun b) with tiles := BitVec.twoPow 4 (mTile b) }
/-- TMAC (16 R431, R432). -/
def execTmac (b : Body) (s : State) : Out := lone 5 0x01 b (tmacMember b s.hart.blocky) s

/-- TOPA's effect (16 R433), and its audit (R437). -/
def topaRun (b : Body) (s : State) : State :=
  let h := s.hart
  let t := mTile b
  let m := h.tsm.toNat
  let n := h.tsn.toNat
  let fa := h.tfA.toNat
  let fb := h.tfB.toNat
  let x (i : Nat) : Nat := h.vget b.vs1.toNat (eewOf fa) i
  let y (j : Nat) : Nat := h.vget b.vs2.toNat (eewOf fb) j
  let cells : List (Nat × Nat) := (List.range m).flatMap (fun i => (List.range n).map (fun j => (i, j)))
  let rs : List (Nat × Bool) := cells.map (fun c =>
    let acc := h.tget t c.1 c.2
    if h.tfKind = 2 then intStep h.tfSat acc (mxInt fa (x c.1) * mxInt fb (y c.2))
    else (floatStep (kindFmt h.tfKind) acc [((elemValue fa (x c.1)).mul (elemValue fb (y c.2))).1], false))
  let s := { s with hart := (h.tputs t ((cells.zip rs).map (fun (z : (Nat × Nat) × (Nat × Bool)) => (z.1.1, z.1.2, z.2.1)))).raise 0 (rs.any Prod.snd) }
  s.auditRetire
    { size := m * eewOf fa / 8 + n * eewOf fb / 8 + 8 * m * n, m := m, n := n, k := 1
      a := (List.range m).map (fun i => asF64 (elemValue fa (x i))), b := (List.range n).map (fun j => asF64 (elemValue fb (y j)))
      before := cells.map (fun (c : Nat × Nat) => h.tget t c.1 c.2), after := rs.map Prod.fst }

/-- TOPA (16 R433). -/
def topaMember (b : Body) : Member :=
  { mxuMember [single b.vs1 false, single b.vs2 false] b (modBad b 3 || b.vs3 ≠ 0)
      (fun h => tileBad b h true || h.blocky || 8 * h.vlb.toNat < h.tsm.toNat * eewOf h.tfA.toNat
        || 8 * h.vlb.toNat < h.tsn.toNat * eewOf h.tfB.toNat)
      (fun h => cdiv (h.tsm.toNat * h.tsn.toNat) 2) (topaRun b) with tiles := BitVec.twoPow 4 (mTile b) }
/-- TOPA (16 R433). -/
def execTopa (b : Body) (s : State) : Out := lone 5 0x02 b (topaMember b) s

/-- The types of TREAD and TWRITE. -/
def inTile (t : Nat) : Bool := t ∈ [20, 21, 24, 25, 26, 27]

/-- Rows that `vl` elements run past the shape (16 R435, R436). -/
def rowsBad (b : Body) (c : Captured) (h : Hart) : Bool := h.tsm.toNat < mRow b + cdiv c.vl h.tsn.toNat

/-- The 0x0E checks of TREAD and TWRITE (16 R435). -/
def tileShape (b : Body) (c : Captured) (h : Hart) : Option (BitVec 8) :=
  if tileBad b h true || wOf b ≠ (if h.tfKind = 3 then 64 else 32) || rowsBad b c h then some 0x0E else none

/-- TREAD (16 R435). -/
def treadMember (b : Body) : Member :=
  let w := wOf b
  { Member.plain [dst b.vd (grpOf b) w] (!inTile (tyOf b) || modBad b 0xFE3 || b.vs1 ≠ 0 || b.vs2 ≠ 0 || b.vs3 ≠ 0) w (grpOf b)
      (fun _ lo hi => writeElems b b.vd.toNat w lo hi (fun h e =>
        bits (h.tget (mTile b) (mRow b + e / h.tsn.toNat) (e % h.tsn.toNat)))) with
    tiles := BitVec.twoPow 4 (mTile b), shape := fun c h _ => tileShape b c h }
/-- TREAD (16 R435). -/
def execTread (b : Body) (s : State) : Out := lone 5 0x03 b (treadMember b) s

/-- TWRITE (16 R435). -/
def twriteMember (b : Body) : Member :=
  let w := wOf b
  { Member.plain [src b.vs1 (grpOf b) w] (!inTile (tyOf b) || modBad b 0xFE3 || b.vd ≠ 0 || b.vs2 ≠ 0 || b.vs3 ≠ 0) w (grpOf b)
      (fun _ lo hi s =>
        let h := s.hart
        let n := h.tsn.toNat
        .ok { s with hart := h.tputs (mTile b) ((h.actives b lo hi).map (fun e => (mRow b + e / n, e % n, h.vget b.vs1.toNat w e))) }) with
    shape := fun c h _ => tileShape b c h }
/-- TWRITE (16 R435). -/
def execTwrite (b : Body) (s : State) : Out := lone 5 0x04 b (twriteMember b) s

/-- One element of TDRAIN (16 R436). -/
def drainElem (b : Body) (c : Captured) (h : Hart) (e : Nat) : Elem :=
  let n := h.tsn.toNat
  let i := e / n
  let j := e % n
  let w := h.vget b.vs3.toNat 64 j
  let t := sextN 32 (h.tget (mTile b) (mRow b + i) j) + sextN 32 (h.vget b.vs1.toNat 32 i) + sextN 32 (h.vget b.vs2.toNat 32 j)
  let y := fxShift c.vxrm (t * sextN 32 (nfield w 0 32)) (nfield w 32 6)
  satInt 8 (tySigned (tyOf b)) (y + sextN 16 (nfield w 48 16))

/-- TDRAIN (16 R436). -/
def tdrainMember (b : Body) : Member :=
  let vd := dst b.vd (grpOf b) 8
  let cs := [single b.vs1 false, single b.vs2 false, single b.vs3 false]
  { Member.plain (vd :: cs) (1 < tyOf b || modBad b 0xFE3 || cs.any (fun o => o.regs &&& vd.regs ≠ 0)) 8 (grpOf b)
      (fun c lo hi => writeElems b b.vd.toNat 8 lo hi (drainElem b c)) with
    tiles := BitVec.twoPow 4 (mTile b)
    shape := fun c h _ =>
      if tileBad b h true || h.tfKind ≠ 2 || rowsBad b c h || h.vlb.toNat < 8 * h.tsn.toNat || h.vlb.toNat < 4 * cdiv c.vl h.tsn.toNat
      then some 0x0E else none }
/-- TDRAIN (16 R436). -/
def execTdrain (b : Body) (s : State) : Out := lone 5 0x05 b (tdrainMember b) s

end Sys2Proof.Machine
end

