-- ==== Sys2Proof/Machine/Sfu.lean ====
section
/-!
DEFINITION. Class SFU: the special functions (16 R438, R439). Each result is the exact mathematical value rounded once: an interval
around it is computed in fixed point, with more and more bits until both its ends round alike.
-/
namespace Sys2Proof.Machine

/-! ### Fixed point -/

/-- The rest of the series of atan(1/k) or atanh(1/k): term `t` for the odd divisor `d`, at the sign `neg`. -/
def atanTail (k2 : Nat) (alternate : Bool) : Nat → Nat → Nat → Bool → Int → Int
  | 0, _, _, _, a => a
  | n + 1, t, d, neg, a =>
    if t = 0 then a else atanTail k2 alternate n (t / k2) (d + 2) (alternate && !neg) (if neg then a - (t / d : Nat) else a + (t / d : Nat))

/-- atan(1/k) x 2^p. -/
def atanInv (k p : Nat) : Int := atanTail (k * k) true p (2 ^ p / k) 1 false 0

/-- pi / 2 x 2^p. -/
def halfPi (p : Nat) : Int := (8 * atanInv 5 (p + 32) - 2 * atanInv 239 (p + 32)) >>> 32

/-- ln 2 x 2^p. -/
def ln2 (p : Nat) : Int := (2 * atanTail 9 false (p + 32) (2 ^ (p + 32) / 3) 1 false 0) >>> 32

/-- e^y x 2^p for y in units of 2^-p: terms from `t` on with the next divisor `i`. -/
def expTail (p y : Nat) : Nat → Nat → Nat → Nat → Nat
  | 0, _, _, a => a
  | n + 1, t, i, a => if t = 0 then a else expTail p y n ((t * y) >>> p / i) (i + 1) (a + t)

/-- The rest of the series of sine or cosine for y^2 in units of 2^-p: term `t`, next divisors i and i + 1. -/
def trigTail (p y2 : Nat) : Nat → Nat → Nat → Bool → Int → Int
  | 0, _, _, _, a => a
  | n + 1, t, i, neg, a =>
    if t = 0 then a
    else trigTail p y2 n ((t * y2) >>> p / (i * (i + 1))) (i + 2) (!neg) (if neg then a - (t : Int) else a + (t : Int))

/-- sin y x 2^p, for y >= 0 in units of 2^-p. -/
def sinFix (p y : Nat) : Int := trigTail p ((y * y) >>> p) p y 2 false 0
/-- cos y x 2^p. -/
def cosFix (p y : Nat) : Int := trigTail p ((y * y) >>> p) p (2 ^ p) 1 false 0

/-- The rest of the series of atanh z for z^2 in units of 2^-p. -/
def atanhTail (p z2 : Nat) : Nat → Nat → Nat → Nat → Nat
  | 0, _, _, a => a
  | n + 1, t, d, a => if t = 0 then a else atanhTail p z2 n ((t * z2) >>> p) (d + 2) (a + t / d)

/-! ### Rounding an approximation -/

/-- A value within 2^24 units of v x 2^-p, rounded if both ends of that interval round alike (RNE). -/
def zivRound (f : Fmt) (v p : Int) : Option (Nat × BitVec 5) :=
  let a := v.natAbs
  if a ≤ 2 ^ 25 then none
  else
    let neg : Bool := v < 0
    let lo := f.roundNum 0 false neg (2 * (a - 2 ^ 24) + 1) (-p - 1)
    let hi := f.roundNum 0 false neg (2 * (a + 2 ^ 24) - 1) (-p - 1)
    if lo = hi then some lo else none

/-- The first precision, doubling, at which an approximation rounds. -/
def ziv (f : Fmt) (approx : Nat → Int × Int) : Nat → Nat → Nat × BitVec 5
  | 0, _ => (f.nanBits, fNV)
  | n + 1, p =>
    match zivRound f (approx p).1 (approx p).2 with
    | some r => r
    | none => ziv f approx n (2 * p)

/-- Sine (`quarter` 0) or cosine (1) of a number in units of 2^-p, and p. -/
def trigApprox (quarter : Int) (neg : Bool) (m : Nat) (e : Int) (p0 : Nat) : Int × Int :=
  let top := (Nat.log2 m : Int) + e
  let p := p0 + 3 * (-top).toNat
  let pp := p + top.toNat + 64
  let x : Int := (m <<< (e + pp).toNat : Nat)
  let hp := halfPi pp
  let q := (2 * x + hp) / (2 * hp)
  let r := (x - q * hp) >>> (pp - p)
  let s := if r < 0 then -sinFix p r.natAbs else sinFix p r.natAbs
  let c := cosFix p r.natAbs
  let v := match ((q + quarter) % 4).toNat with
    | 0 => s
    | 1 => c
    | 2 => -s
    | _ => -c
  (if neg && quarter = 0 then -v else v, p)

/-- 2^a of a number that is no integer. -/
def exp2Approx (neg : Bool) (m : Nat) (e : Int) (p0 : Nat) : Int × Int :=
  let p := p0 + (-((Nat.log2 m : Int) + e)).toNat
  let x : Int := (m <<< (e + p).toNat : Nat)
  let x := if neg then -x else x
  let n := x >>> p
  let y := ((x - n * (2 ^ p : Nat)) * ln2 p) >>> p
  ((expTail p y.toNat p (2 ^ p) 1 0 : Nat), (p : Int) - n)

/-- log2 of a number that is no power of two. -/
def log2Approx (m : Nat) (e : Int) (p : Nat) : Int × Int :=
  let l := Nat.log2 m
  let z := ((m - 2 ^ l) <<< p) / (m + 2 ^ l)
  let ln := 2 * atanhTail p ((z * z) >>> p) p z 1 0
  (((l : Int) + e) * (2 ^ p : Nat) + ((ln <<< p : Nat) : Int) / ln2 p, p)

/-- Whether m x 2^e is an integer, and which. -/
def asInteger (neg : Bool) (m : Nat) (e : Int) : Option Int :=
  let v : Option Nat := if 0 ≤ e then some (m <<< e.toNat) else if m % 2 ^ (-e).toNat = 0 then some (m >>> (-e).toNat) else none
  v.map (fun n => if neg then -(n : Int) else n)

/-! ### The functions (16 Tables 16.4, 16.5): encoding and flags -/

/-- A NaN result. -/
def sfuNan (f : Fmt) (fl : BitVec 5) : Nat × BitVec 5 := (f.nanBits, fl)

/-- sin and cos. -/
def sfuTrig (f : Fmt) (quarter : Int) (x : Fv) : Nat × BitVec 5 :=
  match x with
  | .nan _ => sfuNan f x.sig
  | .inf _ => sfuNan f fNV
  | .num neg m e =>
    if m = 0 then (if quarter = 0 then (f.signed neg 0, 0) else f.roundNum 0 false false 1 0)
    else ziv f (trigApprox quarter neg m e) 8 320

/-- 2^a. -/
def sfuExp2 (f : Fmt) (x : Fv) : Nat × BitVec 5 :=
  match x with
  | .nan _ => sfuNan f x.sig
  | .inf neg => if neg then (0, 0) else (f.infBits, 0)
  | .num neg m e =>
    if m = 0 then f.roundNum 0 false false 1 0
    else
      match asInteger neg m e with
      | some n => f.roundNum 0 false false 1 (clampI n (-8192) 8192)
      | none => if 13 ≤ (Nat.log2 m : Int) + e then f.roundNum 0 false false 3 (if neg then -8192 else 8192)
        else ziv f (exp2Approx neg m e) 8 320

/-- log2 a. -/
def sfuLog2 (f : Fmt) (x : Fv) : Nat × BitVec 5 :=
  match x with
  | .nan _ => sfuNan f x.sig
  | .inf neg => if neg then sfuNan f fNV else (f.infBits, 0)
  | .num neg m e =>
    if m = 0 then (f.signed true f.infBits, fDZ)
    else if neg then sfuNan f fNV
    else if m = 2 ^ Nat.log2 m then
      let k := (Nat.log2 m : Int) + e
      f.roundNum 0 false (k < 0) k.natAbs 0
    else ziv f (log2Approx m e) 8 320

/-- 1 / a. -/
def sfuRcp (f : Fmt) (x : Fv) : Nat × BitVec 5 :=
  let r := f.arith 0 ((Fv.num false 1 0).div x)
  (r.val, r.fl)

/-- 1 / the square root of a. -/
def sfuRsqrt (f : Fmt) (x : Fv) : Nat × BitVec 5 :=
  match x with
  | .nan _ => sfuNan f x.sig
  | .inf neg => if neg then sfuNan f fNV else (0, 0)
  | .num neg m e =>
    if m = 0 then (f.signed neg f.infBits, fDZ)
    else if neg then sfuNan f fNV
    else
      let (m, e) := if e % 2 = 0 then (m, e) else (2 * m, e - 1)
      let k := 64 + Nat.log2 m
      let r := isqrt (2 ^ (2 * k) / m)
      f.roundNum 0 false false (2 * r + (if r * r * m = 2 ^ (2 * k) then 0 else 1)) (-(k : Int) - e / 2 - 1)

/-! ### The members -/

/-- A function of one source under RNE, or under `vfrm` when `frm` (16 R438). -/
def sfuMember (b : Body) (frm : Bool) (f : Fmt → Nat → Nat → Nat × BitVec 5) : Member :=
  let w := wOf b
  let n := grpOf b
  { Member.plain [dst b.vd n w, src b.vs1 n w] false w n
      (fun c lo hi => writeElems b b.vd.toNat w lo hi (fun h e => felem (f (fOf b) c.vfrm.toNat (h.vget b.vs1.toNat w e)))) with
    bad := fun c _ => !inF (tyOf b) || modBad b 0 || b.vs2 ≠ 0 || b.vs3 ≠ 0 || (frm && frmBad c) }

/-- vsin (16 R438, R439). -/
def vsinMember (b : Body) : Member := sfuMember b false (fun f _ v => sfuTrig f 0 (f.value v))
/-- vsin (16 R438, R439). -/
def execVsin (b : Body) (s : State) : Out := lone 6 0x00 b (vsinMember b) s
/-- vcos (16 R438, R439). -/
def vcosMember (b : Body) : Member := sfuMember b false (fun f _ v => sfuTrig f 1 (f.value v))
/-- vcos (16 R438, R439). -/
def execVcos (b : Body) (s : State) : Out := lone 6 0x01 b (vcosMember b) s
/-- vexp2 (16 R438, R439). -/
def vexp2Member (b : Body) : Member := sfuMember b false (fun f _ v => sfuExp2 f (f.value v))
/-- vexp2 (16 R438, R439). -/
def execVexp2 (b : Body) (s : State) : Out := lone 6 0x02 b (vexp2Member b) s
/-- vlog2 (16 R438, R439). -/
def vlog2Member (b : Body) : Member := sfuMember b false (fun f _ v => sfuLog2 f (f.value v))
/-- vlog2 (16 R438, R439). -/
def execVlog2 (b : Body) (s : State) : Out := lone 6 0x03 b (vlog2Member b) s
/-- vrcp (16 R438, R439). -/
def vrcpMember (b : Body) : Member := sfuMember b false (fun f _ v => sfuRcp f (f.value v))
/-- vrcp (16 R438, R439). -/
def execVrcp (b : Body) (s : State) : Out := lone 6 0x04 b (vrcpMember b) s
/-- vrsqrt (16 R438, R439). -/
def vrsqrtMember (b : Body) : Member := sfuMember b false (fun f _ v => sfuRsqrt f (f.value v))
/-- vrsqrt (16 R438, R439). -/
def execVrsqrt (b : Body) (s : State) : Out := lone 6 0x05 b (vrsqrtMember b) s
/-- vsqrt (16 R438, R439): under `vfrm`. -/
def vsqrtMember (b : Body) : Member :=
  sfuMember b true (fun f mode v =>
    let r := f.arith mode (f.value v).sqrt
    (r.val, r.fl))
/-- vsqrt (16 R438, R439). -/
def execVsqrt (b : Body) (s : State) : Out := lone 6 0x06 b (vsqrtMember b) s
/-- vdiv (16 R438, R439): under `vfrm`; it admits a scalar second source. -/
def vdivMember (b : Body) : Member :=
  let w := wOf b
  let n := grpOf b
  { Member.plain ([dst b.vd n w, src b.vs1 n w] ++ src2Op b n w) false w n
      (fun c lo hi => writeElems b b.vd.toNat w lo hi (fun h e =>
        (fOf b).arith c.vfrm.toNat (((fOf b).value (h.vget b.vs1.toNat w e)).div ((fOf b).value (src2 b c h w e))))) with
    bad := fun c _ => !inF (tyOf b) || modBad b 1 || src2Bad b || frmBad c }
/-- vdiv (16 R438, R439). -/
def execVdiv (b : Body) (s : State) : Out := lone 6 0x07 b (vdivMember b) s

end Sys2Proof.Machine
end

