-- ==== Sys2Proof/Machine/VInt.lean ====
section
/-!
DEFINITION. Class VALU: the integer and fixed-point vector instructions (14 R373 to R378).
-/
namespace Sys2Proof.Machine

/-- An element operation of two sources of the type's width (14 R373): the answer from the captured state, w, a and b. -/
def intMember (b : Body) (f : Captured → Nat → Nat → Nat → Elem) : Member :=
  let w := wOf b
  let n := grpOf b
  Member.plain ([dst b.vd n w, src b.vs1 n w] ++ src2Op b n w) (!inI (tyOf b) || modBad b 1 || src2Bad b) w n
    (fun c lo hi => writeElems b b.vd.toNat w lo hi (fun h e => f c w (h.vget b.vs1.toNat w e) (src2 b c h w e)))

/-- A widening operation (14 R374): the destination and its old value have 2w bits; the answer is kept modulo 2^(2w). -/
def wideMember (b : Body) (reads : Bool) (f : Nat → Nat → Nat → Nat → Int) : Member :=
  let w := wOf b
  let n := grpOf b
  let vd := if reads then acc b.vd (2 * n) (2 * w) else dst b.vd (2 * n) (2 * w)
  Member.plain ([vd, src b.vs1 n w] ++ src2Op b n w) (!inIw (tyOf b) || modBad b 1 || src2Bad b) (2 * w) (2 * n)
    (fun c lo hi => writeElems b b.vd.toNat (2 * w) lo hi (fun h e =>
      wrapInt (2 * w) (f w (h.vget b.vs1.toNat w e) (src2 b c h w e) (h.vget b.vd.toNat (2 * w) e))))

/-- A narrowing operation (14 R375): vs1 has 2w bits, the shift is b mod 2w; the answer from w and the shifted value. -/
def narrowMember (b : Body) (signed : Bool) (f : Nat → Int → Elem) : Member :=
  let w := wOf b
  let n := grpOf b
  Member.plain ([dst b.vd n w, src b.vs1 (2 * n) (2 * w)] ++ src2Op b n w) (!inIw (tyOf b) || modBad b 1 || src2Bad b)
    (2 * w) (2 * n)
    (fun c lo hi => writeElems b b.vd.toNat w lo hi (fun h e =>
      let a := h.vget b.vs1.toNat (2 * w) e
      f w (fxShift c.vxrm (if signed then sextN (2 * w) a else (a : Int)) (src2 b c h w e % (2 * w)))))

/-- A compare (14 R376): mask bits. -/
def cmpMember (b : Body) (f : Nat → Nat → Nat → Bool) : Member :=
  let w := wOf b
  let n := grpOf b
  Member.plain ([mdst b.vd, src b.vs1 n w] ++ src2Op b n w) (!inI (tyOf b) || modBad b 1 || src2Bad b) w n
    (fun c lo hi => writeBits b b.vd.toNat lo hi (fun h e => (f w (h.vget b.vs1.toNat w e) (src2 b c h w e), 0)))

/-- An index operation (14 R378). -/
def indexMember (b : Body) (f : Captured → Nat → Nat) : Member :=
  let w := wOf b
  let n := grpOf b
  Member.plain [dst b.vd n w] (!inI (tyOf b) || modBad b 0 || b.vs1 ≠ 0 || b.vs2 ≠ 0 || b.vs3 ≠ 0) w n
    (fun c lo hi => writeElems b b.vd.toNat w lo hi (fun _ e => wrapInt w (f c e)))

/-! ### The members -/

/-- vadd (14 Table 14.4): vd[e] := a + b. -/
def vaddMember (b : Body) : Member := intMember b (fun _ w x y => wrapInt w (x + y : Nat))
/-- vadd (14 R373). -/
def execVadd (b : Body) (s : State) : Out := lone 0 0x00 b (vaddMember b) s
/-- vsub (14 Table 14.4): vd[e] := a - b. -/
def vsubMember (b : Body) : Member := intMember b (fun _ w x y => wrapInt w ((x : Int) - y))
/-- vsub (14 R373). -/
def execVsub (b : Body) (s : State) : Out := lone 0 0x01 b (vsubMember b) s
/-- vrsub (14 Table 14.4): vd[e] := b - a. -/
def vrsubMember (b : Body) : Member := intMember b (fun _ w x y => wrapInt w ((y : Int) - x))
/-- vrsub (14 R373). -/
def execVrsub (b : Body) (s : State) : Out := lone 0 0x02 b (vrsubMember b) s
/-- vmin (14 Table 14.4): The lesser, signed. -/
def vminMember (b : Body) : Member := intMember b (fun _ w x y => wrapInt w (min (sextN w x) (sextN w y)))
/-- vmin (14 R373). -/
def execVmin (b : Body) (s : State) : Out := lone 0 0x03 b (vminMember b) s
/-- vmax (14 Table 14.4): The greater, signed. -/
def vmaxMember (b : Body) : Member := intMember b (fun _ w x y => wrapInt w (max (sextN w x) (sextN w y)))
/-- vmax (14 R373). -/
def execVmax (b : Body) (s : State) : Out := lone 0 0x04 b (vmaxMember b) s
/-- vminu (14 Table 14.4): The lesser, unsigned. -/
def vminuMember (b : Body) : Member := intMember b (fun _ _ x y => bits (min x y))
/-- vminu (14 R373). -/
def execVminu (b : Body) (s : State) : Out := lone 0 0x05 b (vminuMember b) s
/-- vmaxu (14 Table 14.4): The greater, unsigned. -/
def vmaxuMember (b : Body) : Member := intMember b (fun _ _ x y => bits (max x y))
/-- vmaxu (14 R373). -/
def execVmaxu (b : Body) (s : State) : Out := lone 0 0x06 b (vmaxuMember b) s
/-- vand (14 Table 14.4): Bitwise and. -/
def vandMember (b : Body) : Member := intMember b (fun _ _ x y => bits (x &&& y))
/-- vand (14 R373). -/
def execVand (b : Body) (s : State) : Out := lone 0 0x07 b (vandMember b) s
/-- vor (14 Table 14.4): Bitwise or. -/
def vorMember (b : Body) : Member := intMember b (fun _ _ x y => bits (x ||| y))
/-- vor (14 R373). -/
def execVor (b : Body) (s : State) : Out := lone 0 0x08 b (vorMember b) s
/-- vxor (14 Table 14.4): Bitwise exclusive or. -/
def vxorMember (b : Body) : Member := intMember b (fun _ _ x y => bits (x ^^^ y))
/-- vxor (14 R373). -/
def execVxor (b : Body) (s : State) : Out := lone 0 0x09 b (vxorMember b) s
/-- vsll (14 Table 14.4): a << (b mod w). -/
def vsllMember (b : Body) : Member := intMember b (fun _ w x y => wrapInt w (x <<< (y % w) : Nat))
/-- vsll (14 R373). -/
def execVsll (b : Body) (s : State) : Out := lone 0 0x0a b (vsllMember b) s
/-- vsrl (14 Table 14.4): u(a) >> (b mod w). -/
def vsrlMember (b : Body) : Member := intMember b (fun _ w x y => bits (x >>> (y % w)))
/-- vsrl (14 R373). -/
def execVsrl (b : Body) (s : State) : Out := lone 0 0x0b b (vsrlMember b) s
/-- vsra (14 Table 14.4): s(a) >> (b mod w). -/
def vsraMember (b : Body) : Member := intMember b (fun _ w x y => wrapInt w (sextN w x >>> (y % w)))
/-- vsra (14 R373). -/
def execVsra (b : Body) (s : State) : Out := lone 0 0x0c b (vsraMember b) s
/-- vmul (14 Table 14.4): Low half of the product. -/
def vmulMember (b : Body) : Member := intMember b (fun _ w x y => wrapInt w (x * y : Nat))
/-- vmul (14 R373). -/
def execVmul (b : Body) (s : State) : Out := lone 0 0x0d b (vmulMember b) s
/-- vmulh (14 Table 14.4): High half, signed. -/
def vmulhMember (b : Body) : Member := intMember b (fun _ w x y => wrapInt w ((sextN w x * sextN w y) >>> w))
/-- vmulh (14 R373). -/
def execVmulh (b : Body) (s : State) : Out := lone 0 0x0e b (vmulhMember b) s
/-- vmulhu (14 Table 14.4): High half, unsigned. -/
def vmulhuMember (b : Body) : Member := intMember b (fun _ w x y => bits ((x * y) >>> w))
/-- vmulhu (14 R373). -/
def execVmulhu (b : Body) (s : State) : Out := lone 0 0x0f b (vmulhuMember b) s
/-- vmulhsu (14 Table 14.4): High half, signed by unsigned. -/
def vmulhsuMember (b : Body) : Member := intMember b (fun _ w x y => wrapInt w ((sextN w x * (y : Int)) >>> w))
/-- vmulhsu (14 R373). -/
def execVmulhsu (b : Body) (s : State) : Out := lone 0 0x10 b (vmulhsuMember b) s
/-- vsadd (14 Table 14.4): Saturating signed add. -/
def vsaddMember (b : Body) : Member := intMember b (fun _ w x y => satInt w true (sextN w x + sextN w y))
/-- vsadd (14 R373). -/
def execVsadd (b : Body) (s : State) : Out := lone 0 0x11 b (vsaddMember b) s
/-- vsaddu (14 Table 14.4): Saturating unsigned add. -/
def vsadduMember (b : Body) : Member := intMember b (fun _ w x y => satInt w false (x + y : Nat))
/-- vsaddu (14 R373). -/
def execVsaddu (b : Body) (s : State) : Out := lone 0 0x12 b (vsadduMember b) s
/-- vssub (14 Table 14.4): Saturating signed subtract. -/
def vssubMember (b : Body) : Member := intMember b (fun _ w x y => satInt w true (sextN w x - sextN w y))
/-- vssub (14 R373). -/
def execVssub (b : Body) (s : State) : Out := lone 0 0x13 b (vssubMember b) s
/-- vssubu (14 Table 14.4): Saturating unsigned subtract. -/
def vssubuMember (b : Body) : Member := intMember b (fun _ w x y => satInt w false ((x : Int) - y))
/-- vssubu (14 R373). -/
def execVssubu (b : Body) (s : State) : Out := lone 0 0x14 b (vssubuMember b) s
/-- vaadd (14 Table 14.4): Averaging signed add. -/
def vaaddMember (b : Body) : Member := intMember b (fun c w x y => wrapInt w (fxShift c.vxrm (sextN w x + sextN w y) 1))
/-- vaadd (14 R373). -/
def execVaadd (b : Body) (s : State) : Out := lone 0 0x15 b (vaaddMember b) s
/-- vaaddu (14 Table 14.4): Averaging unsigned add. -/
def vaadduMember (b : Body) : Member := intMember b (fun c w x y => wrapInt w (fxShift c.vxrm (x + y : Nat) 1))
/-- vaaddu (14 R373). -/
def execVaaddu (b : Body) (s : State) : Out := lone 0 0x16 b (vaadduMember b) s
/-- vwadd (14 Table 14.5). -/
def vwaddMember (b : Body) : Member := wideMember b false (fun w x y _ => sextN w x + sextN w y)
/-- vwadd (14 R374). -/
def execVwadd (b : Body) (s : State) : Out := lone 0 0x17 b (vwaddMember b) s
/-- vwaddu (14 Table 14.5). -/
def vwadduMember (b : Body) : Member := wideMember b false (fun _ x y _ => (x + y : Nat))
/-- vwaddu (14 R374). -/
def execVwaddu (b : Body) (s : State) : Out := lone 0 0x18 b (vwadduMember b) s
/-- vwmul (14 Table 14.5). -/
def vwmulMember (b : Body) : Member := wideMember b false (fun w x y _ => sextN w x * sextN w y)
/-- vwmul (14 R374). -/
def execVwmul (b : Body) (s : State) : Out := lone 0 0x19 b (vwmulMember b) s
/-- vwmulu (14 Table 14.5). -/
def vwmuluMember (b : Body) : Member := wideMember b false (fun _ x y _ => (x * y : Nat))
/-- vwmulu (14 R374). -/
def execVwmulu (b : Body) (s : State) : Out := lone 0 0x1a b (vwmuluMember b) s
/-- vwmulsu (14 Table 14.5). -/
def vwmulsuMember (b : Body) : Member := wideMember b false (fun w x y _ => sextN w x * (y : Int))
/-- vwmulsu (14 R374). -/
def execVwmulsu (b : Body) (s : State) : Out := lone 0 0x1b b (vwmulsuMember b) s
/-- vwmacc (14 Table 14.5). -/
def vwmaccMember (b : Body) : Member := wideMember b true (fun w x y d => (d : Int) + sextN w x * sextN w y)
/-- vwmacc (14 R374). -/
def execVwmacc (b : Body) (s : State) : Out := lone 0 0x1c b (vwmaccMember b) s
/-- vwmaccu (14 Table 14.5). -/
def vwmaccuMember (b : Body) : Member := wideMember b true (fun _ x y d => (d + x * y : Nat))
/-- vwmaccu (14 R374). -/
def execVwmaccu (b : Body) (s : State) : Out := lone 0 0x1d b (vwmaccuMember b) s
/-- vwmaccsu (14 Table 14.5). -/
def vwmaccsuMember (b : Body) : Member := wideMember b true (fun w x y d => (d : Int) + sextN w x * (y : Int))
/-- vwmaccsu (14 R374). -/
def execVwmaccsu (b : Body) (s : State) : Out := lone 0 0x1e b (vwmaccsuMember b) s
/-- vnsrl (14 R375). -/
def vnsrlMember (b : Body) : Member := narrowMember b false wrapInt
/-- vnsrl (14 R375). -/
def execVnsrl (b : Body) (s : State) : Out := lone 0 0x1f b (vnsrlMember b) s
/-- vnsra (14 R375). -/
def vnsraMember (b : Body) : Member := narrowMember b true wrapInt
/-- vnsra (14 R375). -/
def execVnsra (b : Body) (s : State) : Out := lone 0 0x20 b (vnsraMember b) s
/-- vnclip (14 R375). -/
def vnclipMember (b : Body) : Member := narrowMember b true (fun w v => satInt w true v)
/-- vnclip (14 R375). -/
def execVnclip (b : Body) (s : State) : Out := lone 0 0x21 b (vnclipMember b) s
/-- vnclipu (14 R375). -/
def vnclipuMember (b : Body) : Member := narrowMember b false (fun w v => satInt w false v)
/-- vnclipu (14 R375). -/
def execVnclipu (b : Body) (s : State) : Out := lone 0 0x22 b (vnclipuMember b) s
/-- vmseq (14 R376). -/
def vmseqMember (b : Body) : Member := cmpMember b (fun _ x y => x = y)
/-- vmseq (14 R376). -/
def execVmseq (b : Body) (s : State) : Out := lone 0 0x23 b (vmseqMember b) s
/-- vmsne (14 R376). -/
def vmsneMember (b : Body) : Member := cmpMember b (fun _ x y => x ≠ y)
/-- vmsne (14 R376). -/
def execVmsne (b : Body) (s : State) : Out := lone 0 0x24 b (vmsneMember b) s
/-- vmslt (14 R376). -/
def vmsltMember (b : Body) : Member := cmpMember b (fun w x y => sextN w x < sextN w y)
/-- vmslt (14 R376). -/
def execVmslt (b : Body) (s : State) : Out := lone 0 0x25 b (vmsltMember b) s
/-- vmsltu (14 R376). -/
def vmsltuMember (b : Body) : Member := cmpMember b (fun _ x y => x < y)
/-- vmsltu (14 R376). -/
def execVmsltu (b : Body) (s : State) : Out := lone 0 0x26 b (vmsltuMember b) s
/-- vmsle (14 R376). -/
def vmsleMember (b : Body) : Member := cmpMember b (fun w x y => sextN w x ≤ sextN w y)
/-- vmsle (14 R376). -/
def execVmsle (b : Body) (s : State) : Out := lone 0 0x27 b (vmsleMember b) s
/-- vmsleu (14 R376). -/
def vmsleuMember (b : Body) : Member := cmpMember b (fun _ x y => x ≤ y)
/-- vmsleu (14 R376). -/
def execVmsleu (b : Body) (s : State) : Out := lone 0 0x28 b (vmsleuMember b) s
/-- vmsgt (14 R376). -/
def vmsgtMember (b : Body) : Member := cmpMember b (fun w x y => sextN w y < sextN w x)
/-- vmsgt (14 R376). -/
def execVmsgt (b : Body) (s : State) : Out := lone 0 0x29 b (vmsgtMember b) s
/-- vmsgtu (14 R376). -/
def vmsgtuMember (b : Body) : Member := cmpMember b (fun _ x y => y < x)
/-- vmsgtu (14 R376). -/
def execVmsgtu (b : Body) (s : State) : Out := lone 0 0x2a b (vmsgtuMember b) s
/-- vmerge (14 R377): its mask selects b or a for every element from `vstart`; men = 1. -/
def vmergeMember (b : Body) : Member :=
  let w := wOf b
  let n := grpOf b
  Member.plain ([dst b.vd n w, src b.vs1 n w] ++ src2Op b n w) (!inA (tyOf b) || modBad b 1 || src2Bad b || !b.men) w n
    (fun c lo hi => writeOver (List.range' lo (hi - lo)) b.vd.toNat w (fun h e =>
      bits (if h.active b e then src2 b c h w e else h.vget b.vs1.toNat w e)))
/-- vmerge (14 R377). -/
def execVmerge (b : Body) (s : State) : Out := lone 0 0x2b b (vmergeMember b) s
/-- vmv (14 R377): copies vs1[e], or x[xs] with sx = 1 and vs1 = 0. -/
def vmvMember (b : Body) : Member :=
  let w := wOf b
  let n := grpOf b
  Member.plain ([dst b.vd n w] ++ if sxOf b then [] else [src b.vs1 n w])
    (!inA (tyOf b) || modBad b 1 || b.vs2 ≠ 0 || (if sxOf b then b.vs1 ≠ 0 else b.vs3 ≠ 0)) w n
    (fun c lo hi => writeElems b b.vd.toNat w lo hi (fun h e =>
      bits (if sxOf b then wfield (c.getX b.vs3) 0 w else h.vget b.vs1.toNat w e)))
/-- vmv (14 R377). -/
def execVmv (b : Body) (s : State) : Out := lone 0 0x2c b (vmvMember b) s
/-- vid (14 R378). -/
def vidMember (b : Body) : Member := indexMember b (fun _ e => e)
/-- vid (14 R378). -/
def execVid (b : Body) (s : State) : Out := lone 0 0x2d b (vidMember b) s
/-- vrowid (14 R378). -/
def vrowidMember (b : Body) : Member := indexMember b (fun c e => e / c.vcols)
/-- vrowid (14 R378). -/
def execVrowid (b : Body) (s : State) : Out := lone 0 0x2e b (vrowidMember b) s
/-- vcolid (14 R378). -/
def vcolidMember (b : Body) : Member := indexMember b (fun c e => e % c.vcols)
/-- vcolid (14 R378). -/
def execVcolid (b : Body) (s : State) : Out := lone 0 0x2f b (vcolidMember b) s

end Sys2Proof.Machine
end

