-- ==== Sys2Proof/Machine/Convoy.lean ====
section
/-!
DEFINITION. Convoys (06 R146, R162 to R168, R471, R472; 12 R321 to R329): the header and its checks, dispatch with what it captures,
issue, and draining.
-/
namespace Sys2Proof.Machine

/-! ### The members by class and funct8 -/

/-- The members of class VALU (12 Tables 12.8 to 12.14). -/
def membersValu (f : Nat) (b : Body) : Member :=
  match f with
  | 0 => vaddMember b
  | 1 => vsubMember b
  | 2 => vrsubMember b
  | 3 => vminMember b
  | 4 => vmaxMember b
  | 5 => vminuMember b
  | 6 => vmaxuMember b
  | 7 => vandMember b
  | 8 => vorMember b
  | 9 => vxorMember b
  | 10 => vsllMember b
  | 11 => vsrlMember b
  | 12 => vsraMember b
  | 13 => vmulMember b
  | 14 => vmulhMember b
  | 15 => vmulhuMember b
  | 16 => vmulhsuMember b
  | 17 => vsaddMember b
  | 18 => vsadduMember b
  | 19 => vssubMember b
  | 20 => vssubuMember b
  | 21 => vaaddMember b
  | 22 => vaadduMember b
  | 23 => vwaddMember b
  | 24 => vwadduMember b
  | 25 => vwmulMember b
  | 26 => vwmuluMember b
  | 27 => vwmulsuMember b
  | 28 => vwmaccMember b
  | 29 => vwmaccuMember b
  | 30 => vwmaccsuMember b
  | 31 => vnsrlMember b
  | 32 => vnsraMember b
  | 33 => vnclipMember b
  | 34 => vnclipuMember b
  | 35 => vmseqMember b
  | 36 => vmsneMember b
  | 37 => vmsltMember b
  | 38 => vmsltuMember b
  | 39 => vmsleMember b
  | 40 => vmsleuMember b
  | 41 => vmsgtMember b
  | 42 => vmsgtuMember b
  | 43 => vmergeMember b
  | 44 => vmvMember b
  | 45 => vidMember b
  | 46 => vrowidMember b
  | 47 => vcolidMember b
  | _ => Member.unassigned

/-- The members of class VFMA (12 Tables 12.8 to 12.14). -/
def membersVfma (f : Nat) (b : Body) : Member :=
  match f with
  | 0 => vfaddMember b
  | 1 => vfsubMember b
  | 2 => vfmulMember b
  | 3 => vfmaccMember b
  | 4 => vfnmaccMember b
  | 5 => vfmsacMember b
  | 6 => vfnmsacMember b
  | 7 => vfminMember b
  | 8 => vfmaxMember b
  | 9 => vfsgnjMember b
  | 10 => vfsgnjnMember b
  | 11 => vfsgnjxMember b
  | 12 => vmfeqMember b
  | 13 => vmfneMember b
  | 14 => vmfltMember b
  | 15 => vmfleMember b
  | 16 => vmfgtMember b
  | 17 => vfclassMember b
  | 18 => vfcvtFXMember b
  | 19 => vfcvtXFMember b
  | 20 => vfwcvtMember b
  | 21 => vfncvtMember b
  | _ => Member.unassigned

/-- The members of class VLD (12 Tables 12.8 to 12.14). -/
def membersVld (f : Nat) (b : Body) : Member :=
  match f with
  | 0 => vleMember b
  | 1 => vlseMember b
  | 2 => vlxeMember b
  | 3 => vlsegMember b
  | 4 => vlmxMember b
  | 5 => vlwMember b
  | 6 => vlcxMember b
  | 7 => vleffMember b
  | 8 => vglMember b
  | 9 => vpopMember b
  | _ => Member.unassigned

/-- The members of class VST (12 Tables 12.8 to 12.14). -/
def membersVst (f : Nat) (b : Body) : Member :=
  match f with
  | 0 => vseMember b
  | 1 => vsseMember b
  | 2 => vsxeMember b
  | 3 => vssegMember b
  | 4 => vsmxMember b
  | 5 => vsnMember b
  | 6 => vscMember b
  | 7 => vamoaddMember b
  | 8 => vamoandMember b
  | 9 => vamoorMember b
  | 10 => vamoxorMember b
  | 11 => vamominMember b
  | 12 => vamomaxMember b
  | 13 => vamominuMember b
  | 14 => vamomaxuMember b
  | 15 => vamoswapMember b
  | 16 => vamofaddMember b
  | 17 => vamofminMember b
  | 18 => vamofmaxMember b
  | 19 => vamofxaddMember b
  | 20 => vsappMember b
  | _ => Member.unassigned

/-- The members of class VXP (12 Tables 12.8 to 12.14). -/
def membersVxp (f : Nat) (b : Body) (odd : Bool) : Member :=
  match f with
  | 0 => vslideupMember b
  | 1 => vslidedownMember b
  | 2 => vrgatherMember b
  | 3 => vpswapMember b odd
  | 4 => vtransMember b
  | 5 => vredsumMember b
  | 6 => vfredsumMember b
  | 7 => vfsumBsMember b
  | 8 => vredminMember b
  | 9 => vredmaxMember b
  | 10 => vredminuMember b
  | 11 => vredmaxuMember b
  | 12 => vfredminMember b
  | 13 => vfredmaxMember b
  | 14 => vmandMember b
  | 15 => vmorMember b
  | 16 => vmxorMember b
  | 17 => vmnotMember b
  | 18 => vpopcMember b
  | 19 => vfirstMember b
  | 20 => viotaMember b
  | 21 => vcompressMember b
  | 22 => vmvXSMember b
  | 23 => vmvSXMember b
  | _ => Member.unassigned

/-- The members of class MXU (12 Tables 12.8 to 12.14). -/
def membersMxu (f : Nat) (b : Body) (blocky : Bool) : Member :=
  match f with
  | 0 => tzeroMember b
  | 1 => tmacMember b blocky
  | 2 => topaMember b
  | 3 => treadMember b
  | 4 => twriteMember b
  | 5 => tdrainMember b
  | _ => Member.unassigned

/-- The members of class SFU (12 Tables 12.8 to 12.14). -/
def membersSfu (f : Nat) (b : Body) : Member :=
  match f with
  | 0 => vsinMember b
  | 1 => vcosMember b
  | 2 => vexp2Member b
  | 3 => vlog2Member b
  | 4 => vrcpMember b
  | 5 => vrsqrtMember b
  | 6 => vsqrtMember b
  | 7 => vdivMember b
  | 8 => vtexMember b
  | 9 => vrayboxMember b
  | 10 => vraytriMember b
  | 11 => vcoverMember b
  | _ => Member.unassigned

/-- The member that a body of a class is, for captured columns and the matrix formats of the hart. -/
def memberOf (w : Word) (c : Captured) (h : Hart) : Member :=
  let b := bodyOf w
  let f := (bodyOp w).2.toNat
  match (bodyOp w).1.toNat with
  | 0 => membersValu f b
  | 1 => membersVfma f b
  | 2 => membersVld f b
  | 3 => membersVst f b
  | 4 => membersVxp f b (c.vcols % 2 = 1)
  | 5 => membersMxu f b h.blocky
  | 6 => membersSfu f b
  | _ => Member.unassigned

/-- The members of a convoy at their places. -/
def placedOf (bodies : List Word) (c : Captured) (h : Hart) : List Placed :=
  bodies.map (fun w => { cls := (bodyOp w).1.toNat, body := bodyOf w, word := w, m := memberOf w c h })

/-! ### The header (12 Table 12.5, R325 items 1 to 5) -/

/-- The unit code the header names for a member. -/
def unitCode (hdr : BitVec 32) (j : Nat) : Nat := wfield hdr (10 + 3 * j) 3

/-- Two of the codes are equal. -/
def twice : List Nat → Bool
  | [] => false
  | u :: us => us.contains u || twice us

/-- Items 1 to 3: the count, the reserved bits, the unit codes, and bodies that do not all lie in the line. -/
def headerBad (hdr : BitVec 32) (bodies : List Word) : Bool :=
  let n := headerCount hdr
  let us := (List.range n).map (unitCode hdr)
  n = 0 || wfield hdr 30 2 ≠ 0 || us.contains 7 || wfield hdr (10 + 3 * n) (18 - 3 * n) ≠ 0 || twice us || bodies.length ≠ n

/-- VGL, VSC and the indexed vector atomics (item 5). -/
def aloneOnly (w : Word) : Bool :=
  let f := (bodyOp w).2.toNat
  ((bodyOp w).1.toNat = 2 && f = 8) || ((bodyOp w).1.toNat = 3 && 6 ≤ f && f ≤ 0x13)

/-- Items 4 and 5 for member j. -/
def bodyBad (hdr : BitVec 32) (j : Nat) (w : Word) : Bool :=
  wfield w 0 7 ≠ 0x3F || (bodyOp w).1.toNat ≠ unitCode hdr j || (aloneOnly w && headerCount hdr ≠ 1)

/-- The lowest member that items 4 and 5 refuse. -/
def firstBodyBad (hdr : BitVec 32) (bodies : List Word) : Option Nat :=
  (bodies.zipIdx.find? (fun p => bodyBad hdr p.2 p.1)).map Prod.snd

/-- Stages 2 to 6 of 12 R327: cause, `stval`, member. -/
def convoyChecks (hdr : BitVec 32) (bodies : List Word) (c : Captured) (done restart : BitVec 6) (h : Hart) :
    Option (BitVec 8 × Word × Nat) :=
  if headerBad hdr bodies then some (0x03, hdr.setWidth 64, 0)
  else
    match firstBodyBad hdr bodies with
    | some j => some (0x03, hdr.setWidth 64, j)
    | none => memberChecks (placedOf bodies c h) hdr c done restart h

/-- Bits of the members a header announces. -/
def memberBits (hdr : BitVec 32) : BitVec 6 := BitVec.ofNat 6 (2 ^ headerCount hdr - 1)

/-- Bytes of a convoy (12 R313). -/
def convoyBytes (hdr : BitVec 32) : Nat := 4 + 8 * headerCount hdr

/-! ### Dispatch, issue and draining -/

/-- CONVOY (12 R325, R327; 06 R146, R165): the convoy is checked and dispatched with what it captures. The queue holds four; a convoy
whose `vstart` or `cvidx` an earlier one has still to clear, or that fails a check, waits until those have drained (06 R147). -/
def execConvoy (hdr : BitVec 32) (bodies : List Word) (s : State) : Out :=
  let h := s.hart
  let c := match h.rep with
    | some r => r.cap
    | none => h.captured
  let done := (h.cvUse.1 ||| h.rep.elim 0 (fun r => r.done)) &&& memberBits hdr
  let restart := h.cvUse.2 &&& memberBits hdr &&& ~~~ done
  let busy := ¬ h.disp.isEmpty
  match convoyChecks hdr bodies c done restart h with
  | some (cause, tval, j) =>
    if busy then .next (s.applyNeed (.wait .drain))
    else .next (s.takeTrap cause tval (some { vstart := h.vstart, restart := restart, done := done, member := BitVec.ofNat 3 j }))
  | none =>
    if busy ∧ (4 ≤ h.disp.length ∨ h.vstart ≠ 0 ∨ h.cvidx ≠ 0 ∨ h.rep.isSome) then .next (s.applyNeed (.wait .drain))
    else
      let v : Convoy := { pc := h.pc, hdr := hdr, bodies := bodies, cap := c, done := done, restart := restart, issued := false }
      .next (s.withHart (fun h => { h with disp := h.disp ++ [v], pc := h.pc + BitVec.ofNat 64 (convoyBytes hdr) }))

/-- The dispatched convoys of a hart are dropped (06 R147). -/
def Hart.dropConvoys (h : Hart) (cycles : Nat) : Hart := Hart.stripsAfter { h with disp := [] } h.disp.length cycles

/-- Issue the oldest convoy of the current hart: it performs, or a member traps at its header and the convoys after it are dropped
(06 R147, R164, R167). -/
def State.issueConvoy (s : State) : State :=
  match s.hart.disp with
  | [] => s
  | v :: rest =>
    if v.issued then s
    else
      let pc := s.hart.pc
      let at' := s.withHart (fun h => { h with pc := v.pc })
      match perform (placedOf v.bodies v.cap s.hart) v.cap (wbit v.hdr 28) v.done v.restart at' with
      | .ok s => s.withHart (fun h => { h with pc := pc, disp := { v with issued := true } :: rest })
      | .trap cause tval cv s => (s.withHart (fun h => h.dropConvoys s.cycles)).takeTrap cause tval (some cv)
      | .need (.halt r) => (s.withHart (fun h => { h.dropConvoys s.cycles with pc := v.pc })).applyNeed (.halt r)
      | .need n => s.applyNeed n

/-! ### The sequencer of a core (05 R137) -/

/-- The hart has a convoy ready to issue. -/
def convoyReady (s : State) (h : Hart) : Bool :=
  (h.wait = .none || h.wait = .drain) && h.replies.isEmpty && (s.ctx h.ctx).state = .running
    && (match h.disp with
        | v :: _ => !v.issued
        | [] => false)

/-- What the sequencer compares: a held tile, the placed priority, the purse, and the place in the rotation. -/
def seqRank (s : State) (h : Hart) : Nat × Nat × Int × Nat :=
  let c := s.core h.core
  let purse : Int := match h.purse s with
    | some k => tgetD c.purses k 0
    | none => 0
  ((!h.held.isEmpty).toNat, ((tget s.gangs h.gang.toNat).map (fun g => g.prio.toNat)).getD 0, purse,
   15 - (h.slot - c.lastSlot - 1).toNat)

/-- One rank comes before another. -/
def rankOver (a b : Nat × Nat × Int × Nat) : Bool :=
  b.1 < a.1 || (a.1 = b.1 && (b.2.1 < a.2.1 || (a.2.1 = b.2.1 && (b.2.2.1 < a.2.2.1 || (a.2.2.1 = b.2.2.1 && b.2.2.2 < a.2.2.2)))))

/-- The hart whose convoy the sequencer of a core issues next. -/
def sequencer (s : State) (core : BitVec 8) : Option Hart :=
  ((s.coreHarts core).filter (convoyReady s)).foldl (fun b h =>
    match b with
    | none => some h
    | some k => if rankOver (seqRank s h) (seqRank s k) then some h else some k) none

/-- The current hart's convoy may issue: the sequencer chooses the hart, or the convoy has been chosen and goes on with an answer. -/
def mayIssue (s : State) : Bool := !s.hart.replies.isEmpty || (sequencer s s.hart.core).any (fun h => h.ref = s.hart.ref)

/-- CONVOY_ISSUE (05 R137, 06 R164). -/
def execConvoyIssue (h : HartRef) (s : State) : Out :=
  s.asHart h fun s =>
    .next (if mayIssue s then (s.modCore s.hart.core (fun c => { c with lastSlot := s.hart.slot })).issueConvoy else s)

/-- CONVOY_DRAIN (06 R162, R168): the oldest convoy retires. -/
def execConvoyDrain (h : HartRef) (s : State) : Out :=
  s.asHart h fun s =>
  match s.hart.disp with
  | [] => .next s
  | v :: rest => if v.issued then .next (s.withHart (fun h => Hart.stripsAfter { h.drained with disp := rest } 1 s.cycles)) else .next s

end Sys2Proof.Machine
end

