-- ==== Sys2Proof/Machine/VConfig.lean ====
section
/-!
DEFINITION. Vector configuration (06 R149, R154 to R158; 14 R367, R368): VSETVL, VSETSHAPE and their boundary forms, which may change the
granted register length, and strip records (10 R278, R279).
-/
namespace Sys2Proof.Machine

/-! ### The granted length (06 R154 to R157) -/

/-- The lengths a hart can be granted (06 R155). -/
def vlbSizes : List Nat := [256, 512, 1024, 2048, 4096, 8192]

/-- The storage of the current hart's core with this hart at a length. -/
def storageAt (s : State) (v : Nat) : Nat := coreStorage s s.hart.core - 32 * s.hart.vlb.toNat + 32 * v

/-- Banks of a core that are, or can be switched to, mode X: at most 8 (06 R154, R157). -/
def xRoom (s : State) (core : BitVec 8) : Nat := min 8 ((banksIn s core .X).length + (banksIn s core .C).length)

/-- Storage of a core that is in use, or that has been freed and is held for a waiting head (05 R133). -/
def storageHeld (s : State) (core : BitVec 8) : Nat :=
  match (s.cluster (clusterOf core)).reserved with
  | some r => max (coreStorage s core) (r.used.getD (core.toNat % 8) 0)
  | none => coreStorage s core

/-- The current hart's core has room for it at a length (06 R155); what is held for a head is not for it (05 R133). -/
def fits (s : State) (v : Nat) : Bool :=
  storageHeld s s.hart.core + 32 * (v - s.hart.vlb.toNat) ≤ 262144 + 24576 * xRoom s s.hart.core

/-- X banks that a core needs beside those it has. -/
def xMore (s : State) (core : BitVec 8) (bytes : Nat) : Nat := xNeeded bytes - (banksIn s core .X).length

/-- Switch the highest-numbered C banks of a core to X while it needs more; its lines leave them (06 R157). -/
def State.takeX (s : State) (core : BitVec 8) (bytes : Nat) : State :=
  let out := (banksIn s core .C).reverse.take (xMore s core bytes)
  if out.isEmpty then s else (out.foldl (fun s i => s.setBank i { Bank.reset i with mode := .X }) s).leaveC core

/-- A growth of the current hart takes storage that a reservation had left to the residents (05 R133). -/
def State.useStorage (s : State) (more : Nat) : State :=
  let k := s.hart.core.toNat % 8
  s.modCluster (clusterOf s.hart.core) (fun c =>
    { c with reserved := c.reserved.map (fun r => { r with used := r.used.set k (r.used.getD k 0 + more) }) })

/-- The length needed for so many elements (06 R155). -/
def vlbNeed (avl n w : Nat) : Nat := (vlbSizes.find? (fun v => avl * w ≤ v * 8 * n)).getD 8192

/-- The length a boundary instruction sets (06 R155). -/
def vlbTarget (s : State) (need : Nat) : Nat :=
  let v := s.hart.vlb.toNat
  if v < need then
    if s.hart.grow then ((vlbSizes.filter (fun u => v ≤ u && u ≤ need && fits s u)).getLast?).getD v else v
  else max s.hart.vlb0.toNat need

/-- One vector register at a change of length: kept bytes, or an undefined image (06 R156, log 1). -/
def rebindReg (old new : Nat) (s : State) (i : Nat) : State :=
  if hi : i < 32 then
    if wbit s.hart.vkeep i then s.withHart (fun h => { h with v := h.v.set i (nfield h.v[i] 0 (8 * min old new)) })
    else
      let (x, s) := s.freshImage (8 * new)
      s.withHart (fun h => { h with v := h.v.set i x, vdirty := bset h.vdirty i false })
  else s

/-- The registers of the current hart at a change of length (06 R156). -/
def State.rebind (s : State) (new : Nat) : State :=
  let old := s.hart.vlb.toNat
  if old = new then s
  else
    let s := (List.range 32).foldl (rebindReg old new) s
    s.withHart (fun h => { h with m := h.m.map (fun x => nfield x 0 (8 * min old new)), vlb := BitVec.ofNat 14 new })

/-- A boundary step that switches banks waits for its turn among its cluster's bank commands (07 R177, R178). -/
def boundaryWaits (s : State) (avl n w : Nat) : Bool :=
  !(s.cluster (clusterOf s.hart.core)).bankCmd.isEmpty && 0 < xMore s s.hart.core (storageAt s (vlbTarget s (vlbNeed avl n w)))

/-- The boundary step for so many elements (06 R155, R157). -/
def State.boundaryStep (s : State) (avl n w : Nat) : State :=
  let t := vlbTarget s (vlbNeed avl n w)
  let grown := if s.hart.vlb.toNat < t then s.useStorage (32 * (t - s.hart.vlb.toNat)) else s
  ((grown.takeX s.hart.core (storageAt s t)).rebind t).settleX s.hart.core

/-! ### The four forms (14 R367) -/

/-- A configuration instruction closes the current strip when records are enabled (10 R278). -/
def Hart.closes (h : Hart) (cycles : Nat) : Hart :=
  if h.srEn then
    let d : StripDue := { pc := h.pc, vrows := h.vrows.toNat, vcols := h.vcols.toNat, vl := h.vl.toNat, ahead := h.disp.length, counts := none }
    Hart.stripPoints { h with stripDue := h.stripDue ++ [d] } cycles
  else h

/-- Rows, columns and VL for a request of rows by columns under so many elements (14 R367). -/
def shapeOf (rows cols m : Nat) : Nat × Nat :=
  if rows = 0 ∨ cols = 0 then (0, 0) else (min rows (m / min cols m), min cols m)

/-- Set the lengths and the type, and x[rd] := VL; `line` for the one-row forms. -/
def State.setLengths (s : State) (rd : Reg) (eew : BitVec 3) (grp : BitVec 2) (line : Bool) (rows cols : Nat) : State :=
  let m := s.hart.vlb.toNat * 8 * 2 ^ grp.toNat / (8 * 2 ^ eew.toNat)
  let (r, c) := if line then (1, min cols m) else shapeOf rows cols m
  (s.withHart (fun h => { h with vl := BitVec.ofNat 17 (r * c), vrows := BitVec.ofNat 17 r, vcols := BitVec.ofNat 17 c
                                 vtEew := field eew 0 2, vtGrp := grp })).setX rd (BitVec.ofNat 64 (r * c))

/-- The four forms: `line` for VSETVL, `bound` for the boundary forms (14 R367, R368). -/
def vconfig (rd : Reg) (eew : BitVec 3) (grp : BitVec 2) (line bound : Bool) (rows cols : Nat) (s : State) : Out :=
  (if 3 < eew.toNat then .trap 0x0D 0
   else if bound ∧ (¬ s.hart.disp.isEmpty ∨ boundaryWaits s (if line then cols else rows * cols) (2 ^ grp.toNat) (8 * 2 ^ eew.toNat)) then
     .need (.wait .drain)
   else
     let s := s.withHart (fun h => h.closes s.cycles)
     let s := if bound then s.boundaryStep (if line then cols else rows * cols) (2 ^ grp.toNat) (8 * 2 ^ eew.toNat) else s
     .ok () (s.setLengths rd eew grp line rows cols).retire : Res Unit).finish s

/-- AVL of the one-row forms: x0 asks for as many elements as fit (14 R367). -/
def avlOf (s : State) (rs1 : Reg) : Nat := if rs1 = 0 then 2 ^ 64 else (s.getX rs1).toNat

/-- VSETVL (14 R367). -/
def execVsetvl (rd rs1 : Reg) (eew : BitVec 3) (grp : BitVec 2) (s : State) : Out :=
  vconfig rd eew grp true false 1 (avlOf s rs1) s

/-- VSETVL.B (06 R155). -/
def execVsetvlB (rd rs1 : Reg) (eew : BitVec 3) (grp : BitVec 2) (s : State) : Out :=
  vconfig rd eew grp true true 1 (avlOf s rs1) s

/-- VSETSHAPE (14 R367). -/
def execVsetshape (rd rs1 rs2 : Reg) (eew : BitVec 3) (grp : BitVec 2) (s : State) : Out :=
  vconfig rd eew grp false false (s.getX rs1).toNat (s.getX rs2).toNat s

/-- VSETSHAPE.B (06 R155). -/
def execVsetshapeB (rd rs1 rs2 : Reg) (eew : BitVec 3) (grp : BitVec 2) (s : State) : Out :=
  vconfig rd eew grp false true (s.getX rs1).toNat (s.getX rs2).toNat s

/-- VLB_REBIND (06 R155): the hart's earlier convoys have drained, and the boundary instruction it stands at changes its lengths. -/
def execVlbRebind (h : HartRef) (s : State) : Out :=
  s.asHart h fun s =>
    if ¬ s.hart.disp.isEmpty then .next s
    else
      match s.fetch with
      | (.bytes bs, t) =>
        match decode bs with
        | .ok (.vsetvlB rd rs1 eew grp, _) => execVsetvlB rd rs1 eew grp t
        | .ok (.vsetshapeB rd rs1 rs2 eew grp, _) => execVsetshapeB rd rs1 rs2 eew grp t
        | _ => .next s
      | _ => .next s

/-! ### Strip records (10 R278, R279) -/

/-- Bytes of a strip record (10 Table 10.12). -/
def stripBytes (d : StripDue) (counts : Nat × Nat × Nat × Nat) : List Byte :=
  let sat (n : Nat) : Nat := min n (2 ^ 32 - 1)
  let (cycles, coins, arith, mem) := counts
  leBytes 8 (wfield d.pc 0 48) ++ leBytes 8 (d.vrows <<< 34 + d.vcols <<< 17 + d.vl)
    ++ leBytes 8 (sat cycles <<< 32 + sat coins) ++ leBytes 8 (sat arith <<< 32 + sat mem)

/-- The slot of the ring that the next record goes to (10 R278). -/
def stripSlot (h : Hart) : Word := BitVec.ofNat 64 (h.srbase.toNat * 4096 + 32 * (h.srhead.toNat % 2 ^ h.srK.toNat))

/-- The store of a strip record, which no watchpoint matches (10 R273). -/
def stripStore (s : State) (a : Word) (data : List Byte) : Res (Option Nat) :=
  let (f, s) := resolve s s.hart.who a .store
  match f with
  | .error c => .trap c a
  | .ok p => if transfersMet s a.toNat data.length true ≠ [] then .need (.wait .transfer) else writePlace s a p data

/-- STRIP_CLOSE (10 R278): the record of the oldest strip whose closing point has come is stored. -/
def execStripClose (h : HartRef) (s : State) : Out :=
  s.asHart h fun s =>
    match s.hart.stripDue with
    | [] => .next s
    | d :: rest =>
      match d.counts with
      | none => .next s
      | some c =>
        match stripStore s (stripSlot s.hart) (stripBytes d c) with
        | .ok _ t => .next (t.withHart (fun h => { h with stripDue := rest, srhead := h.srhead + 1, lookups := s.hart.lookups }))
        | .trap _ _ => .next (s.withHart (fun h => { h with stripDue := rest, srFlt := true, srEn := false }))
        | .need _ => .next s

end Sys2Proof.Machine
end

