-- ==== Sys2Proof/Machine/Resume.lean ====
section
/-!
DEFINITION. Resumption (10 R261 to R266, R470; 09 R235; 06 R158): what a hart and a gang load from their frame.
-/
namespace Sys2Proof.Machine

/-! ### A hart from its frame (10 Tables 10.7, 10.7b) -/

/-- The CSRs of a hart, from the slots of its control area (10 Table 10.7b). -/
def Hart.loadCsrs (h : Hart) (v : Nat → Word) : Hart :=
  { h with vstart := v 0x800, vkeep := field (v 0x801) 0 32, vxrm := field (v 0x804) 0 2, vfrm := field (v 0x805) 0 3
           vxsat := wbit (v 0x806) 0, vfflags := field (v 0x807) 0 5, vcarryFmt := field (v 0x808) 32 6
           vcarryRes := field (v 0x808) 0 32, atag := field (v 0x809) 0 16, sdisc := wbit (v 0x80A) 0
           uiePie := wbit (v 0x810) 1, uieIe := wbit (v 0x810) 0, uepc := field (v 0x811) 2 46 ++ 0#2
           ucause := field (v 0x812) 0 8, xtid := field (v 0x813) 0 16, xhandler := field (v 0x814) 0 48, xstat := v 0x815
           srbase := field (v 0x818) 12 36, srhead := v 0x819, srFlt := wbit (v 0x81A) 8, srK := field (v 0x81A) 1 5
           srEn := wbit (v 0x81A) 0, asampN := field (v 0x820) 0 5, aseed := v 0x821, ahist := field (v 0x822) 12 36
           athrBin := field (v 0x823) 32 5, athrCount := field (v 0x823) 0 32, actlHandler := field (v 0x824) 0 16
           wpsk := wbit (v 0x500) 3, tact := wbit (v 0x500) 1, spp := wbit (v 0x500) 0, stvec := field (v 0x501) 2 46
           sepc := v 0x502 &&& ~~~ 3#64, scause := field (v 0x503) 0 8, stval := v 0x504, cvRestart := field (v 0x505) 16 6
           cvDone := field (v 0x505) 8 6, cvMember := field (v 0x505) 0 3, vl := field (v 0xC20) 0 17, vrows := field (v 0xC21) 0 17
           vcols := field (v 0xC22) 0 17, vtEew := field (v 0xC23) 2 2, vtGrp := field (v 0xC23) 0 2, vlb := field (v 0xC24) 0 14
           tsm := field (v 0xC28) 0 8, tsn := field (v 0xC29) 0 8, tsk := field (v 0xC2A) 0 16, tfKind := field (v 0xC2B) 13 2
           tfSat := wbit (v 0xC2B) 12, tfTile := field (v 0xC2B) 10 2, tfB := field (v 0xC2B) 5 5, tfA := field (v 0xC2B) 0 5 }

/-- An entry of the transfer status table (10 R470): `known` are transfers known to have ended since, `sorts` the ids of sorts. -/
def xferOf (w0 w1 : Word) (known : List Xfer) (sorts : List (BitVec 16)) : Option Xfer :=
  if ¬ wbit w1 0 ∨ wfield w0 62 2 = 0 then none
  else
    let id : BitVec 16 := field w1 48 16
    let st : XferState := if wfield w0 62 2 = 1 then .running else if wfield w0 62 2 = 2 then .done else .failed
    let x : Xfer := { id := id, state := st, code := field w0 48 8, addr := field w0 0 48, irq := wbit w1 1
                      handler := field w1 2 46 ++ 0#2, sort := sorts.contains id, order := wfield w0 56 6 }
    match known.find? (fun k => k.id = id && k.state ≠ .running) with
    | some k => some (if st = .running then { x with state := k.state, code := k.code, addr := k.addr, order := 64 + k.order } else x)
    | none => some x

/-- What a hart loads from its frame (10 R262, R264, R470). -/
def loadHart (s : State) (g : Gang) (f : Nat) (h : Hart) (known : List Xfer) (sorts : List (BitVec 16)) : Except FrameFault Hart := do
  let base := f + frameHart g h.rank.toNat
  let vm := frameVmax g
  let xb ← frameRead s g.ctx (pages 256) base 256
  let cb ← frameRead s g.ctx (pages 0x600) (base + 0x100) 0x600
  let word (b : List Byte) (o : Nat) : Word := BitVec.ofNat 64 (leNat ((b.drop o).take 8))
  let csr (n : Nat) : Word := word cb (if n < 0x800 then 0x300 + 8 * (n - 0x500) else if n < 0xC00 then 0x100 + 8 * (n - 0x800) else 0x330 + 8 * (n - 0xC20))
  let map := word cb 0x10
  let h := h.loadCsrs csr
  let n := h.vlb.toNat
  let img (on : Bool) (at' k : Nat) : Except FrameFault Nat :=
    if on then (frameRead s g.ctx (pages k) at' k).map leNat else .ok 0
  let ms ← (List.range 8).mapM (fun i => img (wbit map (32 + i)) (base + 0x1000 + i * vm) n)
  let vs ← (List.range 32).mapM (fun i => img (wbit map i) (base + 0x1000 + 8 * vm + i * vm) n)
  let as ← (List.range 4).mapM (fun i =>
    img (wbit map (40 + i) && i < h.tiles.toNat) (base + 0x1000 + 40 * vm + 65536 * i) 65536)
  let xfers := (List.range 32).filterMap (fun i => xferOf (word cb (0x400 + 16 * i)) (word cb (0x408 + 16 * i)) known sorts)
  .ok { h with pc := keepField (word cb 0) 2 46, sup := wbit (word cb 8) 0, vlb0 := field (word cb 0x18) 0 14
               x := Vector.ofFn (fun (i : Fin 32) => if i.val = 0 then 0 else word xb (8 * i.val))
               v := Vector.ofFn (fun (i : Fin 32) => vs.getD i.val 0), m := Vector.ofFn (fun (i : Fin 8) => ms.getD i.val 0)
               acc := Vector.ofFn (fun (i : Fin 4) => as.getD i.val 0), vdirty := 0, vispend := word cb 0x390, xfers := xfers
               xferEnded := 64 + h.xferEnded }

/-! ### A gang from its frame (10 R266) -/

/-- The gang's words of its frame's gang block, taken as written (10 R470); one whose queue id names no queue of its context any more keeps its
attributes, as after a deletion (05 R135; DEDUCED, log 55). -/
def Gang.loadBlock (s : State) (g : Gang) (w : Nat → Word) : Gang :=
  let q : BitVec 16 := field (w 1) 0 16
  let named : Bool := (tget s.queues q.toNat).any (fun d => d.ctx = g.ctx)
  { g with queue := q, orphan := if q = g.queue then g.orphan else !named, prio := field (w 1) 16 3, task := { g.task with w0 := w 2, w2 := w 3 }
           barGen := field (w 4) 0 32, barArr := w 5, ended := w 6 }

/-- Words of a frame's bytes. -/
def wordAt (b : List Byte) (i : Nat) : Word := BitVec.ofNat 64 (leNat ((b.drop (8 * i)).take 8))

/-- A saved gang as its frame has it, where it can be read. -/
def reblock (s : State) (p : Nat × Gang) : Nat × Gang :=
  match p.2.frame with
  | none => p
  | some f =>
    match frameRead s p.2.ctx (pages 64) f 64 with
    | .ok b => (p.1, p.2.loadBlock s (wordAt b))
    | .error _ => p

/-- The saved gangs as their frames have them (10 R470). -/
def savedGangs (s : State) : List (Nat × Gang) := (s.gangs.filter (fun p => p.2.saved)).map (reblock s)

/-- The VLB of a saved rank, as its frame has it (10 R470). -/
def savedVlb (s : State) (g : Gang) (rank : Nat) : Nat :=
  let kept := ((tget g.carry rank).map (fun c => c.vlb.toNat)).getD g.grant.toNat
  match g.frame with
  | none => kept
  | some f =>
    match frameRead s g.ctx 2 (f + frameHart g rank + 0x450) 8 with
    | .ok b => (field (wordAt b 0) 0 14 : BitVec 14).toNat
    | .error _ => kept

/-- A gang goes by another id (10 R470): what names it does too. -/
def State.renameGang (s : State) (old new : BitVec 16) : State :=
  let n (g : BitVec 16) : BitVec 16 := if g = old then new else g
  let rel (r : Release) : Release := { r with gang := n r.gang }
  { s with tickets := s.tickets.map (fun t => { t with holder := t.holder.map (fun h => (n h.1, h.2)) })
           dies := s.dies.map (fun (d : Nat × Die) => (d.1, { d.2 with sort := d.2.sort.map (fun x => { x with gang := n x.gang, rel := rel x.rel }) }))
           queues := s.queues.map (fun (q : Nat × Queue) => (q.1, { q.2 with recs := q.2.recs.map (fun r => { r with rel := r.rel.map rel }) }))
           park := s.park.map (fun p => { p with rel := p.rel.map rel })
           ltransit := s.ltransit.map (fun w => { w with gang := n w.gang }), lwrites := s.lwrites.map (fun w => { w with gang := n w.gang })
           gangs := tdel s.gangs old.toNat }

/-- The id that a resumed gang takes: the written one, unless another gang has it (10 R470; DEDUCED, log 55). -/
def blockId (s : State) (id : BitVec 16) (w : Nat → Word) : BitVec 16 :=
  let new : BitVec 16 := field (w 0) 0 16
  if new = 0xFFFF ∨ (tget s.gangs new.toNat).isSome then id else new

/-- A bank of a resumed gang: keep and F banks hold their saved contents, discard banks read as zero (07 R181). -/
def loadBank (s : State) (id : BitVec 16) (g : Gang) (f k i : Nat) (w0 w1 : Word) : Except FrameFault (Nat × Bank) := do
  let ring := wfield w0 1 2 = BankMode.F.code
  let kept := wbit w0 0 || ring
  let bs ← if kept then frameRead s g.ctx (pages 24576) (f + 0x1000 + 24576 * k) 24576 else .ok []
  .ok (i, { Bank.reset i with mode := if ring then .F else .S, holder := .gang g.ctx id, keep := wbit w0 0, stream := field w0 4 3
                              head := if ring then wfield w1 32 16 % 49152 else 0, tail := if ring then wfield w1 16 16 % 49152 else 0
                              arr := if ring then wfield w1 0 16 % 49152 else 0, data := leNat bs })

/-- A slot's new hart of a gang, with the values of 05 R121 that do not come from the record. -/
def seatHart (s : State) (id : BitVec 16) (g : Gang) (rank : Nat) (r : HartRef) : Hart :=
  { Hart.empty with live := true, core := r.core, slot := r.slot, ctx := g.ctx, gang := id, rank := BitVec.ofNat 6 rank
                    gsize := BitVec.ofNat 7 (gszOf g.task + 1), tiles := BitVec.ofNat 3 (tilesOf g.task), grow := wbit g.task.w0 25
                    vlb := g.grant, vlb0 := g.grant, stripStart := s.cycles }

/-- What a rank keeps beside its frame is its own again (10 R261). -/
def Hart.uncarry (h : Hart) (c : Carry) (cycles : Nat) : Hart :=
  { h with instret := c.instret, dtimeLast := c.dtimeLast, stripStart := cycles - c.stripCycles, stripCoins := c.stripCoins
           stripArith := c.stripArith, stripMem := c.stripMem, posted := c.posted, postSeq := c.postSeq, maxV := c.maxV }

/-- The tiles whose serving ticket a hart holds (13 R358). -/
def tilesHeld (s : State) (c : BitVec 8) (id : BitVec 16) (rank : Nat) : List (BitVec 20) :=
  (s.tickets.filter (fun t => t.ctx = c && t.holder = some (id, BitVec.ofNat 6 rank))).map (fun t => t.tile)

/-- A running sort of a resumed hart: its ranges are in the new core's ARIT (09 R235). -/
def State.enterSort (s : State) (h : Hart) (id : BitVec 16) : State :=
  let mine (x : EngXfer) : Bool := x.gang = h.gang && x.rank = h.rank && x.id = id
  match s.dies.findSome? (fun d => d.2.sort.find? mine) with
  | none => s
  | some x =>
    let (r, w) := sortRanges x.blk
    let s := s.modCore h.core (fun c => { c with arit := c.arit ++ [{ slot := h.slot, id := id, rlo := r.1, rhi := r.2, wlo := w.1, whi := w.2 }] })
    { s with dies := s.dies.map (fun d => (d.1, { d.2 with sort := d.2.sort.map (fun y => if mine y then { y with core := h.core, slot := h.slot } else y) })) }

/-- Every living rank was saved at VSETVL.B or VSETSHAPE.B (05 R135). -/
def regrants (g : Gang) : Bool := g.boundary ||| g.ended = BitVec.ofNat 64 (2 ^ (gszOf g.task + 1) - 1)

/-- One rank of a resumed gang takes its slot. -/
def resumeRank (id : BitVec 16) (g : Gang) (f : Nat) (sdisc : Bool) (s : State) (p : Nat × HartRef) : Except FrameFault State := do
  let rank := p.1
  let st ← frameRead s g.ctx 2 (f + frameHart g rank + 0x108) 8
  if nbit (leNat st) 1 ∨ wbit g.ended rank then
    .ok (s.modGang id (fun g => { g with ended := bset g.ended rank true }))
  else
    let c := tget g.carry rank
    let known := (c.map (fun c => c.ended)).getD []
    let seat := { seatHart s id g rank p.2 with xferEnded := (c.map (fun c => c.xferEnded)).getD 0 }
    let h ← loadHart s g f seat known ((c.map (fun c => c.sorts)).getD [])
    let h := match c with
      | some c => h.uncarry c s.cycles
      | none => h
    let h := { h with held := tilesHeld s g.ctx id rank, sdisc := h.sdisc || sdisc, wait := s.waitBack h }
    let s := { s with harts := s.harts ++ [h] }
    let s := (h.xfers.filter (fun x => x.state = .running)).foldl (fun s x => s.enterSort h x.id) s
    .ok (if regrants g then ((s.select h.ref).rebind g.grant.toNat).modHart h.ref (fun h => { h with vlb0 := g.grant }) else s)

/-- A saved gang takes slots and banks again and loads its frame (10 R266, 05 R135, 07 R181). -/
def resumeGang (s : State) (id : BitVec 16) (g : Gang) (f : Nat) (cl : BitVec 5) (seats : List HartRef) (banks : List Nat) :
    Except FrameFault State := do
  let n := 0x40 + 16 * banks.length
  let b ← frameRead s g.ctx (pages n) f n
  let word := wordAt b
  let g := g.loadBlock s word
  let old := id
  let id := blockId s old word
  let s := if id = old then s else s.renameGang old id
  let bs ← banks.zipIdx.mapM (fun p => loadBank s id g f p.2 (192 * cl.toNat + p.1) (word (8 + 2 * p.2)) (word (9 + 2 * p.2)))
  let sdisc := bs.any (fun p => !p.2.keep && p.2.mode != .F)
  let g := { g with cluster := cl, banks := banks, saved := false, savedRanks := 0, preempt := false }
  let s := { bs.foldl (fun s p => s.setBank p.1 p.2) s with gangs := tset s.gangs id.toNat g }
  let s ← (seats.zipIdx.map (fun p => (p.2, p.1))).foldlM (resumeRank id g f sdisc) s
  .ok (s.modGang id (fun g => { g with boundary := 0, carry := [] }))

end Sys2Proof.Machine
end

