-- ==== Sys2Proof/Machine/Debug.lean ====
section
/-!
DEFINITION. Debug (10 R270 to R272), the counter trigger and latch (R276, R277), and fatal-fault dumps (R267 to R269).
-/
namespace Sys2Proof.Machine

/-! ### Halting and running -/

/-- The hart is at an instruction boundary: its convoys have drained, and no instruction has asked something. -/
def Hart.between (h : Hart) : Bool :=
  h.disp.isEmpty && h.replies.isEmpty && (match h.wait with
    | .reply _ => false
    | .stv _ _ => false
    | _ => true)

/-- `dbstat.halted`: the core is told to stop, and its harts stand at boundaries (10 R270). -/
def coreHalted (s : State) (core : BitVec 8) : Bool :=
  (s.core core).dHalted && (s.core core).stepping.isNone && (s.coreHarts core).all Hart.between

/-- DBCTL_HALT (10 R270). -/
def execDbctlHalt (core : BitVec 8) (s : State) : Out :=
  if (s.core core).dHalted ∧ (s.core core).stepping.isNone then .next s
  else .next (s.modCore core (fun c => { c with dHalted := true, dReason := 1, stepping := none, stepBegan := false, snapped := false }))

/-- A hart whose state lies in the core: it is neither saved nor stopped by its context. -/
def Hart.inCore (h : Hart) : Bool := h.wait ≠ .saved && h.wait ≠ .ended && h.wait ≠ .halted

/-- Write a halted hart into its gang's frame, if it has one (10 R264, R270). -/
def State.snapHart (s : State) (r : HartRef) : State :=
  match (s.findHart r).bind (fun h => tget s.gangs h.gang.toNat) with
  | none => s
  | some g =>
    match g.frame with
    | none => s
    | some f =>
      let s := s.select r
      (frameOr s g.ctx s.hart.gang s.hart.pc ((saveImages s g f).bind (fun s => endedWords s g f))).modHart r (fun h => { h with vdirty := 0 })

/-- A gang of the core's harts has no frame. -/
def frameless (s : State) (core : BitVec 8) : Bool :=
  (s.coreHarts core).any (fun h => (tget s.gangs h.gang.toNat).any (fun g => g.frame.isNone))

/-- DBCTL_SNAP (10 R270). -/
def execDbctlSnap (core : BitVec 8) (s : State) : Out :=
  if coreHalted s core then
    let s := ((s.coreHarts core).filter Hart.inCore).foldl (fun s h => s.snapHart h.ref) s
    .next (s.modCore core (fun c => { c with snapped := true, dNosnap := frameless s core }))
  else .next s

/-- What a hart loads from its frame at a resumption after a snap; one whose pc the debugger moved no longer waits. -/
def reloadHart (s : State) (g : Gang) (f : Nat) (h : Hart) : Except FrameFault Hart :=
  (loadHart s g f h h.xfers ((h.xfers.filter (fun x => x.sort)).map (fun x => x.id))).map (fun k =>
    if k.pc = h.pc then k else { k with wait := s.waitBack k, replies := [], rep := none, cvRestart := k.cvRestart })

/-- Reload a halted hart from its gang's frame. -/
def State.unsnapHart (s : State) (h : Hart) : State :=
  match tget s.gangs h.gang.toNat with
  | none => s
  | some g =>
    match g.frame with
    | none => s
    | some f =>
      match reloadHart s g f h with
      | .ok k => s.modHart h.ref (fun _ => k)
      | .error (cause, addr) => s.fatalError g.ctx cause h.gang h.pc addr

/-- DBCTL_RESUME (10 R270). -/
def execDbctlResume (core : BitVec 8) (s : State) : Out :=
  if coreHalted s core then
    let s := if (s.core core).snapped then ((s.coreHarts core).filter Hart.inCore).foldl (fun s h => s.unsnapHart h) s else s
    .next (s.modCore core (fun c => { c with dHalted := false, dReason := 0, dRstep := 0, snapped := false }))
  else .next s

/-! ### Stepping (10 R272) -/

/-- Start a step of hart `shart`. -/
def State.startStep (s : State) (core : BitVec 8) (rep : Bool) : State :=
  if coreHalted s core ∧ (s.findHart { core := core, slot := (s.core core).dShart }).isSome then
    s.modCore core (fun c => { c with stepping := some rep, stepBegan := false, dRstep := if rep then c.dRstep else 0 })
  else s

/-- DBCTL_STEP (10 R272). -/
def execDbctlStep (core : BitVec 8) (s : State) : Out := .next (s.startStep core false)
/-- DBCTL_STEPREP (10 R272). -/
def execDbctlSteprep (core : BitVec 8) (s : State) : Out := .next (s.startStep core true)

/-- The stepped hart's instruction, convoy or repeat step is over. -/
def stepOver (s : State) (core : BitVec 8) : Bool :=
  (s.core core).stepping.isSome && (s.core core).stepBegan
    && (match s.findHart { core := core, slot := (s.core core).dShart } with
        | none => true
        | some h => h.disp.isEmpty && (h.wait = .none || !h.inCore))

/-- STEP_COMPLETE (10 R272): the core halts again with reason 4. -/
def execStepComplete (core : BitVec 8) (s : State) : Out :=
  if stepOver s core then
    .next (s.modCore core (fun c =>
      { c with stepping := none, stepBegan := false, dHalted := true, dReason := 4, dHart := c.dShart }))
  else .next s

/-- The TMAC with rep above 1 in a convoy of the current hart, and the members before it: place, member fields. -/
def repPlace (bodies : List Word) : Option (Nat × Body) :=
  match bodies.zipIdx.find? (fun p => (bodyOp p.1).1 = 5 && (bodyOp p.1).2 = 1 && 1 < mRep (bodyOf p.1)) with
  | some (w, j) => some (j, bodyOf w)
  | none => none

/-- One repeat step of a TMAC, which has more to come: the rows of the step reach the tile. -/
def Hart.repRows (h : Hart) (b : Body) (done : BitVec 6) (c : Captured) : Hart :=
  let k := h.rep.elim 0 (fun r => r.steps)
  let m := tmacRows b h
  { h.tmacPart b (min m (k * h.rowsPerReg)) (min m ((k + 1) * h.rowsPerReg)) with
    rep := some { steps := k + 1, orig := h.rep.elim (h.tile (mTile b)) (fun r => r.orig), done := done, cap := c } }

/-- A repeat step of the current hart is counted. -/
def State.repCount (s : State) (k : Nat) : State :=
  s.modCore s.hart.core (fun c => { c with dRstep := BitVec.ofNat 4 k, stepBegan := true })

/-- `steprep` at a lone TMAC. -/
def State.repLone (s : State) (b : Body) : Out :=
  let k := s.hart.rep.elim 0 (fun r => r.steps) + 1
  let bad := s.hart.cvUse.1 ≠ 0 ∨ mRep b ≤ k ∨ (memberChecks
    [{ cls := 5, body := b, word := encodeBody 5 0x01 b, m := tmacMember b s.hart.blocky }] (loneHeader 5) s.hart.captured 0 0 s.hart).isSome
  if bad then execTmac b (s.repCount k) else .next ((s.repCount k).withHart (fun h => h.repRows b 0 h.captured))

/-- `steprep` at a convoy with a TMAC at place `j`: the members before it complete first (16 R429). -/
def State.repConvoy (s : State) (hdr : BitVec 32) (bodies : List Word) (j : Nat) (b : Body) : Out :=
  let h := s.hart
  let k := h.rep.elim 0 (fun r => r.steps) + 1
  let done := h.cvUse.1 &&& memberBits hdr
  let restart := h.cvUse.2 &&& memberBits hdr &&& ~~~ done
  let before : BitVec 6 := BitVec.ofNat 6 (2 ^ j - 1)
  if h.rep.isSome then
    if k < mRep b then .next ((s.repCount k).withHart (fun h => h.repRows b (h.rep.elim 0 (fun r => r.done)) (h.rep.elim h.captured (fun r => r.cap))))
    else execConvoy hdr bodies (s.repCount k)
  else if wbit done j ∨ mRep b ≤ k ∨ (convoyChecks hdr bodies h.captured done restart h).isSome then execConvoy hdr bodies (s.repCount k)
  else
    match perform ((placedOf bodies h.captured h).take j) h.captured (wbit hdr 28) done restart s with
    | .ok s => .next ((s.repCount k).withHart (fun h => { h with replies := [] }.repRows b (done ||| before) h.captured))
    | .trap cause tval cv s => .next ((s.repCount k).takeTrap cause tval (some cv))
    | .need n => .next (s.applyNeed n)

/-- What `steprep` makes the current hart do; at an instruction that is no such convoy it does nothing, and the core stays halted. -/
def State.repStep (s : State) : Out :=
  let none' : Out := .next (s.modCore s.hart.core (fun c => { c with stepping := none }))
  match s.fetch with
  | (.trap _ _ _ _, _) => none'
  | (.bytes bs, t) =>
    match decode bs with
    | .ok (.tmac b, _) => if 1 < mRep b then t.repLone b else none'
    | .ok (.convoy hdr bodies, _) =>
      match repPlace bodies with
      | some (j, b) => t.repConvoy hdr bodies j b
      | none => none'
    | _ => none'

/-! ### Counter triggers (10 R276, R277) -/

/-- PMTRIG_WRITE (10 R277). -/
def execPmtrigWrite (t : Word) (s : State) : Out := .next (s.setTrigger t)

/-- COUNTER_LATCH (10 R277): at the first tick at or after the trigger's time. -/
def execCounterLatch (s : State) : Out :=
  if s.pkg.pmPending ∧ s.pkg.pmtrig.toNat ≤ s.pkg.dtime.toNat then .next (s.latch s.pkg.dtime.toNat) else .next s

/-! ### Dumps (10 R267 to R269) -/

/-- DUMP_START (10 R269): the oldest waiting dump, when none is being written. -/
def execDumpStart (s : State) : Out :=
  match s.dumpCtx, s.dumpWaiting with
  | none, c :: rest => .next { s with dumpCtx := some c, dumpWaiting := rest }
  | _, _ => .next s

/-- The gangs of a context, resident and saved, in ascending id. -/
def dumpGangs (s : State) (c : BitVec 8) : List (Nat × Gang) := s.gangs.filter (fun p => p.2.ctx = c)

/-- Where a gang's image starts, and where each image of a list ends, from an offset on (10 R267). -/
def dumpPlaces : Nat → List (Nat × Gang) → List (Nat × Gang × Nat)
  | _, [] => []
  | at', (id, g) :: rest => (id, g, roundUp at' 4096) :: dumpPlaces (roundUp at' 4096 + frameSize g) rest

/-- The header (10 Table 10.8). -/
def dumpHeader (s : State) (c : BitVec 8) (flags written : Nat) (places : List (Nat × Gang × Nat)) : List Byte :=
  let x := s.ctx c
  let recs := x.dumpRecs.flatMap FaultRec.bytes
  [0x47444D5000010000, flags, written, (gidOf s c).toNat, x.dumpRecs.length, places.length, 0, 0].flatMap (fun (v : Nat) => leBytes 8 v)
    ++ recs ++ List.replicate (512 - recs.length) (0 : Byte)
    ++ places.flatMap (fun (p : Nat × Gang × Nat) => leBytes 8 p.1 ++ leBytes 8 (p.2.2 <<< 16))

/-- What a save of every hart of a gang, as it stands, would leave in its frame, over what the frame holds. It is written into a memory
of its own through one-to-one tables, of which only the frame is read back. -/
def liveImage (s : State) (id : Nat) (g : Gang) (old : List Byte) : List Byte :=
  let base := 0x40000000
  let table := 0x10000
  let mem := memWrite [] table (leBytes 8 (table + 0x1001))
  let mem := memWrite mem (table + 0x1008) (leBytes 8 (base + 0xC7))
  let t := { s with mem := memWrite mem base old, poison := []
                    ctxs := tset s.ctxs g.ctx.toNat { s.ctx g.ctx with ptbase := BitVec.ofNat 64 table } }
  let one (t : State) (h : Hart) : State :=
    match saveImages (t.select h.ref) g base with
    | .ok u => u
    | .error _ => t
  let t := (s.gangHarts (BitVec.ofNat 16 id)).foldl one t
  match (endedWords t g base).bind (fun t => saveGang t id g base) with
  | .ok u => memRead u.mem base (frameSize g)
  | .error _ => memRead t.mem base (frameSize g)

/-- The image of a gang: a saved one's is its frame, as far as it can be read; a resident one's is what a save would write
(10 R264, R267). -/
def dumpImage (s : State) (id : Nat) (g : Gang) : Except FrameFault (List Byte) :=
  match g.frame with
  | some f =>
    if g.saved then frameRead s g.ctx (pages (frameSize g)) f (frameSize g)
    else if g.framed = 0 then .ok (liveImage s id g [])
    else (frameRead s g.ctx (pages (frameSize g)) f (frameSize g)).map (liveImage s id g)
  | none => .ok (liveImage s id g [])

/-- The image of a gang of whose frame a byte cannot be read: what can be, and free bytes for the rest (log 1). -/
def salvage (s : State) (g : Gang) : List Byte × State :=
  let n := frameSize g
  let part (free k : Nat) : List Byte :=
    match g.frame.map (fun f => frameRead s g.ctx 2 (f + 32 * k) 32) with
    | some (.ok bs) => bs
    | _ => leBytes 32 (free >>> (256 * k))
  let (free, s) := s.freshImage (8 * n)
  ((List.range (n / 32)).flatMap (part free), s)

/-- Write an image up to the region's size: where it ends, and whether the region is full. -/
def putImage (s : State) (base size off n : Nat) (bs : List Byte) : Nat × Bool × State :=
  if size < off + bs.length then
    let part := bs.take (size - off)
    (if part = [] then n else off + part.length, true, s.putMem (base + off) part)
  else (off + bs.length, false, s.putMem (base + off) bs)

/-- Write images up to the region's size: the bytes written end there, whether it is full, and the first gang whose frame cannot be read,
whose image is the last (10 R267, R268). -/
def dumpImages (s : State) (base size : Nat) : List (Nat × Gang × Nat) → Nat → Nat × Bool × Option (Nat × FrameFault) × State
  | [], n => (n, false, none, s)
  | (id, g, off) :: rest, n =>
    match dumpImage s id g with
    | .error f =>
      let (bs, s) := salvage s g
      let (n, full, s) := putImage s base size off n bs
      (n, full, some (id, f), s)
    | .ok bs =>
      let (n, full, s) := putImage s base size off n bs
      if full then (n, true, none, s) else dumpImages s base size rest n

/-- The images written: all of them, or the faulting hart's gang's when a fault came after the start, before any image (10 R268). -/
def dumpCut (s : State) (c : BitVec 8) (places : List (Nat × Gang × Nat)) : List (Nat × Gang × Nat) :=
  match (s.ctx c).dumpFault with
  | some g => places.filter (fun p => g.toNat = p.1)
  | none => places

/-- The fault record of an error met while a dump reads a gang's state (10 R268). -/
def dumpReadFault (s : State) (f : Nat × FrameFault) : FaultRec := faultRec s 1 f.2.1 (BitVec.ofNat 16 f.1) 0xFFFF 0xFFFF f.2.2 0

/-- The dump of a context: its images, then its header (10 R267, R268). -/
def State.writeDump (s : State) (c : BitVec 8) : State :=
  let x := s.ctx c
  let base := x.dumpbase.toNat
  let size := x.dumpsize.toNat
  let places := dumpPlaces (dumpHeadSize (dumpGangs s c).length) (dumpGangs s c)
  let head := dumpHeadSize places.length
  if size < head then s
  else
    let (n, full, flt, s) := dumpImages s base size (dumpCut s c places) head
    let s := match flt with
      | none => s
      | some f => ((if f.2.1 = 0x15 then s.countUe else s).postFault c (dumpReadFault s f)).modCtx c (fun x =>
          { x with dumpRecs := if x.dumpRecs.length < 16 then x.dumpRecs ++ [dumpReadFault s f] else x.dumpRecs, dumpFault := some (BitVec.ofNat 16 f.1) })
    let bad := (s.ctx c).dumpFault.isSome
    let flags := (!bad && !full).toNat + 2 * bad.toNat + 4 * full.toNat
    s.putMem base (dumpHeader s c flags n places)

/-- DUMP_COMPLETE (10 R267): the dump is written and its context enters DEAD; a reset held for it begins (R269). -/
def execDumpComplete (s : State) : Out :=
  match s.dumpCtx with
  | none => .next s
  | some c =>
    let s := s.writeDump c
    let s := { s with dumpCtx := none }.modCtx c (fun x => { x with state := .dead })
    .next (if (s.ctx c).resetHeld then s.resetStart c else s)

end Sys2Proof.Machine
end

