-- ==== Sys2Proof/Machine/Packets.lean ====
section
/-!
DEFINITION. Packets of the memory, atomic, host and invocation classes at the device they are for (03 R66 to R71; 04 R104; 08 R202,
R205, R209 to R211; 09 R243), and the answers the host port gives.
-/
namespace Sys2Proof.Machine

/-! ### Answers -/

/-- The request that a packet answers: its tag, and the device it was sent to (01 R32). -/
def State.answered (s : State) (p : Packet) : Option Request := s.fab.reqs.find? (fun r => r.tag = p.tag ∧ r.dst = p.src)

/-- A packet ends the request it answers. -/
def State.finishBy (s : State) (p : Packet) (status : BitVec 8) (data : List Byte) (d : Nat) : State :=
  match s.answered p with
  | some r => s.finishReq r status data d
  | none => s

/-- The status in bits [63:56] of the content's first word (08 Tables 8.3, 8.4). -/
def pstatus (p : Packet) : BitVec 8 := field (pword p 0) 56 8

/-- The status of an error response: never that of success. -/
def errStatus (st : BitVec 8) : BitVec 8 := if st = 0 then 4 else st

/-- The bytes of a packet's content after its first word. -/
def pdata (p : Packet) : List Byte := wordsBytes p.body.tail

/-- Answer a memory, atomic or host packet to its source. -/
def State.respond (s : State) (p : Packet) (op : BitVec 5) (body : List Word) : State :=
  s.sendAnswer (s.mkPacket p.src p.cls op p.tag 0 body)

/-- A status word. -/
def statusWord (st : Nat) : Word := BitVec.ofNat 64 (st <<< 56)

/-! ### Memory packets (08 R202, R210) -/

/-- An access within one line of context memory, by its length and address: else the status that refuses it. -/
def memRefusal (pa n : Nat) : Option Nat :=
  if 128 < pa % 128 + n then some 3 else if contextTop ≤ pa then some 2 else none

/-- The da bit that a line's home was found with: a packet does not carry its page's (DEDUCED, log 33). -/
def recordedDa (s : State) (line : Nat) : Bool := (tget s.lines line).elim false LLine.da

/-- MEMORY_READ (08 R210). -/
def execMemoryRead (p : Packet) (s : State) : Out :=
  let h := pword p 0
  let pa := wfield h 0 52
  let n := wfield h 55 7 + 1
  match memRefusal pa n with
  | some st => .next (s.respond p 4 [statusWord st])
  | none =>
    if poisoned s pa n then .next (s.countUe.respond p 4 [statusWord 1])
    else
      let da := recordedDa s (pa / 128)
      let s := s.scrubbed pa n
      let (d, s) := if wbit h 63 then
          let (e, s) := (s.homeLines none pa n da false).leaseGrant da (pa / 128) (wbit h 62)
          (e - s.pkg.dtime.toNat, s)
        else (0, s.atHome none pa n da false)
      .next (s.respond p 1 (BitVec.ofNat 64 (d % 2 ^ 17) :: bytesWords (memRead s.mem pa n)))

/-- MEMORY_READ_DATA (08 R202). -/
def execMemoryReadData (p : Packet) (s : State) : Out :=
  .next (s.finishBy p (pstatus p) (pdata p) (wfield (pword p 0) 0 17))

/-- A write of another device at its home (08 R205, R209, R210): a class L write takes its V, and is acknowledged when dtime reaches it. -/
def State.peerWrite (s : State) (p : Packet) (pa : Nat) (data : List Byte) (l : Bool) : State :=
  if l then
    let (v, s) := s.lArrive { core := 0, slot := 0, ctx := 0, gang := 0xFFFF, rank := 0, seq := 0, pa := pa, da := recordedDa s (pa / 128), data := data
                              v := 0, performed := false, foreign := true }
    State.lDue { s with peerAcks := s.peerAcks ++ [{ dst := p.src, tag := p.tag, v := v }] }
  else
    let s := s.atHome none pa data.length (recordedDa s (pa / 128)) true
    let s := s.breakLinks (pa / 128) (pa / 128) (fun _ => false)
    State.respond (s.putMem pa data) p 3 [0]

/-- MEMORY_WRITE (08 R210). -/
def execMemoryWrite (p : Packet) (s : State) : Out :=
  let h := pword p 0
  let pa := wfield h 0 52
  let n := wfield h 55 7 + 1
  match memRefusal pa n with
  | some st => .next (s.respond p 4 [statusWord st])
  | none => .next (s.peerWrite p pa ((pdata p).take n) (wbit h 62))

/-- MEMORY_WRITE_ACK (08 R210). -/
def execMemoryWriteAck (p : Packet) (s : State) : Out := .next (s.finishBy p (pstatus p) [] 0)

/-- MEMORY_ERROR_RESPONSE (08 R210). -/
def execMemoryErrorResponse (p : Packet) (s : State) : Out := .next (s.finishBy p (errStatus (pstatus p)) [] 0)

/-! ### Atomic packets (08 R211, 09 R243) -/

/-- The operation an atomic request asks for. -/
def atomicOf (p : Packet) : SauOp :=
  let h := pword p 0
  { host := p.ctx = 1, pa := wfield h 0 52, fn := field h 58 6, dbl := wbit h 57, a := pword p 1, b := pword p 2
    reply := some (p.src, p.tag), issuer := none }

/-- ATOMIC_REQUEST (08 R211; 09 R243 for host elements). -/
def execAtomicRequest (p : Packet) (s : State) : Out :=
  let o := atomicOf p
  if o.host ∧ ¬ s.fab.bridge then .next (s.sauRefuse o 3)
  else if 16 ≤ o.fn.toNat ∨ o.pa % sauBytes o ≠ 0 ∨ (o.fn.toNat = 13 ∧ ¬ o.dbl) then
    let (b, s) := s.freshBool
    .next (s.sauRefuse o (if b then 3 else 4))
  else if o.host then .next (if s.cxlCache then s.sauArrive (sauNewWait s o) else s.sauRefuse o 4)
  else if contextTop ≤ o.pa then .next (s.sauRefuse o 2)
  else if poisoned s o.pa (sauBytes o) then .next (s.countUe.sauRefuse o 1)
  else .next (s.sauArrive (sauNewWait s o))

/-- ATOMIC_RESPONSE (08 R211). -/
def execAtomicResponse (p : Packet) (s : State) : Out := .next (s.finishBy p (pstatus p) (leBytes 8 (pword p 1).toNat) 0)

/-- ATOMIC_ERROR_RESPONSE (08 R211). -/
def execAtomicErrorResponse (p : Packet) (s : State) : Out := .next (s.finishBy p (errStatus (pstatus p)) [] 0)

/-! ### Host packets (03 R71, R209) -/

/-- The length and address of a host packet (03 Table 3.3b). -/
def hostSpan (p : Packet) : Nat × Nat := (wfield (pword p 0) 56 8, wfield (pword p 0) 0 52)

/-- HOST_READ (03 R71): the bridge asks the host, and relays its answer. -/
def execHostRead (p : Packet) (s : State) : Out :=
  let (n, a) := hostSpan p
  if ¬ s.fab.bridge ∨ n = 0 ∨ 128 < n ∨ hostRejects s a n then .next (s.respond p 5 [1])
  else
    let (tag, s) := s.newTag
    let s := { s with hostOut := s.hostOut ++ [HostOut.memRead tag a n] }
    .next (s.await { tag := tag, dst := s.fab.devid, port := 0xF, since := s.pkg.dtime.toNat, waiter := .hostRead p.src p.tag, lease := none })

/-- HOST_READ_DATA (03 R71). -/
def execHostReadData (p : Packet) (s : State) : Out := .next (s.finishBy p (field (pword p 0) 0 8) (pdata p) 0)

/-- HOST_WRITE (03 R71, 08 R209): it is complete, and acknowledged, when the bridge has passed it to the host port. -/
def execHostWrite (p : Packet) (s : State) : Out :=
  let (n, a) := hostSpan p
  if ¬ s.fab.bridge ∨ n = 0 ∨ 128 < n ∨ hostRejects s a n then .next (s.respond p 5 [1])
  else .next (State.respond { s with hostOut := s.hostOut ++ [HostOut.write a ((pdata p).take n)] } p 3 [0])

/-- HOST_WRITE_ACK (08 R209). -/
def execHostWriteAck (p : Packet) (s : State) : Out := .next (s.finishBy p (field (pword p 0) 0 8) [] 0)

/-- HOST_ERROR_RESPONSE (03 R71): a failed access. -/
def execHostErrorResponse (p : Packet) (s : State) : Out := .next (s.finishBy p 0xFF [] 0)

/-- HOST_PORT_COMPLETION (03 R71): the host answers a read of the bridge, or refuses its address. -/
def execHostPortCompletion (tag : BitVec 10) (good : Bool) (data : List Word) (s : State) : Out :=
  match s.fab.reqs.find? (fun r => r.tag = tag ∧ r.dst = s.fab.devid) with
  | some r => .next (s.finishReq r (if good then 0 else 0xFF) (wordsBytes data) 0)
  | none => .next s

/-! ### Host insertions (03 R66 to R70, 05 R119) -/

/-- What an insertion meets at its device: its outcome of 03 Tables 3.3a and 3.3b (0 for accepted), and the state after it. -/
def insertMeets (s : State) (q : BitVec 16) (t : TaskRec) : Nat × State :=
  match tget s.queues q.toNat with
  | none => (3, s)
  | some d =>
    let st := (s.ctx d.ctx).state
    if st ≠ .running ∧ st ≠ .stopped then (3, s)
    else
      let t := plainTask t
      let lost (cause : BitVec 8) : Nat × State := (2, s.postFault d.ctx (faultRec s 5 cause 0xFFFF (handlerIdx t) q 0 0))
      if ¬ taskOk t then lost 0x0E
      else if d.depth < capRecords d.cap then (0, s.append q (qrec t none d.ctx 0))
      else
        match s.spill d.ctx q t true with
        | some s => (1, s)
        | none => lost 0

/-- The record of an insertion packet (04 Table 4.4). -/
def insertTask (p : Packet) : TaskRec :=
  { w0 := pword p 1, w1 := pword p 2, w2 := pword p 3, w3 := pword p 4, w4 := pword p 5, w5 := pword p 6, w6 := pword p 7, w7 := pword p 8 }

/-- The eight words of a record. -/
def taskWords (t : TaskRec) : List Word := [t.w0, t.w1, t.w2, t.w3, t.w4, t.w5, t.w6, t.w7]

/-- QUEUE_INSERTION_ARRIVAL (03 R69, 04 R104). -/
def execQueueInsertionArrival (p : Packet) (s : State) : Out :=
  if ¬ wbit (pword p 0) 32 then .next s
  else if p.src ≠ s.fab.master then .next (s.dropPacket p.port)
  else
    let q : BitVec 16 := field (pword p 0) 0 16
    let (o, s) := insertMeets s q (insertTask p)
    if o = 0 then .next s
    else .next (s.sendAnswer (s.mkPacket p.src 3 4 0 0 (BitVec.ofNat 64 (q.toNat + o <<< 16) :: taskWords (insertTask p))))

/-- Count a lost insertion (03 R69). -/
def State.insertLost (s : State) : State :=
  { s with pkg := { s.pkg with insLost := if s.pkg.insLost = BitVec.allOnes 32 then s.pkg.insLost else s.pkg.insLost + 1 } }

/-- INSERTION_REPORT (03 R69). -/
def execInsertionReport (p : Packet) (s : State) : Out := .next (if wfield (pword p 0) 16 8 = 1 then s else s.insertLost)

/-- The host port answers beyond the management block: the device bridges and is ready (02 R48). -/
def State.hostReady (s : State) : Bool := s.fab.bridge && s.pkg.bootState = 4

/-- The device a group slot names (03 R62): slot 0 is the bridge itself. -/
def State.slotDev (s : State) (slot : BitVec 4) : Option (BitVec 12) :=
  if slot = 0 then some s.fab.devid
  else if wbit (tgetD s.fab.grpmap slot.toNat 0) 63 then some (field (tgetD s.fab.grpmap slot.toNat 0) 0 12) else none

/-- HOST_INSERTION (03 R66, R67): taken when it is one whole aligned write, and then it waits for the host's earlier writes: those that other
devices have not acknowledged, and the visibility time of those performed here. -/
def execHostInsertion (slot : BitVec 4) (queue : BitVec 16) (off : BitVec 12) (whole : Bool) (rec : TaskRec) (s : State) : Out :=
  if ¬ s.hostReady then .next s
  else if ¬ whole ∨ off.toNat % 64 ≠ 0 then
    .next { s with pkg := { s.pkg with insBad := if s.pkg.insBad = 0xFFFF then 0xFFFF else s.pkg.insBad + 1 } }
  else
    let after := (s.fab.reqs.filter (fun r => r.waiter = .slotMgmt true)).map (fun r => r.tag)
    .next { s with insertions := s.insertions ++ [{ slot := slot, queue := queue, task := rec, after := after, vis := s.fab.hostVis }] }

/-- The host's writes before an insertion are complete and visible (03 R67). -/
def insertionReady (s : State) (i : Insertion) : Bool :=
  !s.fab.reqs.any (fun r => r.waiter = .slotMgmt true && i.after.contains r.tag) && decide (i.vis ≤ s.pkg.dtime.toNat)

/-- INSERTION_SEND (03 R67, R68): the oldest insertion leaves on channel INV0 once the writes before it are complete and visible. One to a slot
whose entry is invalid is counted as a lost insertion, and not as a failed management access too (DESIGN CHOICE, log 50). -/
def execInsertionSend (s : State) : Out :=
  match s.insertions with
  | [] => .next s
  | i :: rest =>
    if ¬ insertionReady s i then .next s
    else
      let s := { s with insertions := rest }
      match s.slotDev i.slot with
      | none => .next s.insertLost
      | some dev =>
        let p := { s.mkPacket dev 2 0 0 0 (BitVec.ofNat 64 (2 ^ 32 + i.queue.toNat) :: taskWords i.task) with chan := 2 }
        if i.slot = 0 then .next (s.sendSelf p)
        else match s.sendPacket p with
        | (.failed, s) => .next s.insertLost
        | (_, s) => .next s

/-- The status word of an insertion window (03 R70). -/
def insertStatus (s : State) (q : BitVec 16) : Word :=
  match tget s.queues q.toNat with
  | none => 0
  | some d => BitVec.ofNat 64 (1 <<< 63 + d.ctx.toNat <<< 32 + (capRecords d.cap - d.depth))

end Sys2Proof.Machine
end

