-- ==== Sys2Proof/Machine/Mgt.lean ====
section
/-!
DEFINITION. The management block and the bridge's windows (03 R61 to R65, R70; 01 R41, R42): reads and writes of every register, the
fabric registers' effects, management packets, the memory window and CXL.mem.
-/
namespace Sys2Proof.Machine

/-! ### The memory window (03 R64) -/

/-- The bytes of an 8-byte place that a half names: their offset and number. -/
def halfSpan : Half → Nat × Nat
  | .whole => (0, 8)
  | .low => (0, 4)
  | .high => (4, 4)
  | .odd => (0, 0)

/-- The bytes of a write that a half carries. -/
def halfBytes (h : Half) (data : Word) : List Byte := leBytes (halfSpan h).2 data.toNat

/-- The address behind an offset of the window. -/
def windowAt (s : State) (o : Nat) (h : Half) : Nat := s.pkg.mwbase.toNat + o + (halfSpan h).1

/-- Read through the window, as a class U access at the home. -/
def State.windowRead (s : State) (o : Nat) (h : Half) : Word × State :=
  let pa := windowAt s o h
  let n := (halfSpan h).2
  if contextTop < pa + n ∨ n = 0 then (BitVec.allOnes 64, s)
  else if poisoned s pa n then (BitVec.allOnes 64, s.countUe)
  else (BitVec.ofNat 64 (memNat s.mem pa n), (s.scrubbed pa n).atHome none pa n (recordedDa s (pa / 128)) false)

/-- When a write at a home that is performed now is visible to every reader (03 R67): a line with leases takes a visibility time. -/
def writtenVis (s : State) (pa n : Nat) : Nat :=
  ((linesOf pa n).map (fun l => if (tget s.lines l).isSome then visAt s (recordedDa s l) l else 0)).foldl max 0

/-- Write bytes at the home of an address of context memory, for the host. -/
def State.homeWrite (s : State) (pa : Nat) (bytes : List Byte) : State :=
  let s := { s with fab := { s.fab with hostVis := max s.fab.hostVis (writtenVis s pa bytes.length) } }
  let s := s.atHome none pa bytes.length (recordedDa s (pa / 128)) true
  let s := s.breakLinks (pa / 128) ((pa + bytes.length - 1) / 128) (fun _ => false)
  s.putMem pa bytes

/-- Write through the window. -/
def State.windowWrite (s : State) (o : Nat) (h : Half) (data : Word) : State :=
  let pa := windowAt s o h
  if contextTop < pa + (halfSpan h).2 ∨ h = .odd then s
  else if poisoned s pa (halfSpan h).2 then s.countUe
  else s.homeWrite pa (halfBytes h data)

/-- The host's read has its answer. -/
def State.hostAnswer (s : State) (v : Word) : State := { s with hostOut := s.hostOut ++ [.read v] }

/-- MEMORY_WINDOW_READ (03 R64). -/
def execMemoryWindowRead (off : BitVec 15) (half : Half) (s : State) : Out :=
  if badAccess off.toNat half then .next (s.hostAnswer (BitVec.allOnes 64))
  else
    let (v, s) := s.windowRead off.toNat half
    .next (s.hostAnswer v)

/-- MEMORY_WINDOW_WRITE (03 R64). -/
def execMemoryWindowWrite (off : BitVec 15) (half : Half) (data : Word) (s : State) : Out :=
  .next (if badAccess off.toNat half then s else s.windowWrite off.toNat half data)

/-- CXL_MEM_ACCESS (03 R64): the host reads or writes the bridge's context memory. -/
def execCxlMemAccess (pa : Nat) (wr : Option (List Byte)) (len : Nat) (s : State) : Out :=
  let give (bytes : List Byte) (bad : Bool) (s : State) : State := { s with hostOut := s.hostOut ++ [.memData bytes bad] }
  let absent : Bool := ¬ s.hostReady ∨ contextTop < pa + len
  match wr with
  | some data => .next (if absent then s else s.homeWrite pa (data.take len))
  | none =>
    if absent then .next (give (List.replicate len 0xFF) false s)
    else if poisoned s pa len then .next (give (memRead s.mem pa len) true s.countUe)
    else .next (give (memRead s.mem pa len) false ((s.scrubbed pa len).atHome none pa len (recordedDa s (pa / 128)) false))

/-! ### Reading the management block (03 Table 3.2) -/

/-- `lnkstat.state` codes (01 Table 1.9). -/
def LinkState.code : LinkState → Nat
  | .down => 0
  | .detect => 1
  | .train => 2
  | .align => 3
  | .param => 4
  | .active => 5
  | .retrain => 6

/-- `lnkstat` (01 Table 1.9). -/
def Link.stat (l : Link) : Word :=
  BitVec.ofNat 64 ((min l.fecfix 0xFFFF) <<< 48 + l.naks.toNat <<< 32 + l.retrains.toNat <<< 24 + l.peerid.toNat <<< 12
    + l.width.toNat <<< 4 + l.state.code)

/-- `bootstat` (02 Table 2.5). -/
def Pkg.bootstat (p : Pkg) : Word := (p.secver ++ p.minver ++ p.failcode ++ 0#12 ++ p.bootState : BitVec 64)
/-- `bootctl` (02 Table 2.6). -/
def Pkg.bootctl (p : Pkg) : Word := BitVec.ofNat 64 (4 * p.maint.toNat + 2 * p.stage.toNat)
/-- `errcnt` (02 Table 2.2). -/
def Pkg.errcnt (p : Pkg) : Word := (p.sramce ++ p.hbmce ++ p.ue ++ p.dreplay : BitVec 64)
/-- `insstat` (03 Table 3.3). -/
def Pkg.insstat (p : Pkg) : Word := (p.insMgtfail ++ p.insBad ++ p.insLost : BitVec 64)
/-- `qcmd` (05 Table 5.1). -/
def Pkg.qcmd (p : Pkg) : Word :=
  BitVec.ofNat 64 (p.qcBusy.toNat <<< 63 + p.qcResult.toNat <<< 48 + p.qcOp.toNat <<< 16 + p.qcQid.toNat)
/-- `ageidx` (02 Table 2.4). -/
def Cluster.aging (c : Cluster) : Word := BitVec.ofNat 64 (c.mwin.toNat <<< 32 + c.guard.toNat <<< 16 + c.ageIdx.toNat)
/-- `rtacc` as read (01 Table 1.12). -/
def Fabric.rtacc (f : Fabric) : Word := BitVec.ofNat 64 (f.rtIdx.toNat <<< 32 + (tgetD f.route f.rtIdx.toNat 0).toNat)

/-- `dbctl` as read (10 Table 10.9). -/
def Core.dbctl (c : Core) : Word :=
  BitVec.ofNat 64 (c.dShart.toNat <<< 12 + c.dTren.toNat <<< 7 + c.dWpact.toNat <<< 6 + c.dEbh.toNat <<< 5)
/-- `dbstat` (10 Table 10.9). -/
def dbstat (s : State) (core : BitVec 8) : Word :=
  let c := s.core core
  BitVec.ofNat 64 (c.dRstep.toNat <<< 24 + c.dHart.toNat <<< 20 + c.dReason.toNat <<< 16 + 2 * c.dNosnap.toNat + (coreHalted s core).toNat)

/-- `grpmap` (03 R62): entry 0 is the bridge itself. -/
def grpmapRead (s : State) (slot : Nat) : Word :=
  if slot = 0 then BitVec.ofNat 64 (2 ^ 63 + s.fab.devid.toNat) else tgetD s.fab.grpmap slot 0

/-- The word at an offset of a die's uncore counters (10 R276). -/
def uncoreRead (s : State) (d : BitVec 2) (off : Nat) : Word :=
  let u (k : Nat) : Uncore := tgetD (s.die d).uncore k { sel := 0, count := 0, shadow := 0 }
  if off < 0x40 then (u (off / 8)).sel
  else if off < 0x80 then (u ((off - 0x40) / 8)).count.setWidth 64
  else if off < 0xC0 then (u ((off - 0x80) / 8)).shadow.setWidth 64
  else if off = 0xC0 then s.pkg.pmLast else 0

/-- The word at an offset of the management block below the memory window, a multiple of 8. -/
def mgtRead (s : State) (off : Nat) : Word :=
  if off = 0x0000 then s.pkg.bootstat
  else if off = 0x0008 then s.pkg.bootctl
  else if off = 0x0040 then s.pkg.errcnt
  else if off = 0x0048 then s.pkg.thermctl
  else if 0x0100 ≤ off ∧ off < 0x0200 then (s.cluster (BitVec.ofNat 5 ((off - 0x100) / 8))).aging
  else if off = 0x0200 then s.fab.fabctl
  else if 0x0208 ≤ off ∧ off < 0x0288 then (s.link (BitVec.ofNat 4 ((off - 0x208) / 8))).stat
  else if off = 0x0288 then s.fab.nbcmd
  else if off = 0x0290 then s.fab.nbdata
  else if off = 0x0298 then s.fab.rtacc
  else if off = 0x0300 then s.pkg.mbxbase
  else if off = 0x0308 then (if s.fab.bridge then s.pkg.insstat else 0)
  else if off = 0x0310 then s.pkg.mwbase
  else if 0x0400 ≤ off ∧ off < 0x0480 then (if s.fab.bridge then grpmapRead s ((off - 0x400) / 8) else 0)
  else if 0x0500 ≤ off ∧ off < 0x0540 then dcfg ((off - 0x500) / 8)
  else if 0x2000 ≤ off ∧ off < 0x4000 then tgetD s.fab.xperm ((off - 0x2000) / 8) 0
  else if off = 0x4000 then s.pkg.qcmd
  else if off = 0x4008 then s.pkg.qattr
  else if off = 0x4010 then s.pkg.qlimit
  else if off = 0x4018 then s.pkg.qocc
  else if off = 0x4020 then s.pkg.qsfree.setWidth 64
  else if 0x5000 ≤ off ∧ off < 0x5400 then
    let c := s.cluster (BitVec.ofNat 5 ((off - 0x5000) / 32))
    match off % 32 with
    | 0 => c.hbkcmd
    | 8 => c.hbkstat
    | 16 => c.hbkfifo
    | _ => 0
  else if 0x5400 ≤ off ∧ off < 0x5800 then uncoreRead s (BitVec.ofNat 2 ((off - 0x5400) / 256)) (off % 256)
  else if off = 0x5800 then s.pkg.pmtrig
  else if 0x5900 ≤ off ∧ off < 0x5940 then
    let d := s.die (BitVec.ofNat 2 ((off - 0x5900) / 16))
    if off % 16 = 0 then d.sinkBase else d.sinkSize
  else if 0x6000 ≤ off ∧ off < 0x8000 then
    let core : BitVec 8 := BitVec.ofNat 8 ((off - 0x6000) / 32)
    match off % 32 with
    | 0 => (s.core core).dbctl
    | 8 => dbstat s core
    | 16 => (s.core core).dbbp
    | _ => (s.core core).dbwp
  else 0

/-- A read of the management block, the memory window among it. -/
def State.blockRead (s : State) (off : Nat) (h : Half) : Word × State :=
  if badAccess off h then (BitVec.allOnes 64, s)
  else if 0x8000 ≤ off then s.windowRead (off - 0x8000) h
  else (pickHalf h (mgtRead s off), s)

/-! ### Storing fields (03 R61, 00 R12) -/

/-- Write a die's uncore counter registers: selects and counts. -/
def State.uncoreStore (s : State) (d : BitVec 2) (off : Nat) (h : Half) (data : Word) : State :=
  let v := mergeHalf h (uncoreRead s d off) data
  let put (k : Nat) (f : Uncore → Uncore) : State :=
    s.modDie d (fun x => { x with uncore := tset x.uncore k (f (tgetD x.uncore k { sel := 0, count := 0, shadow := 0 })) })
  if off < 0x40 then put (off / 8) (fun u => { u with sel := keepField v 63 1 + keepField v 0 8 })
  else if off < 0x80 then put ((off - 0x40) / 8) (fun u => { u with count := field v 0 48 })
  else s

/-- Write a core's debug registers, the actions of `dbctl` apart. -/
def State.debugStore (s : State) (core : BitVec 8) (reg : Nat) (v : Word) : State :=
  match reg with
  | 0 => s.modCore core (fun c => { c with dShart := field v 12 4, dTren := wbit v 7, dWpact := wbit v 6, dEbh := wbit v 5 })
  | 16 => s.modCore core (fun c => { c with dbbp := keepField v 54 10 + keepField v 2 46 })
  | 24 => s.modCore core (fun c => { c with dbwp := v })
  | _ => s

/-- Store what a write carries in the registers and fields that have no row of their own. -/
def State.regStore (s : State) (off : Nat) (h : Half) (data : Word) : State :=
  let v := mergeHalf h (mgtRead s off) data
  let c := carried h data
  if off = 0x0040 then
    let e := s.pkg.errcnt &&& ~~~ c
    { s with pkg := { s.pkg with sramce := field e 48 16, hbmce := field e 32 16, ue := field e 16 16, dreplay := field e 0 16 } }
  else if off = 0x0200 then
    { s with fab := { s.fab with lrlim := if field v 16 16 = 0#16 then 1 else field v 16 16 } }
  else if off = 0x0288 then
    if h = .high ∧ ¬ wbit s.fab.nbcmd 63 then
      { s with fab := { s.fab with nbcmd := keepField s.fab.nbcmd 48 8 + keepField v 43 5 + keepField s.fab.nbcmd 0 16 } }
    else s
  else if off = 0x0290 then { s with fab := { s.fab with nbdata := v } }
  else if off = 0x0298 then
    { s with fab := { s.fab with rtIdx := field v 32 12, rtEntry := if h = .high then s.fab.rtEntry else field v 0 8 } }
  else if off = 0x0300 then { s with pkg := { s.pkg with mbxbase := v &&& ~~~ 0xFFF#64 } }
  else if off = 0x0308 then
    if s.fab.bridge then
      let e := s.pkg.insstat &&& ~~~ c
      { s with pkg := { s.pkg with insMgtfail := field e 48 16, insBad := field e 32 16, insLost := field e 0 32 } }
    else s
  else if off = 0x0310 then { s with pkg := { s.pkg with mwbase := keepField v 15 37 } }
  else if 0x0408 ≤ off ∧ off < 0x0480 then
    if s.fab.bridge then { s with fab := { s.fab with grpmap := tset s.fab.grpmap ((off - 0x400) / 8) (keepField v 63 1 + keepField v 0 12) } }
    else s
  else if 0x2000 ≤ off ∧ off < 0x4000 then
    { s with fab := { s.fab with xperm := tset s.fab.xperm ((off - 0x2000) / 8) (keepField v 60 4 + keepField v 8 48) } }
  else if off = 0x4008 then { s with pkg := { s.pkg with qattr := v } }
  else if off = 0x4010 then { s with pkg := { s.pkg with qlimit := v } }
  else if 0x5400 ≤ off ∧ off < 0x5800 then s.uncoreStore (BitVec.ofNat 2 ((off - 0x5400) / 256)) (off % 256) h data
  else if 0x5900 ≤ off ∧ off < 0x5940 then
    s.modDie (BitVec.ofNat 2 ((off - 0x5900) / 16)) (fun d =>
      if off % 16 = 0 then { d with sinkBase := keepField v 12 40, sinkPos := 0, sinkLost := 0 }
      else { d with sinkSize := v, sinkPos := 0, sinkLost := 0 })
  else if 0x6000 ≤ off ∧ off < 0x8000 then s.debugStore (BitVec.ofNat 8 ((off - 0x6000) / 32)) (off % 32) v
  else s

/-- REGISTER_WRITE (00 R12, 03 R61): a register or field without a row of its own; the supervisor pages answer in state 4 only (02 R48). -/
def execRegisterWrite (t : RegBlock) (off : BitVec 16) (half : Half) (data : Word) (s : State) : Out :=
  if badAccess off.toNat half then .next s
  else
    match t with
    | .mgt => .next (s.regStore off.toNat half data)
    | .sup c =>
      if s.pkg.bootState ≠ 4 then .next s
      else if off = 0 then
        let v := mergeHalf half (s.ctx c).ctl data
        .next (s.modCtx c (fun x => { x with ftrap := wbit v 4, fqirq := wbit v 5 }))
      else if off = 0x18 then .next s
      else .next (s.supWrite c off.toNat half data true)

/-! ### The fabric registers (01 R37, R42) -/

/-- A write of `fabctl.devid` (01 R42): a link event goes to every ACTIVE neighbour; a bridge is the group's time master. -/
def State.setDevid (s : State) (id : BitVec 12) : State :=
  let s := { s with fab := { s.fab with devid := id, master := if s.fab.bridge then id else s.fab.master } }
  (portList.filter (fun p => (s.link p).state = .active)).foldl (fun s p => s.sendNeighbour p 4 4 0 [id.setWidth 64]) s

/-- FABCTL_DEVID_WRITE (01 R42). -/
def execFabctlDevidWrite (id : BitVec 12) (s : State) : Out := .next (s.setDevid id)

/-- A write of `fabctl.lnken` (01 R37): a disabled link goes DOWN. Table 1.7 has that exit for ACTIVE; that a link in DETECT, TRAIN, ALIGN,
PARAM or RETRAIN takes it too is the model's (DESIGN CHOICE, log 49). -/
def State.setLnken (s : State) (en : BitVec 16) : State :=
  let s := { s with fab := { s.fab with lnken := en } }
  portList.foldl (fun s p => if en.getLsbD p.toNat then s.linkDetect p else if (s.link p).state = .down then s else s.linkDown p) s

/-- FABCTL_LNKEN_WRITE (01 R37). -/
def execFabctlLnkenWrite (en : BitVec 16) (s : State) : Out := .next (s.setLnken en)

/-- The first word of a management request (log 17): offset, half, block (0 management, 1 supervisor page, 2 insertion window), and the
context or queue. -/
def mgtHead (off : Nat) (h : Half) (block sel : Nat) : Word :=
  let hc : Nat := match h with
    | .whole => 0
    | .low => 1
    | .high => 2
    | .odd => 3
  BitVec.ofNat 64 (off % 2 ^ 16 + hc <<< 16 + block <<< 18 + sel <<< 24)

/-- The half of a management request. -/
def headHalf (w : Word) : Half :=
  match wfield w 16 2 with
  | 1 => .low
  | 2 => .high
  | 3 => .odd
  | _ => .whole

/-- A write to `nbcmd` (01 R42): one neighbour packet leaves, unless a command is in progress or the link is not ACTIVE. -/
def State.nbStart (s : State) (v : Word) : State :=
  if wbit s.fab.nbcmd 63 then s
  else
    let port : BitVec 4 := field v 44 4
    let cmd := keepField v 43 5 + keepField v 0 16
    if (s.link port).state ≠ .active then { s with fab := { s.fab with nbcmd := cmd + (1#64 <<< 48) } }
    else
      let (tag, s) := { s with fab := { s.fab with nbcmd := cmd + (1#64 <<< 63) } }.newTag
      let s := s.await { tag := tag, dst := 0xFFF, port := port, since := s.pkg.dtime.toNat, waiter := .nbcmd, lease := none }
      if wbit v 43 then s.sendNeighbour port 4 2 tag [mgtHead (wfield v 0 16) .whole 0 0, s.fab.nbdata]
      else s.sendNeighbour port 4 0 tag [mgtHead (wfield v 0 16) .whole 0 0]

/-- NBCMD_READ (01 R42). -/
def execNbcmdRead (v : Word) (s : State) : Out := .next (s.nbStart (v &&& ~~~ (1#64 <<< 43)))
/-- NBCMD_WRITE (01 R42). -/
def execNbcmdWrite (v : Word) (s : State) : Out := .next (s.nbStart (v ||| (1#64 <<< 43)))

/-- The neighbour command that a packet answers. -/
def State.nbAnswered (s : State) (p : Packet) : Option Request :=
  s.fab.reqs.find? (fun r => r.waiter = .nbcmd ∧ r.tag = p.tag ∧ r.port = p.port)

/-- NBCMD_ANSWER (01 R42). -/
def execNbcmdAnswer (p : Packet) (s : State) : Out :=
  match s.nbAnswered p with
  | some r => .next (s.finishReq r (field (pword p 0) 0 8) (pdata p) 0)
  | none => .next s

/-- NBCMD_TIMEOUT (01 R40, R42). -/
def execNbcmdTimeout (s : State) : Out :=
  match s.fab.reqs.find? (fun r => r.waiter = .nbcmd ∧ r.since + 2 * lrTicks s ≤ s.pkg.dtime.toNat) with
  | some r => .next (s.failReq r false)
  | none => .next s

/-- RTACC_SET (01 R35, R42): the whole entry at once; packets that it held go on when its hold bit is clear. -/
def execRtaccSet (v : Word) (s : State) : Out :=
  let i : BitVec 12 := field v 32 12
  let e : BitVec 8 := field v 0 8 &&& 0xCF#8
  .next { s with fab := { s.fab with rtIdx := i, rtEntry := e, route := tsetD s.fab.route i.toNat e 0 } }.flushHeld

/-! ### Writes to the management block -/

/-- The state a row that always completes leaves. -/
def after (o : Out) (s : State) : State :=
  match o with
  | .next t => t
  | _ => s

/-- The actions that a write to `dbctl` asks for: snap, halt, resume, step, steprep. -/
def State.dbActions (s : State) (core : BitVec 8) (c : Word) : State :=
  let s := if wbit c 4 then after (execDbctlSnap core s) s else s
  let s := if wbit c 0 then after (execDbctlHalt core s) s else s
  let s := if wbit c 1 then after (execDbctlResume core s) s else s
  let s := if wbit c 2 then after (execDbctlStep core s) s else s
  if wbit c 3 then after (execDbctlSteprep core s) s else s

/-- A write to `bootctl` (02 R43, R46, R58, R60): when it asks for staging and maintenance at once, one of them is taken (log 1). -/
def State.bootctlWrite (s : State) (c : Word) : State :=
  let stage (s : State) : State := if wbit c 1 then after (execBootctlStage s) s else s
  let maint (s : State) : State := if wbit c 2 then after (execBootctlMaint s) s else s
  if wbit c 0 then s.packageReset
  else if wbit c 1 ∧ wbit c 2 then
    let (b, s) := s.freshBool
    if b then maint (stage s) else stage (maint s)
  else maint (stage s)

/-- A write to the management block below the memory window, at a multiple of 8 (03 Table 3.2). -/
def State.mgtWrite (s : State) (off : Nat) (h : Half) (data : Word) : State :=
  let c := carried h data
  let v := mergeHalf h (mgtRead s off) data
  let low : Bool := h ≠ .high
  let t := s.regStore off h data
  if off = 0x0008 then (if low then t.bootctlWrite c else t)
  else if off = 0x0048 then after (execThermctlWrite h data t) t
  else if off = 0x0200 then
    let t := if h ≠ .low then t.setDevid (field v 32 12) else t
    if low then t.setLnken (field v 0 16) else t
  else if off = 0x0288 then (if low then t.nbStart v else t)
  else if off = 0x0298 then
    if wbit c 63 then after (execRtaccSet (wsetField v 0 8 t.fab.rtEntry.toNat) t) t else t
  else if 0x1000 ≤ off ∧ off < 0x2000 then after (execMailboxWrite (BitVec.ofNat 16 off) h data t) t
  else if off = 0x4000 then (if low then t.qcmdWrite (field c 16 4) (field c 0 16) else t)
  else if 0x5000 ≤ off ∧ off < 0x5400 ∧ off % 32 = 0 then
    let cl : BitVec 5 := BitVec.ofNat 5 ((off - 0x5000) / 32)
    if low then t.bkSubmit { host := true, cl := cl, ref := { core := 0, slot := 0 }, val := v }
    else if wbit (t.cluster cl).hbkcmd 63 then t
    else t.modCluster cl (fun k => { k with hbkcmd := wsetField k.hbkcmd 32 16 (wfield v 32 16) })
  else if off = 0x5800 then t.setTrigger v
  else if 0x6000 ≤ off ∧ off < 0x8000 ∧ off % 32 = 0 then
    t.dbActions (BitVec.ofNat 8 ((off - 0x6000) / 32)) (if low then c else 0)
  else t

/-- A write to the management block, the memory window among it. -/
def State.blockWrite (s : State) (off : Nat) (h : Half) (data : Word) : State :=
  if badAccess off h then s
  else if 0x8000 ≤ off then s.windowWrite (off - 0x8000) h data
  else s.mgtWrite off h data

/-! ### Management packets (01 R42, 03 R62; log 17) -/

/-- A neighbour may not reach this offset (01 R42). -/
def nbRefused (p : Packet) : Bool :=
  isNeighbour p && (wfield (pword p 0) 0 16 % 8 ≠ 0 || 0x8000 ≤ wfield (pword p 0) 0 16)

/-- Only the bridge sends management requests across the group (03 R62), so a request that is not a neighbour's names the group's time
master to a device that does not bridge (01 R36, R42; DEDUCED, log 22). -/
def State.learnMaster (s : State) (p : Packet) : State :=
  if isNeighbour p ∨ s.fab.bridge then s else { s with fab := { s.fab with master := p.src } }

/-- A read of an insertion window (03 R61, R70). -/
def insertRead (s : State) (q : BitVec 16) (off : Nat) (h : Half) : Word :=
  if badAccess off h then BitVec.allOnes 64 else if off = 0 then pickHalf h (insertStatus s q) else 0

/-- MGT_REGISTER_READ (03 R62). -/
def execMgtRegisterRead (p : Packet) (s : State) : Out :=
  let s := s.learnMaster p
  let w := pword p 0
  let off := wfield w 0 16
  let h := headHalf w
  if nbRefused p then .next (s.answer p 1 [3, 0])
  else
    let (v, s) := match wfield w 18 2 with
      | 1 => (if badAccess off h then BitVec.allOnes 64 else pickHalf h (supRead s (field w 24 8) off), s)
      | 2 => (insertRead s (field w 24 16) off h, s)
      | _ => s.blockRead off h
    .next (s.answer p 1 [0, v])

/-- When a write of a management request through the memory window is visible (03 R67). -/
def windowVis (s : State) (off : Nat) (h : Half) (block : Nat) : Nat :=
  if block = 0 ∧ 0x8000 ≤ off then writtenVis s (windowAt s (off - 0x8000) h) (halfSpan h).2 else 0

/-- MGT_REGISTER_WRITE (03 R62): a write through the memory window is acknowledged once it is visible (R67). -/
def execMgtRegisterWrite (p : Packet) (s : State) : Out :=
  let s := s.learnMaster p
  let w := pword p 0
  let off := wfield w 0 16
  let h := headHalf w
  if nbRefused p then .next (s.answer p 3 [3])
  else
    let v := windowVis s off h (wfield w 18 2)
    let s := match wfield w 18 2 with
      | 1 => if badAccess off h then s else s.supWrite (field w 24 8) off h (pword p 1) true
      | 2 => s
      | _ => s.blockWrite off h (pword p 1)
    .next (if v ≤ s.pkg.dtime.toNat then s.answer p 3 [0]
      else { s with peerAcks := s.peerAcks ++ [{ dst := p.src, tag := p.tag, v := v, mgt := true }] })

/-- MGT_REGISTER_DATA (03 R62). -/
def execMgtRegisterData (p : Packet) (s : State) : Out := .next (s.finishBy p (field (pword p 0) 0 8) (pdata p) 0)

/-- MGT_ACKNOWLEDGE (03 R62). -/
def execMgtAcknowledge (p : Packet) (s : State) : Out := .next (s.finishBy p (field (pword p 0) 0 8) [] 0)

/-- MGT_LINK_EVENT (01 R42): the neighbour's new id. -/
def execMgtLinkEvent (p : Packet) (s : State) : Out :=
  .next (if isNeighbour p then s.modLink p.port (fun l => { l with peerid := field (pword p 0) 0 12 }) else s)

/-! ### The host's accesses to slots (03 R61, R62, R70) -/

/-- A slot access that cannot be made: all ones for a read (03 R61, R62). -/
def State.slotFails (s : State) (wr : Bool) (counted : Bool) : State :=
  let s := if counted then s.mgtFailed else s
  if wr then s else s.hostAnswer (BitVec.allOnes 64)

/-- Send a management request to the device of a slot. -/
def State.slotSend (s : State) (slot : BitVec 4) (head : Word) (wr : Option Word) : State :=
  match s.slotDev slot with
  | none => s.slotFails wr.isSome true
  | some dev =>
    let (tag, s) := s.newTag
    let p := match wr with
      | some d => s.mkPacket dev 4 2 tag 0 [head, d]
      | none => s.mkPacket dev 4 0 tag 0 [head]
    match s.sendPacket p with
    | (.at port, s) =>
      s.await { tag := tag, dst := dev, port := port, since := s.pkg.dtime.toNat, waiter := .slotMgmt wr.isSome, lease := none }
    | (_, s) => s.slotFails wr.isSome true

/-- The host port is up: the device bridges, and has booted or is in recovery (02 R44, R48). -/
def State.hostUp (s : State) : Bool := s.fab.bridge && (s.pkg.bootState = 4 || s.pkg.bootState = 5)

/-- SLOT_MANAGEMENT_ACCESS (03 R61, R62, R74): a host access to a management block, or to the supervisor register page of a context;
slot 0 is the bridge itself, and in recovery only its management block answers (02 R48). -/
def execSlotManagementAccess (slot : BitVec 4) (block : RegBlock) (off : BitVec 16) (half : Half) (wr : Option Word) (s : State) : Out :=
  let reach : Bool := !badAccess off.toNat half && s.hostUp && (s.pkg.bootState = 4 || (slot = 0 && block = .mgt))
  if ¬ reach then .next (s.slotFails wr.isSome false)
  else
    match block with
    | .mgt =>
      if slot ≠ 0 then .next (s.slotSend slot (mgtHead off.toNat half 0 0) wr)
      else
        match wr with
        | some d => .next (s.blockWrite off.toNat half d)
        | none =>
          let (v, s) := s.blockRead off.toNat half
          .next (s.hostAnswer v)
    | .sup c =>
      if 0x1000 ≤ off.toNat then .next (s.slotFails wr.isSome false)
      else if slot ≠ 0 then .next (s.slotSend slot (mgtHead off.toNat half 1 c.toNat) wr)
      else
        match wr with
        | some d => .next (s.supWrite c off.toNat half d true)
        | none => .next (s.hostAnswer (pickHalf half (supRead s c off.toNat)))

/-- INSERTION_STATUS_READ (03 R70). -/
def execInsertionStatusRead (slot : BitVec 4) (queue : BitVec 16) (off : BitVec 12) (half : Half) (s : State) : Out :=
  if ¬ s.hostReady ∨ badAccess off.toNat half then .next (s.hostAnswer (BitVec.allOnes 64))
  else if slot = 0 then .next (s.hostAnswer (insertRead s queue off.toNat half))
  else .next (s.slotSend slot (mgtHead off.toNat half 2 queue.toNat) none)

end Sys2Proof.Machine
end

