-- ==== Sys2Proof/Machine/Deliver.lean ====
section
/-!
DEFINITION. The arrival of a packet at the device it is for (01 R32 to R34, Table 1.6): the operation its class and op name.
-/
namespace Sys2Proof.Machine

/-- A register-data or acknowledge packet answers the neighbour command or another request. -/
def State.mgtAnswered (s : State) (p : Packet) (other : Packet → State → Out) : Out :=
  if isNeighbour p ∧ (s.nbAnswered p).isSome then execNbcmdAnswer p s else other p s

/-- A packet is performed by its operation; the two forms of a call, and the two stages of a completion, by their bits. -/
def deliver (p : Packet) (s : State) : Out :=
  match p.cls.toNat, p.op.toNat with
  | 0, 0 => execMemoryRead p s
  | 0, 1 => execMemoryReadData p s
  | 0, 2 => execMemoryWrite p s
  | 0, 3 => execMemoryWriteAck p s
  | 0, 4 => execMemoryErrorResponse p s
  | 1, 0 => execAtomicRequest p s
  | 1, 1 => execAtomicResponse p s
  | 1, 2 => execAtomicErrorResponse p s
  | 2, 0 => if wbit (pword p 0) 32 then execQueueInsertionArrival p s else execInvocationCall p s
  | 2, 1 => if wbit (pword p 0) 21 then execEndReport p s else execArrivalReport p s
  | 3, 0 => execHostRead p s
  | 3, 1 => execHostReadData p s
  | 3, 2 => execHostWrite p s
  | 3, 3 => execHostWriteAck p s
  | 3, 4 => execInsertionReport p s
  | 3, 5 => execHostErrorResponse p s
  | 4, 0 => execMgtRegisterRead p s
  | 4, 1 => s.mgtAnswered p execMgtRegisterData
  | 4, 2 => execMgtRegisterWrite p s
  | 4, 3 => s.mgtAnswered p execMgtAcknowledge
  | 4, 4 => execMgtLinkEvent p s
  | 5, 0 => execTimeStampRequest p s
  | 5, 1 => execTimeStampResponse p s
  | _, _ => .next s

/-! ### Errors that arise (01 R21, 02 R53 to R55) -/

/-- Mark the element at a place of a list. -/
def markAt {α : Type} (k : Nat) (f : α → α) (xs : List α) : List α := xs.zipIdx.map (fun p => if p.2 = k then f p.1 else p.1)

/-- A place joins a list of places. -/
def joinPlace (n : Nat) (ns : List Nat) : List Nat := if n ∈ ns then ns else ns ++ [n]

/-- An error arises in a memory of the package; what comes of it shows when something reads it (log 44). -/
def State.upset (s : State) (u : Upset) : State :=
  match u with
  | .memory g soft =>
    if soft then { s with correctable := joinPlace g s.correctable } else { s with poison := joinPlace g s.poison }
  | .bank i w soft =>
    let b := s.bank i
    s.setBank i (if soft then { b with soft := joinPlace w b.soft } else { b with bad := joinPlace w b.bad })
  | .vector r k soft =>
    s.modHart r (fun h => if soft then { h with vsoft := bset h.vsoft k.toNat true } else { h with vbad := bset h.vbad k.toNat true })
  | .tile r k soft =>
    s.modHart r (fun h => if soft then { h with asoft := bset h.asoft k.toNat true } else { h with abad := bset h.abad k.toNat true })
  | .icache core line => s.modCore core (fun c => { c with icBad := joinPlace line c.icBad })
  | .copy core line =>
    match tget s.lines line with
    | none => s
    | some x => { s with lines := tset s.lines line { x with copies := x.copies.map (fun k => if k.core = core then { k with bad := true } else k) } }
  | .escrow cl k => s.modCluster cl (fun c => { c with escrow := markAt k (fun e => { e with bad := true }) c.escrow })
  | .queued q k =>
    match tget s.queues q.toNat with
    | none => s
    | some d => { s with queues := tset s.queues q.toNat { d with recs := markAt k (fun r => { r with bad := true }) d.recs } }
  | .parked k => { s with park := markAt k (fun p => { p with bad := true }) s.park }
  | .returned slot =>
    match tget s.retTable slot with
    | none => s
    | some e => { s with retTable := tset s.retTable slot { e with bad := true } }
  | .corrected => s.sramUp 1

end Sys2Proof.Machine
end

