-- ==== Sys2Proof/Machine/Rings.lean ====
section
/-!
DEFINITION. Completion rings (04 R110, R111): how the device counts and writes a report's record, and posts its event then.
-/
namespace Sys2Proof.Machine

/-- A fault record of kind 7 in a context for an address (04 R111, 03 R92). -/
def State.lostWrite (s : State) (c : BitVec 8) (addr : Word) : State :=
  s.postFault c (faultRec s 7 0 0xFFFF 0xFFFF 0xFFFF addr 0)

/-- A completion record (04 Table 4.8). -/
def recordBytes (r : Report) (seq time : Nat) : List Byte :=
  leBytes 8 seq
    ++ leBytes 8 (r.tag.toNat <<< 48 + r.outcome.toNat <<< 40 + r.hint.toNat <<< 32 + r.version.toNat <<< 16 + r.handler.toNat)
    ++ leBytes 8 (r.tgid.toNat <<< 44) ++ leBytes 8 time

/-- The device itself, as it accesses a context's memory. -/
def deviceWho (c : BitVec 8) : Who := { ctx := c, gang := 0xFFFF, core := 0, slot := 0, rank := 0, sup := true, unit := true }

/-- Go on at an address of a context's memory, wherever it leads. -/
def ctxAt {α : Type} (s : State) (c : BitVec 8) (va : Word) (k : Kind) (f : Place → UnitRes α) : UnitRes α :=
  match ctxPlace s c va k with
  | .ok p => f p
  | .error e => .fault e

/-- The counter of a ring. -/
def ringCounter (j : RingJob) : Word := BitVec.ofNat 64 (ringOf j.report.ring).2

/-- The slot that a count, less 1, names. -/
def ringSlot (j : RingJob) (seq : Nat) : Word :=
  BitVec.ofNat 64 ((ringOf j.report.ring).2 + 32 + 32 * ((seq + 2 ^ 64 - 1) % 2 ^ (ringOf j.report.ring).1))

/-- Step 1 of a record (04 R111): the fetch-and-add on the ring's counter. -/
def ringCount (s : State) (j : RingJob) : UnitRes Nat :=
  ctxAt s j.ctx (ringCounter j) .amo (fun p =>
    unitRmwAt s p { code := 0, dbl := true, a := 1, b := 0, act := fun o => (some ((o + 1) % 2 ^ 64), o) } j.replies)

/-- Step 2 (04 R111): the record's write, and its visibility time. -/
def ringStore (s : State) (j : RingJob) (seq : Nat) : UnitRes Nat :=
  ctxAt s j.ctx (ringSlot j seq) .store (fun p => unitWriteAt s (deviceWho j.ctx) p (recordBytes j.report seq s.pkg.dtime.toNat) j.replies)

/-- Put a record in writing. -/
def State.putJob (s : State) (j : RingJob) : State := { s with rings := s.rings.map (fun k => if k.id = j.id then j else k) }

/-- The writing of a record is over: the event of its report. -/
def State.ringEnd (s : State) (j : RingJob) : State :=
  { s with rings := s.rings.filter (fun k => k.id ≠ j.id) }.reportEvent j.ctx j.report (j.seq.getD 0)

/-- A record's access has its answer, asks for one, or faults: the record is then lost (04 R111). -/
def State.ringDid (s : State) (j : RingJob) (va : Word) (r : UnitRes Nat) (f : Nat → RingJob) : State :=
  let lost (s : State) : State := (s.lostWrite j.ctx va).ringEnd j
  match r with
  | .ok a s rs => s.putJob { f a with replies := rs }
  | .fault c => lost (if c = 0x15 then s.countUe else s)
  | .failed _ => lost s
  | .need n =>
    match s.askFor (.ring j.id) n with
    | (some q, s) => s.putJob { j with replies := j.replies ++ [q] }
    | (none, s) => s.putJob { j with waiting := true }

/-- The next step of a record in writing (04 R110, R111): its count, its write, and once that is visible its report's event. -/
def State.ringStep (s : State) (j : RingJob) : State :=
  match j.seq, j.vis with
  | none, _ => s.ringDid j (ringCounter j) (ringCount s j) (fun t => { j with seq := some ((t + 1) % 2 ^ 64) })
  | some seq, none => s.ringDid j (ringSlot j seq) (ringStore s j seq) (fun v => { j with vis := some v })
  | some _, some v => if v ≤ s.pkg.dtime.toNat then s.ringEnd j else s

/-- The record can go on. -/
def ringReady (s : State) (j : RingJob) : Bool := !j.waiting && j.vis.all (fun v => v ≤ s.pkg.dtime.toNat)

end Sys2Proof.Machine
end

