-- ==== Sys2Proof/Machine/Teller.lean ====
section
/-!
DEFINITION. The teller of a cluster (05 R119 to R136): the order of a queue's records, the competing queues and the winner, what a
placement takes, launch, reservation, pre-emption, resumption, and the refill of purses.
-/
namespace Sys2Proof.Machine

/-! ### Heads (05 R122 to R124, R130) -/

/-- The cluster that a binned queue's key hashes to (05 R124). -/
def hashCluster (key : Word) (aff : BitVec 32) : Nat :=
  let list := (List.range 32).filter (fun c => wbit aff c)
  list.getD (wfield key 48 16 * 0x6D2B % 65536 * list.length / 65536) 0

/-- The cluster admits a key of these attributes. -/
def admitsAt (aff : BitVec 32) (binned : Bool) (key : Word) (cl : BitVec 5) : Bool :=
  wbit aff cl.toNat && (!binned || hashCluster key aff = cl.toNat)

/-- The record that a queue offers at a cluster: in append order, or the least key first (05 R123). -/
def offered (d : Queue) (cl : BitVec 5) : Option QRec :=
  let rs := d.recs.filter (fun r => r.rel.isNone && admitsAt d.aff d.binned r.task.w1 cl)
  if d.keyed then
    rs.foldl (fun b r => match b with
      | none => some r
      | some q => if r.task.w1.toNat < q.task.w1.toNat then some r else some q) none
  else rs.head?

/-- The priority override of a record (05 Table 5.4). -/
def poverOf (t : TaskRec) : BitVec 3 := field t.w0 36 3

/-- What a record's handler entry says at placement (05 R122). -/
inductive Entry where
  | pc (a : Word)
  | disabled
  /-- the task is discarded, with the addr and cause of its fault record -/
  | bad (addr : Word) (cause : BitVec 8)
  /-- the record itself has an uncorrectable error (02 R55) -/
  | spoilt
  deriving DecidableEq, Repr

/-- The pc of a record, or why it has none. -/
def entryOf (s : State) (c : BitVec 8) (r : QRec) : Entry :=
  if r.bad then .spoilt
  else
  match r.pc with
  | some a => .pc a
  | none =>
    match handlerLookup s c (handlerIdx r.task).toNat with
    | .none a cause => .bad a cause
    | .entry h => if h.dis then .disabled else if r.pusher ≠ c ∧ ¬ h.loc then .bad (handlerAddr s c (handlerIdx r.task).toNat) 0 else .pc h.pc

/-- A head: a saved gang, or a record of a queue. -/
inductive Head where
  | gang (id : Nat) (g : Gang)
  | record (q : Nat) (d : Queue) (r : QRec)
  deriving DecidableEq, Repr

/-- A queue, or a private list, that competes at a cluster. -/
structure Cand where
  key : Nat
  prio : Nat
  weight : Nat
  head : Head
  deriving DecidableEq, Repr

/-- The task of a head. -/
def Head.task : Head → TaskRec
  | .gang _ g => g.task
  | .record _ _ r => r.task

/-- The context of a head. -/
def Head.ctx : Head → BitVec 8
  | .gang _ g => g.ctx
  | .record _ d _ => d.ctx

/-- The cost of a head in harts (05 R131, R135). -/
def Head.cost (h : Head) : Nat := gszOf h.task + 1

/-- The context runs and takes new gangs (03 R73). -/
def ctxRuns (s : State) (c : BitVec 8) : Bool := (s.ctx c).state = .running && (s.ctx c).run && !(s.ctx c).stopPending

/-- The context's quota has room for a head (05 R132). -/
def inQuota (s : State) (h : Head) : Bool :=
  let q := (s.ctx h.ctx).quota
  (s.allHarts.filter (fun x => x.ctx = h.ctx)).length + h.cost ≤ wfield q 16 12
    && banksHeld s h.ctx + banksOf h.task ≤ wfield q 0 9

/-- The saved gang of a queue, or of a private list, that may resume at a cluster, of the saved ones: the one placed earliest. -/
def savedHead (gs : List (Nat × Gang)) (cl : BitVec 5) (f : Nat → Gang → Bool) (aff : BitVec 32) (binned : Bool) : Option (Nat × Gang) :=
  (gs.filter (fun p => f p.1 p.2 && admitsAt aff binned p.2.task.w1 cl)).foldl (fun b p =>
    match b with
    | none => some p
    | some q => if p.2.placedAt < q.2.placedAt then some p else some q) none

/-- The candidate of a queue at a cluster: its saved gang first (05 R130, R135). -/
def queueCand (s : State) (gs : List (Nat × Gang)) (cl : BitVec 5) (q : Nat) (d : Queue) : Option Cand :=
  if ¬ ctxRuns s d.ctx ∨ ¬ wbit d.aff cl.toNat then none
  else
    match savedHead gs cl (fun _ g => g.queue.toNat = q && !g.orphan) d.aff d.binned with
    | some (id, g) => some { key := q, prio := g.prio.toNat, weight := d.weight.toNat, head := .gang id g }
    | none =>
      (offered d cl).bind (fun r =>
        if entryOf s d.ctx r = .disabled then none
        else some { key := q, prio := max d.pri.toNat (poverOf r.task).toNat, weight := d.weight.toNat, head := .record q d r })

/-- The candidate of a saved gang whose queue was deleted (05 R135). -/
def orphanCand (s : State) (cl : BitVec 5) (id : Nat) (g : Gang) : Option Cand :=
  if g.saved ∧ g.orphan ∧ ctxRuns s g.ctx ∧ admitsAt g.aff g.binned g.task.w1 cl then
    some { key := 65536 + id, prio := g.prio.toNat, weight := g.weight.toNat, head := .gang id g }
  else none

/-- Every eligible queue at a cluster, ascending (05 R130, R132). -/
def candidates (s : State) (cl : BitVec 5) : List Cand :=
  if (s.cluster cl).closed.isSome then []
  else
    let gs := savedGangs s
    (s.queues.filterMap (fun p => queueCand s gs cl p.1 p.2) ++ gs.filterMap (fun p => orphanCand s cl p.1 p.2)).filter
      (fun c => inQuota s c.head)

/-! ### The winner (05 R131) -/

/-- The ring of a cluster: its pointer, whether the queue there has had its weight for this visit, and the deficits. -/
structure Ring where
  at' : Nat
  paid : Bool
  deficit : Table Nat
  deriving DecidableEq, Repr

/-- The queue at the pointer or after it, in a ring. -/
def ringNext (cs : List Cand) (k : Nat) : Option Cand := (cs.find? (fun c => k ≤ c.key)).orElse (fun _ => cs.head?)

/-- Turn the ring until a head's cost is covered. -/
def ringTurn (cs : List Cand) : Nat → Ring → Option (Cand × Ring)
  | 0, _ => none
  | fuel + 1, r =>
    match ringNext cs r.at' with
    | none => none
    | some c =>
      let d0 := tgetD r.deficit c.key 0
      let d := if r.paid ∧ r.at' = c.key then d0 else d0 + c.weight
      let r := { r with at' := c.key, paid := true, deficit := tset r.deficit c.key d }
      if c.head.cost ≤ d then some (c, r) else ringTurn cs fuel { r with at' := c.key + 1, paid := false }

/-- What a reservation knows a head by. -/
def Head.id : Head → HeadId
  | .gang id _ => .gang id
  | .record _ _ r => .record r

/-- A cluster has reserved for a candidate's head (05 R133). -/
def reservedFor (s : State) (cl : BitVec 5) (c : Cand) : Bool := (s.cluster cl).reserved.any (fun r => r.key = c.key && r.head = c.head.id)

/-- The winner at a cluster, and the ring it leaves; among weight-0 queues a head that waits under a reservation stays the winner (05 R133). -/
def winner (s : State) (cl : BitVec 5) : Option (Cand × Ring) :=
  let all := candidates s cl
  let p := (all.map (fun c => c.prio)).foldl max 0
  let top := all.filter (fun c => c.prio = p)
  let k := s.cluster cl
  let r : Ring := { at' := k.ring, paid := k.ringPaid, deficit := k.deficit.filter (fun e => all.any (fun c => c.key = e.1)) }
  let ws := top.filter (fun c => 0 < c.weight)
  if ws.isEmpty then ((top.find? (reservedFor s cl)).or (ringNext top (k.ring0 + 1))).map (fun c => (c, r))
  else ringTurn ws (65 * (ws.length + 1)) r

/-- The ring's state is put back. -/
def State.putRing (s : State) (cl : BitVec 5) (r : Ring) : State :=
  s.modCluster cl (fun k => { k with ring := r.at', ringPaid := r.paid, deficit := r.deficit })

/-! ### Resources (05 R132) -/

/-- What a core has free: its slots, bytes of register storage, and tiles. -/
structure Room where
  core : BitVec 8
  slots : List (BitVec 4)
  bytes : Nat
  tiles : Nat
  deriving DecidableEq, Repr

/-- The free resources of a core; a halted core takes no hart (10 R270). -/
def roomOf (s : State) (core : BitVec 8) : Room :=
  let hs := s.allHarts.filter (fun h => h.core = core)
  let free := ((List.range 16).map (BitVec.ofNat 4)).filter (fun k => !hs.any (fun h => h.slot = k))
  { core := core, slots := if (s.core core).dHalted then [] else free
    bytes := 262144 + 24576 * (banksIn s core .X).length - coreStorage s core
    tiles := 4 - (hs.map (fun h => h.tiles.toNat)).sum }

/-- The cores of a cluster, ascending. -/
def roomsOf (s : State) (cl : BitVec 5) : List Room := (List.range 8).map (fun i => roomOf s (BitVec.ofNat 8 (8 * cl.toNat + i)))

/-- How many of the next ranks, each with its VLB, a core can take. -/
def takes (r : Room) (tiles : Nat) : List Nat → Nat
  | [] => 0
  | v :: vs =>
    if r.slots = [] ∨ r.bytes < 32 * v ∨ r.tiles < tiles then 0
    else 1 + takes { r with slots := r.slots.drop 1, bytes := r.bytes - 32 * v, tiles := r.tiles - tiles } tiles vs

/-- Cores can take all the ranks, each as many as it can. -/
def seatable (tiles : Nat) : List Room → List Nat → Bool
  | [], vs => vs.isEmpty
  | r :: rs, vs => seatable tiles rs (vs.drop (takes r tiles vs))

/-- Seats for the ranks in (core, slot) order; how many each core takes is free where the spec leaves it (log 1). -/
def seat (tiles : Nat) : List Room → List Nat → State → Option (List HartRef) × State
  | [], vs, s => (if vs.isEmpty then some [] else none, s)
  | r :: rs, vs, s =>
    let top := takes r tiles vs
    let ways := ((List.range (top + 1)).reverse).filter (fun k => seatable tiles rs (vs.drop k))
    match ways with
    | [] => (none, s)
    | w :: more =>
      let k := if more = [] then w else ways.getD (Config.freeNat s.freshCount % ways.length) w
      let s := if more = [] then s else { s with freshCount := s.freshCount + 1 }
      match seat tiles rs (vs.drop k) s with
      | (some more, s) => (some ((r.slots.take k).map (fun x => { core := r.core, slot := x }) ++ more), s)
      | (none, s) => (none, s)

/-- Pool banks of a cluster: mode S, held by nobody; cluster indices, ascending. -/
def poolBanks (s : State) (cl : BitVec 5) : List Nat :=
  (List.range 192).filter (fun i =>
    let b := s.bank (192 * cl.toNat + i)
    b.mode == .S && b.holder == .none)

/-- The VLB granted at launch (05 R120). -/
def grantOf (t : TaskRec) : Nat :=
  let n := gszOf t + 1
  min (256 * 2 ^ vlbreqOf t) (if n ≤ 8 then 8192 else if n ≤ 16 then 4096 else if n ≤ 32 then 2048 else 1024)

/-- The VLB each rank of a head needs. -/
def vlbsOf (s : State) (h : Head) : List Nat :=
  match h with
  | .record _ _ r => List.replicate (gszOf r.task + 1) (grantOf r.task)
  | .gang _ g =>
    (List.range (gszOf g.task + 1)).map (fun i =>
      if regrants g then g.grant.toNat else savedVlb s g i)

/-- All of a head's resources are free at a cluster; banks take their turn among the cluster's bank commands (07 R177). -/
def roomFor (s : State) (cl : BitVec 5) (h : Head) : Bool :=
  (banksOf h.task = 0 || (s.cluster cl).bankCmd.isEmpty) && seatable (tilesOf h.task) (roomsOf s cl) (vlbsOf s h) && banksOf h.task ≤ (poolBanks s cl).length

/-! ### Launch (05 R121, R122; 13 R351) -/

/-- `stvec.base` of a launch, from handler entry 0 (13 R351). -/
def launchVec (s : State) (c : BitVec 8) : BitVec 46 :=
  match handlerLookup s c 0 with
  | .entry h => if h.dis then 0 else field h.pc 2 46
  | .none _ _ => 0

/-- A hart at launch (05 R121). -/
def launchHart (s : State) (id : BitVec 16) (g : Gang) (vec : BitVec 46) (rank : Nat) (r : HartRef) : Hart :=
  let h := seatHart s id g rank r
  let t := g.task
  let xs := (((((h.x.set 10 t.w3).set 11 t.w4).set 12 t.w5).set 13 t.w6).set 14 t.w7).set 15 t.w1
  { h with pc := g.pc, x := xs, stvec := vec }

/-- A gang id that no resident or saved gang has, from `n` on (06 R144). -/
def freeGangId (t : Table Gang) : Nat → Nat → BitVec 16
  | 0, n => BitVec.ofNat 16 n
  | fuel + 1, n => if n % 65536 = 65535 ∨ (tget t (n % 65536)).isSome then freeGangId t fuel (n + 1) else BitVec.ofNat 16 n

/-- The banks of a launched gang, cleared (05 R121, 07 R180). -/
def State.giveBanks (s : State) (cl : BitVec 5) (c : BitVec 8) (id : BitVec 16) (keep : Bool) (banks : List Nat) : State :=
  banks.foldl (fun s b =>
    let i := 192 * cl.toNat + b
    s.setBank i { Bank.reset i with mode := .S, holder := .gang c id, keep := keep }) s

/-- A head leaves its queue. -/
def State.takeRec (s : State) (q : Nat) (d : Queue) (r : QRec) : State := { s.qstore with queues := tset s.queues q { d with recs := d.recs.erase r } }

/-- Place a record as a gang (05 R121, R132, 10 R263). -/
def State.launch (s : State) (cl : BitVec 5) (q : Nat) (d : Queue) (r : QRec) (prio : Nat) (pc : Word) (seats : List HartRef) : State :=
  let t := r.task
  let id := freeGangId s.gangs 65536 s.nextGang.toNat
  let banks := (poolBanks s cl).take (banksOf t)
  let g : Gang := { ctx := d.ctx, queue := BitVec.ofNat 16 q, policy := d.policy, weight := d.weight, prio := BitVec.ofNat 3 prio
                    task := t, pc := pc, cluster := cl, grant := BitVec.ofNat 14 (grantOf t), banks := banks, barGen := 0, barArr := 0
                    ended := 0, userEnd := true, frame := none, framed := 0, savedRanks := 0, saved := false, boundary := 0, preempt := false
                    carry := [], placedAt := s.placeCount, orphan := false, aff := d.aff, binned := d.binned }
  let (f, s) := allocFrame s g
  let g := { g with frame := f }
  let vec := launchVec s d.ctx
  let hs := seats.zipIdx.map (fun p => launchHart s id g vec p.2 p.1)
  let s := s.giveBanks cl d.ctx id (wbit t.w0 35) banks
  let s := if r.sau then s.modCtx d.ctx (fun x => { x with sauSticky := false }) else s
  let s := s.takeRec q d r
  { s with gangs := tset s.gangs id.toNat g, nextGang := id + 1, placeCount := s.placeCount + 1, harts := s.harts ++ hs }

/-- After a placement the deficit loses the cost (05 R131). -/
def State.spend (s : State) (cl : BitVec 5) (c : Cand) : State :=
  s.modCluster cl (fun k =>
    if c.weight = 0 then { k with ring0 := c.key, reserved := none }
    else { k with deficit := tset k.deficit c.key (tgetD k.deficit c.key 0 - c.head.cost), reserved := none })

/-- Discard a head whose lookup failed (05 R122); an uncorrectable error in the handler table is counted (02 R53). -/
def State.discardHead (s : State) (q : Nat) (d : Queue) (r : QRec) (addr : Word) (cause : BitVec 8) : State :=
  let qid := BitVec.ofNat 16 q
  let s := (if cause = 0x15 then s.countUe else s).takeRec q d r
  (s.discardReport d.ctx qid r.task).postFault d.ctx (faultRec s 4 cause 0xFFFF (handlerIdx r.task) qid addr 0)

/-- The reservation for a head whose first fit has failed (05 R133, R134): the residents keep what is free or theirs now. -/
def newReservation (s : State) (cl : BitVec 5) (c : Cand) : Reservation :=
  { key := c.key, head := c.head.id, since := s.pkg.dtime.toNat, pool := poolBanks s cl
    used := (List.range 8).map (fun i => coreStorage s (BitVec.ofNat 8 (8 * cl.toNat + i))) }

/-- Place the winner's head: it launches, resumes, is discarded, or waits under a reservation (05 R132, R133). -/
def State.placeHead (s : State) (cl : BitVec 5) (c : Cand) : State :=
  let wait (s : State) : State :=
    if reservedFor s cl c then s else s.modCluster cl (fun k => { k with reserved := some (newReservation s cl c) })
  let go (f : List HartRef → State → State) : State :=
    if ¬ roomFor s cl c.head then wait s
    else
      match seat (tilesOf c.head.task) (roomsOf s cl) (vlbsOf s c.head) s with
      | (some seats, s) => (f seats s).spend cl c
      | (none, s) => wait s
  match c.head with
  | .gang id g =>
    go (fun seats s =>
      match g.frame with
      | none => s
      | some f =>
        match resumeGang s (BitVec.ofNat 16 id) g f cl seats ((poolBanks s cl).take (banksOf g.task)) with
        | .ok s => s
        | .error (cause, addr) => s.fatalError g.ctx cause (BitVec.ofNat 16 id) 0 addr)
  | .record q d r =>
    match entryOf s d.ctx r with
    | .disabled => s
    | .bad addr cause => s.discardHead q d r addr cause
    | .spoilt => (s.takeRec q d r).spoil d.ctx (BitVec.ofNat 16 q) r.task
    | .pc a => go (fun seats s => s.launch cl q d r c.prio a seats)

/-- One turn of a cluster's teller. -/
def State.tell (s : State) (cl : BitVec 5) : State :=
  match winner s cl with
  | none => s.modCluster cl (fun k => { k with deficit := [], reserved := none })
  | some (c, r) => (s.putRing cl r).placeHead cl c

/-- A queue that has stopped being eligible at a cluster has no deficit there, and a visit of the ring to it is over (05 R131). -/
def Cluster.settleRing (k : Cluster) (all : List Cand) : Cluster :=
  let on (key : Nat) : Bool := all.any (fun c => c.key = key)
  { k with deficit := k.deficit.filter (fun e => on e.1), ringPaid := k.ringPaid && on k.ring }

/-- The rings of the clusters that hold a deficit or a visit. -/
def State.settleRings (s : State) : State :=
  { s with clusters := s.clusters.map (fun (p : Nat × Cluster) =>
      if p.2.deficit.isEmpty ∧ ¬ p.2.ringPaid then p else (p.1, p.2.settleRing (candidates s (BitVec.ofNat 5 p.1)))) }

/-- The teller of a cluster has something to do: its winner can be placed or discarded, or has no reservation yet. -/
def tellerBusy (s : State) (cl : BitVec 5) : Bool :=
  match winner s cl with
  | none => (s.cluster cl).reserved.isSome
  | some (c, _) =>
    let bad := match c.head with
      | .record _ d r => (match entryOf s d.ctx r with
        | .bad _ _ => true
        | .spoilt => true
        | _ => false)
      | .gang _ _ => false
    bad || roomFor s cl c.head || !reservedFor s cl c

/-- TELLER_PLACEMENT (05 R132). -/
def execTellerPlacement (cl : BitVec 5) (s : State) : Out := .next (s.tell cl)

/-- HANDLER_RECHECK (05 R122): a disabled entry is read again; its task is placed when it is enabled now and wins. -/
def execHandlerRecheck (cl : BitVec 5) (s : State) : Out := .next (s.tell cl)

/-- GANG_RESUME (10 R266, 05 R135): the saved gang is the winner's head at the cluster. -/
def execGangResume (g : BitVec 16) (cl : BitVec 5) (s : State) : Out :=
  match winner s cl with
  | some (c, r) =>
    (match c.head with
      | .gang id _ => if id = g.toNat then .next ((s.putRing cl r).placeHead cl c) else .next s
      | .record _ _ _ => .next s)
  | none => .next s

/-! ### Pre-emption (05 R134) -/

/-- Gangs of a cluster that a head may pre-empt, the first to choose first. -/
def victims (s : State) (cl : BitVec 5) (prio : Nat) : List (Nat × Gang) :=
  let vs := s.gangs.filter (fun p => p.2.cluster = cl && !p.2.saved && p.2.prio.toNat < prio && p.2.policy ≠ 0 && p.2.frame.isSome)
  let before (a b : Nat × Gang) : Bool := a.2.prio.toNat < b.2.prio.toNat || (a.2.prio = b.2.prio && b.2.placedAt ≤ a.2.placedAt)
  vs.foldr (fun a l =>
    let rec put : List (Nat × Gang) → List (Nat × Gang)
      | [] => [a]
      | b :: bs => if before a b then a :: b :: bs else b :: put bs
    put l) []

/-- The machine as it would be with gangs' resources free; X banks that no hart needs then are free too (06 R157). -/
def withoutGangs (s : State) (gs : List (Nat × Gang)) : State :=
  let gone (h : Hart) : Bool := gs.any (fun p => p.1 = h.gang.toNat)
  let s := { s with hart := if gone s.hart then Hart.empty else s.hart, harts := s.harts.filter (fun h => !gone h) }
  let s := gs.foldl (fun s p => s.releaseBanks p.2.cluster p.2.banks) s
  ((gs.flatMap (fun p => (List.range 8).map (fun i => BitVec.ofNat 8 (8 * p.2.cluster.toNat + i)))).eraseDups).foldl (fun s c => s.settleNow c) s

/-- The shortest run of victims whose resources make room for a head. -/
def enough (s : State) (cl : BitVec 5) (h : Head) (vs : List (Nat × Gang)) : Option (List (Nat × Gang)) :=
  ((List.range (vs.length + 1)).map vs.take).find? (fun gs => roomFor (withoutGangs s gs) cl h)

/-- The head that waits at a cluster past 20 µs, with the gangs it would pre-empt. -/
def preemptable (s : State) (cl : BitVec 5) : Option (List (Nat × Gang)) :=
  match winner s cl, (s.cluster cl).reserved with
  | some (c, _), some r =>
    if reservedFor s cl c ∧ r.since + 20000 ≤ s.pkg.dtime.toNat ∧ ¬ roomFor s cl c.head then
      (enough s cl c.head (victims s cl c.prio)).filter (fun gs => gs.any (fun p => !p.2.preempt))
    else none
  | _, _ => none

/-- PREEMPTION_REQUEST (05 R134). -/
def execPreemptionRequest (cl : BitVec 5) (s : State) : Out :=
  match preemptable s cl with
  | none => .next s
  | some gs => .next (gs.foldl (fun s p => s.modGang (BitVec.ofNat 16 p.1) (fun g => { g with preempt := true })) s)

/-! ### Purses (05 R136) -/

/-- The weight that a purse's key stands for. -/
def purseWeight (s : State) (key : Nat) : Nat :=
  if 65536 ≤ key then ((tget s.gangs (key - 65536)).map (fun g => g.weight.toNat)).getD 0
  else ((tget s.queues key).map (fun d => d.weight.toNat)).getD 0

/-- The keys of the purses of a core: those with harts on it. -/
def purseKeys (s : State) (core : BitVec 8) : List Nat :=
  ((s.allHarts.filter (fun h => h.core = core)).filterMap (fun h => h.purse s)).eraseDups

/-- `n` refills of a core's purses (05 R136). -/
def State.refill (s : State) (core : BitVec 8) (n : Nat) : State :=
  let ks := purseKeys s core
  let w := (ks.map (purseWeight s)).sum
  let one (ps : Table Int) (k : Nat) : Table Int :=
    let share : Int := if w = 0 then 0 else (32768 * purseWeight s k / w : Nat)
    tset ps k (min (tgetD ps k 0 + n * share) (2 * share))
  if n = 0 ∨ ks = [] then s else s.modCore core (fun c => { c with purses := ks.foldl one c.purses })

/-- PURSE_REFILL (05 R136). -/
def execPurseRefill (core : BitVec 8) (s : State) : Out := .next (s.refill core 1)

end Sys2Proof.Machine
end

