-- ==== Sys2Proof/Machine/Turn.lean ====
section
/-!
DEFINITION. A hart's turn: what comes before its next instruction (06 R145 to R147; 10 R256, R257, R260, R270 to R272), the fetch, and the
instruction it runs; the waits of an instruction that goes on; and the sequencer of a core (05 R137).
-/
namespace Sys2Proof.Machine

/-- What a turn does. -/
inductive Turn where
  /-- nothing more: the turn is over -/
  | done (s : State)
  /-- an instruction -/
  | run (i : Instr) (s : State)
  /-- an event of the hart -/
  | out (o : Out)

/-- Device time passes: the tellers' rings forget queues that are not eligible any more (05 R131), and every core's purses take the refills
that have come due (05 R136). -/
def State.pass (s : State) (n : Nat) : State :=
  let before := s.cycles / 1024
  let s := s.settleRings.tick n
  let k := s.cycles / 1024 - before
  if k = 0 then s else ((s.allHarts.map (fun h => h.core)).eraseDups).foldl (fun s c => s.refill c k) s

/-! ### The next instruction -/

/-- The core halts at a breakpoint on the fetched instruction of so many bytes (10 R271). -/
def breakTurn (s : State) (n : Nat) : Option State :=
  (breakHit s s.hart.pc n).map (fun m => (s.withHart (fun h => { h with cvMember := BitVec.ofNat 3 m })).applyNeed (.halt 2))

/-- The fetched instruction, or the trap of its fetch, or the illegal instruction that its encoding is (12 R312, R317). -/
def fetchTurn (s : State) : Turn :=
  match s.fetch with
  | (.trap c t pc m, s) => .done (s.fetchTrap c t pc m)
  | (.bytes bs, s) =>
    match breakTurn s (startSize (lineWord bs 0)) with
    | some s => .done s
    | none =>
      match decode bs with
      | .ok (i, _) => .run i s
      | .error .orphanBody => .done (s.fetchTrap 0x03 ((lineWord bs 0).setWidth 64) s.hart.pc 0)
      | .error _ => .run (.illegalInstruction (lineWord bs 0)) s

/-- The current hart is the one that its halted core steps, and how (10 R272). -/
def stepsNow (s : State) : Option Bool :=
  let c := s.core s.hart.core
  if c.dHalted ∧ c.dShart = s.hart.slot then c.stepping else none

/-- The hart's core runs: it is not halted, or the hart is the one that steps (10 R270, R272). -/
def coreRuns (s : State) : Bool := !(s.core s.hart.core).dHalted || (stepsNow s).isSome

/-- A step of the current hart has begun. -/
def State.began (s : State) : State :=
  if (stepsNow s).isSome then s.modCore s.hart.core (fun c => { c with stepBegan := true }) else s

/-- The stepped hart has done what it was stepped for, and waits for the core to halt again. -/
def stepDone (s : State) : Bool := (stepsNow s).isSome && (s.core s.hart.core).stepBegan && s.hart.replies.isEmpty

/-- The next instruction, or repeat step. -/
def nextTurn (s : State) : Turn :=
  if stepsNow s = some true then .out s.repStep else fetchTurn s.began

/-- The oldest convoy of the hart issues, when the sequencer chooses the hart, or drains (05 R137, 06 R146, R147). -/
def convoyTurn (s : State) : Turn :=
  match s.hart.disp with
  | [] => .done s
  | v :: _ => if v.issued then .out (execConvoyDrain s.hart.ref s) else .out (execConvoyIssue s.hart.ref s)

/-- What waited executes again. -/
def againTurn (s : State) : Turn :=
  let s := s.withHart Hart.wake
  if s.hart.disp.isEmpty then nextTurn s else convoyTurn s

/-! ### Pre-emption points (05 R134, 10 R260) -/

/-- The hart is to be saved here: it is, once it is ready, and issues nothing before. -/
def saveTurn (s : State) : Option Turn :=
  if ¬ (s.core s.hart.core).dHalted ∧ s.hart.rep.isNone ∧ savePoint s then
    some (if saveReady s then .out (execHartSave s.hart.ref s) else .done s)
  else none

/-! ### Turns -/

/-- The oldest closing point can store its record now (10 R278). -/
def stripCan (s : State) : Bool :=
  s.hart.stripDue.head?.any (fun d => d.counts.isSome) && s.hart.replies.isEmpty
    && (transfersMet s (stripSlot s.hart).toNat 32 true).isEmpty

/-- The turn of a hart that waits for nothing. -/
def restTurn (s : State) : Turn :=
  if ¬ s.hart.replies.isEmpty then againTurn s
  else if s.cycles < s.hart.pauseUntil then .done s
  else if ¬ s.hart.disp.isEmpty then convoyTurn s
  else if stepDone s then .done s
  else
    match saveTurn s with
    | some t => t
    | none =>
      if s.hart.interruptible ∧ s.hart.rep.isNone then .out (execUserInterruptEntry s.hart.ref s.began)
      else nextTurn s

/-- The turn of a hart that waits; the end of a wait is that of the instruction a step runs (10 R272). -/
def waitTurn (s : State) : Turn :=
  let r := s.hart.ref
  let stay : Turn := (saveTurn s).getD (.done s)
  match s.hart.wait with
  | .none => .done s
  | .ticket tile k cl => if (ticketAt s cl tile).s = k then .out (execTkwaitGrant r s.began) else stay
  | .hwait a e _ t =>
    match hwaitLook s a e t with
    | .ok (some _) _ => .out (execHwaitWake r s.began)
    | .trap _ _ => .out (execHwaitWake r s.began)
    | _ => stay
  | .gbar =>
    match tget s.gangs s.hart.gang.toNat with
    | none => .done s
    | some g =>
      if g.ended ≠ 0 then againTurn s
      else if g.barArr = ranksOf g ∧ g.savedRanks = 0 then .out (execGbarComplete s.hart.gang s.began)
      else stay
  | .fence _ _ report _ => if ¬ fenceOver s then .done s else if report then .out (execFenceWaitEnd r s.began) else againTurn s
  | .fenceI => if fenceOver s then againTurn s else .done s
  | .viswait t => if t.toNat ≤ s.pkg.dtime.toNat then againTurn s else stay
  | .stv _ (some _) => .out (execStvReply r s)
  | .transfer => againTurn s
  | .drain => againTurn s
  | .ctload => againTurn s
  | .texit => if exitReady s then againTurn s else .done s
  | _ => .done s

/-- The turn of a hart whose core is halted: its convoys drain, and an instruction that has asked something ends (10 R270). -/
def haltedTurn (s : State) : Turn :=
  if s.hart.disp.isEmpty ∧ s.hart.replies.isEmpty then .done s
  else
    match s.hart.wait with
    | .none => if s.hart.replies.isEmpty then convoyTurn s else againTurn s
    | .transfer => againTurn s
    | .drain => againTurn s
    | .viswait t => if t.toNat ≤ s.pkg.dtime.toNat then againTurn s else .done s
    | .fence _ _ _ _ => if fenceOver s then againTurn s else .done s
    | _ => .done s

/-- The turn of the hart in a slot, one tick after the last move (log 3). -/
def turn (r : HartRef) (s : State) : Turn :=
  let s := (s.select r).pass 1
  if ¬ s.hart.live ∨ s.hart.ref ≠ r ∨ (s.ctx s.hart.ctx).state ≠ .running then .done s
  else if stripCan s then .out (execStripClose s.hart.ref s)
  else if ¬ coreRuns s then haltedTurn s
  else if s.hart.wait = .none then restTurn s
  else waitTurn s

/-- The sequencer's choice issues (05 R137). -/
def State.sequence (s : State) (h : Hart) : Out := execConvoyIssue h.ref (s.pass 1)

/-- The state in which `turn` fetches these bytes next: a running hart in user mode with nothing in flight, a translation of
its pc's page, and the bytes in memory from there on (log 7). -/
def State.placeCode (s : State) (bs : List Byte) : State :=
  let h := { s.hart with live := true, wait := .none, disp := [], stripDue := [], replies := [], rep := none, uieIe := false, pauseUntil := 0
                         pc := s.hart.pc &&& 0x3FFFFF80#64 }
  let pa := h.pc.toNat
  let t : TlbEntry := { second := false, unit := h.core, ctx := h.ctx, base := pa / 4096 * 4096, bits := 12
                        leaf := BitVec.ofNat 64 (pa / 4096 * 4096 + 0x5B) }
  let s := { s with hart := h, tlb := t :: s.tlb, poison := [], mem := memWrite s.mem pa bs
                    pkg := { s.pkg with stopped := false, powered := true }, agenda := [.hart h.ref] }
  let s := if (s.ctx h.ctx).state = .running then s else s.modCtx h.ctx (fun x => { x with state := .running, run := true })
  match tget s.cores h.core.toNat with
  | none => s
  | some c => { s with cores := tset s.cores h.core.toNat { c with icache := [], dHalted := false, dbbp := 0 } }

end Sys2Proof.Machine
end

