-- ==== Sys2Proof/Machine/Auto.lean ====
section
/-!
DEFINITION. What the package does by itself when the agenda names nothing: the events whose conditions hold, each unit in turn, and the
harts in rotation (log 3).
-/
namespace Sys2Proof.Machine

/-- The listed keys of a table as numbers of `n` bits. -/
def keysOf {α : Type} (n : Nat) (t : Table α) : List (BitVec n) := t.map (fun p => BitVec.ofNat n p.1)

/-- Every cluster, beginning at one that moves on with time. -/
def clusterTurn (s : State) : List (BitVec 5) := (List.range 32).map (fun i => BitVec.ofNat 5 (s.pkg.dtime.toNat / 2 + i))

/-- An event of the first of some units whose condition holds. -/
def firstUnit {α : Type} (us : List α) (p : α → Bool) (f : α → Out) : Option Out := (us.find? p).map f

/-- An event, when its condition holds. -/
def whenever (b : Bool) (o : Unit → Out) : Option Out := if b then some (o ()) else none

/-- A send-queue entry can leave, or ends as aborted. -/
def sendReady (s : State) (core : BitVec 8) (e : SendEntry) : Bool :=
  !e.sent && (callAborted s e || (writesDone s e.rel && !heldBack (s.core core).send e))

/-- The send-queue entries of the package. -/
def allSends (s : State) : List (BitVec 8 × BitVec 6 × SendEntry) :=
  s.cores.flatMap (fun c => c.2.send.map (fun e => (BitVec.ofNat 8 c.1, BitVec.ofNat 6 e.1, e.2)))

/-- A transfer of a stream engine has something to do: its cluster and place. -/
def streamWork (s : State) : Option (BitVec 5 × Nat) :=
  s.clusters.findSome? (fun c =>
    (c.2.stream.zipIdx.find? (fun x => xferComplete s x.1 || (x.1.runs && !x.1.left.isEmpty && !ringFull s x.1))).map (fun x => (BitVec.ofNat 5 c.1, x.2)))

/-- The harts with a push that can be released. -/
def releasable (s : State) (h : Hart) : Bool :=
  s.queues.any (fun q => q.2.recs.any (fun x => x.rel.any (fun e => e.of s h.ref && writesDone s e)))

/-- A push of a hart that is no longer resident can be released. -/
def strayRelease (s : State) : Option Release :=
  s.queues.findSome? (fun q => (q.2.recs.filterMap (fun x => x.rel)).find? (fun e =>
    !s.allHarts.any (fun h => h.gang = e.gang && h.rank = e.rank) && writesDone s e))

/-- A slot that holds no hart. -/
def emptySlot (s : State) : Option HartRef :=
  ((List.range 4096).map (fun k => ({ core := BitVec.ofNat 8 (k / 16), slot := BitVec.ofNat 4 k } : HartRef))).find?
    (fun r => (s.findHart r).isNone)

/-- A released parked record can be appended, or has an error and is removed (02 R55). -/
def appendable (s : State) (p : Parked) : Bool :=
  p.released && (match tget s.queues p.qid.toNat with
    | some d => p.bad || d.depth < capRecords d.cap
    | none => p.bad)

/-- Fills that cores wait for: core, line and number (08 R198). -/
def pendingFills (s : State) : List (BitVec 8 × Nat × BitVec 8) :=
  s.dir.flatMap (fun (d : Nat × DirLine) => d.2.pending.map (fun p => (p.1, d.1, p.2.1)))

/-- A link sends a flit now: of a replay, or of a packet with credits and room in the retry buffer (01 R29 to R31). -/
def Link.sends (l : Link) : Bool := l.state = .active && (!l.replay.isEmpty || (l.retry.length < 1024 && l.choose.isSome))

/-- A link has been in a state for so many ticks. -/
def Link.lasted (l : Link) (st : LinkState) (now ticks : Nat) : Bool := l.state = st && l.since + ticks ≤ now

/-- The events of the package's units. -/
def works : List (State → Option Out) :=
  [ fun s => firstUnit (keysOf 8 s.ctxs) (fun c => (s.ctx c).state = .resetting && !resetWaits s c) (fun c => execContextResetComplete c s)
  , fun s => whenever (s.dumpCtx.isNone && !s.dumpWaiting.isEmpty) (fun _ => execDumpStart s)
  , fun s => whenever s.dumpCtx.isSome (fun _ => execDumpComplete s)
  , fun s => firstUnit (keysOf 8 s.ctxs) (fun c => (s.ctx c).stopPending && (s.residentGangs c).isEmpty) (fun c => execPendingStopComplete c s)
  , fun s => firstUnit (keysOf 8 s.ctxs) (fun c => !(s.ctx c).tlbinv.isEmpty) (fun c => execTlbInvalidationComplete c s)
  , fun s => whenever (nextArrival s [] s.ltransit).isSome (fun _ => execLWriteArrival s)
  , fun s => firstUnit (pendingFills s) (fun _ => true) (fun p => execLineFill p.1 p.2.1 p.2.2 s)
  , fun s => firstUnit s.sauq (fun w => !w.placed) (fun w => execSauOperation w.op s)
  , fun s => firstUnit s.sauq (fun w => w.placed && sauReady s w) (fun w => execSauChainApply (sauLine w.op) s)
  , fun s => firstUnit s.rings (ringReady s) (fun j => .next (s.ringStep j))
  , fun s => firstUnit (keysOf 2 s.dies) (fun d => !(s.die d).missQ.isEmpty) (fun d => execPageWalk d s)
  , fun s => firstUnit (keysOf 5 s.clusters) (fun c => !(s.cluster c).bankCmd.isEmpty) (fun c => execTosComplete c s)
  , fun s => firstUnit (keysOf 5 s.clusters) (fun c => (startable s (.stream c)).isSome) (fun c => execTransferStart c s)
  , fun s => (streamWork s).map (fun w => execTransferDone w.1 w.2 s)
  , fun s => firstUnit (keysOf 2 s.dies) (fun d => (startable s (.sort d)).isSome) (fun d => execSortStart d s)
  , fun s => firstUnit (keysOf 2 s.dies) (fun d => (s.die d).sort.any (fun x => x.runs)) (fun d => execSortDone d s)
  , fun s => firstUnit (keysOf 5 s.clusters) (fun c => (s.cluster c).escrow.head?.any (fun e => !e.waiting)) (fun c => execAuditEntryProcess c s)
  , fun s => firstUnit (allSends s) (fun e => sendReady s e.1 e.2.2) (fun e => execXcallPacketSend e.1 e.2.1 s)
  , fun s => firstUnit (allSends s) (fun e => e.2.2.sent && e.2.2.since + 2 * lrTicks s ≤ s.pkg.dtime.toNat) (fun e => execCallLost e.1 e.2.1 s)
  , fun s => whenever (s.reports.any (fun e => e.rels.all (writesDone s))) (fun _ => execTaskEndReport s)
  , fun s => whenever (s.ends.head?.any (fun e => !joinHeld s e)) (fun _ => execJoinDecrement s)
  , fun s => firstUnit s.allHarts (releasable s) (fun h => execPushReleaseComplete h.ref s)
  , fun s => (strayRelease s).bind (fun _ => (emptySlot s).map (fun r => execPushReleaseComplete r s))
  , fun s => firstUnit s.park (appendable s) (fun p => execReleasedRecordAppend p.qid s)
  , fun s => whenever (s.peerAcks.any (fun a => a.v ≤ s.pkg.dtime.toNat)) (fun _ => execPeerLWriteAck s)
  , fun s => whenever (s.insertions.head?.any (insertionReady s)) (fun _ => execInsertionSend s)
  , fun s => firstUnit s.fab.reqs (fun r => r.away s.fab.devid && r.since + 2 * lrTicks s ≤ s.pkg.dtime.toNat) (fun r => execRequestTimeout r.tag s)
  , fun s => whenever s.pkg.stage (fun _ => execStagingComplete s)
  , fun s => firstUnit (clusterTurn s) (fun c => s.pkg.maintCl = some c && clusterBusy s c && (s.cluster c).closed.any (fun t => t + 1000000000 ≤ s.pkg.dtime.toNat))
      (fun c => execMaintClusterTimeout c s)
  , fun s => firstUnit (keysOf 8 s.cores) (stepOver s) (fun c => execStepComplete c s)
  , fun s => firstUnit (clusterTurn s) (fun c => (preemptable s c).isSome) (fun c => execPreemptionRequest c s)
  , fun s => firstUnit (clusterTurn s) (tellerBusy s) (fun c => execTellerPlacement c s)
  , fun s => firstUnit portList (fun p => (s.link p).state = .down && s.fab.lnken.getLsbD p.toNat && s.pkg.bootState = 4) (fun p => .next (s.linkDetect p))
  , fun s => firstUnit portList (stampDue s) (fun p => execTimeStampExchange p s)
  , fun s => firstUnit (keysOf 4 s.links) (fun p => (s.link p).state = .active && 8 ≤ (s.link p).nakRun) (fun p => execRetrainEntry p s)
  , fun s => firstUnit (keysOf 4 s.links) (fun p => (s.link p).sends) (fun p => execFlitTransmit p s)
  , fun s => firstUnit (keysOf 4 s.links) (fun p => (s.link p).state = .active && !(s.link p).rxOwed.isEmpty) (fun p => execCreditReturn p s)
  , fun s => firstUnit (keysOf 4 s.links) (fun p => (s.link p).lasted .train s.pkg.dtime.toNat 100000000) (fun p => execTrainTimeout p s)
  , fun s => firstUnit (keysOf 4 s.links) (fun p => (s.link p).lasted .align s.pkg.dtime.toNat 10000000) (fun p => execAlignTimeout p s)
  , fun s => firstUnit (keysOf 4 s.links) (fun p => (s.link p).lasted .retrain s.pkg.dtime.toNat (lrTicks s)) (fun p => execLinkRecoveryLimitExpiry p s) ]

/-- The first event of a list whose condition holds. -/
def firstWork : List (State → Option Out) → State → Option Out
  | [], _ => none
  | w :: ws, s =>
    match w s with
    | some o => some o
    | none => firstWork ws s

/-- An event of a unit, the units beginning at one that moves on with time. -/
def unitMove (s : State) : Option Out :=
  let k := s.pkg.dtime.toNat / 2 % works.length
  firstWork (works.drop k ++ works.take k) (s.pass 1)

/-- The number of a slot in the rotation. -/
def refKey (r : HartRef) : Nat := 16 * r.core.toNat + r.slot.toNat

/-- The hart after the current one in the rotation that lies in a core. -/
def nextHart (s : State) : Option HartRef :=
  let rs := (s.allHarts.filter (fun h => h.inCore)).map (fun h => h.ref)
  let least (b : Option HartRef) (r : HartRef) : Option HartRef :=
    match b with
    | none => some r
    | some q => if refKey r < refKey q then some r else some q
  ((rs.filter (fun r => refKey s.hart.ref < refKey r)).foldl least none).or (rs.foldl least none)

/-- A hart's turn becomes a move of the machine; on its core the sequencer issues first. -/
def hartMove (s : State) : Option (Sum Out HartRef) :=
  (nextHart s).map (fun r =>
    match sequencer s r.core with
    | some h => .inl (s.sequence h)
    | none => .inr r)

end Sys2Proof.Machine
end

