-- ==== Sys2Proof/Machine/Dispatch.lean ====
section
/-!
DEFINITION. The dispatch: one arm per constructor of Instr, each one call of its meaning.
-/
namespace Sys2Proof.Machine

/-- What one instruction or one step of the package does. -/
def exec (i : Instr) (s : State) : Host.Outcome State Fault Refusal :=
  match i with
  | .lui rd imm => Sys2Proof.Machine.execLui rd imm s
  | .auipc rd imm => Sys2Proof.Machine.execAuipc rd imm s
  | .jal rd imm => Sys2Proof.Machine.execJal rd imm s
  | .jalr rd rs1 imm => Sys2Proof.Machine.execJalr rd rs1 imm s
  | .beq rs1 rs2 imm => Sys2Proof.Machine.execBeq rs1 rs2 imm s
  | .bne rs1 rs2 imm => Sys2Proof.Machine.execBne rs1 rs2 imm s
  | .blt rs1 rs2 imm => Sys2Proof.Machine.execBlt rs1 rs2 imm s
  | .bge rs1 rs2 imm => Sys2Proof.Machine.execBge rs1 rs2 imm s
  | .bltu rs1 rs2 imm => Sys2Proof.Machine.execBltu rs1 rs2 imm s
  | .bgeu rs1 rs2 imm => Sys2Proof.Machine.execBgeu rs1 rs2 imm s
  | .lb rd rs1 imm => Sys2Proof.Machine.execLb rd rs1 imm s
  | .lh rd rs1 imm => Sys2Proof.Machine.execLh rd rs1 imm s
  | .lw rd rs1 imm => Sys2Proof.Machine.execLw rd rs1 imm s
  | .ld rd rs1 imm => Sys2Proof.Machine.execLd rd rs1 imm s
  | .lbu rd rs1 imm => Sys2Proof.Machine.execLbu rd rs1 imm s
  | .lhu rd rs1 imm => Sys2Proof.Machine.execLhu rd rs1 imm s
  | .lwu rd rs1 imm => Sys2Proof.Machine.execLwu rd rs1 imm s
  | .sb rs1 rs2 imm => Sys2Proof.Machine.execSb rs1 rs2 imm s
  | .sh rs1 rs2 imm => Sys2Proof.Machine.execSh rs1 rs2 imm s
  | .sw rs1 rs2 imm => Sys2Proof.Machine.execSw rs1 rs2 imm s
  | .sd rs1 rs2 imm => Sys2Proof.Machine.execSd rs1 rs2 imm s
  | .addi rd rs1 imm => Sys2Proof.Machine.execAddi rd rs1 imm s
  | .slti rd rs1 imm => Sys2Proof.Machine.execSlti rd rs1 imm s
  | .sltiu rd rs1 imm => Sys2Proof.Machine.execSltiu rd rs1 imm s
  | .xori rd rs1 imm => Sys2Proof.Machine.execXori rd rs1 imm s
  | .ori rd rs1 imm => Sys2Proof.Machine.execOri rd rs1 imm s
  | .andi rd rs1 imm => Sys2Proof.Machine.execAndi rd rs1 imm s
  | .slli rd rs1 sh => Sys2Proof.Machine.execSlli rd rs1 sh s
  | .srli rd rs1 sh => Sys2Proof.Machine.execSrli rd rs1 sh s
  | .srai rd rs1 sh => Sys2Proof.Machine.execSrai rd rs1 sh s
  | .addiw rd rs1 imm => Sys2Proof.Machine.execAddiw rd rs1 imm s
  | .slliw rd rs1 sh => Sys2Proof.Machine.execSlliw rd rs1 sh s
  | .srliw rd rs1 sh => Sys2Proof.Machine.execSrliw rd rs1 sh s
  | .sraiw rd rs1 sh => Sys2Proof.Machine.execSraiw rd rs1 sh s
  | .add rd rs1 rs2 => Sys2Proof.Machine.execAdd rd rs1 rs2 s
  | .sub rd rs1 rs2 => Sys2Proof.Machine.execSub rd rs1 rs2 s
  | .sll rd rs1 rs2 => Sys2Proof.Machine.execSll rd rs1 rs2 s
  | .slt rd rs1 rs2 => Sys2Proof.Machine.execSlt rd rs1 rs2 s
  | .sltu rd rs1 rs2 => Sys2Proof.Machine.execSltu rd rs1 rs2 s
  | .xorr rd rs1 rs2 => Sys2Proof.Machine.execXorr rd rs1 rs2 s
  | .srl rd rs1 rs2 => Sys2Proof.Machine.execSrl rd rs1 rs2 s
  | .sra rd rs1 rs2 => Sys2Proof.Machine.execSra rd rs1 rs2 s
  | .orr rd rs1 rs2 => Sys2Proof.Machine.execOrr rd rs1 rs2 s
  | .andd rd rs1 rs2 => Sys2Proof.Machine.execAndd rd rs1 rs2 s
  | .mul rd rs1 rs2 => Sys2Proof.Machine.execMul rd rs1 rs2 s
  | .mulh rd rs1 rs2 => Sys2Proof.Machine.execMulh rd rs1 rs2 s
  | .mulhsu rd rs1 rs2 => Sys2Proof.Machine.execMulhsu rd rs1 rs2 s
  | .mulhu rd rs1 rs2 => Sys2Proof.Machine.execMulhu rd rs1 rs2 s
  | .div rd rs1 rs2 => Sys2Proof.Machine.execDiv rd rs1 rs2 s
  | .divu rd rs1 rs2 => Sys2Proof.Machine.execDivu rd rs1 rs2 s
  | .rem rd rs1 rs2 => Sys2Proof.Machine.execRem rd rs1 rs2 s
  | .remu rd rs1 rs2 => Sys2Proof.Machine.execRemu rd rs1 rs2 s
  | .addw rd rs1 rs2 => Sys2Proof.Machine.execAddw rd rs1 rs2 s
  | .subw rd rs1 rs2 => Sys2Proof.Machine.execSubw rd rs1 rs2 s
  | .sllw rd rs1 rs2 => Sys2Proof.Machine.execSllw rd rs1 rs2 s
  | .srlw rd rs1 rs2 => Sys2Proof.Machine.execSrlw rd rs1 rs2 s
  | .sraw rd rs1 rs2 => Sys2Proof.Machine.execSraw rd rs1 rs2 s
  | .mulw rd rs1 rs2 => Sys2Proof.Machine.execMulw rd rs1 rs2 s
  | .divw rd rs1 rs2 => Sys2Proof.Machine.execDivw rd rs1 rs2 s
  | .divuw rd rs1 rs2 => Sys2Proof.Machine.execDivuw rd rs1 rs2 s
  | .remw rd rs1 rs2 => Sys2Proof.Machine.execRemw rd rs1 rs2 s
  | .remuw rd rs1 rs2 => Sys2Proof.Machine.execRemuw rd rs1 rs2 s
  | .lr rd rs1 a => Sys2Proof.Machine.execLr rd rs1 a s
  | .sc rd rs1 rs2 a => Sys2Proof.Machine.execSc rd rs1 rs2 a s
  | .amoswap rd rs1 rs2 a => Sys2Proof.Machine.execAmoswap rd rs1 rs2 a s
  | .amoadd rd rs1 rs2 a => Sys2Proof.Machine.execAmoadd rd rs1 rs2 a s
  | .amoxor rd rs1 rs2 a => Sys2Proof.Machine.execAmoxor rd rs1 rs2 a s
  | .amoand rd rs1 rs2 a => Sys2Proof.Machine.execAmoand rd rs1 rs2 a s
  | .amoor rd rs1 rs2 a => Sys2Proof.Machine.execAmoor rd rs1 rs2 a s
  | .amomin rd rs1 rs2 a => Sys2Proof.Machine.execAmomin rd rs1 rs2 a s
  | .amomax rd rs1 rs2 a => Sys2Proof.Machine.execAmomax rd rs1 rs2 a s
  | .amominu rd rs1 rs2 a => Sys2Proof.Machine.execAmominu rd rs1 rs2 a s
  | .amomaxu rd rs1 rs2 a => Sys2Proof.Machine.execAmomaxu rd rs1 rs2 a s
  | .fence rd rs1 fm pred succ => Sys2Proof.Machine.execFence rd rs1 fm pred succ s
  | .fenceTso rd rs1 => Sys2Proof.Machine.execFenceTso rd rs1 s
  | .pause => Sys2Proof.Machine.execPause s
  | .fenceI rd rs1 imm => Sys2Proof.Machine.execFenceI rd rs1 imm s
  | .ecall => Sys2Proof.Machine.execEcall s
  | .ebreak => Sys2Proof.Machine.execEbreak s
  | .csrrw rd rs1 csr => Sys2Proof.Machine.execCsrrw rd rs1 csr s
  | .csrrs rd rs1 csr => Sys2Proof.Machine.execCsrrs rd rs1 csr s
  | .csrrc rd rs1 csr => Sys2Proof.Machine.execCsrrc rd rs1 csr s
  | .csrrwi rd imm csr => Sys2Proof.Machine.execCsrrwi rd imm csr s
  | .csrrsi rd imm csr => Sys2Proof.Machine.execCsrrsi rd imm csr s
  | .csrrci rd imm csr => Sys2Proof.Machine.execCsrrci rd imm csr s
  | .vsetvl rd rs1 eew grp => Sys2Proof.Machine.execVsetvl rd rs1 eew grp s
  | .vsetvlB rd rs1 eew grp => Sys2Proof.Machine.execVsetvlB rd rs1 eew grp s
  | .vsetshape rd rs1 rs2 eew grp => Sys2Proof.Machine.execVsetshape rd rs1 rs2 eew grp s
  | .vsetshapeB rd rs1 rs2 eew grp => Sys2Proof.Machine.execVsetshapeB rd rs1 rs2 eew grp s
  | .tshape rd rs1 rs2 => Sys2Proof.Machine.execTshape rd rs1 rs2 s
  | .tfree rs1 => Sys2Proof.Machine.execTfree rs1 s
  | .ctload rd rs1 rs2 => Sys2Proof.Machine.execCtload rd rs1 rs2 s
  | .tqpush rd rs1 rs2 => Sys2Proof.Machine.execTqpush rd rs1 rs2 s
  | .tqpushP rd rs1 rs2 => Sys2Proof.Machine.execTqpushP rd rs1 rs2 s
  | .texit => Sys2Proof.Machine.execTexit s
  | .gbar => Sys2Proof.Machine.execGbar s
  | .tyield => Sys2Proof.Machine.execTyield s
  | .xcall rd rs1 rs2 => Sys2Proof.Machine.execXcall rd rs1 rs2 s
  | .fenceScoped rd scope => Sys2Proof.Machine.execFenceScoped rd scope s
  | .fenceAcq scope => Sys2Proof.Machine.execFenceAcq scope s
  | .fenceRel rd scope => Sys2Proof.Machine.execFenceRel rd scope s
  | .viswait rs1 => Sys2Proof.Machine.execViswait rs1 s
  | .tkget rd rs1 => Sys2Proof.Machine.execTkget rd rs1 s
  | .tkwait rs1 rs2 => Sys2Proof.Machine.execTkwait rs1 rs2 s
  | .tkdone rs1 => Sys2Proof.Machine.execTkdone rs1 s
  | .stv rd rs1 rs2 => Sys2Proof.Machine.execStv rd rs1 rs2 s
  | .sxfer rd rs1 rs2 => Sys2Proof.Machine.execSxfer rd rs1 rs2 s
  | .sort rd rs1 rs2 => Sys2Proof.Machine.execSort rd rs1 rs2 s
  | .estat rd rs1 => Sys2Proof.Machine.execEstat rd rs1 s
  | .ecancel rd rs1 => Sys2Proof.Machine.execEcancel rd rs1 s
  | .tret => Sys2Proof.Machine.execTret s
  | .hwait rd rs1 rs2 => Sys2Proof.Machine.execHwait rd rs1 rs2 s
  | .sfenceT rs1 rs2 => Sys2Proof.Machine.execSfenceT rs1 rs2 s
  | .uiret => Sys2Proof.Machine.execUiret s
  | .ctrig rs1 => Sys2Proof.Machine.execCtrig rs1 s
  | .tmark rs1 => Sys2Proof.Machine.execTmark rs1 s
  | .illegalInstruction w => Sys2Proof.Machine.execIllegalInstruction w s
  | .convoy hdr bodies => Sys2Proof.Machine.execConvoy hdr bodies s
  | .boot trainOk linksOk => Sys2Proof.Machine.execBoot trainOk linksOk s
  | .convoyIssue h => Sys2Proof.Machine.execConvoyIssue h s
  | .convoyDrain h => Sys2Proof.Machine.execConvoyDrain h s
  | .userInterruptEntry h => Sys2Proof.Machine.execUserInterruptEntry h s
  | .hartSave h => Sys2Proof.Machine.execHartSave h s
  | .stripClose h => Sys2Proof.Machine.execStripClose h s
  | .tkwaitGrant h => Sys2Proof.Machine.execTkwaitGrant h s
  | .hwaitWake h => Sys2Proof.Machine.execHwaitWake h s
  | .gbarComplete g => Sys2Proof.Machine.execGbarComplete g s
  | .fenceWaitEnd h => Sys2Proof.Machine.execFenceWaitEnd h s
  | .systemFenceTimeout h => Sys2Proof.Machine.execSystemFenceTimeout h s
  | .viswaitEnd h => Sys2Proof.Machine.execViswaitEnd h s
  | .stvReply h => Sys2Proof.Machine.execStvReply h s
  | .vlbRebind h => Sys2Proof.Machine.execVlbRebind h s
  | .tellerPlacement cl => Sys2Proof.Machine.execTellerPlacement cl s
  | .handlerRecheck cl => Sys2Proof.Machine.execHandlerRecheck cl s
  | .preemptionRequest cl => Sys2Proof.Machine.execPreemptionRequest cl s
  | .gangResume g cl => Sys2Proof.Machine.execGangResume g cl s
  | .pendingStopComplete c => Sys2Proof.Machine.execPendingStopComplete c s
  | .contextResetComplete c => Sys2Proof.Machine.execContextResetComplete c s
  | .tlbInvalidationComplete c => Sys2Proof.Machine.execTlbInvalidationComplete c s
  | .pageWalk die => Sys2Proof.Machine.execPageWalk die s
  | .xcallPacketSend core entry => Sys2Proof.Machine.execXcallPacketSend core entry s
  | .pushReleaseComplete h => Sys2Proof.Machine.execPushReleaseComplete h s
  | .releasedRecordAppend qid => Sys2Proof.Machine.execReleasedRecordAppend qid s
  | .joinDecrement => Sys2Proof.Machine.execJoinDecrement s
  | .taskEndReport => Sys2Proof.Machine.execTaskEndReport s
  | .tosComplete cl => Sys2Proof.Machine.execTosComplete cl s
  | .transferStart cl => Sys2Proof.Machine.execTransferStart cl s
  | .sortStart die => Sys2Proof.Machine.execSortStart die s
  | .transferDone cl x => Sys2Proof.Machine.execTransferDone cl x s
  | .sortDone die => Sys2Proof.Machine.execSortDone die s
  | .auditEntryProcess cl => Sys2Proof.Machine.execAuditEntryProcess cl s
  | .dumpStart => Sys2Proof.Machine.execDumpStart s
  | .dumpComplete => Sys2Proof.Machine.execDumpComplete s
  | .stagingComplete => Sys2Proof.Machine.execStagingComplete s
  | .insertionSend => Sys2Proof.Machine.execInsertionSend s
  | .peerLWriteAck => Sys2Proof.Machine.execPeerLWriteAck s
  | .lWritePerform line => Sys2Proof.Machine.execLWritePerform line s
  | .counterLatch => Sys2Proof.Machine.execCounterLatch s
  | .purseRefill core => Sys2Proof.Machine.execPurseRefill core s
  | .stepComplete core => Sys2Proof.Machine.execStepComplete core s
  | .powerOnReset => Sys2Proof.Machine.execPowerOnReset s
  | .perstAssert => Sys2Proof.Machine.execPerstAssert s
  | .bootctlPkrst => Sys2Proof.Machine.execBootctlPkrst s
  | .bootctlStage => Sys2Proof.Machine.execBootctlStage s
  | .mailboxWrite off half data => Sys2Proof.Machine.execMailboxWrite off half data s
  | .bootctlMaint => Sys2Proof.Machine.execBootctlMaint s
  | .maintClusterMeasure cl num den => Sys2Proof.Machine.execMaintClusterMeasure cl num den s
  | .maintClusterTimeout cl => Sys2Proof.Machine.execMaintClusterTimeout cl s
  | .thermctlWrite half data => Sys2Proof.Machine.execThermctlWrite half data s
  | .throttleStep tj watts => Sys2Proof.Machine.execThrottleStep tj watts s
  | .thermalTrip cl sensor tj => Sys2Proof.Machine.execThermalTrip cl sensor tj s
  | .uncorrectableStateError => Sys2Proof.Machine.execUncorrectableStateError s
  | .patrolScrub pa => Sys2Proof.Machine.execPatrolScrub pa s
  | .dieLinkReplay repair => Sys2Proof.Machine.execDieLinkReplay repair s
  | .dieLinkFailure => Sys2Proof.Machine.execDieLinkFailure s
  | .getVersion => Sys2Proof.Machine.execGetVersion s
  | .getCapabilities => Sys2Proof.Machine.execGetCapabilities s
  | .negotiateAlgorithms rsa3072 sha384 => Sys2Proof.Machine.execNegotiateAlgorithms rsa3072 sha384 s
  | .getDigests => Sys2Proof.Machine.execGetDigests s
  | .getCertificate slot off len => Sys2Proof.Machine.execGetCertificate slot off len s
  | .challenge slot nonce => Sys2Proof.Machine.execChallenge slot nonce s
  | .getMeasurements index nonce => Sys2Proof.Machine.execGetMeasurements index nonce s
  | .spdmUnsupportedRequest code => Sys2Proof.Machine.execSpdmUnsupportedRequest code s
  | .codewordReceive port fec f0 f1 f2 f3 => Sys2Proof.Machine.execCodewordReceive port fec f0 f1 f2 f3 s
  | .nakReceived port ack => Sys2Proof.Machine.execNakReceived port ack s
  | .creditFlitReceived port incs => Sys2Proof.Machine.execCreditFlitReceived port incs s
  | .creditReturn port => Sys2Proof.Machine.execCreditReturn port s
  | .flitTransmit port => Sys2Proof.Machine.execFlitTransmit port s
  | .packetForward p => Sys2Proof.Machine.execPacketForward p s
  | .timeStampExchange port => Sys2Proof.Machine.execTimeStampExchange port s
  | .timeStampRequest p => Sys2Proof.Machine.execTimeStampRequest p s
  | .timeStampResponse p => Sys2Proof.Machine.execTimeStampResponse p s
  | .linkDetectComplete port lanes => Sys2Proof.Machine.execLinkDetectComplete port lanes s
  | .trainSuccess port => Sys2Proof.Machine.execTrainSuccess port s
  | .trainTimeout port => Sys2Proof.Machine.execTrainTimeout port s
  | .alignLock port => Sys2Proof.Machine.execAlignLock port s
  | .alignTimeout port => Sys2Proof.Machine.execAlignTimeout port s
  | .paramExchange port peer sizes => Sys2Proof.Machine.execParamExchange port peer sizes s
  | .retrainEntry port => Sys2Proof.Machine.execRetrainEntry port s
  | .retrainDone port lanes => Sys2Proof.Machine.execRetrainDone port lanes s
  | .linkRecoveryLimitExpiry port => Sys2Proof.Machine.execLinkRecoveryLimitExpiry port s
  | .requestTimeout tag => Sys2Proof.Machine.execRequestTimeout tag s
  | .fabctlDevidWrite id => Sys2Proof.Machine.execFabctlDevidWrite id s
  | .fabctlLnkenWrite en => Sys2Proof.Machine.execFabctlLnkenWrite en s
  | .nbcmdRead v => Sys2Proof.Machine.execNbcmdRead v s
  | .nbcmdWrite v => Sys2Proof.Machine.execNbcmdWrite v s
  | .nbcmdAnswer p => Sys2Proof.Machine.execNbcmdAnswer p s
  | .nbcmdTimeout => Sys2Proof.Machine.execNbcmdTimeout s
  | .rtaccSet v => Sys2Proof.Machine.execRtaccSet v s
  | .registerWrite t off half data => Sys2Proof.Machine.execRegisterWrite t off half data s
  | .mgtRegisterRead p => Sys2Proof.Machine.execMgtRegisterRead p s
  | .mgtRegisterWrite p => Sys2Proof.Machine.execMgtRegisterWrite p s
  | .mgtRegisterData p => Sys2Proof.Machine.execMgtRegisterData p s
  | .mgtAcknowledge p => Sys2Proof.Machine.execMgtAcknowledge p s
  | .mgtLinkEvent p => Sys2Proof.Machine.execMgtLinkEvent p s
  | .slotManagementAccess slot block off half wr => Sys2Proof.Machine.execSlotManagementAccess slot block off half wr s
  | .memoryWindowRead off half => Sys2Proof.Machine.execMemoryWindowRead off half s
  | .memoryWindowWrite off half data => Sys2Proof.Machine.execMemoryWindowWrite off half data s
  | .cxlMemAccess pa wr len => Sys2Proof.Machine.execCxlMemAccess pa wr len s
  | .hostInsertion slot queue off whole rec => Sys2Proof.Machine.execHostInsertion slot queue off whole rec s
  | .queueInsertionArrival p => Sys2Proof.Machine.execQueueInsertionArrival p s
  | .insertionReport p => Sys2Proof.Machine.execInsertionReport p s
  | .insertionStatusRead slot queue off half => Sys2Proof.Machine.execInsertionStatusRead slot queue off half s
  | .hostRead p => Sys2Proof.Machine.execHostRead p s
  | .hostReadData p => Sys2Proof.Machine.execHostReadData p s
  | .hostWrite p => Sys2Proof.Machine.execHostWrite p s
  | .hostWriteAck p => Sys2Proof.Machine.execHostWriteAck p s
  | .hostErrorResponse p => Sys2Proof.Machine.execHostErrorResponse p s
  | .ctxctlAllocSet c => Sys2Proof.Machine.execCtxctlAllocSet c s
  | .ctxctlAllocClear c => Sys2Proof.Machine.execCtxctlAllocClear c s
  | .ctxctlRunSet c => Sys2Proof.Machine.execCtxctlRunSet c s
  | .ctxctlRunClear c => Sys2Proof.Machine.execCtxctlRunClear c s
  | .ctxctlRst c => Sys2Proof.Machine.execCtxctlRst c s
  | .tlbinvWrite c v => Sys2Proof.Machine.execTlbinvWrite c v s
  | .translationMiss die c va => Sys2Proof.Machine.execTranslationMiss die c va s
  | .invocationCall p => Sys2Proof.Machine.execInvocationCall p s
  | .arrivalReport p => Sys2Proof.Machine.execArrivalReport p s
  | .endReport p => Sys2Proof.Machine.execEndReport p s
  | .callLost core entry => Sys2Proof.Machine.execCallLost core entry s
  | .qcmdCreate qid => Sys2Proof.Machine.execQcmdCreate qid s
  | .qcmdModify qid => Sys2Proof.Machine.execQcmdModify qid s
  | .qcmdDelete qid => Sys2Proof.Machine.execQcmdDelete qid s
  | .qcmdRead qid => Sys2Proof.Machine.execQcmdRead qid s
  | .bkcmdToc i0 v => Sys2Proof.Machine.execBkcmdToc i0 v s
  | .bkcmdTos i0 v => Sys2Proof.Machine.execBkcmdTos i0 v s
  | .bkcmdHold i0 v => Sys2Proof.Machine.execBkcmdHold i0 v s
  | .bkcmdRelease i0 v => Sys2Proof.Machine.execBkcmdRelease i0 v s
  | .bkcmdSetf i0 v => Sys2Proof.Machine.execBkcmdSetf i0 v s
  | .bkcmdSets i0 v => Sys2Proof.Machine.execBkcmdSets i0 v s
  | .bkcmdRead i0 v => Sys2Proof.Machine.execBkcmdRead i0 v s
  | .engineFifoAppend cl x => Sys2Proof.Machine.execEngineFifoAppend cl x s
  | .chainedLoadElement h => Sys2Proof.Machine.execChainedLoadElement h s
  | .sauOperation o => Sys2Proof.Machine.execSauOperation o s
  | .sauChainApply line => Sys2Proof.Machine.execSauChainApply line s
  | .ownershipRequest core line => Sys2Proof.Machine.execOwnershipRequest core line s
  | .invalidation core line seq => Sys2Proof.Machine.execInvalidation core line seq s
  | .lineFill core line seq => Sys2Proof.Machine.execLineFill core line seq s
  | .l2Eviction line => Sys2Proof.Machine.execL2Eviction line s
  | .leaseRead core line => Sys2Proof.Machine.execLeaseRead core line s
  | .lWriteArrival => Sys2Proof.Machine.execLWriteArrival s
  | .memoryRead p => Sys2Proof.Machine.execMemoryRead p s
  | .memoryReadData p => Sys2Proof.Machine.execMemoryReadData p s
  | .memoryWrite p => Sys2Proof.Machine.execMemoryWrite p s
  | .memoryWriteAck p => Sys2Proof.Machine.execMemoryWriteAck p s
  | .memoryErrorResponse p => Sys2Proof.Machine.execMemoryErrorResponse p s
  | .atomicRequest p => Sys2Proof.Machine.execAtomicRequest p s
  | .cxlSnoop line => Sys2Proof.Machine.execCxlSnoop line s
  | .atomicResponse p => Sys2Proof.Machine.execAtomicResponse p s
  | .atomicErrorResponse p => Sys2Proof.Machine.execAtomicErrorResponse p s
  | .transferFailed e x => Sys2Proof.Machine.execTransferFailed e x s
  | .dbctlHalt core => Sys2Proof.Machine.execDbctlHalt core s
  | .dbctlResume core => Sys2Proof.Machine.execDbctlResume core s
  | .dbctlStep core => Sys2Proof.Machine.execDbctlStep core s
  | .dbctlSteprep core => Sys2Proof.Machine.execDbctlSteprep core s
  | .dbctlSnap core => Sys2Proof.Machine.execDbctlSnap core s
  | .pmtrigWrite t => Sys2Proof.Machine.execPmtrigWrite t s
  | .powerRemoval => Sys2Proof.Machine.execPowerRemoval s
  | .hostPortCompletion tag good data => Sys2Proof.Machine.execHostPortCompletion tag good data s
  | .vadd b => Sys2Proof.Machine.execVadd b s
  | .vsub b => Sys2Proof.Machine.execVsub b s
  | .vrsub b => Sys2Proof.Machine.execVrsub b s
  | .vmin b => Sys2Proof.Machine.execVmin b s
  | .vmax b => Sys2Proof.Machine.execVmax b s
  | .vminu b => Sys2Proof.Machine.execVminu b s
  | .vmaxu b => Sys2Proof.Machine.execVmaxu b s
  | .vand b => Sys2Proof.Machine.execVand b s
  | .vor b => Sys2Proof.Machine.execVor b s
  | .vxor b => Sys2Proof.Machine.execVxor b s
  | .vsll b => Sys2Proof.Machine.execVsll b s
  | .vsrl b => Sys2Proof.Machine.execVsrl b s
  | .vsra b => Sys2Proof.Machine.execVsra b s
  | .vmul b => Sys2Proof.Machine.execVmul b s
  | .vmulh b => Sys2Proof.Machine.execVmulh b s
  | .vmulhu b => Sys2Proof.Machine.execVmulhu b s
  | .vmulhsu b => Sys2Proof.Machine.execVmulhsu b s
  | .vsadd b => Sys2Proof.Machine.execVsadd b s
  | .vsaddu b => Sys2Proof.Machine.execVsaddu b s
  | .vssub b => Sys2Proof.Machine.execVssub b s
  | .vssubu b => Sys2Proof.Machine.execVssubu b s
  | .vaadd b => Sys2Proof.Machine.execVaadd b s
  | .vaaddu b => Sys2Proof.Machine.execVaaddu b s
  | .vwadd b => Sys2Proof.Machine.execVwadd b s
  | .vwaddu b => Sys2Proof.Machine.execVwaddu b s
  | .vwmul b => Sys2Proof.Machine.execVwmul b s
  | .vwmulu b => Sys2Proof.Machine.execVwmulu b s
  | .vwmulsu b => Sys2Proof.Machine.execVwmulsu b s
  | .vwmacc b => Sys2Proof.Machine.execVwmacc b s
  | .vwmaccu b => Sys2Proof.Machine.execVwmaccu b s
  | .vwmaccsu b => Sys2Proof.Machine.execVwmaccsu b s
  | .vnsrl b => Sys2Proof.Machine.execVnsrl b s
  | .vnsra b => Sys2Proof.Machine.execVnsra b s
  | .vnclip b => Sys2Proof.Machine.execVnclip b s
  | .vnclipu b => Sys2Proof.Machine.execVnclipu b s
  | .vmseq b => Sys2Proof.Machine.execVmseq b s
  | .vmsne b => Sys2Proof.Machine.execVmsne b s
  | .vmslt b => Sys2Proof.Machine.execVmslt b s
  | .vmsltu b => Sys2Proof.Machine.execVmsltu b s
  | .vmsle b => Sys2Proof.Machine.execVmsle b s
  | .vmsleu b => Sys2Proof.Machine.execVmsleu b s
  | .vmsgt b => Sys2Proof.Machine.execVmsgt b s
  | .vmsgtu b => Sys2Proof.Machine.execVmsgtu b s
  | .vmerge b => Sys2Proof.Machine.execVmerge b s
  | .vmv b => Sys2Proof.Machine.execVmv b s
  | .vid b => Sys2Proof.Machine.execVid b s
  | .vrowid b => Sys2Proof.Machine.execVrowid b s
  | .vcolid b => Sys2Proof.Machine.execVcolid b s
  | .vfadd b => Sys2Proof.Machine.execVfadd b s
  | .vfsub b => Sys2Proof.Machine.execVfsub b s
  | .vfmul b => Sys2Proof.Machine.execVfmul b s
  | .vfmacc b => Sys2Proof.Machine.execVfmacc b s
  | .vfnmacc b => Sys2Proof.Machine.execVfnmacc b s
  | .vfmsac b => Sys2Proof.Machine.execVfmsac b s
  | .vfnmsac b => Sys2Proof.Machine.execVfnmsac b s
  | .vfmin b => Sys2Proof.Machine.execVfmin b s
  | .vfmax b => Sys2Proof.Machine.execVfmax b s
  | .vfsgnj b => Sys2Proof.Machine.execVfsgnj b s
  | .vfsgnjn b => Sys2Proof.Machine.execVfsgnjn b s
  | .vfsgnjx b => Sys2Proof.Machine.execVfsgnjx b s
  | .vmfeq b => Sys2Proof.Machine.execVmfeq b s
  | .vmfne b => Sys2Proof.Machine.execVmfne b s
  | .vmflt b => Sys2Proof.Machine.execVmflt b s
  | .vmfle b => Sys2Proof.Machine.execVmfle b s
  | .vmfgt b => Sys2Proof.Machine.execVmfgt b s
  | .vfclass b => Sys2Proof.Machine.execVfclass b s
  | .vfcvtFX b => Sys2Proof.Machine.execVfcvtFX b s
  | .vfcvtXF b => Sys2Proof.Machine.execVfcvtXF b s
  | .vfwcvt b => Sys2Proof.Machine.execVfwcvt b s
  | .vfncvt b => Sys2Proof.Machine.execVfncvt b s
  | .vle b => Sys2Proof.Machine.execVle b s
  | .vlse b => Sys2Proof.Machine.execVlse b s
  | .vlxe b => Sys2Proof.Machine.execVlxe b s
  | .vlseg b => Sys2Proof.Machine.execVlseg b s
  | .vlmx b => Sys2Proof.Machine.execVlmx b s
  | .vlw b => Sys2Proof.Machine.execVlw b s
  | .vlcx b => Sys2Proof.Machine.execVlcx b s
  | .vleff b => Sys2Proof.Machine.execVleff b s
  | .vgl b => Sys2Proof.Machine.execVgl b s
  | .vpop b => Sys2Proof.Machine.execVpop b s
  | .vse b => Sys2Proof.Machine.execVse b s
  | .vsse b => Sys2Proof.Machine.execVsse b s
  | .vsxe b => Sys2Proof.Machine.execVsxe b s
  | .vsseg b => Sys2Proof.Machine.execVsseg b s
  | .vsmx b => Sys2Proof.Machine.execVsmx b s
  | .vsn b => Sys2Proof.Machine.execVsn b s
  | .vsc b => Sys2Proof.Machine.execVsc b s
  | .vamoadd b => Sys2Proof.Machine.execVamoadd b s
  | .vamoand b => Sys2Proof.Machine.execVamoand b s
  | .vamoor b => Sys2Proof.Machine.execVamoor b s
  | .vamoxor b => Sys2Proof.Machine.execVamoxor b s
  | .vamomin b => Sys2Proof.Machine.execVamomin b s
  | .vamomax b => Sys2Proof.Machine.execVamomax b s
  | .vamominu b => Sys2Proof.Machine.execVamominu b s
  | .vamomaxu b => Sys2Proof.Machine.execVamomaxu b s
  | .vamoswap b => Sys2Proof.Machine.execVamoswap b s
  | .vamofadd b => Sys2Proof.Machine.execVamofadd b s
  | .vamofmin b => Sys2Proof.Machine.execVamofmin b s
  | .vamofmax b => Sys2Proof.Machine.execVamofmax b s
  | .vamofxadd b => Sys2Proof.Machine.execVamofxadd b s
  | .vsapp b => Sys2Proof.Machine.execVsapp b s
  | .vslideup b => Sys2Proof.Machine.execVslideup b s
  | .vslidedown b => Sys2Proof.Machine.execVslidedown b s
  | .vrgather b => Sys2Proof.Machine.execVrgather b s
  | .vpswap b => Sys2Proof.Machine.execVpswap b s
  | .vtrans b => Sys2Proof.Machine.execVtrans b s
  | .vredsum b => Sys2Proof.Machine.execVredsum b s
  | .vfredsum b => Sys2Proof.Machine.execVfredsum b s
  | .vfsumBs b => Sys2Proof.Machine.execVfsumBs b s
  | .vredmin b => Sys2Proof.Machine.execVredmin b s
  | .vredmax b => Sys2Proof.Machine.execVredmax b s
  | .vredminu b => Sys2Proof.Machine.execVredminu b s
  | .vredmaxu b => Sys2Proof.Machine.execVredmaxu b s
  | .vfredmin b => Sys2Proof.Machine.execVfredmin b s
  | .vfredmax b => Sys2Proof.Machine.execVfredmax b s
  | .vmand b => Sys2Proof.Machine.execVmand b s
  | .vmor b => Sys2Proof.Machine.execVmor b s
  | .vmxor b => Sys2Proof.Machine.execVmxor b s
  | .vmnot b => Sys2Proof.Machine.execVmnot b s
  | .vpopc b => Sys2Proof.Machine.execVpopc b s
  | .vfirst b => Sys2Proof.Machine.execVfirst b s
  | .viota b => Sys2Proof.Machine.execViota b s
  | .vcompress b => Sys2Proof.Machine.execVcompress b s
  | .vmvXS b => Sys2Proof.Machine.execVmvXS b s
  | .vmvSX b => Sys2Proof.Machine.execVmvSX b s
  | .tzero b => Sys2Proof.Machine.execTzero b s
  | .tmac b => Sys2Proof.Machine.execTmac b s
  | .topa b => Sys2Proof.Machine.execTopa b s
  | .tread b => Sys2Proof.Machine.execTread b s
  | .twrite b => Sys2Proof.Machine.execTwrite b s
  | .tdrain b => Sys2Proof.Machine.execTdrain b s
  | .vsin b => Sys2Proof.Machine.execVsin b s
  | .vcos b => Sys2Proof.Machine.execVcos b s
  | .vexp2 b => Sys2Proof.Machine.execVexp2 b s
  | .vlog2 b => Sys2Proof.Machine.execVlog2 b s
  | .vrcp b => Sys2Proof.Machine.execVrcp b s
  | .vrsqrt b => Sys2Proof.Machine.execVrsqrt b s
  | .vsqrt b => Sys2Proof.Machine.execVsqrt b s
  | .vdiv b => Sys2Proof.Machine.execVdiv b s
  | .vtex b => Sys2Proof.Machine.execVtex b s
  | .vraybox b => Sys2Proof.Machine.execVraybox b s
  | .vraytri b => Sys2Proof.Machine.execVraytri b s
  | .vcover b => Sys2Proof.Machine.execVcover b s

end Sys2Proof.Machine
end

