-- ==== Sys2Proof/Machine/Step.lean ====
section
/-!
DEFINITION. One step of the machine: the next move of the agenda, or what the machine does by itself.
-/
namespace Sys2Proof.Machine

/-- Run what a turn answers. -/
def runTurn (t : Turn) : Host.Outcome State Fault Refusal :=
  match t with
  | .done s => .next s
  | .run i s => exec i s
  | .out o => o

/-- One move of the agenda. -/
def runMove (m : Move) (s : State) : Host.Outcome State Fault Refusal :=
  match m with
  | .event i => exec i s
  | .hart r => runTurn (turn r s)
  | .time n => .next (s.pass n)
  | .packet p => deliver p s
  | .upset u => .next (s.upset u)

/-- What a stopped package still does: a package reset, by PERST# or by a write of `bootctl.pkrst` (02 R43), and an answer to the host's reads
of the boot and error registers, so that software can learn why it stopped. That the service core answers those, and nothing else, is the
model's (02 R54; DESIGN CHOICE, log 50). -/
def stoppedMove (m : Move) : Bool :=
  match m with
  | .event .perstAssert => true
  | .event .bootctlPkrst => true
  | .event (.slotManagementAccess 0 .mgt off _ none) => off.toNat < 0x50
  | .event (.slotManagementAccess 0 .mgt 8 half (some d)) => wbit (carried half d) 0
  | _ => false

/-- A package without power goes on only at power-on reset; one that has stopped goes on by that, by the loss of power, and, but for a
thermal trip, by what a stopped package still does (02 R43, R54, R57). -/
def stopOf (s : State) (m : Option Move) : Option Fault :=
  if m = some (.event .powerOnReset) then none
  else if ¬ s.pkg.powered then some .powerOff
  else if s.pkg.stopped ∧ m ≠ some (.event .powerRemoval) ∧ (s.pkg.tripOut ∨ ¬ m.any stoppedMove) then some .packageStopped
  else none

/-- What the machine does by itself: a unit's event and a hart's turn alternate, each when the other has nothing to do. -/
def idleStep (s : State) : Host.Outcome State Fault Refusal :=
  let hart (other : Host.Outcome State Fault Refusal) : Host.Outcome State Fault Refusal :=
    match hartMove s with
    | some (.inl o) => o
    | some (.inr r) => runTurn (turn r s)
    | none => other
  if s.pkg.dtime.toNat % 2 = 0 then
    match unitMove s with
    | some o => o
    | none => hart (.next (s.pass 1))
  else hart ((unitMove s).getD (.next (s.pass 1)))

/-- One step. -/
def step (s : State) : Host.Outcome State Fault Refusal :=
  match stopOf s s.agenda.head? with
  | some f => .fault f
  | none =>
    match s.agenda with
    | m :: rest => runMove m { s with agenda := rest }
    | [] => idleStep s

/-- `s` with the instruction whose bits are `w` stored where the next step fetches (log 7). -/
def State.withFetchWord (s : State) (nbits w : Nat) : State := s.placeCode (tableBytes nbits w)

end Sys2Proof.Machine
end

