-- ==== Sys2Proof/Safety.lean ====
section
/-!
DEFINITION. What a safe step and a safe run are: no fault and no refusal; and the words of the claims: what may differ after an
instruction, and what it may not touch.
-/
namespace Sys2Proof

/-- The step goes on. -/
def Safe (o : Host.Outcome Machine.State Machine.Fault Machine.Refusal) : Prop := ∃ t, o = .next t

/-- Every one of the next `n` steps goes on. -/
def SafeRun : Nat → Machine.State → Prop
  | 0, _ => True
  | n + 1, s => ∃ t, Machine.step s = .next t ∧ SafeRun n t

end Sys2Proof

namespace Sys2Proof.Claims
open Sys2Proof.Machine

/-- Of the cores, nothing but the programmable counters differs. -/
def OnlyCounts (s t : State) : Prop := ∀ c, t.core c = { s.core c with pm := (t.core c).pm }

/-- The new state differs from the old one in the current hart and in the programmable counters of the cores, and in nothing else. -/
def OnlyHart (s t : State) : Prop := t = { s with hart := t.hart, cores := t.cores } ∧ OnlyCounts s t

/-- x[rd] is `v`, unless rd is x0; every other scalar register is as before (00 R14). -/
def Writes (s t : State) (rd : Reg) (v : Word) : Prop := ∀ r, t.getX r = if r = rd ∧ r ≠ 0 then v else s.getX r

/-- Of the hart only the scalar registers, the pc, the count of retired instructions, and what waits, skips or is kept for the instruction
that has just retired differ. -/
def OnlyRetires (h k : Hart) (pc : Word) : Prop :=
  k = { h with x := k.x, pc := pc, instret := h.instret + 1, wpSkip := false, replies := [], wait := .none, relStart := none, lookups := [] }

/-- A scalar instruction that only writes x[rd] has completed: nothing else in the machine has changed. -/
def WritesOnly (s t : State) (rd : Reg) (v pc : Word) : Prop := OnlyHart s t ∧ Writes s t rd v ∧ OnlyRetires s.hart t.hart pc

/-- A scalar instruction without a destination has completed: nothing but the pc, and what counts, has changed. -/
def GoesOn (s t : State) (pc : Word) : Prop := WritesOnly s t 0 0 pc

/-- Bytes `data` lie at `pa` of memory, and every other byte is as before. -/
def Stores (s t : State) (pa : Nat) (data : List Byte) : Prop :=
  ∀ a, memGet t.mem a = if h : pa ≤ a ∧ a - pa < data.length then data[a - pa] else memGet s.mem a

/-- The bytes of the trace sink of the current hart's die: its base, in 4 KiB pages, and 4 KiB per unit of its size (10 R274). -/
def InSink (s : State) (a : Nat) : Prop :=
  let d := s.die (dieOf s.hart.core)
  4096 * wfield d.sinkBase 12 40 ≤ a ∧ a < 4096 * wfield d.sinkBase 12 40 + 4096 * d.sinkSize.toNat

/-- Nothing but what trace records reach differs: the sink's bytes, the sink's place and count of lost records on the die of the current
hart, and the model's index of free values, which gives a record its second word where the spec gives none (log 1). -/
def OnlyTraced (s t : State) : Prop :=
  t = { s with mem := t.mem, poison := t.poison, dies := t.dies, freshCount := t.freshCount }
    ∧ (∀ d, t.die d = { s.die d with sinkPos := (t.die d).sinkPos, sinkLost := (t.die d).sinkLost })
    ∧ (∀ d, d ≠ dieOf s.hart.core → t.die d = s.die d)
    ∧ ∀ a, ¬ InSink s a → memGet t.mem a = memGet s.mem a

/-- No vector register and no accumulator tile of the hart holds an error (02 R53). -/
def Clean (h : Hart) : Prop := h.vbad = 0 ∧ h.abad = 0 ∧ h.vsoft = 0 ∧ h.asoft = 0

/-- Every byte of memory, and every bank, is as before. -/
def SameMemory (s t : State) : Prop := t.mem = s.mem ∧ t.banks = s.banks

/-- Beside the current hart, nothing but what an access to memory that stores nothing reaches differs: cached translations and the walk
caches (03 R90), the directory of class D lines (08 R197), the lines that the slices of L2 hold, with what a line's leaving them takes along
(07 R191, 08 R206), corrected errors (02 R53), counters (10 R275, R276), and the index of free values (log 1). -/
def OnlyLooks (s t : State) : Prop :=
  t = { s with hart := t.hart, tlb := t.tlb, cores := t.cores, dies := t.dies, dir := t.dir, lines := t.lines, evicted := t.evicted
               l2 := t.l2, freshCount := t.freshCount, pkg := t.pkg }
    ∧ OnlyCounts s t ∧ (∀ d, t.die d = { s.die d with uncore := (t.die d).uncore, walks := (t.die d).walks })
    ∧ t.pkg = { s.pkg with hbmce := t.pkg.hbmce, sramce := t.pkg.sramce }

/-- Nothing but what an address translation reaches differs: what an access reaches that stores nothing, and of the hart the pages that its
instruction has looked up (03 R90, R91). -/
def OnlyTranslates (s t : State) : Prop := OnlyLooks s t ∧ t.hart = { s.hart with lookups := t.hart.lookups }

/-- Links may have been broken; otherwise the link tables are as before (09 R245). -/
def OnlyBreaks (s t : State) : Prop :=
  t.linkTable.map (fun e => { e with intact := true }) = s.linkTable.map (fun e => { e with intact := true })

/-- Beside the current hart, nothing but what a store to local memory outside class L reaches differs: what an access reaches that stores
nothing, memory, links, and errors of memory, of which a store brings none. -/
def OnlyPuts (s t : State) : Prop :=
  OnlyLooks s { t with mem := s.mem, poison := s.poison, linkTable := s.linkTable } ∧ OnlyBreaks s t ∧ ∀ g ∈ t.poison, g ∈ s.poison

/-- Of the hart, a retiring store changes what `OnlyRetires` names but no scalar register, and `vispend`, which takes the visibility
value of the store (08 R208). -/
def StoreRetires (h k : Hart) (v : Nat) : Prop :=
  k = { h with pc := h.pc + 4, instret := h.instret + 1, wpSkip := false, replies := [], wait := .none, relStart := none, lookups := []
               vispend := BitVec.ofNat 64 (max h.vispend.toNat v) }

/-- An access of the current hart reaches a place: its address resolves there, no watchpoint matches it, and it meets no transfer of the
hart that is in flight. `s'` is the machine after the translation. -/
def Reaches (s : State) (va : Word) (n : Nat) (k : Kind) (p : Place) (s' : State) : Prop :=
  resolve s s.hart.who va k = (.ok p, s') ∧ watchHit s' va.toNat n k.reads k.writes = none ∧ transfersMet s' va.toNat n k.writes = []

end Sys2Proof.Claims
end

