-- ==== Sys2Proof/Certificates/Slice0/Obligations.lean ====
section
/-!
DEFINITION. What is claimed of the model: the statements for the provers, and the tables they run over.
-/
namespace Sys2Proof.Claims
open Sys2Proof.Machine

/-- The low 32 bits as a signed, and as an unsigned, number. -/
def low32 (a : Word) : Int := (a.setWidth 32).toInt
/-- The low 32 bits as a number. -/
def low32u (a : Word) : Nat := a.toNat % 2 ^ 32
/-- A 32-bit result, sign-extended (13 Table 13.1, word forms). -/
def word32 (v : Int) : Word := (BitVec.ofInt 32 v).signExtend 64
/-- 1 where the condition holds, else 0. -/
def oneIf (p : Prop) [Decidable p] : Word := if p then 1 else 0

/-- The register-register instructions of OP and OP-32 with their results (13 Table 13.1). -/
def opTable : List ((Reg → Reg → Reg → Instr) × (Word → Word → Word)) :=
  [ (.add, fun a b => BitVec.ofInt 64 (a.toInt + b.toInt)), (.sub, fun a b => BitVec.ofInt 64 (a.toInt - b.toInt))
  , (.sll, fun a b => BitVec.ofNat 64 (a.toNat * 2 ^ (b.toNat % 64))), (.slt, fun a b => oneIf (a.toInt < b.toInt))
  , (.sltu, fun a b => oneIf (a.toNat < b.toNat)), (.xorr, fun a b => a ^^^ b)
  , (.srl, fun a b => BitVec.ofNat 64 (a.toNat / 2 ^ (b.toNat % 64))), (.sra, fun a b => BitVec.ofInt 64 (a.toInt / (2 ^ (b.toNat % 64) : Nat)))
  , (.orr, fun a b => a ||| b), (.andd, fun a b => a &&& b)
  , (.mul, fun a b => BitVec.ofInt 64 (a.toInt * b.toInt)), (.mulh, fun a b => BitVec.ofInt 64 (a.toInt * b.toInt / 2 ^ 64))
  , (.mulhsu, fun a b => BitVec.ofInt 64 (a.toInt * b.toNat / 2 ^ 64)), (.mulhu, fun a b => BitVec.ofNat 64 (a.toNat * b.toNat / 2 ^ 64))
  , (.div, fun a b => if b = 0 then BitVec.ofInt 64 (-1) else BitVec.ofInt 64 (a.toInt.tdiv b.toInt))
  , (.divu, fun a b => if b = 0 then BitVec.ofInt 64 (-1) else BitVec.ofNat 64 (a.toNat / b.toNat))
  , (.rem, fun a b => if b = 0 then a else BitVec.ofInt 64 (a.toInt.tmod b.toInt))
  , (.remu, fun a b => if b = 0 then a else BitVec.ofNat 64 (a.toNat % b.toNat)) ]

/-- The word forms (13 Table 13.1). -/
def opTable32 : List ((Reg → Reg → Reg → Instr) × (Word → Word → Word)) :=
  [ (.addw, fun a b => word32 (low32 a + low32 b)), (.subw, fun a b => word32 (low32 a - low32 b))
  , (.sllw, fun a b => word32 (low32u a * 2 ^ (b.toNat % 32) : Nat)), (.srlw, fun a b => word32 (low32u a / 2 ^ (b.toNat % 32) : Nat))
  , (.sraw, fun a b => word32 (low32 a / (2 ^ (b.toNat % 32) : Nat))), (.mulw, fun a b => word32 (low32 a * low32 b))
  , (.divw, fun a b => if low32 b = 0 then word32 (-1) else word32 ((low32 a).tdiv (low32 b)))
  , (.divuw, fun a b => if low32u b = 0 then word32 (-1) else word32 (low32u a / low32u b : Nat))
  , (.remw, fun a b => if low32 b = 0 then word32 (low32 a) else word32 ((low32 a).tmod (low32 b)))
  , (.remuw, fun a b => if low32u b = 0 then word32 (low32u a) else word32 (low32u a % low32u b : Nat)) ]

/-- The register-immediate instructions with a 12-bit immediate (13 Table 13.1). -/
def opImmTable : List ((Reg → Reg → BitVec 12 → Instr) × (Word → Int → Word)) :=
  [ (.addi, fun a i => BitVec.ofInt 64 (a.toInt + i)), (.slti, fun a i => oneIf (a.toInt < i))
  , (.sltiu, fun a i => oneIf (a.toNat < (BitVec.ofInt 64 i).toNat)), (.xori, fun a i => a ^^^ BitVec.ofInt 64 i)
  , (.ori, fun a i => a ||| BitVec.ofInt 64 i), (.andi, fun a i => a &&& BitVec.ofInt 64 i), (.addiw, fun a i => word32 (low32 a + i)) ]

/-- The shifts by an immediate (13 Table 13.1). -/
def shiftTable : List ((Reg → Reg → BitVec 6 → Instr) × (Word → Nat → Word)) :=
  [ (.slli, fun a k => BitVec.ofNat 64 (a.toNat * 2 ^ k)), (.srli, fun a k => BitVec.ofNat 64 (a.toNat / 2 ^ k))
  , (.srai, fun a k => BitVec.ofInt 64 (a.toInt / (2 ^ k : Nat))) ]

/-- The word shifts by an immediate (13 Table 13.1). -/
def shiftTable32 : List ((Reg → Reg → BitVec 5 → Instr) × (Word → Nat → Word)) :=
  [ (.slliw, fun a k => word32 (low32u a * 2 ^ k : Nat)), (.srliw, fun a k => word32 (low32u a / 2 ^ k : Nat))
  , (.sraiw, fun a k => word32 (low32 a / (2 ^ k : Nat))) ]

end Sys2Proof.Claims

open Sys2Proof Sys2Proof.Machine Sys2Proof.Claims

/-! ### The scalar base -/

/-- The register-register instructions complete in every state, with the results of 13 Table 13.1, and change nothing else. -/
def Sys2Proof.Claims.RegisterArithmeticCompletes : Prop :=
  ∀ p ∈ opTable, ∀ (rd rs1 rs2 : Reg) (s : State),
    ∃ t, exec (p.1 rd rs1 rs2) s = .next t ∧ WritesOnly s t rd (p.2 (s.getX rs1) (s.getX rs2)) (s.hart.pc + 4)

/-- The word forms complete in every state: 32-bit operations whose result is sign-extended (13 Table 13.1). -/
def Sys2Proof.Claims.WordArithmeticCompletes : Prop :=
  ∀ p ∈ opTable32, ∀ (rd rs1 rs2 : Reg) (s : State),
    ∃ t, exec (p.1 rd rs1 rs2) s = .next t ∧ WritesOnly s t rd (p.2 (s.getX rs1) (s.getX rs2)) (s.hart.pc + 4)

/-- The immediate forms, LUI and AUIPC complete in every state (13 Table 13.1). -/
def Sys2Proof.Claims.ImmediateArithmeticCompletes : Prop :=
  (∀ p ∈ opImmTable, ∀ (rd rs1 : Reg) (imm : BitVec 12) (s : State),
    ∃ t, exec (p.1 rd rs1 imm) s = .next t ∧ WritesOnly s t rd (p.2 (s.getX rs1) imm.toInt) (s.hart.pc + 4))
  ∧ (∀ p ∈ shiftTable, ∀ (rd rs1 : Reg) (k : BitVec 6) (s : State),
    ∃ t, exec (p.1 rd rs1 k) s = .next t ∧ WritesOnly s t rd (p.2 (s.getX rs1) k.toNat) (s.hart.pc + 4))
  ∧ (∀ p ∈ shiftTable32, ∀ (rd rs1 : Reg) (k : BitVec 5) (s : State),
    ∃ t, exec (p.1 rd rs1 k) s = .next t ∧ WritesOnly s t rd (p.2 (s.getX rs1) k.toNat) (s.hart.pc + 4))
  ∧ (∀ (rd : Reg) (imm : BitVec 20) (s : State),
    ∃ t, exec (.lui rd imm) s = .next t ∧ WritesOnly s t rd (BitVec.ofInt 64 (imm.toInt * 4096)) (s.hart.pc + 4))
  ∧ (∀ (rd : Reg) (imm : BitVec 20) (s : State),
    ∃ t, exec (.auipc rd imm) s = .next t ∧ WritesOnly s t rd (BitVec.ofInt 64 (s.hart.pc.toInt + imm.toInt * 4096)) (s.hart.pc + 4))

/-- The scalar arithmetic completes in every state, with the results of 13 Table 13.1, and changes nothing else. -/
def Obligations.ScalarArithmeticCompletes : Prop := RegisterArithmeticCompletes ∧ WordArithmeticCompletes ∧ ImmediateArithmeticCompletes

/-! ### Jumps, branches and the trace -/

namespace Sys2Proof.Claims

/-- The address `v` bytes from the pc. -/
def pcPlus (s : State) (v : Int) : Word := BitVec.ofInt 64 (s.hart.pc.toInt + v)

/-- The branches and their conditions (13 Table 13.1). -/
def branchTable : List ((Reg → Reg → BitVec 12 → Instr) × (Word → Word → Bool)) :=
  [ (.beq, fun a b => a = b), (.bne, fun a b => a ≠ b), (.blt, fun a b => a.toInt < b.toInt), (.bge, fun a b => b.toInt ≤ a.toInt)
  , (.bltu, fun a b => a.toNat < b.toNat), (.bgeu, fun a b => b.toNat ≤ a.toNat) ]

end Sys2Proof.Claims

/-- The branches complete in every state: not taken, the pc goes on; taken to an aligned target, the pc is the target, and the branch
is traced when its core traces (12 R311, 10 R274); taken to a target with bit 1 set, the trap of a misaligned target. -/
def Sys2Proof.Claims.BranchesComplete : Prop :=
  ∀ p ∈ branchTable, ∀ (rs1 rs2 : Reg) (imm : BitVec 12) (s : State),
    let target := pcPlus s (2 * imm.toInt)
    (p.2 (s.getX rs1) (s.getX rs2) = false → ∃ t, exec (p.1 rs1 rs2 imm) s = .next t ∧ GoesOn s t (s.hart.pc + 4))
    ∧ (p.2 (s.getX rs1) (s.getX rs2) = true → target.getLsbD 1 = false →
        ∃ t, exec (p.1 rs1 rs2 imm) s = .next t ∧ GoesOn (s.trace 0 target) t target)
    ∧ (p.2 (s.getX rs1) (s.getX rs2) = true → target.getLsbD 1 = true →
        exec (p.1 rs1 rs2 imm) s = .next (s.takeTrap 0x01 target none))

/-- JAL and JALR complete on an aligned target: rd takes the address of the next instruction, the pc the target, whose bit 0 JALR
clears; a target with bit 1 set is a trap (12 R311). -/
def Sys2Proof.Claims.JumpsComplete : Prop :=
  ∀ (rd rs1 : Reg) (imm20 : BitVec 20) (imm12 : BitVec 12) (s : State),
    ∀ p ∈ [ (Instr.jal rd imm20, pcPlus s (2 * imm20.toInt))
          , (Instr.jalr rd rs1 imm12, BitVec.ofInt 64 ((s.getX rs1).toInt + imm12.toInt) &&& ~~~ 1) ],
      (p.2.getLsbD 1 = false → ∃ t, exec p.1 s = .next t ∧ WritesOnly (s.trace 0 p.2) t rd (s.hart.pc + 4) p.2)
      ∧ (p.2.getLsbD 1 = true → exec p.1 s = .next (s.takeTrap 0x01 p.2 none))

/-- A trace record reaches nothing but the trace sink of the core's die, in memory that keeps its form: a core that does not trace changes
nothing; else only the sink's 16-byte records from its base on (10 R274), the die's own counts of them, and the model's index of free
values (log 1) differ. -/
def Sys2Proof.Claims.TraceFrame : Prop :=
  ∀ (s : State) (kind : Nat) (w : Word),
    ((s.core s.hart.core).dTren = false → s.trace kind w = s)
    ∧ (Memory.wf s.mem = true → OnlyTraced s (s.trace kind w))

/-- Branches and jumps complete on an aligned target, and trap on another (13 Table 13.1, 12 R311). -/
def Obligations.BranchesAndJumpsComplete : Prop := BranchesComplete ∧ JumpsComplete

/-! ### Scalar accesses to memory -/

namespace Sys2Proof.Claims

/-- A number of `n` bits as a signed number. -/
def signed (n v : Nat) : Int := if v < 2 ^ (n - 1) then v else (v : Int) - (2 ^ n : Nat)

/-- The scalar loads, their widths in bytes, and what the register takes from the number read (13 Table 13.1). -/
def loadTable : List ((Reg → Reg → BitVec 12 → Instr) × Nat × (Nat → Word)) :=
  [ (.lb, 1, fun v => BitVec.ofInt 64 (signed 8 v)), (.lh, 2, fun v => BitVec.ofInt 64 (signed 16 v))
  , (.lw, 4, fun v => BitVec.ofInt 64 (signed 32 v)), (.ld, 8, fun v => BitVec.ofNat 64 v), (.lbu, 1, fun v => BitVec.ofNat 64 v)
  , (.lhu, 2, fun v => BitVec.ofNat 64 v), (.lwu, 4, fun v => BitVec.ofNat 64 v) ]

/-- The scalar stores and their widths in bytes (13 Table 13.1). -/
def storeTable : List ((Reg → Reg → BitVec 12 → Instr) × Nat) := [(.sb, 1), (.sh, 2), (.sw, 4), (.sd, 8)]

/-- The effective address (13 Table 13.1). -/
def addrOf (s : State) (rs1 : Reg) (imm : BitVec 12) : Word := BitVec.ofInt 64 ((s.getX rs1).toInt + imm.toInt)

/-- The atomic instructions with the value they store, from the old value and the operand, both of `w` bits (13 Table 13.1). -/
def amoTable : List ((Reg → Reg → Reg → AmoBits → Instr) × (Nat → Nat → Nat → Nat)) :=
  [ (.amoswap, fun _ _ b => b), (.amoadd, fun w a b => (a + b) % 2 ^ w), (.amoxor, fun _ a b => a ^^^ b), (.amoand, fun _ a b => a &&& b)
  , (.amoor, fun _ a b => a ||| b), (.amomin, fun w a b => if signed w a ≤ signed w b then a else b)
  , (.amomax, fun w a b => if signed w a < signed w b then b else a), (.amominu, fun _ a b => min a b), (.amomaxu, fun _ a b => max a b) ]

/-- The bytes of an atomic form, and the register's value from the old value: word forms sign-extend (13 R344). -/
def formBytes (a : AmoBits) : Nat := if a.dbl then 8 else 4
/-- See `formBytes`. -/
def formValue (a : AmoBits) (v : Nat) : Word := if a.dbl then BitVec.ofNat 64 v else BitVec.ofInt 64 (signed 32 v)

/-- A release annotation has nothing to wait for (08 R227), and the machine once it has let go (08 R201). -/
def mayRelease (a : AmoBits) (s : State) : Prop := a.rl = true → fenceReady s = true
/-- No atomic operation is held at a line's home (07 R192). -/
def homeFree (s : State) (pa : Nat) : Prop := ∀ w ∈ s.sauq, w.line ≠ pa / 128
/-- Nothing cached translates an address for an access: no TLB, walk cache or earlier lookup of its instruction (03 R90, R91). -/
def uncached (s : State) (w : Who) : Prop := s.tlb = [] ∧ (s.die (dieOf w.core)).walks = [] ∧ s.hart.lookups = []
/-- No table entry that the walk of an address reads has an uncorrectable error (01 R21). -/
def tablesGood (s : State) (w : Who) (va : Word) : Prop := ∀ r ∈ walkReads s (fun _ => none) va.toNat 3 (rootOf s w.ctx), poisoned s r.2 8 = false
/-- See `mayRelease`. -/
def letGo (a : AmoBits) (s : State) : State := if a.rl then s.writeHome else s

end Sys2Proof.Claims

/-- Translating an address stores nothing, and of the hart it changes only the pages that its instruction has looked up (03 R83 to R91), whatever
it finds. -/
def Sys2Proof.Claims.TranslationFrame : Prop :=
  ∀ (s : State) (w : Who) (va : Word) (k : Kind), OnlyTranslates s (resolve s w va k).2

/-- Where an address goes (03 R83 to R88): bits 63:48 that are not zero are a page fault; an address below the windows goes where the leaf
its context's walk finds says, when no translation is cached, and only with that leaf's leave; a table entry with an uncorrectable error
is cause 0x15 (01 R21). -/
def Obligations.AddressesResolve : Prop :=
  ∀ (s : State) (w : Who) (va : Word) (k : Kind),
    (2 ^ 48 ≤ va.toNat → (resolve s w va k).1 = .error k.pageFault)
    ∧ (va.toNat < 0xFC0000000000 → uncached s w → ¬ tablesGood s w va → (resolve s w va k).1 = .error 0x15)
    ∧ (va.toNat < 0xFC0000000000 → uncached s w → tablesGood s w va →
        (walk s w.ctx va.toNat = none → (resolve s w va k).1 = .error k.pageFault)
        ∧ ∀ e bits, walk s w.ctx va.toNat = some (e, bits) →
            (permits e k w.sup = false → (resolve s w va k).1 = .error k.pageFault)
            ∧ (permits e k w.sup = true →
                (wfield e 10 2 = 0 → wfield e 12 40 * 4096 + va.toNat % 2 ^ bits < contextTop →
                  (resolve s w va k).1 = .ok (.phys (wfield e 12 40 * 4096 + va.toNat % 2 ^ bits) (field e 8 2) (wbit e 52)))
                ∧ (wfield e 10 2 = 0 → contextTop ≤ wfield e 12 40 * 4096 + va.toNat % 2 ^ bits →
                  (resolve s w va k).1 = .error k.accessFault)
                ∧ (wfield e 10 2 = 1 →
                  (resolve s w va k).1 = .ok (.peer (field e 40 12) (wfield e 12 28 * 4096 + va.toNat % 2 ^ bits) (field e 8 2)))))
    ∧ (0xFC0000000000 ≤ va.toNat → va.toNat < 2 ^ 48 → k = .fetch → (resolve s w va k).1 = .error 0x05)

/-- The scalar loads complete at an aligned address that reaches local memory outside class L, with no uncorrectable error, or a bank: rd takes
the little-endian bytes there, extended as the form says, and nothing is stored. At any other place they complete when the read there answers. -/
def Obligations.LoadsComplete : Prop :=
  ∀ p ∈ loadTable, ∀ (rd rs1 : Reg) (imm : BitVec 12) (s s' : State), (addrOf s rs1 imm).toNat % p.2.1 = 0 →
    (∀ pa cls da, Reaches s (addrOf s rs1 imm) p.2.1 .load (.phys pa cls da) s' → cls ≠ 1 → poisoned s pa p.2.1 = false →
      ∃ t, exec (p.1 rd rs1 imm) s = .next t ∧ OnlyLooks s t ∧ Writes s t rd (p.2.2 (memNat s.mem pa p.2.1)) ∧ OnlyRetires s.hart t.hart (s.hart.pc + 4))
    ∧ (∀ i off, Reaches s (addrOf s rs1 imm) p.2.1 .load (.bank i off) s' → off + p.2.1 ≤ 24576 → bankBad (s.bank i) off p.2.1 = false →
      ∃ t, exec (p.1 rd rs1 imm) s = .next t ∧ OnlyLooks s t ∧ Writes s t rd (p.2.2 ((s.bank i).data / 2 ^ (8 * off) % 2 ^ (8 * p.2.1)))
        ∧ OnlyRetires s.hart t.hart (s.hart.pc + 4))
    ∧ (∀ q b u, Reaches s (addrOf s rs1 imm) p.2.1 .load q s' → readPlace s' (addrOf s rs1 imm) q p.2.1 .load = .ok b u →
      ∃ t, exec (p.1 rd rs1 imm) s = .next t ∧ WritesOnly u t rd (p.2.2 (leNat b)) (u.hart.pc + 4))

/-- The scalar stores complete at an aligned address that reaches local memory outside class L, or a bank: the low bytes of rs2 lie there,
little-endian, every other byte is as before, and `vispend` takes the time of the store. Elsewhere they complete when the write there answers. -/
def Obligations.StoresComplete : Prop :=
  ∀ p ∈ storeTable, ∀ (rs1 rs2 : Reg) (imm : BitVec 12) (s s' : State), (addrOf s rs1 imm).toNat % p.2 = 0 →
    (∀ pa cls da, Reaches s (addrOf s rs1 imm) p.2 .store (.phys pa cls da) s' → cls ≠ 1 → Memory.wf s.mem = true →
      ∃ t, exec (p.1 rs1 rs2 imm) s = .next t ∧ OnlyPuts s t ∧ Stores s t pa (leBytes p.2 (s.getX rs2).toNat)
        ∧ StoreRetires s.hart t.hart s.pkg.dtime.toNat)
    ∧ (∀ i off, Reaches s (addrOf s rs1 imm) p.2 .store (.bank i off) s' → off + p.2 ≤ 24576 →
      ∃ t, exec (p.1 rs1 rs2 imm) s = .next t ∧ OnlyLooks s { t with banks := s.banks } ∧ StoreRetires s.hart t.hart s.pkg.dtime.toNat
        ∧ (∀ j, j ≠ i → t.bank j = s.bank j)
        ∧ ∀ o, (t.bank i).data / 256 ^ o % 256 = if off ≤ o ∧ o < off + p.2 then (s.getX rs2).toNat / 256 ^ (o - off) % 256
            else (s.bank i).data / 256 ^ o % 256)
    ∧ (∀ q v u, Reaches s (addrOf s rs1 imm) p.2 .store q s' → writePlace s' (addrOf s rs1 imm) q (leBytes p.2 (s.getX rs2).toNat) = .ok v u →
      ∃ t, exec (p.1 rs1 rs2 imm) s = .next t ∧ GoesOn u t (u.hart.pc + 4))

/-- The atomic instructions complete at an aligned address that reaches local memory outside class L, with no uncorrectable error, once a
release annotation has nothing to wait for and no operation is held at the line's home (07 R192): rd takes the old value, and the new one
lies in memory (13 R344). -/
def Sys2Proof.Claims.ReadModifyWritesComplete : Prop :=
  ∀ p ∈ amoTable, ∀ (rd rs1 rs2 : Reg) (a : AmoBits) (s s' : State) (pa : Nat) (cls : BitVec 2) (da : Bool),
    (s.getX rs1).toNat % formBytes a = 0 → mayRelease a s → Reaches (letGo a s) (s.getX rs1) (formBytes a) .amo (.phys pa cls da) s' → cls ≠ 1 →
    poisoned s pa (formBytes a) = false → homeFree s pa → Memory.wf s.mem = true →
    let w := 8 * formBytes a
    let old := memNat s.mem pa (formBytes a)
    ∃ t, exec (p.1 rd rs1 rs2 a) s = .next t ∧ OnlyPuts s t
      ∧ Stores s t pa (leBytes (formBytes a) (p.2 w old ((s.getX rs2).toNat % 2 ^ w)))
      ∧ Writes s t rd (formValue a old)
      ∧ StoreRetires { s.hart with x := t.hart.x } t.hart s.pkg.dtime.toNat

/-- LR completes at an aligned address that reaches local memory outside class L, with no uncorrectable error, once a release annotation has
nothing to wait for and no operation is held at the line's home: rd takes the value, nothing is stored, and the hart's one scalar link names the line (13 R344, 09 R245). -/
def Sys2Proof.Claims.LoadReservedCompletes : Prop :=
  ∀ (rd rs1 : Reg) (a : AmoBits) (s s' : State) (pa : Nat) (cls : BitVec 2) (da : Bool),
    (s.getX rs1).toNat % formBytes a = 0 → mayRelease a s → Reaches (letGo a s) (s.getX rs1) (formBytes a) .load (.phys pa cls da) s' → cls ≠ 1 →
    poisoned s pa (formBytes a) = false → homeFree s pa →
    ∃ t, exec (.lr rd rs1 a) s = .next t ∧ OnlyLooks s { t with linkTable := s.linkTable }
      ∧ Writes s t rd (formValue a (memNat s.mem pa (formBytes a)))
      ∧ OnlyRetires { s.hart with link := some (pa / 128) } t.hart (s.hart.pc + 4)
      ∧ linkEntry s true 0 (pa / 128) da ∈ t.linkTable
      ∧ ∀ e ∈ t.linkTable, e.same (linkEntry s true 0 0 false) = true → e = linkEntry s true 0 (pa / 128) da

/-- SC at an aligned address that reaches local memory outside class L completes once a release annotation has nothing to wait for and no
operation is held at the line's home: with the link of the hart's last LR intact and naming the line it stores and rd is 0; else it stores
nothing and rd is 1; either way the link is gone. -/
def Sys2Proof.Claims.StoreConditionalCompletes : Prop :=
  ∀ (rd rs1 rs2 : Reg) (a : AmoBits) (s s' : State) (pa : Nat) (cls : BitVec 2) (da : Bool),
    (s.getX rs1).toNat % formBytes a = 0 → mayRelease a s → Reaches (letGo a s) (s.getX rs1) (formBytes a) .store (.phys pa cls da) s' → cls ≠ 1 →
    poisoned s pa (formBytes a) = false → homeFree s pa → Memory.wf s.mem = true →
    let good := s.hart.link = some (pa / 128) ∧ ∃ e ∈ s.linkTable, e.same (linkEntry s true 0 0 false) = true ∧ e.line = pa / 128 ∧ e.intact = true
    ∃ t, exec (.sc rd rs1 rs2 a) s = .next t ∧ t.hart.link = none ∧ (∀ e ∈ t.linkTable, e.same (linkEntry s true 0 0 false) = false)
      ∧ OnlyPuts s { t with linkTable := s.linkTable }
      ∧ (good → Stores s t pa (leBytes (formBytes a) (s.getX rs2).toNat) ∧ Writes s t rd 0
          ∧ StoreRetires { s.hart with x := t.hart.x, link := none } t.hart s.pkg.dtime.toNat)
      ∧ (¬ good → t.mem = s.mem ∧ Writes s t rd 1 ∧ OnlyRetires { s.hart with link := none } t.hart (s.hart.pc + 4))

/-- A misaligned scalar load, store or atomic traps with cause 0x0A and its address, and one whose address does not resolve traps with the
cause found: nothing but the trap happens (13 R343, R344; 03 R83 to R88). -/
def Obligations.BadAccessesTrap : Prop :=
  (∀ p ∈ loadTable, ∀ (rd rs1 : Reg) (imm : BitVec 12) (s : State), let va := addrOf s rs1 imm
    (va.toNat % p.2.1 ≠ 0 → exec (p.1 rd rs1 imm) s = .next (s.takeTrap 0x0A va none))
    ∧ ∀ c u, va.toNat % p.2.1 = 0 → resolve s s.hart.who va .load = (.error c, u) → exec (p.1 rd rs1 imm) s = .next (s.takeTrap c va none))
  ∧ (∀ p ∈ storeTable, ∀ (rs1 rs2 : Reg) (imm : BitVec 12) (s : State), let va := addrOf s rs1 imm
    (va.toNat % p.2 ≠ 0 → exec (p.1 rs1 rs2 imm) s = .next (s.takeTrap 0x0A va none))
    ∧ ∀ c u, va.toNat % p.2 = 0 → resolve s s.hart.who va .store = (.error c, u) → exec (p.1 rs1 rs2 imm) s = .next (s.takeTrap c va none))
  ∧ (∀ (rd rs1 rs2 : Reg) (a : AmoBits) (s : State), (s.getX rs1).toNat % formBytes a ≠ 0 →
    exec (.lr rd rs1 a) s = .next (s.takeTrap 0x0A (s.getX rs1) none) ∧ exec (.sc rd rs1 rs2 a) s = .next (s.takeTrap 0x0A (s.getX rs1) none)
    ∧ ∀ p ∈ amoTable, exec (p.1 rd rs1 rs2 a) s = .next (s.takeTrap 0x0A (s.getX rs1) none))

/-- What a trace record, and what an address translation, may change (10 R274; 03 R90). -/
def Obligations.TracesAndTranslationsReachLittle : Prop := TraceFrame ∧ TranslationFrame

/-- The atomic instructions, LR and SC complete (13 R344, 09 R245). -/
def Obligations.AtomicsComplete : Prop := ReadModifyWritesComplete ∧ LoadReservedCompletes ∧ StoreConditionalCompletes

/-! ### Traps, returns and the SYSTEM group -/

namespace Sys2Proof.Claims

/-- The machine at the entry to a trap handler (10 R252): the hart's pc, mode and trap registers, `cvidx` and `vstart` as the trap reports them;
beside the hart, the error count of cause 0x15, counted events, and a trace record. -/
def Traps (s t : State) (cause : BitVec 8) (tval : Word) (cv : Option TrapCv) : Prop :=
  ∃ u, u = { s with pkg := { s.pkg with ue := if cause = 0x15 then satUp s.pkg.ue else s.pkg.ue }, cores := u.cores, dies := u.dies } ∧ OnlyCounts s u
    ∧ (∀ d, u.die d = { s.die d with uncore := (u.die d).uncore })
    ∧ t = { u.trace 1 (cause.setWidth 64) with hart := t.hart }
    ∧ t.hart = { s.hart with sepc := s.hart.pc, scause := cause, stval := tval, spp := s.hart.sup, tact := true, sup := true
                             pc := BitVec.ofNat 64 (4 * s.hart.stvec.toNat), wait := .none, replies := [], wpSkip := false
                             relStart := none, lookups := []
                             vstart := (cv.map (·.vstart)).getD s.hart.vstart, cvRestart := (cv.map (·.restart)).getD 0
                             cvDone := (cv.map (·.done)).getD 0, cvMember := (cv.map (·.member)).getD 0 }

/-- The current hart's handler can take a trap: no trap is active, and a vector is set (10 R252, R254). -/
def CanTrap (s : State) : Prop := s.hart.tact = false ∧ s.hart.stvec ≠ 0

/-- Instructions in a mode or form that makes them illegal (13 R361 to R364), with the condition. -/
def illegalTable (rd rs1 rs2 : Reg) (s : State) : List (Instr × Prop) :=
  [ (.tret, s.hart.sup = false), (.uiret, s.hart.sup = true), (.ctrig rs1, s.hart.sup = false)
  , (.sfenceT rs1 rs2, s.hart.sup = false ∨ 6 ≤ (s.getX rs2).toNat % 8), (.hwait rd 0 rs2, rs2 ≠ 0) ]

end Sys2Proof.Claims

/-- Taking a trap with no trap active and a vector set saves the pc, the cause, the value and the mode, and goes to the vector in supervisor
mode; nothing else of the hart changes but `cvidx` and `vstart` (10 R252), and what its instruction had kept while it waited. -/
def Sys2Proof.Claims.TrapsEnterHandler : Prop :=
  ∀ (s : State) (cause : BitVec 8) (tval : Word) (cv : Option TrapCv), CanTrap s → Traps s (s.takeTrap cause tval cv) cause tval cv

/-- A trap while one is active, or without a vector, is a fatal fault: its running context enters DUMPING, or DEAD where its dump region does not
hold a dump's header, its harts stop, the fault is its first dump record, a dump waits its turn, and no other context changes (10 R254, R267). -/
def Sys2Proof.Claims.NestedTrapsAreFatal : Prop :=
  ∀ (s : State) (cause : BitVec 8) (tval : Word) (cv : Option TrapCv), ¬ CanTrap s → (s.ctx s.hart.ctx).state = .running →
    let t := s.takeTrap cause tval cv
    (t.ctx s.hart.ctx).state = (if dumpFits s s.hart.ctx then .dumping else .dead) ∧ (t.ctx s.hart.ctx).run = false
      ∧ (t.ctx s.hart.ctx).dumpRecs.map (fun r => (r.kind, r.cause, r.gang, r.addr, r.pc)) = [(1, cause, s.hart.gang, tval, s.hart.pc)]
      ∧ (∀ h ∈ t.allHarts, h.ctx = s.hart.ctx → h.wait = .halted)
      ∧ (∀ c, c ≠ s.hart.ctx → t.ctx c = s.ctx c)
      ∧ t.dumpWaiting = (if dumpFits s s.hart.ctx then s.dumpWaiting ++ [s.hart.ctx] else s.dumpWaiting) ∧ t.hart.pc = s.hart.pc ∧ t.hart.x = s.hart.x

/-- ECALL, EBREAK and an illegal instruction take their traps: cause 0x0B in user and 0x0C in supervisor mode; 0x04, unless the core halts on
EBREAK; 0x02 with the instruction word in `stval` (13 R346, 10 R271, 00 R11). -/
def Sys2Proof.Claims.SystemTrapsComplete : Prop :=
  ∀ (s : State) (w : BitVec 32), CanTrap s →
    (∃ t, exec .ecall s = .next t ∧ Traps s t (if s.hart.sup then 0x0C else 0x0B) 0 none)
    ∧ ((s.core s.hart.core).dEbh = false → ∃ t, exec .ebreak s = .next t ∧ Traps s t 0x04 0 none)
    ∧ (∃ t, exec (.illegalInstruction w) s = .next t ∧ Traps s t 0x02 (w.setWidth 64) none)

/-- EBREAK on a core that halts on it halts the core at the instruction, with the hart and the reason in its debug status; nothing else
changes (10 R271, Table 10.9). -/
def Sys2Proof.Claims.EbreakHalts : Prop :=
  ∀ (s : State), (s.core s.hart.core).dEbh = true →
    ∃ t, exec .ebreak s = .next t ∧ t = { s with cores := t.cores } ∧ (∀ c, c ≠ s.hart.core → t.core c = s.core c)
      ∧ t.core s.hart.core = { s.core s.hart.core with dHalted := true, dReason := 5, dHart := s.hart.slot, stepping := none }

/-- TRET in supervisor mode restores the pc and the mode that the trap saved and ends the trap, with the one-instruction watchpoint skip that
`sstatus` asks for; UIRET in user mode returns to `uepc` with the enable that was saved; a misaligned address traps (10 R253, R256). -/
def Obligations.ReturnsComplete : Prop :=
  ∀ (s : State),
    (s.hart.sup = true → s.hart.sepc.getLsbD 1 = false → ∃ t, exec .tret s = .next t
      ∧ t.hart = { s.hart with pc := s.hart.sepc, sup := s.hart.spp, tact := false, wpSkip := s.hart.wpsk, wpsk := false
                               instret := s.hart.instret + 1, wait := .none, replies := [], relStart := none, lookups := [] }
      ∧ t = { s.trace 2 s.hart.sepc with hart := t.hart, cores := t.cores } ∧ OnlyCounts s t)
    ∧ (s.hart.sup = true → s.hart.sepc.getLsbD 1 = true → exec .tret s = .next (s.takeTrap 0x01 s.hart.sepc none))
    ∧ (s.hart.sup = false → s.hart.uepc.getLsbD 1 = false → ∃ t, exec .uiret s = .next t ∧ OnlyHart s t
      ∧ t.hart = { s.hart with pc := s.hart.uepc.setWidth 64, uieIe := s.hart.uiePie, instret := s.hart.instret + 1, wpSkip := false
                               replies := [], wait := .none, relStart := none, lookups := [] })
    ∧ (s.hart.sup = false → s.hart.uepc.getLsbD 1 = true → exec .uiret s = .next (s.takeTrap 0x01 (s.hart.uepc.setWidth 64) none))

/-- A privileged instruction in the wrong mode, and a form its rule makes illegal, trap with cause 0x02 and the instruction word in `stval`. -/
def Sys2Proof.Claims.WrongModeTraps : Prop :=
  ∀ (rd rs1 rs2 : Reg) (s : State), ∀ p ∈ illegalTable rd rs1 rs2 s, p.2 →
    ∃ w, encodeScalar p.1 = some w ∧ exec p.1 s = .next (s.takeTrap 0x02 (w.setWidth 64) none)

/-- The page that SFENCE.T names covers a cached translation, or it names none and covers all (13 R363). -/
def Sys2Proof.Claims.fenceCovers (s : State) (rs1 : Reg) (e : TlbEntry) : Prop :=
  rs1 = 0 ∨ (s.getX rs1).toNat % 2 ^ 48 / 4096 * 4096 / 2 ^ e.bits = e.base / 2 ^ e.bits

/-- SFENCE.T in supervisor mode, of a scope from 0 to 5, completes once the hart's convoys have drained and its stores are performed, whatever
its transfers do: what is cached of its context for its own core goes, as its page and G operand say, the walk cache of its die too, and no
translation that the page or the G operand keeps, or that another context's is (13 R363). -/
def Sys2Proof.Claims.TranslationFenceCompletes : Prop :=
  ∀ (rs1 rs2 : Reg) (s : State), s.hart.sup = true → (s.getX rs2).toNat % 8 < 6 → s.hart.disp = [] → seenAll s = true →
    let keepG (e : TlbEntry) : Prop := (s.getX rs2).getLsbD 3 = true ∧ wbit e.leaf 5 = true
    ∃ t, exec (.sfenceT rs1 rs2) s = .next t ∧ GoesOn { s.writeHome with tlb := t.tlb, dies := t.dies } t (s.hart.pc + 4)
      ∧ (∀ e, e ∈ t.tlb → e ∈ s.tlb)
      ∧ (∀ e, e ∈ s.tlb → e.ctx ≠ s.hart.ctx ∨ keepG e ∨ ¬ fenceCovers s rs1 e → e ∈ t.tlb)
      ∧ (∀ e, e ∈ t.tlb → e.ctx = s.hart.ctx → (if e.second then e.unit = (clusterOf s.hart.core).setWidth 8 else e.unit = s.hart.core) →
          keepG e ∨ ¬ fenceCovers s rs1 e)
      ∧ (∀ w, w ∈ (t.die (dieOf s.hart.core)).walks → w.ctx ≠ s.hart.ctx)
      ∧ ∀ d, t.die d = { s.die d with walks := (t.die d).walks }

/-- TMARK completes in every state: x[rs1] is traced, and the pc goes on (13 R365). CTRIG completes in supervisor mode: it sets the counter
trigger, in place of one that has not fired, and the pc goes on (13 R364, 10 R277). -/
def Sys2Proof.Claims.MarksAndTriggersComplete : Prop :=
  (∀ (rs1 : Reg) (s : State), ∃ t, exec (.tmark rs1) s = .next t ∧ GoesOn (s.trace 4 (s.getX rs1)) t (s.hart.pc + 4))
  ∧ ∀ (rs1 : Reg) (s : State), s.hart.sup = true → ∃ t, exec (.ctrig rs1) s = .next t
      ∧ GoesOn { s with pkg := { s.pkg with pmtrig := s.getX rs1, pmPending := true } } t (s.hart.pc + 4)

/-- The look of HWAIT at its word, if it names one: the doubleword there, or none, and the machine after the look (13 R362). -/
def Sys2Proof.Claims.Looks (s : State) (rs1 : Reg) (v : Option Nat) (u : State) : Prop :=
  (rs1 = 0 ∧ v = none ∧ u = s)
  ∨ (rs1 ≠ 0 ∧ (s.getX rs1).toNat % 8 = 0
      ∧ ∃ p w b, resolve s s.hart.who (s.getX rs1) .load = (.ok p, w) ∧ p.near = true ∧ hartLoad w (s.getX rs1) 8 = .ok b u ∧ v = some (leNat b))

/-- HWAIT completes when it names no word or an aligned one on a local page or in a window that it can read: with 0 when the word there is not
x[rs2]; else with 1 when a user interrupt can be taken; else with 2 when 2^20 ticks have passed since it began; it goes on waiting otherwise
(13 R362). -/
def Sys2Proof.Claims.HartWaitCompletes : Prop :=
  ∀ (rd rs1 rs2 : Reg) (s u : State) (v : Option Nat), Looks s rs1 v u → (rs1 = 0 → rs2 = 0) →
    ((∃ n, v = some n ∧ n ≠ (s.getX rs2).toNat) → ∃ t, exec (.hwait rd rs1 rs2) s = .next t ∧ WritesOnly u t rd 0 (u.hart.pc + 4))
    ∧ ((∀ n, v = some n → n = (s.getX rs2).toNat) → u.hart.interruptible = true →
        ∃ t, exec (.hwait rd rs1 rs2) s = .next t ∧ WritesOnly u t rd 1 (u.hart.pc + 4))
    ∧ ((∀ n, v = some n → n = (s.getX rs2).toNat) → u.hart.interruptible = false → 2 ^ 20 ≤ (u.pkg.dtime - hwaitStart s).toNat →
        ∃ t, exec (.hwait rd rs1 rs2) s = .next t ∧ WritesOnly u t rd 2 (u.hart.pc + 4))
    ∧ ((∀ n, v = some n → n = (s.getX rs2).toNat) → u.hart.interruptible = false → (u.pkg.dtime - hwaitStart s).toNat < 2 ^ 20 →
        exec (.hwait rd rs1 rs2) s = .next { s with hart := { s.hart with
          wait := .hwait (if rs1 = 0 then none else some (s.getX rs1)) (s.getX rs2) rd (hwaitStart s) } })

/-- Taking a trap: into the handler, or, while one is active or without a vector, as a fatal fault (10 R252, R254). -/
def Obligations.TrapsAreTaken : Prop := TrapsEnterHandler ∧ NestedTrapsAreFatal

/-- ECALL, EBREAK and an illegal instruction complete (13 R346, 10 R271, 00 R11). -/
def Obligations.SystemCallsComplete : Prop := SystemTrapsComplete ∧ EbreakHalts

/-- SFENCE.T, TMARK, CTRIG and HWAIT complete (13 R362 to R365). -/
def Obligations.MarksFencesAndWaitsComplete : Prop := TranslationFenceCompletes ∧ MarksAndTriggersComplete ∧ HartWaitCompletes

/-! ### Control and status registers -/

namespace Sys2Proof.Claims

/-- The six Zicsr instructions: the source operand, whether the register is read and written, and the new value from the old one and the
operand (13 R347). -/
def csrTable (rd rs1 : Reg) (imm : BitVec 5) (csr : BitVec 12) (s : State) : List (Instr × Word × Bool × Bool × (Word → Word → Word)) :=
  [ (.csrrw rd rs1 csr, s.getX rs1, rd ≠ 0, true, fun _ v => v), (.csrrs rd rs1 csr, s.getX rs1, true, rs1 ≠ 0, fun o v => o ||| v)
  , (.csrrc rd rs1 csr, s.getX rs1, true, rs1 ≠ 0, fun o v => o &&& ~~~ v)
  , (.csrrwi rd imm csr, imm.setWidth 64, rd ≠ 0, true, fun _ v => v), (.csrrsi rd imm csr, imm.setWidth 64, true, imm ≠ 0, fun o v => o ||| v)
  , (.csrrci rd imm csr, imm.setWidth 64, true, imm ≠ 0, fun o v => o &&& ~~~ v) ]

/-- Registers of the hart that hold what is written to some of their bits and read 0 in the others: number, and those bits
(13 Table 13.2; 06 Tables 6.4, 6.5; 10 Tables 10.2, 10.3, 10.13; 11 Table 11.4). -/
def storedCsrs : List (Nat × Word) :=
  [ (0x800, 0xFFFFFFFFFFFFFFFF), (0x801, 0xFFFFFFFF), (0x802, 0xFFFFFFFFFFF), (0x804, 3), (0x805, 7), (0x806, 1), (0x807, 0x1F)
  , (0x808, 0x3FFFFFFFFF), (0x809, 0xFFFF), (0x810, 3), (0x811, 0xFFFFFFFFFFFC), (0x812, 0xFF), (0x813, 0xFFFF), (0x814, 0xFFFFFFFFFFFF)
  , (0x815, 0xFFFFFFFFFFFFFFFF), (0x818, 0xFFFFFFFFF000), (0x819, 0xFFFFFFFFFFFFFFFF), (0x822, 0xFFFFFFFFF000), (0x823, 0x1FFFFFFFFF)
  , (0x501, 0xFFFFFFFFFFFC), (0x502, 0xFFFFFFFFFFFFFFFC), (0x503, 0xFF), (0x504, 0xFFFFFFFFFFFFFFFF), (0x505, 0x3F3F07) ]

/-- The numbers of 13 Table 13.2 that are hart state. -/
def hartCsrs : List Nat :=
  [ 0x800, 0x801, 0x802, 0x803, 0x804, 0x805, 0x806, 0x807, 0x808, 0x809, 0x80A, 0x810, 0x811, 0x812, 0x813, 0x814, 0x815, 0x818, 0x819
  , 0x81A, 0x820, 0x821, 0x822, 0x823, 0x824, 0xC02, 0xC20, 0xC21, 0xC22, 0xC23, 0xC24, 0xC28, 0xC29, 0xC2A, 0xC2B, 0xC30, 0xC31, 0xC32
  , 0xC33, 0xC38, 0xC39, 0x500, 0x501, 0x502, 0x503, 0x504, 0x505, 0x508, 0x510, 0xD10, 0xD11 ]

end Sys2Proof.Claims

/-- A CSR instruction whose access is legal and has nothing to wait for completes: rd takes the old value where the form reads, the register
takes the new value where the form writes, and execution goes on (13 R347 to R349). -/
def Obligations.CsrInstructionsComplete : Prop :=
  ∀ (rd rs1 : Reg) (imm : BitVec 5) (csr : BitVec 12) (s : State), ∀ p ∈ csrTable rd rs1 imm csr s,
    let (i, src, reads, writes, f) := p
    csrIllegal s csr.toNat writes = false → csrWaits s csr.toNat reads = false →
    ∃ old u t, csrRead s csr.toNat = some old
      ∧ u = (if writes then csrWrite (s.noteTime csr.toNat reads) csr.toNat (f old src) src else s.noteTime csr.toNat reads)
      ∧ exec i s = .next t ∧ WritesOnly u t (if reads then rd else 0) old (s.hart.pc + 4)

/-- Which accesses trap, with cause 0x02 and the instruction word (13 R348): a number that no table gives, a write of a number whose top two
bits are 3, and a user access to a supervisor number but for reads of the programmable counters. -/
def Sys2Proof.Claims.CsrAccessesTrap : Prop :=
  ∀ (rd rs1 : Reg) (imm : BitVec 5) (csr : BitVec 12) (s : State), ∀ p ∈ csrTable rd rs1 imm csr s,
    let (i, _, _, writes, _) := p
    (csrRead s csr.toNat = none ∨ (writes = true ∧ csr.toNat / 1024 = 3)
      ∨ (s.hart.sup = false ∧ csr.toNat / 256 % 4 = 1 ∧ ¬ (0x520 ≤ csr.toNat ∧ csr.toNat ≤ 0x52F ∧ writes = false))) →
    ∃ w, encodeScalar i = some w ∧ exec i s = .next (s.takeTrap 0x02 (w.setWidth 64) none)

/-- A hart's register holds what was written to its stored bits, reads 0 in the others, and a write to it leaves every other register of the
hart, the scalar registers and the pc as they were (13 Table 13.2). -/
def Sys2Proof.Claims.CsrsHoldWhatIsWritten : Prop :=
  ∀ p ∈ storedCsrs, ∀ (s : State) (v src : Word),
    let t := csrWrite s p.1 v src
    csrRead t p.1 = some (v &&& p.2) ∧ OnlyHart s t ∧ t.hart.x = s.hart.x ∧ t.hart.pc = s.hart.pc ∧ t.hart.sup = s.hart.sup
      ∧ ∀ m ∈ hartCsrs, m ≠ p.1 → (p.1 = 0x802 → m ≠ 0x803) → csrRead t m = csrRead s m

/-- Registers with a rule of their own: `sdisc` is cleared by a 1 and set by none, `aseed` stores 1 for 0, `srctl.k` the nearer limit of 1 to
20, `asamp.n` at most 24, and enabling the audit clears the context's disable (10 Tables 10.7, 10.13; 09 R246, R250); `sstatus` holds its
three bits (10 Table 10.2). -/
def Sys2Proof.Claims.CsrsWithTheirOwnRules : Prop :=
  ∀ (s : State) (v src : Word),
    (csrWrite s 0x80A v src).hart = { s.hart with sdisc := s.hart.sdisc && !src.getLsbD 0 }
    ∧ (csrWrite s 0x821 v src).hart = { s.hart with aseed := if v = 0 then 1 else v }
    ∧ (csrWrite s 0x81A v src).hart = { s.hart with srEn := v.getLsbD 0, srFlt := v.getLsbD 8
                                                    srK := BitVec.ofNat 5 (max 1 (min 20 (v.toNat / 2 % 32))) }
    ∧ (csrWrite s 0x820 v src).hart = { s.hart with asampN := BitVec.ofNat 5 (min 24 (v.toNat % 32)) }
    ∧ ((csrWrite s 0x820 v src).ctx s.hart.ctx) = { s.ctx s.hart.ctx with adis := false }
    ∧ (v.getLsbD 4 = false → csrWrite s 0x500 v src
        = { s with hart := { s.hart with wpsk := v.getLsbD 3, tact := v.getLsbD 1, spp := v.getLsbD 0 } })

/-- Instructions and CSR accesses that their mode, form or number makes illegal trap (13 R348, R361 to R364). -/
def Obligations.IllegalFormsTrap : Prop := WrongModeTraps ∧ CsrAccessesTrap

/-- What the registers of a hart hold after a write (13 Table 13.2). -/
def Obligations.CsrsKeepTheirRules : Prop := CsrsHoldWhatIsWritten ∧ CsrsWithTheirOwnRules

/-! ### Fences, visibility and tickets -/

namespace Sys2Proof.Claims

/-- No transfer of the hart is in flight. -/
def NoTransfers (s : State) : Prop := ∀ x ∈ s.hart.xfers, x.state ≠ .running

end Sys2Proof.Claims

/-- The fences complete when what they order is done (08 R225, R227; 13 R345, R354): loads and transfers; for writes, what a release of
device scope waits for; for FENCE.I that the stores are visible, and the instruction cache is discarded. A fence that reports writes 0. -/
def Sys2Proof.Claims.FencesComplete : Prop :=
  ∀ (rd rs1 : Reg) (fm pred succ : BitVec 4) (imm : BitVec 12) (scope : BitVec 3) (s : State),
    (pred = 0 ∨ succ = 0 ∨ (NoTransfers s ∧ pred.getLsbD 0 = false ∧ pred.getLsbD 2 = false) →
      ∃ t, exec (.fence rd rs1 fm pred succ) s = .next t ∧ GoesOn s t (s.hart.pc + 4))
    ∧ (pred ≠ 0 → succ ≠ 0 → pred.getLsbD 0 = true ∨ pred.getLsbD 2 = true → fenceReady s = true →
      ∃ t, exec (.fence rd rs1 fm pred succ) s = .next t ∧ GoesOn s.writeHome t (s.hart.pc + 4))
    ∧ (fenceReady s = true → ∃ t, exec (.fenceTso rd rs1) s = .next t ∧ GoesOn s.writeHome t (s.hart.pc + 4))
    ∧ (NoTransfers s → ∃ t, exec (.fenceAcq scope) s = .next t ∧ GoesOn s t (s.hart.pc + 4))
    ∧ (seenAll s = true → ∃ t, exec (.fenceI rd rs1 imm) s = .next t
        ∧ GoesOn (s.writeHome.modCore s.hart.core (fun c => { c with icache := [] })) t (s.hart.pc + 4))
    ∧ (∀ i ∈ [Instr.fenceScoped rd scope, Instr.fenceRel rd scope],
        (scope = 0 → NoTransfers s → ∃ t, exec i s = .next t ∧ WritesOnly s t rd 0 (s.hart.pc + 4))
        ∧ (scope ≠ 0 → fenceReady s = true → scope.toNat < 5 ∨ s.hart.posted = [] →
            ∃ t, exec i s = .next t ∧ WritesOnly s.writeHome t rd 0 (s.hart.pc + 4)))

/-- A system-scope fence after a posted write has failed ends with LINK_DOWN: the link fault is posted, the failed writes are forgotten, and
rd takes 1 and the port of the first such write, or the context traps it with cause 0x10 (08 R228, R229; 13 R354). -/
def Sys2Proof.Claims.FailedFencesReport : Prop :=
  ∀ (rd : Reg) (s : State) (p : Posted), fenceReady s = true → firstPosted s.hart.posted = some p → (∃ q ∈ s.hart.posted, q.failed = true) →
    let u := (s.writeHome.postLinkFault s.hart.ctx p.port p.va).withHart (fun h => { h with posted := h.posted.filter (fun q => !q.failed) })
    ∀ i ∈ [Instr.fenceScoped rd 5, Instr.fenceRel rd 5],
      ((u.ctx s.hart.ctx).ftrap = false → ∃ t, exec i s = .next t
        ∧ WritesOnly u t rd (BitVec.ofNat 64 (1 + 256 * p.port.toNat)) (u.hart.pc + 4))
      ∧ ((u.ctx s.hart.ctx).ftrap = true → exec i s = .next (u.takeTrap 0x10 (p.port.setWidth 64) none))

/-- PAUSE goes on and holds the hart's next issue for 32 cycles; VISWAIT goes on once device time has reached its operand, and waits until
then (13 R345, R355). -/
def Sys2Proof.Claims.PauseAndVisibilityWait : Prop :=
  ∀ (rs1 : Reg) (s : State),
    (∃ t, exec .pause s = .next t ∧ OnlyHart s t ∧ OnlyRetires { s.hart with pauseUntil := s.cycles + 32 } t.hart (s.hart.pc + 4) ∧ t.hart.x = s.hart.x)
    ∧ ((s.getX rs1).toNat ≤ s.pkg.dtime.toNat → ∃ t, exec (.viswait rs1) s = .next t ∧ GoesOn s t (s.hart.pc + 4))
    ∧ (s.pkg.dtime.toNat < (s.getX rs1).toNat →
        exec (.viswait rs1) s = .next { s with hart := { s.hart with wait := .viswait (s.getX rs1) } })

/-- STV stores a doubleword as SD does and rd takes its visibility value: the time of the store in local memory outside class L; for a class L
line the write leaves for its home and rd waits for the reply (13 R356, 08 R205). -/
def Sys2Proof.Claims.StoreVisibleCompletes : Prop :=
  ∀ (rd rs1 rs2 : Reg) (s s' : State), (s.getX rs1).toNat % 8 = 0 →
    (∀ pa cls da, Reaches s (s.getX rs1) 8 .store (.phys pa cls da) s' → cls ≠ 1 → Memory.wf s.mem = true →
      ∃ t, exec (.stv rd rs1 rs2) s = .next t ∧ OnlyPuts s t ∧ Stores s t pa (leBytes 8 (s.getX rs2).toNat)
        ∧ Writes s t rd s.pkg.dtime ∧ StoreRetires { s.hart with x := t.hart.x } t.hart s.pkg.dtime.toNat)
    ∧ (∀ pa da, Reaches s (s.getX rs1) 8 .store (.phys pa 1 da) s' → rd ≠ 0 → (∀ p ∈ s.hart.posted, p.seq + 1 ≠ s.hart.postSeq + 1) →
      ∃ t w, exec (.stv rd rs1 rs2) s = .next t ∧ t.ltransit = s.ltransit ++ [w] ∧ w.pa = pa ∧ w.data = leBytes 8 (s.getX rs2).toNat
        ∧ t.mem = s.mem ∧ t.hart.x = s.hart.x ∧ t.hart.pc = s.hart.pc + 4 ∧ t.hart.wait = .stv rd none)

/-- Every pair of counters but the current hart's context's pair of a tile on a cluster is as before. -/
def Sys2Proof.Claims.OtherTickets (s t : State) (cl : BitVec 5) (tile : BitVec 20) : Prop :=
  ∀ c d u, ¬ (c = s.hart.ctx ∧ d = cl ∧ u = tile) →
    t.tickets.find? (fun k => ticketKey k c d u) = s.tickets.find? (fun k => ticketKey k c d u)

/-- The ticket instructions on a tile id below 2^20 (13 R357 to R359). TKGET completes when its cluster has room for a pair: rd takes the next
ticket, which is counted. TKWAIT completes when its ticket is served: the hart holds the tile; it waits when the ticket has been issued and is
not served yet; one that has not been issued, or is served already, is a ticket fault. TKDONE of a tile the hart holds completes when nothing
is left that a release waits for: the next ticket is served, and the hart holds the tile no longer, unless it holds it on another cluster too;
TKDONE of a tile not held is a ticket fault. No other pair of counters changes. -/
def Sys2Proof.Claims.ServedTicketsComplete : Prop :=
  ∀ (rd rs1 rs2 : Reg) (s : State) (tile : BitVec 20), (s.getX rs1).toNat = tile.toNat →
    let cl := clusterOf s.hart.core
    let p := ticketOf s tile
    let k : BitVec 32 := (s.getX rs2).setWidth 32
    let q := heldPair s tile
    (ticketsFull s = false → ∃ t, exec (.tkget rd rs1) s = .next t
      ∧ WritesOnly { s with tickets := t.tickets } t rd (p.t.setWidth 64) (s.hart.pc + 4)
      ∧ ticketOf t tile = { p with t := p.t + 1 } ∧ OtherTickets s t cl tile)
    ∧ (p.s = k → p.t ≠ p.s → ∃ t, exec (.tkwait rs1 rs2) s = .next t
      ∧ GoesOn { s with tickets := t.tickets, hart := { s.hart with held := t.hart.held } } t (s.hart.pc + 4)
      ∧ (∀ u, u ∈ t.hart.held ↔ u = tile ∨ u ∈ s.hart.held)
      ∧ ticketOf t tile = { p with holder := some (s.hart.gang, s.hart.rank) } ∧ OtherTickets s t cl tile)
    ∧ ((k - p.s).toNat < (p.t - p.s).toNat → p.s ≠ k →
      exec (.tkwait rs1 rs2) s = .next { s with hart := { s.hart with wait := .ticket tile k cl } })
    ∧ ((p.t - p.s).toNat ≤ (k - p.s).toNat → exec (.tkwait rs1 rs2) s = .next (s.takeTrap 0x11 (s.getX rs1) none))
    ∧ (tile ∈ s.hart.held → fenceReady s = true → ∃ t, exec (.tkdone rs1) s = .next t
      ∧ GoesOn { s.writeHome with tickets := t.tickets, hart := { s.hart with held := t.hart.held } } t (s.hart.pc + 4)
      ∧ t.hart.held = (if ∃ r ∈ t.tickets, s.hart.holds r = true ∧ r.tile = tile then s.hart.held else s.hart.held.filter (· ≠ tile))
      ∧ ticketAt t q.cl tile = { q with s := q.s + 1, holder := none } ∧ OtherTickets s t q.cl tile)
    ∧ (tile ∉ s.hart.held → exec (.tkdone rs1) s = .next (s.takeTrap 0x11 (s.getX rs1) none))

/-- A ticket instruction on a tile id with a bit above bit 19 set is a ticket fault, and so is a TKGET that finds no room for its pair
(13 R357, R359). -/
def Sys2Proof.Claims.TicketFaults : Prop :=
  ∀ (rd rs1 rs2 : Reg) (s : State),
    (2 ^ 20 ≤ (s.getX rs1).toNat → ∀ i ∈ [Instr.tkget rd rs1, .tkwait rs1 rs2, .tkdone rs1],
      exec i s = .next (s.takeTrap 0x11 (s.getX rs1) none))
    ∧ ∀ tile : BitVec 20, (s.getX rs1).toNat = tile.toNat → needPair s tile = none →
      exec (.tkget rd rs1) s = .next (s.takeTrap 0x11 (s.getX rs1) none)

/-- Fences complete, or report a failed write (08 R225 to R229; 13 R345, R354). -/
def Obligations.FencesEnd : Prop := FencesComplete ∧ FailedFencesReport

/-- PAUSE, VISWAIT and STV complete (13 R345, R355, R356). -/
def Obligations.VisibilityAndPauseComplete : Prop := PauseAndVisibilityWait ∧ StoreVisibleCompletes

/-- TKGET, TKWAIT and TKDONE complete, or are ticket faults (13 R357 to R359). -/
def Obligations.TicketsComplete : Prop := ServedTicketsComplete ∧ TicketFaults

/-! ### Vector and matrix configuration -/

namespace Sys2Proof.Claims

/-- Elements of a group of registers of `vlb` bytes (14 R367). -/
def groupElems (vlb : Nat) (eew : BitVec 3) (grp : BitVec 2) : Nat := vlb * 2 ^ grp.toNat / 2 ^ eew.toNat

/-- The elements that VSETVL asks for: x0 asks for as many as fit (14 R367). -/
def asked (s : State) (rs1 : Reg) : Nat := if rs1 = 0 then 2 ^ 64 else (s.getX rs1).toNat

/-- Rows and columns for a request, under `m` elements (14 R367). -/
def shaped (rows cols m : Nat) : Nat × Nat := if rows = 0 ∨ cols = 0 then (0, 0) else (min rows (m / min cols m), min cols m)

/-- Of the hart `h`, whose strip has closed, a configuration instruction sets the lengths and the type, and rd takes the vector length
(14 R367); beside what retiring does, nothing else changes. -/
def SetsLengths (h k : Hart) (eew : BitVec 3) (grp : BitVec 2) (r c : Nat) : Prop :=
  OnlyRetires { h with vl := BitVec.ofNat 17 (r * c), vrows := BitVec.ofNat 17 r, vcols := BitVec.ofNat 17 c, vtEew := eew.setWidth 2
                       vtGrp := grp } k (h.pc + 4)

/-- The least granted length whose group holds so many elements (06 R155). -/
def lengthFor (avl : Nat) (eew : BitVec 3) (grp : BitVec 2) : Nat :=
  ([256, 512, 1024, 2048, 4096, 8192].find? (fun v => avl ≤ groupElems v eew grp)).getD 8192

end Sys2Proof.Claims

/-- What closing a strip does to a hart at a count of cycles (10 R278, R279): nothing when it keeps no records; else its record joins those
that are due, and when none of its convoys is in flight and no earlier strip waits for its counts, the record takes the counts of the strip,
and the next strip begins. -/
def Sys2Proof.Claims.StripsClose : Prop :=
  ∀ (h : Hart) (c : Nat),
    (h.srEn = false → h.closes c = h)
    ∧ (h.srEn = true → h.disp = [] → (∀ d ∈ h.stripDue, d.counts ≠ none) →
        h.closes c = { h with
          stripDue := h.stripDue ++ [{ pc := h.pc, vrows := h.vrows.toNat, vcols := h.vcols.toNat, vl := h.vl.toNat, ahead := 0
                                       counts := some (c - h.stripStart, h.stripCoins, h.stripArith, h.stripMem) }]
          stripStart := c, stripCoins := 0, stripArith := 0, stripMem := 0 })

/-- VSETVL and VSETSHAPE complete for every element width but a reserved one, which traps with cause 0x0D: the lengths and the type are set from
the request and the group's size, and rd takes VL (14 R367, R368); the strip in progress closes as 10 R278 says. -/
def Sys2Proof.Claims.LengthsAreSet : Prop :=
  ∀ (rd rs1 rs2 : Reg) (eew : BitVec 3) (grp : BitVec 2) (s : State),
    let m := groupElems s.hart.vlb.toNat eew grp
    let n := min (asked s rs1) m
    let rc := shaped (s.getX rs1).toNat (s.getX rs2).toNat m
    let h := s.hart.closes s.cycles
    (eew.toNat ≤ 3 →
      (∃ t, exec (.vsetvl rd rs1 eew grp) s = .next t ∧ OnlyHart s t ∧ Writes s t rd (BitVec.ofNat 64 n) ∧ SetsLengths h t.hart eew grp 1 n)
      ∧ (∃ t, exec (.vsetshape rd rs1 rs2 eew grp) s = .next t ∧ OnlyHart s t ∧ Writes s t rd (BitVec.ofNat 64 (rc.1 * rc.2))
          ∧ SetsLengths h t.hart eew grp rc.1 rc.2))
    ∧ (3 < eew.toNat → ∀ i ∈ [Instr.vsetvl rd rs1 eew grp, .vsetvlB rd rs1 eew grp, .vsetshape rd rs1 rs2 eew grp, .vsetshapeB rd rs1 rs2 eew grp],
        exec i s = .next (s.takeTrap 0x0D 0 none))

/-- The boundary forms complete when the hart's convoys have drained and no command of its cluster waits for its banks: with a length that is
enough it becomes the one needed, but no less than the granted one; with a length too small it stays where the record does not let it grow, and
else becomes the greatest of the six lengths that is no more than needed and fits the core, where there is one. VL and the shape follow from
the new length, and rd takes VL; the kept vector registers and the masks keep the low bytes that both lengths have (06 R155 to R157, 14 R367).
Beside the hart only what lending storage and banks to the core can reach differs. -/
def Sys2Proof.Claims.BoundaryFormsComplete : Prop :=
  ∀ (rd rs1 rs2 : Reg) (eew : BitVec 3) (grp : BitVec 2) (s : State), eew.toNat ≤ 3 → s.hart.disp = [] →
    (s.cluster (clusterOf s.hart.core)).bankCmd = [] →
    ∀ p ∈ [ (Instr.vsetvlB rd rs1 eew grp, asked s rs1, fun m => (1, min (asked s rs1) m))
          , (Instr.vsetshapeB rd rs1 rs2 eew grp, (s.getX rs1).toNat * (s.getX rs2).toNat, shaped (s.getX rs1).toNat (s.getX rs2).toNat) ],
      let old := s.hart.vlb.toNat
      let need := lengthFor p.2.1 eew grp
      let room (v : Nat) : Prop := v ∈ vlbSizes ∧ old ≤ v ∧ v ≤ need ∧ fits s v = true
      ∃ t, exec p.1 s = .next t
        ∧ (need ≤ old → t.hart.vlb.toNat = max s.hart.vlb0.toNat need)
        ∧ (old < need → s.hart.grow = false → t.hart.vlb = s.hart.vlb)
        ∧ (old < need → s.hart.grow = true → (∃ v, room v) → room t.hart.vlb.toNat ∧ ∀ v, room v → v ≤ t.hart.vlb.toNat)
        ∧ (old < need → s.hart.grow = true → (∀ v, ¬ room v) → t.hart.vlb = s.hart.vlb)
        ∧ (let rc := p.2.2 (groupElems t.hart.vlb.toNat eew grp)
           Writes s t rd (BitVec.ofNat 64 (rc.1 * rc.2)) ∧ t.hart.vl = BitVec.ofNat 17 (rc.1 * rc.2)
             ∧ t.hart.vrows = BitVec.ofNat 17 rc.1 ∧ t.hart.vcols = BitVec.ofNat 17 rc.2)
        ∧ OnlyRetires { s.hart.closes s.cycles with
            v := t.hart.v, m := t.hart.m, vdirty := t.hart.vdirty, vlb := t.hart.vlb, vl := t.hart.vl, vrows := t.hart.vrows, vcols := t.hart.vcols
            vtEew := eew.setWidth 2, vtGrp := grp } t.hart (s.hart.pc + 4)
        ∧ (∀ i : Fin 32, s.hart.vkeep.getLsbD i = true ∨ t.hart.vlb = s.hart.vlb →
            t.hart.v[i] % 2 ^ (8 * min old t.hart.vlb.toNat) = s.hart.v[i] % 2 ^ (8 * min old t.hart.vlb.toNat))
        ∧ (∀ i : Fin 8, t.hart.m[i] % 2 ^ (8 * min old t.hart.vlb.toNat) = s.hart.m[i] % 2 ^ (8 * min old t.hart.vlb.toNat))
        ∧ t = { s with hart := t.hart, cores := t.cores, banks := t.banks, clusters := t.clusters, dir := t.dir, lines := t.lines
                       freshCount := t.freshCount }
        ∧ OnlyCounts s t ∧ ∀ c, t.cluster c = { s.cluster c with reserved := (t.cluster c).reserved }

/-- What a change of length keeps (06 R156): the scalar registers, the accumulators and every CSR's state but `vdirty`; of a vector register in
`vkeep` the low bytes that both lengths have, with zeros above them, and its `vdirty` bit; of each mask register the low bits likewise. The
`vdirty` bits of the other vector registers are cleared, and where the length does not change nothing does. -/
def Sys2Proof.Claims.LengthChangesKeep : Prop :=
  ∀ (s : State) (new : Nat), new ≤ 8192 →
    let old := s.hart.vlb.toNat
    let t := s.rebind new
    let low (v : Nat) : Nat := v % 2 ^ (8 * min old new)
    (new = old → t = s)
    ∧ (new ≠ old → t = { s with hart := t.hart, freshCount := t.freshCount } ∧ t.hart.vlb.toNat = new
        ∧ t.hart = { s.hart with v := t.hart.v, m := t.hart.m, vdirty := t.hart.vdirty, vlb := t.hart.vlb }
        ∧ (∀ i : Fin 32, (s.hart.vkeep.getLsbD i = true → t.hart.v[i] = low s.hart.v[i] ∧ t.hart.vdirty.getLsbD i = s.hart.vdirty.getLsbD i)
            ∧ (s.hart.vkeep.getLsbD i = false → t.hart.vdirty.getLsbD i = false))
        ∧ (∀ i : Fin 8, t.hart.m[i] = low s.hart.m[i]) ∧ ∀ i, 32 ≤ i → t.hart.vdirty.getLsbD i = s.hart.vdirty.getLsbD i)

/-- TSHAPE, TFREE and CTLOAD complete when nothing of the vector queue is in their way: TSHAPE sets the shape it grants, and rd to its sizes, or
traps with cause 0x0E; TFREE clears the shape and the dirty bits of the tiles it names; CTLOAD of 64 bytes that it can read, into a slot that no
load still writes, with no other hart of the context in the middle of an instruction, loads the table, whose next generation goes to rd
(16 R425, R426; 15 R407, 11 R301). -/
def Sys2Proof.Claims.MatrixAndCodeConfigurationComplete : Prop :=
  ∀ (rd rs1 rs2 : Reg) (s : State),
    (s.hart.disp = [] → ∀ m n k kind, shapeGrant s.hart.vlb.toNat s.hart.tiles.toNat (s.getX rs1) (s.getX rs2) = some (m, n, k, kind) →
      ∃ t, exec (.tshape rd rs1 rs2) s = .next t ∧ OnlyHart s t ∧ Writes s t rd (BitVec.ofNat 64 (m + n * 2 ^ 16 + k * 2 ^ 32))
        ∧ OnlyRetires { s.hart with tsm := BitVec.ofNat 8 m, tsn := BitVec.ofNat 8 n, tsk := BitVec.ofNat 16 k, tfKind := kind
                                    tfSat := (s.getX rs2).getLsbD 12, tfTile := field (s.getX rs2) 10 2, tfB := field (s.getX rs2) 5 5
                                    tfA := field (s.getX rs2) 0 5 } t.hart (s.hart.pc + 4))
    ∧ (s.hart.disp = [] → shapeGrant s.hart.vlb.toNat s.hart.tiles.toNat (s.getX rs1) (s.getX rs2) = none →
      exec (.tshape rd rs1 rs2) s = .next (s.takeTrap 0x0E 0 none))
    ∧ (s.hart.disp = [] → ∃ t, exec (.tfree rs1) s = .next t ∧ OnlyHart s t ∧ t.hart.x = s.hart.x
        ∧ OnlyRetires { s.hart with vdirty := t.hart.vdirty, tsm := 0, tsn := 0, tsk := 0, tfKind := 0, tfSat := false, tfTile := 0, tfB := 0, tfA := 0 }
            t.hart (s.hart.pc + 4)
        ∧ ∀ i, t.hart.vdirty.getLsbD i = (s.hart.vdirty.getLsbD i && !(decide (40 ≤ i ∧ i < 40 + s.hart.tiles.toNat) && (s.getX rs1).getLsbD (i - 40))))
    ∧ (∀ bs u, (s.getX rs1).toNat % 64 = 0 → hartLoad s (s.getX rs1) 64 = .ok bs u →
      let slot := (s.getX rs2).toNat % 4
      let old := (s.ctx s.hart.ctx).slots.getD slot CodeTable.empty
      let table (v : State) (i : Nat) : CodeTable := (v.ctx u.hart.ctx).slots.getD i CodeTable.empty
      old.loading = none → decoding u u.hart.ctx u.hart.ref = false →
      ∃ t, exec (.ctload rd rs1 rs2) s = .next t ∧ WritesOnly { u with ctxs := t.ctxs } t rd ((old.gen + 1).setWidth 64) (u.hart.pc + 4)
        ∧ (∀ i < 4, table t i = if i = slot then { bytes := some bs, gen := old.gen + 1, loading := none } else table u i)
        ∧ ∀ c, c ≠ u.hart.ctx → t.ctx c = u.ctx c)

/-- A matrix shape that is granted is no larger than asked for, lies within a tile, has whole steps of 32, a row of A fits a register, and B
fits eight (16 R425). -/
def Sys2Proof.Claims.GrantedShapesFit : Prop :=
  ∀ (vlb tiles : Nat) (r1 r2 : Word) (m n k : Nat) (kind : BitVec 2), shapeGrant vlb tiles r1 r2 = some (m, n, k, kind) →
    let fa := r2.toNat % 32
    let fb := r2.toNat / 32 % 32
    0 < m ∧ m ≤ r1.toNat % 2 ^ 16 ∧ m ≤ 128 ∧ (kind = 3 → m ≤ 64) ∧ 0 < n ∧ n ≤ r1.toNat / 2 ^ 16 % 2 ^ 16 ∧ n ≤ 128
      ∧ 32 ≤ k ∧ k ≤ r1.toNat / 2 ^ 32 % 2 ^ 16 ∧ k % 32 = 0 ∧ k * eewOf fa ≤ 8 * vlb ∧ k * n * eewOf fb ≤ 64 * vlb
      ∧ r2.toNat / 1024 % 4 < tiles

/-- VSETVL and VSETSHAPE complete, and close the strip in progress (14 R367, R368; 10 R278). -/
def Obligations.VectorConfigurationCompletes : Prop := StripsClose ∧ LengthsAreSet

/-- VSETVL.B and VSETSHAPE.B complete, and what a change of the granted length keeps (06 R155, R156). -/
def Obligations.BoundaryConfigurationCompletes : Prop := BoundaryFormsComplete ∧ LengthChangesKeep

/-- TSHAPE, TFREE and CTLOAD complete, and a shape that is granted fits (16 R425, R426; 15 R407). -/
def Obligations.MatrixConfigurationCompletes : Prop := MatrixAndCodeConfigurationComplete ∧ GrantedShapesFit

/-! ### Queues, calls, gangs and engines as a hart commands them -/

/-- TQPUSH of a record it can read and that is well formed completes: into a queue with room it appends the record, cleared above bit 38 of its
first word, pending its release unless the hart's earlier writes are complete and none of its earlier pushes to the queue pends, and rd is 0; a
full queue answers 1, and a queue that refuses the pusher its code; a record that is not well formed traps with cause 0x0E (05 R118, R119,
R123, R125, R126). With a counter that it reaches and at whose line no operation is held, TQPUSH.P does the same when the counter is 0, and
parks the record otherwise, where there is room to park, and answers 1 where there is none (R128). -/
def Obligations.PushesComplete : Prop :=
  ∀ (rd rs1 rs2 : Reg) (s u : State) (b : List Byte), (s.getX rs2).toNat % 64 = 0 → hartLoad s (s.getX rs2) 64 = .ok b u →
    let task := plainTask (taskOfBytes b)
    let q : BitVec 16 := (s.getX rs1).setWidth 16
    let pushed (v t : State) (d : Queue) : Prop := WritesOnly { v.writeHome.qstore with queues := t.queues } t rd 0 (v.hart.pc + 4)
      ∧ (∀ k, k ≠ q.toNat → tget t.queues k = tget v.queues k)
      ∧ ∃ r : QRec, tget t.queues q.toNat = some { d with recs := d.recs ++ [r] } ∧ r.task = task ∧ r.pusher = v.hart.ctx ∧ r.pc = none
        ∧ r.rel = if writesDone v v.hart.release && !pushPends v d then none else some v.hart.release
    (taskOk task = false → ∀ i ∈ [Instr.tqpush rd rs1 rs2, .tqpushP rd rs1 rs2], exec i s = .next (s.takeTrap 0x0E (s.getX rs2) none))
    ∧ (∀ r, taskOk task = true → pushTarget u q = .error r → ∀ i ∈ [Instr.tqpush rd rs1 rs2, .tqpushP rd rs1 rs2],
        ∃ t, exec i s = .next t ∧ WritesOnly u t rd r (u.hart.pc + 4))
    ∧ (∀ d, taskOk task = true → pushTarget u q = .ok d →
        (d.recs.length < d.hwm.toNat → ∃ t, exec (.tqpush rd rs1 rs2) s = .next t ∧ pushed u t d)
        ∧ (d.hwm.toNat ≤ d.recs.length → ∃ t, exec (.tqpush rd rs1 rs2) s = .next t ∧ WritesOnly u t rd 1 (u.hart.pc + 4))
        ∧ (∀ pa v, counterAt u (BitVec.ofNat 64 ((u.getX rs1).toNat / 2 ^ 16)) = .ok pa v → homeFree v pa →
            (memNat v.mem pa 8 = 0 → d.hwm.toNat ≤ d.recs.length → ∃ t, exec (.tqpushP rd rs1 rs2) s = .next t ∧ WritesOnly v t rd 1 (v.hart.pc + 4))
            ∧ (memNat v.mem pa 8 ≠ 0 → 262144 ≤ v.park.length → ∃ t, exec (.tqpushP rd rs1 rs2) s = .next t ∧ WritesOnly v t rd 1 (v.hart.pc + 4))
            ∧ (memNat v.mem pa 8 = 0 → d.recs.length < d.hwm.toNat → ∃ t, exec (.tqpushP rd rs1 rs2) s = .next t ∧ pushed v t d)
            ∧ (memNat v.mem pa 8 ≠ 0 → v.park.length < 262144 → ∃ t p, exec (.tqpushP rd rs1 rs2) s = .next t
                ∧ WritesOnly { v.writeHome.qstore with park := v.park ++ [p] } t rd 0 (v.hart.pc + 4) ∧ p.pa = pa ∧ p.qid = q ∧ p.task = task
                ∧ p.pusher = v.hart.ctx ∧ p.released = false ∧ p.rel = some v.hart.release)))

/-- XCALL of a descriptor it can read completes: a bad one traps with cause 0x0F; with a free entry of its core's send queue the call enters the
lowest with the next generation, and rd is 0; with none rd is 1 (04 R98, R99, R101). -/
def Obligations.XcallCompletes : Prop :=
  ∀ (rd rs1 rs2 : Reg) (s u : State) (b : List Byte), (s.getX rs1).toNat % 64 = 0 → hartLoad s (s.getX rs1) 64 = .ok b u →
    let c := u.core u.hart.core
    (descBad (taskOfBytes b) = true → exec (.xcall rd rs1 rs2) s = .next (s.takeTrap 0x0F (s.getX rs1) none))
    ∧ (descBad (taskOfBytes b) = false → (∀ i < 64, (tget c.send i).isSome = true) →
        ∃ t, exec (.xcall rd rs1 rs2) s = .next t ∧ WritesOnly u t rd 1 (u.hart.pc + 4))
    ∧ (∀ i < 64, descBad (taskOfBytes b) = false → tget c.send i = none → (∀ j < i, (tget c.send j).isSome = true) →
        ∃ t e, exec (.xcall rd rs1 rs2) s = .next t ∧ Writes u t rd 0 ∧ OnlyRetires u.hart t.hart (u.hart.pc + 4)
          ∧ t = { u with hart := t.hart, cores := t.cores, dir := t.dir }
          ∧ (∀ d, d ≠ u.hart.core → t.core d = u.core d)
          ∧ t.core u.hart.core = { c with send := tset c.send i e, sendGen := tset c.sendGen i (tgetD c.sendGen i 0 + 1), pm := (t.core u.hart.core).pm }
          ∧ e.desc = taskOfBytes b ∧ e.callTag = (s.getX rs2).setWidth 16 ∧ e.gen = tgetD c.sendGen i 0 + 1 ∧ e.sent = false
          ∧ e.ctx = u.hart.ctx ∧ e.gang = u.hart.gang ∧ e.rank = u.hart.rank ∧ e.slot = u.hart.slot)

namespace Sys2Proof.Claims

/-- A hart that passes the barrier it is at (05 R129): it retires its GBAR. -/
def passedBarrier (h : Hart) : Hart :=
  { h with pc := h.pc + 4, instret := h.instret + 1, wpSkip := false, replies := [], wait := .none, relStart := none, lookups := [] }

end Sys2Proof.Claims

/-- GBAR, when nothing is left that a release waits for (05 R129): the rank that completes the generation of its gang, none of whose ranks is
saved, goes on, so does every hart of the gang that waits there, and the next generation begins; a rank that does not complete it waits, counted
as arrived; in a gang with a rank that has ended it traps with cause 0x17. -/
def Sys2Proof.Claims.BarrierCompletes : Prop :=
  ∀ (s : State) (g : Gang), tget s.gangs s.hart.gang.toNat = some g → fenceReady s = true →
    let arrived := g.barArr ||| BitVec.twoPow 64 s.hart.rank.toNat
    (g.ended = 0 → arrived = ranksOf g → g.savedRanks = 0 → s.hart.wait ≠ .gbar →
      ∃ t, exec .gbar s = .next t ∧ t.hart = passedBarrier s.hart
        ∧ t.harts = s.harts.map (fun h => if h.gang = s.hart.gang ∧ h.wait = .gbar then passedBarrier h else h)
        ∧ t.gangs = tset s.gangs s.hart.gang.toNat { g with barGen := g.barGen + 1, barArr := 0 }
        ∧ t = { s.writeHome with hart := t.hart, harts := t.harts, gangs := t.gangs, cores := t.cores } ∧ OnlyCounts s t)
    ∧ (g.ended = 0 → arrived ≠ ranksOf g → exec .gbar s = .next { s.writeHome with
        hart := { s.hart with wait := .gbar }, gangs := tset s.gangs s.hart.gang.toNat { g with barArr := arrived } })
    ∧ (g.ended ≠ 0 → exec .gbar s = .next (s.writeHome.takeTrap 0x17 0 none))

/-- TYIELD completes (05 R129, 10 R270): it only goes on, unless the hart's gang is to be saved under the strip-boundary policy and its core is
not halted; then the hart, once it may be saved, is saved after the TYIELD. -/
def Sys2Proof.Claims.YieldCompletes : Prop :=
  ∀ s : State,
    (preempted s 2 = false ∨ (s.core s.hart.core).dHalted = true → ∃ t, exec .tyield s = .next t ∧ GoesOn s t (s.hart.pc + 4))
    ∧ (preempted s 2 = true → (s.core s.hart.core).dHalted = false → saveReady s = true →
        ∃ u, GoesOn s u (s.hart.pc + 4) ∧ exec .tyield s = .next (u.saveNow false))

/-- TEXIT of a resident hart that has nothing left to wait for completes (05 R129, 04 R108). When its rank is not the
last of the gang to end, the gang records that it has ended, and whether every rank that has ended did so in user mode; where no other hart of
the gang waits in its barrier, this hart is gone, and memory and every other hart stay as they were. When it is the last, the hart and the gang are
gone, memory and every other hart stay as they were, and the device owes the decrement of the join counter that the record names, and the end report of its return slot:
outcome 1 if every rank ended in user mode, else 2. -/
def Sys2Proof.Claims.ExitCompletes : Prop :=
  ∀ (s : State) (g : Gang), s.hart.live = true → exitReady s = true → tget s.gangs s.hart.gang.toNat = some g →
    let ended := g.ended ||| BitVec.twoPow 64 s.hart.rank.toNat
    let user := g.userEnd && !s.hart.sup
    (ended ≠ ranksOf g → ∃ t, exec .texit s = .next t
      ∧ (tget t.gangs s.hart.gang.toNat).map (fun x => (x.ended, x.userEnd)) = some (ended, user)
      ∧ ((∀ h ∈ s.harts, h.gang = s.hart.gang → h.wait ≠ .gbar) → t.hart.live = false ∧ t.harts = s.harts ∧ t.mem = s.mem))
    ∧ (ended = ranksOf g → ∃ t, exec .texit s = .next t ∧ t.hart.live = false ∧ t.harts = s.harts ∧ t.mem = s.mem
      ∧ t.gangs = tdel (tset s.gangs s.hart.gang.toNat { g with ended := ended, userEnd := user }) s.hart.gang.toNat
      ∧ (g.task.w2 = 0 → t.ends = s.ends) ∧ (g.task.w2 ≠ 0 → ∃ e, t.ends = s.ends ++ [e] ∧ e.ctx = g.ctx ∧ e.join = g.task.w2)
      ∧ (g.task.w0.getLsbD 47 = false → t.reports = s.reports)
      ∧ (g.task.w0.getLsbD 47 = true → ∃ e, t.reports = s.reports ++ [e] ∧ e.rslot = g.task.w0.toNat / 2 ^ 48 ∧ e.outcome = if user then 1 else 2))

/-- SXFER of at least one element and SORT of at least one pair, of a parameter block they can read, complete: a block that fails its checks, or an id in use, traps with cause 0x0F; with room
in the hart's table, its core's and the engine's queue, the transfer is accepted, waits for its start, is in the table as running, and rd is 0;
without room rd is 1 and nothing else happens (09 R230, R236, R239; 15 R421). -/
def Sys2Proof.Claims.TransfersAreAccepted : Prop :=
  ∀ (rd rs1 rs2 : Reg) (s u : State) (b : List Byte) (sort : Bool), (s.getX rs1).toNat % 64 = 0 → hartLoad s (s.getX rs1) 64 = .ok b u →
    let blk := taskOfBytes b
    let id : BitVec 16 := (s.getX rs2).setWidth 16
    let i := if sort then Instr.sort rd rs1 rs2 else .sxfer rd rs1 rs2
    let e : EngineRef := if sort then .sort (dieOf u.hart.core) else .stream (clusterOf u.hart.core)
    let ok := if sort then sortOk blk else streamOk blk
    let free := ∀ x ∈ u.hart.xfers, x.id ≠ id
    let room := u.hart.xfers.length < 32 ∧ (u.core u.hart.core).arit.length < 32 ∧ (engQueue u e).length < 32
    (ok = false ∨ ¬ free → exec i s = .next (s.takeTrap 0x0F (s.getX rs1) none))
    ∧ (ok = true → free → ¬ room → ∃ t, exec i s = .next t ∧ WritesOnly u t rd 1 (u.hart.pc + 4))
    ∧ (ok = true → free → room → (if sort then pairsOf blk ≠ 0 else u.hart.vl ≠ 0) →
        ∃ t x k, exec i s = .next t ∧ Writes u t rd 0 ∧ t.mem = u.mem
          ∧ OnlyRetires { u.hart with xfers := u.hart.xfers ++ [k] } t.hart (u.hart.pc + 4)
          ∧ engQueue t e = engQueue u e ++ [x] ∧ x.id = id ∧ x.blk = blk ∧ x.started = false ∧ x.gang = u.hart.gang ∧ x.rank = u.hart.rank
          ∧ x.left = List.range (if sort then 1 else u.hart.vl.toNat) ∧ k.id = id ∧ k.state = .running ∧ k.sort = sort)

/-- ESTAT writes the status of a transfer of the hart, 0 for one it has no entry of, and frees the entry of an ended one without an interrupt;
ECANCEL of no entry answers 2, of an ended transfer 1; it ends a running one that has elements left and nothing in flight as failed with code 8,
and answers 0 (09 R231, R233; 15 R422, R423). The failing address is a free value (log 1). -/
def Sys2Proof.Claims.TransferStatusAndCancelComplete : Prop :=
  ∀ (rd rs1 : Reg) (s : State),
    let id : BitVec 16 := (s.getX rs1).setWidth 16
    let entry := s.hart.xfers.find? (fun x => x.id = id)
    (entry = none → (∃ t, exec (.estat rd rs1) s = .next t ∧ WritesOnly s t rd 0 (s.hart.pc + 4))
        ∧ ∃ t, exec (.ecancel rd rs1) s = .next t ∧ WritesOnly s t rd 2 (s.hart.pc + 4))
    ∧ (∀ x, entry = some x →
        (x.state = .running ∨ x.irq = true → ∃ t, exec (.estat rd rs1) s = .next t ∧ WritesOnly s t rd (BitVec.ofNat 64 x.status) (s.hart.pc + 4))
        ∧ (x.state ≠ .running → x.irq = false → ∃ t, exec (.estat rd rs1) s = .next t
            ∧ WritesOnly { s with hart := { s.hart with xfers := s.hart.xfers.erase x } } t rd (BitVec.ofNat 64 x.status) (s.hart.pc + 4))
        ∧ (x.state ≠ .running → ∃ t, exec (.ecancel rd rs1) s = .next t ∧ WritesOnly s t rd 1 (s.hart.pc + 4))
        ∧ (∀ e y, x.state = .running → runningXfer s id = some (e, y) → y.left ≠ [] → y.waiting = false → y.maxV ≤ s.pkg.dtime.toNat →
            s.hart.live = true →
            ∃ t, exec (.ecancel rd rs1) s = .next t ∧ Writes s t rd 0 ∧ t.mem = s.mem ∧ t.hart.pc = s.hart.pc + 4
              ∧ (∀ z ∈ engQueue t e, z.same y = false)
              ∧ t.hart.xfers.map (fun z => (z.id, z.state, z.code)) = s.hart.xfers.map (fun z =>
                  if z.id = id ∧ z.state = .running then (z.id, XferState.failed, (8 : BitVec 8)) else (z.id, z.state, z.code))))

/-- GBAR, TYIELD and TEXIT complete (05 R129, R134). -/
def Obligations.BarriersYieldsAndExitsComplete : Prop := BarrierCompletes ∧ YieldCompletes ∧ ExitCompletes

/-- SXFER, SORT, ESTAT and ECANCEL complete (09 R230 to R239; 15 R421 to R423). -/
def Obligations.TransferCommandsComplete : Prop := TransfersAreAccepted ∧ TransferStatusAndCancelComplete

/-! ### Vector instructions executed by themselves (12 R321) -/

namespace Sys2Proof.Claims

/-- The member is marked completed, or to be restarted, by `cvidx` (06 R167, R472). -/
def doneMark (h : Hart) : Bool := wbit h.cvUse.1 0
/-- See `doneMark`. -/
def restartMark (h : Hart) : Bool := wbit h.cvUse.2 0 && !doneMark h

/-- The first element that is performed (06 R152, R472). -/
def firstElem (h : Hart) : Nat := if restartMark h then 0 else wfield h.vstart 32 32 * h.vcols.toNat + wfield h.vstart 0 32

/-- The active elements from the first that is performed, and all the active elements of a whole member. -/
def later (b : Body) (h : Hart) : List Nat := h.actives b (firstElem h) h.vl.toNat
/-- See `later`. -/
def every (b : Body) (h : Hart) : List Nat := h.actives b 0 h.vl.toNat

/-- The purses of a core after a queue has paid so many coins (05 R136). -/
def paid (ps : Table Int) (key coins : Nat) : Table Int := tset ps key (max (-(2 ^ 31 : Nat)) (tgetD ps key 0 - (coins : Int)))

/-- A vector instruction has completed that leaves the hart as `k`: it has drained and retired, its queue has paid, and beside the hart nothing but
the core's purses, what counts, and what its trace record reaches differs (06 R152, R168; 05 R136; 10 R274). -/
def Drained (s t : State) (k : Hart) (coins : Nat) : Prop :=
  (∃ u, OnlyTraced s u ∧ t = { u with hart := t.hart, cores := t.cores })
    ∧ (∀ c, t.core c = { s.core c with
        pm := (t.core c).pm
        purses := if c = s.hart.core ∧ doneMark s.hart = false then paid (s.core c).purses ((s.hart.purse s).getD 0) coins else (s.core c).purses })
    ∧ t.hart = { k with
        vstart := 0, cvRestart := 0, cvDone := 0, cvMember := 0, instret := s.hart.instret + 1, wpSkip := false, replies := [], wait := .none
        relStart := none, lookups := [], pc := s.hart.pc + 12, stripCoins := s.hart.stripCoins + (if doneMark s.hart then 0 else coins)
        stripMem := t.hart.stripMem, stripArith := t.hart.stripArith }

/-- One line of the tables of vector instructions: the constructor, its operands, when its fields are legal, the width and group of its checks
and its charge, whether it starts at `vstart`, what else its lengths must meet, its own charge if it is a matrix member, and the hart that
it leaves. -/
structure VForm where
  make : Body → Instr
  ops : Body → List Opnd
  legal : Body → Hart → Prop
  w : Body → Nat
  n : Body → Nat
  starts : Bool
  fits : Body → Hart → Prop
  mx : Option (Body → Hart → Nat)
  effect : Body → State → Hart

/-- The checks of cause 0x02 pass (12 R324, 14 R371). -/
def VForm.Legal (p : VForm) (b : Body) (h : Hart) : Prop :=
  (b.men = false → b.msk = 0 ∧ b.pol = false) ∧ (∀ o ∈ p.ops b, o.bad = false) ∧ mixed (p.ops b) = false ∧ p.legal b h

/-- The checks of lengths and of `vstart` pass (12 R327, 06 R150, R152). -/
def VForm.Fits (p : VForm) (b : Body) (h : Hart) : Prop :=
  h.vl.toNat * p.w b ≤ 8 * h.vlb.toNat * p.n b
    ∧ (p.starts = true → doneMark h = false → restartMark h = false → 0 < h.vcols.toNat → wfield h.vstart 0 32 < h.vcols.toNat) ∧ p.fits b h

/-- The coins of an instruction: those of its own, or ceil(elements x EEW x group / 64) (00 R9, 06 R164, 16 R429). -/
def VForm.coins (p : VForm) (b : Body) (h : Hart) : Nat :=
  match p.mx with
  | some f => f b h
  | none => ((h.vl.toNat - firstElem h) * p.w b * p.n b + 63) / 64

/-- The member performs: it is not marked completed, and there are elements, or it takes its lengths from the matrix shape. -/
def VForm.performs (p : VForm) (h : Hart) : Prop := doneMark h = false ∧ (h.vl ≠ 0 ∨ p.mx.isSome = true)

/-- With the hart's earlier convoys drained and no error in its vector registers and tiles (02 R53), a legal instruction whose operands fit
completes, with its effect. -/
def VForm.Completes (p : VForm) : Prop :=
  ∀ (b : Body) (s : State), Memory.wf s.mem = true → s.hart.disp = [] → Clean s.hart → p.Legal b s.hart → p.Fits b s.hart →
    ∃ t, exec (p.make b) s = .next t
      ∧ (p.performs s.hart → Drained s t (p.effect b s) (p.coins b s.hart)) ∧ (¬ p.performs s.hart → Drained s t s.hart (p.coins b s.hart))

/-- Only these modifier bits may be set (12 R323). -/
def only (b : Body) (m : BitVec 12) : Prop := b.mod &&& ~~~ m = 0
/-- Of vs2 and vs3 the unused one is 0 (12 R323). -/
def oneSecond (b : Body) : Prop := if sxOf b then b.vs2 = 0 else b.vs3 = 0
/-- The second source of an element: vs2[e], or the low bits of x[xs] (12 R323). -/
def second (b : Body) (s : State) (w e : Nat) : Nat := if sxOf b then (s.getX b.vs3).toNat % 2 ^ w else s.hart.vget b.vs2.toNat w e
/-- The first source of an element. -/
def first (b : Body) (s : State) (w e : Nat) : Nat := s.hart.vget b.vs1.toNat w e

/-- The hart with results written to a group, their flags and saturation added to `vfflags` and `vxsat` (11 R287, R288). -/
def takes (h : Hart) (vd w : Nat) (rs : List (Nat × Elem)) : Hart :=
  { h.vputs vd w (rs.map (fun r => (r.1, r.2.val))) with
    vfflags := h.vfflags ||| rs.foldl (fun a r => a ||| r.2.fl) 0, vxsat := h.vxsat || rs.any (fun r => r.2.sat) }

/-- The hart with bits written to a mask, and flags added. -/
def takesBits (h : Hart) (md : Nat) (rs : List (Nat × Bool × BitVec 5)) : Hart :=
  { h.mputs md (rs.map (fun r => (r.1, r.2.1))) with vfflags := h.vfflags ||| rs.foldl (fun a r => a ||| r.2.2) 0 }

/-- Set I, Iw, F and A of 14 Table 14.3. -/
def setI : List Nat := [0, 1, 4, 22, 24, 25, 26, 27]
/-- See `setI`. -/
def setIw : List Nat := [0, 1, 4, 22, 24, 25]
/-- See `setI`. -/
def setF : List Nat := [18, 19, 20, 21]
/-- See `setI`. -/
def setA : List Nat := setI ++ setF

/-- A result kept modulo 2^w, and whether it was clamped. -/
def kept (w : Nat) (r : Int × Bool) : Elem := { val := (r.1 % (2 ^ w : Nat)).toNat, fl := 0, sat := r.2 }

/-- A value clamped between two others (11 R282). -/
def clamped (lo hi v : Int) : Int × Bool := if v < lo then (lo, true) else if hi < v then (hi, true) else (v, false)
/-- Clamped to the signed, and the unsigned, numbers of w bits. -/
def clampS (w : Nat) (v : Int) : Int × Bool := clamped (-(2 ^ (w - 1) : Nat)) ((2 ^ (w - 1) : Nat) - 1) v
/-- See `clampS`. -/
def clampU (w : Nat) (v : Int) : Int × Bool := clamped 0 ((2 ^ w : Nat) - 1) v

/-- v / 2^d rounded under `vxrm` (11 R288): half up, half to even, down, to odd. -/
def rounded (rm : BitVec 2) (v : Int) (d : Nat) : Int :=
  if d = 0 then v
  else
    let p : Int := (2 ^ d : Nat)
    let q := v / p
    let r := v % p
    if (rm = 0 ∧ p ≤ 2 * r) ∨ (rm = 1 ∧ (p < 2 * r ∨ (p = 2 * r ∧ q % 2 = 1))) ∨ (rm = 3 ∧ r ≠ 0 ∧ q % 2 = 0) then q + 1 else q

/-- A line of 14 Table 14.4: the result from `vxrm`, the width, and the operands as numbers. -/
def intForm (make : Body → Instr) (f : BitVec 2 → Nat → Nat → Nat → Int × Bool) : VForm :=
  { make := make, ops := fun b => [dst b.vd (grpOf b) (wOf b), src b.vs1 (grpOf b) (wOf b)] ++ src2Op b (grpOf b) (wOf b)
    legal := fun b _ => tyOf b ∈ setI ∧ only b 1 ∧ oneSecond b, w := wOf, n := grpOf, starts := true, fits := fun _ _ => True, mx := none
    effect := fun b s => takes s.hart b.vd.toNat (wOf b) ((later b s.hart).map (fun e =>
      (e, kept (wOf b) (f s.hart.vxrm (wOf b) (first b s (wOf b) e) (second b s (wOf b) e))))) }

/-- The same, for results that are not clamped and do not depend on `vxrm`. -/
def wrapForm (make : Body → Instr) (f : Nat → Nat → Nat → Int) : VForm := intForm make (fun _ w x y => (f w x y, false))

/-- The operations of 14 Table 14.4. -/
noncomputable def intForms : List VForm :=
  [ wrapForm .vadd (fun _ x y => (x : Int) + y), wrapForm .vsub (fun _ x y => (x : Int) - y), wrapForm .vrsub (fun _ x y => (y : Int) - x)
  , wrapForm .vmin (fun w x y => if signed w y < signed w x then y else x), wrapForm .vmax (fun w x y => if signed w x < signed w y then y else x)
  , wrapForm .vminu (fun _ x y => if y < x then y else x), wrapForm .vmaxu (fun _ x y => if x < y then y else x)
  , wrapForm .vand (fun _ x y => (x &&& y : Nat)), wrapForm .vor (fun _ x y => (x ||| y : Nat)), wrapForm .vxor (fun _ x y => (x ^^^ y : Nat))
  , wrapForm .vsll (fun w x y => (x * 2 ^ (y % w) : Nat)), wrapForm .vsrl (fun w x y => (x / 2 ^ (y % w) : Nat))
  , wrapForm .vsra (fun w x y => signed w x / (2 ^ (y % w) : Nat)), wrapForm .vmul (fun _ x y => (x * y : Nat))
  , wrapForm .vmulh (fun w x y => signed w x * signed w y / (2 ^ w : Nat)), wrapForm .vmulhu (fun w x y => (x * y / 2 ^ w : Nat))
  , wrapForm .vmulhsu (fun w x y => signed w x * y / (2 ^ w : Nat)), intForm .vsadd (fun _ w x y => clampS w (signed w x + signed w y))
  , intForm .vsaddu (fun _ w x y => clampU w ((x : Int) + y)), intForm .vssub (fun _ w x y => clampS w (signed w x - signed w y))
  , intForm .vssubu (fun _ w x y => clampU w ((x : Int) - y)), intForm .vaadd (fun rm w x y => (rounded rm (signed w x + signed w y) 1, false))
  , intForm .vaaddu (fun rm _ x y => (rounded rm ((x : Int) + y) 1, false)) ]

/-- A widening operation (14 Table 14.5): the result from the width, the operands and, where it is read, the old destination. -/
def wideForm (make : Body → Instr) (reads : Bool) (f : Nat → Nat → Nat → Nat → Int) : VForm :=
  { make := make
    ops := fun b => [if reads then acc b.vd (2 * grpOf b) (2 * wOf b) else dst b.vd (2 * grpOf b) (2 * wOf b), src b.vs1 (grpOf b) (wOf b)]
      ++ src2Op b (grpOf b) (wOf b)
    legal := fun b _ => tyOf b ∈ setIw ∧ only b 1 ∧ oneSecond b, w := fun b => 2 * wOf b, n := fun b => 2 * grpOf b, starts := true
    fits := fun _ _ => True, mx := none
    effect := fun b s => takes s.hart b.vd.toNat (2 * wOf b) ((later b s.hart).map (fun e => (e, kept (2 * wOf b)
      (f (wOf b) (first b s (wOf b) e) (second b s (wOf b) e) (s.hart.vget b.vd.toNat (2 * wOf b) e), false)))) }

/-- The operations of 14 Table 14.5. -/
noncomputable def wideForms : List VForm :=
  [ wideForm .vwadd false (fun w x y _ => signed w x + signed w y), wideForm .vwaddu false (fun _ x y _ => (x : Int) + y)
  , wideForm .vwmul false (fun w x y _ => signed w x * signed w y), wideForm .vwmulu false (fun _ x y _ => (x * y : Nat))
  , wideForm .vwmulsu false (fun w x y _ => signed w x * y), wideForm .vwmacc true (fun w x y d => d + signed w x * signed w y)
  , wideForm .vwmaccu true (fun _ x y d => (d + x * y : Nat)), wideForm .vwmaccsu true (fun w x y d => d + signed w x * y) ]

/-- A narrowing operation (14 R375): vs1 has twice the width and the group; the shift is b mod 2w, rounded under `vxrm`. -/
def narrowForm (make : Body → Instr) (isSigned : Bool) (f : Nat → Int → Int × Bool) : VForm :=
  { make := make, ops := fun b => [dst b.vd (grpOf b) (wOf b), src b.vs1 (2 * grpOf b) (2 * wOf b)] ++ src2Op b (grpOf b) (wOf b)
    legal := fun b _ => tyOf b ∈ setIw ∧ only b 1 ∧ oneSecond b, w := fun b => 2 * wOf b, n := fun b => 2 * grpOf b, starts := true
    fits := fun _ _ => True, mx := none
    effect := fun b s => takes s.hart b.vd.toNat (wOf b) ((later b s.hart).map (fun e =>
      let a := first b s (2 * wOf b) e
      (e, kept (wOf b) (f (wOf b) (rounded s.hart.vxrm (if isSigned then signed (2 * wOf b) a else a) (second b s (wOf b) e % (2 * wOf b))))))) }

/-- The operations of 14 R375. -/
noncomputable def narrowForms : List VForm :=
  [ narrowForm .vnsrl false (fun _ v => (v, false)), narrowForm .vnsra true (fun _ v => (v, false))
  , narrowForm .vnclip true clampS, narrowForm .vnclipu false clampU ]

/-- A compare (14 R376): a mask bit for each element. -/
def cmpForm (make : Body → Instr) (f : Nat → Nat → Nat → Bool) : VForm :=
  { make := make, ops := fun b => [mdst b.vd, src b.vs1 (grpOf b) (wOf b)] ++ src2Op b (grpOf b) (wOf b)
    legal := fun b _ => tyOf b ∈ setI ∧ only b 1 ∧ oneSecond b, w := wOf, n := grpOf, starts := true, fits := fun _ _ => True, mx := none
    effect := fun b s => takesBits s.hart b.vd.toNat ((later b s.hart).map (fun e =>
      (e, f (wOf b) (first b s (wOf b) e) (second b s (wOf b) e), 0))) }

/-- The operations of 14 R376. -/
noncomputable def cmpForms : List VForm :=
  [ cmpForm .vmseq (fun _ x y => x == y), cmpForm .vmsne (fun _ x y => x != y), cmpForm .vmslt (fun w x y => signed w x < signed w y)
  , cmpForm .vmsltu (fun _ x y => x < y), cmpForm .vmsle (fun w x y => signed w x ≤ signed w y), cmpForm .vmsleu (fun _ x y => x ≤ y)
  , cmpForm .vmsgt (fun w x y => signed w y < signed w x), cmpForm .vmsgtu (fun _ x y => y < x) ]

/-- An index operation (14 R378). -/
def indexForm (make : Body → Instr) (f : Hart → Nat → Nat) : VForm :=
  { make := make, ops := fun b => [dst b.vd (grpOf b) (wOf b)], legal := fun b _ => tyOf b ∈ setI ∧ b.mod = 0 ∧ b.vs1 = 0 ∧ b.vs2 = 0 ∧ b.vs3 = 0
    w := wOf, n := grpOf, starts := true, fits := fun _ _ => True, mx := none
    effect := fun b s => takes s.hart b.vd.toNat (wOf b) ((later b s.hart).map (fun e => (e, kept (wOf b) (f s.hart e, false)))) }

/-- The merge, the move and the index operations (14 R377, R378): a merge takes b where its mask says so and a elsewhere, for every element. -/
noncomputable def moveForms : List VForm :=
  [ { make := .vmerge, ops := fun b => [dst b.vd (grpOf b) (wOf b), src b.vs1 (grpOf b) (wOf b)] ++ src2Op b (grpOf b) (wOf b)
      legal := fun b _ => tyOf b ∈ setA ∧ only b 1 ∧ oneSecond b ∧ b.men = true, w := wOf, n := grpOf, starts := true, fits := fun _ _ => True, mx := none
      effect := fun b s => takes s.hart b.vd.toNat (wOf b) ((List.range' (firstElem s.hart) (s.hart.vl.toNat - firstElem s.hart)).map (fun e =>
        (e, { val := if s.hart.active b e then second b s (wOf b) e else first b s (wOf b) e, fl := 0, sat := false }))) }
  , { make := .vmv, ops := fun b => dst b.vd (grpOf b) (wOf b) :: if sxOf b then [] else [src b.vs1 (grpOf b) (wOf b)]
      legal := fun b _ => tyOf b ∈ setA ∧ only b 1 ∧ b.vs2 = 0 ∧ (if sxOf b then b.vs1 = 0 else b.vs3 = 0), w := wOf, n := grpOf, starts := true
      fits := fun _ _ => True, mx := none
      effect := fun b s => takes s.hart b.vd.toNat (wOf b) ((later b s.hart).map (fun e =>
        (e, { val := if sxOf b then (s.getX b.vs3).toNat % 2 ^ wOf b else first b s (wOf b) e, fl := 0, sat := false }))) }
  , indexForm .vid (fun _ e => e), indexForm .vrowid (fun h e => e / h.vcols.toNat), indexForm .vcolid (fun h e => e % h.vcols.toNat) ]

end Sys2Proof.Claims

/-- The integer and fixed-point instructions complete with the results of 14 Tables 14.4 and 14.5 and of 14 R375, and change nothing else. -/
def Sys2Proof.Claims.IntegerFormsComplete : Prop := ∀ p ∈ intForms ++ wideForms ++ narrowForms, p.Completes

/-- The compares, the merge, the moves and the index instructions complete with the results of 14 R376 to R378, and change nothing else. -/
def Sys2Proof.Claims.VectorComparesAndMovesComplete : Prop := ∀ p ∈ cmpForms ++ moveForms, p.Completes

/-- The integer, compare, move and index instructions complete (14 R373 to R378). -/
def Obligations.VectorIntegersComplete : Prop := IntegerFormsComplete ∧ VectorComparesAndMovesComplete

/-! ### Floating-point vector instructions -/

namespace Sys2Proof.Claims

/-- Set Q, S and B of 14 Table 14.3. -/
def setQ : List Nat := setI ++ [2, 3]
/-- See `setQ`. -/
def setS : List Nat := [5, 6, 7, 8, 9]
/-- See `setQ`. -/
def setB : List Nat := [10, 11, 12, 13, 14, 15, 16, 17, 23]

/-- `vfrm` names a rounding mode (11 R286). -/
def modeOk (h : Hart) : Prop := h.vfrm.toNat ≤ 4

/-- The format of a type. -/
def format (t : Nat) : Fmt := (fmtOf t).getD fp32

/-- A line of 14 Table 14.6: whether the old destination is read, whether `vfrm` rounds, and the result from the format, the mode, the operands'
encodings and the old destination. -/
def floatForm (make : Body → Instr) (reads frm : Bool) (f : Fmt → Nat → Nat → Nat → Nat → Elem) : VForm :=
  { make := make
    ops := fun b => [if reads then acc b.vd (grpOf b) (wOf b) else dst b.vd (grpOf b) (wOf b), src b.vs1 (grpOf b) (wOf b)] ++ src2Op b (grpOf b) (wOf b)
    legal := fun b h => tyOf b ∈ setF ∧ only b 1 ∧ oneSecond b ∧ (frm = true → modeOk h), w := wOf, n := grpOf, starts := true
    fits := fun _ _ => True, mx := none
    effect := fun b s => takes s.hart b.vd.toNat (wOf b) ((later b s.hart).map (fun e =>
      (e, f (format (tyOf b)) s.hart.vfrm.toNat (first b s (wOf b) e) (second b s (wOf b) e) (s.hart.vget b.vd.toNat (wOf b) e)))) }

/-- The sum and the difference, the product, and the fused forms: one rounding of the exact value (11 R286, R287). -/
def fusedForm (make : Body → Instr) (negProduct negOld : Bool) : VForm :=
  floatForm make true true (fun f mode x y d =>
    let a := if negProduct then (f.value x).neg else f.value x
    let c := if negOld then (f.value d).neg else f.value d
    f.arith mode (a.fma mode (f.value y) c))

/-- The magnitude of a with a sign from those of a and b; a NaN gives the canonical one (14 R379). -/
def signForm (make : Body → Instr) (sg : Bool → Bool → Bool) : VForm :=
  floatForm make false false (fun f _ x y _ =>
    let n := 2 ^ (f.width - 1)
    let v := if (f.value x).isNan then f.nanBits else x % n + if sg (x / n % 2 = 1) (y / n % 2 = 1) then n else 0
    { val := v, fl := 0, sat := false })

/-- A compare (14 R380): what a NaN answers, whether a quiet one raises NV, and what the order of the values answers. -/
def fcmpForm (make : Body → Instr) (loud nan : Bool) (ok : Int → Bool) : VForm :=
  { make := make, ops := fun b => [mdst b.vd, src b.vs1 (grpOf b) (wOf b)] ++ src2Op b (grpOf b) (wOf b)
    legal := fun b _ => tyOf b ∈ setF ∧ only b 1 ∧ oneSecond b, w := wOf, n := grpOf, starts := true, fits := fun _ _ => True, mx := none
    effect := fun b s => takesBits s.hart b.vd.toNat ((later b s.hart).map (fun e =>
      let x := (format (tyOf b)).value (first b s (wOf b) e)
      let y := (format (tyOf b)).value (second b s (wOf b) e)
      (e, if x.isNan || y.isNan then (nan, if loud || x = .nan true || y = .nan true then fNV else 0) else (ok (x.cmp y), 0)))) }

/-- The class of a value (14 R381). -/
def classOf (f : Fmt) (x : Nat) : Nat :=
  match f.value x with
  | .nan true => 256
  | .nan false => 512
  | .inf true => 1
  | .inf false => 128
  | .num neg m _ =>
    if m = 0 then (if neg then 8 else 16) else if x / 2 ^ f.mb % 2 ^ f.eb = 0 then (if neg then 4 else 32) else (if neg then 2 else 64)

/-- The operations of 14 Table 14.6 and of 14 R379 to R381. -/
noncomputable def floatForms : List VForm :=
  [ floatForm .vfadd false true (fun f m x y _ => f.arith m ((f.value x).add m (f.value y)))
  , floatForm .vfsub false true (fun f m x y _ => f.arith m ((f.value x).add m (f.value y).neg))
  , floatForm .vfmul false true (fun f m x y _ => f.arith m ((f.value x).mul (f.value y)))
  , fusedForm .vfmacc false false, fusedForm .vfnmacc true true, fusedForm .vfmsac false true, fusedForm .vfnmsac true false
  , floatForm .vfmin false false (fun f _ x y _ => { val := (f.minmax false x y).1, fl := (f.minmax false x y).2, sat := false })
  , floatForm .vfmax false false (fun f _ x y _ => { val := (f.minmax true x y).1, fl := (f.minmax true x y).2, sat := false })
  , signForm .vfsgnj (fun _ y => y), signForm .vfsgnjn (fun _ y => !y), signForm .vfsgnjx (fun x y => x != y)
  , fcmpForm .vmfeq false false (fun k => k = 0), fcmpForm .vmfne false true (fun k => k ≠ 0), fcmpForm .vmflt true false (fun k => k < 0)
  , fcmpForm .vmfle true false (fun k => k ≤ 0), fcmpForm .vmfgt true false (fun k => 0 < k)
  , { make := .vfclass, ops := fun b => [dst b.vd (grpOf b) (wOf b), src b.vs1 (grpOf b) (wOf b)]
      legal := fun b _ => tyOf b ∈ setF ∧ b.mod = 0 ∧ b.vs2 = 0 ∧ b.vs3 = 0, w := wOf, n := grpOf, starts := true, fits := fun _ _ => True, mx := none
      effect := fun b s => takes s.hart b.vd.toNat (wOf b) ((later b s.hart).map (fun e =>
        (e, { val := classOf (format (tyOf b)) (first b s (wOf b) e), fl := 0, sat := false }))) } ]

/-- The source type of a conversion and its width. -/
def sty (b : Body) : Nat := wfield b.mod 4 6
/-- See `sty`. -/
def sw (b : Body) : Nat := eewOf (sty b)
/-- The groups of a conversion's destination and source: the narrower has the body's (14 R371). -/
def groupD (b : Body) : Nat := if wOf b ≤ sw b ∨ sw b = 0 then grpOf b else grpOf b * (wOf b / sw b)
/-- See `groupD`. -/
def groupS (b : Body) : Nat := if sw b ≤ wOf b ∨ wOf b = 0 then grpOf b else grpOf b * (sw b / wOf b)

/-- A conversion (14 R382, R383): its admitted modifiers, the legal pairs of types, and the hart that it leaves. -/
def convertForm (make : Body → Instr) (mods : BitVec 12) (pair : Body → Prop) (effect : Body → State → Hart) : VForm :=
  { make := make, ops := fun b => [dst b.vd (groupD b) (wOf b), src b.vs1 (groupS b) (sw b)]
    legal := fun b h => pair b ∧ only b mods ∧ b.vs2 = 0 ∧ b.vs3 = 0 ∧ modeOk h, w := fun b => max (wOf b) (sw b)
    n := fun b => max (groupD b) (groupS b), starts := true, fits := fun _ _ => True, mx := none, effect := effect }

/-- A conversion of each element by itself, from the body, the mode and the source element. -/
def convertEach (f : Body → Nat → Nat → Nat × BitVec 5) (b : Body) (s : State) : Hart :=
  takes s.hart b.vd.toNat (wOf b) ((later b s.hart).map (fun e =>
    let r := f b s.hart.vfrm.toNat (first b s (sw b) e)
    (e, { val := r.1, fl := r.2, sat := false })))

/-- Whole blocks of `len` elements are named by `vl` and, unless the member is restarted or completed, by `vstart` (14 R384, 15 R404). -/
def wholeBlocks (len : Nat) (h : Hart) : Prop :=
  h.vl.toNat % len = 0 ∧ (doneMark h = false → restartMark h = false → firstElem h % len = 0)

/-- The hart with the results of whole blocks written, element by element and block by block; a block may also have a scale for vs3 (14 R384). -/
def takesBlocks (b : Body) (len : Nat) (f : Nat → List (Nat × Elem) × Option Nat) (h : Hart) : Hart :=
  let rs := (List.range' (firstElem h / len) (h.vl.toNat / len - firstElem h / len)).map (fun j => (j, f j))
  { rs.foldl (fun h r =>
      let k := h.vputs b.vd.toNat (wOf b) (r.2.1.map (fun i => (i.1, i.2.val)))
      match r.2.2 with
      | some x => k.vset b.vs3.toNat 8 r.1 x
      | none => k) h with
    vfflags := h.vfflags ||| (rs.flatMap (fun r => r.2.1)).foldl (fun a i => a ||| i.2.fl) 0 }

/-- A block conversion (14 R384): scales in vs3, whole blocks of the type `t b`, no mask. -/
def blockForm (make : Body → Instr) (t : Body → Nat) (writes frm : Bool) (pair : Body → Prop) (f : Body → State → Nat → List (Nat × Elem) × Option Nat) :
    VForm :=
  let ops : Body → List Opnd := fun b => [dst b.vd (groupD b) (wOf b), src b.vs1 (groupS b) (sw b)]
  { make := make, ops := fun b => ops b ++ [single b.vs3 writes]
    legal := fun b h => pair b ∧ only b 0x3F0 ∧ b.vs2 = 0 ∧ b.men = false ∧ (frm = true → modeOk h)
      ∧ ∀ o ∈ ops b, o.regs &&& (single b.vs3 writes).regs = 0
    w := fun b => max (wOf b) (sw b), n := fun b => max (groupD b) (groupS b), starts := true, fits := fun b h => wholeBlocks (blockLen (t b)) h, mx := none
    effect := fun b s => takesBlocks b (blockLen (t b)) (f b s) s.hart }

/-- The elements of a block. -/
def blockOf (t j : Nat) : List Nat := List.range' (blockLen t * j) (blockLen t)

/-- The conversions of 14 R382 to R384. -/
noncomputable def convertForms : List VForm :=
  [ convertForm .vfcvtFX 0x3F2 (fun b => (tyOf b ∈ setS ∨ tyOf b ∈ setF) ∧ sty b ∈ setQ)
      (convertEach (fun b mode v => (format (tyOf b)).round mode (wbit b.mod 1) (elemValue (sty b) v)))
  , convertForm .vfcvtXF 0x3F0 (fun b => tyOf b ∈ setQ ∧ (sty b ∈ setS ∨ sty b ∈ setF))
      (convertEach (fun b mode v => toInt (wOf b) (tySigned (tyOf b)) mode (elemValue (sty b) v)))
  , convertForm .vfwcvt 0x3F0 (fun b => tyOf b ∈ setF ∧ (sty b ∈ setS ∨ sty b ∈ setF ∨ sty b = 28) ∧ sw b < wOf b)
      (convertEach (fun b mode v => (format (tyOf b)).round mode false (elemValue (sty b) v)))
  , blockForm .vfwcvt sty false true (fun b => tyOf b ∈ setF ∧ sty b ∈ setB ∧ sw b < wOf b) (fun b s j =>
      ((blockOf (sty b) j).map (fun e =>
        let r := (format (tyOf b)).round s.hart.vfrm.toNat false (blockValue (sty b) (first b s (sw b) e) (s.hart.scale b.vs3 j))
        (e, { val := r.1, fl := r.2, sat := false })), none))
  , convertForm .vfncvt 0x3F2 (fun b => (tyOf b ∈ setS ∨ tyOf b ∈ setF) ∧ sty b ∈ setF ∧ wOf b ≤ sw b ∧ tyOf b ≠ sty b)
      (convertEach (fun b mode v => (format (tyOf b)).round mode (wbit b.mod 1) (elemValue (sty b) v)))
  , convertForm .vfncvt 0x3F0 (fun b => tyOf b = 28 ∧ sty b ∈ setF) (convertEach (fun b _ v => toE8M0 (elemValue (sty b) v)))
  , convertForm .vfncvt 0x3F6 (fun b => wbit b.mod 2 = true ∧ sty b = 20 ∧ (tyOf b = 18 ∨ tyOf b = 19 ∨ tyOf b ∈ setS)) (fun b s =>
      let carry := if s.hart.vcarryFmt = b.ty then s.hart.vcarryRes.toNat else 0
      let r := efChain (format (tyOf b)) s.hart.vfrm.toNat (wbit b.mod 1) s.hart b.vs1.toNat (later b s.hart) carry
      { takes s.hart b.vd.toNat (wOf b) r.1 with vcarryFmt := b.ty, vcarryRes := BitVec.ofNat 32 r.2 })
  , blockForm .vfncvt tyOf true false (fun b => tyOf b ∈ [10, 11, 12, 13, 14, 15, 16] ∧ sty b = 20) (fun b s j =>
      let r := toBlock (tyOf b) ((blockOf (tyOf b) j).map (fun e => fp32.value (first b s 32 e)))
      ((blockOf (tyOf b) j).zip r.1, some r.2)) ]

/-- The special functions (16 R438, R439): the exact value, rounded once to nearest even, or under `vfrm`. -/
def specialForm (make : Body → Instr) (frm : Bool) (f : Fmt → Nat → Nat → Nat × BitVec 5) : VForm :=
  { make := make, ops := fun b => [dst b.vd (grpOf b) (wOf b), src b.vs1 (grpOf b) (wOf b)]
    legal := fun b h => tyOf b ∈ setF ∧ b.mod = 0 ∧ b.vs2 = 0 ∧ b.vs3 = 0 ∧ (frm = true → modeOk h), w := wOf, n := grpOf, starts := true
    fits := fun _ _ => True, mx := none
    effect := fun b s => takes s.hart b.vd.toNat (wOf b) ((later b s.hart).map (fun e =>
      let r := f (format (tyOf b)) s.hart.vfrm.toNat (first b s (wOf b) e)
      (e, { val := r.1, fl := r.2, sat := false }))) }

/-- The special functions, the square root and the quotient (16 Tables 16.4, 16.5). -/
noncomputable def specialForms : List VForm :=
  [ specialForm .vsin false (fun f _ v => sfuTrig f 0 (f.value v)), specialForm .vcos false (fun f _ v => sfuTrig f 1 (f.value v))
  , specialForm .vexp2 false (fun f _ v => sfuExp2 f (f.value v)), specialForm .vlog2 false (fun f _ v => sfuLog2 f (f.value v))
  , specialForm .vrcp false (fun f _ v => sfuRcp f (f.value v)), specialForm .vrsqrt false (fun f _ v => sfuRsqrt f (f.value v))
  , specialForm .vsqrt true (fun f mode v => let r := f.arith mode (f.value v).sqrt; (r.val, r.fl))
  , floatForm .vdiv false true (fun f m x y _ => f.arith m ((f.value x).div (f.value y))) ]

end Sys2Proof.Claims

/-- The floating-point instructions and the special functions complete with the results of 14 Table 14.6, 14 R379 to R381 and 16 R438 and R439,
and change nothing but their destination and `vfflags`. -/
def Obligations.VectorFloatsComplete : Prop := ∀ p ∈ floatForms ++ specialForms, p.Completes

/-- The conversions complete with the results of 14 R382 to R384, and change nothing but their destination, the scales of a block, `vfflags`, and
the carry of an error-feedback chain (11 R303). -/
def Obligations.VectorConversionsComplete : Prop := ∀ p ∈ convertForms, p.Completes

/-! ### Permutations, reductions, masks and tiles -/

namespace Sys2Proof.Claims

/-- A moved element. -/
def moved (v : Nat) : Elem := { val := v, fl := 0, sat := false }

/-- x[r] := v in a hart; x0 stays (00 R14). -/
def putsX (h : Hart) (r : Reg) (v : Word) : Hart := if r = 0 then h else { h with x := h.x.set r.toNat v (by omega) }

/-- A member with one destination and one source group of the same type, of set A, without modifiers. -/
def permForm (make : Body → Instr) (starts : Bool) (legal : Body → Hart → Prop) (effect : Body → State → Hart) : VForm :=
  { make := make, ops := fun b => [dst b.vd (grpOf b) (wOf b), src b.vs1 (grpOf b) (wOf b)]
    legal := fun b h => tyOf b ∈ setA ∧ b.vs2 = 0 ∧ legal b h, w := wOf, n := grpOf, starts := starts, fits := fun _ _ => True, mx := none
    effect := effect }

/-- A slide (14 R386): its amount comes from x[xs] or from the off field; the elements it writes, with the elements they take, if any. -/
def slideForm (make : Body → Instr) (from' : Nat → Nat → Nat → Option (Option Nat)) : VForm :=
  permForm make false (fun b _ => if sxOf b then only b 1 else only b 0x7FE ∧ b.vs3 = 0) (fun b s =>
    let k := if sxOf b then (s.getX b.vs3).toNat % 2 ^ wOf b else wfield b.mod 1 10
    takes s.hart b.vd.toNat (wOf b) ((every b s.hart).filterMap (fun e => (from' s.hart.vl.toNat k e).map (fun x =>
      (e, moved (match x with
        | some i => first b s (wOf b) i
        | none => 0))))))

/-- An integer reduction of its range's active elements, one after another, into the initial value (14 R390). -/
def reduceForm (make : Body → Instr) (f : Nat → Nat → Nat → Nat) : VForm :=
  { make := make, ops := fun b => [dst b.vd (grpOf b) (wOf b), src b.vs1 (grpOf b) (wOf b), src b.vs2 (grpOf b) (wOf b)]
    legal := fun b _ => tyOf b ∈ setI ∧ only b 2 ∧ b.vs3 = 0, w := wOf, n := grpOf, starts := false, fits := fun _ _ => True, mx := none
    effect := fun b s => takes s.hart b.vd.toNat (wOf b) ((ranges b s.hart.captured).map (fun r =>
      (r.1, moved (((List.range' r.2.1 r.2.2).filter (s.hart.active b)).foldl (fun a e => f (wOf b) a (first b s (wOf b) e))
        (s.hart.vget b.vs2.toNat (wOf b) r.1))))) }

/-- A floating reduction (14 R390, R391), from the mode, the initial value, and the range's elements, each with whether it is active. -/
def freduceForm (make : Body → Instr) (frm : Bool) (f : Fmt → Nat → Nat → List (Nat × Bool) → Nat × BitVec 5) : VForm :=
  { make := make, ops := fun b => [dst b.vd (grpOf b) (wOf b), src b.vs1 (grpOf b) (wOf b), src b.vs2 (grpOf b) (wOf b)]
    legal := fun b h => tyOf b ∈ setF ∧ only b 2 ∧ b.vs3 = 0 ∧ (frm = true → modeOk h), w := wOf, n := grpOf, starts := false
    fits := fun _ _ => True, mx := none
    effect := fun b s => takes s.hart b.vd.toNat (wOf b) ((ranges b s.hart.captured).map (fun r =>
      let x := f (format (tyOf b)) s.hart.vfrm.toNat (s.hart.vget b.vs2.toNat (wOf b) r.1)
        ((List.range' r.2.1 r.2.2).map (fun e => (first b s (wOf b) e, s.hart.active b e)))
      (r.1, { val := x.1, fl := x.2, sat := false }))) }

/-- The fixed type and group of the mask instructions (14 R393). -/
def maskFixed (b : Body) : Prop := b.ty = 0 ∧ b.grp = 3

/-- A mask logic operation (14 R393). -/
def logicForm (make : Body → Instr) (two : Bool) (f : Bool → Bool → Bool) : VForm :=
  { make := make, ops := fun b => [mdst b.vd, msrc b.vs1] ++ if two then [msrc b.vs2] else []
    legal := fun b _ => maskFixed b ∧ b.mod = 0 ∧ b.vs3 = 0 ∧ (two = false → b.vs2 = 0), w := fun _ => 8, n := fun _ => 8, starts := true
    fits := fun _ _ => True, mx := none
    effect := fun b s => takesBits s.hart b.vd.toNat ((later b s.hart).map (fun e =>
      (e, f (s.hart.mget b.vs1.toNat e) (s.hart.mget b.vs2.toNat e), 0))) }

/-- A member that writes a number found from the active elements to x[vd] (14 R394). -/
def countForm (make : Body → Instr) (f : List Nat → Word) : VForm :=
  { make := make, ops := fun _ => [], legal := fun b _ => maskFixed b ∧ b.mod = 0 ∧ b.vs1 = 0 ∧ b.vs2 = 0 ∧ b.vs3 = 0, w := fun _ => 8, n := fun _ => 8
    starts := false, fits := fun _ _ => True, mx := none, effect := fun b s => putsX s.hart b.vd (f (every b s.hart)) }

/-- VPSWAP (14 R388): a whole member when `vcols` is odd; else it starts at `vstart` and pairs that `vl` cuts stay as they are. -/
noncomputable def swapForm (whole : Bool) : VForm :=
  permForm .vpswap (!whole) (fun b h => b.mod = 0 ∧ b.vs3 = 0 ∧ decide (h.vcols.toNat % 2 = 1) = whole
      ∧ (dst b.vd (grpOf b) (wOf b)).regs &&& (src b.vs1 (grpOf b) (wOf b)).regs = 0) (fun b s =>
    let n := s.hart.vl.toNat
    let es := if whole then every b s.hart else s.hart.actives b (firstElem s.hart) (n / 2 * 2)
    takes s.hart b.vd.toNat (wOf b) (es.map (fun e => (e, moved (first b s (wOf b) (if e ^^^ 1 < n then e ^^^ 1 else e))))))

/-- The permutations (14 R386 to R389, R395, R396). -/
noncomputable def permForms : List VForm :=
  [ slideForm .vslideup (fun _ k e => if k ≤ e then some (some (e - k)) else none)
  , slideForm .vslidedown (fun vl k e => some (if e + k < vl then some (e + k) else none))
  , { permForm .vrgather false (fun _ _ => True) (fun b s => takes s.hart b.vd.toNat (wOf b) ((every b s.hart).map (fun e =>
        let i := second b s (wOf b) e
        (e, moved (if i < s.hart.vl.toNat then first b s (wOf b) i else 0))))) with
      ops := fun b => [dst b.vd (grpOf b) (wOf b), src b.vs1 (grpOf b) (wOf b)] ++ src2Op b (grpOf b) (wOf b)
      legal := fun b _ => tyOf b ∈ setA ∧ only b 1 ∧ oneSecond b }
  , swapForm true, swapForm false
  , permForm .vtrans false (fun b _ => b.mod = 0 ∧ b.vs3 = 0) (fun b s => takes s.hart b.vd.toNat (wOf b) ((every b s.hart).map (fun e =>
      (e, moved (first b s (wOf b) (e % s.hart.vrows.toNat * s.hart.vcols.toNat + e / s.hart.vrows.toNat))))))
  , { make := .viota, ops := fun b => [dst b.vd (grpOf b) (wOf b)], legal := fun b _ => tyOf b ∈ setI ∧ b.mod = 0 ∧ b.vs1 = 0 ∧ b.vs2 = 0 ∧ b.vs3 = 0
      w := wOf, n := grpOf, starts := false, fits := fun _ _ => True, mx := none
      effect := fun b s => takes s.hart b.vd.toNat (wOf b) ((every b s.hart).map (fun e => (e, moved ((every b s.hart).filter (· < e)).length))) }
  , permForm .vcompress false (fun b _ => b.mod = 0 ∧ b.vs3 = 0) (fun b s => takes s.hart b.vd.toNat (wOf b)
      ((List.range (every b s.hart).length).map (fun i => (i, moved (first b s (wOf b) ((every b s.hart).getD i 0))))))
  , { permForm .vmvXS false (fun b _ => b.mod = 0 ∧ b.vs3 = 0 ∧ b.men = false) (fun b s =>
        putsX s.hart b.vd (BitVec.ofInt 64 (signed (wOf b) (first b s (wOf b) 0)))) with ops := fun b => [src b.vs1 (grpOf b) (wOf b)] }
  , { permForm .vmvSX true (fun b _ => b.mod = 1 ∧ b.vs1 = 0 ∧ b.men = false) (fun b s =>
        if firstElem s.hart = 0 then takes s.hart b.vd.toNat (wOf b) [(0, moved ((s.getX b.vs3).toNat % 2 ^ wOf b))] else s.hart) with
      ops := fun b => [dst b.vd (grpOf b) (wOf b)] } ]

/-- The reductions and the mask instructions (14 R390 to R394). -/
noncomputable def reduceForms : List VForm :=
  [ reduceForm .vredsum (fun w a x => (a + x) % 2 ^ w), reduceForm .vredmin (fun w a x => if signed w x < signed w a then x else a)
  , reduceForm .vredmax (fun w a x => if signed w a < signed w x then x else a), reduceForm .vredminu (fun _ a x => min a x)
  , reduceForm .vredmaxu (fun _ a x => max a x)
  , freduceForm .vfredsum true (fun f m a es => fredSum f m ((es.length + 31) / 32) es (a, 0))
  , freduceForm .vfredmin false (fun f _ a es => (es.filter Prod.snd).foldl (fun x e => ((f.minmax false x.1 e.1).1, x.2 ||| (f.minmax false x.1 e.1).2)) (f.canon a, (f.value a).sig))
  , freduceForm .vfredmax false (fun f _ a es => (es.filter Prod.snd).foldl (fun x e => ((f.minmax true x.1 e.1).1, x.2 ||| (f.minmax true x.1 e.1).2)) (f.canon a, (f.value a).sig))
  , { make := .vfsumBs
      ops := fun b => [{ single b.vd true with w := 32 }, src b.vs1 (grpOf b) (wOf b), { single b.vs2 false with w := 32 }, single b.vs3 false]
      legal := fun b h => tyOf b ∈ [10, 11, 12, 13, 14, 15, 17, 23] ∧ b.mod = 0 ∧ modeOk h ∧ b.vs3 ≠ b.vd ∧ b.vs3 ≠ b.vs2
        ∧ ∀ r ∈ [b.vd, b.vs2, b.vs3], (single r true).regs &&& (src b.vs1 (grpOf b) (wOf b)).regs = 0
      w := wOf, n := grpOf, starts := false, fits := fun _ _ => True, mx := none
      effect := fun b s =>
        let r := bsSum b s.hart.vfrm.toNat s.hart s.hart.vl.toNat ((s.hart.vl.toNat + 31) / 32) 0 (s.hart.vget b.vs2.toNat 32 0, 0)
        takes s.hart b.vd.toNat 32 [(0, { val := r.1, fl := r.2, sat := false })] }
  , logicForm .vmand true (fun x y => x && y), logicForm .vmor true (fun x y => x || y), logicForm .vmxor true (fun x y => x != y)
  , logicForm .vmnot false (fun x _ => !x), countForm .vpopc (fun es => BitVec.ofNat 64 es.length)
  , countForm .vfirst (fun es => (es.head?).elim (-1) (BitVec.ofNat 64)) ]

/-- The tile of a matrix member, and the first row it names (16 R428). -/
def tileOf (b : Body) : Nat := wfield b.mod 0 2
/-- See `tileOf`. -/
def rowOf (b : Body) : Nat := wfield b.mod 5 7

/-- Element (r, c) of a tile: 4-byte elements in rows of 512 bytes, or 8-byte elements in rows of 1,024 (16 R427). -/
def tileElem (h : Hart) (t r c : Nat) : Nat :=
  if h.tfKind = 3 then h.tile t / 2 ^ (8192 * r + 64 * c) % 2 ^ 64 else h.tile t / 2 ^ (4096 * r + 32 * c) % 2 ^ 32

/-- A matrix member that takes its lengths from the shape (16 R429); its vector operands are whole registers. -/
def matrixForm (make : Body → Instr) (ops : Body → List Opnd) (legal fits : Body → Hart → Prop) (coins : Body → Hart → Nat) (effect : Body → State → Hart) :
    VForm :=
  { make := make, ops := ops, legal := fun b h => b.men = false ∧ b.ty = 0 ∧ b.grp = 0 ∧ b.vd = 0 ∧ legal b h, w := fun _ => 0, n := fun _ => 1
    starts := false, fits := fun b h => tileOf b < h.tiles.toNat ∧ fits b h, mx := some coins, effect := effect }

/-- The rows that `vl` elements from row0 on take lie within the shape (16 R435, R436). -/
def rowsFit (b : Body) (h : Hart) : Prop := rowOf b + (h.vl.toNat + h.tsn.toNat - 1) / h.tsn.toNat ≤ h.tsm.toNat

/-- TZERO, TREAD, TWRITE and TDRAIN (16 R430, R435, R436). -/
noncomputable def tileForms : List VForm :=
  [ matrixForm .tzero (fun _ => []) (fun b _ => only b 3 ∧ b.vs1 = 0 ∧ b.vs2 = 0 ∧ b.vs3 = 0) (fun _ _ => True) (fun _ _ => 64)
      (fun b s => s.hart.setTile (tileOf b) 0)
  , { make := .tread, ops := fun b => [dst b.vd (grpOf b) (wOf b)]
      legal := fun b _ => tyOf b ∈ [20, 21, 24, 25, 26, 27] ∧ only b 0xFE3 ∧ b.vs1 = 0 ∧ b.vs2 = 0 ∧ b.vs3 = 0, w := wOf, n := grpOf, starts := true
      fits := fun b h => tileOf b < h.tiles.toNat ∧ h.tsm ≠ 0 ∧ wOf b = (if h.tfKind = 3 then 64 else 32) ∧ rowsFit b h, mx := none
      effect := fun b s => takes s.hart b.vd.toNat (wOf b) ((later b s.hart).map (fun e =>
        (e, moved (tileElem s.hart (tileOf b) (rowOf b + e / s.hart.tsn.toNat) (e % s.hart.tsn.toNat))))) }
  , { make := .twrite, ops := fun b => [src b.vs1 (grpOf b) (wOf b)]
      legal := fun b _ => tyOf b ∈ [20, 21, 24, 25, 26, 27] ∧ only b 0xFE3 ∧ b.vd = 0 ∧ b.vs2 = 0 ∧ b.vs3 = 0, w := wOf, n := grpOf, starts := true
      fits := fun b h => tileOf b < h.tiles.toNat ∧ h.tsm ≠ 0 ∧ wOf b = (if h.tfKind = 3 then 64 else 32) ∧ rowsFit b h, mx := none
      effect := fun b s => s.hart.tputs (tileOf b) ((later b s.hart).map (fun e =>
        (rowOf b + e / s.hart.tsn.toNat, e % s.hart.tsn.toNat, first b s (wOf b) e))) }
  , { make := .tdrain, ops := fun b => [dst b.vd (grpOf b) 8, single b.vs1 false, single b.vs2 false, single b.vs3 false]
      legal := fun b _ => tyOf b ≤ 1 ∧ only b 0xFE3 ∧ ∀ r ∈ [b.vs1, b.vs2, b.vs3], (single r false).regs &&& (dst b.vd (grpOf b) 8).regs = 0
      w := fun _ => 8, n := grpOf, starts := true
      fits := fun b h => tileOf b < h.tiles.toNat ∧ h.tsm ≠ 0 ∧ h.tfKind = 2 ∧ rowsFit b h ∧ 8 * h.tsn.toNat ≤ h.vlb.toNat
        ∧ 4 * ((h.vl.toNat + h.tsn.toNat - 1) / h.tsn.toNat) ≤ h.vlb.toNat
      mx := none
      effect := fun b s => takes s.hart b.vd.toNat 8 ((later b s.hart).map (fun e =>
        let i := e / s.hart.tsn.toNat
        let j := e % s.hart.tsn.toNat
        let w := s.hart.vget b.vs3.toNat 64 j
        let t := signed 32 (tileElem s.hart (tileOf b) (rowOf b + i) j) + signed 32 (first b s 32 i) + signed 32 (s.hart.vget b.vs2.toNat 32 j)
        let y := rounded s.hart.vxrm (t * signed 32 (w % 2 ^ 32)) (w / 2 ^ 32 % 64) + signed 16 (w / 2 ^ 48 % 2 ^ 16)
        (e, kept 8 (if tyOf b = 0 then clampS 8 y else clampU 8 y)))) } ]

/-- TMAC and TOPA of a context that samples nothing for its audit (16 R431 to R433). -/
noncomputable def productForms : List VForm :=
  [ { matrixForm .tmac (fun _ => []) (fun b h => (h.blocky = true → wbit b.vs3 0 = false) ∧ (h.blocky = false → b.vs3 = 0))
        (fun b h => h.asampN = 0 ∧ tmacShape b h = false) tmacCoins
        (fun b s => { s.hart.tmacPart b (min (tmacRows b s.hart) ((s.hart.rep.elim 0 (fun r => r.steps)) * s.hart.rowsPerReg)) (tmacRows b s.hart) with
          rep := none }) with
      ops := fun b => tmacA b ++ [{ src b.vs2 8 8 with aux := true }] }
  , matrixForm .topa (fun b => [single b.vs1 false, single b.vs2 false]) (fun b _ => only b 3 ∧ b.vs3 = 0)
      (fun _ h => h.asampN = 0 ∧ h.tsm ≠ 0 ∧ h.blocky = false ∧ h.tsm.toNat * eewOf h.tfA.toNat ≤ 8 * h.vlb.toNat
        ∧ h.tsn.toNat * eewOf h.tfB.toNat ≤ 8 * h.vlb.toNat)
      (fun _ h => (h.tsm.toNat * h.tsn.toNat + 1) / 2)
      (fun b s =>
        let h := s.hart
        let cells : List (Nat × Nat) := (List.range h.tsm.toNat).flatMap (fun i => (List.range h.tsn.toNat).map (fun j => (i, j)))
        let out (c : Nat × Nat) : Nat × Bool :=
          let old := tileElem h (tileOf b) c.1 c.2
          let x := first b s (eewOf h.tfA.toNat) c.1
          let y := h.vget b.vs2.toNat (eewOf h.tfB.toNat) c.2
          if h.tfKind = 2 then intStep h.tfSat old (mxInt h.tfA.toNat x * mxInt h.tfB.toNat y)
          else (floatStep (kindFmt h.tfKind) old [((elemValue h.tfA.toNat x).mul (elemValue h.tfB.toNat y)).1], false)
        { h.tputs (tileOf b) (cells.map (fun c => (c.1, c.2, (out c).1))) with vxsat := h.vxsat || cells.any (fun c => (out c).2) }) ]

end Sys2Proof.Claims

/-- The permutations, the reductions and the mask instructions complete with the results of 14 R386 to R396, and change nothing but their
destination and `vfflags`. -/
def Obligations.VectorPermutationsAndReductionsComplete : Prop := ∀ p ∈ permForms ++ reduceForms, p.Completes

/-- The tile instructions complete with the results of 16 R430 to R436 when the shape and the tiles admit them, where TMAC and TOPA sample nothing
for an audit; an integer product that is not saturated is the sum of products modulo 2^32 (16 R432); a sampled TMAC or TOPA completes too. -/
def Obligations.MatrixInstructionsComplete : Prop :=
  (∀ p ∈ tileForms ++ productForms, p.Completes)
  ∧ (∀ (h : Hart) (b : Body) (i j old : Nat), h.tfKind = 2 → h.tfSat = false → h.tsk.toNat % 32 = 0 →
      (tmacElem h (h.mxA b i) (fun x => h.mxB b x j) (h.tsk.toNat / 32) 0 (old % 2 ^ 32, false)).1
        = (((old : Int) + ((List.range h.tsk.toNat).map (fun x => mxInt h.tfA.toNat (h.mxA b i x).1 * mxInt h.tfB.toNat (h.mxB b x j).1)).sum)
            % (2 ^ 32 : Nat)).toNat)
  ∧ ∀ p ∈ productForms, ∀ (b : Body) (s : State), s.hart.disp = [] → Clean s.hart → p.Legal b s.hart → p.Fits b { s.hart with asampN := 0 } →
      ∃ t, exec (p.make b) s = .next t ∧ t.hart.pc = s.hart.pc + 12

/-! ### Vector accesses to memory -/

namespace Sys2Proof.Claims

/-- One line of the tables of vector instructions that access memory: the constructor and its class, its operands, when its fields are legal, the
width and group of its checks and its charge, whether it starts at `vstart`, what else its lengths must meet, the elements that a trap before
had performed, and what its elements do from the state in which it has issued, one after another. -/
structure MForm where
  make : Body → Instr
  cls : Nat
  ops : Body → List Opnd
  legal : Body → Hart → Prop
  w : Body → Nat
  n : Body → Nat
  starts : Bool := true
  fits : Body → Hart → Prop := fun _ _ => True
  applied : Body → Captured → Hart → Nat := fun _ _ _ => 0
  run : Body → State → MRes

/-- The same checks as other vector instructions have. -/
def MForm.toV (p : MForm) : VForm :=
  { make := p.make, ops := p.ops, legal := p.legal, w := p.w, n := p.n, starts := p.starts, fits := p.fits, mx := none, effect := fun _ s => s.hart }

/-- The state in which the instruction has issued: its queue has paid, and it is counted and traced (06 R164, 05 R136). -/
def MForm.issued (p : MForm) (b : Body) (s : State) : State :=
  let done := s.hart.cvUse.1 &&& 1
  s.issueAll s.hart.captured done (s.hart.cvUse.2 &&& 1 &&& ~~~ done)
    [{ cls := p.cls, body := b, word := 0, m := { Member.plain [] false (p.w b) (p.n b) (fun _ _ _ u => .ok u) with applied := p.applied b } }]

/-- With the hart's earlier convoys drained, a legal instruction whose operands fit completes when the accesses of its elements answer, with what
they do, if no register that it may read holds an error (02 R53); one that is marked completed, or has no elements, does nothing. -/
def MForm.Completes (p : MForm) : Prop :=
  ∀ (b : Body) (s : State), s.hart.disp = [] → p.toV.Legal b s.hart → p.toV.Fits b s.hart →
    (doneMark s.hart = true ∨ s.hart.vl = 0 →
      exec (p.make b) s = .next ((p.issued b s).withHart (fun h => { h.drained with pc := h.pc + 12 })))
    ∧ ∀ u, doneMark s.hart = false → s.hart.vl ≠ 0 → Clean s.hart → p.run b (p.issued b s) = .ok u →
      exec (p.make b) s = .next (u.withHart (fun h => { h.drained with pc := h.pc + 12 }))

/-- Set P (15 R398). -/
def setP : List Nat := [0, 1, 4, 5, 6, 18, 19, 20, 21, 22, 24, 25, 26, 27, 28]

/-- The modifiers of 15 Table 15.3: only these bits, and a scope below 6 that stands beside an annotation alone (15 R399). -/
def memOnly (b : Body) (m : BitVec 12) : Prop :=
  only b m ∧ wfield b.mod 3 3 < 6 ∧ (wfield b.mod 3 3 ≠ 0 → wbit b.mod 1 = true ∨ wbit b.mod 2 = true)

/-- x[xs], the base (15 R399). -/
def vbase (b : Body) (s : State) : Word := s.getX b.vs3

/-- The bytes of an element. -/
def eb (b : Body) : Nat := wOf b / 8

/-- An aligned access, or cause 0x0A with its address (15 R401). -/
def aligned (n : Nat) (a : Word) (k : Res Unit) : Res Unit := if a.toNat % n = 0 then k else .trap 0x0A a

/-- The current hart with elements of consecutive groups written. -/
def vputs (s : State) (items : List (Nat × Nat × Nat × Nat)) : State :=
  s.withHart (fun h => items.foldl (fun h i => h.vset i.1 i.2.1 i.2.2.1 i.2.2.2) h)

/-- The index of an element, its width and its group, and the group of the data (15 Table 15.3, 14 R371). -/
def iw (b : Body) : Nat := 8 * 2 ^ wfield b.mod 6 2
/-- See `iw`. -/
def groupI (b : Body) : Nat := if iw b ≤ wOf b ∨ wOf b = 0 then grpOf b else grpOf b * (iw b / wOf b)
/-- See `iw`. -/
def groupV (b : Body) : Nat := if wOf b ≤ iw b then grpOf b else grpOf b * (wOf b / iw b)

/-- The addresses of an element: one after another, by the stride in x[vs2], by the unsigned index in vs2 (15 R401). -/
def unitAt (b : Body) (u : State) (_ : Hart) (e : Nat) : Word := vbase b u + BitVec.ofNat 64 (e * eb b)
/-- See `unitAt`. -/
def strideAt (b : Body) (u : State) (_ : Hart) (e : Nat) : Word := vbase b u + BitVec.ofNat 64 e * u.getX b.vs2
/-- See `unitAt`. -/
def indexAt (b : Body) (u : State) (h : Hart) (e : Nat) : Word := vbase b u + BitVec.ofNat 64 (h.vget b.vs2.toNat (iw b) e)

/-- A load whose element e lies at `at'`. -/
def loadForm (make : Body → Instr) (mods : BitVec 12) (legal : Body → Prop) (at' : Body → State → Hart → Nat → Word) : MForm :=
  { make := make, cls := 2, ops := fun b => [dst b.vd (grpOf b) (wOf b)], legal := fun b _ => tyOf b ∈ setP ∧ memOnly b mods ∧ b.vs1 = 0 ∧ legal b
    w := wOf, n := grpOf
    run := fun b u => overElems (fun e s => aligned (eb b) (at' b u s.hart e)
      ((hartLoad s (at' b u s.hart e) (eb b)).bind fun x s => .ok () (vputs s [(b.vd.toNat, wOf b, e, leNat x)]))) (later b u.hart) u }

/-- The elements of a store, one after another. Where two of them write one location without `.o` they go in an order that is free (08 R219,
15 R402; log 1): `es` comes back in it, with the index of free choices moved on. With `.o` the writes to class L lines are performed in element
order. -/
def inOrder (b : Body) (put : Nat → State → Res Unit) (at' : Nat → Word) (es : List Nat) (s : State) : MRes :=
  let r := overElems put es s
  if oOf b = true ∨ sharing (es.map (fun e => (at' e).toNat)) = false then ordered b s r
  else
    match r with
    | .ok _ => overElems put (freeOrder s.freshCount es) { s with freshCount := s.freshCount + es.length }
    | r => r

/-- A store whose element e lies at `at'`; a release waits first (15 R402). -/
def storeForm (make : Body → Instr) (mods : BitVec 12) (legal : Body → Prop) (at' : Body → State → Hart → Nat → Word) : MForm :=
  { make := make, cls := 3, ops := fun b => [src b.vd (grpOf b) (wOf b)], legal := fun b _ => tyOf b ∈ setP ∧ memOnly b mods ∧ b.vs1 = 0 ∧ legal b
    w := wOf, n := grpOf
    run := fun b u => vreleased b u (fun s => inOrder b (fun e s => aligned (eb b) (at' b u s.hart e)
      (hartStore s (at' b u s.hart e) (leBytes (eb b) (s.hart.vget b.vd.toNat (wOf b) e)))) (at' b u s.hart) (later b u.hart) s) }

/-- The indexed form of a load or store, with the wider of data and index for its checks and its charge (14 R371). -/
def indexed (p : MForm) (data : Body → Opnd) : MForm :=
  { p with ops := fun b => [data b, src b.vs2 (groupI b) (iw b)], w := fun b => max (wOf b) (iw b), n := fun b => max (groupV b) (groupI b) }

/-- The plain forms (15 R401). -/
noncomputable def plainMemForms : List MForm :=
  [ loadForm .vle 0x03B (fun b => b.vs2 = 0) unitAt, loadForm .vlse 0x03B (fun _ => True) strideAt
  , indexed (loadForm .vlxe 0x0FB (fun b => (dst b.vd (groupV b) (wOf b)).regs &&& (src b.vs2 (groupI b) (iw b)).regs = 0) indexAt)
      (fun b => dst b.vd (groupV b) (wOf b))
  , storeForm .vse 0x03D (fun b => b.vs2 = 0) unitAt, storeForm .vsse 0x03D (fun _ => True) strideAt
  , indexed (storeForm .vsxe 0x0FD (fun _ => True) indexAt) (fun b => src b.vd (groupV b) (wOf b)) ]

/-- The fields of a segment, and its address (15 R403). -/
def fields (b : Body) : Nat := wfield b.mod 6 3 + 1
/-- See `fields`. -/
def segmentAt (b : Body) (s : State) (e : Nat) : Word := vbase b s + BitVec.ofNat 64 (e * fields b * eb b)

/-- A member over whole blocks: elements in vd, scales in vs1, without a mask (15 R404, R408). -/
def blockMemForm (make : Body → Instr) (cls : Nat) (load : Bool) (legal : Body → Prop) (run : Body → State → MRes) : MForm :=
  let vd (b : Body) : Opnd := if load then dst b.vd (grpOf b) (wOf b) else src b.vd (grpOf b) (wOf b)
  { make := make, cls := cls, ops := fun b => [vd b, single b.vs1 load]
    legal := fun b _ => legal b ∧ b.men = false ∧ b.vs2 = 0 ∧ (vd b).regs &&& (single b.vs1 load).regs = 0, w := wOf, n := grpOf
    fits := fun b h => wholeBlocks (blockLen (tyOf b)) h, run := run }

/-- Bits of an element in memory, and the address of a packed block: its scale and then its elements (15 R404). -/
def packed (b : Body) : Nat := memBits (tyOf b)
/-- See `packed`. -/
def blockAt (b : Body) (s : State) (j : Nat) : Word := vbase b s + BitVec.ofNat 64 (j * (1 + blockLen (tyOf b) * packed b / 8))

/-- The segments, the blocks and the coded blocks (15 R403, R404, R408). -/
noncomputable def groupMemForms : List MForm :=
  [ { make := .vlseg, cls := 2, ops := fun b => (List.range (fields b)).map (fun i => { dst b.vd (grpOf b) (wOf b) with reg := b.vd.toNat + i * grpOf b })
      legal := fun b _ => tyOf b ∈ setP ∧ 2 ≤ fields b ∧ memOnly b 0x1FB ∧ b.vs1 = 0 ∧ b.vs2 = 0, w := wOf, n := grpOf
      run := fun b u => overElems (fun e s => aligned (eb b) (segmentAt b u e)
        ((loadSpan s (segmentAt b u e) (fields b * eb b)).bind fun x s => .ok () (vputs s ((List.range (fields b)).map (fun i =>
          (b.vd.toNat + i * grpOf b, wOf b, e, leNat ((x.drop (i * eb b)).take (eb b)))))))) (later b u.hart) u }
  , { make := .vsseg, cls := 3, ops := fun b => (List.range (fields b)).map (fun i => { src b.vd (grpOf b) (wOf b) with reg := b.vd.toNat + i * grpOf b })
      legal := fun b _ => tyOf b ∈ setP ∧ 2 ≤ fields b ∧ memOnly b 0x1FD ∧ b.vs1 = 0 ∧ b.vs2 = 0, w := wOf, n := grpOf
      run := fun b u => vreleased b u (fun s => ordered b s (overElems (fun e s => aligned (eb b) (segmentAt b u e)
        (storeSpan s (segmentAt b u e) ((List.range (fields b)).flatMap (fun i =>
          leBytes (eb b) (s.hart.vget (b.vd.toNat + i * grpOf b) (wOf b) e))))) (later b u.hart) s)) }
  , blockMemForm .vlmx 2 true (fun b => 10 ≤ tyOf b ∧ tyOf b ≤ 16 ∧ memOnly b 0x03A) (fun b u =>
      let len := blockLen (tyOf b)
      overBlocks len (firstElem u.hart) u.hart.vl.toNat (fun j s =>
        (loadSpan s (blockAt b u j) (1 + len * packed b / 8)).bind fun x s => .ok () (vputs s
          ((List.range len).map (fun i => (b.vd.toNat, wOf b, j * len + i, leNat (x.drop 1) / 2 ^ (i * packed b) % 2 ^ packed b))
            ++ [(b.vs1.toNat, 8, j, leNat (x.take 1))]))) u)
  , blockMemForm .vsmx 3 false (fun b => 10 ≤ tyOf b ∧ tyOf b ≤ 16 ∧ memOnly b 0x03C) (fun b u =>
      let len := blockLen (tyOf b)
      vreleased b u (fun s => overBlocks len (firstElem u.hart) u.hart.vl.toNat (fun j s =>
        storeSpan s (blockAt b u j) (leBytes 1 (s.hart.scale b.vs1 j) ++ leBytes (len * packed b / 8)
          (((List.range len).map (fun i => s.hart.vget b.vd.toNat (wOf b) (j * len + i) % 2 ^ packed b * 2 ^ (i * packed b))).sum))) s))
  , blockMemForm .vlcx 2 true (fun b => (tyOf b = 17 ∨ tyOf b = 23) ∧ memOnly b 0x03A) (fun b u =>
      let lo := firstElem u.hart
      if u.hart.replies = [] ∧ (u.ctx u.hart.ctx).codes.any (fun k => k.loading.isSome) = true then .need (.wait .ctload)
      else match codedSkip lo (lo / 32) (vbase b u) u with
      | .error r => r
      | .ok (a, s) => codedLoop b (tyOf b = 23) (u.hart.vl.toNat / 32 - lo / 32) (lo / 32) a s) ]

/-- Address, first bit and bytes of an element of `m` bits (15 R405). -/
def subAt (b : Body) (s : State) (m e : Nat) : Word × Nat × Nat :=
  (vbase b s + BitVec.ofNat 64 (e * m / 8), e * m % 8, (e * m % 8 + m + 7) / 8)

/-- An address of elements of whole bytes is a multiple of them (15 R405). -/
def alignedBits (m : Nat) (a : Word) (k : Res Unit) : Res Unit := if m % 8 = 0 ∧ a.toNat % (m / 8) ≠ 0 then .trap 0x0A a else k

/-- The widening load, the narrowing store, the fault-only-first load and the gang streams (15 R405, R406, R409 to R412). -/
noncomputable def otherMemForms : List MForm :=
  [ { make := .vlw, cls := 2, ops := fun b => [dst b.vd (grpOf b) (wOf b)]
      legal := fun b _ => widePair (tyOf b) (mtypeOf b) = true ∧ memOnly b 0x7FB ∧ b.vs1 = 0 ∧ b.vs2 = 0, w := wOf, n := grpOf
      run := fun b u =>
        let m := memBits (mtypeOf b)
        overElems (fun e s =>
          let a := subAt b u m e
          alignedBits m a.1 ((loadSpan s a.1 a.2.2).bind fun x s =>
            let v := leNat x / 2 ^ a.2.1 % 2 ^ m
            let r : Nat × BitVec 5 := match fmtOf (tyOf b) with
              | some f => f.round 0 false (elemValue (mtypeOf b) v)
              | none => (((if tySigned (mtypeOf b) then signed m v else v) % (2 ^ wOf b : Nat)).toNat, 0)
            .ok () (s.withHart (fun h => (h.vset b.vd.toNat (wOf b) e r.1).raise r.2 false)))) (later b u.hart) u }
  , { make := .vsn, cls := 3, ops := fun b => [src b.vd (grpOf b) (wOf b)]
      legal := fun b h => widePair (tyOf b) (mtypeOf b) = true ∧ memOnly b 0xFFD ∧ b.vs1 = 0 ∧ b.vs2 = 0 ∧ (tyOf b ∈ setF → modeOk h)
        ∧ (memBits (mtypeOf b) % 8 ≠ 0 → b.men = false)
      w := wOf, n := grpOf
      fits := fun b h => wholeBlocks (if memBits (mtypeOf b) = 4 then 2 else if memBits (mtypeOf b) = 6 then 4 else 1) h
      run := fun b u =>
        let m := memBits (mtypeOf b)
        let len := if m = 4 then 2 else if m = 6 then 4 else 1
        let unit (j : Nat) (s : State) : Res Unit :=
          let rs := (List.range len).map (fun i => narrowed b u.hart.vfrm.toNat (s.hart.vget b.vd.toNat (wOf b) (j * len + i)))
          let a := vbase b u + BitVec.ofNat 64 (j * len * m / 8)
          alignedBits m a ((storeSpan s a (leBytes (len * m / 8) (packElems m (rs.map Elem.val)))).bind fun _ s =>
            .ok () (s.withHart (fun h => h.raise (rs.foldl (fun f r => f ||| r.fl) 0) (rs.any Elem.sat))))
        vreleased b u (fun s => ordered b s
          (if len = 1 then overElems unit (later b u.hart) s else overBlocks len (firstElem u.hart) u.hart.vl.toNat unit s)) }
  , { loadForm .vleff 0x03A (fun _ => True) unitAt with
      run := fun b u =>
        let get := overElems (fun e s => aligned (eb b) (unitAt b u s.hart e)
          ((hartLoad s (unitAt b u s.hart e) (eb b)).bind fun x s => .ok () (vputs s [(b.vd.toNat, wOf b, e, leNat x)])))
        match get (later b u.hart) u with
        | .ok s => .ok (s.setX b.vs2 (BitVec.ofNat 64 u.hart.vl.toNat))
        | .fault e c t =>
          if e ≠ 0 ∧ c ∈ [(0x06 : BitVec 8), 0x08, 0x0A, 0x14, 0x15] then
            match get ((later b u.hart).filter (· < e)) u with
            | .ok s => .ok (s.setX b.vs2 (BitVec.ofNat 64 e))
            | r => r
          else .fault e c t
        | r => r }
  , { make := .vpop, cls := 2, ops := fun b => [dst b.vd (grpOf b) (wOf b)], legal := fun b _ => tyOf b ∈ setP ∧ b.mod = 0 ∧ b.men = false ∧ b.vs1 = 0
      w := wOf, n := grpOf, starts := false, run := fun b u => popRun b u.hart.captured u }
  , { make := .vsapp, cls := 3
      ops := fun b => [src b.vd (groupV b) (wOf b), src b.vs2 (groupI b) (iw b), { mdst 0 with reg := wfield b.mod 8 3 }]
      legal := fun b _ => tyOf b ∈ setP ∧ only b 0x7C0 ∧ b.vs1 = 0 ∧ b.vs3 = 0 ∧ (b.men = true → b.msk.toNat ≠ wfield b.mod 8 3)
      w := fun b => max (wOf b) (iw b), n := fun b => max (groupV b) (groupI b), starts := false
      run := fun b u =>
        let es := every b u.hart
        let stream (e : Nat) : Nat := u.hart.vget b.vs2.toNat (iw b) e
        let r := (List.range 8).foldl (fun (a : State × List Nat) q =>
          let x := appendStream (eb b) q ((es.filter (fun e => stream e = q)).map (fun e => (e, u.hart.vget b.vd.toNat (wOf b) e))) a.1
          (x.1, a.2 ++ x.2)) (u, es.filter (fun e => 8 ≤ stream e))
        .ok (r.1.withHart (fun h => h.mputs (wfield b.mod 8 3) (es.map (fun e => (e, decide (e ∈ r.2)))))) } ]

/-- The linked gather and scatter (15 R413 to R415). -/
noncomputable def linkMemForms : List MForm :=
  [ indexed { loadForm .vgl 0x0FA (fun b => (dst b.vd (groupV b) (wOf b)).regs &&& (src b.vs2 (groupI b) (iw b)).regs = 0) indexAt with
      run := fun b u => overElems (fun e s => aligned (eb b) (indexAt b u s.hart e)
        ((gatherElem s (indexAt b u s.hart e) (eb b)).bind fun v s => .ok () (vputs s [(b.vd.toNat, wOf b, e, v)]))) (later b u.hart)
        (u.withHart (fun h => { h with vlinkOpen := true, vlinkGen := if h.vstart = 0 ∨ ¬ h.vlinkOpen then h.vlinkGen + 1 else h.vlinkGen })) }
      (fun b => dst b.vd (groupV b) (wOf b))
  , { make := .vsc, cls := 3
      ops := fun b => [src b.vd (groupV b) (wOf b), src b.vs2 (groupI b) (iw b), { mdst 0 with reg := wfield b.mod 8 3, reads := true }]
      legal := fun b _ => tyOf b ∈ setP ∧ memOnly b 0x7FE ∧ b.vs1 = 0 ∧ (b.men = true → b.msk.toNat ≠ wfield b.mod 8 3)
      w := fun b => max (wOf b) (iw b), n := fun b => max (groupV b) (groupI b), applied := appliedOf
      run := fun b u => vreleased b u (fun s =>
        let st := wfield b.mod 8 3
        let h := s.hart.clearStatus b u.hart.captured
        let es := (h.actives b (firstElem u.hart) u.hart.vl.toNat).filter (fun e => !h.mget st e)
        match scatterLines (indexAt b u) (eb b) st (fun h e => h.vget b.vd.toNat (wOf b) e) es.length es { s with hart := h } with
        | .ok s => .ok (s.withHart (fun h => { h with vlinkOpen := false }))
        | r => r) } ]

/-- A vector atomic (15 R417 to R419): its function code (08 R211), its types, and whether it is the fixed-window add. -/
def vamoForm (make : Body → Instr) (code : Nat) (types : List Nat) (fx : Bool) : MForm :=
  let vd (b : Body) : Opnd := dst b.vd (groupV b) (wOf b)
  let vs (b : Body) : Opnd := src b.vs1 (groupV b) (wOf b)
  let vi (b : Body) : Opnd := src b.vs2 (groupI b) (iw b)
  { make := make, cls := 3
    ops := fun b => (if wbit b.mod 11 then [vd b] else []) ++ [vs b, vi b, { mdst 0 with reg := wfield b.mod 8 3, reads := true }]
    legal := fun b _ => tyOf b ∈ types ∧ memOnly b (if fx then 0x7FE else 0xFFF) ∧ (vs b).regs &&& (vi b).regs = 0
      ∧ (if wbit b.mod 11 then (vd b).regs &&& (vs b).regs = 0 ∧ (vd b).regs &&& (vi b).regs = 0 else b.vd = 0)
      ∧ (b.men = true → b.msk.toNat ≠ wfield b.mod 8 3)
    w := fun b => max (wOf b) (iw b), n := fun b => max (groupV b) (groupI b), applied := appliedOf
    run := fun b u => VAmo.run ⟨code, types, fx⟩ b u.hart.captured (firstElem u.hart) u.hart.vl.toNat u }

/-- The vector atomics (15 Table 15.5). -/
noncomputable def vamoForms : List MForm :=
  [ vamoForm .vamoadd 0 [24, 25, 26, 27] false, vamoForm .vamoand 1 [24, 25, 26, 27] false, vamoForm .vamoor 2 [24, 25, 26, 27] false
  , vamoForm .vamoxor 3 [24, 25, 26, 27] false, vamoForm .vamomin 4 [24, 25, 26, 27] false, vamoForm .vamomax 5 [24, 25, 26, 27] false
  , vamoForm .vamominu 6 [24, 25, 26, 27] false, vamoForm .vamomaxu 7 [24, 25, 26, 27] false
  , vamoForm .vamoswap 8 [20, 21, 24, 25, 26, 27] false, vamoForm .vamofadd 10 [20, 21] false, vamoForm .vamofmin 11 [20, 21] false
  , vamoForm .vamofmax 12 [20, 21] false, vamoForm .vamofxadd 13 [20] true ]

/-- Groups of FP32 or INT32 elements from a register up (16 R441). -/
def many (b : Body) (r : Reg) (count : Nat) (f : Reg → Nat → Nat → Opnd) : List Opnd :=
  (List.range count).map (fun i => { f r (grpOf b) 32 with reg := r.toNat + i * grpOf b })

/-- An instruction on graphics data (16 R441): its outputs do not lie in its inputs, and its mask destination is not its mask. -/
def graphicsForm (make : Body → Instr) (mods : BitVec 12) (ops : Body → List Opnd) (run : Body → State → MRes) : MForm :=
  { make := make, cls := 6, ops := ops
    legal := fun b _ => tyOf b = 20 ∧ only b mods ∧ outMeetsIn (ops b) = false ∧ (mods ≠ 0 → b.men = true → b.msk.toNat ≠ wfield b.mod 8 3)
    w := fun _ => 32, n := grpOf, run := run }

/-- VTEX, VRAYBOX and VRAYTRI (16 R443 to R446). -/
noncomputable def graphicsForms : List MForm :=
  [ graphicsForm .vtex 0 (fun b => many b b.vs1 2 src ++ many b b.vs2 1 src ++ many b b.vd 4 dst) (fun b u =>
      match later b u.hart with
      | [] => .ok u
      | e :: es =>
        if (vbase b u).toNat % 32 ≠ 0 then .fault e 0x0A (vbase b u)
        else
          match hartLoad u (vbase b u) 32 with
          | .trap c t => .fault e c t
          | .need n => .need n
          | .ok x s =>
            match texDecode (leNat (x.take 8)) (leNat ((x.drop 8).take 8)) (leNat ((x.drop 16).take 8)) (leNat ((x.drop 24).take 8)) with
            | none => .fault e 0x0F (vbase b u)
            | some t => overElems (texElem t b) (e :: es) s)
  , graphicsForm .vraybox 0x700 (fun b => many b b.vs1 7 src ++ many b b.vs2 1 src ++ many b b.vd 1 dst ++ [{ mdst 0 with reg := wfield b.mod 8 3 }])
      (fun b u => overElems (boxElem b u.hart.captured) (later b u.hart) u)
  , graphicsForm .vraytri 0x700 (fun b => many b b.vs1 7 src ++ many b b.vs2 1 src ++ many b b.vd 4 dst ++ [{ mdst 0 with reg := wfield b.mod 8 3 }])
      (fun b u => overElems (triElem b u.hart.captured) (later b u.hart) u) ]

/-- VCOVER (16 R442): the triangle's seven words lie in vs1; elements whose pixel centre it covers take its seventh word. -/
noncomputable def coverForm : VForm :=
  let ops (b : Body) : List Opnd := [{ single b.vs1 false with w := 32 }, dst b.vd (grpOf b) 32, { mdst 0 with reg := wfield b.mod 8 3 }]
  { make := .vcover, ops := ops
    legal := fun b _ => tyOf b = 24 ∧ only b 0x702 ∧ b.vs2 = 0 ∧ (b.men = true → b.msk.toNat ≠ wfield b.mod 8 3) ∧ outMeetsIn (ops b) = false
    w := fun _ => 32, n := grpOf, starts := true, fits := fun _ _ => True, mx := none
    effect := fun b s =>
      let word (i : Nat) : Nat := s.hart.vget b.vs1.toNat 32 i
      let inside (e : Nat) : Bool := covered ((List.range 6).map (fun i => signed 32 (word i))) (wbit b.mod 1)
        ((signed 32 ((s.getX b.vs3).toNat % 2 ^ 32) + (e % s.hart.vcols.toNat : Nat)) * 256 + 128)
        ((signed 32 ((s.getX b.vs3).toNat / 2 ^ 32) + (e / s.hart.vcols.toNat : Nat)) * 256 + 128)
      (s.hart.vputs b.vd.toNat 32 (((later b s.hart).filter inside).map (fun e => (e, word 6)))).mputs (wfield b.mod 8 3)
        ((later b s.hart).map (fun e => (e, inside e))) }

end Sys2Proof.Claims

/-- One access of an element (15 R401, R414, R417): at local memory outside class L with no uncorrectable error, a load answers the bytes and changes
nothing but what an access reaches, a store writes its bytes and no others, and a read-modify-write, at a line where no operation is held, answers
by the old value and writes the new one. -/
def Obligations.ElementAccessesComplete : Prop :=
  ∀ (s s' : State) (va : Word) (pa : Nat) (cls : BitVec 2) (da : Bool), cls ≠ 1 →
    (∀ n, Reaches s va n .load (.phys pa cls da) s' → poisoned s pa n = false →
      ∃ t, hartLoad s va n = .ok (memRead s.mem pa n) t ∧ OnlyTranslates s t)
    ∧ (∀ data, Reaches s va data.length .store (.phys pa cls da) s' → Memory.wf s.mem = true →
      ∃ t, hartStore s va data = .ok () t ∧ OnlyPuts s t ∧ Stores s t pa data
        ∧ t.hart = { s.hart with vispend := BitVec.ofNat 64 (max s.hart.vispend.toNat s.pkg.dtime.toNat), lookups := t.hart.lookups })
    ∧ (∀ r : Rmw, Reaches s va r.bytes .amo (.phys pa cls da) s' → poisoned s pa r.bytes = false → homeFree s pa → Memory.wf s.mem = true →
      let x := r.act (memNat s.mem pa r.bytes)
      ∃ t, hartRmw s va r = .ok x.2 t ∧ OnlyPuts s t
        ∧ (∀ v, x.1 = some v → Stores s t pa (leBytes r.bytes v)
            ∧ t.hart = { s.hart with vispend := BitVec.ofNat 64 (max s.hart.vispend.toNat s.pkg.dtime.toNat), lookups := t.hart.lookups })
        ∧ (x.1 = none → t.mem = s.mem ∧ t.hart = { s.hart with lookups := t.hart.lookups }))

/-- The vector loads and stores complete when the accesses of their elements answer, and do what these do, element by element (15 R401 to R412). -/
def Obligations.VectorLoadsAndStoresComplete : Prop := ∀ p ∈ plainMemForms ++ groupMemForms ++ otherMemForms, p.Completes

/-- The linked gather and scatter and the vector atomics complete when the accesses of their elements answer (15 R413 to R419). -/
def Obligations.VectorLinksAndAtomicsComplete : Prop := ∀ p ∈ linkMemForms ++ vamoForms, p.Completes

/-- The graphics instructions complete when the accesses of their elements answer; VCOVER, which accesses no memory, always (16 R441 to R446). -/
def Obligations.GraphicsInstructionsComplete : Prop := (∀ p ∈ graphicsForms, p.Completes) ∧ coverForm.Completes

/-! ### Convoys -/

namespace Sys2Proof.Claims

/-- The hart of an event: the one in a slot, as the machine's current hart. -/
def Is (s u : State) (r : HartRef) : Prop := u = s.select r ∧ u.hart.live = true ∧ u.hart.ref = r

/-- The oldest convoy of the hart has issued with its one member's effect: its queue has paid, and beside the hart nothing but the core's purses,
what counts, and what its trace record reaches differs (06 R164; 05 R136; 10 R274). -/
def Issued (u t : State) (v : Convoy) (rest : List Convoy) (k : Hart) (coins : Nat) : Prop :=
  (∃ x, OnlyTraced { u with hart := { u.hart with pc := v.pc } } x ∧ t = { x with hart := t.hart, cores := t.cores })
    ∧ (∀ c, t.core c = { u.core c with
        pm := (t.core c).pm
        purses := if c = u.hart.core then paid (u.core c).purses ((u.hart.purse u).getD 0) coins else (u.core c).purses })
    ∧ t.hart = { k with pc := u.hart.pc, disp := { v with issued := true } :: rest, stripCoins := u.hart.stripCoins + coins
                        stripMem := t.hart.stripMem, stripArith := t.hart.stripArith }

end Sys2Proof.Claims

/-- A convoy that passes its checks is dispatched, with what it captures, into a queue of four, and the pc goes to the next start; one that fails a
check traps once the hart's earlier convoys have drained, and waits until then (06 R146, R147, R165; 12 R313, R325, R327). A count of 0 or 7, and
reserved bits, fail the first check. The oldest convoy of the hart that the core's sequencer chooses issues, and takes its slot into the rotation
(05 R137); that of another hart does not. Issue performs it: shown for one integer member, whose effect is that of its table. An issued convoy
retires: `vstart` and `cvidx` are 0, and the closing points of strips behind it come nearer (06 R164, R168; 10 R278). -/
def Obligations.ConvoysComplete : Prop :=
  (∀ (s : State) (hdr : BitVec 32) (bodies : List Word), s.hart.rep = none →
    let h := s.hart
    let done := h.cvUse.1 &&& memberBits hdr
    let restart := h.cvUse.2 &&& memberBits hdr &&& ~~~ done
    let checks := convoyChecks hdr bodies h.captured done restart h
    let free := h.disp = [] ∨ (h.disp.length < 4 ∧ h.vstart = 0 ∧ h.cvRestart = 0 ∧ h.cvDone = 0 ∧ h.cvMember = 0)
    (checks = none → free → exec (.convoy hdr bodies) s = .next { s with hart := { h with
      pc := h.pc + BitVec.ofNat 64 (4 + 8 * headerCount hdr)
      disp := h.disp ++ [{ pc := h.pc, hdr := hdr, bodies := bodies, cap := h.captured, done := done, restart := restart, issued := false }] } })
    ∧ (checks = none → ¬ free → exec (.convoy hdr bodies) s = .next { s with hart := { h with wait := .drain } })
    ∧ (∀ cause tval j, checks = some (cause, tval, j) →
        (h.disp ≠ [] → exec (.convoy hdr bodies) s = .next { s with hart := { h with wait := .drain } })
        ∧ (h.disp = [] → exec (.convoy hdr bodies) s = .next (s.takeTrap cause tval (some
            { vstart := h.vstart, restart := restart, done := done, member := BitVec.ofNat 3 j }))))
    ∧ (hdr.toNat / 2 ^ 7 % 8 = 0 ∨ hdr.toNat / 2 ^ 7 % 8 = 7 ∨ hdr.toNat / 2 ^ 30 ≠ 0 → checks = some (0x03, hdr.setWidth 64, 0)))
  ∧ (∀ (s u : State) (r : HartRef), Is s u r →
    let w := u.modCore u.hart.core (fun c => { c with lastSlot := u.hart.slot })
    (mayIssue u = false → exec (.convoyIssue r) s = .next u)
    ∧ (u.hart.disp = [] → exec (.convoyDrain r) s = .next u ∧ (mayIssue u = true → exec (.convoyIssue r) s = .next w))
    ∧ (∀ v rest, u.hart.disp = v :: rest →
        (v.issued = true → (mayIssue u = true → exec (.convoyIssue r) s = .next w)
          ∧ exec (.convoyDrain r) s = .next { u with hart := Hart.stripsAfter { u.hart with
              disp := rest, vstart := 0, cvRestart := 0, cvDone := 0, cvMember := 0, instret := u.hart.instret + 1, wpSkip := false, replies := []
              wait := .none, relStart := none, lookups := [] } 1 u.cycles })
        ∧ (v.issued = false → exec (.convoyDrain r) s = .next u)
        ∧ (mayIssue u = true → v.issued = false → v.done = 0 → v.restart = 0 → v.cap = u.hart.captured → Memory.wf u.mem = true → Clean u.hart →
            let a : State := { w with hart := { u.hart with pc := v.pc } }
            a.hart.cvUse = (0, 0) → a.hart.vl ≠ 0 →
            ∀ p ∈ intForms, ∀ b cls f, memberCode (p.make b) = some (cls, f, b) → v.bodies = [encodeBody cls f b] →
              p.Legal b a.hart → p.Fits b a.hart → ∃ t, exec (.convoyIssue r) s = .next t ∧ Issued w t v rest (p.effect b a) (p.coins b a.hart))))

/-! ### The service core -/

namespace Sys2Proof.Claims

/-- A package reset (02 R43, Table 2.1): fuses, boot flash and the ageing registers in it stay, and what lies outside the package; the rest is as
after power-on. -/
def AfterReset (s t : State) : Prop :=
  t = { State.reset with
      pkg := { Pkg.reset with minver := s.pkg.minver, fuseRaises := s.pkg.fuseRaises, flash := s.pkg.flash, tripLog := s.pkg.tripLog }
      fab := { Fabric.reset with bridge := s.fab.bridge, rejects := s.fab.rejects }
      clusters := t.clusters, hostOut := s.hostOut, cxlCache := s.cxlCache, freshCount := s.freshCount, agenda := t.agenda }
    ∧ ∀ cl, t.cluster cl = { Cluster.empty with mwin := (s.cluster cl).mwin, guard := (s.cluster cl).guard, ageIdx := (s.cluster cl).ageIdx }

/-- The event completes and of the machine only the service core's part differs. -/
def OnlyPkg (i : Instr) (s : State) (p : Pkg) : Prop := exec i s = .next { s with pkg := p }

/-- Both signatures of an image verify, over one digest of its header and body (02 R45). -/
def Signed (img : List Byte) : Prop :=
  let d := Config.digest (Config.imageBody img)
  Config.verifies 0 d (Config.imageSignature 0 img) = true ∧ Config.verifies 1 d (Config.imageSignature 1 img) = true

/-- One more in a counter of 16 bits that stays at its top. -/
def oneMore (c : BitVec 16) : BitVec 16 := BitVec.ofNat 16 (min 65535 (c.toNat + 1))

end Sys2Proof.Claims

/-- Resets, the power and temperature events, and the errors that belong to no access complete in every state (02 R43, R53 to R57; 01 R19, R21). A
throttle step whose temperature has reached the trip point trips; its row names no sensor, so that the log's is free (log 1). -/
def Obligations.ResetsAndPowerComplete : Prop :=
  ∀ s : State,
    (∀ i ∈ [Instr.powerOnReset, .bootctlPkrst], ∃ t, exec i s = .next t ∧ AfterReset s t)
    ∧ (s.fab.bridge = true ∧ s.pkg.tripOut = false ∧ s.pkg.powered = true → ∃ t, exec .perstAssert s = .next t ∧ AfterReset s t)
    ∧ (¬ (s.fab.bridge = true ∧ s.pkg.tripOut = false ∧ s.pkg.powered = true) → exec .perstAssert s = .next s)
    ∧ OnlyPkg .powerRemoval s { s.pkg with powered := false, tripOut := false, stopped := true }
    ∧ (∀ data : Word, OnlyPkg (.thermctlWrite .whole data) s
        { s.pkg with tthrot := BitVec.ofNat 8 (min (data.toNat / 2 ^ 40 % 256) (s.pkg.ttrip.toNat - 5))
                     pcap := BitVec.ofNat 16 (min 2000 (max 600 (data.toNat / 2 ^ 16 % 65536))) })
    ∧ (∀ data : Word,
        OnlyPkg (.thermctlWrite .low data) s
          { s.pkg with tthrot := BitVec.ofNat 8 (min s.pkg.tthrot.toNat (s.pkg.ttrip.toNat - 5))
                       pcap := BitVec.ofNat 16 (min 2000 (max 600 (data.toNat / 2 ^ 16 % 65536))) }
        ∧ OnlyPkg (.thermctlWrite .high data) s
          { s.pkg with tthrot := BitVec.ofNat 8 (min (data.toNat / 2 ^ 8 % 256) (s.pkg.ttrip.toNat - 5))
                       pcap := BitVec.ofNat 16 (min 2000 (max 600 s.pkg.pcap.toNat)) }
        ∧ exec (.thermctlWrite .odd data) s = .next s)
    ∧ (∀ (tj : BitVec 8) (watts : Nat), s.pkg.ttrip ≤ tj → ∃ t sensor, exec (.throttleStep tj watts) s = .next t ∧ sensor < 64
        ∧ t = { s with freshCount := s.freshCount + 1, pkg := { s.pkg with
            tjmax := tj, stopped := true, tripOut := true, tripLog := s.pkg.tripLog ++ [(s.pkg.dtime.toNat, sensor)] } })
    ∧ (∀ (tj : BitVec 8) (watts : Nat), tj < s.pkg.ttrip → ∃ clk, OnlyPkg (.throttleStep tj watts) s { s.pkg with tjmax := tj, clkpct := BitVec.ofNat 8 clk }
        ∧ (s.pkg.tthrot.toNat ≤ tj.toNat ∨ s.pkg.pcap.toNat < watts → clk = max 50 (s.pkg.clkpct.toNat - 5))
        ∧ (tj.toNat + 3 ≤ s.pkg.tthrot.toNat → watts < s.pkg.pcap.toNat → clk = min 100 (s.pkg.clkpct.toNat + 5))
        ∧ (tj.toNat < s.pkg.tthrot.toNat → watts ≤ s.pkg.pcap.toNat → s.pkg.tthrot.toNat < tj.toNat + 3 ∨ watts = s.pkg.pcap.toNat →
            clk = s.pkg.clkpct.toNat))
    ∧ (∀ (cl : BitVec 5) (sensor : Bool) (tj : BitVec 8),
        (s.pkg.ttrip ≤ tj → OnlyPkg (.thermalTrip cl sensor tj) s
          { s.pkg with tjmax := tj, stopped := true, tripOut := true
                       tripLog := s.pkg.tripLog ++ [(s.pkg.dtime.toNat, 2 * cl.toNat + if sensor then 1 else 0)] })
        ∧ (tj < s.pkg.ttrip → exec (.thermalTrip cl sensor tj) s = .next s))
    ∧ OnlyPkg .uncorrectableStateError s { s.pkg with ue := oneMore s.pkg.ue, stopped := true, failcode := 5 }
    ∧ OnlyPkg .dieLinkFailure s { s.pkg with stopped := true, failcode := 4 }
    ∧ (∀ r, OnlyPkg (.dieLinkReplay r) s { s.pkg with dreplay := oneMore s.pkg.dreplay })
    ∧ (∀ pa,
        (pa / 32 ∈ s.poison → OnlyPkg (.patrolScrub pa) s { s.pkg with ue := oneMore s.pkg.ue, scrubLog := s.pkg.scrubLog ++ [pa / 32 * 32] })
        ∧ (pa / 32 ∉ s.poison → ∃ p, exec (.patrolScrub pa) s = .next { s with correctable := s.correctable.filter (fun k => k ≠ pa / 32), pkg := p }
            ∧ p = { s.pkg with hbmce := p.hbmce } ∧ (pa / 32 ∉ s.correctable → p.hbmce = s.pkg.hbmce)))

/-- Boot, staging and maintenance complete in every state (02 R44 to R49, R58 to R60; 03 R63): boot follows its five steps and stops at the first
that fails, a staged image is taken when its signatures and version allow, and clusters are measured one after another. The code of a refused
image is only known not to be 0, and the private keys of a boot are free (log 1). The mailbox takes aligned writes of 8 bytes, or of a half. -/
def Sys2Proof.Claims.BootAndMaintenanceComplete : Prop :=
  ∀ s : State,
    (∀ a b, s.pkg.bootState ≠ 0 → exec (.boot a b) s = .next s)
    ∧ (∀ a b, s.pkg.bootState = 0 →
        let img := s.pkg.flash
        let low := (Config.imageSecver img).toNat < s.pkg.minver.toNat
        (¬ Signed img → OnlyPkg (.boot a b) s { s.pkg with bootState := 5, failcode := 1 })
        ∧ (Signed img → low → OnlyPkg (.boot a b) s { s.pkg with bootState := 5, failcode := 2 })
        ∧ (Signed img → ¬ low →
            OnlyPkg (.boot false b) s { s.pkg with bootState := 5, failcode := 3 }
            ∧ exec (.boot true false) s = .next { s with mem := [], poison := [], correctable := [], pkg := { s.pkg with bootState := 5, failcode := 4 } }
            ∧ ∃ t, exec (.boot true true) s = .next t ∧ t.mem = [] ∧ t.poison = [] ∧ t.pkg.bootState = 4
                ∧ t.pkg.keys = some (Config.freeNat s.freshCount % 2 ^ 384, Config.freeNat (s.freshCount + 1) % 2 ^ 96)
                ∧ t.pkg.secver = Config.imageSecver img ∧ t.pkg.image = img ∧ t.hart = s.hart ∧ t.harts = s.harts
                ∧ t.pkg.minver = (if s.pkg.minver < Config.imageSecver img ∧ s.pkg.fuseRaises < 63 then Config.imageSecver img else s.pkg.minver)))
    ∧ (∀ (off : BitVec 16) (half : Half) (data : Word), ∃ t, exec (.mailboxWrite off half data) s = .next t
        ∧ t = { s with pkg := { s.pkg with staged := t.pkg.staged } }
        ∧ (off.toNat < 0x1000 ∨ 0x2000 ≤ off.toNat ∨ off.toNat % 8 ≠ 0 ∨ half = .odd → t = s)
        ∧ (0x1000 ≤ off.toNat → off.toNat < 0x2000 → off.toNat % 8 = 0 → half ≠ .odd → ∀ a,
            let at' := s.pkg.mbxbase.toNat + (off.toNat - 0x1000)
            let lo := match half with | .high => at' + 4 | _ => at'
            let hi := match half with | .low => at' + 4 | _ => at' + 8
            tget t.pkg.staged a = if lo ≤ a ∧ a < hi then some (BitVec.ofNat 8 (data.toNat / 256 ^ (a - lo))) else tget s.pkg.staged a))
    ∧ (s.pkg.maint = true ∨ s.pkg.stage = true → exec .bootctlStage s = .next s ∧ exec .bootctlMaint s = .next s)
    ∧ (s.pkg.maint = false → s.pkg.stage = false → OnlyPkg .bootctlStage s { s.pkg with stage := true })
    ∧ (s.pkg.maint = false → s.pkg.stage = false → ∃ t, exec .bootctlMaint s = .next t ∧ t.pkg = { s.pkg with maint := true, maintCl := some 0 }
        ∧ (t.cluster 0).closed = some s.pkg.dtime.toNat ∧ t = { s with pkg := t.pkg, clusters := t.clusters, gangs := t.gangs })
    ∧ (s.pkg.stage = false → exec .stagingComplete s = .next s)
    ∧ (s.pkg.stage = true → ∃ t, exec .stagingComplete s = .next t ∧ t.pkg.stage = false ∧ t.hart = s.hart ∧ t.mem = s.mem
        ∧ (let img := stagedImage s.pkg.staged
           let good := Signed img ∧ s.pkg.minver.toNat ≤ (Config.imageSecver img).toNat
           (good → t.pkg.failcode = 0 ∧ t.pkg.flash = img) ∧ (¬ good → t.pkg.failcode ≠ 0 ∧ t.pkg.flash = s.pkg.flash)))
    ∧ (∀ (cl : BitVec 5) (num den : Nat),
        (s.pkg.maintCl ≠ some cl ∨ clusterBusy s cl = true → exec (.maintClusterMeasure cl num den) s = .next s)
        ∧ (s.pkg.maintCl = some cl → clusterBusy s cl = false → ∃ t, exec (.maintClusterMeasure cl num den) s = .next t
            ∧ (t.cluster cl).mwin = (s.cluster cl).mwin + 1 ∧ (t.cluster cl).closed = none
            ∧ (t.cluster cl).guard = BitVec.ofNat 8 (min 255 (20 + (8 * num + den - 1) / den))
            ∧ (t.cluster cl).ageIdx = BitVec.ofNat 8 (min 255 ((51 * num + den - 1) / den))
            ∧ t.pkg.maintCl = (if cl = 31 then none else some (cl + 1)) ∧ t.hart = s.hart ∧ t.mem = s.mem)
        ∧ (∀ t0, (s.cluster cl).closed = some t0 → s.pkg.maintCl = some cl → clusterBusy s cl = true → t0 + 1000000000 ≤ s.pkg.dtime.toNat →
            ∃ t, exec (.maintClusterTimeout cl) s = .next t ∧ (t.cluster cl).closed = none ∧ (t.cluster cl).mwin = (s.cluster cl).mwin
              ∧ t.pkg.maintCl = (if cl = 31 then none else some (cl + 1)))
        ∧ ((s.cluster cl).closed = none → exec (.maintClusterTimeout cl) s = .next s))

/-- The attestation requests complete in every state (02 R50 to R52). Where this device bridges and runs its image, a request and its answer join
the transcript and the answer goes to the host: what an answer holds, as codes and fields, is the model's own form (log 20); a request other than
GET_VERSION and GET_CAPABILITIES before the algorithms are agreed answers ERROR, and CHALLENGE and GET_MEASUREMENTS sign the transcript. -/
def Sys2Proof.Claims.AttestationCompletes : Prop :=
  ∀ s : State,
    let ready := s.fab.bridge = true ∧ s.pkg.bootState = 4 ∧ s.pkg.keys ≠ none
    let said (u : State) (req ans : List Nat) : State := { u with pkg := { u.pkg with spdmLog := u.pkg.spdmLog ++ req ++ ans }, hostOut := u.hostOut ++ [.spdm ans] }
    let fresh : State := { s with pkg := { s.pkg with spdmLog := [], spdmAlgos := false } }
    (ready →
      exec .getVersion s = .next (said fresh [0x84] [0x04, 0x1300]) ∧ exec .getCapabilities s = .next (said s [0xE1] [0x61, 0x16])
      ∧ (∀ a b, exec (.negotiateAlgorithms a b) s = .next (
          let u := said s [0xE3, a.toNat, b.toNat] [0x63, 8 * a.toNat, 2 * b.toNat]
          { u with pkg := { u.pkg with spdmAlgos := a && b } }))
      ∧ (∀ code, exec (.spdmUnsupportedRequest code) s = .next (said s [code.toNat] [0x7F, 7]))
      ∧ (s.pkg.spdmAlgos = false →
          exec .getDigests s = .next (said s [0x81] [0x7F, 4])
          ∧ (∀ slot off len, exec (.getCertificate slot off len) s = .next (said s [0x82, slot.toNat, off.toNat, len.toNat] [0x7F, 4]))
          ∧ (∀ slot nonce, exec (.challenge slot nonce) s = .next (said s [0x83, slot.toNat, nonce] [0x7F, 4]))
          ∧ (∀ index nonce, exec (.getMeasurements index nonce) s = .next (said s [0xE0, index.toNat, nonce] [0x7F, 4])))
      ∧ (s.pkg.spdmAlgos = true →
          exec .getDigests s = .next (said s [0x81] [0x01, 3, Config.digest (chainOf s 0), Config.digest (chainOf s 1)])
          ∧ (∀ slot off len, ∃ ans, exec (.getCertificate slot off len) s = .next (said s [0x82, slot.toNat, off.toNat, len.toNat] ans)
              ∧ (1 < slot.toNat → ans = [0x7F, 1])
              ∧ (slot.toNat ≤ 1 → ans = [0x02, slot.toNat, min len.toNat ((chainOf s slot.toNat).length - off.toNat)
                    , (chainOf s slot.toNat).length - off.toNat - min len.toNat ((chainOf s slot.toNat).length - off.toNat)]
                  ++ (((chainOf s slot.toNat).drop off.toNat).take len.toNat).map BitVec.toNat))
          ∧ (∀ slot nonce, slot.toNat ≤ 1 → ∃ body sig, exec (.challenge slot nonce) s = .next (said s [0x83, slot.toNat, nonce] (body ++ sig))
              ∧ body = [0x03, slot.toNat, Config.digest (chainOf s slot.toNat)] ∧ sig = spdmSign s (s.pkg.spdmLog ++ [0x83, slot.toNat, nonce] ++ body))
          ∧ (∀ index nonce, index.toNat ≤ 4 ∨ index = 0xFF → ∃ body, exec (.getMeasurements index nonce) s
              = .next (said s [0xE0, index.toNat, nonce] (body ++ spdmSign s (s.pkg.spdmLog ++ [0xE0, index.toNat, nonce] ++ body)))
              ∧ (index = 0 → body = [0x60, 4]) ∧ (index = 2 → body = [0x60, 2, s.pkg.secver.toNat, s.pkg.minver.toNat]))))
    ∧ (¬ ready → ∀ a b slot off len nonce index code, ∀ i ∈ [Instr.getVersion, .getCapabilities, .negotiateAlgorithms a b, .getDigests,
        .getCertificate slot off len, .challenge slot nonce, .getMeasurements index nonce, .spdmUnsupportedRequest code], exec i s = .next s)

/-- Boot, staging, maintenance and attestation (02 R44 to R52, R58 to R60). -/
def Obligations.BootAndAttestationComplete : Prop := BootAndMaintenanceComplete ∧ AttestationCompletes

/-! ### Links, packets and time -/

namespace Sys2Proof.Claims

/-- Of the machine only one link differs, and it is now `l`. -/
def OnlyLink (s t : State) (port : BitVec 4) (l : Link) : Prop :=
  t = { s with links := t.links } ∧ t.link port = l ∧ ∀ q, q ≠ port → t.link q = s.link q

/-- The event completes and of the machine only one link differs. -/
def MakesLink (i : Instr) (s : State) (port : BitVec 4) (l : Link) : Prop := ∃ t, exec i s = .next t ∧ OnlyLink s t port l

/-- A packet is dropped: it is counted, and firmware hears of it, with the port (01 R33). -/
def Drops (s t : State) (port : BitVec 4) : Prop :=
  t = { s with fab := { s.fab with mgtDrops := s.fab.mgtDrops + 1, linkEvents := s.fab.linkEvents ++ [BitVec.ofNat 64 (2 * 256 + port.toNat)] } }

/-- The increments of a credit flit, 16 bits for each of seven channels (01 R30). -/
def increment (v : Nat) (k : Nat) : Nat := v / 65536 ^ k % 65536

end Sys2Proof.Claims

/-- The flits of a link (01 R27 to R31): a link that is not ACTIVE neither takes nor sends any; on an ACTIVE one a codeword that cannot be corrected,
with more than 6 wrong symbols among them, makes it discard payload flits until the replay, and it asks for one: once, and again only where the
codeword may be one of the replay (log 49); a NAK replays what it leaves unacknowledged; a credit flit adds its increments; a credit return owes
nothing more; and a flit time sends one flit: the credits owed for 64 flit times, else from the replay, and nothing new while the retry buffer is
full. -/
def Sys2Proof.Claims.FlitsAndCreditsComplete : Prop :=
  ∀ (s : State) (port : BitVec 4), let l := s.link port
    (l.state ≠ .active → exec (.creditReturn port) s = .next s ∧ exec (.flitTransmit port) s = .next s
      ∧ (∀ ack, exec (.nakReceived port ack) s = .next s) ∧ (∀ incs, exec (.creditFlitReceived port incs) s = .next s)
      ∧ ∀ fec f0 f1 f2 f3, exec (.codewordReceive port fec f0 f1 f2 f3) s = .next s)
    ∧ (l.state = .active →
      (∀ fec f0 f1 f2 f3, Safe (exec (.codewordReceive port fec f0 f1 f2 f3) s))
      ∧ (∀ fec f0 f1 f2 f3, fec = .uncorrectable ∨ (∃ n, 6 < n ∧ fec = .corrected n) →
          (l.rxDiscard = false → ∃ f, MakesLink (.codewordReceive port fec f0 f1 f2 f3) s port { l with rxDiscard := true, out := l.out ++ [f] }
            ∧ flitKind f = 3)
          ∧ (l.rxDiscard = true → ∃ t k, exec (.codewordReceive port fec f0 f1 f2 f3) s = .next t
            ∧ OnlyLink s { t with freshCount := s.freshCount } port k ∧ k = { l with out := k.out }
            ∧ (k.out = l.out ∨ ∃ f, k.out = l.out ++ [f] ∧ flitKind f = 3)))
      ∧ (∀ n f0 f1 f2 f3, n ≤ 6 → (∀ f ∈ [f0, f1, f2, f3], flitGood f = true ∧ flitKind f = 0 ∧ l.retry.any (fun p => p.1 = flitAck f) = false) →
          MakesLink (.codewordReceive port (.corrected n) f0 f1 f2 f3) s port { l with fecfix := min (l.fecfix + 1) 65535 })
      ∧ (∀ ack, ∃ k, MakesLink (.nakReceived port ack) s port k ∧ k = { l with retry := k.retry, naks := oneMore l.naks, replay := k.retry.map Prod.snd
                                                                               nakRun := k.nakRun, nakAck := ack }
          ∧ (l.retry.any (fun p => p.1 = ack) = false → k.retry = l.retry)
          ∧ (∀ a b f, l.retry = a ++ (ack, f) :: b → (a.headD (ack, f)).1 + BitVec.ofNat 12 a.length = ack → a.length < 4096 → k.retry = b))
      ∧ (∀ incs : BitVec 112, ∃ k, MakesLink (.creditFlitReceived port incs) s port k ∧ k = { l with credits := k.credits }
          ∧ ∀ c, tgetD k.credits c 0 = tgetD l.credits c 0 + if c < 7 then increment incs.toNat c else 0)
      ∧ (l.rxOwed = [] → exec (.creditReturn port) s = .next s)
      ∧ (l.rxOwed ≠ [] → ∃ f, MakesLink (.creditReturn port) s port { l with rxOwed := [], owedFor := 0, out := l.out ++ [f] }
          ∧ flitKind f = 2 ∧ ∀ c < 7, increment (flitPayload f).toNat c = min (tgetD l.rxOwed c 0) 65535)
      ∧ (∃ t f, exec (.flitTransmit port) s = .next t ∧ (t.link port).out = l.out ++ [f] ∧ t = { s with links := t.links, dies := t.dies }
          ∧ (l.rxOwed ≠ [] → 63 ≤ l.owedFor → flitKind f = 2 ∧ (t.link port).rxOwed = [] ∧ (t.link port).txNext = l.txNext)
          ∧ (l.rxOwed ≠ [] → l.owedFor < 63 → (t.link port).owedFor = l.owedFor + 1 ∧ (t.link port).rxOwed = l.rxOwed)
          ∧ (∀ g gs, l.rxOwed = [] ∨ l.owedFor < 63 → l.replay = g :: gs → (t.link port).replay = gs ∧ flitKind f = 1 ∧ flitSeq f = flitSeq g ∧ flitPayload f = flitPayload g)
          ∧ (l.rxOwed = [] ∨ l.owedFor < 63 → l.replay = [] → 1024 ≤ l.retry.length → flitKind f = 0 ∧ (t.link port).txNext = l.txNext)))

/-- A packet that has arrived is dropped, delivered or sent on (01 R33, R34): one that is malformed, or that no entry routes, or whose hops are used
up, is dropped and counted; one for a neighbour or for this device arrives here; any other leaves by its route with a hop less. -/
def Sys2Proof.Claims.PacketsAreForwarded : Prop :=
  ∀ (s : State) (p : Packet),
    let bad := packetOps p.cls.toNat ≤ p.op.toNat ∨ (p.dst = 0xFFF ∧ isNeighbour p = false)
    let e := tgetD s.fab.route p.dst.toNat 0
    let port : BitVec 4 := BitVec.ofNat 4 (e.toNat % 16)
    (bad → ∃ t, exec (.packetForward p) s = .next t ∧ Drops s t p.port)
    ∧ (¬ bad → isNeighbour p = true ∨ (p.dst = s.fab.devid ∧ s.fab.devid ≠ 0xFFF) →
        exec (.packetForward p) s = .next { s with agenda := s.agenda ++ [.packet p] })
    ∧ (¬ bad → isNeighbour p = false → s.fab.devid = 0xFFF → ∃ t, exec (.packetForward p) s = .next t ∧ Drops s t p.port)
    ∧ (¬ bad → isNeighbour p = false → s.fab.devid ≠ 0xFFF → p.dst ≠ s.fab.devid →
        (e.getLsbD 7 = true → p.hops ≠ 0 →
          MakesLink (.packetForward p) s port { s.link port with txq := (s.link port).txq ++ [{ p with hops := p.hops - 1, port := port }] })
        ∧ (e.getLsbD 7 = false ∨ p.hops = 0 → ∃ t, exec (.packetForward p) s = .next t ∧ Drops s t p.port))

/-- The states of a link (01 R37, R38): each event moves a link that is in its state, and does nothing to another; in PARAM this device sends its id
and the sizes of its buffers, in a layout that is the model's own (log 49); a link that has been too long in TRAIN, ALIGN or RETRAIN goes DOWN. -/
def Sys2Proof.Claims.LinkStatesChange : Prop :=
  ∀ (s : State) (port : BitVec 4), let l := s.link port; let now := s.pkg.dtime.toNat
    (l.state = .train → MakesLink (.trainSuccess port) s port { l with state := .align, since := now })
    ∧ (l.state ≠ .train → exec (.trainSuccess port) s = .next s)
    ∧ (l.state = .align → ∃ f, MakesLink (.alignLock port) s port { l with state := .param, since := now, out := l.out ++ [f] }
        ∧ flitKind f = 4 ∧ increment (flitPayload f).toNat 7 % 4096 = s.fab.devid.toNat
        ∧ ∀ c < 7, increment (flitPayload f).toNat c = if c ≤ 1 then 256 else if c = 6 then 32 else 64)
    ∧ (l.state ≠ .align → exec (.alignLock port) s = .next s)
    ∧ (l.state = .active → MakesLink (.retrainEntry port) s port
        { l with state := .retrain, since := now, retrains := BitVec.ofNat 8 (min 255 (l.retrains.toNat + 1)), nakRun := 0 })
    ∧ (l.state ≠ .active → exec (.retrainEntry port) s = .next s)
    ∧ (∀ (lanes : BitVec 8) (w : BitVec 8),
        (w = 8 ∧ lanes = 0xFF) ∨ (w = 4 ∧ lanes ≠ 0xFF ∧ (lanes.toNat % 16 = 15 ∨ lanes.toNat / 16 = 15)) →
        (l.state = .retrain → MakesLink (.retrainDone port lanes) s port { l with state := .active, since := now, width := w })
        ∧ (l.state = .detect → MakesLink (.linkDetectComplete port lanes) s port { l with state := .train, since := now, width := w })
        ∧ (l.state = .down → s.fab.lnken.getLsbD port.toNat = true → s.pkg.bootState = 4 →
            MakesLink (.linkDetectComplete port lanes) s port { l with state := .train, since := now, width := w, fecfix := 0, naks := 0, retrains := 0 }))
    ∧ (∀ lanes : BitVec 8, lanes.toNat % 16 ≠ 15 → lanes.toNat / 16 ≠ 15 → exec (.retrainDone port lanes) s = .next s)
    ∧ (∀ (peer : BitVec 12) (sizes : BitVec 112),
        (l.state = .param → ∃ k, MakesLink (.paramExchange port peer sizes) s port k ∧ k.state = .active ∧ k.since = now ∧ k.peerid = peer
          ∧ k.rxNext = 0 ∧ k.txNext = 0 ∧ k.retry = [] ∧ ∀ c < 7, tgetD k.credits c 0 = increment sizes.toNat c)
        ∧ (l.state ≠ .param → exec (.paramExchange port peer sizes) s = .next s))
    ∧ (∀ x ∈ [(Instr.trainTimeout port, LinkState.train, 100000000), (.alignTimeout port, .align, 10000000)],
        (l.state = x.2.1 → l.since + x.2.2 ≤ now → MakesLink x.1 s port
          { Link.reset with fecfix := l.fecfix, naks := l.naks, retrains := l.retrains, peerid := l.peerid, stamped := l.stamped, out := l.out, since := now })
        ∧ (l.state ≠ x.2.1 ∨ now < l.since + x.2.2 → exec x.1 s = .next s))
    ∧ (l.state = .retrain → l.since + lrTicks s ≤ now →
        ∃ t, exec (.linkRecoveryLimitExpiry port) s = .next t ∧ (t.link port).state = .down)
    ∧ (l.state ≠ .retrain ∨ now < l.since + lrTicks s → exec (.linkRecoveryLimitExpiry port) s = .next s)

/-- Time stamps (01 R36) and request timeouts (01 R40): an exchange sends this device's time to the neighbour of an ACTIVE port, whose device answers
with that time, its own, and how far that lies from the time master's (log 17); the answer sets the time of a device that does not bridge, to the
neighbour's time and half the round trip, with an error that keeps it within 100 ticks of the master's time, unless the neighbour's lies further off
(log 19); and a request to another device or a neighbour without an answer fails after twice the recovery limit, not before. -/
def Sys2Proof.Claims.TimeStampsAndTimeouts : Prop :=
  ∀ (s : State),
    (∀ port, (s.link port).state ≠ .active → exec (.timeStampExchange port) s = .next s)
    ∧ (∀ port, (s.link port).state = .active → ∃ t p, exec (.timeStampExchange port) s = .next t
        ∧ t.fab.reqs = s.fab.reqs ++ [{ tag := s.fab.nextTag, dst := 0xFFF, port := port, since := s.pkg.dtime.toNat, waiter := .stamp, lease := none }]
        ∧ t.link port = { s.link port with txq := (s.link port).txq ++ [p], stamped := s.pkg.dtime.toNat } ∧ p.cls = 5 ∧ p.op = 0 ∧ p.tag = s.fab.nextTag ∧ p.dst = 0xFFF ∧ p.hops = 0
        ∧ p.body = [s.pkg.dtime] ∧ t = { s with links := t.links, fab := t.fab })
    ∧ (∀ q, isNeighbour q = true → ∃ p, MakesLink (.timeStampRequest q) s q.port { s.link q.port with txq := (s.link q.port).txq ++ [p] }
        ∧ p.cls = q.cls ∧ p.op = 1 ∧ p.tag = q.tag ∧ p.body = [q.body.headD 0, s.pkg.dtime, (s.timeBound.map (BitVec.ofNat 64)).getD (BitVec.allOnes 64)])
    ∧ (∀ p, (∀ r ∈ s.fab.reqs, ¬ (r.tag = p.tag ∧ r.waiter = .stamp ∧ r.port = p.port)) → exec (.timeStampResponse p) s = .next s)
    ∧ (∀ p r a b, s.fab.reqs = a ++ r :: b → (r.tag = p.tag ∧ r.waiter = .stamp ∧ r.port = p.port) →
        (∀ x ∈ a, ¬ (x.tag = p.tag ∧ x.waiter = .stamp ∧ x.port = p.port)) →
        let bound := (p.body.getD 2 0).toNat
        (s.fab.bridge = true ∨ 100 < bound → exec (.timeStampResponse p) s = .next { s with fab := { s.fab with reqs := a ++ b } })
        ∧ (s.fab.bridge = false → bound ≤ 100 → ∃ t, exec (.timeStampResponse p) s = .next t
          ∧ t = { s with fab := t.fab, pkg := { s.pkg with dtime := t.pkg.dtime }, freshCount := s.freshCount + 1 }
          ∧ t.fab = { s.fab with reqs := a ++ b, skew := t.fab.skew }
          ∧ let est := (p.body.getD 1 0).toNat + (s.pkg.dtime.toNat - r.since) / 2
            ∃ ahead behind, (ahead = 0 ∨ behind = 0) ∧ bound + ahead + behind ≤ 100 ∧ t.fab.skew = some (bound + ahead + behind)
              ∧ t.pkg.dtime = BitVec.ofNat 64 (est + ahead - behind)))
    ∧ (∀ tag, (∀ r ∈ s.fab.reqs, r.tag ≠ tag) → exec (.requestTimeout tag) s = .next s)
    ∧ (∀ tag r a b, s.fab.reqs = a ++ r :: b → r.tag = tag → (∀ x ∈ a, x.tag ≠ tag) →
        (s.pkg.dtime.toNat < r.since + 2 * lrTicks s → exec (.requestTimeout tag) s = .next s)
        ∧ (r.waiter = .stamp ∨ r.waiter = .nbcmd ∨ r.dst ≠ s.fab.devid → r.since + 2 * lrTicks s ≤ s.pkg.dtime.toNat →
            exec (.requestTimeout tag) s = .next (s.failReq r false)
            ∧ (r.waiter = .stamp → exec (.requestTimeout tag) s = .next { s with fab := { s.fab with reqs := a ++ b } })))

/-- Flits, credits, replays and the states of a link (01 R28 to R31, R37, R38). -/
def Obligations.LinkLayerCompletes : Prop := FlitsAndCreditsComplete ∧ LinkStatesChange

/-- Packets on their way, time stamps and request timeouts (01 R33, R34, R36, R40). -/
def Obligations.PacketsAndTimeComplete : Prop := PacketsAreForwarded ∧ TimeStampsAndTimeouts

/-! ### The fabric registers and the management block -/

namespace Sys2Proof.Claims

/-- `r` is the oldest outstanding request that meets a condition; `rest` are the others (01 R32). -/
def FirstReq (s : State) (f : Request → Prop) (r : Request) (rest : List Request) : Prop :=
  ∃ a b, s.fab.reqs = a ++ r :: b ∧ rest = a ++ b ∧ f r ∧ ∀ x ∈ a, ¬ f x

/-- The neighbour command ends with a result, and the data it read (01 R42). -/
def NbEnds (s t : State) (rest : List Request) (result : Nat) (data : Word) : Prop :=
  t = { s with fab := { s.fab with reqs := rest, nbcmd := t.fab.nbcmd, nbdata := data } }
    ∧ t.fab.nbcmd.getLsbD 63 = false ∧ t.fab.nbcmd.toNat / 2 ^ 48 % 256 = result
    ∧ t.fab.nbcmd &&& ~~~ 0x80FF000000000000 = s.fab.nbcmd &&& ~~~ 0x80FF000000000000

/-- The half of a word that an access carries; one that is not 4 or 8 bytes long reads as all ones (03 R61). -/
def halfOf (h : Half) (v : Word) : Word :=
  match h with
  | .whole => v
  | .low => BitVec.ofNat 64 (v.toNat % 2 ^ 32)
  | .high => BitVec.ofNat 64 (v.toNat / 2 ^ 32)
  | .odd => BitVec.allOnes 64

/-- The first byte, and the number, that a half of an 8-byte place has. -/
def halfAt (h : Half) : Nat × Nat :=
  match h with
  | .whole => (0, 8)
  | .low => (0, 4)
  | .high => (4, 4)
  | .odd => (0, 0)

/-- Registers of the management block that hold what is written to these bits, and nothing else (03 Table 3.2, R63, R64; 05 Table 5.3). -/
def storedMgt : List (BitVec 16 × Word) :=
  [ (0x0290, 0xFFFFFFFFFFFFFFFF), (0x0300, 0xFFFFFFFFFFFFF000), (0x0310, 0x000FFFFFFFFF8000), (0x4008, 0xFFFFFFFFFFFFFFFF)
  , (0x4010, 0xFFFFFFFFFFFFFFFF), (0x2000, 0xF0FFFFFFFFFFFF00), (0x3FF8, 0xF0FFFFFFFFFFFF00) ]

/-- Registers of a supervisor page that hold what is written to these bits (03 Table 3.4). -/
def storedSup : List (BitVec 16 × Word) :=
  [ (0x028, 0xFFFFFFFF), (0x038, 0x800000000000FFFF), (0x048, 0xFFFFFFFF), (0x058, 0xFFFFFFFFF01F), (0x060, 0xFFFFFFFFFFFFFFFF), (0x068, 0xFFFFFFFF)
  , (0x070, 0xFFFFFFFFFFFFFFFF), (0x078, 0xFFFFFFFFFFFFFFFF) ]

/-- Some registers as they read (02 Tables 2.2, 2.5, 2.6; 05 Table 5.3). -/
def shownMgt (s : State) : List (BitVec 16 × Word) :=
  [ (0x0000, BitVec.ofNat 64 (s.pkg.secver.toNat * 2 ^ 48 + s.pkg.minver.toNat * 2 ^ 32 + s.pkg.failcode.toNat * 2 ^ 16 + s.pkg.bootState.toNat))
  , (0x0008, BitVec.ofNat 64 (4 * s.pkg.maint.toNat + 2 * s.pkg.stage.toNat))
  , (0x0040, BitVec.ofNat 64 (s.pkg.sramce.toNat * 2 ^ 48 + s.pkg.hbmce.toNat * 2 ^ 32 + s.pkg.ue.toNat * 2 ^ 16 + s.pkg.dreplay.toNat))
  , (0x0288, s.fab.nbcmd), (0x0290, s.fab.nbdata), (0x0300, s.pkg.mbxbase), (0x0310, s.pkg.mwbase), (0x4008, s.pkg.qattr), (0x4010, s.pkg.qlimit)
  , (0x4018, s.pkg.qocc), (0x4020, s.pkg.qsfree.setWidth 64), (0x5800, s.pkg.pmtrig), (0x7000, (s.core 128).dbctl), (0x3000, tgetD s.fab.xperm 512 0) ]

/-- The host has been given something. -/
def Gives (s t : State) (o : HostOut) : Prop := t = { s with hostOut := s.hostOut ++ [o] }

/-- Beside the host's answer nothing differs but what an access reaches that stores nothing. -/
def OnlyReads (s t : State) (o : HostOut) : Prop :=
  ∃ u, OnlyLooks s u ∧ u.hart = s.hart ∧ t = { u with hostOut := s.hostOut ++ [o] }

/-- Bytes have been written at their home by an agent that is no hart, with the time at which a leased line shows them (03 R67, 08 R209). -/
def HomeStores (s t : State) (pa : Nat) (data : List Byte) : Prop :=
  Stores s t pa data ∧ t.hart = s.hart ∧ OnlyPuts s { t with fab := s.fab } ∧ t.fab = { s.fab with hostVis := t.fab.hostVis }
    ∧ s.fab.hostVis ≤ t.fab.hostVis

/-- A packet of this device's own leaves (01 R34, R35, R39). -/
def Leaves (s : State) (p : Packet) : State := (s.sendPacket p).2

end Sys2Proof.Claims

/-- The fabric registers (01 R35, R37, R40, R42): a new id is announced to every ACTIVE neighbour, a bridge's is also the time master's; a disabled link
goes DOWN and an enabled one leaves DOWN once the device is booted; a route entry is set as a whole; the neighbour command sends one packet and is
busy until its answer or its timeout, and fails at once on a link that is not ACTIVE. -/
def Sys2Proof.Claims.FabricRegistersComplete : Prop :=
  ∀ (s : State),
    (∀ id : BitVec 12, ∃ t, exec (.fabctlDevidWrite id) s = .next t
        ∧ t = { s with fab := { s.fab with devid := id, master := if s.fab.bridge then id else s.fab.master }, links := t.links }
        ∧ ∀ port, ((s.link port).state ≠ .active → t.link port = s.link port)
          ∧ ((s.link port).state = .active → ∃ p, t.link port = { s.link port with txq := (s.link port).txq ++ [p] }
              ∧ p.cls = 4 ∧ p.op = 4 ∧ p.dst = 0xFFF ∧ p.hops = 0 ∧ p.body = [id.setWidth 64]))
    ∧ (∀ en : BitVec 16, (∀ port : BitVec 4, en.getLsbD port.toNat = false → (s.link port).state = .down) →
        ∃ t, exec (.fabctlLnkenWrite en) s = .next t ∧ t = { s with fab := { s.fab with lnken := en }, links := t.links }
          ∧ ∀ port : BitVec 4, t.link port = if en.getLsbD port.toNat = true ∧ (s.link port).state = .down ∧ s.pkg.bootState = 4 then
              { s.link port with state := .detect, since := s.pkg.dtime.toNat, fecfix := 0, naks := 0, retrains := 0 } else s.link port)
    ∧ (∀ en : BitVec 16, ∃ t, exec (.fabctlLnkenWrite en) s = .next t
        ∧ ∀ port : BitVec 4, en.getLsbD port.toNat = false → (t.link port).state = .down)
    ∧ (∀ v : Word, s.fab.held = [] →
        let i := v.toNat / 2 ^ 32 % 4096
        let e : BitVec 8 := v.setWidth 8 &&& 0xCF
        exec (.rtaccSet v) s = .next { s with fab := { s.fab with rtIdx := BitVec.ofNat 12 i, rtEntry := e, route := tsetD s.fab.route i e 0 } })
    ∧ (∀ v : Word, ∀ x ∈ [(Instr.nbcmdRead v, v &&& ~~~ 0x80000000000, (0 : BitVec 5), ([] : List Word))
                        , (.nbcmdWrite v, v ||| 0x80000000000, 2, [s.fab.nbdata])],
        let port : BitVec 4 := BitVec.ofNat 4 (v.toNat / 2 ^ 44)
        let kept := x.2.1 &&& 0xF8000000FFFF
        (s.fab.nbcmd.getLsbD 63 = true → exec x.1 s = .next s)
        ∧ (s.fab.nbcmd.getLsbD 63 = false → (s.link port).state ≠ .active →
            exec x.1 s = .next { s with fab := { s.fab with nbcmd := kept ||| 0x1000000000000 } })
        ∧ (s.fab.nbcmd.getLsbD 63 = false → (s.link port).state = .active → ∃ t p, exec x.1 s = .next t
            ∧ t.fab = { s.fab with nbcmd := kept ||| 0x8000000000000000, nextTag := s.fab.nextTag + 1
                                   reqs := s.fab.reqs ++ [{ tag := s.fab.nextTag, dst := 0xFFF, port := port, since := s.pkg.dtime.toNat
                                                            waiter := .nbcmd, lease := none }] }
            ∧ OnlyLink { s with fab := t.fab } t port { s.link port with txq := (s.link port).txq ++ [p] }
            ∧ p.cls = 4 ∧ p.op = x.2.2.1 ∧ p.tag = s.fab.nextTag ∧ p.dst = 0xFFF ∧ p.hops = 0
            ∧ p.body.tail = x.2.2.2 ∧ (p.body.headD 0).toNat % 2 ^ 16 = v.toNat % 2 ^ 16))
    ∧ (∀ p, (∀ r ∈ s.fab.reqs, ¬ (r.waiter = .nbcmd ∧ r.tag = p.tag ∧ r.port = p.port)) → exec (.nbcmdAnswer p) s = .next s)
    ∧ (∀ p r rest, FirstReq s (fun r => r.waiter = .nbcmd ∧ r.tag = p.tag ∧ r.port = p.port) r rest →
        let st := (p.body.headD 0).toNat % 256
        ∃ t, exec (.nbcmdAnswer p) s = .next t
          ∧ NbEnds s t rest (if st = 0 then 0 else if st = 0xFF then 2 else if st = 0xFE then 1 else 3)
              (if st = 0 ∧ s.fab.nbcmd.getLsbD 43 = false then p.body.getD 1 0 else s.fab.nbdata))
    ∧ ((∀ r ∈ s.fab.reqs, r.waiter = .nbcmd → s.pkg.dtime.toNat < r.since + 2 * lrTicks s) → exec .nbcmdTimeout s = .next s)
    ∧ (∀ r rest, FirstReq s (fun r => r.waiter = .nbcmd ∧ r.since + 2 * lrTicks s ≤ s.pkg.dtime.toNat) r rest →
        ∃ t, exec .nbcmdTimeout s = .next t ∧ NbEnds s t rest 2 s.fab.nbdata)
    ∧ (∀ p, isNeighbour p = true → MakesLink (.mgtLinkEvent p) s p.port { s.link p.port with peerid := (p.body.headD 0).setWidth 12 })
    ∧ (∀ p, isNeighbour p = false → exec (.mgtLinkEvent p) s = .next s)

/-- The management block and the bridge's windows (03 R61 to R65, R70, R74): a register reads as its table says and holds what is written to its stored
bits, error counters are cleared by ones, supervisor pages answer in boot state 4 only (02 R48); the memory window and CXL.mem reach context memory of
the bridge; a neighbour reaches the registers through packets; an access that cannot be made, or is not 4 or 8 bytes long and aligned, reads as all
ones and writes nothing. -/
def Sys2Proof.Claims.ManagementBlockCompletes : Prop :=
  ∀ (s : State),
    (∀ p ∈ storedMgt, ∀ data : Word, ∃ t, exec (.registerWrite .mgt p.1 .whole data) s = .next t ∧ mgtRead t p.1.toNat = data &&& p.2
        ∧ t = { s with pkg := t.pkg, fab := t.fab } ∧ ∀ q ∈ storedMgt, q.1 ≠ p.1 → mgtRead t q.1.toNat = mgtRead s q.1.toNat)
    ∧ (∀ data : Word, ∃ t, exec (.registerWrite .mgt 0x0040 .whole data) s = .next t
        ∧ mgtRead t 0x0040 = mgtRead s 0x0040 &&& ~~~ data ∧ t = { s with pkg := t.pkg })
    ∧ (s.pkg.bootState ≠ 4 → ∀ c off h data, exec (.registerWrite (.sup c) off h data) s = .next s)
    ∧ (s.pkg.bootState = 4 → ∀ c, ∀ p ∈ storedSup, ∀ data : Word, ∃ t, exec (.registerWrite (.sup c) p.1 .whole data) s = .next t ∧ supRead t c p.1.toNat = data &&& p.2
        ∧ t = { s with ctxs := t.ctxs } ∧ (∀ d, d ≠ c → t.ctx d = s.ctx d) ∧ ∀ q ∈ storedSup, q.1 ≠ p.1 → supRead t c q.1.toNat = supRead s c q.1.toNat)
    ∧ (∀ b (off : BitVec 16) h data, off.toNat % 8 ≠ 0 ∨ h = .odd → exec (.registerWrite b off h data) s = .next s)
    ∧ (∀ p ∈ shownMgt s, ∀ h, s.fab.bridge = true → s.pkg.bootState = 4 →
        ∃ t, exec (.slotManagementAccess 0 .mgt p.1 h none) s = .next t ∧ Gives s t (.read (halfOf h p.2)))
    ∧ (∀ p ∈ storedMgt, ∀ data : Word, s.fab.bridge = true → s.pkg.bootState = 4 →
        exec (.slotManagementAccess 0 .mgt p.1 .whole (some data)) s = exec (.registerWrite .mgt p.1 .whole data) s)
    ∧ (∀ slot b (off : BitVec 16) h, off.toNat % 8 ≠ 0 ∨ h = .odd ∨ s.fab.bridge = false ∨ (s.pkg.bootState ≠ 4 ∧ s.pkg.bootState ≠ 5) →
        (∃ t, exec (.slotManagementAccess slot b off h none) s = .next t ∧ Gives s t (.read (BitVec.allOnes 64)))
        ∧ ∀ data, exec (.slotManagementAccess slot b off h (some data)) s = .next s)
    ∧ (∀ (off : BitVec 15) h,
        let pa := s.pkg.mwbase.toNat + off.toNat + (halfAt h).1
        let n := (halfAt h).2
        (off.toNat % 8 ≠ 0 ∨ h = .odd ∨ contextTop < pa + n → (∃ t, exec (.memoryWindowRead off h) s = .next t ∧ Gives s t (.read (BitVec.allOnes 64)))
          ∧ ∀ data, exec (.memoryWindowWrite off h data) s = .next s)
        ∧ (off.toNat % 8 = 0 → h ≠ .odd → pa + n ≤ contextTop → poisoned s pa n = false →
            (∃ t, exec (.memoryWindowRead off h) s = .next t ∧ OnlyReads s t (.read (BitVec.ofNat 64 (memNat s.mem pa n))))
            ∧ ∀ data : Word, Memory.wf s.mem = true → ∃ t, exec (.memoryWindowWrite off h data) s = .next t ∧ HomeStores s t pa (leBytes n data.toNat)))
    ∧ (∀ pa len (data : List Byte), s.hostReady = true → pa + len ≤ contextTop → data.length = len → Memory.wf s.mem = true →
        ∃ t, exec (.cxlMemAccess pa (some data) len) s = .next t ∧ HomeStores s t pa data)
    ∧ (∀ pa len, s.hostReady = true → pa + len ≤ contextTop → poisoned s pa len = false →
        ∃ t, exec (.cxlMemAccess pa none len) s = .next t ∧ OnlyReads s t (.memData (memRead s.mem pa len) false))
    ∧ (∀ pa len, s.hostReady = false ∨ contextTop < pa + len → (∀ data, exec (.cxlMemAccess pa (some data) len) s = .next s)
        ∧ ∃ t, exec (.cxlMemAccess pa none len) s = .next t ∧ Gives s t (.memData (List.replicate len 0xFF) false))
    ∧ (∀ q h, s.hostReady = true → h ≠ .odd →
        (tget s.queues q.toNat = none → ∃ t, exec (.insertionStatusRead 0 q 0 h) s = .next t ∧ Gives s t (.read 0))
        ∧ (∀ d, tget s.queues q.toNat = some d → ∃ t, exec (.insertionStatusRead 0 q 0 h) s = .next t
            ∧ Gives s t (.read (halfOf h (BitVec.ofNat 64 (2 ^ 63 + d.ctx.toNat * 2 ^ 32 + (2 ^ (d.cap.toNat + 4) - d.recs.length)))))))
    ∧ (∀ slot q (off : BitVec 12) h, s.hostReady = false ∨ off.toNat % 8 ≠ 0 ∨ h = .odd → ∃ t, exec (.insertionStatusRead slot q off h) s = .next t ∧ Gives s t (.read (BitVec.allOnes 64)))
    ∧ (∀ p, isNeighbour p = true → let w := p.body.headD 0
        (w.toNat % 8 ≠ 0 ∨ 0x8000 ≤ w.toNat % 2 ^ 16 →
          (∃ q, MakesLink (.mgtRegisterRead p) s p.port { s.link p.port with txq := (s.link p.port).txq ++ [q] } ∧ q.cls = p.cls ∧ q.op = 1 ∧ q.tag = p.tag
            ∧ q.body = [3, 0])
          ∧ ∃ q, MakesLink (.mgtRegisterWrite p) s p.port { s.link p.port with txq := (s.link p.port).txq ++ [q] } ∧ q.cls = p.cls ∧ q.op = 3
            ∧ q.tag = p.tag ∧ q.body = [3])
        ∧ (∀ x ∈ shownMgt s, w.toNat = x.1.toNat →
            ∃ q, MakesLink (.mgtRegisterRead p) s p.port { s.link p.port with txq := (s.link p.port).txq ++ [q] } ∧ q.cls = p.cls ∧ q.op = 1
              ∧ q.tag = p.tag ∧ q.body = [0, x.2])
        ∧ (∀ x ∈ storedMgt, ∀ data, p.body = [x.1.setWidth 64, data] → ∃ u t q, exec (.registerWrite .mgt x.1 .whole data) s = .next u
            ∧ exec (.mgtRegisterWrite p) s = .next t ∧ OnlyLink u t p.port { s.link p.port with txq := (s.link p.port).txq ++ [q] } ∧ q.cls = p.cls
            ∧ q.op = 3 ∧ q.tag = p.tag ∧ q.body = [0]))
    ∧ (∀ p, (∀ r ∈ s.fab.reqs, ¬ (r.tag = p.tag ∧ r.dst = p.src)) → exec (.mgtRegisterData p) s = .next s ∧ exec (.mgtAcknowledge p) s = .next s)
    ∧ (∀ p r rest, FirstReq s (fun r => r.tag = p.tag ∧ r.dst = p.src) r rest → (p.body.headD 0).toNat % 256 = 0 →
        let u : State := { s with fab := { s.fab with reqs := rest } }
        (r.waiter = .slotMgmt false → ∃ t, exec (.mgtRegisterData p) s = .next t ∧ Gives u t (.read (p.body.getD 1 0)))
        ∧ (r.waiter = .slotMgmt true → exec (.mgtAcknowledge p) s = .next u))

/-- The fabric registers, the management block and the bridge's windows. -/
def Obligations.FabricAndManagementComplete : Prop := FabricRegistersComplete ∧ ManagementBlockCompletes

/-! ### The host's packets and insertions -/

namespace Sys2Proof.Claims

/-- The words of a task record. -/
def wordsOf (t : TaskRec) : List Word := [t.w0, t.w1, t.w2, t.w3, t.w4, t.w5, t.w6, t.w7]

/-- A reply reaches the hart that waits for a request; the request is no longer outstanding (01 R32). -/
def Replied (s : State) (rest : List Request) (ref : HartRef) (q : Reply) : State :=
  State.modHart { s with fab := { s.fab with reqs := rest } } ref
    (fun h => if h.wait = .reply q.tag then { h with replies := h.replies ++ [q], wait := .none } else h)

/-- An answer goes to this device itself, or by a route. -/
def Answers (s : State) (p : Packet) : State := if p.dst = s.fab.devid then { s with agenda := s.agenda ++ [.packet p] } else Leaves s p

/-- One more in the count of lost insertions (03 Table 3.3). -/
def moreLost (s : State) : State := { s with pkg := { s.pkg with insLost := BitVec.ofNat 32 (min (2 ^ 32 - 1) (s.pkg.insLost.toNat + 1)) } }

/-- A host packet's span is one that the bridge takes (03 Table 3.3b), and the host port does not reject its addresses (03 R71). -/
def hostAsks (s : State) (p : Packet) : Prop :=
  s.fab.bridge = true ∧ 1 ≤ (p.body.headD 0).toNat / 2 ^ 56 ∧ (p.body.headD 0).toNat / 2 ^ 56 ≤ 128
    ∧ hostRejects s ((p.body.headD 0).toNat % 2 ^ 52) ((p.body.headD 0).toNat / 2 ^ 56) = false

/-- The bytes of words. -/
def bytesOf (ws : List Word) : List Byte := ws.flatMap (fun w => leBytes 8 w.toNat)

end Sys2Proof.Claims

/-- Packets of this device's own (01 R34, R35, R39) and host packets (03 R71, 08 R209): a device without an id sends none by routes; a packet for the
device itself arrives here; else it leaves by its route, is held at the source when its entry says so, or fails without a route. A bridge asks the
host for a read and relays the answer, and passes a write on and acknowledges it, with 15 hops; any other host packet, one whose addresses the host
port rejects among them, is refused; an answer reaches the hart that waits for it. -/
def Sys2Proof.Claims.HostPacketsComplete : Prop :=
  ∀ (s : State),
    (∀ p : Packet,
      let e := tgetD s.fab.route p.dst.toNat 0
      let port : BitVec 4 := e.setWidth 4
      (s.fab.devid = 0xFFF → Leaves s p = s)
      ∧ (s.fab.devid ≠ 0xFFF → p.dst = s.fab.devid → Leaves s p = { s with agenda := s.agenda ++ [.packet p] })
      ∧ (p.dst ≠ s.fab.devid → e.getLsbD 7 = false → Leaves s p = s)
      ∧ (p.dst ≠ s.fab.devid → s.fab.devid ≠ 0xFFF → e.getLsbD 7 = true →
          (e.getLsbD 6 = true → Leaves s p = { s with fab := { s.fab with held := s.fab.held ++ [p] } })
          ∧ (e.getLsbD 6 = false → OnlyLink s (Leaves s p) port { s.link port with txq := (s.link port).txq ++ [{ p with port := port }] })))
    ∧ (∀ p, hostAsks s p → let n := (p.body.headD 0).toNat / 2 ^ 56; let a := (p.body.headD 0).toNat % 2 ^ 52
        exec (.hostRead p) s = .next { s with
          hostOut := s.hostOut ++ [.memRead s.fab.nextTag a n]
          fab := { s.fab with nextTag := s.fab.nextTag + 1
                              reqs := s.fab.reqs ++ [{ tag := s.fab.nextTag, dst := s.fab.devid, port := 0xF, since := s.pkg.dtime.toNat
                                                       waiter := .hostRead p.src p.tag, lease := none }] } }
        ∧ ∃ q, exec (.hostWrite p) s = .next (Answers { s with hostOut := s.hostOut ++ [.write a ((bytesOf p.body.tail).take n)] } q)
            ∧ q.dst = p.src ∧ q.cls = p.cls ∧ q.op = 3 ∧ q.tag = p.tag ∧ q.hops = 15 ∧ q.body = [0])
    ∧ (∀ p, ¬ hostAsks s p → ∀ i ∈ [Instr.hostRead p, .hostWrite p],
        ∃ q, exec i s = .next (Answers s q) ∧ q.dst = p.src ∧ q.cls = p.cls ∧ q.op = 5 ∧ q.tag = p.tag ∧ q.body = [1])
    ∧ (∀ p, (∀ r ∈ s.fab.reqs, ¬ (r.tag = p.tag ∧ r.dst = p.src)) →
        ∀ i ∈ [Instr.hostReadData p, .hostWriteAck p, .hostErrorResponse p], exec i s = .next s)
    ∧ (∀ p r rest ref, FirstReq s (fun r => r.tag = p.tag ∧ r.dst = p.src) r rest → r.waiter = .hart ref → r.lease = none →
        let st : BitVec 8 := (p.body.headD 0).setWidth 8
        exec (.hostReadData p) s = .next (Replied s rest ref { tag := r.tag, status := st, data := bytesOf p.body.tail, time := s.pkg.dtime.toNat })
        ∧ exec (.hostErrorResponse p) s = .next (Replied s rest ref { tag := r.tag, status := 0xFF, data := [], time := s.pkg.dtime.toNat }))
    ∧ (∀ p r rest ref h w, FirstReq s (fun r => r.tag = p.tag ∧ r.dst = p.src) r rest → r.waiter = .write ref → (p.body.headD 0).toNat % 256 = 0 →
        s.hart = h → h.live = true → h.ref = ref → h.posted = [w] → w.tag = r.tag → w.failed = false → (∀ rd, h.wait ≠ .stv rd none) →
        exec (.hostWriteAck p) s = .next { s with
          fab := { s.fab with reqs := rest }
          hart := { h with posted := [], vispend := BitVec.ofNat 64 (max h.vispend.toNat s.pkg.dtime.toNat) } })
    ∧ (∀ tag good data, (∀ r ∈ s.fab.reqs, ¬ (r.tag = tag ∧ r.dst = s.fab.devid)) → exec (.hostPortCompletion tag good data) s = .next s)
    ∧ (∀ tag good data r rest, FirstReq s (fun r => r.tag = tag ∧ r.dst = s.fab.devid) r rest →
        (∀ ref, r.waiter = .hart ref → r.lease = none → exec (.hostPortCompletion tag good data) s
          = .next (Replied s rest ref { tag := r.tag, status := if good then 0 else 0xFF, data := bytesOf data, time := s.pkg.dtime.toNat }))
        ∧ (∀ src tg, r.waiter = .hostRead src tg →
            ∃ q, exec (.hostPortCompletion tag good data) s = .next (Answers { s with fab := { s.fab with reqs := rest } } q)
              ∧ q.dst = src ∧ q.cls = 3 ∧ q.tag = tg ∧ (good = true → q.op = 1 ∧ q.body = 0 :: data) ∧ (good = false → q.op = 5 ∧ q.body = [1])))

/-- Host insertions (03 R66 to R70, 05 R119): one whole aligned write is taken, and any other counted as bad; it leaves for its device once the host's
earlier writes are answered and visible, and is lost without one; at its device it joins the queue it names if that has room, and is reported otherwise, and
the bridge counts every report but that of a spill as lost. -/
def Sys2Proof.Claims.InsertionsComplete : Prop :=
  ∀ (s : State),
    (∀ slot q off whole rec, s.hostReady = false → exec (.hostInsertion slot q off whole rec) s = .next s)
    ∧ (∀ slot q (off : BitVec 12) whole rec, s.hostReady = true →
        (whole = true → off.toNat % 64 = 0 → ∃ x, exec (.hostInsertion slot q off whole rec) s = .next { s with insertions := s.insertions ++ [x] }
          ∧ x.slot = slot ∧ x.queue = q ∧ x.task = rec ∧ x.vis = s.fab.hostVis ∧ ∀ tag, tag ∈ x.after ↔ ∃ r ∈ s.fab.reqs, r.waiter = .slotMgmt true ∧ r.tag = tag)
        ∧ (whole = false ∨ off.toNat % 64 ≠ 0 → OnlyPkg (.hostInsertion slot q off whole rec) s { s.pkg with insBad := oneMore s.pkg.insBad }))
    ∧ (s.insertions = [] → exec .insertionSend s = .next s)
    ∧ (∀ x rest, s.insertions = x :: rest →
        ((∃ r ∈ s.fab.reqs, r.waiter = .slotMgmt true ∧ r.tag ∈ x.after) ∨ s.pkg.dtime.toNat < x.vis → exec .insertionSend s = .next s)
        ∧ ((∀ r ∈ s.fab.reqs, r.waiter = .slotMgmt true → r.tag ∉ x.after) → x.vis ≤ s.pkg.dtime.toNat →
            let u : State := { s with insertions := rest }
            (x.slot ≠ 0 → (tgetD s.fab.grpmap x.slot.toNat 0).getLsbD 63 = false → exec .insertionSend s = .next (moreLost u))
            ∧ (x.slot = 0 → ∃ q, exec .insertionSend s = .next { u with agenda := s.agenda ++ [.packet q] }
                ∧ q.dst = s.fab.devid ∧ q.src = s.fab.devid ∧ q.cls = 2 ∧ q.op = 0 ∧ q.chan = 2
                ∧ q.body = BitVec.ofNat 64 (2 ^ 32 + x.queue.toNat) :: wordsOf x.task)))
    ∧ (∀ p, (p.body.headD 0).getLsbD 32 = false → exec (.queueInsertionArrival p) s = .next s)
    ∧ (∀ p, (p.body.headD 0).getLsbD 32 = true → p.src ≠ s.fab.master → ∃ t, exec (.queueInsertionArrival p) s = .next t ∧ Drops s t p.port)
    ∧ (∀ p task, (p.body.headD 0).getLsbD 32 = true → p.src = s.fab.master → p.body.tail = wordsOf task →
        let k := (p.body.headD 0).toNat % 2 ^ 16
        let plain : TaskRec := { task with w0 := task.w0 &&& 0x7FFFFFFFFF }
        (tget s.queues k = none → ∃ q, exec (.queueInsertionArrival p) s = .next (Answers s q)
          ∧ q.dst = p.src ∧ q.cls = 3 ∧ q.op = 4 ∧ q.body = BitVec.ofNat 64 (k + 3 * 2 ^ 16) :: wordsOf task)
        ∧ (∀ d, tget s.queues k = some d → (s.ctx d.ctx).state = .running ∨ (s.ctx d.ctx).state = .stopped →
            (taskOk plain = true → d.recs.length < 2 ^ (d.cap.toNat + 4) → ∃ t r, exec (.queueInsertionArrival p) s = .next t
              ∧ t = { s with queues := t.queues } ∧ (∀ j, tget t.queues j = if j = k then some { d with recs := d.recs ++ [r] } else tget s.queues j)
              ∧ r.task = plain ∧ r.pc = none ∧ r.pusher = d.ctx ∧ r.rel = none ∧ r.bad = false)
            ∧ (taskOk plain = false → ∃ f q, exec (.queueInsertionArrival p) s = .next (Answers (s.postFault d.ctx f) q)
              ∧ f.kind = 5 ∧ f.cause = 0x0E ∧ f.queue.toNat = k ∧ q.dst = p.src ∧ q.cls = 3 ∧ q.op = 4
              ∧ q.body = BitVec.ofNat 64 (k + 2 * 2 ^ 16) :: wordsOf task)))
    ∧ (∀ p, exec (.insertionReport p) s = .next (if (p.body.headD 0).toNat / 2 ^ 16 % 256 = 1 then s else moreLost s))

/-- Host packets and host insertions. -/
def Obligations.HostTrafficCompletes : Prop := HostPacketsComplete ∧ InsertionsComplete

/-! ### Contexts -/

namespace Sys2Proof.Claims

/-- The keys of a table rise. -/
def Sorted {α : Type} (t : Table α) : Prop := t.Pairwise (fun a b => a.1 < b.1)

/-- Of the machine only one context differs. -/
def OnlyCtx (s t : State) (c : BitVec 8) : Prop := t = { s with ctxs := t.ctxs } ∧ ∀ d, d ≠ c → t.ctx d = s.ctx d

/-- The event completes, and of the machine only the context differs, which is now `x`. -/
def MakesCtx (i : Instr) (s : State) (c : BitVec 8) (x : Ctx) : Prop := ∃ t, exec i s = .next t ∧ OnlyCtx s t c ∧ t.ctx c = x

/-- A gang of the context is resident (05 R135). -/
def HasGangs (s : State) (c : BitVec 8) : Prop := ∃ p ∈ s.gangs, p.2.ctx = c ∧ p.2.saved = false

/-- The gangs `p` of a table are changed by `f`, and no other. -/
def ChangesGangs (s t : State) (p : Gang → Prop) [DecidablePred p] (f : Gang → Gang) : Prop :=
  ∀ g, tget t.gangs g = (tget s.gangs g).map (fun y => if p y then f y else y)

/-- Class L writes of a context are on their way or not performed (03 R81 step 4). -/
def WritesLeft (s : State) (c : BitVec 8) : Prop :=
  (∃ w ∈ s.ltransit, w.ctx = c ∧ w.foreign = false) ∨ ∃ w ∈ s.lwrites, w.ctx = c ∧ w.foreign = false ∧ w.performed = false

/-- A reset of the context still waits (03 R81): for class L writes, for the answers to requests and posted writes of its harts, and for the bank
commands of the clusters in which it holds a bank or a slot (07 R177). -/
def ResetWaits (s : State) (c : BitVec 8) : Prop :=
  WritesLeft s c
    ∨ (∃ r ∈ s.fab.reqs, ∃ ref h, (r.waiter = .hart ref ∨ r.waiter = .write ref) ∧ s.findHart ref = some h ∧ h.ctx = c)
    ∨ (∃ p ∈ s.banks, (p.2.holder = .ctx c ∨ ∃ g, p.2.holder = .gang c g) ∧ (s.cluster (BitVec.ofNat 5 (p.1 / 192))).bankCmd ≠ [])
    ∨ ∃ h ∈ s.allHarts, h.ctx = c ∧ (s.cluster (clusterOf h.core)).bankCmd ≠ []

/-- A hart that a reset has stopped: it holds its slot, and does nothing. -/
def halted (h : Hart) : Hart := { h with wait := .halted, disp := [], stripDue := [], replies := [], rep := none }

/-- An invalidation with a `tlbinv` value names a cached translation (03 R89). -/
def Names (v : Word) (c : BitVec 8) (e : TlbEntry) : Prop :=
  e.ctx = c ∧ ¬ (v.getLsbD 1 = true ∧ e.leaf.getLsbD 5 = true)
    ∧ (v.getLsbD 0 = true ∨ (v.toNat / 2 ^ 12 % 2 ^ 36 * 2 ^ 12) / 2 ^ e.bits = e.base / 2 ^ e.bits)

/-- A context has the bank. -/
def ofCtx (b : Bank) (c : BitVec 8) : Prop := b.holder = .ctx c ∨ ∃ g, b.holder = .gang c g

end Sys2Proof.Claims

/-- The states of a context (03 R73, Table 3.3c): `alloc` creates it, with empty code tables (11 R301), and frees it, `run` starts it and asks for a
stop, which ends when no gang of it is resident and which `run` takes back meanwhile, so that the harts that were to be saved wait again for what
they waited for (10 R260); a write that its state does not allow changes nothing. -/
def Sys2Proof.Claims.ContextStatesChange : Prop :=
  ∀ (s : State) (c : BitVec 8), let x := s.ctx c
    (x.state = .free → s.pkg.bootState = 4 → MakesCtx (.ctxctlAllocSet c) s c { x with state := .stopped, ssvpool := 0, codes := [] })
    ∧ (x.state ≠ .free ∨ s.pkg.bootState ≠ 4 → exec (.ctxctlAllocSet c) s = .next s)
    ∧ (x.state = .stopped → MakesCtx (.ctxctlAllocClear c) s c { x with state := .free })
    ∧ (x.state ≠ .stopped → exec (.ctxctlAllocClear c) s = .next s)
    ∧ (x.state = .stopped → MakesCtx (.ctxctlRunSet c) s c { x with state := .running, run := true })
    ∧ (x.state = .running → x.stopPending = true → ∃ t, exec (.ctxctlRunSet c) s = .next t
        ∧ t = { s with ctxs := t.ctxs, gangs := t.gangs, hart := t.hart, harts := t.harts }
        ∧ t.ctx c = { x with stopPending := false, run := true } ∧ (∀ d, d ≠ c → t.ctx d = s.ctx d)
        ∧ ChangesGangs s t (fun y => y.ctx = c ∧ y.saved = false) (fun y => { y with preempt := false, savedRanks := 0, boundary := 0 })
        ∧ t.allHarts = s.allHarts.map (fun h => if h.ctx = c ∧ h.wait = .saved then { h with wait := s.waitBack h } else h)
        ∧ ∀ h g, tget s.gangs h.gang.toNat = some g →
            (g.barArr.getLsbD h.rank.toNat = true → g.ended = 0 → s.waitBack h = .gbar)
            ∧ (g.barArr.getLsbD h.rank.toNat = false ∨ g.ended ≠ 0 → ∀ w, (tget g.carry h.rank.toNat).bind (fun k => k.resume) = some (h.pc, w) →
                s.waitBack h = w))
    ∧ (x.state ≠ .stopped → x.state ≠ .running ∨ x.stopPending = false → exec (.ctxctlRunSet c) s = .next s)
    ∧ (x.state = .running → x.run = true → ¬ HasGangs s c →
        MakesCtx (.ctxctlRunClear c) s c { x with state := .stopped, run := false, stopPending := false })
    ∧ (x.state = .running → x.run = true → HasGangs s c → ∃ t, exec (.ctxctlRunClear c) s = .next t
        ∧ t = { s with ctxs := t.ctxs, gangs := t.gangs } ∧ t.ctx c = { x with stopPending := true, run := false } ∧ (∀ d, d ≠ c → t.ctx d = s.ctx d)
        ∧ ChangesGangs s t (fun y => y.ctx = c ∧ y.saved = false ∧ y.frame.isSome = true ∧ 2 ≤ y.policy.toNat) (fun y => { y with preempt := true }))
    ∧ (x.state ≠ .running ∨ x.run = false → exec (.ctxctlRunClear c) s = .next s)
    ∧ (x.state = .running → x.stopPending = true → ¬ HasGangs s c →
        MakesCtx (.pendingStopComplete c) s c { x with state := .stopped, stopPending := false })
    ∧ (x.state ≠ .running ∨ x.stopPending = false ∨ HasGangs s c → exec (.pendingStopComplete c) s = .next s)

/-- Context reset (03 R81, 10 R269) and translations (03 R85, R89 to R91): a reset stops every hart of the context at once and drops its transfers,
audits and unsent calls, waits for what has left its harts, and then frees all it holds and leaves it STOPPED, with a new epoch; where one of its task
records has an error, that is reported in the end (02 R55). An invalidation drops what it names, and what the walk caches hold of the context (log
6); a walk gives the leaf it finds to the second-level TLBs of its die, shown for tables without an error of which none is in the walk cache. A hart
that another shares the slot of the current one with is not spoken of. -/
def Sys2Proof.Claims.ContextsAreResetAndInvalidated : Prop :=
  ∀ (s : State) (c : BitVec 8), let x := s.ctx c
    (x.state = .free ∨ x.state = .resetting → exec (.ctxctlRst c) s = .next s)
    ∧ (x.state = .dumping → s.dumpCtx = some c → MakesCtx (.ctxctlRst c) s c { x with resetHeld := true })
    ∧ (x.state = .stopped ∨ x.state = .running ∨ x.state = .dead ∨ (x.state = .dumping ∧ s.dumpCtx ≠ some c) →
        ∃ t, exec (.ctxctlRst c) s = .next t
          ∧ t = { s with ctxs := t.ctxs, dumpWaiting := t.dumpWaiting, hart := t.hart, harts := t.harts, clusters := t.clusters, dies := t.dies
                         cores := t.cores, rings := t.rings, fab := { s.fab with reqs := t.fab.reqs } }
          ∧ t.ctx c = { x with state := .resetting, run := false, stopPending := false, resetHeld := false } ∧ (∀ d, d ≠ c → t.ctx d = s.ctx d)
          ∧ (∀ d, d ∈ t.dumpWaiting ↔ d ∈ s.dumpWaiting ∧ d ≠ c)
          ∧ t.allHarts = s.allHarts.map (fun h => if h.ctx = c then halted h else h)
          ∧ (∀ k, t.cluster k = { s.cluster k with stream := (s.cluster k).stream.filter (fun e => e.ctx ≠ c)
                                                   escrow := (s.cluster k).escrow.filter (fun e => e.ctx ≠ c) })
          ∧ (∀ k, t.die k = { s.die k with sort := (s.die k).sort.filter (fun e => e.ctx ≠ c) })
          ∧ (∀ k, t.core k = { s.core k with send := (s.core k).send.filter (fun e => e.2.ctx ≠ c ∨ e.2.sent = true) })
          ∧ (∀ j, j ∈ t.rings ↔ j ∈ s.rings ∧ j.ctx ≠ c)
          ∧ ∀ r, (r ∈ t.fab.reqs → r ∈ s.fab.reqs) ∧ (r ∈ s.fab.reqs → (∀ k, r.waiter ≠ .audit k) → (∀ k g p a, r.waiter ≠ .drop c k g p a) → r ∈ t.fab.reqs))
    ∧ (x.state ≠ .resetting ∨ ResetWaits s c → exec (.contextResetComplete c) s = .next s)
    ∧ (x.state = .resetting → ¬ ResetWaits s c → ∃ t, exec (.contextResetComplete c) s = .next t ∧ (t.ctx c).state = .stopped)
    ∧ (x.state = .resetting → ¬ ResetWaits s c → Sorted s.queues → Sorted s.banks →
        (∀ p ∈ s.queues, p.2.ctx = c → ∀ r ∈ p.2.recs, r.bad = false) → (∀ k ∈ s.park, k.bad = false) →
        ∃ t, exec (.contextResetComplete c) s = .next t
        ∧ t = { s with ctxs := t.ctxs, gangs := t.gangs, tickets := t.tickets, tlb := t.tlb, queues := t.queues, park := t.park, pkg := t.pkg
                       cores := t.cores, dies := t.dies, banks := t.banks, reports := t.reports, hart := t.hart, harts := t.harts
                       linkTable := t.linkTable }
        ∧ t.pkg = { s.pkg with qsfree := t.pkg.qsfree }
        ∧ t.ctx c = { x with state := .stopped, codes := [], evq := 0, fqhead := 0, fqtail := 0, ovhead := 0, ovtail := 0, ssvpool := 0, frames := []
                             tlbinv := [], epoch := x.epoch + 1, adis := false, sauSticky := false, dumpRecs := [], dumpFault := none }
        ∧ (∀ d, d ≠ c → t.ctx d = s.ctx d)
        ∧ (∀ h ∈ t.allHarts, h ∈ s.allHarts ∧ (h.ctx = c → h.live = true → s.hart.live = true ∧ h.ref = s.hart.ref ∧ s.hart.ctx ≠ c))
        ∧ (∀ h ∈ s.allHarts, (∀ k ∈ s.allHarts, k.ctx = c → k.ref ≠ h.ref) → h ∈ t.allHarts)
        ∧ OnlyBreaks s t
        ∧ (∀ p, p ∈ t.gangs ↔ p ∈ s.gangs ∧ p.2.ctx ≠ c) ∧ (∀ k, k ∈ t.tickets ↔ k ∈ s.tickets ∧ k.ctx ≠ c) ∧ (∀ e, e ∈ t.tlb ↔ e ∈ s.tlb ∧ e.ctx ≠ c)
        ∧ (∀ q, tget t.queues q = (tget s.queues q).filter (fun d => d.ctx ≠ c))
        ∧ (∀ p, p ∈ t.park ↔ p ∈ s.park ∧ ¬ ∃ d, tget s.queues p.qid.toNat = some d ∧ d.ctx = c)
        ∧ (∀ k, t.die k = { s.die k with missQ := (s.die k).missQ.filter (fun m => m.ctx ≠ c), walks := (s.die k).walks.filter (fun w => w.ctx ≠ c) })
        ∧ (∀ k, t.core k = { s.core k with arit := (t.core k).arit, purses := (t.core k).purses })
        ∧ ∀ i, (s.bank i).mode ≠ .X →
            (ofCtx (s.bank i) c → t.bank i = { Bank.reset i with mode := .S }) ∧ (¬ ofCtx (s.bank i) c → t.bank i = s.bank i))
    ∧ (∀ v, (s.pkg.bootState = 4 → MakesCtx (.tlbinvWrite c v) s c { x with tlbinv := x.tlbinv ++ [{ val := v }] })
        ∧ (s.pkg.bootState ≠ 4 → exec (.tlbinvWrite c v) s = .next s))
    ∧ (x.tlbinv = [] → exec (.tlbInvalidationComplete c) s = .next s)
    ∧ (∀ v rest, x.tlbinv = { val := v } :: rest → ∃ t, exec (.tlbInvalidationComplete c) s = .next t
        ∧ t = { s with tlb := t.tlb, ctxs := t.ctxs, dies := t.dies }
        ∧ t.ctx c = { x with tlbinv := rest } ∧ (∀ d, d ≠ c → t.ctx d = s.ctx d) ∧ (∀ e, e ∈ t.tlb ↔ e ∈ s.tlb ∧ ¬ Names v c e)
        ∧ ∀ k, t.die k = { s.die k with walks := (s.die k).walks.filter (fun w => w.ctx ≠ c) })
    ∧ (∀ die (va : Word), let q := (s.die die).missQ
        let same : Prop := ∃ m ∈ q, m.ctx = c ∧ m.va.toNat / 2 ^ 12 % 2 ^ 36 = va.toNat / 2 ^ 12 % 2 ^ 36
        (same → exec (.translationMiss die c va) s = .next s)
        ∧ (¬ same → ∃ t, exec (.translationMiss die c va) s = .next t ∧ t = { s with dies := t.dies }
            ∧ (∀ d, d ≠ die → t.die d = s.die d) ∧ t.die die = { s.die die with missQ := q ++ [{ ctx := c, va := va }] }))
    ∧ (∀ die, let q := (s.die die).missQ
        (q = [] → exec (.pageWalk die) s = .next s)
        ∧ ∀ m rest, q = m :: rest → ∃ t, exec (.pageWalk die) s = .next t ∧ OnlyLooks s { t with dies := s.dies } ∧ t.hart = s.hart
          ∧ (∀ d, t.die d = { s.die d with missQ := if d = die then rest else (s.die d).missQ, uncore := (t.die d).uncore, walks := (t.die d).walks })
          ∧ ((s.die die).walks = [] → (∀ r ∈ walkReads s (fun _ => none) m.va.toNat 3 (rootOf s m.ctx), poisoned s r.2 8 = false) →
              (walk s m.ctx m.va.toNat = none → t.tlb = s.tlb)
              ∧ ∀ leaf bits, walk s m.ctx m.va.toNat = some (leaf, bits) → ∀ k < 8,
                  { second := true, unit := BitVec.ofNat 8 (8 * die.toNat + k), ctx := m.ctx, base := m.va.toNat / 2 ^ bits * 2 ^ bits, bits := bits
                    leaf := leaf : TlbEntry } ∈ t.tlb))

/-- The states of a context, its reset, and its translations. -/
def Obligations.ContextsChange : Prop := ContextStatesChange ∧ ContextsAreResetAndInvalidated

/-! ### Calls -/

namespace Sys2Proof.Claims

/-- The content of a completion packet: the other context, the call it names, what became of it (04 Table 4.5). -/
def reportBody (tgid epoch core entry stage outcome hint version gen flags tag handler ring : Nat) : List Word :=
  [BitVec.ofNat 64 (tgid * 2 ^ 44 + epoch * 2 ^ 36 + core * 2 ^ 28 + entry * 2 ^ 22 + stage * 2 ^ 21 + outcome * 2 ^ 8 + hint),
   BitVec.ofNat 64 (version * 2 ^ 48 + gen * 2 ^ 19 + flags * 2 ^ 16 + tag), BitVec.ofNat 64 (handler * 2 ^ 48 + ring)]

/-- An unsent call waits for a write that has failed (04 R100). -/
def Aborted (s : State) (e : SendEntry) : Prop :=
  e.abort = true ∨ ∃ h ∈ s.allHarts, h.gang = e.gang ∧ h.rank = e.rank ∧ ∃ p ∈ h.posted, p.seq < e.rel.seq ∧ p.failed = true

/-- An earlier call of the hart to the same context goes first: it has not left, or it leaves on another channel (04 R101). -/
def GoesFirst (p e : SendEntry) : Prop :=
  p.order < e.order ∧ p.ctx = e.ctx ∧ p.gang = e.gang ∧ p.rank = e.rank ∧ p.desc.w0.toNat / 2 ^ 44 = e.desc.w0.toNat / 2 ^ 44
    ∧ (p.sent = false ∨ p.desc.w0.toNat / 2 ^ 14 % 4 ≠ e.desc.w0.toNat / 2 ^ 14 % 4)

/-- A call leaves its entry of the send queue. -/
def unsent (s : State) (core : BitVec 8) (k : BitVec 6) : State := s.modCore core (fun c => { c with send := tdel c.send k.toNat })

/-- What a call that ends at its own device is told. -/
def Told (s : State) (core : BitVec 8) (k : BitVec 6) (e : SendEntry) (outcome : BitVec 8) : State :=
  if (s.ctx e.ctx).epoch = e.epoch then
    (unsent s core k).reported e.ctx { tgid := BitVec.ofNat 20 (e.desc.w0.toNat / 2 ^ 44), outcome := outcome, hint := 0, version := 0
                                       flags := e.desc.w0.setWidth 3, tag := e.callTag, handler := BitVec.ofNat 16 (e.desc.w0.toNat / 2 ^ 16)
                                       ring := e.desc.w1 &&& 0xFFFFFFFFFFFF }
  else unsent s core k

/-- A call that has arrived is answered: the arrival report leaves on the channel of the effective priority (04 R105, R106). -/
def Answered (s u t : State) (p : Packet) (outcome hint : Nat) (version : BitVec 16) (pri : BitVec 3) : Prop :=
  let a := (p.body.headD 0).toNat
  let b := (p.body.getD 1 0).toNat
  ∃ q, t = Leaves u q ∧ q.dst = p.src ∧ q.src = s.fab.devid ∧ q.cls = 2 ∧ q.op = 1 ∧ q.chan.toNat = 2 + pri.toNat / 2 ∧ q.ctx.toNat = a / 2 ^ 44 % 256
    ∧ q.body = reportBody (s.fab.devid.toNat * 256 + p.ctx.toNat) (a / 2 ^ 36 % 256) (b / 2 ^ 32 % 256) (b / 2 ^ 26 % 64) 0 outcome hint version.toNat
        (b / 2 ^ 40 % 65536) (b / 2 ^ 16 % 8) (b % 65536) (a / 2 ^ 16 % 65536) ((p.body.getD 2 0).toNat % 2 ^ 48)

/-- Of the machine only what an operation on QSTORE reaches differs: queues, uncore counters, and the index of free values (10 R276, log 1). -/
def Qstored (s u : State) : Prop :=
  u = { s with queues := u.queues, dies := u.dies, freshCount := u.freshCount } ∧ ∀ d, u.die d = { s.die d with uncore := (u.die d).uncore }

/-- A fault record of kind 4: there is no handler for the call, or no queue (04 R106, 03 Table 3.7); an uncorrectable error is counted (02 R53). -/
def noHandler (s : State) (c : BitVec 8) (cause : BitVec 8) (idx queue : BitVec 16) (addr : Word) : State :=
  State.postFault (if cause = 0x15 then { s with pkg := { s.pkg with ue := oneMore s.pkg.ue } } else s) c { time := s.pkg.dtime, kind := 4, cause := cause, gang := 0xFFFF, handler := idx, queue := queue, addr := addr, pc := 0 }

/-- The entry's self, local or remote bit lets the caller in (04 Table 4.6). -/
def LetsIn (s : State) (h : Handler) (g : BitVec 20) (c : BitVec 8) : Prop :=
  (g = s.fab.devid ++ c ∧ h.self = true) ∨ (g ≠ s.fab.devid ++ c ∧ g.toNat / 256 = s.fab.devid.toNat ∧ h.loc = true)
    ∨ (g.toNat / 256 ≠ s.fab.devid.toNat ∧ h.remote = true)

/-- A call is appended to the handler's queue, with the pc of the handler and the words of the call (04 R107). -/
def Called (s t : State) (p : Packet) (h : Handler) (d : Queue) (idx : BitVec 16) (pri : BitVec 3) (slot : Nat) : Prop :=
  ∃ r : QRec, (∀ k, tget t.queues k = if k = h.queue.toNat then some { d with recs := d.recs ++ [r] } else tget s.queues k)
    ∧ r.task = { w0 := BitVec.ofNat 64 (idx.toNat + h.shape.toNat * 2 ^ 16 + pri.toNat * 2 ^ 36 + slot), w1 := p.body.getD 8 0, w2 := 0
                 w3 := p.body.getD 3 0, w4 := p.body.getD 4 0, w5 := p.body.getD 5 0, w6 := p.body.getD 6 0, w7 := p.body.getD 7 0 }
    ∧ r.pc = some h.pc ∧ r.pusher = p.ctx ∧ r.version = h.version ∧ r.rel = none ∧ r.bad = false ∧ r.sau = false

end Sys2Proof.Claims

/-- Calls at the caller (04 R100 to R103, R110, R112): a call leaves once its hart's earlier writes are complete and no earlier call goes first, and ends
as ABORTED when one of them fails; a report is matched by its entry, generation and context, and frees the entry; without one for
twice the link-recovery limit the call is LOST; what a report says is shown unless the call was accepted and not early: as a completion record
to be written before its event, or else as an event, that of a permission failure among them. -/
def Sys2Proof.Claims.CallsLeaveAndAreReported : Prop :=
  ∀ (s : State) (core : BitVec 8) (k : BitVec 6), let send := (s.core core).send
    (tget send k.toNat = none → exec (.xcallPacketSend core k) s = .next s ∧ exec (.callLost core k) s = .next s)
    ∧ (∀ e, tget send k.toNat = some e →
        (e.sent = true → exec (.xcallPacketSend core k) s = .next s)
        ∧ (e.sent = false → Aborted s e → exec (.xcallPacketSend core k) s = .next (Told s core k e 0x0A))
        ∧ (e.sent = false → ¬ Aborted s e → writesDone s e.rel = false ∨ (∃ x ∈ send, GoesFirst x.2 e) → exec (.xcallPacketSend core k) s = .next s)
        ∧ (e.sent = false → ¬ Aborted s e → writesDone s e.rel = true → (∀ x ∈ send, ¬ GoesFirst x.2 e) →
            let w := e.desc.w0.toNat
            ∃ p, exec (.xcallPacketSend core k) s
                = .next ((Leaves s p).modCore core (fun c => { c with send := tset c.send k.toNat { e with sent := true, since := s.pkg.dtime.toNat } }))
              ∧ p.dst.toNat = w / 2 ^ 32 % 4096 ∧ p.src = s.fab.devid ∧ p.cls = 2 ∧ p.op = 0 ∧ p.hops = 15 ∧ p.ctx.toNat = w / 2 ^ 44 % 256
              ∧ p.chan.toNat = 2 + w / 2 ^ 14 % 4
              ∧ p.body = [BitVec.ofNat 64 ((s.fab.devid.toNat * 256 + e.ctx.toNat) * 2 ^ 44 + e.epoch.toNat * 2 ^ 36 + w / 2 ^ 13 % 8 * 2 ^ 33
                                           + w / 2 ^ 16 % 65536 * 2 ^ 16),
                          BitVec.ofNat 64 (e.gen.toNat * 2 ^ 40 + core.toNat * 2 ^ 32 + k.toNat * 2 ^ 26 + w % 8 * 2 ^ 16 + e.callTag.toNat),
                          e.desc.w1, e.desc.w2, e.desc.w3, e.desc.w4, e.desc.w5, e.desc.w6, e.desc.w7])
        ∧ (e.sent = true → e.since + 2 * lrTicks s ≤ s.pkg.dtime.toNat → exec (.callLost core k) s = .next (Told s core k e 0x08))
        ∧ (e.sent = false ∨ s.pkg.dtime.toNat < e.since + 2 * lrTicks s → exec (.callLost core k) s = .next s))
    ∧ (∀ p : Packet, let a := (p.body.headD 0).toNat
        let b := (p.body.getD 1 0).toNat
        let epoch := a / 2 ^ 36 % 256
        let r : Report := { tgid := BitVec.ofNat 20 (a / 2 ^ 44), outcome := BitVec.ofNat 8 (a / 2 ^ 8), hint := BitVec.ofNat 8 a
                            version := BitVec.ofNat 16 (b / 2 ^ 48), flags := BitVec.ofNat 3 (b / 2 ^ 16), tag := BitVec.ofNat 16 b
                            handler := BitVec.ofNat 16 ((p.body.getD 2 0).toNat / 2 ^ 48), ring := p.body.getD 2 0 &&& 0xFFFFFFFFFFFF }
        ((s.ctx p.ctx).epoch.toNat ≠ epoch → exec (.endReport p) s = .next s)
        ∧ ((s.ctx p.ctx).epoch.toNat = epoch → exec (.endReport p) s = .next (s.reported p.ctx r))
        ∧ (core.toNat = a / 2 ^ 28 % 256 → k.toNat = a / 2 ^ 22 % 64 →
            ((∀ e, tget send k.toNat = some e → ¬ (e.gen.toNat = b / 2 ^ 19 % 65536 ∧ e.sent = true ∧ e.ctx = p.ctx)) →
              exec (.arrivalReport p) s = .next s)
            ∧ (∀ e, tget send k.toNat = some e → e.gen.toNat = b / 2 ^ 19 % 65536 → e.sent = true → e.ctx = p.ctx →
                ((s.ctx p.ctx).epoch.toNat ≠ epoch → exec (.arrivalReport p) s = .next (unsent s core k))
                ∧ ((s.ctx p.ctx).epoch.toNat = epoch → exec (.arrivalReport p) s = .next ((unsent s core k).reported p.ctx r)))))
    ∧ (∀ c (r : Report), let x := (s.ctx c).state
        (x = .resetting ∨ (r.outcome = 0 ∧ r.flags.getLsbD 2 = false) → s.reported c r = s)
        ∧ (x ≠ .resetting → r.outcome ≠ 0 ∨ r.flags.getLsbD 2 = true → r.flags.getLsbD 0 = true → ∃ j, s.reported c r = { s with rings := s.rings ++ [j] }
            ∧ j.ctx = c ∧ j.report = r ∧ j.seq = none ∧ j.vis = none ∧ j.waiting = false ∧ ∀ k ∈ s.rings, k.id ≠ j.id)
        ∧ (x ≠ .resetting → r.outcome ≠ 0 ∨ r.flags.getLsbD 2 = true → r.flags.getLsbD 0 = false →
            (r.outcome = 7 → s.reported c r = s.postEvent c 0x15 0x15 (r.tag.setWidth 64) (r.tgid.setWidth 64) 0x12 0 0)
            ∧ (r.outcome ≠ 7 → r.flags.getLsbD 1 = true → s.reported c r
                = s.postEvent c 0x10 0x10 (r.tag.setWidth 64) (r.outcome.setWidth 64) (r.tgid.setWidth 64) (r.version.setWidth 64) 0)
            ∧ (r.outcome ≠ 7 → r.flags.getLsbD 1 = false → s.reported c r = s)))

/-- Calls at their target (04 R96, R106 to R109): a call meets permissions, the context, the handler entry, its queue and the room in it, in
this order, and is answered with the first that turns it away; accepted, it joins the queue with the handler's pc; a full queue is busy.
When a task that a call made has ended and its writes are complete, the report of its end leaves and its return slot is free. -/
def Sys2Proof.Claims.CallsArriveAndEnd : Prop :=
  ∀ (s : State),
    (∀ p : Packet, (p.body.headD 0).getLsbD 32 = true → exec (.invocationCall p) s = .next s)
    ∧ (∀ p : Packet, (p.body.headD 0).getLsbD 32 = false →
        let a := (p.body.headD 0).toNat
        let g : BitVec 20 := BitVec.ofNat 20 (a / 2 ^ 44)
        let idx : BitVec 16 := BitVec.ofNat 16 (a / 2 ^ 16)
        let dpri : BitVec 3 := BitVec.ofNat 3 (a / 2 ^ 33)
        let flags := (p.body.getD 1 0).toNat / 2 ^ 16 % 8
        let up := (s.ctx p.ctx).state = .running ∨ (s.ctx p.ctx).state = .stopped
        (xpermCap s g p.ctx = none → ∃ t, exec (.invocationCall p) s = .next t ∧ Answered s s t p 7 0 0 dpri)
        ∧ (∀ cap, xpermCap s g p.ctx = some cap →
          (¬ up → ∃ t, exec (.invocationCall p) s = .next t ∧ Answered s s t p 5 0 0 dpri)
          ∧ (up → ∀ addr cause, handlerLookup s p.ctx idx.toNat = .none addr cause →
              ∃ t, exec (.invocationCall p) s = .next t ∧ Answered s (noHandler s p.ctx cause idx 0xFFFF addr) t p 5 0 0 dpri)
          ∧ (up → ∀ h, handlerLookup s p.ctx idx.toNat = .entry h →
              let pri : BitVec 3 := BitVec.ofNat 3 (min dpri.toNat (min cap.toNat h.maxpri.toNat))
              let good : Prop := h.shape.toNat / 2 ^ 6 % 8 ≤ 5 ∧ h.shape.toNat / 2 ^ 10 % 8 ≤ 4
                ∧ (h.shape.toNat % 64 / 8 + 1) * (h.shape.toNat / 2 ^ 10 % 8) ≤ 4
              (good → h.dis = true → ∃ t, exec (.invocationCall p) s = .next t ∧ Answered s s t p 6 1 h.version pri)
              ∧ (good → h.dis = false → ¬ LetsIn s h g p.ctx → ∃ t, exec (.invocationCall p) s = .next t ∧ Answered s s t p 7 0 h.version pri)
              ∧ (¬ good → ∃ t addr, exec (.invocationCall p) s = .next t ∧ Answered s (noHandler s p.ctx 0 idx 0xFFFF addr) t p 5 0 0 dpri)
              ∧ (good → h.dis = false → LetsIn s h g p.ctx →
                ((∀ d, tget s.queues h.queue.toNat = some d → d.ctx ≠ p.ctx) →
                  ∃ t, exec (.invocationCall p) s = .next t ∧ Answered s (noHandler s p.ctx 0 idx h.queue 0) t p 5 0 h.version pri)
                ∧ (∀ d, tget s.queues h.queue.toNat = some d → d.ctx = p.ctx →
                  let room := d.recs.length < 2 ^ (d.cap.toNat + 4)
                  let wants := flags % 2 = 1 ∧ flags < 4
                  (¬ wants → room → ∃ t u, exec (.invocationCall p) s = .next t ∧ Answered s u t p 0 0 h.version pri ∧ Qstored s u
                      ∧ Called s u p h d idx pri 0)
                  ∧ (wants → room → ∀ k, freeReturn s.retTable = some k → ∃ t u slot, exec (.invocationCall p) s = .next t
                      ∧ Answered s u t p 0 0 h.version pri ∧ Qstored { s with retTable := tset s.retTable k slot } u
                      ∧ Called s u p h d idx pri (2 ^ 47 + k * 2 ^ 48)
                      ∧ slot.gid = g ∧ slot.ctx = p.ctx ∧ slot.epoch.toNat = a / 2 ^ 36 % 256 ∧ slot.flags.toNat = flags ∧ slot.handler = idx
                      ∧ slot.version = h.version ∧ slot.pri = pri ∧ slot.bad = false)
                  ∧ (wants → freeReturn s.retTable = none → ∃ t, exec (.invocationCall p) s = .next t ∧ Answered s s t p 3 1 h.version pri)
                  ∧ (¬ wants → ¬ room → h.spill = false → ∃ t, exec (.invocationCall p) s = .next t
                      ∧ Answered s s t p 3 (min 255 ((d.recs.length + 15) / 16)) h.version pri))))))
    ∧ ((∀ e ∈ s.reports, ∃ r ∈ e.rels, writesDone s r = false) → exec .taskEndReport s = .next s)
    ∧ (∀ a e b, s.reports = a ++ e :: b → (∀ x ∈ a, ∃ r ∈ x.rels, writesDone s r = false) → (∀ r ∈ e.rels, writesDone s r = true) →
        (tget s.retTable e.rslot = none → exec .taskEndReport s = .next { s with reports := a ++ b })
        ∧ ∀ k, tget s.retTable e.rslot = some k → k.bad = false → ∃ p, exec .taskEndReport s
              = .next (Leaves { s with reports := a ++ b, retTable := tdel s.retTable e.rslot } p)
            ∧ p.dst.toNat = k.gid.toNat / 256 ∧ p.src = s.fab.devid ∧ p.cls = 2 ∧ p.op = 1 ∧ p.ctx.toNat = k.gid.toNat % 256
            ∧ p.chan.toNat = 2 + k.pri.toNat / 2
            ∧ p.body = reportBody (s.fab.devid.toNat * 256 + k.ctx.toNat) k.epoch.toNat k.core.toNat k.entry.toNat 1 e.outcome.toNat 0 k.version.toNat
                k.gen.toNat k.flags.toNat k.callTag.toNat k.handler.toNat (k.ring.toNat % 2 ^ 48))

/-- Calls, from the caller's send queue to the report of their end. -/
def Obligations.CallsComplete : Prop := CallsLeaveAndAreReported ∧ CallsArriveAndEnd

/-! ### Queues -/

namespace Sys2Proof.Claims

/-- The queue command has ended with a result (05 Table 5.1). -/
def QEnds (s : State) (op : BitVec 4) (qid : BitVec 16) (r : BitVec 8) : State :=
  { s with pkg := { s.pkg with qcResult := r, qcOp := op, qcQid := qid, qcBusy := false } }

/-- The queue command completes with a result, and of the machine `u` it changes otherwise only what an operation on QSTORE reaches beside queues. -/
def QDone (i : Instr) (s u : State) (op : BitVec 4) (qid : BitVec 16) (r : BitVec 8) : Prop :=
  ∃ v, exec i s = .next (QEnds v op qid r) ∧ Qstored u v ∧ v.queues = u.queues

/-- The attributes are good (05 R116, Tables 5.2, 5.3). -/
def GoodAttr (a l : Nat) : Prop :=
  let cap := a / 2 ^ 36 % 16
  cap ≤ 12 ∧ a / 2 ^ 32 % 16 = 0 ∧ a % 2 ^ 32 ≠ 0 ∧ 1 ≤ l ∧ l ≤ 2 ^ (cap + 4) ∧ (a / 2 ^ 41 % 2 = 1 → a / 2 ^ 42 % 2 = 1)

/-- The empty queue that `qattr` and `qlimit` describe (05 Table 5.2). -/
def newQueue (a l : Word) : Queue :=
  { ctx := BitVec.ofNat 8 (a.toNat / 2 ^ 56), weight := BitVec.ofNat 8 (a.toNat / 2 ^ 48), pri := BitVec.ofNat 3 (a.toNat / 2 ^ 45)
    policy := BitVec.ofNat 2 (a.toNat / 2 ^ 43), keyed := a.getLsbD 42, binned := a.getLsbD 41, opn := a.getLsbD 40
    cap := BitVec.ofNat 4 (a.toNat / 2 ^ 36), aff := a.setWidth 32, hwm := l.setWidth 17, recs := [] }

/-- A record whose push is complete is made takeable (05 R126). -/
def Ready (s : State) (h : HartRef) (x : QRec) : Prop := ∃ e, x.rel = some e ∧ e.of s h = true ∧ writesDone s e = true

/-- The end report that a record removed before it ran yields, if a call made it (04 R109). -/
def discarded (c : BitVec 8) (q : BitVec 16) (t : TaskRec) : List TaskEnd :=
  if t.w0.getLsbD 47 = true then
    [{ ctx := c, gang := 0xFFFF, queue := q, join := 0, rslot := t.w0.toNat / 2 ^ 48, outcome := 9, rels := [] }]
  else []

end Sys2Proof.Claims

/-- Queue commands (05 R116, R117): create, modify, delete and read end with the result of the first condition that fails, and with 0 when they
have their effect. A deleted queue's gangs keep its last attributes and its records are discarded, those with an uncorrectable error
apart, of which this does not speak. -/
def Sys2Proof.Claims.QueueCommandsComplete : Prop :=
  ∀ (s : State) (qid : BitVec 16),
    let a := s.pkg.qattr
    let l := s.pkg.qlimit
    let n := newQueue a l
    let x := s.ctx n.ctx
    let size := 2 ^ (n.cap.toNat + 4)
    let good := GoodAttr a.toNat l.toNat
    let own := (s.queues.filter (fun p => p.2.ctx = n.ctx)).length
    let up := x.state = .stopped ∨ x.state = .running
    (tget s.queues qid.toNat ≠ none → QDone (.qcmdCreate qid) s s 1 qid 1)
    ∧ (tget s.queues qid.toNat = none →
        (¬ good → QDone (.qcmdCreate qid) s s 1 qid 6)
        ∧ (good → ¬ up → QDone (.qcmdCreate qid) s s 1 qid 3)
        ∧ (good → up → x.quota.toNat / 2 ^ 32 % 65536 ≤ own → QDone (.qcmdCreate qid) s s 1 qid 4)
        ∧ (good → up → own < x.quota.toNat / 2 ^ 32 % 65536 → s.pkg.qsfree.toNat < size → QDone (.qcmdCreate qid) s s 1 qid 5)
        ∧ (good → up → own < x.quota.toNat / 2 ^ 32 % 65536 → size ≤ s.pkg.qsfree.toNat → ∃ u, QDone (.qcmdCreate qid) s u 1 qid 0
            ∧ u = { s with queues := u.queues, pkg := { s.pkg with qsfree := s.pkg.qsfree - BitVec.ofNat 32 size } }
            ∧ ∀ k, tget u.queues k = if k = qid.toNat then some n else tget s.queues k))
    ∧ (tget s.queues qid.toNat = none → QDone (.qcmdModify qid) s s 2 qid 2 ∧ QDone (.qcmdDelete qid) s s 3 qid 2
        ∧ QDone (.qcmdRead qid) s s 4 qid 2)
    ∧ (∀ d, tget s.queues qid.toNat = some d →
        let same := d.ctx = n.ctx ∧ d.keyed = n.keyed ∧ d.binned = n.binned ∧ d.cap = n.cap
        (¬ good ∨ ¬ same → QDone (.qcmdModify qid) s s 2 qid 6)
        ∧ (good → same → ∃ u, QDone (.qcmdModify qid) s u 2 qid 0 ∧ u = { s with queues := u.queues }
            ∧ ∀ k, tget u.queues k = if k = qid.toNat then some { n with recs := d.recs } else tget s.queues k)
        ∧ (∃ attr, QDone (.qcmdRead qid) s { s with pkg := { s.pkg with
              qattr := attr, qlimit := d.hwm.setWidth 64
              qocc := BitVec.ofNat 64 ((s.gangs.filter (fun p => p.2.queue = qid ∧ p.2.saved = false ∧ p.2.orphan = false)).length % 65536 * 2 ^ 48
                                       + d.recs.length) } } 4 qid 0
            ∧ attr.toNat / 2 ^ 32 % 16 = 0 ∧ newQueue attr (d.hwm.setWidth 64) = { d with recs := [] })
        ∧ ((∀ r ∈ d.recs, r.bad = false) → (∀ p ∈ s.park, p.qid = qid → p.bad = false) →
            ∃ u, QDone (.qcmdDelete qid) s u 3 qid 0
            ∧ u = { s with queues := tdel s.queues qid.toNat, park := u.park, gangs := u.gangs, cores := u.cores, reports := u.reports
                           pkg := { s.pkg with qsfree := s.pkg.qsfree + BitVec.ofNat 32 (2 ^ (d.cap.toNat + 4)) } }
            ∧ (∀ p, p ∈ u.park ↔ p ∈ s.park ∧ p.qid ≠ qid)
            ∧ (∀ c, u.core c = { s.core c with purses := (u.core c).purses })
            ∧ u.reports = s.reports ++ (d.recs.map (fun r => r.task) ++ (s.park.filter (fun p => p.qid = qid)).map (fun p => p.task)).flatMap
                (discarded d.ctx qid)
            ∧ ChangesGangs s u (fun y => y.queue = qid ∧ y.orphan = false)
                (fun y => { y with orphan := true, policy := d.policy, weight := d.weight, aff := d.aff, binned := d.binned })))

/-- Pushes, parked records, joins and events (05 R125 to R129, 03 R78): the oldest push of a hart whose earlier writes are complete becomes takeable; a
released record joins its queue when there is room, and one with an error that has no queue is only counted (02 R55); the end of a task takes 1 from
its join counter, when no operation is held at its line, and 0 releases what is parked there, behind what was released before; an event is a record in its context's event queue, or a fault record of kind 6. -/
def Sys2Proof.Claims.RecordsAreReleased : Prop :=
  ∀ (s : State),
    (∀ h, (∀ p ∈ s.queues, ∀ x ∈ p.2.recs, ¬ Ready s h x) → exec (.pushReleaseComplete h) s = .next s)
    ∧ (∀ h before q d after a x b, s.queues = before ++ (q, d) :: after → (∀ p ∈ before, ∀ y ∈ p.2.recs, ¬ Ready s h y) →
        d.recs = a ++ x :: b → (∀ y ∈ a, ¬ Ready s h y) → Ready s h x →
        ∃ t, exec (.pushReleaseComplete h) s = .next t ∧ t = { s with queues := t.queues }
          ∧ ∀ k, tget t.queues k = if k = q then some { d with recs := a ++ b ++ [{ x with rel := none }] } else tget s.queues k)
    ∧ (∀ qid, (∀ p ∈ s.park, ¬ (p.released = true ∧ p.qid = qid)) → exec (.releasedRecordAppend qid) s = .next s)
    ∧ (∀ qid a p b, s.park = a ++ p :: b → (∀ x ∈ a, ¬ (x.released = true ∧ x.qid = qid)) → p.released = true → p.qid = qid →
        tget s.queues qid.toNat = none →
        (p.bad = false → exec (.releasedRecordAppend qid) s = .next s)
        ∧ (p.bad = true → exec (.releasedRecordAppend qid) s = .next { s with park := a ++ b, pkg := { s.pkg with ue := oneMore s.pkg.ue } }))
    ∧ (∀ qid a p b d, s.park = a ++ p :: b → (∀ x ∈ a, ¬ (x.released = true ∧ x.qid = qid)) → p.released = true → p.qid = qid → p.bad = false →
        tget s.queues qid.toNat = some d →
        (2 ^ (d.cap.toNat + 4) ≤ d.recs.length → exec (.releasedRecordAppend qid) s = .next s)
        ∧ (d.recs.length < 2 ^ (d.cap.toNat + 4) → ∃ t, exec (.releasedRecordAppend qid) s = .next t
          ∧ Qstored { s with park := a ++ b } t
          ∧ ∀ k, tget t.queues k = if k = qid.toNat then
              some { d with recs := d.recs ++ [{ task := p.task, pc := none, pusher := p.pusher, version := 0, rel := p.rel, bad := false, sau := false }] }
            else tget s.queues k))
    ∧ (s.ends = [] → exec .joinDecrement s = .next s)
    ∧ (∀ e rest, s.ends = e :: rest →
        let lost (u : State) : State := State.postFault { u with ends := rest } e.ctx
          { time := s.pkg.dtime, kind := 7, cause := 0, gang := e.gang, handler := 0xFFFF, queue := e.queue, addr := e.join, pc := 0 }
        let spoilt : State := { s with pkg := { s.pkg with ue := oneMore s.pkg.ue } }
        (∀ c, ctxPhys s e.ctx e.join .amo = .error c →
          (c ≠ 0x15 → exec .joinDecrement s = .next (lost s)) ∧ (c = 0x15 → exec .joinDecrement s = .next (lost spoilt)))
        ∧ ∀ pa cls da, ctxPhys s e.ctx e.join .amo = .ok (pa, cls, da) →
          ((∃ w ∈ s.sauq, w.line = pa / 128) → exec .joinDecrement s = .next s)
          ∧ (homeFree s pa →
            (poisoned s pa 8 = true → exec .joinDecrement s = .next (lost spoilt))
            ∧ (poisoned s pa 8 = false → cls ≠ 0 → exec .joinDecrement s = .next (lost s))
            ∧ (poisoned s pa 8 = false → cls = 0 → Memory.wf s.mem = true →
              let v := memNat s.mem pa 8
              ∃ t, exec .joinDecrement s = .next t ∧ OnlyPuts s { t with ends := s.ends, park := s.park } ∧ t.hart = s.hart ∧ t.ends = rest
                ∧ Stores s t pa (leBytes 8 ((v + 2 ^ 64 - 1) % 2 ^ 64))
                ∧ (v ≠ 1 → t.park = s.park)
                ∧ (v = 1 → let now (p : Parked) : Prop := p.pa = pa ∧ p.released = false
                    t.park = s.park.filter (fun p => ¬ now p) ++ (s.park.filter (fun p => now p)).map (fun p => { p with released := true })))))
    ∧ (∀ c code handler x10 x11 x12 x13 x14, let x := s.ctx c
        let q : BitVec 16 := x.evq.setWidth 16
        (x.state = .resetting → s.postEvent c code handler x10 x11 x12 x13 x14 = s)
        ∧ (x.state ≠ .resetting →
          (∀ d, x.evq.getLsbD 63 = true → tget s.queues q.toNat = some d → d.ctx = c → d.recs.length < 2 ^ (d.cap.toNat + 4) →
            ∃ r, (∀ k, tget (s.postEvent c code handler x10 x11 x12 x13 x14).queues k
                  = if k = q.toNat then some { d with recs := d.recs ++ [r] } else tget s.queues k)
              ∧ r.task = { w0 := r.task.w0, w1 := s.pkg.dtime, w2 := 0, w3 := x10, w4 := x11, w5 := x12, w6 := x13, w7 := x14 }
              ∧ r.task.w0.toNat % 2 ^ 16 = handler.toNat ∧ r.pusher = c ∧ r.pc = none ∧ r.rel = none)
          ∧ (code ≠ 0x13 → (∀ d, tget s.queues q.toNat = some d → x.evq.getLsbD 63 = false ∨ d.ctx ≠ c ∨ 2 ^ (d.cap.toNat + 4) ≤ d.recs.length) →
            s.postEvent c code handler x10 x11 x12 x13 x14 = s.postFault c
              { time := s.pkg.dtime, kind := 6, cause := code, gang := 0xFFFF, handler := handler
                queue := if x.evq.getLsbD 63 = true then q else 0xFFFF, addr := x10, pc := 0 })))

/-- Queue commands, pushes, parked records, joins and events. -/
def Obligations.QueuesAndRecordsComplete : Prop := QueueCommandsComplete ∧ RecordsAreReleased

/-! ### Gangs -/

namespace Sys2Proof.Claims

/-- Every rank of a gang. -/
def allRanks (g : Gang) : BitVec 64 := BitVec.ofNat 64 (2 ^ (g.task.w0.toNat / 2 ^ 16 % 64 + 1) - 1)

/-- The ring of a cluster after its turn (05 R131). -/
def Rung (s : State) (cl : BitVec 5) (r : Ring) : State :=
  s.modCluster cl (fun k => { k with ring := r.at', ringPaid := r.paid, deficit := r.deficit })

/-- What a candidate's head is known by: a gang's id, or its record. -/
def headId (c : Cand) : HeadId :=
  match c.head with
  | .gang id _ => .gang id
  | .record _ _ r => .record r

/-- The head of the cluster waits: under the reservation it has, or a new one, which notes the time, the banks in the pool and the storage of each
core that the residents use (05 R133). -/
def Reserves (s : State) (cl : BitVec 5) (c : Cand) : State :=
  s.modCluster cl (fun k => { k with
    reserved := if k.reserved.any (fun r => r.key = c.key && r.head = headId c) then k.reserved else
      some { key := c.key, head := headId c, since := s.pkg.dtime.toNat, pool := poolBanks s cl
             used := (List.range 8).map (fun i => coreStorage s (BitVec.ofNat 8 (8 * cl.toNat + i))) } })

/-- After a placement the winner's deficit has lost its cost, or the rotation of weight 0 has moved on, and nothing is reserved (05 R131). -/
def Spent (s : State) (cl : BitVec 5) (c : Cand) (harts : Nat) : State :=
  s.modCluster cl (fun k =>
    if c.weight = 0 then { k with ring0 := c.key, reserved := none }
    else { k with deficit := tset k.deficit c.key (tgetD k.deficit c.key 0 - harts), reserved := none })

/-- Harts that a task needs. -/
def hartsOf (t : TaskRec) : Nat := t.w0.toNat / 2 ^ 16 % 64 + 1

/-- A record is launched as gang `id` (05 R120, R121, R122, 07 R180): its harts begin at `pc` in free slots of the cluster's cores with the record's words
in x10 to x15 and 0 elsewhere, its banks were in the pool and are empty, and the record leaves its queue. -/
def Launches (s t : State) (cl : BitVec 5) (q : Nat) (d : Queue) (r : QRec) (prio : Nat) (pc : Word) (id : BitVec 16) : Prop :=
  let w := r.task
  ((∃ k < 65535, tget s.gangs k = none) → tget s.gangs id.toNat = none)
  ∧ t = { s with harts := t.harts, gangs := t.gangs, queues := t.queues, banks := t.banks, ctxs := t.ctxs, dies := t.dies, nextGang := id + 1
                 placeCount := s.placeCount + 1, freshCount := t.freshCount }
  ∧ (∀ k, t.die k = { s.die k with uncore := (t.die k).uncore })
  ∧ (∀ k, tget t.queues k = if k = q then some { d with recs := d.recs.erase r } else tget s.queues k)
  ∧ (∀ c, t.ctx c = if c = d.ctx then { s.ctx c with frames := (t.ctx c).frames, sauSticky := if r.sau = true then false else (s.ctx c).sauSticky }
                    else s.ctx c)
  ∧ (∃ g, (∀ k, tget t.gangs k = if k = id.toNat then some g else tget s.gangs k)
      ∧ g.ctx = d.ctx ∧ g.queue = BitVec.ofNat 16 q ∧ g.policy = d.policy ∧ g.weight = d.weight ∧ g.prio = BitVec.ofNat 3 prio ∧ g.task = w ∧ g.pc = pc
      ∧ g.cluster = cl ∧ g.ended = 0 ∧ g.barArr = 0 ∧ g.barGen = 0 ∧ g.savedRanks = 0 ∧ g.saved = false ∧ g.preempt = false ∧ g.placedAt = s.placeCount
      ∧ g.banks.length = w.w0.toNat / 2 ^ 29 % 64
      ∧ (∀ b ∈ g.banks, let i := 192 * cl.toNat + b
          (s.bank i).mode = .S ∧ (s.bank i).holder = .none
            ∧ t.bank i = { Bank.reset i with mode := .S, holder := .gang d.ctx id, keep := w.w0.getLsbD 35 })
      ∧ ∀ i, (∀ b ∈ g.banks, i ≠ 192 * cl.toNat + b) → t.bank i = s.bank i)
  ∧ ∃ hs : List Hart, t.harts = s.harts ++ hs ∧ hs.length = hartsOf w
    ∧ ∀ (i : Nat) (h : Hart), hs[i]? = some h →
        h.live = true ∧ h.ctx = d.ctx ∧ h.gang = id ∧ h.rank.toNat = i ∧ h.gsize.toNat = hartsOf w ∧ clusterOf h.core = cl ∧ h.pc = pc ∧ h.sup = false
        ∧ h.tiles.toNat = w.w0.toNat / 2 ^ 26 % 8 ∧ h.vlb = BitVec.ofNat 14 (grantOf w) ∧ h.vlb0 = h.vlb ∧ h.wait = .none ∧ h.disp = [] ∧ h.aseed = 1
        ∧ (∀ x : Fin 32, h.x[x] = if x.val = 10 then w.w3 else if x.val = 11 then w.w4 else if x.val = 12 then w.w5 else if x.val = 13 then w.w6
            else if x.val = 14 then w.w7 else if x.val = 15 then w.w1 else 0)
        ∧ h.v = Vector.replicate 32 0 ∧ h.m = Vector.replicate 8 0 ∧ h.acc = Vector.replicate 4 0
        ∧ ∀ k ∈ s.allHarts, k.ref ≠ h.ref

end Sys2Proof.Claims

/-- Placement (05 R119 to R124, R130 to R133): the winner of a cluster is launched when all it needs is free there, and else waits under a
reservation; a record whose handler entry is bad is discarded with a fault record, one with an uncorrectable error with a fault record of kind 8 and
without its return slot (02 R55), and one whose entry is disabled does not win. A saved gang that wins takes slots and banks again and resumes from
its frame, when that can be read (10 R266). The words "winner" and "room" are the model's for 05 R131 and R132. -/
def Obligations.TasksArePlaced : Prop :=
  ∀ (s : State) (cl : BitVec 5),
    exec (.handlerRecheck cl) s = exec (.tellerPlacement cl) s
    ∧ (winner s cl = none → exec (.tellerPlacement cl) s = .next (s.modCluster cl (fun k => { k with deficit := [], reserved := none })))
    ∧ (∀ c ring, winner s cl = some (c, ring) → let u := Rung s cl ring
        (∀ q d r, c.head = .record q d r →
          let counted : State := { u with pkg := { u.pkg with ue := oneMore u.pkg.ue } }
          let gone (x v : State) : Prop := Qstored x v ∧ v.queues = tset s.queues q { d with recs := d.recs.erase r }
          entryOf u d.ctx r ≠ .disabled
          ∧ (∀ addr cause, entryOf u d.ctx r = .bad addr cause → ∃ v, gone (if cause = 0x15 then counted else u) v ∧
              exec (.tellerPlacement cl) s = .next (State.postFault { v with reports := s.reports ++ discarded d.ctx (BitVec.ofNat 16 q) r.task } d.ctx
                { time := s.pkg.dtime, kind := 4, cause := cause, gang := 0xFFFF, handler := r.task.w0.setWidth 16, queue := BitVec.ofNat 16 q, addr := addr
                  pc := 0 }))
          ∧ (r.bad = true → ∃ v, gone counted v ∧
              exec (.tellerPlacement cl) s = .next (State.postFault
                { v with retTable := if r.task.w0.getLsbD 47 = true then tdel s.retTable (r.task.w0.toNat / 2 ^ 48) else s.retTable } d.ctx
                { time := s.pkg.dtime, kind := 8, cause := 0x15, gang := 0xFFFF, handler := 0xFFFF, queue := BitVec.ofNat 16 q, addr := 0, pc := 0 }))
          ∧ (∀ pc, entryOf u d.ctx r = .pc pc →
              (roomFor u cl c.head = false → exec (.tellerPlacement cl) s = .next (Reserves u cl c))
              ∧ (roomFor u cl c.head = true → ∃ t id, Launches u t cl q d r c.prio pc id
                  ∧ exec (.tellerPlacement cl) s = .next (Spent t cl c (hartsOf r.task)))))
        ∧ (∀ id g f, c.head = .gang id g → g.frame = some f →
          (∀ k : BitVec 16, k.toNat ≠ id → exec (.gangResume k cl) s = .next s)
          ∧ (∀ k : BitVec 16, k.toNat = id → exec (.gangResume k cl) s = exec (.tellerPlacement cl) s)
          ∧ (roomFor u cl c.head = false → exec (.tellerPlacement cl) s = .next (Reserves u cl c))
          ∧ (roomFor u cl c.head = true → ∃ v seats banks, v = { u with freshCount := v.freshCount } ∧ seats.length = hartsOf g.task
              ∧ ∀ t, resumeGang v (BitVec.ofNat 16 id) g f cl seats banks = .ok t →
                exec (.tellerPlacement cl) s = .next (Spent t cl c (hartsOf g.task))
                ∧ ∃ i k, (i = id % 65536 ∨ tget s.gangs i = none) ∧ tget t.gangs i = some k ∧ k.saved = false ∧ k.savedRanks = 0 ∧ k.preempt = false
                  ∧ k.cluster = cl ∧ k.banks = banks ∧ k.ctx = g.ctx)))
    ∧ (∀ k : BitVec 16, (∀ c ring, winner s cl = some (c, ring) → ∀ id g, c.head ≠ .gang id g) → exec (.gangResume k cl) s = .next s)

/-- A barrier that every rank has reached and none has left lets all of them go on (05 R129); a request marks gangs of lower priority that may be
saved and whose resources make room for the head, once it has waited 20 microseconds (R134); a hart of a marked gang is saved at a point of its policy,
and its gang when all are, its frame being writable (R134, 10 R260 to R265); a refill gives each purse of a core its share, up to two shares
(05 R136); and a rebinding runs the boundary instruction that the hart stands at, once its convoys have drained (06 R155). -/
def Obligations.GangsWaitAndAreSaved : Prop :=
  ∀ (s : State),
    (∀ g : BitVec 16, tget s.gangs g.toNat = none → exec (.gbarComplete g) s = .next s)
    ∧ (∀ (g : BitVec 16) x, tget s.gangs g.toNat = some x →
        (¬ (x.barArr = allRanks x ∧ x.ended = 0 ∧ x.savedRanks = 0) → exec (.gbarComplete g) s = .next s)
        ∧ (x.barArr = allRanks x → x.ended = 0 → x.savedRanks = 0 → ∃ t, exec (.gbarComplete g) s = .next t
            ∧ t = { s with gangs := t.gangs, hart := t.hart, harts := t.harts, cores := t.cores } ∧ OnlyCounts s t
            ∧ (∀ k, tget t.gangs k = if k = g.toNat then some { x with barGen := x.barGen + 1, barArr := 0 } else tget s.gangs k)
            ∧ t.allHarts = s.allHarts.map (fun h => if h.gang = g ∧ h.wait = .gbar then
                { h with pc := h.pc + 4, instret := h.instret + 1, wpSkip := false, replies := [], wait := .none, relStart := none, lookups := [] } else h)))
    ∧ (∀ cl, preemptable s cl = none → exec (.preemptionRequest cl) s = .next s)
    ∧ (∀ cl gs, preemptable s cl = some gs →
        (∃ c ring r, winner s cl = some (c, ring) ∧ (s.cluster cl).reserved = some r ∧ r.key = c.key ∧ r.head = headId c
          ∧ r.since + 20000 ≤ s.pkg.dtime.toNat ∧ roomFor s cl c.head = false ∧ roomFor (withoutGangs s gs) cl c.head = true
          ∧ ∀ p ∈ gs, p ∈ s.gangs ∧ p.2.cluster = cl ∧ p.2.saved = false ∧ p.2.prio.toNat < c.prio ∧ p.2.policy ≠ 0 ∧ p.2.frame.isSome = true)
        ∧ ∃ t, exec (.preemptionRequest cl) s = .next t ∧ t = { s with gangs := t.gangs }
          ∧ ∀ k, tget t.gangs k = (tget s.gangs k).map (fun y => if gs.any (fun p => p.1 % 65536 = k) then { y with preempt := true } else y))
    ∧ (∀ r, (∀ u, ¬ Is s u r) → exec (.hartSave r) s = .next s ∧ exec (.vlbRebind r) s = .next s)
    ∧ (∀ u r, Is s u r →
        let precise := preempted u 3 = true ∧ savableWait u.hart.wait true = true
        let boundary := preempted u 2 = true ∧ savableWait u.hart.wait false = true ∧ (u.hart.wait ≠ .none ∨ atPoint u = true)
        let may := (u.core u.hart.core).dHalted = false ∧ u.hart.rep = none ∧ saveReady u = true
        (¬ ((precise ∨ boundary) ∧ may) → exec (.hartSave r) s = .next u)
        ∧ (precise ∨ boundary → may → ∀ g f v, tget u.gangs u.hart.gang.toNat = some g → g.frame = some f → saveImages u g f = .ok v →
            (v.ctx g.ctx).state = .running →
            let ranks := g.savedRanks ||| BitVec.twoPow 64 u.hart.rank.toNat
            ∃ t k, exec (.hartSave r) s = .next t ∧ tget t.gangs u.hart.gang.toNat = some k ∧ k.savedRanks = ranks ∧ k.ended = g.ended
              ∧ (ranks ||| g.ended ≠ allRanks g → k.saved = g.saved ∧ t.mem = v.mem
                  ∧ t.hart = { u.hart with wait := .saved, vdirty := 0, link := none, vlinkOpen := false })
              ∧ (ranks ||| g.ended = allRanks g → (t.ctx g.ctx).state ≠ .dumping → (t.ctx g.ctx).state ≠ .dead →
                  k.saved = true ∧ k.preempt = false ∧ k.banks = [] ∧ t.hart.live = false)))
    ∧ (∀ core, purseKeys s core = [] → exec (.purseRefill core) s = .next s)
    ∧ (∀ core, purseKeys s core ≠ [] → let ks := purseKeys s core
        let total := (ks.map (purseWeight s)).sum
        let share (k : Nat) : Int := if total = 0 then 0 else ((32768 * purseWeight s k / total : Nat) : Int)
        ∃ t, exec (.purseRefill core) s = .next t ∧ t = { s with cores := t.cores } ∧ (∀ c, c ≠ core → t.core c = s.core c)
          ∧ t.core core = { s.core core with purses := (t.core core).purses }
          ∧ ∀ k, tgetD (t.core core).purses k 0
              = if k ∈ ks then min (tgetD (s.core core).purses k 0 + share k) (2 * share k) else tgetD (s.core core).purses k 0)
    ∧ (∀ u r, Is s u r →
        (u.hart.disp ≠ [] → exec (.vlbRebind r) s = .next u)
        ∧ (u.hart.disp = [] → ∀ bs t i rest, u.fetch = (.bytes bs, t) → decode bs = .ok (i, rest) →
            (∀ rd rs1 eew grp, i = .vsetvlB rd rs1 eew grp → exec (.vlbRebind r) s = exec i t)
            ∧ (∀ rd rs1 rs2 eew grp, i = .vsetshapeB rd rs1 rs2 eew grp → exec (.vlbRebind r) s = exec i t)
            ∧ ((∀ rd rs1 eew grp, i ≠ .vsetvlB rd rs1 eew grp) → (∀ rd rs1 rs2 eew grp, i ≠ .vsetshapeB rd rs1 rs2 eew grp) →
                exec (.vlbRebind r) s = .next u)))

/-! ### Bank commands -/

namespace Sys2Proof.Claims

/-- `bkcmd` as it reads when a command has ended, or while it runs (07 Table 7.2). -/
def bkWord (v : Word) (busy : Bool) (result : Nat) : Word := BitVec.ofNat 64 (v.toNat % 2 ^ 48 + result * 2 ^ 48 + busy.toNat * 2 ^ 63)

/-- The issuer's cluster. -/
def bkCluster (s : State) (i : BankIssuer) : BitVec 5 :=
  match i with
  | .host cl => cl
  | .hart => clusterOf s.hart.core

/-- The issuer's `bkcmd`. -/
def bkNow (s : State) (i : BankIssuer) : Word :=
  match i with
  | .host cl => (s.cluster cl).hbkcmd
  | .hart => s.hart.bkcmd

/-- The directory entry of a line. -/
def dirOf (s : State) (l : Nat) : DirLine := tgetD s.dir l DirLine.empty

/-- Of the machine nothing but a core's copies of lines differs: some of them may have left its cache (07 R173, R177); which, the spec does not say,
so the index of free values may have advanced (log 1). -/
def DropsCopies (s t : State) (core : BitVec 8) : Prop :=
  t = { s with dir := t.dir, lines := t.lines, freshCount := t.freshCount }
  ∧ (∀ l, dirOf t l = dirOf s l ∨ dirOf t l = (dirOf s l).evictCopy core)
  ∧ ∀ l, tget t.lines l = tget s.lines l ∨ tget t.lines l = (tget s.lines l).map (fun x => { x with copies := x.copies.filter (fun k => k.core ≠ core) })

/-- The issuer's registers take a value of `bkcmd`, and `bkstat` and `bkfifo` if they are read; the cluster's queue of commands is as given, what a
waiting head leaves of its pool to others is `f` of it, and beside them at most banks differ (07 R174; 05 R133). -/
def BkShows (s t : State) (i : BankIssuer) (cmd : Word) (stat : Option (Word × Word)) (q : List BankCmd) (f : List Nat → List Nat) : Prop :=
  let res (k : Cluster) : Option Reservation := k.reserved.map (fun r => { r with pool := f r.pool })
  t = { s with hart := t.hart, clusters := t.clusters, banks := t.banks }
  ∧ (∀ k, k ≠ bkCluster s i → t.cluster k = s.cluster k)
  ∧ (match i with
      | .host cl => t.hart = s.hart ∧ t.cluster cl = { s.cluster cl with
          hbkcmd := cmd, hbkstat := (stat.map Prod.fst).getD (s.cluster cl).hbkstat, hbkfifo := (stat.map Prod.snd).getD (s.cluster cl).hbkfifo
          bankCmd := q, reserved := res (s.cluster cl) }
      | .hart => t.hart = { s.hart with bkcmd := cmd, bkstat := (stat.map Prod.fst).getD s.hart.bkstat, bkfifo := (stat.map Prod.snd).getD s.hart.bkfifo }
          ∧ t.cluster (clusterOf s.hart.core) = { s.cluster (clusterOf s.hart.core) with bankCmd := q, reserved := res (s.cluster (clusterOf s.hart.core)) })

/-- The command completes at once with a result; `stat` says what it reads, and no bank changes. -/
def BkEnds (r : Instr) (s : State) (i : BankIssuer) (v : Word) (result : Nat) (stat : Option (Word × Word)) : Prop :=
  ∃ t, exec r s = .next t ∧ BkShows s t i (bkWord v false result) stat [] id ∧ ∀ k, t.bank k = s.bank k

/-- The command completes at once with result 0 and makes bank `j` be `b`; of the pool that a waiting head leaves to others there is `f`. -/
def BkMakes (r : Instr) (s : State) (i : BankIssuer) (v : Word) (f : List Nat → List Nat) (j : Nat) (b : Bank) : Prop :=
  ∃ t, exec r s = .next t ∧ BkShows s t i (bkWord v false 0) none [] f ∧ ∀ k, t.bank k = if k = j then b else s.bank k

/-- A bank of the pool that was freed while a head waits in its cluster is held for that head (05 R133). -/
def KeptForHead (s : State) (cl : BitVec 5) (k : Nat) : Prop := ∃ r, (s.cluster cl).reserved = some r ∧ k ∉ r.pool

/-- The command's value names bank `k` of the cluster for the issuer (07 Table 7.2, R175). -/
def NamesBank (s : State) (i : BankIssuer) (v : Word) (k : Nat) : Prop :=
  let g := v.toNat / 2 ^ 32 % 65536
  let b := v.toNat % 256
  v.toNat / 2 ^ 8 % 2 ^ 17 = 0
    ∧ ((g = 0xFFFF ∧ b < 192 ∧ k = b)
      ∨ (g ≠ 0xFFFF ∧ b < 64 ∧ ∃ x, tget s.gangs g = some x ∧ x.cluster = bkCluster s i ∧ x.saved = false ∧ (i = .hart → x.ctx = s.hart.ctx)
          ∧ x.banks[b]? = some k))

/-- The bank is the hart's context's, or that of the gang the command names. -/
def Own (s : State) (v : Word) (b : Bank) : Prop :=
  let g := v.toNat / 2 ^ 32 % 65536
  (g = 0xFFFF → b.holder = .ctx s.hart.ctx) ∧ (g ≠ 0xFFFF → b.holder = .gang s.hart.ctx (BitVec.ofNat 16 g))

/-- The rows of Table 7.3, by their op. -/
noncomputable def bkRows : List (Nat × (BankIssuer → Word → Instr)) :=
  [(1, Instr.bkcmdToc), (2, Instr.bkcmdTos), (3, Instr.bkcmdHold), (4, Instr.bkcmdRelease), (5, Instr.bkcmdSetf), (6, Instr.bkcmdSets), (7, Instr.bkcmdRead)]

/-- Of the written value nothing but the op field differs. -/
def SameBut (v w : Word) : Prop := v &&& ~~~ 0xF0000000 = w &&& ~~~ 0xF0000000

end Sys2Proof.Claims

/-- Bank commands (07 R174 to R178, Tables 7.2 to 7.5): a write while busy is ignored and one behind another command waits; a command whose fields name
no bank ends with result 6, and one that its issuer may not give with 1; each op ends with the result of its first failing condition, or with 0 and
the bank in its new mode, without contents where it joins or leaves the pool. A pool bank that was freed while a head waits is held by nobody but
that head. TOS stays busy until its write-back has ended, and lines of the bank's core leave its cache then. READ ends with 4 for an X bank, whose
registers it describes all the same (the model's reading, log 52). -/
def Obligations.BankCommandsComplete : Prop :=
  ∀ (s : State) (i : BankIssuer), (i = .hart → s.hart.live = true) →
    let cl := bkCluster s i
    let idle := (bkNow s i).getLsbD 63 = false
    (∀ p ∈ bkRows, ∀ v w, SameBut v w → exec (p.2 i v) s = exec (p.2 i w) s)
    ∧ (¬ idle → ∀ p ∈ bkRows, ∀ v, exec (p.2 i v) s = .next s)
    ∧ (idle → ∀ p ∈ bkRows, ∀ v, v.toNat / 2 ^ 28 % 16 = p.1 → let q := (s.cluster cl).bankCmd
        let g := v.toNat / 2 ^ 32 % 65536
        let ends (result : Nat) : Prop := BkEnds (p.2 i v) s i v result none
        (q ≠ [] → ∃ t b, exec (p.2 i v) s = .next t ∧ BkShows s t i (bkWord v true 0) none (q ++ [b]) id ∧ t.banks = s.banks ∧ b.val = v ∧ b.cl = cl)
        ∧ (q = [] →
          (v.toNat / 2 ^ 8 % 2 ^ 17 ≠ 0 ∨ (g = 0xFFFF ∧ 192 ≤ v.toNat % 256) ∨ (g ≠ 0xFFFF ∧ 64 ≤ v.toNat % 256) → ends 6)
          ∧ (v.toNat / 2 ^ 8 % 2 ^ 17 = 0 → g ≠ 0xFFFF → v.toNat % 256 < 64 →
              let names (x : Gang) : Prop := tget s.gangs g = some x ∧ x.cluster = cl ∧ x.saved = false
              (i = .hart → 3 ≤ p.1 → (∀ x, names x → x.ctx ≠ s.hart.ctx) → ends 1)
              ∧ (i = .hart → 3 ≤ p.1 → ∀ x, names x → x.ctx = s.hart.ctx → x.banks[v.toNat % 256]? = none → ends 6)
              ∧ (i ≠ .hart → p.1 ≤ 2 ∨ p.1 = 7 → (∀ x, names x → x.banks[v.toNat % 256]? = none) → ends 6))
          ∧ ∀ k, NamesBank s i v k → let j := 192 * cl.toNat + k
            let b := s.bank j
            let makes := BkMakes (p.2 i v) s i v
            ((i = .hart ∧ p.1 ≤ 2) ∨ (i ≠ .hart ∧ 3 ≤ p.1 ∧ p.1 ≤ 6) → ends 1)
            ∧ (p.1 = 1 → i ≠ .hart →
                (b.mode ≠ .S → ends 4)
                ∧ (b.mode = .S → b.holder ≠ .none ∨ KeptForHead s cl k → ends 2)
                ∧ (b.mode = .S → b.holder = .none → ¬ KeptForHead s cl k → makes (fun pool => pool.erase (k % 192)) j { Bank.reset j with mode := .C }))
            ∧ (p.1 = 2 → i ≠ .hart →
                (b.mode ≠ .C → ends 4)
                ∧ (b.mode = .C → ∃ t c, exec (p.2 i v) s = .next t ∧ BkShows s t i (bkWord v true 0) none [c] id ∧ t.banks = s.banks ∧ c.val = v ∧ c.cl = cl
                    ∧ c.host = true ∧ c.work = .command))
            ∧ (p.1 = 3 → i = .hart →
                let held := banksHeld s s.hart.ctx
                let most := (s.ctx s.hart.ctx).quota.toNat % 512
                (b.mode ≠ .S → ends 4)
                ∧ (b.mode = .S → b.holder ≠ .none ∨ KeptForHead s cl k → ends 2)
                ∧ (b.mode = .S → b.holder = .none → ¬ KeptForHead s cl k → most ≤ held → ends 3)
                ∧ (b.mode = .S → b.holder = .none → ¬ KeptForHead s cl k → held < most →
                    makes (fun pool => pool.erase (k % 192)) j { b with holder := .ctx s.hart.ctx }))
            ∧ (p.1 = 4 → i = .hart →
                (b.mode = .X → ends 4)
                ∧ (b.mode ≠ .X → b.holder ≠ .ctx s.hart.ctx → ends 1)
                ∧ (b.mode ≠ .X → b.holder = .ctx s.hart.ctx → b.writers ≠ [] → ends 2)
                ∧ (b.mode ≠ .X → b.holder = .ctx s.hart.ctx → b.writers = [] → makes id j { Bank.reset j with mode := .S }))
            ∧ (p.1 = 5 → i = .hart →
                let stream : BitVec 3 := BitVec.ofNat 3 (v.toNat / 2 ^ 25)
                let used := ∃ x ∈ s.banks, x.2.mode = .F ∧ x.2.holder = .gang s.hart.ctx (BitVec.ofNat 16 g) ∧ x.2.stream = stream
                (b.mode ≠ .S → ends 4)
                ∧ (b.mode = .S → ¬ Own s v b → ends 1)
                ∧ (b.mode = .S → Own s v b → b.writers ≠ [] → ends 2)
                ∧ (b.mode = .S → Own s v b → b.writers = [] →
                    (g = 0xFFFF → stream ≠ 0 → ends 6)
                    ∧ (g ≠ 0xFFFF → used → ends 5)
                    ∧ ((g = 0xFFFF → stream = 0) → (g ≠ 0xFFFF → ¬ used) → makes id j { b with mode := .F, stream := stream, head := 0, tail := 0, arr := 0 })))
            ∧ (p.1 = 6 → i = .hart →
                (b.mode ≠ .F → ends 4)
                ∧ (b.mode = .F → ¬ Own s v b → ends 1)
                ∧ (b.mode = .F → Own s v b → b.writers ≠ [] → ends 2)
                ∧ (b.mode = .F → Own s v b → b.writers = [] → makes id j { b with mode := .S, stream := 0, head := 0, tail := 0, arr := 0 }))
            ∧ (p.1 = 7 → ∃ stat fifo : Word, BkEnds (p.2 i v) s i v (if b.mode = .X then 4 else 0) (some (stat, fifo))
                ∧ stat.toNat / 2 ^ 62 = (match b.mode with
                    | .C => 0
                    | .S => 1
                    | .F => 2
                    | .X => 3)
                ∧ ((i ≠ .hart ∨ b.holder = .none ∨ b.holder = .ctx s.hart.ctx ∨ ∃ g, b.holder = .gang s.hart.ctx g) →
                    stat.toNat % 256 = min b.writers.length 255 ∧ stat.toNat / 2 ^ 32 % 8 = b.stream.toNat ∧ stat.getLsbD 35 = b.keep
                    ∧ (b.mode ≠ .F → fifo = 0)
                    ∧ (b.mode = .F → fifo = BitVec.ofNat 64 (b.head * 2 ^ 32 + b.tail * 2 ^ 16 + b.arr)))
                ∧ (i = .hart → b.holder ≠ .none → b.holder ≠ .ctx s.hart.ctx → (∀ g, b.holder ≠ .gang s.hart.ctx g) →
                    stat.toNat % 2 ^ 60 = 0 ∧ fifo = 0))))
    ∧ (∀ cl, (s.cluster cl).bankCmd = [] → exec (.tosComplete cl) s = .next s)
    ∧ (∀ cl c k, (s.cluster cl).bankCmd = [c] → c.host = true → c.cl = cl → c.work = .command → c.val.toNat / 2 ^ 28 % 16 = 2 →
        NamesBank s (.host cl) c.val k → let j := 192 * cl.toNat + k
        ((s.bank j).mode = .C → ∃ u t, exec (.tosComplete cl) s = .next t ∧ DropsCopies s u (BitVec.ofNat 8 (j / 24))
          ∧ BkShows u t (.host cl) (bkWord c.val false 0) none [] (fun pool => pool ++ [k % 192])
          ∧ ∀ n, t.bank n = if n = j then { Bank.reset j with mode := .S } else s.bank n)
        ∧ ((s.bank j).mode ≠ .C → BkEnds (.tosComplete cl) s (.host cl) c.val 4 none))

/-! ### Engines -/

namespace Sys2Proof.Claims

/-- Of an engine's queue one transfer differs, which is now `x`; it is known by its gang, rank and id. -/
def Replaced (q : List EngXfer) (x : EngXfer) : List EngXfer :=
  q.map (fun y => if y.gang = x.gang ∧ y.rank = x.rank ∧ y.id = x.id then x else y)

/-- The engine's queue is as given, and no other engine's differs. -/
def Queued (s t : State) (e : EngineRef) (q : List EngXfer) : Prop := engQueue t e = q ∧ ∀ f, f ≠ e → engQueue t f = engQueue s f

/-- The hart's entry of a transfer that has ended (09 R231, Table 9.2). -/
def endedEntry (h : Hart) (id : BitVec 16) (st : XferState) (code : BitVec 8) (addr : Word) : Hart :=
  { h with xfers := h.xfers.map (fun k => if k.id = id ∧ k.state = .running then
             { k with state := st, code := code, addr := addr.setWidth 48, order := h.xferEnded } else k)
           xferEnded := h.xferEnded + 1 }

/-- A transfer has ended (09 R231 to R235): it is out of its engine, of its core's ranges and of the banks it wrote, and its hart has its status. A hart that
another shares the slot of the current one with is not spoken of. -/
def Ends (s t : State) (e : EngineRef) (x : EngXfer) (st : XferState) (code : BitVec 8) (addr : Word) : Prop :=
  t = { s with clusters := t.clusters, dies := t.dies, banks := t.banks, cores := t.cores, hart := t.hart, harts := t.harts, gangs := t.gangs, pkg := t.pkg }
  ∧ t.pkg = { s.pkg with ue := t.pkg.ue } ∧ (code ≠ 5 → t.pkg = s.pkg)
  ∧ Queued s t e ((engQueue s e).filter (fun y => ¬ (y.gang = x.gang ∧ y.rank = x.rank ∧ y.id = x.id)))
  ∧ (∀ i, t.bank i = { s.bank i with
      writers := (s.bank i).writers.filter (fun w => ¬ (w.1 = x.core ∧ w.2.1 = x.slot ∧ w.2.2.1 = x.id)) })
  ∧ (ownerOf s x = none → t.hart = s.hart ∧ t.harts = s.harts ∧ t.cores = s.cores)
  ∧ ∀ h, ownerOf s x = some h →
      (∀ c, t.core c = { s.core c with
        arit := if c = h.core then (s.core c).arit.filter (fun a => ¬ (a.slot = h.slot ∧ a.id = x.id)) else (s.core c).arit })
      ∧ (s.hart.live = true → s.hart.ref = h.ref → t.hart = endedEntry s.hart x.id st code addr ∧ t.harts = s.harts)
      ∧ (¬ (s.hart.live = true ∧ s.hart.ref = h.ref) → t.hart = s.hart
        ∧ t.harts = s.harts.map (fun k => if k.live = true ∧ k.ref = h.ref then endedEntry k x.id st code addr else k))

/-- A transfer fails (09 R232; 08 R207): it ends failed when device time has reached the V of each of its class L writes, and else keeps its failure
and has nothing left to do. -/
def Fails (s t : State) (e : EngineRef) (x : EngXfer) (code : BitVec 8) (addr : Word) : Prop :=
  (x.maxV ≤ s.pkg.dtime.toNat → Ends s t e x .failed code addr)
  ∧ (s.pkg.dtime.toNat < x.maxV → t = { s with clusters := t.clusters, dies := t.dies }
      ∧ Queued s t e (Replaced (engQueue s e) { x with left := [], cur := none, fail := some (code, addr) }))

/-- The unsent calls that wait for a transfer are marked as aborted (04 R100). -/
def AbortsCalls (s t : State) (x : EngXfer) : Prop :=
  t = { s with cores := t.cores } ∧ ∀ c, t.core c = { s.core c with send := (s.core c).send.map (fun p =>
    if p.2.sent = false ∧ p.2.gang = x.gang ∧ p.2.rank = x.rank ∧ x.id ∈ p.2.rel.xfers then (p.1, { p.2 with abort := true }) else p) }

/-- A transfer that has performed all ends as it is to end. -/
def Finishes (s t : State) (e : EngineRef) (x : EngXfer) : Prop :=
  (x.fail = none → Ends s t e x .done 0 0) ∧ ∀ code addr, x.fail = some (code, addr) → Ends s t e x .failed code addr

/-- A transfer goes on. -/
def Runs (x : EngXfer) : Prop := x.started = true ∧ x.waiting = false ∧ x.cancelled = false

/-- The oldest transfer of a queue that has not started. -/
def NextUp (q : List EngXfer) (x : EngXfer) : Prop := ∃ a b, q = a ++ x :: b ∧ x.started = false ∧ ∀ y ∈ a, y.started = true

end Sys2Proof.Claims

/-- Stream transfers (09 R230 to R238; 07 R185 to R188; 08 R207, R222): the oldest that waits starts when fewer than four run, the writes before it are
performed and no earlier one conflicts, or fails at a bank that its multicast may not write; each element is one read and one write; an append waits
while its ring is full; one that has performed all and whose writes are visible ends as done, or failed; the element that fails, at its source or its
destination, is its transfer's last, and one whose write a link has lost aborts the calls that wait for it. Elements are shown between pages of local
memory outside class L, and from there into a ring. A hart that waits for a transfer looks again. -/
def Sys2Proof.Claims.TransfersRunAndEnd : Prop :=
  ∀ (s : State) (cl : BitVec 5), let e : EngineRef := .stream cl
    let q := engQueue s e
    ((∀ x ∈ q, x.started = true) ∨ 4 ≤ (q.filter (fun x => x.started)).length → exec (.transferStart cl) s = .next s)
    ∧ (∀ x, NextUp q x → (q.filter (fun x => x.started)).length < 4 →
        (mayStart s x = false ∨ x.cancelled = true → exec (.transferStart cl) s = .next s)
        ∧ (mayStart s x = true → x.cancelled = false →
          (mcastFault s x = none → ∃ t, exec (.transferStart cl) s = .next t ∧ t = { s with clusters := t.clusters }
              ∧ Queued s t e (Replaced q { x with started := true }))
          ∧ (∀ a, mcastFault s x = some a → ∃ t, exec (.transferStart cl) s = .next t ∧ Fails s t e x 7 a)))
    ∧ (∀ n, q[n]? = none → exec (.transferDone cl n) s = .next s ∧ exec (.transferFailed e n) s = .next s ∧ exec (.engineFifoAppend cl n) s = .next s)
    ∧ (∀ n x, q[n]? = some x →
        (¬ Runs x → exec (.transferDone cl n) s = .next s ∧ exec (.transferFailed e n) s = .next s ∧ exec (.engineFifoAppend cl n) s = .next s)
        ∧ (x.left = [] → exec (.transferFailed e n) s = .next s)
        ∧ (Runs x → x.left = [] → x.maxV ≤ s.pkg.dtime.toNat → ∃ t, exec (.transferDone cl n) s = .next t ∧ Finishes s t e x)
        ∧ (Runs x → x.left = [] → x.cur = none → s.pkg.dtime.toNat < x.maxV → exec (.transferDone cl n) s = .next s)
        ∧ (Runs x → x.left ≠ [] → ∀ k v, nextElem s x = (some k, v) →
            v = { s with freshCount := v.freshCount } ∧ (k ∈ x.left ∨ x.cur = some k)
            ∧ (∀ code addr, streamElem v { x with cur := some k } k = .fail code addr → streamElem v x k = .fail code addr →
                ∃ t, exec (.transferDone cl n) s = .next t ∧ exec (.transferFailed e n) s = .next t ∧ Fails v t e x code addr)
            ∧ (∀ addr, streamElem v { x with cur := some k } k = .lost addr → streamElem v x k = .lost addr →
                ∃ w t, AbortsCalls v w x ∧ exec (.transferDone cl n) s = .next t ∧ exec (.transferFailed e n) s = .next t ∧ Fails w t e x 6 addr)
            ∧ (∀ c u, resolve v x.who (srcAddr x.blk x.count k) .load = (.error c, u) →
                streamElem v x k = .fail (if c = 0x14 then 7 else if c = 0x15 then 5 else if c = 0x06 then 1 else 3) (srcAddr x.blk x.count k))
            ∧ (∀ pa c1 d1 u, resolve v x.who (srcAddr x.blk x.count k) .load = (.ok (.phys pa c1 d1), u) → poisoned u pa (esizeOf x.blk) = true →
                streamElem v x k = .fail 5 (srcAddr x.blk x.count k))
            ∧ (∀ pa c1 d1 u, resolve v x.who (srcAddr x.blk x.count k) .load = (.ok (.phys pa c1 d1), u) → c1 ≠ 1 → poisoned u pa (esizeOf x.blk) = false →
                let w := (u.scrubbed pa (esizeOf x.blk)).atHome none pa (esizeOf x.blk) d1 false
                let bytes := memRead s.mem pa (esizeOf x.blk)
                OnlyLooks s w ∧ w.hart = s.hart
                ∧ (∀ c z, appendsTo w x = none → mcastOf x.blk = 0 → resolve w x.who (dstAddr x.blk x.count k) .store = (.error c, z) →
                  streamElem v x k = .fail (if c = 0x14 then 7 else if c = 0x15 then 5 else if c = 0x07 then 2 else 4) (dstAddr x.blk x.count k))
                ∧ (∀ dst c2 d2 z, appendsTo w x = none → mcastOf x.blk = 0 →
                    resolve w x.who (dstAddr x.blk x.count k) .store = (.ok (.phys dst c2 d2), z) → c2 ≠ 1 → Memory.wf s.mem = true →
                  ∃ t, exec (.transferDone cl n) s = .next t ∧ Stores s t dst bytes ∧ exec (.transferFailed e n) s = .next s
                    ∧ Queued s t e (Replaced q { x with cur := none, left := x.left.erase k, replies := [] })
                    ∧ OnlyPuts s { t with clusters := s.clusters, banks := s.banks } ∧ t.hart = s.hart
                    ∧ (∀ c, t.cluster c = { s.cluster c with stream := (t.cluster c).stream })
                    ∧ ∀ i, t.bank i = { s.bank i with writers := (t.bank i).writers })
                ∧ (∀ i, appendsTo w x = some i → appendsTo s x = some i → exec (.engineFifoAppend cl n) s = exec (.transferDone cl n) s
                    ∧ (24576 < (w.bank i).used + (esizeOf x.blk) → ∃ t, exec (.engineFifoAppend cl n) s = .next t
                        ∧ Queued s t e (Replaced q { x with cur := some k }) ∧ t.banks = s.banks ∧ t.mem = s.mem)
                    ∧ ((w.bank i).used + (esizeOf x.blk) ≤ 24576 → let tail := ((s.bank i).tail + (esizeOf x.blk)) % 49152
                      ∃ t, exec (.engineFifoAppend cl n) s = .next t
                        ∧ Queued s t e (Replaced q { x with cur := none, left := x.left.erase k, replies := [] })
                        ∧ OnlyLooks s { t with clusters := s.clusters, banks := s.banks } ∧ t.hart = s.hart ∧ t.mem = s.mem
                        ∧ ∀ j, t.bank j = if j = i then { ringWrite (s.bank i) (s.bank i).tail bytes with
                              tail := tail, arr := if (s.bank i).arr = (s.bank i).tail then tail else (s.bank i).arr, writers := (t.bank i).writers }
                            else { s.bank j with writers := (t.bank j).writers })))))
    ∧ (∀ u r, Is s u r →
        (u.hart.wait = .transfer → exec (.chainedLoadElement r) s = .next { u with hart := { u.hart with wait := .none } })
        ∧ (u.hart.wait ≠ .transfer → exec (.chainedLoadElement r) s = .next u))

/-- Sorts and audits (09 R234, R239, R240, R249 to R251): the sort engine of a die runs one sort at a time, and ends it when its outputs are visible, or
failed; pairs come out by key, equal keys in their order. The audit of a cluster's oldest entry waits for the answers to its accesses, and has, when
they are all there, posted the event if its context is the first to cross the threshold; one that faults, or whose entry holds an error, ends the
auditing of its context. -/
def Sys2Proof.Claims.SortsAndAuditsComplete : Prop :=
  (∀ ps, (sortPairs ps).Perm ps ∧ (sortPairs ps).Pairwise (fun a b => a.1 ≤ b.1) ∧ ∀ k, (sortPairs ps).filter (fun p => p.1 = k) = ps.filter (fun p => p.1 = k))
  ∧ ∀ (s : State),
    (∀ die : BitVec 2, let e : EngineRef := .sort die
      let q := engQueue s e
      ((∀ x ∈ q, x.started = true) ∨ (∃ x ∈ q, x.started = true) → exec (.sortStart die) s = .next s)
      ∧ (∀ x, NextUp q x → (∀ y ∈ q, y.started = false) →
          (mayStart s x = false ∨ x.cancelled = true → exec (.sortStart die) s = .next s)
          ∧ (mayStart s x = true → x.cancelled = false → ∃ t, exec (.sortStart die) s = .next t ∧ t = { s with dies := t.dies }
              ∧ Queued s t e (Replaced q { x with started := true })))
      ∧ ((∀ x ∈ q, x.started = false) → exec (.sortDone die) s = .next s)
      ∧ (∀ a x b, q = a ++ x :: b → (∀ y ∈ a, y.started = false) → x.started = true →
          (¬ Runs x → exec (.sortDone die) s = .next s ∧ exec (.transferFailed e a.length) s = .next s)
          ∧ (Runs x → x.left = [] → exec (.transferFailed e a.length) s = .next s
            ∧ (x.maxV ≤ s.pkg.dtime.toNat → ∃ t, exec (.sortDone die) s = .next t ∧ Finishes s t e x)
            ∧ (s.pkg.dtime.toNat < x.maxV → exec (.sortDone die) s = .next s))
          ∧ (Runs x → x.left ≠ [] →
            (∀ code addr, sortRun s x = .error (code, addr) →
              ∃ t, exec (.transferFailed e a.length) s = .next t ∧ exec (.sortDone die) s = .next t ∧ Fails s t e x code addr)
            ∧ (∀ v u, sortRun s x = .ok (v, u) → exec (.transferFailed e a.length) s = .next s ∧ engQueue u e = q ∧ u.pkg.dtime = s.pkg.dtime
                ∧ (s.pkg.dtime.toNat < v →
                  ∃ t, exec (.sortDone die) s = .next t ∧ t = { u with dies := t.dies } ∧ Queued u t e (Replaced q { x with left := [], maxV := v }))
                ∧ (v ≤ s.pkg.dtime.toNat → ∃ t, exec (.sortDone die) s = .next t ∧ Finishes u t e x)))))
    ∧ (∀ cl, (s.cluster cl).escrow = [] → exec (.auditEntryProcess cl) s = .next s)
    ∧ (∀ cl x rest, (s.cluster cl).escrow = x :: rest →
        let faults (c : BitVec 8) (addr : Word) : Prop := ∃ t, exec (.auditEntryProcess cl) s = .next t
          ∧ (t.ctx x.ctx).adis = true ∧ (∀ y, y ∈ (t.cluster cl).escrow ↔ y ∈ x :: rest ∧ y.ctx ≠ x.ctx)
          ∧ ∃ u, t = { u with clusters := t.clusters, ctxs := t.ctxs } ∧
            u = State.postFault (if c = 0x15 then { s with pkg := { s.pkg with ue := oneMore s.pkg.ue } } else s) x.ctx
              { time := s.pkg.dtime, kind := 3, cause := c, gang := x.gang, handler := 0xFFFF, queue := 0xFFFF, addr := addr, pc := x.pc }
        (x.waiting = true → exec (.auditEntryProcess cl) s = .next s)
        ∧ (x.waiting = false → x.bad = true → faults 0x15 x.hist)
        ∧ (x.waiting = false → x.bad = false →
          (∀ b v rs addr, auditAccess s x (auditWho x.ctx cl x.gang) = (.ok b v rs, addr) → ∃ w, (∀ k, k ≠ cl → w.cluster k = v.cluster k)
            ∧ w = { v with clusters := w.clusters } ∧ w.cluster cl = { v.cluster cl with escrow := rest }
            ∧ (b ≠ some false → exec (.auditEntryProcess cl) s = .next w)
            ∧ (b = some false → exec (.auditEntryProcess cl) s
                = .next (w.postEvent x.ctx 0x12 x.handler (x.tag.setWidth 64) (BitVec.ofNat 64 x.bin) x.pc (x.gang.setWidth 64) 0)))
          ∧ (∀ c addr, auditAccess s x (auditWho x.ctx cl x.gang) = (.fault c, addr) → faults c addr)
          ∧ (∀ c addr, auditAccess s x (auditWho x.ctx cl x.gang) = (.failed c, addr) → faults 0 addr)
          ∧ (∀ n addr, auditAccess s x (auditWho x.ctx cl x.gang) = (.need n, addr) → ∃ t y, exec (.auditEntryProcess cl) s = .next t
            ∧ (t.cluster cl).escrow = y :: rest ∧ (y = { x with waiting := true } ∨ ∃ q, y = { x with replies := x.replies ++ [q] }))))

/-- Stream transfers, sorts and audits. -/
def Obligations.EnginesComplete : Prop := TransfersRunAndEnd ∧ SortsAndAuditsComplete

/-! ### Lines and scatter-add units -/

namespace Sys2Proof.Claims

/-- The event completes, and nothing but the directory entry of the line differs, which is now `d`. -/
def MakesDir (i : Instr) (s : State) (l : Nat) (d : DirLine) : Prop := exec i s = .next { s with dir := tsetD s.dir l d DirLine.empty }

/-- The event completes, and the directory entry of the line is now `d`; the core's cache may have dropped another line for it, but not where its
set has room (07 R173). -/
def TakesDir (i : Instr) (s : State) (core : BitVec 8) (l : Nat) (d : DirLine) : Prop :=
  let u : State := { s with dir := tsetD s.dir l d DirLine.empty }
  ∃ t, exec i s = .next t ∧ DropsCopies u t core ∧ dirOf t l = dirOf u l ∧ ((coreLines u core (l % 64)).length ≤ cWays u core → t = u)

/-- A write on its way may reach its home: no earlier one of its hart is on its way, and with `.o` no earlier element waits to be performed
(08 R205, 15 R402). -/
def Comes (s : State) (before : List LWrite) (w : LWrite) : Prop :=
  let mine (u : LWrite) : Prop := u.gang = w.gang ∧ u.rank = w.rank ∧ u.foreign = false ∧ w.foreign = false
  (∀ u ∈ before, ¬ mine u) ∧ (w.ordered = true → ∀ u ∈ s.lwrites, mine u → u.ordered = true → u.performed = true)

/-- The entry `w` is that of operation `o` reaching its home in the machine `u`: one on its way there, or that of one from elsewhere, which goes by the
home's record of the line (07 R192; log 33). -/
def Enters (s u : State) (o : SauOp) (w : SauWait) : Prop :=
  let on (x : SauWait) : Prop := x.op = o ∧ x.placed = false
  (∃ before after x, s.sauq = before ++ x :: after ∧ on x ∧ (∀ y ∈ before, ¬ on y) ∧ u = { s with sauq := before ++ after }
      ∧ w = { x with placed := true })
  ∨ ((∀ y ∈ s.sauq, ¬ on y) ∧ u = s ∧ w = { op := o, l := leasedLine s o, da := (tget s.lines (o.pa / 128)).elim false LLine.da, placed := true })

/-- The old value of an element of local memory, and what an operation makes of it: the new value if it writes one, the value it
returns, and whether it saturated (08 R211). -/
def sauEffect (s : State) (o : SauOp) : Option Nat × Nat × Bool := sauAct o (sauIntact s o) (memNat s.mem o.pa (sauBytes o))

/-- An operation has been performed at its element in local memory, of a line that is not leased: memory holds the new value if it
writes one, and what the operation writes with it (15 R415); links are as before or broken unless it is a linked read or a conditional write, and beside memory and links no more differs than for a
store (07 R192). -/
def SauDone (s t : State) (o : SauOp) : Prop :=
  OnlyPuts s { t with linkTable := s.linkTable } ∧ t.hart = s.hart ∧ (o.fn ≠ 14 → o.fn ≠ 15 → OnlyBreaks s t)
  ∧ match (sauEffect s o).1 with
    | some v => (o.also = [] → Stores s t o.pa (leBytes (sauBytes o) v))
        ∧ ∃ u, Stores s u o.pa (leBytes (sauBytes o) v) ∧ t.mem = (u.sauAlso o).mem
    | none => t.mem = s.mem

/-- An operation is answered: with a response packet to a device that asked, whose status says whether it saturated (08 R211); and a context of this
device has its saturation event (09 R244). -/
def SauAnswered (u t : State) (o : SauOp) (ret : Nat) (sat : Bool) : Prop :=
  ∃ v, (∀ dst tag, o.reply = some (dst, tag) → ∃ p, v = Answers u p ∧ p.dst = dst ∧ p.cls = 1 ∧ p.op = 1 ∧ p.tag = tag
      ∧ p.body = [BitVec.ofNat 64 ((if sat then 5 else 0) * 2 ^ 56), BitVec.ofNat 64 ret, 0])
    ∧ (o.reply = none → v = u)
    ∧ (o.issuer = none ∨ sat = false → t = v)
    ∧ ∀ c va, o.issuer = some (c, va) → sat = true → t = v.sauSaturated c va

/-- An operation at its element, which no error spoils, is performed and answered; at one with an uncorrectable error it is refused with status 1, and
the error is counted (08 R210). -/
def SauTurn (s t : State) (o : SauOp) : Prop :=
  (sauSpoilt s o = false → ∃ u, SauDone s u o ∧ SauAnswered u t o (sauEffect s o).2.1 (sauEffect s o).2.2)
  ∧ (sauSpoilt s o = true → let u : State := { s with pkg := { s.pkg with ue := oneMore s.pkg.ue } }
      (o.reply = none → t = u)
      ∧ ∀ dst tag, o.reply = some (dst, tag) → ∃ p, t = Answers u p ∧ p.dst = dst ∧ p.cls = 1 ∧ p.op = 2 ∧ p.tag = tag
        ∧ p.body = [BitVec.ofNat 64 (1 * 2 ^ 56), 0, 0])

/-- A hart whose class L write has its visibility time (08 R205, R208; 13 R356). -/
def withV (h : Hart) (w : LWrite) (v : Nat) : Hart :=
  { h with vispend := BitVec.ofNat 64 (max h.vispend.toNat v), maxV := max h.maxV v
           wait := match h.wait with
             | .stv rd none => if w.seq + 1 = h.postSeq then .stv rd (some (BitVec.ofNat 64 v)) else .stv rd none
             | x => x }

end Sys2Proof.Claims

/-- Lines of classes D and L (08 R197 to R207): a request for ownership leaves one core that may write the line; an invalidation drops the core's clean
copy and is recorded with a miss that is pending; a fill is installed when a miss waits for it and no invalidation overtook it; a lease is granted up to
the next write, and kept when it leaves time to hit; a write that arrives takes V = max(a, H, Vp) and is performed when its home's time reaches V - 4;
the oldest write of a peer that is due is acknowledged. A write is shown on one line, with no other due. -/
def Obligations.LinesChangeHands : Prop :=
  ∀ (s : State),
    (∀ (core : BitVec 8) l, let d := dirOf s l
      (d.mayWrite core 0 = true → MakesDir (.ownershipRequest core l) s l d)
      ∧ (d.mayWrite core 0 = false → ∃ e, MakesDir (.ownershipRequest core l) s l e ∧ e.mayWrite core 0 = true
          ∧ (d.state = .I ∨ d.state = .S → privatises d.tenures core = false →
              e.state = .M ∧ e.copies = [{ core := core, written := 0, mask := 0 }] ∧ e.tenures = d.tenures
              ∧ e.seq = d.seq + BitVec.ofNat 8 (d.copies.filter (fun k => k.core ≠ core)).length)
          ∧ (d.state = .M → e.tenures = keepTenures (d.tenures ++ d.copies.map (fun k => { core := k.core, mask := k.written })))))
    ∧ (∀ (core : BitVec 8) l (seq : BitVec 8), let d := dirOf s l
      let others := d.copies.filter (fun k => k.core ≠ core)
      let noted := d.pending.map (fun p => if p.1 = core then (p.1, p.2.1, some seq) else p)
      (d.state = .S → MakesDir (.invalidation core l seq) s l { d with pending := noted, copies := others, state := if others = [] then .I else .S })
      ∧ (d.state ≠ .S → MakesDir (.invalidation core l seq) s l { d with pending := noted })
      ∧ ((∀ p ∈ d.pending, ¬ (p.1 = core ∧ p.2.1 = seq)) → TakesDir (.lineFill core l seq) s core l d)
      ∧ (∀ before p after, d.pending = before ++ p :: after → (∀ q ∈ before, ¬ (q.1 = core ∧ q.2.1 = seq)) → p.1 = core → p.2.1 = seq →
          let late := ∃ i, p.2.2 = some i ∧ i ≠ seq ∧ (i - seq).toNat < 128
          (late → TakesDir (.lineFill core l seq) s core l { d with pending := before ++ after })
          ∧ (¬ late → TakesDir (.lineFill core l seq) s core l { d with
              pending := before ++ after, copies := d.copies.map (fun k => if k.core = core then { k with held := true } else k) })))
    ∧ (∀ (core : BitVec 8) l, let x := s.lline false l
      let now := s.pkg.dtime.toNat
      let p := if x.copies.any (fun k => k.core = core) ∧ x.written = false then min (2 * x.lease) 65536 else x.lease
      ∃ u t e, exec (.leaseRead core l) s = .next t ∧ DropsCopies u t core ∧ tget t.lines l = tget u.lines l ∧ u = { s with lines := u.lines }
        ∧ (s.pendingOf l = [] → e = now + p) ∧ (∀ w ws, s.pendingOf l = w :: ws → e = min (now + p) w.v)
        ∧ ∀ k, tget u.lines k = if k = l then some { x with
            horizon := max x.horizon e, lease := p, written := false
            copies := if now + 8 < e ∧ 0 < cWays s core then
                x.copies.filter (fun k => k.core ≠ core) ++ [{ core := core, expiry := e, data := memNat s.mem (l * 128) 128 }]
              else x.copies }
          else tget s.lines k)
    ∧ ((∀ before w after, s.ltransit = before ++ w :: after → ¬ Comes s before w) → exec .lWriteArrival s = .next s)
    ∧ (∀ before w after, s.ltransit = before ++ w :: after → (∀ a u b, before = a ++ u :: b → ¬ Comes s a u) → Comes s before w → w.more = none →
      let l := w.pa / 128
      let x := s.lline w.da l
      let now := s.pkg.dtime.toNat
      let v := max now (max x.horizon x.lastV)
      (∀ u ∈ s.lwrites, now + 4 < u.v) → ∃ t, exec .lWriteArrival s = .next t
        ∧ t = { s with ltransit := before ++ after, lines := t.lines, lwrites := t.lwrites, hart := t.hart, harts := t.harts, mem := t.mem
                       poison := t.poison, linkTable := t.linkTable }
        ∧ (∀ k, k ≠ l → tget t.lines k = tget s.lines k)
        ∧ t.allHarts = s.allHarts.map (fun h => if h.gang = w.gang ∧ h.rank = w.rank ∧ w.foreign = false then withV h w v else h)
        ∧ (now + 4 < v → t.lwrites = s.lwrites ++ [{ w with v := v }] ∧ t.mem = s.mem ∧ tget t.lines l = some { x with lastV := v, lease := 64 })
        ∧ (v ≤ now + 4 → w.performed = false → w.sau = false → s.pendingOf l = [] → Memory.wf s.mem = true → Stores s t w.pa w.data ∧ OnlyBreaks s t
            ∧ tget t.lines l = some { x with lastV := v, lease := 64, written := true }
            ∧ t.lwrites = s.lwrites ++ if v ≤ now then [] else [{ w with v := v, performed := true }]))
    ∧ (∀ l, s.pendingOf l = [] → exec (.lWritePerform l) s = .next s)
    ∧ (∀ l w ws, s.pendingOf l = w :: ws →
      (s.pkg.dtime.toNat + 4 < w.v ∨ w.sau = true → exec (.lWritePerform l) s = .next s)
      ∧ (w.v ≤ s.pkg.dtime.toNat + 4 → w.sau = false → Memory.wf s.mem = true → ∃ t, exec (.lWritePerform l) s = .next t
          ∧ Stores s t w.pa w.data ∧ OnlyBreaks s t
          ∧ t = { s with mem := t.mem, poison := t.poison, linkTable := t.linkTable, lines := t.lines
                         lwrites := s.lwrites.map (fun u => if u = w then { u with performed := true } else u) }
          ∧ ∀ k, tget t.lines k = if k = w.pa / 128 then (tget s.lines k).map (fun x => { x with written := true }) else tget s.lines k))
    ∧ ((∀ a ∈ s.peerAcks, s.pkg.dtime.toNat < a.v) → exec .peerLWriteAck s = .next s)
    ∧ (∀ before a after, s.peerAcks = before ++ a :: after → (∀ b ∈ before, s.pkg.dtime.toNat < b.v) → a.v ≤ s.pkg.dtime.toNat →
      ∃ p, exec .peerLWriteAck s = .next (Answers { s with peerAcks := before ++ after } p) ∧ p.dst = a.dst ∧ p.cls = (if a.mgt then 4 else 0) ∧ p.op = 3
        ∧ p.tag = a.tag ∧ p.body = [0])

/-- The scatter-add units and host lines (07 R192, R193; 08 R206, R207, R211; 09 R243): an operation takes its place behind those held for its line; with
none before it, it is performed at once and answered, but for one on a leased line, which takes a visibility time (shown while that has not come), and
the first on a host line, which asks for it; a chain is applied when its line is ready; a home that drops a line recalls its copies and keeps a running
horizon; a snooped host line goes back, written when modified, and not before the operations chained for it are applied. Performing is shown for one
operation on a line of local memory that is not leased, while no snoop waits. -/
def Obligations.ScatterAddsComplete : Prop :=
  ∀ (s : State),
    (∀ o u w, Enters s u o w → let l := sauLine o
      let queued : State := { u with sauq := u.sauq ++ [w] }
      (w.l = false → o.host = false → u.chain l = [] → u.snoops = [] → Memory.wf s.mem = true →
        ∃ t, exec (.sauOperation o) s = .next t ∧ SauTurn u t o)
      ∧ (w.l = false → u.chain l ≠ [] → exec (.sauOperation o) s = .next queued)
      ∧ (w.l = false → o.host = true → u.chain l = [] → tget u.pulled (o.pa / 128) = none →
        exec (.sauOperation o) s = .next { queued with
          hostOut := s.hostOut ++ [.pull s.fab.nextTag (o.pa / 128)]
          fab := { s.fab with nextTag := s.fab.nextTag + 1
                              reqs := s.fab.reqs ++ [{ tag := s.fab.nextTag, dst := s.fab.devid, port := 0xF, since := s.pkg.dtime.toNat
                                                       waiter := .pull (o.pa / 128), lease := none }] } })
      ∧ (let x := u.lline w.da l
        let v := max s.pkg.dtime.toNat (max x.horizon x.lastV)
        w.l = true → o.host = false → u.chain l ≠ [] ∨ (u.pendingOf l = [] ∧ s.pkg.dtime.toNat + 4 < v) →
          ∃ m : LWrite, m.pa = o.pa ∧ m.v = v ∧ m.sau = true ∧ m.performed = false ∧ m.data = []
            ∧ exec (.sauOperation o) s = .next { queued with lines := tset u.lines l { x with lastV := v }, lwrites := u.lwrites ++ [m] }))
    ∧ (∀ l, s.chain l = [] → exec (.sauChainApply l) s = .next s)
    ∧ (∀ l w rest, s.chain l = w :: rest → sauReady s w = false → exec (.sauChainApply l) s = .next s)
    ∧ (∀ l w, s.chain l = [w] → w.l = false → w.op.host = false → s.snoops = [] → Memory.wf s.mem = true →
      ∃ t, exec (.sauChainApply l) s = .next t ∧ SauTurn { s with sauq := s.sauq.filter (fun x => x ≠ w) } t w.op)
    ∧ (∀ l, s.pendingOf l ≠ [] ∨ (∃ w ∈ s.sauq, w.line = l) → exec (.l2Eviction l) s = .next s)
    ∧ (∀ l, s.pendingOf l = [] → (∀ w ∈ s.sauq, w.line ≠ l) → l < 2 ^ 45 →
      ∃ t, exec (.l2Eviction l) s = .next t ∧ OnlyBreaks s t
        ∧ t = { s with dir := t.dir, linkTable := t.linkTable, lines := t.lines, evicted := t.evicted, l2 := t.l2, dies := t.dies }
        ∧ (∀ d, t.die d = { s.die d with uncore := (t.die d).uncore })
        ∧ t.dir = tsetD s.dir l ((dirOf s l).home true) DirLine.empty
        ∧ (tget s.lines l = none → t.lines = s.lines ∧ t.evicted = s.evicted)
        ∧ ∀ x, tget s.lines l = some x → let k := 48 * (homeOf (l * 128) x.da).1.toNat + (homeOf (l * 128) x.da).2
            t.lines = tdel s.lines l ∧ t.evicted = tsetD s.evicted k
              (if s.pkg.dtime.toNat < x.horizon then max (tgetD s.evicted k 0) x.horizon else tgetD s.evicted k 0) 0)
    ∧ (∀ l, (s.chain (2 ^ 45 + l) ≠ [] → exec (.cxlSnoop l) s = .next { s with snoops := if l ∈ s.snoops then s.snoops else s.snoops ++ [l] })
      ∧ (∀ j w, (j = .cxlSnoop l ∧ w = s.snoops.filter (fun k => k ≠ l) ∧ s.chain (2 ^ 45 + l) = [])
            ∨ (j = .l2Eviction (2 ^ 45 + l) ∧ w = s.snoops ∧ s.pendingOf (2 ^ 45 + l) = [] ∧ ∀ x ∈ s.sauq, x.line ≠ 2 ^ 45 + l) →
          ∃ t, exec j s = .next t ∧ OnlyBreaks s t
          ∧ (tget s.pulled l = none → t = { s with linkTable := t.linkTable, snoops := w })
          ∧ (∀ d, tget s.pulled l = some (d, false) → t = { s with linkTable := t.linkTable, snoops := w, pulled := tdel s.pulled l })
          ∧ ∀ d, tget s.pulled l = some (d, true) → t = { s with
            linkTable := t.linkTable
            snoops := w
            pulled := tdel s.pulled l
            hostOut := s.hostOut ++ [.write (l * 128) (leBytes 128 d)] }))

/-! ### Memory and atomic packets -/

namespace Sys2Proof.Claims

/-- The first word of a packet's content. -/
def head (p : Packet) : Nat := (p.body.headD 0).toNat

/-- The address, and the number of bytes, of a memory request (08 Table 8.3). -/
def askedAt (p : Packet) : Nat × Nat := (head p % 2 ^ 52, head p / 2 ^ 55 % 128 + 1)

/-- A request is answered to its source with an operation of its class (01 R32). -/
def Responds (i : Instr) (s u : State) (p : Packet) (op : BitVec 5) (body : List Word) : Prop :=
  ∃ q, exec i s = .next (Answers u q) ∧ q.dst = p.src ∧ q.src = s.fab.devid ∧ q.cls = p.cls ∧ q.op = op ∧ q.tag = p.tag ∧ q.hops = 15 ∧ q.body = body

/-- One more uncorrectable error counted. -/
def moreUe (s : State) : State := { s with pkg := { s.pkg with ue := oneMore s.pkg.ue } }

/-- A status in bits 63:56. -/
def statusIn (st : Nat) : Word := BitVec.ofNat 64 (st * 2 ^ 56)

end Sys2Proof.Claims

/-- Memory packets at their home and at their requester (08 R202, R205, R209, R210): an access across a line, above context memory or of a bad
word is refused with its status; a read is answered with the bytes, and a lease when it asks for one; a write is performed and
acknowledged, one of class L once device time reaches its V (shown with no other write due); an answer reaches what waits for it, and a leased line is
kept by a core that has a data cache while its time lasts. -/
def Sys2Proof.Claims.MemoryPacketsComplete : Prop :=
  ∀ (s : State),
    (∀ p, let pa := (askedAt p).1
      let n := (askedAt p).2
      let l := pa / 128
      let now := s.pkg.dtime.toNat
      (∀ i ∈ [Instr.memoryRead p, .memoryWrite p],
        (128 < pa % 128 + n → Responds i s s p 4 [statusIn 3]) ∧ (pa % 128 + n ≤ 128 → contextTop ≤ pa → Responds i s s p 4 [statusIn 2]))
      ∧ (pa % 128 + n ≤ 128 → pa < contextTop →
        (poisoned s pa n = true → Responds (.memoryRead p) s (moreUe s) p 4 [statusIn 1])
        ∧ (poisoned s pa n = false → (p.body.headD 0).getLsbD 63 = false → ∃ u b, Responds (.memoryRead p) s u p 1 (0 :: b)
            ∧ (bytesOf b).take n = memRead s.mem pa n ∧ OnlyLooks s u ∧ u.hart = s.hart)
        ∧ (poisoned s pa n = false → (p.body.headD 0).getLsbD 63 = true → ∃ u v b d e, Responds (.memoryRead p) s v p 1 (d :: b)
            ∧ (bytesOf b).take n = memRead s.mem pa n ∧ OnlyLooks s u ∧ u.hart = s.hart ∧ u.dir = s.dir
            ∧ (let x := u.lline false l
              let len := if (p.body.headD 0).getLsbD 62 = true ∧ x.written = false then min (2 * x.lease) 65536 else x.lease
              (s.pendingOf l = [] → e = now + len) ∧ (∀ w ws, s.pendingOf l = w :: ws → e = min (now + len) w.v)
              ∧ d = BitVec.ofNat 64 ((e - now) % 2 ^ 17)
              ∧ v = { u with lines := tset u.lines l { x with horizon := max x.horizon e, lease := len, written := false } }))
        ∧ (Memory.wf s.mem = true → let data := (bytesOf p.body.tail).take n
            ((p.body.headD 0).getLsbD 62 = false → ∃ u, Responds (.memoryWrite p) s u p 3 [0] ∧ OnlyPuts s u ∧ u.hart = s.hart ∧ Stores s u pa data)
            ∧ ((p.body.headD 0).getLsbD 62 = true → (∀ w ∈ s.lwrites, now + 4 < w.v) → let x := s.lline false l
                let v := max now (max x.horizon x.lastV)
                ∃ t w, exec (.memoryWrite p) s = .next t ∧ t.peerAcks = s.peerAcks ++ [{ dst := p.src, tag := p.tag, v := v }]
                  ∧ t = { s with lines := t.lines, lwrites := t.lwrites, peerAcks := t.peerAcks, mem := t.mem, poison := t.poison, linkTable := t.linkTable }
                  ∧ (∀ k, k ≠ l → tget t.lines k = tget s.lines k)
                  ∧ w.pa = pa ∧ w.data = data ∧ w.v = v ∧ w.foreign = true
                  ∧ (now + 4 < v → t.lwrites = s.lwrites ++ [w] ∧ w.performed = false ∧ t.mem = s.mem ∧ tget t.lines l = some { x with lastV := v, lease := 64 })
                  ∧ (v ≤ now + 4 → s.pendingOf l = [] → Stores s t pa data ∧ w.performed = true ∧ t.lwrites = s.lwrites ++ (if v ≤ now then [] else [w])
                      ∧ tget t.lines l = some { x with lastV := v, lease := 64, written := true })))))
    ∧ (∀ p, (∀ r ∈ s.fab.reqs, ¬ (r.tag = p.tag ∧ r.dst = p.src)) →
      ∀ i ∈ [Instr.memoryReadData p, .memoryWriteAck p, .memoryErrorResponse p, .atomicResponse p, .atomicErrorResponse p], exec i s = .next s)
    ∧ (∀ p r rest ref, FirstReq s (fun r => r.tag = p.tag ∧ r.dst = p.src) r rest → r.waiter = .hart ref →
      let st : BitVec 8 := BitVec.ofNat 8 (head p / 2 ^ 56)
      let bad : BitVec 8 := if st = 0 then 4 else st
      let data := bytesOf p.body.tail
      let q (st : BitVec 8) (data : List Byte) : Reply := { tag := r.tag, status := st, data := data, time := s.pkg.dtime.toNat }
      (r.lease = none → exec (.memoryReadData p) s = .next (Replied s rest ref (q st data))
        ∧ exec (.atomicResponse p) s = .next (Replied s rest ref (q st (leBytes 8 (p.body.getD 1 0).toNat))))
      ∧ (∀ i ∈ [Instr.memoryErrorResponse p, .atomicErrorResponse p], exec i s = .next (Replied s rest ref (q bad [])))
      ∧ (∀ l, r.lease = some l → st = 0 → data.length = 128 → let till := r.since + head p % 2 ^ 17
          let x := s.lline false l
          let kept : State := { s with lines := tset s.lines l { x with
            copies := x.copies.filter (fun k => k.core ≠ ref.core) ++ [{ core := ref.core, expiry := till, data := leNat data }] } }
          (till ≤ s.pkg.dtime.toNat + 8 ∨ cWays s ref.core = 0 → exec (.memoryReadData p) s = .next (Replied s rest ref (q 0 data)))
          ∧ (s.pkg.dtime.toNat + 8 < till → 0 < cWays s ref.core → ∃ v, DropsCopies kept v ref.core ∧ tget v.lines l = tget kept.lines l
              ∧ exec (.memoryReadData p) s = .next (Replied v rest ref (q 0 data)))))
    ∧ (∀ p r rest ref h w, FirstReq s (fun r => r.tag = p.tag ∧ r.dst = p.src) r rest → r.waiter = .write ref →
      s.hart = h → h.live = true → h.ref = ref → h.posted = [w] → w.tag = r.tag → w.failed = false → (∀ rd, h.wait ≠ .stv rd none) →
      (head p / 2 ^ 56 = 0 → exec (.memoryWriteAck p) s = .next { s with
          fab := { s.fab with reqs := rest }
          hart := { h with posted := [], vispend := BitVec.ofNat 64 (max h.vispend.toNat s.pkg.dtime.toNat) } })
      ∧ ∃ t u, exec (.memoryErrorResponse p) s = .next t ∧ t = { u with cores := t.cores }
        ∧ (∀ c, t.core c = { s.core c with send := (s.core c).send.map (fun k =>
            if c = ref.core ∧ k.2.sent = false ∧ k.2.gang = h.gang ∧ k.2.rank = h.rank ∧ w.seq < k.2.rel.seq then (k.1, { k.2 with abort := true }) else k) })
        ∧ u = State.postFault { s with fab := { s.fab with reqs := rest }, hart := { h with posted := [{ w with failed := true }] } } h.ctx
            { time := s.pkg.dtime, kind := 7, cause := 0, gang := h.gang, handler := 0xFFFF, queue := 0xFFFF, addr := w.va, pc := 0 })

/-- Atomic requests at their home (08 R211; 09 R243): one that is misaligned or of no defined function, beyond context memory, of a bad word, or on
a host element that this device does not reach, is refused with its status; any other is an operation of the scatter-add unit, which is performed at
once and answered when its line is not leased and nothing is held before it. Which of two statuses an ill-formed one has is the model's free choice
(log 1). -/
def Sys2Proof.Claims.AtomicRequestsComplete : Prop :=
  ∀ (s : State) (p : Packet),
    let w := head p
    let o : SauOp := { host := p.ctx = 1, pa := w % 2 ^ 52, fn := BitVec.ofNat 6 (w / 2 ^ 58), dbl := (p.body.headD 0).getLsbD 57, a := p.body.getD 1 0
                       b := p.body.getD 2 0, reply := some (p.src, p.tag), issuer := none }
    let size := if o.dbl then 8 else 4
    let ill := 16 ≤ o.fn.toNat ∨ o.pa % size ≠ 0 ∨ (o.fn = 13 ∧ o.dbl = false)
    let refused (u : State) (st : Nat) : Prop := ∃ q, exec (.atomicRequest p) s = .next (Answers u q) ∧ q.dst = p.src ∧ q.cls = 1 ∧ q.op = 2 ∧ q.tag = p.tag
      ∧ q.body = [statusIn st, 0, 0]
    (o.host = true → s.fab.bridge = false → refused s 3)
    ∧ (o.host = false ∨ s.fab.bridge = true →
      (ill → refused { s with freshCount := s.freshCount + 1 } 3 ∨ refused { s with freshCount := s.freshCount + 1 } 4)
      ∧ (¬ ill → (o.host = true → s.cxlCache = false → refused s 4)
        ∧ (o.host = false → contextTop ≤ o.pa → refused s 2)
        ∧ (o.host = false → o.pa < contextTop → poisoned s o.pa size = true → refused (moreUe s) 1)
        ∧ ((o.host = true ∧ s.cxlCache = true) ∨ (o.host = false ∧ o.pa < contextTop ∧ poisoned s o.pa size = false) →
            (∀ x ∈ s.sauq, x.op = o → x.placed = true) → exec (.atomicRequest p) s = exec (.sauOperation o) s)))
    ∧ (o.host = false → ¬ ill → o.pa < contextTop → poisoned s o.pa size = false → s.chain (o.pa / 128) = [] → leasedLine s o = false → s.snoops = [] →
        Memory.wf s.mem = true →
        ∃ u q, exec (.atomicRequest p) s = .next (Answers u q) ∧ SauDone s u o ∧ q.dst = p.src ∧ q.cls = 1 ∧ q.op = 1 ∧ q.tag = p.tag
          ∧ q.body = [statusIn (if (sauEffect s o).2.2 then 5 else 0), BitVec.ofNat 64 (sauEffect s o).2.1, 0])

/-- Memory and atomic packets. -/
def Obligations.RemoteRequestsComplete : Prop := MemoryPacketsComplete ∧ AtomicRequestsComplete

/-! ### The ends of waits -/

/-- The ends of a hart's waits (08 R226 to R229; 13 R354 to R359, R362): an event of a slot without hart, or of a hart that does not wait so, changes nothing.
A fence reports 0, or LINK_DOWN, when nothing else keeps it, once a posted write has failed or the limit has passed; a time or a ticket that has come lets the
hart go on, and one that has not does not; a reply reaches its register; HWAIT ends with what ended it, and with 2 otherwise. -/
def Sys2Proof.Claims.WaitsEnd : Prop :=
  ∀ (s : State) (r : HartRef),
    ((∀ u, ¬ Is s u r) → ∀ i ∈ [Instr.fenceWaitEnd r, .systemFenceTimeout r, .viswaitEnd r, .tkwaitGrant r, .hwaitWake r], exec i s = .next s)
    ∧ (∀ rd v, s.hart.live = true → s.hart.ref = r → s.hart.wait = .stv rd (some v) → ∃ t, exec (.stvReply r) s = .next t ∧ t = { s with hart := t.hart }
        ∧ Writes s t rd v ∧ t.hart = { s.hart with x := t.hart.x, wait := .none })
    ∧ (s.hart.live = true → s.hart.ref = r → (∀ rd v, s.hart.wait ≠ .stv rd (some v)) → exec (.stvReply r) s = .next s)
    ∧ (∀ u, Is s u r →
      (∀ scope rd report start, u.hart.wait = .fence scope rd report start →
        (fenceEnd u scope.toNat start = .waits → exec (.fenceWaitEnd r) s = .next u ∧ exec (.systemFenceTimeout r) s = .next u)
        ∧ (report = false → fenceEnd u scope.toNat start ≠ .waits → exec (.fenceWaitEnd r) s = .next { u with hart := { u.hart with wait := .none } })
        ∧ (report = false → exec (.systemFenceTimeout r) s = .next u)
        ∧ (report = true → fenceEnd u scope.toNat start = .complete → exec (.systemFenceTimeout r) s = .next u ∧ ∃ t, exec (.fenceWaitEnd r) s = .next t
            ∧ WritesOnly (if scope = 0 then u else u.writeHome) t rd 0 (u.hart.pc + 4))
        ∧ (report = true → scope = 5 → (∀ x ∈ u.hart.xfers, x.state ≠ .running) → fenceReady u = true → ∀ p, firstPosted u.hart.posted = some p →
            (∃ q ∈ u.hart.posted, q.failed = true) ∨ start.toNat + lrTicks u ≤ u.pkg.dtime.toNat →
            let v := (u.writeHome.postLinkFault u.hart.ctx p.port p.va).withHart (fun h => { h with posted := h.posted.filter (fun q => !q.failed) })
            ∀ i ∈ [Instr.fenceWaitEnd r, .systemFenceTimeout r],
              ((v.ctx u.hart.ctx).ftrap = false → ∃ t, exec i s = .next t ∧ WritesOnly v t rd (BitVec.ofNat 64 (1 + 256 * p.port.toNat)) (v.hart.pc + 4))
              ∧ ((v.ctx u.hart.ctx).ftrap = true → exec i s = .next (v.takeTrap 0x10 (p.port.setWidth 64) none))))
      ∧ (u.hart.wait = .fenceI →
        (seenAll u = true → exec (.fenceWaitEnd r) s = .next { u with hart := { u.hart with wait := .none } })
        ∧ (seenAll u = false → exec (.fenceWaitEnd r) s = .next u))
      ∧ ((∀ scope rd report start, u.hart.wait ≠ .fence scope rd report start) → exec (.systemFenceTimeout r) s = .next u
        ∧ (u.hart.wait ≠ .fenceI → exec (.fenceWaitEnd r) s = .next u))
      ∧ (∀ t, u.hart.wait = .viswait t →
        (t.toNat ≤ u.pkg.dtime.toNat → exec (.viswaitEnd r) s = .next { u with hart := { u.hart with wait := .none } })
        ∧ (u.pkg.dtime.toNat < t.toNat → exec (.viswaitEnd r) s = .next u))
      ∧ ((∀ t, u.hart.wait ≠ .viswait t) → exec (.viswaitEnd r) s = .next u)
      ∧ (∀ tile k cl, u.hart.wait = .ticket tile k cl → let p := ticketAt u cl tile
        (p.s = k → ∃ t, exec (.tkwaitGrant r) s = .next t ∧ GoesOn { u with tickets := t.tickets, hart := { u.hart with held := t.hart.held } } t (u.hart.pc + 4)
          ∧ (∀ x, x ∈ t.hart.held ↔ x = tile ∨ x ∈ u.hart.held) ∧ ticketAt t cl tile = { p with holder := some (u.hart.gang, u.hart.rank) })
        ∧ (p.s ≠ k → exec (.tkwaitGrant r) s = .next u))
      ∧ ((∀ tile k cl, u.hart.wait ≠ .ticket tile k cl) → exec (.tkwaitGrant r) s = .next u)
      ∧ (∀ expect rd start, u.hart.wait = .hwait none expect rd start →
        ∃ t, exec (.hwaitWake r) s = .next t ∧ WritesOnly u t rd (if u.hart.interruptible then 1 else 2) (u.hart.pc + 4))
      ∧ (∀ a expect rd start b v, u.hart.wait = .hwait (some a) expect rd start → hartLoad u a 8 = .ok b v →
        ∃ t, exec (.hwaitWake r) s = .next t
          ∧ WritesOnly v t rd (if leNat b ≠ expect.toNat then 0 else if v.hart.interruptible then 1 else 2) (v.hart.pc + 4))
      ∧ ((∀ a expect rd start, u.hart.wait ≠ .hwait a expect rd start) → exec (.hwaitWake r) s = .next u))

/-- A user interrupt is taken for the owed transfer that ended first, in user mode with interrupts enabled, no convoy in flight and no instruction under way (10
R256): `uepc`, `ucause`, `xtid`, `xhandler` and `xstat` tell of it, interrupts are disabled and the pc is its handler. The record of a strip whose closing
point has come is stored at the ring's head (10 R278, R279; shown on local memory outside class L); one that cannot be stored disables the records, and one
that meets a transfer in flight waits. -/
def Sys2Proof.Claims.InterruptsAndStripsComplete : Prop :=
  ∀ (s : State) (r : HartRef),
    ((∀ u, ¬ Is s u r) → exec (.userInterruptEntry r) s = .next s ∧ exec (.stripClose r) s = .next s)
    ∧ (∀ u, Is s u r → let h := u.hart
      let owed (x : Xfer) : Prop := x ∈ h.xfers ∧ x.irq = true ∧ x.state ≠ .running
      (h.sup = true ∨ h.uieIe = false ∨ (∀ x, ¬ owed x) ∨ h.disp ≠ [] ∨ h.wait ≠ .none ∨ h.replies ≠ [] → exec (.userInterruptEntry r) s = .next u)
      ∧ (h.sup = false → h.uieIe = true → h.disp = [] → h.wait = .none → h.replies = [] → ∀ x, owed x → (∀ y, owed y → y ≠ x → x.order < y.order) →
        ∃ t, exec (.userInterruptEntry r) s = .next t ∧ OnlyHart u t ∧ t.hart = { h with
          uepc := h.pc.setWidth 48
          ucause := if x.sort then (if x.state = .done then 3 else 4) else if x.state = .done then 1 else 2
          xtid := x.id, xhandler := x.handler, xstat := BitVec.ofNat 64 x.status, xfers := h.xfers.erase x, uiePie := true, uieIe := false
          pc := x.handler.setWidth 64, wait := .none, replies := [], relStart := none, lookups := [] })
      ∧ (h.stripDue = [] → exec (.stripClose r) s = .next u)
      ∧ (∀ d rest, h.stripDue = d :: rest →
        (d.counts = none → exec (.stripClose r) s = .next u)
        ∧ (∀ cycles coins arith mem, d.counts = some (cycles, coins, arith, mem) →
          let a : Word := BitVec.ofNat 64 (h.srbase.toNat * 4096 + 32 * (h.srhead.toNat % 2 ^ h.srK.toNat))
          let top (n : Nat) : Nat := min n (2 ^ 32 - 1)
          (∀ c v, resolve u h.who a .store = (.error c, v) →
            exec (.stripClose r) s = .next { u with hart := { h with stripDue := rest, srFlt := true, srEn := false } })
          ∧ (∀ p v, resolve u h.who a .store = (.ok p, v) → transfersMet v a.toNat 32 true ≠ [] → exec (.stripClose r) s = .next u)
          ∧ (∀ pa cls da v, resolve u h.who a .store = (.ok (.phys pa cls da), v) → transfersMet v a.toNat 32 true = [] → cls ≠ 1 → Memory.wf u.mem = true →
            ∃ t, exec (.stripClose r) s = .next t ∧ OnlyPuts u t
              ∧ Stores u t pa (leBytes 8 (d.pc.toNat % 2 ^ 48) ++ leBytes 8 (d.vrows * 2 ^ 34 + d.vcols * 2 ^ 17 + d.vl)
                  ++ leBytes 8 (top cycles * 2 ^ 32 + top coins) ++ leBytes 8 (top arith * 2 ^ 32 + top mem))
              ∧ t.hart = { h with stripDue := rest, srhead := h.srhead + 1
                                  vispend := BitVec.ofNat 64 (max h.vispend.toNat u.pkg.dtime.toNat) }))))

/-- The ends of waits, user interrupts and strips. -/
def Obligations.WaitsAndInterruptsEnd : Prop := WaitsEnd ∧ InterruptsAndStripsComplete

/-! ### Debug, counters and dumps -/

namespace Sys2Proof.Claims

/-- The event completes, and of the machine only one core's own state differs, which is now `c`. -/
def MakesCore (i : Instr) (s : State) (core : BitVec 8) (c : Core) : Prop :=
  ∃ t, exec i s = .next t ∧ t = { s with cores := t.cores } ∧ t.core core = c ∧ ∀ k, k ≠ core → t.core k = s.core k

end Sys2Proof.Claims

/-- Debug (10 R270 to R272): a halt stops the core with reason 1; a core halted between instructions resumes, steps the hart that `shart` names, or is snapped, and on
one that is not these change nothing; a step that is over halts the core again with reason 4. Snapping and resuming are shown in full for cores whose gangs have no frame. -/
def Sys2Proof.Claims.DebugCommandsComplete : Prop :=
  ∀ (s : State) (core : BitVec 8), let c := s.core core
    let harts := s.allHarts.filter (fun h => h.core = core)
    let between (h : Hart) : Prop := h.disp = [] ∧ h.replies = [] ∧ (∀ tag, h.wait ≠ .reply tag) ∧ ∀ rd v, h.wait ≠ .stv rd v
    let halted := c.dHalted = true ∧ c.stepping = none ∧ ∀ h ∈ harts, between h
    let noFrame := ∀ h ∈ harts, ∀ g, tget s.gangs h.gang.toNat = some g → g.frame = none
    let shart := s.findHart { core := core, slot := c.dShart }
    (c.dHalted = true → c.stepping = none → exec (.dbctlHalt core) s = .next s)
    ∧ (c.dHalted = false ∨ c.stepping ≠ none →
        MakesCore (.dbctlHalt core) s core { c with dHalted := true, dReason := 1, stepping := none, stepBegan := false, snapped := false })
    ∧ (¬ halted → ∀ i ∈ [Instr.dbctlResume core, .dbctlStep core, .dbctlSteprep core, .dbctlSnap core], exec i s = .next s)
    ∧ (halted →
      (c.snapped = false ∨ noFrame → MakesCore (.dbctlResume core) s core { c with dHalted := false, dReason := 0, dRstep := 0, snapped := false })
      ∧ (∃ t, exec (.dbctlResume core) s = .next t ∧ t.core core = { c with dHalted := false, dReason := 0, dRstep := 0, snapped := false })
      ∧ (shart = none → ∀ i ∈ [Instr.dbctlStep core, .dbctlSteprep core], exec i s = .next s)
      ∧ (shart ≠ none → MakesCore (.dbctlStep core) s core { c with stepping := some false, stepBegan := false, dRstep := 0 }
        ∧ MakesCore (.dbctlSteprep core) s core { c with stepping := some true, stepBegan := false })
      ∧ (∃ t b, exec (.dbctlSnap core) s = .next t ∧ t.core core = { c with snapped := true, dNosnap := b })
      ∧ (noFrame → ∃ b, MakesCore (.dbctlSnap core) s core { c with snapped := true, dNosnap := b }
        ∧ (b = true ↔ ∃ h ∈ harts, ∃ g, tget s.gangs h.gang.toNat = some g)))
    ∧ (let ended := c.stepping ≠ none ∧ c.stepBegan = true
          ∧ ∀ h, shart = some h → h.disp = [] ∧ (h.wait = .none ∨ h.wait = .saved ∨ h.wait = .ended ∨ h.wait = .halted)
      (¬ ended → exec (.stepComplete core) s = .next s)
      ∧ (ended → MakesCore (.stepComplete core) s core { c with stepping := none, stepBegan := false, dHalted := true, dReason := 4, dHart := c.dShart }))

/-- Counter triggers and dumps (10 R267 to R269, R276, R277): `pmtrig` arms the trigger, and at its time every counter is copied to its shadow, and the time kept; one dump
is written at a time, oldest first, into a region that holds at least its header; then its context is DEAD, or the reset that waited begins. The header
is shown for a context without gangs. -/
def Sys2Proof.Claims.TriggersAndDumpsComplete : Prop :=
  ∀ (s : State),
    (∀ t, OnlyPkg (.pmtrigWrite t) s { s.pkg with pmtrig := t, pmPending := true })
    ∧ (s.pkg.pmPending = false ∨ s.pkg.dtime.toNat < s.pkg.pmtrig.toNat → exec .counterLatch s = .next s)
    ∧ (s.pkg.pmPending = true → s.pkg.pmtrig.toNat ≤ s.pkg.dtime.toNat → ∃ t, exec .counterLatch s = .next t
        ∧ t = { s with pkg := { s.pkg with pmPending := false, pmLast := s.pkg.dtime }, cores := t.cores, dies := t.dies }
        ∧ (∀ c, t.core c = { s.core c with pm := (s.core c).pm.map (fun p => (p.1, { p.2 with shadow := p.2.count })) })
        ∧ ∀ d, t.die d = { s.die d with uncore := (s.die d).uncore.map (fun p => (p.1, { p.2 with shadow := p.2.count })) })
    ∧ (s.dumpCtx ≠ none ∨ s.dumpWaiting = [] → exec .dumpStart s = .next s)
    ∧ (∀ c rest, s.dumpCtx = none → s.dumpWaiting = c :: rest → exec .dumpStart s = .next { s with dumpCtx := some c, dumpWaiting := rest })
    ∧ (s.dumpCtx = none → exec .dumpComplete s = .next s)
    ∧ (∀ c, s.dumpCtx = some c → let x := s.ctx c
        let n := (s.gangs.filter (fun p => p.2.ctx = c)).length
        (x.resetHeld = false → ∃ t, exec .dumpComplete s = .next t ∧ t.dumpCtx = none ∧ (t.ctx c).state = .dead)
        ∧ (x.resetHeld = true → ∃ t, exec .dumpComplete s = .next t ∧ t.dumpCtx = none ∧ (t.ctx c).state = .resetting)
        ∧ (x.resetHeld = false → x.dumpsize.toNat < 0x240 + 16 * n → ∃ t, exec .dumpComplete s = .next t ∧ t = { s with dumpCtx := none, ctxs := t.ctxs }
            ∧ t.ctx c = { x with state := .dead } ∧ ∀ d, d ≠ c → t.ctx d = s.ctx d)
        ∧ (x.resetHeld = false → n = 0 → 0x240 ≤ x.dumpsize.toNat → Memory.wf s.mem = true →
            let recs := x.dumpRecs.flatMap FaultRec.bytes
            ∃ t, exec .dumpComplete s = .next t ∧ t = { s with dumpCtx := none, ctxs := t.ctxs, mem := t.mem, poison := t.poison }
              ∧ t.ctx c = { x with state := .dead } ∧ (∀ d, d ≠ c → t.ctx d = s.ctx d)
              ∧ Stores s t x.dumpbase.toNat (leBytes 8 0x47444D5000010000 ++ leBytes 8 (if x.dumpFault = none then 1 else 2) ++ leBytes 8 0x240
                  ++ leBytes 8 (s.fab.devid.toNat * 256 + c.toNat) ++ leBytes 8 x.dumpRecs.length ++ leBytes 8 0 ++ leBytes 8 0 ++ leBytes 8 0
                  ++ recs ++ List.replicate (512 - recs.length) 0)))

/-- Debug commands, counter triggers and dumps. -/
def Obligations.DebugAndCountersComplete : Prop := DebugCommandsComplete ∧ TriggersAndDumpsComplete

/-! ### The machine -/

namespace Sys2Proof.Claims

/-- The package has power and has not stopped. -/
def Up (s : State) : Prop := s.pkg.powered = true ∧ s.pkg.stopped = false

/-- The machine when the turn of the hart in a slot begins: that hart is the current one, and a tick has passed (log 3). -/
def atTurn (s : State) (rest : List Move) (r : HartRef) : State := (State.select { s with agenda := rest } r).pass 1

/-- A hart of a running context whose core runs, which waits for nothing, has nothing in flight, and is not to be saved or interrupted first. -/
def MayFetch (u : State) (r : HartRef) : Prop :=
  u.hart.live = true ∧ u.hart.ref = r ∧ (u.ctx u.hart.ctx).state = .running ∧ (u.core u.hart.core).dHalted = false ∧ u.hart.wait = .none
    ∧ u.hart.replies = [] ∧ u.hart.pauseUntil ≤ u.cycles ∧ u.hart.disp = [] ∧ u.hart.stripDue = [] ∧ preempted u 2 = false ∧ preempted u 3 = false
    ∧ u.hart.interruptible = false

/-- The rows that packets are, by class, op and, where two rows share them, a bit of the content (01 Table 1.6; 03 R70; 04 Table 4.5). -/
noncomputable def arrivals (p : Packet) : List (Nat × Nat × Bool × Instr) :=
  let w := p.body.headD 0
  [ (0, 0, true, .memoryRead p), (0, 1, true, .memoryReadData p), (0, 2, true, .memoryWrite p), (0, 3, true, .memoryWriteAck p)
  , (0, 4, true, .memoryErrorResponse p), (1, 0, true, .atomicRequest p), (1, 1, true, .atomicResponse p), (1, 2, true, .atomicErrorResponse p)
  , (2, 0, w.getLsbD 32, .queueInsertionArrival p), (2, 0, !w.getLsbD 32, .invocationCall p), (2, 1, w.getLsbD 21, .endReport p)
  , (2, 1, !w.getLsbD 21, .arrivalReport p), (3, 0, true, .hostRead p), (3, 1, true, .hostReadData p), (3, 2, true, .hostWrite p)
  , (3, 3, true, .hostWriteAck p), (3, 4, true, .insertionReport p), (3, 5, true, .hostErrorResponse p), (4, 0, true, .mgtRegisterRead p)
  , (4, 2, true, .mgtRegisterWrite p), (4, 4, true, .mgtLinkEvent p), (5, 0, true, .timeStampRequest p), (5, 1, true, .timeStampResponse p) ]

/-- Instruction words written out from their encodings (12 Tables 12.1 to 12.4), and the instructions they stand for. -/
def decodeTable : List (Nat × Instr) :=
  [ (0xFFB10093, .addi 1 2 0xFFB), (0x123452B7, .lui 5 0x12345), (0x00418463, .beq 3 4 4), (0x00743823, .sd 8 7 16)
  , (0x0421B0AF, .amoadd 1 3 2 { dbl := true, aq := true, rl := false }), (0x500110F3, .csrrw 1 2 0x500), (0x1201008B, .vsetvl 1 2 2 1)
  , (0x0031208B, .tqpush 1 2 3), (0x5400308B, .fenceRel 1 5), (0x0000500B, .tret), (0x0401C18B, .estat 3 3) ]

/-- Registers and state with the value that the specification gives for reset (01 Table 1.8, R37; 02 R43, Tables 2.3, 2.5, 2.6; 03 R73; 05 Table 5.3; 07 R172). -/
def AtReset (s : State) : Prop :=
  s.pkg.bootState = 0 ∧ s.pkg.maint = false ∧ s.pkg.stage = false ∧ s.pkg.tthrot = 95 ∧ s.pkg.ttrip = 110 ∧ s.pkg.pcap = 2000 ∧ s.pkg.clkpct = 100
    ∧ s.pkg.ue = 0 ∧ s.pkg.qsfree = 1097728 ∧ s.fab.devid = 0xFFF ∧ s.fab.lrlim = 1000 ∧ s.fab.lnken = 0xFFFF
    ∧ (∀ port, (s.link port).state = .down) ∧ (∀ c, (s.ctx c).state = .free) ∧ (∀ h ∈ s.allHarts, h.live = false) ∧ s.queues = [] ∧ s.gangs = []

end Sys2Proof.Claims

/-- A step runs what the agenda names next: an event, time, an error that arises, or a packet as the row it is; in the turn of a hart that may fetch, the instruction that the
bytes at its pc decode to, a body outside a convoy as the trap of it, and other bytes as the illegal instruction they are (12 R312, R317). -/
def Obligations.StepRunsDecoded : Prop :=
  ∀ (s : State) (rest : List Move), Up s →
    (∀ i, s.agenda = .event i :: rest → step s = exec i { s with agenda := rest })
    ∧ (∀ n, s.agenda = .time n :: rest → step s = .next (State.pass { s with agenda := rest } n))
    ∧ (∀ e, s.agenda = .upset e :: rest → step s = .next (State.upset { s with agenda := rest } e))
    ∧ (∀ p, s.agenda = .packet p :: rest → ∀ x ∈ arrivals p, p.cls.toNat = x.1 → p.op.toNat = x.2.1 → x.2.2.1 = true →
        step s = exec x.2.2.2 { s with agenda := rest })
    ∧ (∀ r, s.agenda = .hart r :: rest → let u := atTurn s rest r
        MayFetch u r →
        (∀ bs v, u.fetch = (.bytes bs, v) → breakHit v v.hart.pc (startSize (lineWord bs 0)) = none →
          (∀ i more, decode bs = .ok (i, more) → step s = exec i v)
          ∧ (decode bs = .error .orphanBody → step s = .next (v.fetchTrap 0x03 ((lineWord bs 0).setWidth 64) v.hart.pc 0))
          ∧ ∀ e, decode bs = .error e → e ≠ .orphanBody → step s = exec (.illegalInstruction (lineWord bs 0)) v)
        ∧ (∀ c tval pc m v, u.fetch = (.trap c tval pc m, v) → step s = .next (v.fetchTrap c tval pc m))
        ∧ (∀ pa cls da v, resolve u u.hart.who u.hart.pc .fetch = (.ok (.phys pa cls da), v) → poisoned v (pa / 128 * 128) 128 = false →
            pa / 128 ∈ (v.core v.hart.core).icBad ∨ tget (v.core v.hart.core).icache (pa / 128) = none →
            let line := memRead v.mem (pa / 128 * 128) 128
            startOf line (pa % 128) = pa % 128 → ∃ w x, u.fetch = (.bytes (line.drop (pa % 128)), w) ∧ OnlyLooks v x ∧ w = { x with cores := w.cores }
              ∧ w.hart = v.hart ∧ tget (w.core v.hart.core).icache (pa / 128) = some (leNat line)))

/-- A package without power goes on only at a power-on reset; one that has stopped goes on only at a power-on reset, when it loses power, and, unless a thermal
trip stopped it, at a package reset by PERST# or by `bootctl.pkrst` (02 R43, R54, R57) and at a read of the boot registers, which is the model's choice
(log 50). -/
def Sys2Proof.Claims.StoppedPackagesStay : Prop :=
  ∀ (s : State),
    (s.pkg.powered = false → s.agenda.head? ≠ some (.event .powerOnReset) → step s = .fault .powerOff)
    ∧ (s.pkg.powered = true → s.pkg.stopped = true → s.agenda.head? ≠ some (.event .powerOnReset) → s.agenda.head? ≠ some (.event .powerRemoval) →
        let goesOn : Prop := ∃ i, s.agenda.head? = some (.event i) ∧ (i = .perstAssert ∨ i = .bootctlPkrst
          ∨ (∃ off half, i = .slotManagementAccess 0 .mgt off half none ∧ off.toNat < 0x50)
          ∨ ∃ half d, i = .slotManagementAccess 0 .mgt 8 half (some d) ∧ (carried half d).getLsbD 0 = true)
        (s.pkg.tripOut = true ∨ ¬ goesOn → step s = .fault .packageStopped)
        ∧ (s.pkg.tripOut = false → goesOn → ∀ i rest, s.agenda = .event i :: rest → step s = exec i { s with agenda := rest }))
    ∧ (∀ i rest, i = .powerOnReset ∨ (i = .powerRemoval ∧ s.pkg.powered = true) → s.agenda = .event i :: rest → step s = exec i { s with agenda := rest })

/-- Some words decode to the instructions they encode, and a convoy's body to a vector instruction (12 Tables 12.1 to 12.6). -/
def Obligations.DecodeWords : Prop :=
  (∀ x ∈ decodeTable, decodeTableWord 32 x.1 = some x.2)
  ∧ decodeTableWord 96 0x00000019000E62BF000000AB = some (.convoy 0x000000AB [0x00000019000E62BF])
  ∧ encodesMember 0x00000019000E62BF (.vadd { mod := 0, grp := 0, ty := 25, pol := false, men := false, msk := 0, vs3 := 0, vs2 := 7, vs1 := 6, vd := 5 }) = true

/-- What reset leaves, where the specification gives the value. -/
def Obligations.ResetState : Prop := AtReset State.reset ∧ StoppedPackagesStay

/-- Memory keeps its canonical form, and queues and banks their order, in the state right after reset. -/
def Obligations.ResetInvariant : Prop := Memory.wf State.reset.mem = true ∧ Sorted State.reset.queues ∧ Sorted State.reset.banks

/-- Every step keeps the canonical form of memory: whatever instruction, event, packet or idle move it runs, no two cells have one address, and none holds
what an unlisted address reads as. -/
def Obligations.MemoryStaysCanonical : Prop :=
  ∀ (s t : State), Memory.wf s.mem = true → step s = .next t → Memory.wf t.mem = true

/-- Every step keeps the queues and the banks each listed once, in rising order. -/
def Obligations.TablesStayOrdered : Prop :=
  ∀ (s t : State), Sorted s.queues → Sorted s.banks → step s = .next t → Sorted t.queues ∧ Sorted t.banks

/-- Decoding what was encoded gives it back, with every operand at every value, and leaves the bytes after it: for every well-formed scalar instruction and
every convoy; a vector instruction by itself is the convoy of its one member, whose body encodes it (12 R321). -/
def Obligations.DecodeEncode : Prop :=
  ∀ (i : Instr) (rest : List Byte), i.wellFormed = true →
    ((encodeScalar i).isSome = true ∨ (∃ hdr bodies, i = .convoy hdr bodies) → decode (parcelBytes (encode i) ++ rest) = .ok (i, rest))
    ∧ ∀ cls f b, memberCode i = some (cls, f, b) →
        decode (parcelBytes (encode i) ++ rest) = .ok (.convoy (loneHeader cls) [encodeBody cls f b], rest)
          ∧ encodesMember (encodeBody cls f b) i = true
end

