-- ==== Sys2Proof/Laws/Memory.lean ====
section
/-!
SUPPORT. Byte memory: a read after a write, and the canonical form, which every write keeps.
-/
namespace Sys2Proof.Machine

/-- The canonical form above an address holds above every lower one. -/
theorem memory_wfFrom_mono {lo lo' : Nat} {m : List Host.Cell} (h : lo' ≤ lo) (w : Memory.wfFrom lo m = true) :
    Memory.wfFrom lo' m = true := by
  cases m with
  | nil => rfl
  | cons c m =>
    obtain ⟨k, b⟩ := c
    simp only [Memory.wfFrom, Bool.and_eq_true, decide_eq_true_eq] at w ⊢
    exact ⟨⟨by omega, w.1.2⟩, w.2⟩

/-- A cell below every listed address reads 0. -/
theorem memGet_below {lo a : Nat} {m : List Host.Cell} (w : Memory.wfFrom lo m = true) (h : a < lo) : memGet m a = 0 := by
  cases m with
  | nil => rfl
  | cons c m =>
    obtain ⟨k, b⟩ := c
    simp only [Memory.wfFrom, Bool.and_eq_true, decide_eq_true_eq] at w
    simp only [memGet]
    rw [if_neg (by omega), if_pos (by omega)]

/-- A write of one byte keeps the canonical form. -/
theorem memSet_wfFrom {lo a : Nat} {m : List Host.Cell} (b : Byte) (w : Memory.wfFrom lo m = true) (h : lo ≤ a) :
    Memory.wfFrom lo (memSet m a b) = true := by
  induction m generalizing lo with
  | nil =>
    simp only [memSet]
    split
    · rfl
    · next hb =>
      simp only [Memory.wfFrom, Bool.and_eq_true, decide_eq_true_eq]
      exact ⟨⟨h, by simpa using hb⟩, trivial⟩
  | cons c m ih =>
    obtain ⟨k, v⟩ := c
    simp only [Memory.wfFrom, Bool.and_eq_true, decide_eq_true_eq] at w
    simp only [memSet]
    split
    · split
      · simpa only [Memory.wfFrom, Bool.and_eq_true, decide_eq_true_eq] using w
      · rename_i hb
        simp only [Memory.wfFrom, Bool.and_eq_true, decide_eq_true_eq]
        exact ⟨⟨h, by simpa using hb⟩, ⟨by omega, w.1.2⟩, w.2⟩
    · split
      · split
        · exact memory_wfFrom_mono (by omega) w.2
        · rename_i hb
          simp only [Memory.wfFrom, Bool.and_eq_true, decide_eq_true_eq]
          subst_vars
          exact ⟨⟨h, by simpa using hb⟩, w.2⟩
      · simp only [Memory.wfFrom, Bool.and_eq_true, decide_eq_true_eq]
        exact ⟨w.1, ih w.2 (by omega)⟩

/-- The byte read after a write of one byte. -/
theorem memGet_memSet {lo a : Nat} {m : List Host.Cell} (b : Byte) (w : Memory.wfFrom lo m = true) (c : Nat) :
    memGet (memSet m a b) c = if c = a then b else memGet m c := by
  induction m generalizing lo with
  | nil =>
    simp only [memSet]
    split
    · next hb => simp [memGet, hb]
    · simp only [memGet, eq_comm (a := c)]
      split
      · rfl
      · split <;> rfl
  | cons x m ih =>
    obtain ⟨k, v⟩ := x
    simp only [Memory.wfFrom, Bool.and_eq_true, decide_eq_true_eq] at w
    simp only [memSet]
    split
    · split
      · next hak hb =>
        subst hb
        split
        · subst_vars; simp only [memGet]; rw [if_neg (by omega), if_pos (by omega)]
        · rfl
      · simp only [memGet]
        by_cases hca : c = a
        · subst hca; simp
        · rw [if_neg (fun h => hca h.symm), if_neg hca]
          split
          · rw [if_neg (by omega), if_pos (by omega)]
          · rfl
    · split
      · next hak =>
        subst hak
        split
        · next hb =>
          subst hb
          by_cases hca : c = a
          · subst hca; rw [if_pos rfl]; exact memGet_below w.2 (by omega)
          · rw [if_neg hca]
            simp only [memGet]
            rw [if_neg (fun h => hca h.symm)]
            split
            · exact memGet_below w.2 (by omega)
            · rfl
        · simp only [memGet]
          by_cases hca : c = a
          · subst hca; simp
          · have h1 : ¬ a = c := fun h => hca h.symm
            simp only [h1, hca, if_false]
      · simp only [memGet]
        rw [ih w.2]
        by_cases hca : c = a
        · subst hca
          have h1 : ¬ k = c := by omega
          have h2 : ¬ c < k := by assumption
          simp [h1, h2]
        · simp only [hca, if_false]

/-- Writes keep the canonical form. -/
theorem memWrite_wf (m : List Host.Cell) (a : Nat) (bs : List Byte) (w : Memory.wf m = true) : Memory.wf (memWrite m a bs) = true := by
  induction bs generalizing m a with
  | nil => exact w
  | cons b bs ih => exact ih _ _ (memSet_wfFrom b w (Nat.zero_le _))

/-- The byte read after a write of several. -/
theorem memGet_memWrite (m : List Host.Cell) (a : Nat) (bs : List Byte) (w : Memory.wf m = true) (c : Nat) :
    memGet (memWrite m a bs) c = if a ≤ c then (bs[c - a]?).getD (memGet m c) else memGet m c := by
  induction bs generalizing m a with
  | nil => simp [memWrite]
  | cons b bs ih =>
    rw [memWrite, ih _ _ (memSet_wfFrom b w (Nat.zero_le _)), memGet_memSet b w]
    by_cases h1 : a + 1 ≤ c
    · obtain ⟨k, rfl⟩ : ∃ k, c = a + 1 + k := ⟨c - a - 1, by omega⟩
      have h3 : ¬ a + 1 + k = a := by omega
      have h4 : a ≤ a + 1 + k := by omega
      have h5 : a + 1 + k - (a + 1) = k := by omega
      have h6 : a + 1 + k - a = k + 1 := by omega
      simp only [h1, h3, h4, h5, h6, if_true, if_false, List.getElem?_cons_succ]
    · rw [if_neg h1]
      by_cases h2 : c = a
      · subst h2; simp
      · rw [if_neg h2, if_neg (by omega)]

/-- A byte outside the written ones reads as before. -/
theorem memGet_memWrite_other (m : List Host.Cell) (a : Nat) (bs : List Byte) (w : Memory.wf m = true) (c : Nat)
    (h : c < a ∨ a + bs.length ≤ c) : memGet (memWrite m a bs) c = memGet m c := by
  rw [memGet_memWrite m a bs w]
  split
  · rw [List.getElem?_eq_none (by omega)]; rfl
  · rfl

/-- The number of bytes read. -/
@[simp] theorem memRead_length (m : List Host.Cell) (a n : Nat) : (memRead m a n).length = n := by
  induction n generalizing a with
  | zero => rfl
  | succ n ih => simp [memRead, ih]

/-- Each byte read. -/
theorem memRead_get? (m : List Host.Cell) (a n i : Nat) : (memRead m a n)[i]? = if i < n then some (memGet m (a + i)) else none := by
  induction n generalizing a i with
  | zero => simp [memRead]
  | succ n ih =>
    cases i with
    | zero => simp [memRead]
    | succ i => simp [memRead, ih, Nat.add_assoc, Nat.add_comm 1 i]

/-- What was written is read. -/
theorem memRead_memWrite (m : List Host.Cell) (a : Nat) (bs : List Byte) (w : Memory.wf m = true) :
    memRead (memWrite m a bs) a bs.length = bs := by
  apply List.ext_getElem?
  intro i
  rw [memRead_get?]
  split
  · next h => rw [memGet_memWrite m a bs w, if_pos (by omega), Nat.add_sub_cancel_left, List.getElem?_eq_getElem h]; rfl
  · next h => rw [List.getElem?_eq_none (by omega)]

/-- A read of other bytes is as before. -/
theorem memRead_memWrite_other (m : List Host.Cell) (a b n : Nat) (bs : List Byte) (w : Memory.wf m = true)
    (h : b + n ≤ a ∨ a + bs.length ≤ b) : memRead (memWrite m a bs) b n = memRead m b n := by
  apply List.ext_getElem?
  intro i
  rw [memRead_get?, memRead_get?]
  split
  · rw [memGet_memWrite_other m a bs w _ (by omega)]
  · rfl

end Sys2Proof.Machine
end

