-- ==== Sys2Proof/Laws/State.lean ====
section
/-!
SUPPORT. What each update of the state leaves alone: one lemma per field per update, and what it changes.
-/
namespace Sys2Proof.Machine

/-! ### withHart -/

@[simp] theorem State.withHart_pkg (s : State) (f : Hart → Hart) : (s.withHart f).pkg = s.pkg := rfl
@[simp] theorem State.withHart_fab (s : State) (f : Hart → Hart) : (s.withHart f).fab = s.fab := rfl
@[simp] theorem State.withHart_links (s : State) (f : Hart → Hart) : (s.withHart f).links = s.links := rfl
@[simp] theorem State.withHart_hart (s : State) (f : Hart → Hart) : (s.withHart f).hart = f s.hart := rfl
@[simp] theorem State.withHart_harts (s : State) (f : Hart → Hart) : (s.withHart f).harts = s.harts := rfl
@[simp] theorem State.withHart_gangs (s : State) (f : Hart → Hart) : (s.withHart f).gangs = s.gangs := rfl
@[simp] theorem State.withHart_nextGang (s : State) (f : Hart → Hart) : (s.withHart f).nextGang = s.nextGang := rfl
@[simp] theorem State.withHart_placeCount (s : State) (f : Hart → Hart) : (s.withHart f).placeCount = s.placeCount := rfl
@[simp] theorem State.withHart_queues (s : State) (f : Hart → Hart) : (s.withHart f).queues = s.queues := rfl
@[simp] theorem State.withHart_park (s : State) (f : Hart → Hart) : (s.withHart f).park = s.park := rfl
@[simp] theorem State.withHart_retTable (s : State) (f : Hart → Hart) : (s.withHart f).retTable = s.retTable := rfl
@[simp] theorem State.withHart_ends (s : State) (f : Hart → Hart) : (s.withHart f).ends = s.ends := rfl
@[simp] theorem State.withHart_reports (s : State) (f : Hart → Hart) : (s.withHart f).reports = s.reports := rfl
@[simp] theorem State.withHart_rings (s : State) (f : Hart → Hart) : (s.withHart f).rings = s.rings := rfl
@[simp] theorem State.withHart_ctxs (s : State) (f : Hart → Hart) : (s.withHart f).ctxs = s.ctxs := rfl
@[simp] theorem State.withHart_cores (s : State) (f : Hart → Hart) : (s.withHart f).cores = s.cores := rfl
@[simp] theorem State.withHart_clusters (s : State) (f : Hart → Hart) : (s.withHart f).clusters = s.clusters := rfl
@[simp] theorem State.withHart_dies (s : State) (f : Hart → Hart) : (s.withHart f).dies = s.dies := rfl
@[simp] theorem State.withHart_banks (s : State) (f : Hart → Hart) : (s.withHart f).banks = s.banks := rfl
@[simp] theorem State.withHart_tickets (s : State) (f : Hart → Hart) : (s.withHart f).tickets = s.tickets := rfl
@[simp] theorem State.withHart_tlb (s : State) (f : Hart → Hart) : (s.withHart f).tlb = s.tlb := rfl
@[simp] theorem State.withHart_mem (s : State) (f : Hart → Hart) : (s.withHart f).mem = s.mem := rfl
@[simp] theorem State.withHart_poison (s : State) (f : Hart → Hart) : (s.withHart f).poison = s.poison := rfl
@[simp] theorem State.withHart_correctable (s : State) (f : Hart → Hart) : (s.withHart f).correctable = s.correctable := rfl
@[simp] theorem State.withHart_dir (s : State) (f : Hart → Hart) : (s.withHart f).dir = s.dir := rfl
@[simp] theorem State.withHart_lines (s : State) (f : Hart → Hart) : (s.withHart f).lines = s.lines := rfl
@[simp] theorem State.withHart_ltransit (s : State) (f : Hart → Hart) : (s.withHart f).ltransit = s.ltransit := rfl
@[simp] theorem State.withHart_lwrites (s : State) (f : Hart → Hart) : (s.withHart f).lwrites = s.lwrites := rfl
@[simp] theorem State.withHart_peerAcks (s : State) (f : Hart → Hart) : (s.withHart f).peerAcks = s.peerAcks := rfl
@[simp] theorem State.withHart_evicted (s : State) (f : Hart → Hart) : (s.withHart f).evicted = s.evicted := rfl
@[simp] theorem State.withHart_linkTable (s : State) (f : Hart → Hart) : (s.withHart f).linkTable = s.linkTable := rfl
@[simp] theorem State.withHart_sauq (s : State) (f : Hart → Hart) : (s.withHart f).sauq = s.sauq := rfl
@[simp] theorem State.withHart_l2 (s : State) (f : Hart → Hart) : (s.withHart f).l2 = s.l2 := rfl
@[simp] theorem State.withHart_hostOut (s : State) (f : Hart → Hart) : (s.withHart f).hostOut = s.hostOut := rfl
@[simp] theorem State.withHart_insertions (s : State) (f : Hart → Hart) : (s.withHart f).insertions = s.insertions := rfl
@[simp] theorem State.withHart_cxlCache (s : State) (f : Hart → Hart) : (s.withHart f).cxlCache = s.cxlCache := rfl
@[simp] theorem State.withHart_pulled (s : State) (f : Hart → Hart) : (s.withHart f).pulled = s.pulled := rfl
@[simp] theorem State.withHart_snoops (s : State) (f : Hart → Hart) : (s.withHart f).snoops = s.snoops := rfl
@[simp] theorem State.withHart_dumpCtx (s : State) (f : Hart → Hart) : (s.withHart f).dumpCtx = s.dumpCtx := rfl
@[simp] theorem State.withHart_dumpWaiting (s : State) (f : Hart → Hart) : (s.withHart f).dumpWaiting = s.dumpWaiting := rfl
@[simp] theorem State.withHart_agenda (s : State) (f : Hart → Hart) : (s.withHart f).agenda = s.agenda := rfl
@[simp] theorem State.withHart_freshCount (s : State) (f : Hart → Hart) : (s.withHart f).freshCount = s.freshCount := rfl

/-! ### setX -/

@[simp] theorem State.setX_pkg (s : State) (r : Reg) (v : Word) : (s.setX r v).pkg = s.pkg := by unfold State.setX; split <;> rfl
@[simp] theorem State.setX_fab (s : State) (r : Reg) (v : Word) : (s.setX r v).fab = s.fab := by unfold State.setX; split <;> rfl
@[simp] theorem State.setX_links (s : State) (r : Reg) (v : Word) : (s.setX r v).links = s.links := by unfold State.setX; split <;> rfl
@[simp] theorem State.setX_harts (s : State) (r : Reg) (v : Word) : (s.setX r v).harts = s.harts := by unfold State.setX; split <;> rfl
@[simp] theorem State.setX_gangs (s : State) (r : Reg) (v : Word) : (s.setX r v).gangs = s.gangs := by unfold State.setX; split <;> rfl
@[simp] theorem State.setX_nextGang (s : State) (r : Reg) (v : Word) : (s.setX r v).nextGang = s.nextGang := by unfold State.setX; split <;> rfl
@[simp] theorem State.setX_placeCount (s : State) (r : Reg) (v : Word) : (s.setX r v).placeCount = s.placeCount := by unfold State.setX; split <;> rfl
@[simp] theorem State.setX_queues (s : State) (r : Reg) (v : Word) : (s.setX r v).queues = s.queues := by unfold State.setX; split <;> rfl
@[simp] theorem State.setX_park (s : State) (r : Reg) (v : Word) : (s.setX r v).park = s.park := by unfold State.setX; split <;> rfl
@[simp] theorem State.setX_retTable (s : State) (r : Reg) (v : Word) : (s.setX r v).retTable = s.retTable := by unfold State.setX; split <;> rfl
@[simp] theorem State.setX_ends (s : State) (r : Reg) (v : Word) : (s.setX r v).ends = s.ends := by unfold State.setX; split <;> rfl
@[simp] theorem State.setX_reports (s : State) (r : Reg) (v : Word) : (s.setX r v).reports = s.reports := by unfold State.setX; split <;> rfl
@[simp] theorem State.setX_rings (s : State) (r : Reg) (v : Word) : (s.setX r v).rings = s.rings := by unfold State.setX; split <;> rfl
@[simp] theorem State.setX_ctxs (s : State) (r : Reg) (v : Word) : (s.setX r v).ctxs = s.ctxs := by unfold State.setX; split <;> rfl
@[simp] theorem State.setX_cores (s : State) (r : Reg) (v : Word) : (s.setX r v).cores = s.cores := by unfold State.setX; split <;> rfl
@[simp] theorem State.setX_clusters (s : State) (r : Reg) (v : Word) : (s.setX r v).clusters = s.clusters := by unfold State.setX; split <;> rfl
@[simp] theorem State.setX_dies (s : State) (r : Reg) (v : Word) : (s.setX r v).dies = s.dies := by unfold State.setX; split <;> rfl
@[simp] theorem State.setX_banks (s : State) (r : Reg) (v : Word) : (s.setX r v).banks = s.banks := by unfold State.setX; split <;> rfl
@[simp] theorem State.setX_tickets (s : State) (r : Reg) (v : Word) : (s.setX r v).tickets = s.tickets := by unfold State.setX; split <;> rfl
@[simp] theorem State.setX_tlb (s : State) (r : Reg) (v : Word) : (s.setX r v).tlb = s.tlb := by unfold State.setX; split <;> rfl
@[simp] theorem State.setX_mem (s : State) (r : Reg) (v : Word) : (s.setX r v).mem = s.mem := by unfold State.setX; split <;> rfl
@[simp] theorem State.setX_poison (s : State) (r : Reg) (v : Word) : (s.setX r v).poison = s.poison := by unfold State.setX; split <;> rfl
@[simp] theorem State.setX_correctable (s : State) (r : Reg) (v : Word) : (s.setX r v).correctable = s.correctable := by unfold State.setX; split <;> rfl
@[simp] theorem State.setX_dir (s : State) (r : Reg) (v : Word) : (s.setX r v).dir = s.dir := by unfold State.setX; split <;> rfl
@[simp] theorem State.setX_lines (s : State) (r : Reg) (v : Word) : (s.setX r v).lines = s.lines := by unfold State.setX; split <;> rfl
@[simp] theorem State.setX_ltransit (s : State) (r : Reg) (v : Word) : (s.setX r v).ltransit = s.ltransit := by unfold State.setX; split <;> rfl
@[simp] theorem State.setX_lwrites (s : State) (r : Reg) (v : Word) : (s.setX r v).lwrites = s.lwrites := by unfold State.setX; split <;> rfl
@[simp] theorem State.setX_peerAcks (s : State) (r : Reg) (v : Word) : (s.setX r v).peerAcks = s.peerAcks := by unfold State.setX; split <;> rfl
@[simp] theorem State.setX_evicted (s : State) (r : Reg) (v : Word) : (s.setX r v).evicted = s.evicted := by unfold State.setX; split <;> rfl
@[simp] theorem State.setX_linkTable (s : State) (r : Reg) (v : Word) : (s.setX r v).linkTable = s.linkTable := by unfold State.setX; split <;> rfl
@[simp] theorem State.setX_sauq (s : State) (r : Reg) (v : Word) : (s.setX r v).sauq = s.sauq := by unfold State.setX; split <;> rfl
@[simp] theorem State.setX_l2 (s : State) (r : Reg) (v : Word) : (s.setX r v).l2 = s.l2 := by unfold State.setX; split <;> rfl
@[simp] theorem State.setX_hostOut (s : State) (r : Reg) (v : Word) : (s.setX r v).hostOut = s.hostOut := by unfold State.setX; split <;> rfl
@[simp] theorem State.setX_insertions (s : State) (r : Reg) (v : Word) : (s.setX r v).insertions = s.insertions := by unfold State.setX; split <;> rfl
@[simp] theorem State.setX_cxlCache (s : State) (r : Reg) (v : Word) : (s.setX r v).cxlCache = s.cxlCache := by unfold State.setX; split <;> rfl
@[simp] theorem State.setX_pulled (s : State) (r : Reg) (v : Word) : (s.setX r v).pulled = s.pulled := by unfold State.setX; split <;> rfl
@[simp] theorem State.setX_snoops (s : State) (r : Reg) (v : Word) : (s.setX r v).snoops = s.snoops := by unfold State.setX; split <;> rfl
@[simp] theorem State.setX_dumpCtx (s : State) (r : Reg) (v : Word) : (s.setX r v).dumpCtx = s.dumpCtx := by unfold State.setX; split <;> rfl
@[simp] theorem State.setX_dumpWaiting (s : State) (r : Reg) (v : Word) : (s.setX r v).dumpWaiting = s.dumpWaiting := by unfold State.setX; split <;> rfl
@[simp] theorem State.setX_agenda (s : State) (r : Reg) (v : Word) : (s.setX r v).agenda = s.agenda := by unfold State.setX; split <;> rfl
@[simp] theorem State.setX_freshCount (s : State) (r : Reg) (v : Word) : (s.setX r v).freshCount = s.freshCount := by unfold State.setX; split <;> rfl

/-! ### modCore -/

@[simp] theorem State.modCore_pkg (s : State) (c : BitVec 8) (f : Core → Core) : (s.modCore c f).pkg = s.pkg := rfl
@[simp] theorem State.modCore_fab (s : State) (c : BitVec 8) (f : Core → Core) : (s.modCore c f).fab = s.fab := rfl
@[simp] theorem State.modCore_links (s : State) (c : BitVec 8) (f : Core → Core) : (s.modCore c f).links = s.links := rfl
@[simp] theorem State.modCore_hart (s : State) (c : BitVec 8) (f : Core → Core) : (s.modCore c f).hart = s.hart := rfl
@[simp] theorem State.modCore_harts (s : State) (c : BitVec 8) (f : Core → Core) : (s.modCore c f).harts = s.harts := rfl
@[simp] theorem State.modCore_gangs (s : State) (c : BitVec 8) (f : Core → Core) : (s.modCore c f).gangs = s.gangs := rfl
@[simp] theorem State.modCore_nextGang (s : State) (c : BitVec 8) (f : Core → Core) : (s.modCore c f).nextGang = s.nextGang := rfl
@[simp] theorem State.modCore_placeCount (s : State) (c : BitVec 8) (f : Core → Core) : (s.modCore c f).placeCount = s.placeCount := rfl
@[simp] theorem State.modCore_queues (s : State) (c : BitVec 8) (f : Core → Core) : (s.modCore c f).queues = s.queues := rfl
@[simp] theorem State.modCore_park (s : State) (c : BitVec 8) (f : Core → Core) : (s.modCore c f).park = s.park := rfl
@[simp] theorem State.modCore_retTable (s : State) (c : BitVec 8) (f : Core → Core) : (s.modCore c f).retTable = s.retTable := rfl
@[simp] theorem State.modCore_ends (s : State) (c : BitVec 8) (f : Core → Core) : (s.modCore c f).ends = s.ends := rfl
@[simp] theorem State.modCore_reports (s : State) (c : BitVec 8) (f : Core → Core) : (s.modCore c f).reports = s.reports := rfl
@[simp] theorem State.modCore_rings (s : State) (c : BitVec 8) (f : Core → Core) : (s.modCore c f).rings = s.rings := rfl
@[simp] theorem State.modCore_ctxs (s : State) (c : BitVec 8) (f : Core → Core) : (s.modCore c f).ctxs = s.ctxs := rfl
@[simp] theorem State.modCore_cores (s : State) (c : BitVec 8) (f : Core → Core) : (s.modCore c f).cores = tset s.cores c.toNat (f (s.core c)) := rfl
@[simp] theorem State.modCore_clusters (s : State) (c : BitVec 8) (f : Core → Core) : (s.modCore c f).clusters = s.clusters := rfl
@[simp] theorem State.modCore_dies (s : State) (c : BitVec 8) (f : Core → Core) : (s.modCore c f).dies = s.dies := rfl
@[simp] theorem State.modCore_banks (s : State) (c : BitVec 8) (f : Core → Core) : (s.modCore c f).banks = s.banks := rfl
@[simp] theorem State.modCore_tickets (s : State) (c : BitVec 8) (f : Core → Core) : (s.modCore c f).tickets = s.tickets := rfl
@[simp] theorem State.modCore_tlb (s : State) (c : BitVec 8) (f : Core → Core) : (s.modCore c f).tlb = s.tlb := rfl
@[simp] theorem State.modCore_mem (s : State) (c : BitVec 8) (f : Core → Core) : (s.modCore c f).mem = s.mem := rfl
@[simp] theorem State.modCore_poison (s : State) (c : BitVec 8) (f : Core → Core) : (s.modCore c f).poison = s.poison := rfl
@[simp] theorem State.modCore_correctable (s : State) (c : BitVec 8) (f : Core → Core) : (s.modCore c f).correctable = s.correctable := rfl
@[simp] theorem State.modCore_dir (s : State) (c : BitVec 8) (f : Core → Core) : (s.modCore c f).dir = s.dir := rfl
@[simp] theorem State.modCore_lines (s : State) (c : BitVec 8) (f : Core → Core) : (s.modCore c f).lines = s.lines := rfl
@[simp] theorem State.modCore_ltransit (s : State) (c : BitVec 8) (f : Core → Core) : (s.modCore c f).ltransit = s.ltransit := rfl
@[simp] theorem State.modCore_lwrites (s : State) (c : BitVec 8) (f : Core → Core) : (s.modCore c f).lwrites = s.lwrites := rfl
@[simp] theorem State.modCore_peerAcks (s : State) (c : BitVec 8) (f : Core → Core) : (s.modCore c f).peerAcks = s.peerAcks := rfl
@[simp] theorem State.modCore_evicted (s : State) (c : BitVec 8) (f : Core → Core) : (s.modCore c f).evicted = s.evicted := rfl
@[simp] theorem State.modCore_linkTable (s : State) (c : BitVec 8) (f : Core → Core) : (s.modCore c f).linkTable = s.linkTable := rfl
@[simp] theorem State.modCore_sauq (s : State) (c : BitVec 8) (f : Core → Core) : (s.modCore c f).sauq = s.sauq := rfl
@[simp] theorem State.modCore_l2 (s : State) (c : BitVec 8) (f : Core → Core) : (s.modCore c f).l2 = s.l2 := rfl
@[simp] theorem State.modCore_hostOut (s : State) (c : BitVec 8) (f : Core → Core) : (s.modCore c f).hostOut = s.hostOut := rfl
@[simp] theorem State.modCore_insertions (s : State) (c : BitVec 8) (f : Core → Core) : (s.modCore c f).insertions = s.insertions := rfl
@[simp] theorem State.modCore_cxlCache (s : State) (c : BitVec 8) (f : Core → Core) : (s.modCore c f).cxlCache = s.cxlCache := rfl
@[simp] theorem State.modCore_pulled (s : State) (c : BitVec 8) (f : Core → Core) : (s.modCore c f).pulled = s.pulled := rfl
@[simp] theorem State.modCore_snoops (s : State) (c : BitVec 8) (f : Core → Core) : (s.modCore c f).snoops = s.snoops := rfl
@[simp] theorem State.modCore_dumpCtx (s : State) (c : BitVec 8) (f : Core → Core) : (s.modCore c f).dumpCtx = s.dumpCtx := rfl
@[simp] theorem State.modCore_dumpWaiting (s : State) (c : BitVec 8) (f : Core → Core) : (s.modCore c f).dumpWaiting = s.dumpWaiting := rfl
@[simp] theorem State.modCore_agenda (s : State) (c : BitVec 8) (f : Core → Core) : (s.modCore c f).agenda = s.agenda := rfl
@[simp] theorem State.modCore_freshCount (s : State) (c : BitVec 8) (f : Core → Core) : (s.modCore c f).freshCount = s.freshCount := rfl

/-! ### modCluster -/

@[simp] theorem State.modCluster_pkg (s : State) (c : BitVec 5) (f : Cluster → Cluster) : (s.modCluster c f).pkg = s.pkg := rfl
@[simp] theorem State.modCluster_fab (s : State) (c : BitVec 5) (f : Cluster → Cluster) : (s.modCluster c f).fab = s.fab := rfl
@[simp] theorem State.modCluster_links (s : State) (c : BitVec 5) (f : Cluster → Cluster) : (s.modCluster c f).links = s.links := rfl
@[simp] theorem State.modCluster_hart (s : State) (c : BitVec 5) (f : Cluster → Cluster) : (s.modCluster c f).hart = s.hart := rfl
@[simp] theorem State.modCluster_harts (s : State) (c : BitVec 5) (f : Cluster → Cluster) : (s.modCluster c f).harts = s.harts := rfl
@[simp] theorem State.modCluster_gangs (s : State) (c : BitVec 5) (f : Cluster → Cluster) : (s.modCluster c f).gangs = s.gangs := rfl
@[simp] theorem State.modCluster_nextGang (s : State) (c : BitVec 5) (f : Cluster → Cluster) : (s.modCluster c f).nextGang = s.nextGang := rfl
@[simp] theorem State.modCluster_placeCount (s : State) (c : BitVec 5) (f : Cluster → Cluster) : (s.modCluster c f).placeCount = s.placeCount := rfl
@[simp] theorem State.modCluster_queues (s : State) (c : BitVec 5) (f : Cluster → Cluster) : (s.modCluster c f).queues = s.queues := rfl
@[simp] theorem State.modCluster_park (s : State) (c : BitVec 5) (f : Cluster → Cluster) : (s.modCluster c f).park = s.park := rfl
@[simp] theorem State.modCluster_retTable (s : State) (c : BitVec 5) (f : Cluster → Cluster) : (s.modCluster c f).retTable = s.retTable := rfl
@[simp] theorem State.modCluster_ends (s : State) (c : BitVec 5) (f : Cluster → Cluster) : (s.modCluster c f).ends = s.ends := rfl
@[simp] theorem State.modCluster_reports (s : State) (c : BitVec 5) (f : Cluster → Cluster) : (s.modCluster c f).reports = s.reports := rfl
@[simp] theorem State.modCluster_rings (s : State) (c : BitVec 5) (f : Cluster → Cluster) : (s.modCluster c f).rings = s.rings := rfl
@[simp] theorem State.modCluster_ctxs (s : State) (c : BitVec 5) (f : Cluster → Cluster) : (s.modCluster c f).ctxs = s.ctxs := rfl
@[simp] theorem State.modCluster_cores (s : State) (c : BitVec 5) (f : Cluster → Cluster) : (s.modCluster c f).cores = s.cores := rfl
@[simp] theorem State.modCluster_clusters (s : State) (c : BitVec 5) (f : Cluster → Cluster) : (s.modCluster c f).clusters = tset s.clusters c.toNat (f (s.cluster c)) := rfl
@[simp] theorem State.modCluster_dies (s : State) (c : BitVec 5) (f : Cluster → Cluster) : (s.modCluster c f).dies = s.dies := rfl
@[simp] theorem State.modCluster_banks (s : State) (c : BitVec 5) (f : Cluster → Cluster) : (s.modCluster c f).banks = s.banks := rfl
@[simp] theorem State.modCluster_tickets (s : State) (c : BitVec 5) (f : Cluster → Cluster) : (s.modCluster c f).tickets = s.tickets := rfl
@[simp] theorem State.modCluster_tlb (s : State) (c : BitVec 5) (f : Cluster → Cluster) : (s.modCluster c f).tlb = s.tlb := rfl
@[simp] theorem State.modCluster_mem (s : State) (c : BitVec 5) (f : Cluster → Cluster) : (s.modCluster c f).mem = s.mem := rfl
@[simp] theorem State.modCluster_poison (s : State) (c : BitVec 5) (f : Cluster → Cluster) : (s.modCluster c f).poison = s.poison := rfl
@[simp] theorem State.modCluster_correctable (s : State) (c : BitVec 5) (f : Cluster → Cluster) : (s.modCluster c f).correctable = s.correctable := rfl
@[simp] theorem State.modCluster_dir (s : State) (c : BitVec 5) (f : Cluster → Cluster) : (s.modCluster c f).dir = s.dir := rfl
@[simp] theorem State.modCluster_lines (s : State) (c : BitVec 5) (f : Cluster → Cluster) : (s.modCluster c f).lines = s.lines := rfl
@[simp] theorem State.modCluster_ltransit (s : State) (c : BitVec 5) (f : Cluster → Cluster) : (s.modCluster c f).ltransit = s.ltransit := rfl
@[simp] theorem State.modCluster_lwrites (s : State) (c : BitVec 5) (f : Cluster → Cluster) : (s.modCluster c f).lwrites = s.lwrites := rfl
@[simp] theorem State.modCluster_peerAcks (s : State) (c : BitVec 5) (f : Cluster → Cluster) : (s.modCluster c f).peerAcks = s.peerAcks := rfl
@[simp] theorem State.modCluster_evicted (s : State) (c : BitVec 5) (f : Cluster → Cluster) : (s.modCluster c f).evicted = s.evicted := rfl
@[simp] theorem State.modCluster_linkTable (s : State) (c : BitVec 5) (f : Cluster → Cluster) : (s.modCluster c f).linkTable = s.linkTable := rfl
@[simp] theorem State.modCluster_sauq (s : State) (c : BitVec 5) (f : Cluster → Cluster) : (s.modCluster c f).sauq = s.sauq := rfl
@[simp] theorem State.modCluster_l2 (s : State) (c : BitVec 5) (f : Cluster → Cluster) : (s.modCluster c f).l2 = s.l2 := rfl
@[simp] theorem State.modCluster_hostOut (s : State) (c : BitVec 5) (f : Cluster → Cluster) : (s.modCluster c f).hostOut = s.hostOut := rfl
@[simp] theorem State.modCluster_insertions (s : State) (c : BitVec 5) (f : Cluster → Cluster) : (s.modCluster c f).insertions = s.insertions := rfl
@[simp] theorem State.modCluster_cxlCache (s : State) (c : BitVec 5) (f : Cluster → Cluster) : (s.modCluster c f).cxlCache = s.cxlCache := rfl
@[simp] theorem State.modCluster_pulled (s : State) (c : BitVec 5) (f : Cluster → Cluster) : (s.modCluster c f).pulled = s.pulled := rfl
@[simp] theorem State.modCluster_snoops (s : State) (c : BitVec 5) (f : Cluster → Cluster) : (s.modCluster c f).snoops = s.snoops := rfl
@[simp] theorem State.modCluster_dumpCtx (s : State) (c : BitVec 5) (f : Cluster → Cluster) : (s.modCluster c f).dumpCtx = s.dumpCtx := rfl
@[simp] theorem State.modCluster_dumpWaiting (s : State) (c : BitVec 5) (f : Cluster → Cluster) : (s.modCluster c f).dumpWaiting = s.dumpWaiting := rfl
@[simp] theorem State.modCluster_agenda (s : State) (c : BitVec 5) (f : Cluster → Cluster) : (s.modCluster c f).agenda = s.agenda := rfl
@[simp] theorem State.modCluster_freshCount (s : State) (c : BitVec 5) (f : Cluster → Cluster) : (s.modCluster c f).freshCount = s.freshCount := rfl

/-! ### modDie -/

@[simp] theorem State.modDie_pkg (s : State) (c : BitVec 2) (f : Die → Die) : (s.modDie c f).pkg = s.pkg := rfl
@[simp] theorem State.modDie_fab (s : State) (c : BitVec 2) (f : Die → Die) : (s.modDie c f).fab = s.fab := rfl
@[simp] theorem State.modDie_links (s : State) (c : BitVec 2) (f : Die → Die) : (s.modDie c f).links = s.links := rfl
@[simp] theorem State.modDie_hart (s : State) (c : BitVec 2) (f : Die → Die) : (s.modDie c f).hart = s.hart := rfl
@[simp] theorem State.modDie_harts (s : State) (c : BitVec 2) (f : Die → Die) : (s.modDie c f).harts = s.harts := rfl
@[simp] theorem State.modDie_gangs (s : State) (c : BitVec 2) (f : Die → Die) : (s.modDie c f).gangs = s.gangs := rfl
@[simp] theorem State.modDie_nextGang (s : State) (c : BitVec 2) (f : Die → Die) : (s.modDie c f).nextGang = s.nextGang := rfl
@[simp] theorem State.modDie_placeCount (s : State) (c : BitVec 2) (f : Die → Die) : (s.modDie c f).placeCount = s.placeCount := rfl
@[simp] theorem State.modDie_queues (s : State) (c : BitVec 2) (f : Die → Die) : (s.modDie c f).queues = s.queues := rfl
@[simp] theorem State.modDie_park (s : State) (c : BitVec 2) (f : Die → Die) : (s.modDie c f).park = s.park := rfl
@[simp] theorem State.modDie_retTable (s : State) (c : BitVec 2) (f : Die → Die) : (s.modDie c f).retTable = s.retTable := rfl
@[simp] theorem State.modDie_ends (s : State) (c : BitVec 2) (f : Die → Die) : (s.modDie c f).ends = s.ends := rfl
@[simp] theorem State.modDie_reports (s : State) (c : BitVec 2) (f : Die → Die) : (s.modDie c f).reports = s.reports := rfl
@[simp] theorem State.modDie_rings (s : State) (c : BitVec 2) (f : Die → Die) : (s.modDie c f).rings = s.rings := rfl
@[simp] theorem State.modDie_ctxs (s : State) (c : BitVec 2) (f : Die → Die) : (s.modDie c f).ctxs = s.ctxs := rfl
@[simp] theorem State.modDie_cores (s : State) (c : BitVec 2) (f : Die → Die) : (s.modDie c f).cores = s.cores := rfl
@[simp] theorem State.modDie_clusters (s : State) (c : BitVec 2) (f : Die → Die) : (s.modDie c f).clusters = s.clusters := rfl
@[simp] theorem State.modDie_dies (s : State) (c : BitVec 2) (f : Die → Die) : (s.modDie c f).dies = tset s.dies c.toNat (f (s.die c)) := rfl
@[simp] theorem State.modDie_banks (s : State) (c : BitVec 2) (f : Die → Die) : (s.modDie c f).banks = s.banks := rfl
@[simp] theorem State.modDie_tickets (s : State) (c : BitVec 2) (f : Die → Die) : (s.modDie c f).tickets = s.tickets := rfl
@[simp] theorem State.modDie_tlb (s : State) (c : BitVec 2) (f : Die → Die) : (s.modDie c f).tlb = s.tlb := rfl
@[simp] theorem State.modDie_mem (s : State) (c : BitVec 2) (f : Die → Die) : (s.modDie c f).mem = s.mem := rfl
@[simp] theorem State.modDie_poison (s : State) (c : BitVec 2) (f : Die → Die) : (s.modDie c f).poison = s.poison := rfl
@[simp] theorem State.modDie_correctable (s : State) (c : BitVec 2) (f : Die → Die) : (s.modDie c f).correctable = s.correctable := rfl
@[simp] theorem State.modDie_dir (s : State) (c : BitVec 2) (f : Die → Die) : (s.modDie c f).dir = s.dir := rfl
@[simp] theorem State.modDie_lines (s : State) (c : BitVec 2) (f : Die → Die) : (s.modDie c f).lines = s.lines := rfl
@[simp] theorem State.modDie_ltransit (s : State) (c : BitVec 2) (f : Die → Die) : (s.modDie c f).ltransit = s.ltransit := rfl
@[simp] theorem State.modDie_lwrites (s : State) (c : BitVec 2) (f : Die → Die) : (s.modDie c f).lwrites = s.lwrites := rfl
@[simp] theorem State.modDie_peerAcks (s : State) (c : BitVec 2) (f : Die → Die) : (s.modDie c f).peerAcks = s.peerAcks := rfl
@[simp] theorem State.modDie_evicted (s : State) (c : BitVec 2) (f : Die → Die) : (s.modDie c f).evicted = s.evicted := rfl
@[simp] theorem State.modDie_linkTable (s : State) (c : BitVec 2) (f : Die → Die) : (s.modDie c f).linkTable = s.linkTable := rfl
@[simp] theorem State.modDie_sauq (s : State) (c : BitVec 2) (f : Die → Die) : (s.modDie c f).sauq = s.sauq := rfl
@[simp] theorem State.modDie_l2 (s : State) (c : BitVec 2) (f : Die → Die) : (s.modDie c f).l2 = s.l2 := rfl
@[simp] theorem State.modDie_hostOut (s : State) (c : BitVec 2) (f : Die → Die) : (s.modDie c f).hostOut = s.hostOut := rfl
@[simp] theorem State.modDie_insertions (s : State) (c : BitVec 2) (f : Die → Die) : (s.modDie c f).insertions = s.insertions := rfl
@[simp] theorem State.modDie_cxlCache (s : State) (c : BitVec 2) (f : Die → Die) : (s.modDie c f).cxlCache = s.cxlCache := rfl
@[simp] theorem State.modDie_pulled (s : State) (c : BitVec 2) (f : Die → Die) : (s.modDie c f).pulled = s.pulled := rfl
@[simp] theorem State.modDie_snoops (s : State) (c : BitVec 2) (f : Die → Die) : (s.modDie c f).snoops = s.snoops := rfl
@[simp] theorem State.modDie_dumpCtx (s : State) (c : BitVec 2) (f : Die → Die) : (s.modDie c f).dumpCtx = s.dumpCtx := rfl
@[simp] theorem State.modDie_dumpWaiting (s : State) (c : BitVec 2) (f : Die → Die) : (s.modDie c f).dumpWaiting = s.dumpWaiting := rfl
@[simp] theorem State.modDie_agenda (s : State) (c : BitVec 2) (f : Die → Die) : (s.modDie c f).agenda = s.agenda := rfl
@[simp] theorem State.modDie_freshCount (s : State) (c : BitVec 2) (f : Die → Die) : (s.modDie c f).freshCount = s.freshCount := rfl

/-! ### modCtx -/

@[simp] theorem State.modCtx_pkg (s : State) (c : BitVec 8) (f : Ctx → Ctx) : (s.modCtx c f).pkg = s.pkg := rfl
@[simp] theorem State.modCtx_fab (s : State) (c : BitVec 8) (f : Ctx → Ctx) : (s.modCtx c f).fab = s.fab := rfl
@[simp] theorem State.modCtx_links (s : State) (c : BitVec 8) (f : Ctx → Ctx) : (s.modCtx c f).links = s.links := rfl
@[simp] theorem State.modCtx_hart (s : State) (c : BitVec 8) (f : Ctx → Ctx) : (s.modCtx c f).hart = s.hart := rfl
@[simp] theorem State.modCtx_harts (s : State) (c : BitVec 8) (f : Ctx → Ctx) : (s.modCtx c f).harts = s.harts := rfl
@[simp] theorem State.modCtx_gangs (s : State) (c : BitVec 8) (f : Ctx → Ctx) : (s.modCtx c f).gangs = s.gangs := rfl
@[simp] theorem State.modCtx_nextGang (s : State) (c : BitVec 8) (f : Ctx → Ctx) : (s.modCtx c f).nextGang = s.nextGang := rfl
@[simp] theorem State.modCtx_placeCount (s : State) (c : BitVec 8) (f : Ctx → Ctx) : (s.modCtx c f).placeCount = s.placeCount := rfl
@[simp] theorem State.modCtx_queues (s : State) (c : BitVec 8) (f : Ctx → Ctx) : (s.modCtx c f).queues = s.queues := rfl
@[simp] theorem State.modCtx_park (s : State) (c : BitVec 8) (f : Ctx → Ctx) : (s.modCtx c f).park = s.park := rfl
@[simp] theorem State.modCtx_retTable (s : State) (c : BitVec 8) (f : Ctx → Ctx) : (s.modCtx c f).retTable = s.retTable := rfl
@[simp] theorem State.modCtx_ends (s : State) (c : BitVec 8) (f : Ctx → Ctx) : (s.modCtx c f).ends = s.ends := rfl
@[simp] theorem State.modCtx_reports (s : State) (c : BitVec 8) (f : Ctx → Ctx) : (s.modCtx c f).reports = s.reports := rfl
@[simp] theorem State.modCtx_rings (s : State) (c : BitVec 8) (f : Ctx → Ctx) : (s.modCtx c f).rings = s.rings := rfl
@[simp] theorem State.modCtx_ctxs (s : State) (c : BitVec 8) (f : Ctx → Ctx) : (s.modCtx c f).ctxs = tset s.ctxs c.toNat (f (s.ctx c)) := rfl
@[simp] theorem State.modCtx_cores (s : State) (c : BitVec 8) (f : Ctx → Ctx) : (s.modCtx c f).cores = s.cores := rfl
@[simp] theorem State.modCtx_clusters (s : State) (c : BitVec 8) (f : Ctx → Ctx) : (s.modCtx c f).clusters = s.clusters := rfl
@[simp] theorem State.modCtx_dies (s : State) (c : BitVec 8) (f : Ctx → Ctx) : (s.modCtx c f).dies = s.dies := rfl
@[simp] theorem State.modCtx_banks (s : State) (c : BitVec 8) (f : Ctx → Ctx) : (s.modCtx c f).banks = s.banks := rfl
@[simp] theorem State.modCtx_tickets (s : State) (c : BitVec 8) (f : Ctx → Ctx) : (s.modCtx c f).tickets = s.tickets := rfl
@[simp] theorem State.modCtx_tlb (s : State) (c : BitVec 8) (f : Ctx → Ctx) : (s.modCtx c f).tlb = s.tlb := rfl
@[simp] theorem State.modCtx_mem (s : State) (c : BitVec 8) (f : Ctx → Ctx) : (s.modCtx c f).mem = s.mem := rfl
@[simp] theorem State.modCtx_poison (s : State) (c : BitVec 8) (f : Ctx → Ctx) : (s.modCtx c f).poison = s.poison := rfl
@[simp] theorem State.modCtx_correctable (s : State) (c : BitVec 8) (f : Ctx → Ctx) : (s.modCtx c f).correctable = s.correctable := rfl
@[simp] theorem State.modCtx_dir (s : State) (c : BitVec 8) (f : Ctx → Ctx) : (s.modCtx c f).dir = s.dir := rfl
@[simp] theorem State.modCtx_lines (s : State) (c : BitVec 8) (f : Ctx → Ctx) : (s.modCtx c f).lines = s.lines := rfl
@[simp] theorem State.modCtx_ltransit (s : State) (c : BitVec 8) (f : Ctx → Ctx) : (s.modCtx c f).ltransit = s.ltransit := rfl
@[simp] theorem State.modCtx_lwrites (s : State) (c : BitVec 8) (f : Ctx → Ctx) : (s.modCtx c f).lwrites = s.lwrites := rfl
@[simp] theorem State.modCtx_peerAcks (s : State) (c : BitVec 8) (f : Ctx → Ctx) : (s.modCtx c f).peerAcks = s.peerAcks := rfl
@[simp] theorem State.modCtx_evicted (s : State) (c : BitVec 8) (f : Ctx → Ctx) : (s.modCtx c f).evicted = s.evicted := rfl
@[simp] theorem State.modCtx_linkTable (s : State) (c : BitVec 8) (f : Ctx → Ctx) : (s.modCtx c f).linkTable = s.linkTable := rfl
@[simp] theorem State.modCtx_sauq (s : State) (c : BitVec 8) (f : Ctx → Ctx) : (s.modCtx c f).sauq = s.sauq := rfl
@[simp] theorem State.modCtx_l2 (s : State) (c : BitVec 8) (f : Ctx → Ctx) : (s.modCtx c f).l2 = s.l2 := rfl
@[simp] theorem State.modCtx_hostOut (s : State) (c : BitVec 8) (f : Ctx → Ctx) : (s.modCtx c f).hostOut = s.hostOut := rfl
@[simp] theorem State.modCtx_insertions (s : State) (c : BitVec 8) (f : Ctx → Ctx) : (s.modCtx c f).insertions = s.insertions := rfl
@[simp] theorem State.modCtx_cxlCache (s : State) (c : BitVec 8) (f : Ctx → Ctx) : (s.modCtx c f).cxlCache = s.cxlCache := rfl
@[simp] theorem State.modCtx_pulled (s : State) (c : BitVec 8) (f : Ctx → Ctx) : (s.modCtx c f).pulled = s.pulled := rfl
@[simp] theorem State.modCtx_snoops (s : State) (c : BitVec 8) (f : Ctx → Ctx) : (s.modCtx c f).snoops = s.snoops := rfl
@[simp] theorem State.modCtx_dumpCtx (s : State) (c : BitVec 8) (f : Ctx → Ctx) : (s.modCtx c f).dumpCtx = s.dumpCtx := rfl
@[simp] theorem State.modCtx_dumpWaiting (s : State) (c : BitVec 8) (f : Ctx → Ctx) : (s.modCtx c f).dumpWaiting = s.dumpWaiting := rfl
@[simp] theorem State.modCtx_agenda (s : State) (c : BitVec 8) (f : Ctx → Ctx) : (s.modCtx c f).agenda = s.agenda := rfl
@[simp] theorem State.modCtx_freshCount (s : State) (c : BitVec 8) (f : Ctx → Ctx) : (s.modCtx c f).freshCount = s.freshCount := rfl

/-! ### modGang -/

@[simp] theorem State.modGang_pkg (s : State) (g : BitVec 16) (f : Gang → Gang) : (s.modGang g f).pkg = s.pkg := by unfold State.modGang; split <;> rfl
@[simp] theorem State.modGang_fab (s : State) (g : BitVec 16) (f : Gang → Gang) : (s.modGang g f).fab = s.fab := by unfold State.modGang; split <;> rfl
@[simp] theorem State.modGang_links (s : State) (g : BitVec 16) (f : Gang → Gang) : (s.modGang g f).links = s.links := by unfold State.modGang; split <;> rfl
@[simp] theorem State.modGang_hart (s : State) (g : BitVec 16) (f : Gang → Gang) : (s.modGang g f).hart = s.hart := by unfold State.modGang; split <;> rfl
@[simp] theorem State.modGang_harts (s : State) (g : BitVec 16) (f : Gang → Gang) : (s.modGang g f).harts = s.harts := by unfold State.modGang; split <;> rfl
@[simp] theorem State.modGang_nextGang (s : State) (g : BitVec 16) (f : Gang → Gang) : (s.modGang g f).nextGang = s.nextGang := by unfold State.modGang; split <;> rfl
@[simp] theorem State.modGang_placeCount (s : State) (g : BitVec 16) (f : Gang → Gang) : (s.modGang g f).placeCount = s.placeCount := by unfold State.modGang; split <;> rfl
@[simp] theorem State.modGang_queues (s : State) (g : BitVec 16) (f : Gang → Gang) : (s.modGang g f).queues = s.queues := by unfold State.modGang; split <;> rfl
@[simp] theorem State.modGang_park (s : State) (g : BitVec 16) (f : Gang → Gang) : (s.modGang g f).park = s.park := by unfold State.modGang; split <;> rfl
@[simp] theorem State.modGang_retTable (s : State) (g : BitVec 16) (f : Gang → Gang) : (s.modGang g f).retTable = s.retTable := by unfold State.modGang; split <;> rfl
@[simp] theorem State.modGang_ends (s : State) (g : BitVec 16) (f : Gang → Gang) : (s.modGang g f).ends = s.ends := by unfold State.modGang; split <;> rfl
@[simp] theorem State.modGang_reports (s : State) (g : BitVec 16) (f : Gang → Gang) : (s.modGang g f).reports = s.reports := by unfold State.modGang; split <;> rfl
@[simp] theorem State.modGang_rings (s : State) (g : BitVec 16) (f : Gang → Gang) : (s.modGang g f).rings = s.rings := by unfold State.modGang; split <;> rfl
@[simp] theorem State.modGang_ctxs (s : State) (g : BitVec 16) (f : Gang → Gang) : (s.modGang g f).ctxs = s.ctxs := by unfold State.modGang; split <;> rfl
@[simp] theorem State.modGang_cores (s : State) (g : BitVec 16) (f : Gang → Gang) : (s.modGang g f).cores = s.cores := by unfold State.modGang; split <;> rfl
@[simp] theorem State.modGang_clusters (s : State) (g : BitVec 16) (f : Gang → Gang) : (s.modGang g f).clusters = s.clusters := by unfold State.modGang; split <;> rfl
@[simp] theorem State.modGang_dies (s : State) (g : BitVec 16) (f : Gang → Gang) : (s.modGang g f).dies = s.dies := by unfold State.modGang; split <;> rfl
@[simp] theorem State.modGang_banks (s : State) (g : BitVec 16) (f : Gang → Gang) : (s.modGang g f).banks = s.banks := by unfold State.modGang; split <;> rfl
@[simp] theorem State.modGang_tickets (s : State) (g : BitVec 16) (f : Gang → Gang) : (s.modGang g f).tickets = s.tickets := by unfold State.modGang; split <;> rfl
@[simp] theorem State.modGang_tlb (s : State) (g : BitVec 16) (f : Gang → Gang) : (s.modGang g f).tlb = s.tlb := by unfold State.modGang; split <;> rfl
@[simp] theorem State.modGang_mem (s : State) (g : BitVec 16) (f : Gang → Gang) : (s.modGang g f).mem = s.mem := by unfold State.modGang; split <;> rfl
@[simp] theorem State.modGang_poison (s : State) (g : BitVec 16) (f : Gang → Gang) : (s.modGang g f).poison = s.poison := by unfold State.modGang; split <;> rfl
@[simp] theorem State.modGang_correctable (s : State) (g : BitVec 16) (f : Gang → Gang) : (s.modGang g f).correctable = s.correctable := by unfold State.modGang; split <;> rfl
@[simp] theorem State.modGang_dir (s : State) (g : BitVec 16) (f : Gang → Gang) : (s.modGang g f).dir = s.dir := by unfold State.modGang; split <;> rfl
@[simp] theorem State.modGang_lines (s : State) (g : BitVec 16) (f : Gang → Gang) : (s.modGang g f).lines = s.lines := by unfold State.modGang; split <;> rfl
@[simp] theorem State.modGang_ltransit (s : State) (g : BitVec 16) (f : Gang → Gang) : (s.modGang g f).ltransit = s.ltransit := by unfold State.modGang; split <;> rfl
@[simp] theorem State.modGang_lwrites (s : State) (g : BitVec 16) (f : Gang → Gang) : (s.modGang g f).lwrites = s.lwrites := by unfold State.modGang; split <;> rfl
@[simp] theorem State.modGang_peerAcks (s : State) (g : BitVec 16) (f : Gang → Gang) : (s.modGang g f).peerAcks = s.peerAcks := by unfold State.modGang; split <;> rfl
@[simp] theorem State.modGang_evicted (s : State) (g : BitVec 16) (f : Gang → Gang) : (s.modGang g f).evicted = s.evicted := by unfold State.modGang; split <;> rfl
@[simp] theorem State.modGang_linkTable (s : State) (g : BitVec 16) (f : Gang → Gang) : (s.modGang g f).linkTable = s.linkTable := by unfold State.modGang; split <;> rfl
@[simp] theorem State.modGang_sauq (s : State) (g : BitVec 16) (f : Gang → Gang) : (s.modGang g f).sauq = s.sauq := by unfold State.modGang; split <;> rfl
@[simp] theorem State.modGang_l2 (s : State) (g : BitVec 16) (f : Gang → Gang) : (s.modGang g f).l2 = s.l2 := by unfold State.modGang; split <;> rfl
@[simp] theorem State.modGang_hostOut (s : State) (g : BitVec 16) (f : Gang → Gang) : (s.modGang g f).hostOut = s.hostOut := by unfold State.modGang; split <;> rfl
@[simp] theorem State.modGang_insertions (s : State) (g : BitVec 16) (f : Gang → Gang) : (s.modGang g f).insertions = s.insertions := by unfold State.modGang; split <;> rfl
@[simp] theorem State.modGang_cxlCache (s : State) (g : BitVec 16) (f : Gang → Gang) : (s.modGang g f).cxlCache = s.cxlCache := by unfold State.modGang; split <;> rfl
@[simp] theorem State.modGang_pulled (s : State) (g : BitVec 16) (f : Gang → Gang) : (s.modGang g f).pulled = s.pulled := by unfold State.modGang; split <;> rfl
@[simp] theorem State.modGang_snoops (s : State) (g : BitVec 16) (f : Gang → Gang) : (s.modGang g f).snoops = s.snoops := by unfold State.modGang; split <;> rfl
@[simp] theorem State.modGang_dumpCtx (s : State) (g : BitVec 16) (f : Gang → Gang) : (s.modGang g f).dumpCtx = s.dumpCtx := by unfold State.modGang; split <;> rfl
@[simp] theorem State.modGang_dumpWaiting (s : State) (g : BitVec 16) (f : Gang → Gang) : (s.modGang g f).dumpWaiting = s.dumpWaiting := by unfold State.modGang; split <;> rfl
@[simp] theorem State.modGang_agenda (s : State) (g : BitVec 16) (f : Gang → Gang) : (s.modGang g f).agenda = s.agenda := by unfold State.modGang; split <;> rfl
@[simp] theorem State.modGang_freshCount (s : State) (g : BitVec 16) (f : Gang → Gang) : (s.modGang g f).freshCount = s.freshCount := by unfold State.modGang; split <;> rfl

/-! ### modQueue -/

@[simp] theorem State.modQueue_pkg (s : State) (q : BitVec 16) (f : Queue → Queue) : (s.modQueue q f).pkg = s.pkg := by unfold State.modQueue; split <;> rfl
@[simp] theorem State.modQueue_fab (s : State) (q : BitVec 16) (f : Queue → Queue) : (s.modQueue q f).fab = s.fab := by unfold State.modQueue; split <;> rfl
@[simp] theorem State.modQueue_links (s : State) (q : BitVec 16) (f : Queue → Queue) : (s.modQueue q f).links = s.links := by unfold State.modQueue; split <;> rfl
@[simp] theorem State.modQueue_hart (s : State) (q : BitVec 16) (f : Queue → Queue) : (s.modQueue q f).hart = s.hart := by unfold State.modQueue; split <;> rfl
@[simp] theorem State.modQueue_harts (s : State) (q : BitVec 16) (f : Queue → Queue) : (s.modQueue q f).harts = s.harts := by unfold State.modQueue; split <;> rfl
@[simp] theorem State.modQueue_gangs (s : State) (q : BitVec 16) (f : Queue → Queue) : (s.modQueue q f).gangs = s.gangs := by unfold State.modQueue; split <;> rfl
@[simp] theorem State.modQueue_nextGang (s : State) (q : BitVec 16) (f : Queue → Queue) : (s.modQueue q f).nextGang = s.nextGang := by unfold State.modQueue; split <;> rfl
@[simp] theorem State.modQueue_placeCount (s : State) (q : BitVec 16) (f : Queue → Queue) : (s.modQueue q f).placeCount = s.placeCount := by unfold State.modQueue; split <;> rfl
@[simp] theorem State.modQueue_park (s : State) (q : BitVec 16) (f : Queue → Queue) : (s.modQueue q f).park = s.park := by unfold State.modQueue; split <;> rfl
@[simp] theorem State.modQueue_retTable (s : State) (q : BitVec 16) (f : Queue → Queue) : (s.modQueue q f).retTable = s.retTable := by unfold State.modQueue; split <;> rfl
@[simp] theorem State.modQueue_ends (s : State) (q : BitVec 16) (f : Queue → Queue) : (s.modQueue q f).ends = s.ends := by unfold State.modQueue; split <;> rfl
@[simp] theorem State.modQueue_reports (s : State) (q : BitVec 16) (f : Queue → Queue) : (s.modQueue q f).reports = s.reports := by unfold State.modQueue; split <;> rfl
@[simp] theorem State.modQueue_rings (s : State) (q : BitVec 16) (f : Queue → Queue) : (s.modQueue q f).rings = s.rings := by unfold State.modQueue; split <;> rfl
@[simp] theorem State.modQueue_ctxs (s : State) (q : BitVec 16) (f : Queue → Queue) : (s.modQueue q f).ctxs = s.ctxs := by unfold State.modQueue; split <;> rfl
@[simp] theorem State.modQueue_cores (s : State) (q : BitVec 16) (f : Queue → Queue) : (s.modQueue q f).cores = s.cores := by unfold State.modQueue; split <;> rfl
@[simp] theorem State.modQueue_clusters (s : State) (q : BitVec 16) (f : Queue → Queue) : (s.modQueue q f).clusters = s.clusters := by unfold State.modQueue; split <;> rfl
@[simp] theorem State.modQueue_dies (s : State) (q : BitVec 16) (f : Queue → Queue) : (s.modQueue q f).dies = s.dies := by unfold State.modQueue; split <;> rfl
@[simp] theorem State.modQueue_banks (s : State) (q : BitVec 16) (f : Queue → Queue) : (s.modQueue q f).banks = s.banks := by unfold State.modQueue; split <;> rfl
@[simp] theorem State.modQueue_tickets (s : State) (q : BitVec 16) (f : Queue → Queue) : (s.modQueue q f).tickets = s.tickets := by unfold State.modQueue; split <;> rfl
@[simp] theorem State.modQueue_tlb (s : State) (q : BitVec 16) (f : Queue → Queue) : (s.modQueue q f).tlb = s.tlb := by unfold State.modQueue; split <;> rfl
@[simp] theorem State.modQueue_mem (s : State) (q : BitVec 16) (f : Queue → Queue) : (s.modQueue q f).mem = s.mem := by unfold State.modQueue; split <;> rfl
@[simp] theorem State.modQueue_poison (s : State) (q : BitVec 16) (f : Queue → Queue) : (s.modQueue q f).poison = s.poison := by unfold State.modQueue; split <;> rfl
@[simp] theorem State.modQueue_correctable (s : State) (q : BitVec 16) (f : Queue → Queue) : (s.modQueue q f).correctable = s.correctable := by unfold State.modQueue; split <;> rfl
@[simp] theorem State.modQueue_dir (s : State) (q : BitVec 16) (f : Queue → Queue) : (s.modQueue q f).dir = s.dir := by unfold State.modQueue; split <;> rfl
@[simp] theorem State.modQueue_lines (s : State) (q : BitVec 16) (f : Queue → Queue) : (s.modQueue q f).lines = s.lines := by unfold State.modQueue; split <;> rfl
@[simp] theorem State.modQueue_ltransit (s : State) (q : BitVec 16) (f : Queue → Queue) : (s.modQueue q f).ltransit = s.ltransit := by unfold State.modQueue; split <;> rfl
@[simp] theorem State.modQueue_lwrites (s : State) (q : BitVec 16) (f : Queue → Queue) : (s.modQueue q f).lwrites = s.lwrites := by unfold State.modQueue; split <;> rfl
@[simp] theorem State.modQueue_peerAcks (s : State) (q : BitVec 16) (f : Queue → Queue) : (s.modQueue q f).peerAcks = s.peerAcks := by unfold State.modQueue; split <;> rfl
@[simp] theorem State.modQueue_evicted (s : State) (q : BitVec 16) (f : Queue → Queue) : (s.modQueue q f).evicted = s.evicted := by unfold State.modQueue; split <;> rfl
@[simp] theorem State.modQueue_linkTable (s : State) (q : BitVec 16) (f : Queue → Queue) : (s.modQueue q f).linkTable = s.linkTable := by unfold State.modQueue; split <;> rfl
@[simp] theorem State.modQueue_sauq (s : State) (q : BitVec 16) (f : Queue → Queue) : (s.modQueue q f).sauq = s.sauq := by unfold State.modQueue; split <;> rfl
@[simp] theorem State.modQueue_l2 (s : State) (q : BitVec 16) (f : Queue → Queue) : (s.modQueue q f).l2 = s.l2 := by unfold State.modQueue; split <;> rfl
@[simp] theorem State.modQueue_hostOut (s : State) (q : BitVec 16) (f : Queue → Queue) : (s.modQueue q f).hostOut = s.hostOut := by unfold State.modQueue; split <;> rfl
@[simp] theorem State.modQueue_insertions (s : State) (q : BitVec 16) (f : Queue → Queue) : (s.modQueue q f).insertions = s.insertions := by unfold State.modQueue; split <;> rfl
@[simp] theorem State.modQueue_cxlCache (s : State) (q : BitVec 16) (f : Queue → Queue) : (s.modQueue q f).cxlCache = s.cxlCache := by unfold State.modQueue; split <;> rfl
@[simp] theorem State.modQueue_pulled (s : State) (q : BitVec 16) (f : Queue → Queue) : (s.modQueue q f).pulled = s.pulled := by unfold State.modQueue; split <;> rfl
@[simp] theorem State.modQueue_snoops (s : State) (q : BitVec 16) (f : Queue → Queue) : (s.modQueue q f).snoops = s.snoops := by unfold State.modQueue; split <;> rfl
@[simp] theorem State.modQueue_dumpCtx (s : State) (q : BitVec 16) (f : Queue → Queue) : (s.modQueue q f).dumpCtx = s.dumpCtx := by unfold State.modQueue; split <;> rfl
@[simp] theorem State.modQueue_dumpWaiting (s : State) (q : BitVec 16) (f : Queue → Queue) : (s.modQueue q f).dumpWaiting = s.dumpWaiting := by unfold State.modQueue; split <;> rfl
@[simp] theorem State.modQueue_agenda (s : State) (q : BitVec 16) (f : Queue → Queue) : (s.modQueue q f).agenda = s.agenda := by unfold State.modQueue; split <;> rfl
@[simp] theorem State.modQueue_freshCount (s : State) (q : BitVec 16) (f : Queue → Queue) : (s.modQueue q f).freshCount = s.freshCount := by unfold State.modQueue; split <;> rfl

/-! ### modLink -/

@[simp] theorem State.modLink_pkg (s : State) (p : BitVec 4) (f : Link → Link) : (s.modLink p f).pkg = s.pkg := rfl
@[simp] theorem State.modLink_fab (s : State) (p : BitVec 4) (f : Link → Link) : (s.modLink p f).fab = s.fab := rfl
@[simp] theorem State.modLink_links (s : State) (p : BitVec 4) (f : Link → Link) : (s.modLink p f).links = tset s.links p.toNat (f (s.link p)) := rfl
@[simp] theorem State.modLink_hart (s : State) (p : BitVec 4) (f : Link → Link) : (s.modLink p f).hart = s.hart := rfl
@[simp] theorem State.modLink_harts (s : State) (p : BitVec 4) (f : Link → Link) : (s.modLink p f).harts = s.harts := rfl
@[simp] theorem State.modLink_gangs (s : State) (p : BitVec 4) (f : Link → Link) : (s.modLink p f).gangs = s.gangs := rfl
@[simp] theorem State.modLink_nextGang (s : State) (p : BitVec 4) (f : Link → Link) : (s.modLink p f).nextGang = s.nextGang := rfl
@[simp] theorem State.modLink_placeCount (s : State) (p : BitVec 4) (f : Link → Link) : (s.modLink p f).placeCount = s.placeCount := rfl
@[simp] theorem State.modLink_queues (s : State) (p : BitVec 4) (f : Link → Link) : (s.modLink p f).queues = s.queues := rfl
@[simp] theorem State.modLink_park (s : State) (p : BitVec 4) (f : Link → Link) : (s.modLink p f).park = s.park := rfl
@[simp] theorem State.modLink_retTable (s : State) (p : BitVec 4) (f : Link → Link) : (s.modLink p f).retTable = s.retTable := rfl
@[simp] theorem State.modLink_ends (s : State) (p : BitVec 4) (f : Link → Link) : (s.modLink p f).ends = s.ends := rfl
@[simp] theorem State.modLink_reports (s : State) (p : BitVec 4) (f : Link → Link) : (s.modLink p f).reports = s.reports := rfl
@[simp] theorem State.modLink_rings (s : State) (p : BitVec 4) (f : Link → Link) : (s.modLink p f).rings = s.rings := rfl
@[simp] theorem State.modLink_ctxs (s : State) (p : BitVec 4) (f : Link → Link) : (s.modLink p f).ctxs = s.ctxs := rfl
@[simp] theorem State.modLink_cores (s : State) (p : BitVec 4) (f : Link → Link) : (s.modLink p f).cores = s.cores := rfl
@[simp] theorem State.modLink_clusters (s : State) (p : BitVec 4) (f : Link → Link) : (s.modLink p f).clusters = s.clusters := rfl
@[simp] theorem State.modLink_dies (s : State) (p : BitVec 4) (f : Link → Link) : (s.modLink p f).dies = s.dies := rfl
@[simp] theorem State.modLink_banks (s : State) (p : BitVec 4) (f : Link → Link) : (s.modLink p f).banks = s.banks := rfl
@[simp] theorem State.modLink_tickets (s : State) (p : BitVec 4) (f : Link → Link) : (s.modLink p f).tickets = s.tickets := rfl
@[simp] theorem State.modLink_tlb (s : State) (p : BitVec 4) (f : Link → Link) : (s.modLink p f).tlb = s.tlb := rfl
@[simp] theorem State.modLink_mem (s : State) (p : BitVec 4) (f : Link → Link) : (s.modLink p f).mem = s.mem := rfl
@[simp] theorem State.modLink_poison (s : State) (p : BitVec 4) (f : Link → Link) : (s.modLink p f).poison = s.poison := rfl
@[simp] theorem State.modLink_correctable (s : State) (p : BitVec 4) (f : Link → Link) : (s.modLink p f).correctable = s.correctable := rfl
@[simp] theorem State.modLink_dir (s : State) (p : BitVec 4) (f : Link → Link) : (s.modLink p f).dir = s.dir := rfl
@[simp] theorem State.modLink_lines (s : State) (p : BitVec 4) (f : Link → Link) : (s.modLink p f).lines = s.lines := rfl
@[simp] theorem State.modLink_ltransit (s : State) (p : BitVec 4) (f : Link → Link) : (s.modLink p f).ltransit = s.ltransit := rfl
@[simp] theorem State.modLink_lwrites (s : State) (p : BitVec 4) (f : Link → Link) : (s.modLink p f).lwrites = s.lwrites := rfl
@[simp] theorem State.modLink_peerAcks (s : State) (p : BitVec 4) (f : Link → Link) : (s.modLink p f).peerAcks = s.peerAcks := rfl
@[simp] theorem State.modLink_evicted (s : State) (p : BitVec 4) (f : Link → Link) : (s.modLink p f).evicted = s.evicted := rfl
@[simp] theorem State.modLink_linkTable (s : State) (p : BitVec 4) (f : Link → Link) : (s.modLink p f).linkTable = s.linkTable := rfl
@[simp] theorem State.modLink_sauq (s : State) (p : BitVec 4) (f : Link → Link) : (s.modLink p f).sauq = s.sauq := rfl
@[simp] theorem State.modLink_l2 (s : State) (p : BitVec 4) (f : Link → Link) : (s.modLink p f).l2 = s.l2 := rfl
@[simp] theorem State.modLink_hostOut (s : State) (p : BitVec 4) (f : Link → Link) : (s.modLink p f).hostOut = s.hostOut := rfl
@[simp] theorem State.modLink_insertions (s : State) (p : BitVec 4) (f : Link → Link) : (s.modLink p f).insertions = s.insertions := rfl
@[simp] theorem State.modLink_cxlCache (s : State) (p : BitVec 4) (f : Link → Link) : (s.modLink p f).cxlCache = s.cxlCache := rfl
@[simp] theorem State.modLink_pulled (s : State) (p : BitVec 4) (f : Link → Link) : (s.modLink p f).pulled = s.pulled := rfl
@[simp] theorem State.modLink_snoops (s : State) (p : BitVec 4) (f : Link → Link) : (s.modLink p f).snoops = s.snoops := rfl
@[simp] theorem State.modLink_dumpCtx (s : State) (p : BitVec 4) (f : Link → Link) : (s.modLink p f).dumpCtx = s.dumpCtx := rfl
@[simp] theorem State.modLink_dumpWaiting (s : State) (p : BitVec 4) (f : Link → Link) : (s.modLink p f).dumpWaiting = s.dumpWaiting := rfl
@[simp] theorem State.modLink_agenda (s : State) (p : BitVec 4) (f : Link → Link) : (s.modLink p f).agenda = s.agenda := rfl
@[simp] theorem State.modLink_freshCount (s : State) (p : BitVec 4) (f : Link → Link) : (s.modLink p f).freshCount = s.freshCount := rfl

/-! ### setBank -/

@[simp] theorem State.setBank_pkg (s : State) (i : Nat) (b : Bank) : (s.setBank i b).pkg = s.pkg := rfl
@[simp] theorem State.setBank_fab (s : State) (i : Nat) (b : Bank) : (s.setBank i b).fab = s.fab := rfl
@[simp] theorem State.setBank_links (s : State) (i : Nat) (b : Bank) : (s.setBank i b).links = s.links := rfl
@[simp] theorem State.setBank_hart (s : State) (i : Nat) (b : Bank) : (s.setBank i b).hart = s.hart := rfl
@[simp] theorem State.setBank_harts (s : State) (i : Nat) (b : Bank) : (s.setBank i b).harts = s.harts := rfl
@[simp] theorem State.setBank_gangs (s : State) (i : Nat) (b : Bank) : (s.setBank i b).gangs = s.gangs := rfl
@[simp] theorem State.setBank_nextGang (s : State) (i : Nat) (b : Bank) : (s.setBank i b).nextGang = s.nextGang := rfl
@[simp] theorem State.setBank_placeCount (s : State) (i : Nat) (b : Bank) : (s.setBank i b).placeCount = s.placeCount := rfl
@[simp] theorem State.setBank_queues (s : State) (i : Nat) (b : Bank) : (s.setBank i b).queues = s.queues := rfl
@[simp] theorem State.setBank_park (s : State) (i : Nat) (b : Bank) : (s.setBank i b).park = s.park := rfl
@[simp] theorem State.setBank_retTable (s : State) (i : Nat) (b : Bank) : (s.setBank i b).retTable = s.retTable := rfl
@[simp] theorem State.setBank_ends (s : State) (i : Nat) (b : Bank) : (s.setBank i b).ends = s.ends := rfl
@[simp] theorem State.setBank_reports (s : State) (i : Nat) (b : Bank) : (s.setBank i b).reports = s.reports := rfl
@[simp] theorem State.setBank_rings (s : State) (i : Nat) (b : Bank) : (s.setBank i b).rings = s.rings := rfl
@[simp] theorem State.setBank_ctxs (s : State) (i : Nat) (b : Bank) : (s.setBank i b).ctxs = s.ctxs := rfl
@[simp] theorem State.setBank_cores (s : State) (i : Nat) (b : Bank) : (s.setBank i b).cores = s.cores := rfl
@[simp] theorem State.setBank_clusters (s : State) (i : Nat) (b : Bank) : (s.setBank i b).clusters = s.clusters := rfl
@[simp] theorem State.setBank_dies (s : State) (i : Nat) (b : Bank) : (s.setBank i b).dies = s.dies := rfl
@[simp] theorem State.setBank_banks (s : State) (i : Nat) (b : Bank) : (s.setBank i b).banks = tset s.banks i b := rfl
@[simp] theorem State.setBank_tickets (s : State) (i : Nat) (b : Bank) : (s.setBank i b).tickets = s.tickets := rfl
@[simp] theorem State.setBank_tlb (s : State) (i : Nat) (b : Bank) : (s.setBank i b).tlb = s.tlb := rfl
@[simp] theorem State.setBank_mem (s : State) (i : Nat) (b : Bank) : (s.setBank i b).mem = s.mem := rfl
@[simp] theorem State.setBank_poison (s : State) (i : Nat) (b : Bank) : (s.setBank i b).poison = s.poison := rfl
@[simp] theorem State.setBank_correctable (s : State) (i : Nat) (b : Bank) : (s.setBank i b).correctable = s.correctable := rfl
@[simp] theorem State.setBank_dir (s : State) (i : Nat) (b : Bank) : (s.setBank i b).dir = s.dir := rfl
@[simp] theorem State.setBank_lines (s : State) (i : Nat) (b : Bank) : (s.setBank i b).lines = s.lines := rfl
@[simp] theorem State.setBank_ltransit (s : State) (i : Nat) (b : Bank) : (s.setBank i b).ltransit = s.ltransit := rfl
@[simp] theorem State.setBank_lwrites (s : State) (i : Nat) (b : Bank) : (s.setBank i b).lwrites = s.lwrites := rfl
@[simp] theorem State.setBank_peerAcks (s : State) (i : Nat) (b : Bank) : (s.setBank i b).peerAcks = s.peerAcks := rfl
@[simp] theorem State.setBank_evicted (s : State) (i : Nat) (b : Bank) : (s.setBank i b).evicted = s.evicted := rfl
@[simp] theorem State.setBank_linkTable (s : State) (i : Nat) (b : Bank) : (s.setBank i b).linkTable = s.linkTable := rfl
@[simp] theorem State.setBank_sauq (s : State) (i : Nat) (b : Bank) : (s.setBank i b).sauq = s.sauq := rfl
@[simp] theorem State.setBank_l2 (s : State) (i : Nat) (b : Bank) : (s.setBank i b).l2 = s.l2 := rfl
@[simp] theorem State.setBank_hostOut (s : State) (i : Nat) (b : Bank) : (s.setBank i b).hostOut = s.hostOut := rfl
@[simp] theorem State.setBank_insertions (s : State) (i : Nat) (b : Bank) : (s.setBank i b).insertions = s.insertions := rfl
@[simp] theorem State.setBank_cxlCache (s : State) (i : Nat) (b : Bank) : (s.setBank i b).cxlCache = s.cxlCache := rfl
@[simp] theorem State.setBank_pulled (s : State) (i : Nat) (b : Bank) : (s.setBank i b).pulled = s.pulled := rfl
@[simp] theorem State.setBank_snoops (s : State) (i : Nat) (b : Bank) : (s.setBank i b).snoops = s.snoops := rfl
@[simp] theorem State.setBank_dumpCtx (s : State) (i : Nat) (b : Bank) : (s.setBank i b).dumpCtx = s.dumpCtx := rfl
@[simp] theorem State.setBank_dumpWaiting (s : State) (i : Nat) (b : Bank) : (s.setBank i b).dumpWaiting = s.dumpWaiting := rfl
@[simp] theorem State.setBank_agenda (s : State) (i : Nat) (b : Bank) : (s.setBank i b).agenda = s.agenda := rfl
@[simp] theorem State.setBank_freshCount (s : State) (i : Nat) (b : Bank) : (s.setBank i b).freshCount = s.freshCount := rfl

/-! ### putMem -/

@[simp] theorem State.putMem_pkg (s : State) (pa : Nat) (data : List Byte) : (s.putMem pa data).pkg = s.pkg := rfl
@[simp] theorem State.putMem_fab (s : State) (pa : Nat) (data : List Byte) : (s.putMem pa data).fab = s.fab := rfl
@[simp] theorem State.putMem_links (s : State) (pa : Nat) (data : List Byte) : (s.putMem pa data).links = s.links := rfl
@[simp] theorem State.putMem_hart (s : State) (pa : Nat) (data : List Byte) : (s.putMem pa data).hart = s.hart := rfl
@[simp] theorem State.putMem_harts (s : State) (pa : Nat) (data : List Byte) : (s.putMem pa data).harts = s.harts := rfl
@[simp] theorem State.putMem_gangs (s : State) (pa : Nat) (data : List Byte) : (s.putMem pa data).gangs = s.gangs := rfl
@[simp] theorem State.putMem_nextGang (s : State) (pa : Nat) (data : List Byte) : (s.putMem pa data).nextGang = s.nextGang := rfl
@[simp] theorem State.putMem_placeCount (s : State) (pa : Nat) (data : List Byte) : (s.putMem pa data).placeCount = s.placeCount := rfl
@[simp] theorem State.putMem_queues (s : State) (pa : Nat) (data : List Byte) : (s.putMem pa data).queues = s.queues := rfl
@[simp] theorem State.putMem_park (s : State) (pa : Nat) (data : List Byte) : (s.putMem pa data).park = s.park := rfl
@[simp] theorem State.putMem_retTable (s : State) (pa : Nat) (data : List Byte) : (s.putMem pa data).retTable = s.retTable := rfl
@[simp] theorem State.putMem_ends (s : State) (pa : Nat) (data : List Byte) : (s.putMem pa data).ends = s.ends := rfl
@[simp] theorem State.putMem_reports (s : State) (pa : Nat) (data : List Byte) : (s.putMem pa data).reports = s.reports := rfl
@[simp] theorem State.putMem_rings (s : State) (pa : Nat) (data : List Byte) : (s.putMem pa data).rings = s.rings := rfl
@[simp] theorem State.putMem_ctxs (s : State) (pa : Nat) (data : List Byte) : (s.putMem pa data).ctxs = s.ctxs := rfl
@[simp] theorem State.putMem_cores (s : State) (pa : Nat) (data : List Byte) : (s.putMem pa data).cores = s.cores := rfl
@[simp] theorem State.putMem_clusters (s : State) (pa : Nat) (data : List Byte) : (s.putMem pa data).clusters = s.clusters := rfl
@[simp] theorem State.putMem_dies (s : State) (pa : Nat) (data : List Byte) : (s.putMem pa data).dies = s.dies := rfl
@[simp] theorem State.putMem_banks (s : State) (pa : Nat) (data : List Byte) : (s.putMem pa data).banks = s.banks := rfl
@[simp] theorem State.putMem_tickets (s : State) (pa : Nat) (data : List Byte) : (s.putMem pa data).tickets = s.tickets := rfl
@[simp] theorem State.putMem_tlb (s : State) (pa : Nat) (data : List Byte) : (s.putMem pa data).tlb = s.tlb := rfl
@[simp] theorem State.putMem_mem (s : State) (pa : Nat) (data : List Byte) : (s.putMem pa data).mem = memWrite s.mem pa data := rfl
@[simp] theorem State.putMem_correctable (s : State) (pa : Nat) (data : List Byte) : (s.putMem pa data).correctable = s.correctable := rfl
@[simp] theorem State.putMem_dir (s : State) (pa : Nat) (data : List Byte) : (s.putMem pa data).dir = s.dir := rfl
@[simp] theorem State.putMem_lines (s : State) (pa : Nat) (data : List Byte) : (s.putMem pa data).lines = s.lines := rfl
@[simp] theorem State.putMem_ltransit (s : State) (pa : Nat) (data : List Byte) : (s.putMem pa data).ltransit = s.ltransit := rfl
@[simp] theorem State.putMem_lwrites (s : State) (pa : Nat) (data : List Byte) : (s.putMem pa data).lwrites = s.lwrites := rfl
@[simp] theorem State.putMem_peerAcks (s : State) (pa : Nat) (data : List Byte) : (s.putMem pa data).peerAcks = s.peerAcks := rfl
@[simp] theorem State.putMem_evicted (s : State) (pa : Nat) (data : List Byte) : (s.putMem pa data).evicted = s.evicted := rfl
@[simp] theorem State.putMem_linkTable (s : State) (pa : Nat) (data : List Byte) : (s.putMem pa data).linkTable = s.linkTable := rfl
@[simp] theorem State.putMem_sauq (s : State) (pa : Nat) (data : List Byte) : (s.putMem pa data).sauq = s.sauq := rfl
@[simp] theorem State.putMem_l2 (s : State) (pa : Nat) (data : List Byte) : (s.putMem pa data).l2 = s.l2 := rfl
@[simp] theorem State.putMem_hostOut (s : State) (pa : Nat) (data : List Byte) : (s.putMem pa data).hostOut = s.hostOut := rfl
@[simp] theorem State.putMem_insertions (s : State) (pa : Nat) (data : List Byte) : (s.putMem pa data).insertions = s.insertions := rfl
@[simp] theorem State.putMem_cxlCache (s : State) (pa : Nat) (data : List Byte) : (s.putMem pa data).cxlCache = s.cxlCache := rfl
@[simp] theorem State.putMem_pulled (s : State) (pa : Nat) (data : List Byte) : (s.putMem pa data).pulled = s.pulled := rfl
@[simp] theorem State.putMem_snoops (s : State) (pa : Nat) (data : List Byte) : (s.putMem pa data).snoops = s.snoops := rfl
@[simp] theorem State.putMem_dumpCtx (s : State) (pa : Nat) (data : List Byte) : (s.putMem pa data).dumpCtx = s.dumpCtx := rfl
@[simp] theorem State.putMem_dumpWaiting (s : State) (pa : Nat) (data : List Byte) : (s.putMem pa data).dumpWaiting = s.dumpWaiting := rfl
@[simp] theorem State.putMem_agenda (s : State) (pa : Nat) (data : List Byte) : (s.putMem pa data).agenda = s.agenda := rfl
@[simp] theorem State.putMem_freshCount (s : State) (pa : Nat) (data : List Byte) : (s.putMem pa data).freshCount = s.freshCount := rfl

/-! ### await -/

@[simp] theorem State.await_pkg (s : State) (r : Request) : (s.await r).pkg = s.pkg := rfl
@[simp] theorem State.await_links (s : State) (r : Request) : (s.await r).links = s.links := rfl
@[simp] theorem State.await_hart (s : State) (r : Request) : (s.await r).hart = s.hart := rfl
@[simp] theorem State.await_harts (s : State) (r : Request) : (s.await r).harts = s.harts := rfl
@[simp] theorem State.await_gangs (s : State) (r : Request) : (s.await r).gangs = s.gangs := rfl
@[simp] theorem State.await_nextGang (s : State) (r : Request) : (s.await r).nextGang = s.nextGang := rfl
@[simp] theorem State.await_placeCount (s : State) (r : Request) : (s.await r).placeCount = s.placeCount := rfl
@[simp] theorem State.await_queues (s : State) (r : Request) : (s.await r).queues = s.queues := rfl
@[simp] theorem State.await_park (s : State) (r : Request) : (s.await r).park = s.park := rfl
@[simp] theorem State.await_retTable (s : State) (r : Request) : (s.await r).retTable = s.retTable := rfl
@[simp] theorem State.await_ends (s : State) (r : Request) : (s.await r).ends = s.ends := rfl
@[simp] theorem State.await_reports (s : State) (r : Request) : (s.await r).reports = s.reports := rfl
@[simp] theorem State.await_rings (s : State) (r : Request) : (s.await r).rings = s.rings := rfl
@[simp] theorem State.await_ctxs (s : State) (r : Request) : (s.await r).ctxs = s.ctxs := rfl
@[simp] theorem State.await_cores (s : State) (r : Request) : (s.await r).cores = s.cores := rfl
@[simp] theorem State.await_clusters (s : State) (r : Request) : (s.await r).clusters = s.clusters := rfl
@[simp] theorem State.await_dies (s : State) (r : Request) : (s.await r).dies = s.dies := rfl
@[simp] theorem State.await_banks (s : State) (r : Request) : (s.await r).banks = s.banks := rfl
@[simp] theorem State.await_tickets (s : State) (r : Request) : (s.await r).tickets = s.tickets := rfl
@[simp] theorem State.await_tlb (s : State) (r : Request) : (s.await r).tlb = s.tlb := rfl
@[simp] theorem State.await_mem (s : State) (r : Request) : (s.await r).mem = s.mem := rfl
@[simp] theorem State.await_poison (s : State) (r : Request) : (s.await r).poison = s.poison := rfl
@[simp] theorem State.await_correctable (s : State) (r : Request) : (s.await r).correctable = s.correctable := rfl
@[simp] theorem State.await_dir (s : State) (r : Request) : (s.await r).dir = s.dir := rfl
@[simp] theorem State.await_lines (s : State) (r : Request) : (s.await r).lines = s.lines := rfl
@[simp] theorem State.await_ltransit (s : State) (r : Request) : (s.await r).ltransit = s.ltransit := rfl
@[simp] theorem State.await_lwrites (s : State) (r : Request) : (s.await r).lwrites = s.lwrites := rfl
@[simp] theorem State.await_peerAcks (s : State) (r : Request) : (s.await r).peerAcks = s.peerAcks := rfl
@[simp] theorem State.await_evicted (s : State) (r : Request) : (s.await r).evicted = s.evicted := rfl
@[simp] theorem State.await_linkTable (s : State) (r : Request) : (s.await r).linkTable = s.linkTable := rfl
@[simp] theorem State.await_sauq (s : State) (r : Request) : (s.await r).sauq = s.sauq := rfl
@[simp] theorem State.await_l2 (s : State) (r : Request) : (s.await r).l2 = s.l2 := rfl
@[simp] theorem State.await_hostOut (s : State) (r : Request) : (s.await r).hostOut = s.hostOut := rfl
@[simp] theorem State.await_insertions (s : State) (r : Request) : (s.await r).insertions = s.insertions := rfl
@[simp] theorem State.await_cxlCache (s : State) (r : Request) : (s.await r).cxlCache = s.cxlCache := rfl
@[simp] theorem State.await_pulled (s : State) (r : Request) : (s.await r).pulled = s.pulled := rfl
@[simp] theorem State.await_snoops (s : State) (r : Request) : (s.await r).snoops = s.snoops := rfl
@[simp] theorem State.await_dumpCtx (s : State) (r : Request) : (s.await r).dumpCtx = s.dumpCtx := rfl
@[simp] theorem State.await_dumpWaiting (s : State) (r : Request) : (s.await r).dumpWaiting = s.dumpWaiting := rfl
@[simp] theorem State.await_agenda (s : State) (r : Request) : (s.await r).agenda = s.agenda := rfl
@[simp] theorem State.await_freshCount (s : State) (r : Request) : (s.await r).freshCount = s.freshCount := rfl

/-! ### countUe -/

@[simp] theorem State.countUe_fab (s : State) : s.countUe.fab = s.fab := rfl
@[simp] theorem State.countUe_links (s : State) : s.countUe.links = s.links := rfl
@[simp] theorem State.countUe_hart (s : State) : s.countUe.hart = s.hart := rfl
@[simp] theorem State.countUe_harts (s : State) : s.countUe.harts = s.harts := rfl
@[simp] theorem State.countUe_gangs (s : State) : s.countUe.gangs = s.gangs := rfl
@[simp] theorem State.countUe_nextGang (s : State) : s.countUe.nextGang = s.nextGang := rfl
@[simp] theorem State.countUe_placeCount (s : State) : s.countUe.placeCount = s.placeCount := rfl
@[simp] theorem State.countUe_queues (s : State) : s.countUe.queues = s.queues := rfl
@[simp] theorem State.countUe_park (s : State) : s.countUe.park = s.park := rfl
@[simp] theorem State.countUe_retTable (s : State) : s.countUe.retTable = s.retTable := rfl
@[simp] theorem State.countUe_ends (s : State) : s.countUe.ends = s.ends := rfl
@[simp] theorem State.countUe_reports (s : State) : s.countUe.reports = s.reports := rfl
@[simp] theorem State.countUe_rings (s : State) : s.countUe.rings = s.rings := rfl
@[simp] theorem State.countUe_ctxs (s : State) : s.countUe.ctxs = s.ctxs := rfl
@[simp] theorem State.countUe_cores (s : State) : s.countUe.cores = s.cores := rfl
@[simp] theorem State.countUe_clusters (s : State) : s.countUe.clusters = s.clusters := rfl
@[simp] theorem State.countUe_dies (s : State) : s.countUe.dies = s.dies := rfl
@[simp] theorem State.countUe_banks (s : State) : s.countUe.banks = s.banks := rfl
@[simp] theorem State.countUe_tickets (s : State) : s.countUe.tickets = s.tickets := rfl
@[simp] theorem State.countUe_tlb (s : State) : s.countUe.tlb = s.tlb := rfl
@[simp] theorem State.countUe_mem (s : State) : s.countUe.mem = s.mem := rfl
@[simp] theorem State.countUe_poison (s : State) : s.countUe.poison = s.poison := rfl
@[simp] theorem State.countUe_correctable (s : State) : s.countUe.correctable = s.correctable := rfl
@[simp] theorem State.countUe_dir (s : State) : s.countUe.dir = s.dir := rfl
@[simp] theorem State.countUe_lines (s : State) : s.countUe.lines = s.lines := rfl
@[simp] theorem State.countUe_ltransit (s : State) : s.countUe.ltransit = s.ltransit := rfl
@[simp] theorem State.countUe_lwrites (s : State) : s.countUe.lwrites = s.lwrites := rfl
@[simp] theorem State.countUe_peerAcks (s : State) : s.countUe.peerAcks = s.peerAcks := rfl
@[simp] theorem State.countUe_evicted (s : State) : s.countUe.evicted = s.evicted := rfl
@[simp] theorem State.countUe_linkTable (s : State) : s.countUe.linkTable = s.linkTable := rfl
@[simp] theorem State.countUe_sauq (s : State) : s.countUe.sauq = s.sauq := rfl
@[simp] theorem State.countUe_l2 (s : State) : s.countUe.l2 = s.l2 := rfl
@[simp] theorem State.countUe_hostOut (s : State) : s.countUe.hostOut = s.hostOut := rfl
@[simp] theorem State.countUe_insertions (s : State) : s.countUe.insertions = s.insertions := rfl
@[simp] theorem State.countUe_cxlCache (s : State) : s.countUe.cxlCache = s.cxlCache := rfl
@[simp] theorem State.countUe_pulled (s : State) : s.countUe.pulled = s.pulled := rfl
@[simp] theorem State.countUe_snoops (s : State) : s.countUe.snoops = s.snoops := rfl
@[simp] theorem State.countUe_dumpCtx (s : State) : s.countUe.dumpCtx = s.dumpCtx := rfl
@[simp] theorem State.countUe_dumpWaiting (s : State) : s.countUe.dumpWaiting = s.dumpWaiting := rfl
@[simp] theorem State.countUe_agenda (s : State) : s.countUe.agenda = s.agenda := rfl
@[simp] theorem State.countUe_freshCount (s : State) : s.countUe.freshCount = s.freshCount := rfl

/-! ### count -/

@[simp] theorem State.count_pkg (s : State) (ev n : Nat) : (s.count ev n).pkg = s.pkg := by unfold State.count; split <;> rfl
@[simp] theorem State.count_fab (s : State) (ev n : Nat) : (s.count ev n).fab = s.fab := by unfold State.count; split <;> rfl
@[simp] theorem State.count_links (s : State) (ev n : Nat) : (s.count ev n).links = s.links := by unfold State.count; split <;> rfl
@[simp] theorem State.count_hart (s : State) (ev n : Nat) : (s.count ev n).hart = s.hart := by unfold State.count; split <;> rfl
@[simp] theorem State.count_harts (s : State) (ev n : Nat) : (s.count ev n).harts = s.harts := by unfold State.count; split <;> rfl
@[simp] theorem State.count_gangs (s : State) (ev n : Nat) : (s.count ev n).gangs = s.gangs := by unfold State.count; split <;> rfl
@[simp] theorem State.count_nextGang (s : State) (ev n : Nat) : (s.count ev n).nextGang = s.nextGang := by unfold State.count; split <;> rfl
@[simp] theorem State.count_placeCount (s : State) (ev n : Nat) : (s.count ev n).placeCount = s.placeCount := by unfold State.count; split <;> rfl
@[simp] theorem State.count_queues (s : State) (ev n : Nat) : (s.count ev n).queues = s.queues := by unfold State.count; split <;> rfl
@[simp] theorem State.count_park (s : State) (ev n : Nat) : (s.count ev n).park = s.park := by unfold State.count; split <;> rfl
@[simp] theorem State.count_retTable (s : State) (ev n : Nat) : (s.count ev n).retTable = s.retTable := by unfold State.count; split <;> rfl
@[simp] theorem State.count_ends (s : State) (ev n : Nat) : (s.count ev n).ends = s.ends := by unfold State.count; split <;> rfl
@[simp] theorem State.count_reports (s : State) (ev n : Nat) : (s.count ev n).reports = s.reports := by unfold State.count; split <;> rfl
@[simp] theorem State.count_rings (s : State) (ev n : Nat) : (s.count ev n).rings = s.rings := by unfold State.count; split <;> rfl
@[simp] theorem State.count_ctxs (s : State) (ev n : Nat) : (s.count ev n).ctxs = s.ctxs := by unfold State.count; split <;> rfl
@[simp] theorem State.count_clusters (s : State) (ev n : Nat) : (s.count ev n).clusters = s.clusters := by unfold State.count; split <;> rfl
@[simp] theorem State.count_dies (s : State) (ev n : Nat) : (s.count ev n).dies = s.dies := by unfold State.count; split <;> rfl
@[simp] theorem State.count_banks (s : State) (ev n : Nat) : (s.count ev n).banks = s.banks := by unfold State.count; split <;> rfl
@[simp] theorem State.count_tickets (s : State) (ev n : Nat) : (s.count ev n).tickets = s.tickets := by unfold State.count; split <;> rfl
@[simp] theorem State.count_tlb (s : State) (ev n : Nat) : (s.count ev n).tlb = s.tlb := by unfold State.count; split <;> rfl
@[simp] theorem State.count_mem (s : State) (ev n : Nat) : (s.count ev n).mem = s.mem := by unfold State.count; split <;> rfl
@[simp] theorem State.count_poison (s : State) (ev n : Nat) : (s.count ev n).poison = s.poison := by unfold State.count; split <;> rfl
@[simp] theorem State.count_correctable (s : State) (ev n : Nat) : (s.count ev n).correctable = s.correctable := by unfold State.count; split <;> rfl
@[simp] theorem State.count_dir (s : State) (ev n : Nat) : (s.count ev n).dir = s.dir := by unfold State.count; split <;> rfl
@[simp] theorem State.count_lines (s : State) (ev n : Nat) : (s.count ev n).lines = s.lines := by unfold State.count; split <;> rfl
@[simp] theorem State.count_ltransit (s : State) (ev n : Nat) : (s.count ev n).ltransit = s.ltransit := by unfold State.count; split <;> rfl
@[simp] theorem State.count_lwrites (s : State) (ev n : Nat) : (s.count ev n).lwrites = s.lwrites := by unfold State.count; split <;> rfl
@[simp] theorem State.count_peerAcks (s : State) (ev n : Nat) : (s.count ev n).peerAcks = s.peerAcks := by unfold State.count; split <;> rfl
@[simp] theorem State.count_evicted (s : State) (ev n : Nat) : (s.count ev n).evicted = s.evicted := by unfold State.count; split <;> rfl
@[simp] theorem State.count_linkTable (s : State) (ev n : Nat) : (s.count ev n).linkTable = s.linkTable := by unfold State.count; split <;> rfl
@[simp] theorem State.count_sauq (s : State) (ev n : Nat) : (s.count ev n).sauq = s.sauq := by unfold State.count; split <;> rfl
@[simp] theorem State.count_l2 (s : State) (ev n : Nat) : (s.count ev n).l2 = s.l2 := by unfold State.count; split <;> rfl
@[simp] theorem State.count_hostOut (s : State) (ev n : Nat) : (s.count ev n).hostOut = s.hostOut := by unfold State.count; split <;> rfl
@[simp] theorem State.count_insertions (s : State) (ev n : Nat) : (s.count ev n).insertions = s.insertions := by unfold State.count; split <;> rfl
@[simp] theorem State.count_cxlCache (s : State) (ev n : Nat) : (s.count ev n).cxlCache = s.cxlCache := by unfold State.count; split <;> rfl
@[simp] theorem State.count_pulled (s : State) (ev n : Nat) : (s.count ev n).pulled = s.pulled := by unfold State.count; split <;> rfl
@[simp] theorem State.count_snoops (s : State) (ev n : Nat) : (s.count ev n).snoops = s.snoops := by unfold State.count; split <;> rfl
@[simp] theorem State.count_dumpCtx (s : State) (ev n : Nat) : (s.count ev n).dumpCtx = s.dumpCtx := by unfold State.count; split <;> rfl
@[simp] theorem State.count_dumpWaiting (s : State) (ev n : Nat) : (s.count ev n).dumpWaiting = s.dumpWaiting := by unfold State.count; split <;> rfl
@[simp] theorem State.count_agenda (s : State) (ev n : Nat) : (s.count ev n).agenda = s.agenda := by unfold State.count; split <;> rfl
@[simp] theorem State.count_freshCount (s : State) (ev n : Nat) : (s.count ev n).freshCount = s.freshCount := by unfold State.count; split <;> rfl

/-! ### uncount -/

@[simp] theorem State.uncount_pkg (s : State) (d : BitVec 2) (ev n : Nat) : (s.uncount d ev n).pkg = s.pkg := by unfold State.uncount; split <;> rfl
@[simp] theorem State.uncount_fab (s : State) (d : BitVec 2) (ev n : Nat) : (s.uncount d ev n).fab = s.fab := by unfold State.uncount; split <;> rfl
@[simp] theorem State.uncount_links (s : State) (d : BitVec 2) (ev n : Nat) : (s.uncount d ev n).links = s.links := by unfold State.uncount; split <;> rfl
@[simp] theorem State.uncount_hart (s : State) (d : BitVec 2) (ev n : Nat) : (s.uncount d ev n).hart = s.hart := by unfold State.uncount; split <;> rfl
@[simp] theorem State.uncount_harts (s : State) (d : BitVec 2) (ev n : Nat) : (s.uncount d ev n).harts = s.harts := by unfold State.uncount; split <;> rfl
@[simp] theorem State.uncount_gangs (s : State) (d : BitVec 2) (ev n : Nat) : (s.uncount d ev n).gangs = s.gangs := by unfold State.uncount; split <;> rfl
@[simp] theorem State.uncount_nextGang (s : State) (d : BitVec 2) (ev n : Nat) : (s.uncount d ev n).nextGang = s.nextGang := by unfold State.uncount; split <;> rfl
@[simp] theorem State.uncount_placeCount (s : State) (d : BitVec 2) (ev n : Nat) : (s.uncount d ev n).placeCount = s.placeCount := by unfold State.uncount; split <;> rfl
@[simp] theorem State.uncount_queues (s : State) (d : BitVec 2) (ev n : Nat) : (s.uncount d ev n).queues = s.queues := by unfold State.uncount; split <;> rfl
@[simp] theorem State.uncount_park (s : State) (d : BitVec 2) (ev n : Nat) : (s.uncount d ev n).park = s.park := by unfold State.uncount; split <;> rfl
@[simp] theorem State.uncount_retTable (s : State) (d : BitVec 2) (ev n : Nat) : (s.uncount d ev n).retTable = s.retTable := by unfold State.uncount; split <;> rfl
@[simp] theorem State.uncount_ends (s : State) (d : BitVec 2) (ev n : Nat) : (s.uncount d ev n).ends = s.ends := by unfold State.uncount; split <;> rfl
@[simp] theorem State.uncount_reports (s : State) (d : BitVec 2) (ev n : Nat) : (s.uncount d ev n).reports = s.reports := by unfold State.uncount; split <;> rfl
@[simp] theorem State.uncount_rings (s : State) (d : BitVec 2) (ev n : Nat) : (s.uncount d ev n).rings = s.rings := by unfold State.uncount; split <;> rfl
@[simp] theorem State.uncount_ctxs (s : State) (d : BitVec 2) (ev n : Nat) : (s.uncount d ev n).ctxs = s.ctxs := by unfold State.uncount; split <;> rfl
@[simp] theorem State.uncount_cores (s : State) (d : BitVec 2) (ev n : Nat) : (s.uncount d ev n).cores = s.cores := by unfold State.uncount; split <;> rfl
@[simp] theorem State.uncount_clusters (s : State) (d : BitVec 2) (ev n : Nat) : (s.uncount d ev n).clusters = s.clusters := by unfold State.uncount; split <;> rfl
@[simp] theorem State.uncount_banks (s : State) (d : BitVec 2) (ev n : Nat) : (s.uncount d ev n).banks = s.banks := by unfold State.uncount; split <;> rfl
@[simp] theorem State.uncount_tickets (s : State) (d : BitVec 2) (ev n : Nat) : (s.uncount d ev n).tickets = s.tickets := by unfold State.uncount; split <;> rfl
@[simp] theorem State.uncount_tlb (s : State) (d : BitVec 2) (ev n : Nat) : (s.uncount d ev n).tlb = s.tlb := by unfold State.uncount; split <;> rfl
@[simp] theorem State.uncount_mem (s : State) (d : BitVec 2) (ev n : Nat) : (s.uncount d ev n).mem = s.mem := by unfold State.uncount; split <;> rfl
@[simp] theorem State.uncount_poison (s : State) (d : BitVec 2) (ev n : Nat) : (s.uncount d ev n).poison = s.poison := by unfold State.uncount; split <;> rfl
@[simp] theorem State.uncount_correctable (s : State) (d : BitVec 2) (ev n : Nat) : (s.uncount d ev n).correctable = s.correctable := by unfold State.uncount; split <;> rfl
@[simp] theorem State.uncount_dir (s : State) (d : BitVec 2) (ev n : Nat) : (s.uncount d ev n).dir = s.dir := by unfold State.uncount; split <;> rfl
@[simp] theorem State.uncount_lines (s : State) (d : BitVec 2) (ev n : Nat) : (s.uncount d ev n).lines = s.lines := by unfold State.uncount; split <;> rfl
@[simp] theorem State.uncount_ltransit (s : State) (d : BitVec 2) (ev n : Nat) : (s.uncount d ev n).ltransit = s.ltransit := by unfold State.uncount; split <;> rfl
@[simp] theorem State.uncount_lwrites (s : State) (d : BitVec 2) (ev n : Nat) : (s.uncount d ev n).lwrites = s.lwrites := by unfold State.uncount; split <;> rfl
@[simp] theorem State.uncount_peerAcks (s : State) (d : BitVec 2) (ev n : Nat) : (s.uncount d ev n).peerAcks = s.peerAcks := by unfold State.uncount; split <;> rfl
@[simp] theorem State.uncount_evicted (s : State) (d : BitVec 2) (ev n : Nat) : (s.uncount d ev n).evicted = s.evicted := by unfold State.uncount; split <;> rfl
@[simp] theorem State.uncount_linkTable (s : State) (d : BitVec 2) (ev n : Nat) : (s.uncount d ev n).linkTable = s.linkTable := by unfold State.uncount; split <;> rfl
@[simp] theorem State.uncount_sauq (s : State) (d : BitVec 2) (ev n : Nat) : (s.uncount d ev n).sauq = s.sauq := by unfold State.uncount; split <;> rfl
@[simp] theorem State.uncount_l2 (s : State) (d : BitVec 2) (ev n : Nat) : (s.uncount d ev n).l2 = s.l2 := by unfold State.uncount; split <;> rfl
@[simp] theorem State.uncount_hostOut (s : State) (d : BitVec 2) (ev n : Nat) : (s.uncount d ev n).hostOut = s.hostOut := by unfold State.uncount; split <;> rfl
@[simp] theorem State.uncount_insertions (s : State) (d : BitVec 2) (ev n : Nat) : (s.uncount d ev n).insertions = s.insertions := by unfold State.uncount; split <;> rfl
@[simp] theorem State.uncount_cxlCache (s : State) (d : BitVec 2) (ev n : Nat) : (s.uncount d ev n).cxlCache = s.cxlCache := by unfold State.uncount; split <;> rfl
@[simp] theorem State.uncount_pulled (s : State) (d : BitVec 2) (ev n : Nat) : (s.uncount d ev n).pulled = s.pulled := by unfold State.uncount; split <;> rfl
@[simp] theorem State.uncount_snoops (s : State) (d : BitVec 2) (ev n : Nat) : (s.uncount d ev n).snoops = s.snoops := by unfold State.uncount; split <;> rfl
@[simp] theorem State.uncount_dumpCtx (s : State) (d : BitVec 2) (ev n : Nat) : (s.uncount d ev n).dumpCtx = s.dumpCtx := by unfold State.uncount; split <;> rfl
@[simp] theorem State.uncount_dumpWaiting (s : State) (d : BitVec 2) (ev n : Nat) : (s.uncount d ev n).dumpWaiting = s.dumpWaiting := by unfold State.uncount; split <;> rfl
@[simp] theorem State.uncount_agenda (s : State) (d : BitVec 2) (ev n : Nat) : (s.uncount d ev n).agenda = s.agenda := by unfold State.uncount; split <;> rfl
@[simp] theorem State.uncount_freshCount (s : State) (d : BitVec 2) (ev n : Nat) : (s.uncount d ev n).freshCount = s.freshCount := by unfold State.uncount; split <;> rfl

/-! ### retireAt -/

@[simp] theorem State.retireAt_pkg (s : State) (pc : Word) : (s.retireAt pc).pkg = s.pkg := by simp [State.retireAt]
@[simp] theorem State.retireAt_fab (s : State) (pc : Word) : (s.retireAt pc).fab = s.fab := by simp [State.retireAt]
@[simp] theorem State.retireAt_links (s : State) (pc : Word) : (s.retireAt pc).links = s.links := by simp [State.retireAt]
@[simp] theorem State.retireAt_harts (s : State) (pc : Word) : (s.retireAt pc).harts = s.harts := by simp [State.retireAt]
@[simp] theorem State.retireAt_gangs (s : State) (pc : Word) : (s.retireAt pc).gangs = s.gangs := by simp [State.retireAt]
@[simp] theorem State.retireAt_nextGang (s : State) (pc : Word) : (s.retireAt pc).nextGang = s.nextGang := by simp [State.retireAt]
@[simp] theorem State.retireAt_placeCount (s : State) (pc : Word) : (s.retireAt pc).placeCount = s.placeCount := by simp [State.retireAt]
@[simp] theorem State.retireAt_queues (s : State) (pc : Word) : (s.retireAt pc).queues = s.queues := by simp [State.retireAt]
@[simp] theorem State.retireAt_park (s : State) (pc : Word) : (s.retireAt pc).park = s.park := by simp [State.retireAt]
@[simp] theorem State.retireAt_retTable (s : State) (pc : Word) : (s.retireAt pc).retTable = s.retTable := by simp [State.retireAt]
@[simp] theorem State.retireAt_ends (s : State) (pc : Word) : (s.retireAt pc).ends = s.ends := by simp [State.retireAt]
@[simp] theorem State.retireAt_reports (s : State) (pc : Word) : (s.retireAt pc).reports = s.reports := by simp [State.retireAt]
@[simp] theorem State.retireAt_rings (s : State) (pc : Word) : (s.retireAt pc).rings = s.rings := by simp [State.retireAt]
@[simp] theorem State.retireAt_ctxs (s : State) (pc : Word) : (s.retireAt pc).ctxs = s.ctxs := by simp [State.retireAt]
@[simp] theorem State.retireAt_clusters (s : State) (pc : Word) : (s.retireAt pc).clusters = s.clusters := by simp [State.retireAt]
@[simp] theorem State.retireAt_dies (s : State) (pc : Word) : (s.retireAt pc).dies = s.dies := by simp [State.retireAt]
@[simp] theorem State.retireAt_banks (s : State) (pc : Word) : (s.retireAt pc).banks = s.banks := by simp [State.retireAt]
@[simp] theorem State.retireAt_tickets (s : State) (pc : Word) : (s.retireAt pc).tickets = s.tickets := by simp [State.retireAt]
@[simp] theorem State.retireAt_tlb (s : State) (pc : Word) : (s.retireAt pc).tlb = s.tlb := by simp [State.retireAt]
@[simp] theorem State.retireAt_mem (s : State) (pc : Word) : (s.retireAt pc).mem = s.mem := by simp [State.retireAt]
@[simp] theorem State.retireAt_poison (s : State) (pc : Word) : (s.retireAt pc).poison = s.poison := by simp [State.retireAt]
@[simp] theorem State.retireAt_correctable (s : State) (pc : Word) : (s.retireAt pc).correctable = s.correctable := by simp [State.retireAt]
@[simp] theorem State.retireAt_dir (s : State) (pc : Word) : (s.retireAt pc).dir = s.dir := by simp [State.retireAt]
@[simp] theorem State.retireAt_lines (s : State) (pc : Word) : (s.retireAt pc).lines = s.lines := by simp [State.retireAt]
@[simp] theorem State.retireAt_ltransit (s : State) (pc : Word) : (s.retireAt pc).ltransit = s.ltransit := by simp [State.retireAt]
@[simp] theorem State.retireAt_lwrites (s : State) (pc : Word) : (s.retireAt pc).lwrites = s.lwrites := by simp [State.retireAt]
@[simp] theorem State.retireAt_peerAcks (s : State) (pc : Word) : (s.retireAt pc).peerAcks = s.peerAcks := by simp [State.retireAt]
@[simp] theorem State.retireAt_evicted (s : State) (pc : Word) : (s.retireAt pc).evicted = s.evicted := by simp [State.retireAt]
@[simp] theorem State.retireAt_linkTable (s : State) (pc : Word) : (s.retireAt pc).linkTable = s.linkTable := by simp [State.retireAt]
@[simp] theorem State.retireAt_sauq (s : State) (pc : Word) : (s.retireAt pc).sauq = s.sauq := by simp [State.retireAt]
@[simp] theorem State.retireAt_l2 (s : State) (pc : Word) : (s.retireAt pc).l2 = s.l2 := by simp [State.retireAt]
@[simp] theorem State.retireAt_hostOut (s : State) (pc : Word) : (s.retireAt pc).hostOut = s.hostOut := by simp [State.retireAt]
@[simp] theorem State.retireAt_insertions (s : State) (pc : Word) : (s.retireAt pc).insertions = s.insertions := by simp [State.retireAt]
@[simp] theorem State.retireAt_cxlCache (s : State) (pc : Word) : (s.retireAt pc).cxlCache = s.cxlCache := by simp [State.retireAt]
@[simp] theorem State.retireAt_pulled (s : State) (pc : Word) : (s.retireAt pc).pulled = s.pulled := by simp [State.retireAt]
@[simp] theorem State.retireAt_snoops (s : State) (pc : Word) : (s.retireAt pc).snoops = s.snoops := by simp [State.retireAt]
@[simp] theorem State.retireAt_dumpCtx (s : State) (pc : Word) : (s.retireAt pc).dumpCtx = s.dumpCtx := by simp [State.retireAt]
@[simp] theorem State.retireAt_dumpWaiting (s : State) (pc : Word) : (s.retireAt pc).dumpWaiting = s.dumpWaiting := by simp [State.retireAt]
@[simp] theorem State.retireAt_agenda (s : State) (pc : Word) : (s.retireAt pc).agenda = s.agenda := by simp [State.retireAt]
@[simp] theorem State.retireAt_freshCount (s : State) (pc : Word) : (s.retireAt pc).freshCount = s.freshCount := by simp [State.retireAt]

/-! ### freshWord -/

@[simp] theorem State.freshWord_pkg (s : State) : s.freshWord.2.pkg = s.pkg := rfl
@[simp] theorem State.freshWord_fab (s : State) : s.freshWord.2.fab = s.fab := rfl
@[simp] theorem State.freshWord_links (s : State) : s.freshWord.2.links = s.links := rfl
@[simp] theorem State.freshWord_hart (s : State) : s.freshWord.2.hart = s.hart := rfl
@[simp] theorem State.freshWord_harts (s : State) : s.freshWord.2.harts = s.harts := rfl
@[simp] theorem State.freshWord_gangs (s : State) : s.freshWord.2.gangs = s.gangs := rfl
@[simp] theorem State.freshWord_nextGang (s : State) : s.freshWord.2.nextGang = s.nextGang := rfl
@[simp] theorem State.freshWord_placeCount (s : State) : s.freshWord.2.placeCount = s.placeCount := rfl
@[simp] theorem State.freshWord_queues (s : State) : s.freshWord.2.queues = s.queues := rfl
@[simp] theorem State.freshWord_park (s : State) : s.freshWord.2.park = s.park := rfl
@[simp] theorem State.freshWord_retTable (s : State) : s.freshWord.2.retTable = s.retTable := rfl
@[simp] theorem State.freshWord_ends (s : State) : s.freshWord.2.ends = s.ends := rfl
@[simp] theorem State.freshWord_reports (s : State) : s.freshWord.2.reports = s.reports := rfl
@[simp] theorem State.freshWord_rings (s : State) : s.freshWord.2.rings = s.rings := rfl
@[simp] theorem State.freshWord_ctxs (s : State) : s.freshWord.2.ctxs = s.ctxs := rfl
@[simp] theorem State.freshWord_cores (s : State) : s.freshWord.2.cores = s.cores := rfl
@[simp] theorem State.freshWord_clusters (s : State) : s.freshWord.2.clusters = s.clusters := rfl
@[simp] theorem State.freshWord_dies (s : State) : s.freshWord.2.dies = s.dies := rfl
@[simp] theorem State.freshWord_banks (s : State) : s.freshWord.2.banks = s.banks := rfl
@[simp] theorem State.freshWord_tickets (s : State) : s.freshWord.2.tickets = s.tickets := rfl
@[simp] theorem State.freshWord_tlb (s : State) : s.freshWord.2.tlb = s.tlb := rfl
@[simp] theorem State.freshWord_mem (s : State) : s.freshWord.2.mem = s.mem := rfl
@[simp] theorem State.freshWord_poison (s : State) : s.freshWord.2.poison = s.poison := rfl
@[simp] theorem State.freshWord_correctable (s : State) : s.freshWord.2.correctable = s.correctable := rfl
@[simp] theorem State.freshWord_dir (s : State) : s.freshWord.2.dir = s.dir := rfl
@[simp] theorem State.freshWord_lines (s : State) : s.freshWord.2.lines = s.lines := rfl
@[simp] theorem State.freshWord_ltransit (s : State) : s.freshWord.2.ltransit = s.ltransit := rfl
@[simp] theorem State.freshWord_lwrites (s : State) : s.freshWord.2.lwrites = s.lwrites := rfl
@[simp] theorem State.freshWord_peerAcks (s : State) : s.freshWord.2.peerAcks = s.peerAcks := rfl
@[simp] theorem State.freshWord_evicted (s : State) : s.freshWord.2.evicted = s.evicted := rfl
@[simp] theorem State.freshWord_linkTable (s : State) : s.freshWord.2.linkTable = s.linkTable := rfl
@[simp] theorem State.freshWord_sauq (s : State) : s.freshWord.2.sauq = s.sauq := rfl
@[simp] theorem State.freshWord_l2 (s : State) : s.freshWord.2.l2 = s.l2 := rfl
@[simp] theorem State.freshWord_hostOut (s : State) : s.freshWord.2.hostOut = s.hostOut := rfl
@[simp] theorem State.freshWord_insertions (s : State) : s.freshWord.2.insertions = s.insertions := rfl
@[simp] theorem State.freshWord_cxlCache (s : State) : s.freshWord.2.cxlCache = s.cxlCache := rfl
@[simp] theorem State.freshWord_pulled (s : State) : s.freshWord.2.pulled = s.pulled := rfl
@[simp] theorem State.freshWord_snoops (s : State) : s.freshWord.2.snoops = s.snoops := rfl
@[simp] theorem State.freshWord_dumpCtx (s : State) : s.freshWord.2.dumpCtx = s.dumpCtx := rfl
@[simp] theorem State.freshWord_dumpWaiting (s : State) : s.freshWord.2.dumpWaiting = s.dumpWaiting := rfl
@[simp] theorem State.freshWord_agenda (s : State) : s.freshWord.2.agenda = s.agenda := rfl
@[simp] theorem State.freshWord_freshCount (s : State) : s.freshWord.2.freshCount = s.freshCount + 1 := rfl

/-! ### freshBool -/

@[simp] theorem State.freshBool_pkg (s : State) : s.freshBool.2.pkg = s.pkg := rfl
@[simp] theorem State.freshBool_fab (s : State) : s.freshBool.2.fab = s.fab := rfl
@[simp] theorem State.freshBool_links (s : State) : s.freshBool.2.links = s.links := rfl
@[simp] theorem State.freshBool_hart (s : State) : s.freshBool.2.hart = s.hart := rfl
@[simp] theorem State.freshBool_harts (s : State) : s.freshBool.2.harts = s.harts := rfl
@[simp] theorem State.freshBool_gangs (s : State) : s.freshBool.2.gangs = s.gangs := rfl
@[simp] theorem State.freshBool_nextGang (s : State) : s.freshBool.2.nextGang = s.nextGang := rfl
@[simp] theorem State.freshBool_placeCount (s : State) : s.freshBool.2.placeCount = s.placeCount := rfl
@[simp] theorem State.freshBool_queues (s : State) : s.freshBool.2.queues = s.queues := rfl
@[simp] theorem State.freshBool_park (s : State) : s.freshBool.2.park = s.park := rfl
@[simp] theorem State.freshBool_retTable (s : State) : s.freshBool.2.retTable = s.retTable := rfl
@[simp] theorem State.freshBool_ends (s : State) : s.freshBool.2.ends = s.ends := rfl
@[simp] theorem State.freshBool_reports (s : State) : s.freshBool.2.reports = s.reports := rfl
@[simp] theorem State.freshBool_rings (s : State) : s.freshBool.2.rings = s.rings := rfl
@[simp] theorem State.freshBool_ctxs (s : State) : s.freshBool.2.ctxs = s.ctxs := rfl
@[simp] theorem State.freshBool_cores (s : State) : s.freshBool.2.cores = s.cores := rfl
@[simp] theorem State.freshBool_clusters (s : State) : s.freshBool.2.clusters = s.clusters := rfl
@[simp] theorem State.freshBool_dies (s : State) : s.freshBool.2.dies = s.dies := rfl
@[simp] theorem State.freshBool_banks (s : State) : s.freshBool.2.banks = s.banks := rfl
@[simp] theorem State.freshBool_tickets (s : State) : s.freshBool.2.tickets = s.tickets := rfl
@[simp] theorem State.freshBool_tlb (s : State) : s.freshBool.2.tlb = s.tlb := rfl
@[simp] theorem State.freshBool_mem (s : State) : s.freshBool.2.mem = s.mem := rfl
@[simp] theorem State.freshBool_poison (s : State) : s.freshBool.2.poison = s.poison := rfl
@[simp] theorem State.freshBool_correctable (s : State) : s.freshBool.2.correctable = s.correctable := rfl
@[simp] theorem State.freshBool_dir (s : State) : s.freshBool.2.dir = s.dir := rfl
@[simp] theorem State.freshBool_lines (s : State) : s.freshBool.2.lines = s.lines := rfl
@[simp] theorem State.freshBool_ltransit (s : State) : s.freshBool.2.ltransit = s.ltransit := rfl
@[simp] theorem State.freshBool_lwrites (s : State) : s.freshBool.2.lwrites = s.lwrites := rfl
@[simp] theorem State.freshBool_peerAcks (s : State) : s.freshBool.2.peerAcks = s.peerAcks := rfl
@[simp] theorem State.freshBool_evicted (s : State) : s.freshBool.2.evicted = s.evicted := rfl
@[simp] theorem State.freshBool_linkTable (s : State) : s.freshBool.2.linkTable = s.linkTable := rfl
@[simp] theorem State.freshBool_sauq (s : State) : s.freshBool.2.sauq = s.sauq := rfl
@[simp] theorem State.freshBool_l2 (s : State) : s.freshBool.2.l2 = s.l2 := rfl
@[simp] theorem State.freshBool_hostOut (s : State) : s.freshBool.2.hostOut = s.hostOut := rfl
@[simp] theorem State.freshBool_insertions (s : State) : s.freshBool.2.insertions = s.insertions := rfl
@[simp] theorem State.freshBool_cxlCache (s : State) : s.freshBool.2.cxlCache = s.cxlCache := rfl
@[simp] theorem State.freshBool_pulled (s : State) : s.freshBool.2.pulled = s.pulled := rfl
@[simp] theorem State.freshBool_snoops (s : State) : s.freshBool.2.snoops = s.snoops := rfl
@[simp] theorem State.freshBool_dumpCtx (s : State) : s.freshBool.2.dumpCtx = s.dumpCtx := rfl
@[simp] theorem State.freshBool_dumpWaiting (s : State) : s.freshBool.2.dumpWaiting = s.dumpWaiting := rfl
@[simp] theorem State.freshBool_agenda (s : State) : s.freshBool.2.agenda = s.agenda := rfl
@[simp] theorem State.freshBool_freshCount (s : State) : s.freshBool.2.freshCount = s.freshCount + 1 := rfl

/-! ### freshImage -/

@[simp] theorem State.freshImage_pkg (s : State) (n : Nat) : (s.freshImage n).2.pkg = s.pkg := rfl
@[simp] theorem State.freshImage_fab (s : State) (n : Nat) : (s.freshImage n).2.fab = s.fab := rfl
@[simp] theorem State.freshImage_links (s : State) (n : Nat) : (s.freshImage n).2.links = s.links := rfl
@[simp] theorem State.freshImage_hart (s : State) (n : Nat) : (s.freshImage n).2.hart = s.hart := rfl
@[simp] theorem State.freshImage_harts (s : State) (n : Nat) : (s.freshImage n).2.harts = s.harts := rfl
@[simp] theorem State.freshImage_gangs (s : State) (n : Nat) : (s.freshImage n).2.gangs = s.gangs := rfl
@[simp] theorem State.freshImage_nextGang (s : State) (n : Nat) : (s.freshImage n).2.nextGang = s.nextGang := rfl
@[simp] theorem State.freshImage_placeCount (s : State) (n : Nat) : (s.freshImage n).2.placeCount = s.placeCount := rfl
@[simp] theorem State.freshImage_queues (s : State) (n : Nat) : (s.freshImage n).2.queues = s.queues := rfl
@[simp] theorem State.freshImage_park (s : State) (n : Nat) : (s.freshImage n).2.park = s.park := rfl
@[simp] theorem State.freshImage_retTable (s : State) (n : Nat) : (s.freshImage n).2.retTable = s.retTable := rfl
@[simp] theorem State.freshImage_ends (s : State) (n : Nat) : (s.freshImage n).2.ends = s.ends := rfl
@[simp] theorem State.freshImage_reports (s : State) (n : Nat) : (s.freshImage n).2.reports = s.reports := rfl
@[simp] theorem State.freshImage_rings (s : State) (n : Nat) : (s.freshImage n).2.rings = s.rings := rfl
@[simp] theorem State.freshImage_ctxs (s : State) (n : Nat) : (s.freshImage n).2.ctxs = s.ctxs := rfl
@[simp] theorem State.freshImage_cores (s : State) (n : Nat) : (s.freshImage n).2.cores = s.cores := rfl
@[simp] theorem State.freshImage_clusters (s : State) (n : Nat) : (s.freshImage n).2.clusters = s.clusters := rfl
@[simp] theorem State.freshImage_dies (s : State) (n : Nat) : (s.freshImage n).2.dies = s.dies := rfl
@[simp] theorem State.freshImage_banks (s : State) (n : Nat) : (s.freshImage n).2.banks = s.banks := rfl
@[simp] theorem State.freshImage_tickets (s : State) (n : Nat) : (s.freshImage n).2.tickets = s.tickets := rfl
@[simp] theorem State.freshImage_tlb (s : State) (n : Nat) : (s.freshImage n).2.tlb = s.tlb := rfl
@[simp] theorem State.freshImage_mem (s : State) (n : Nat) : (s.freshImage n).2.mem = s.mem := rfl
@[simp] theorem State.freshImage_poison (s : State) (n : Nat) : (s.freshImage n).2.poison = s.poison := rfl
@[simp] theorem State.freshImage_correctable (s : State) (n : Nat) : (s.freshImage n).2.correctable = s.correctable := rfl
@[simp] theorem State.freshImage_dir (s : State) (n : Nat) : (s.freshImage n).2.dir = s.dir := rfl
@[simp] theorem State.freshImage_lines (s : State) (n : Nat) : (s.freshImage n).2.lines = s.lines := rfl
@[simp] theorem State.freshImage_ltransit (s : State) (n : Nat) : (s.freshImage n).2.ltransit = s.ltransit := rfl
@[simp] theorem State.freshImage_lwrites (s : State) (n : Nat) : (s.freshImage n).2.lwrites = s.lwrites := rfl
@[simp] theorem State.freshImage_peerAcks (s : State) (n : Nat) : (s.freshImage n).2.peerAcks = s.peerAcks := rfl
@[simp] theorem State.freshImage_evicted (s : State) (n : Nat) : (s.freshImage n).2.evicted = s.evicted := rfl
@[simp] theorem State.freshImage_linkTable (s : State) (n : Nat) : (s.freshImage n).2.linkTable = s.linkTable := rfl
@[simp] theorem State.freshImage_sauq (s : State) (n : Nat) : (s.freshImage n).2.sauq = s.sauq := rfl
@[simp] theorem State.freshImage_l2 (s : State) (n : Nat) : (s.freshImage n).2.l2 = s.l2 := rfl
@[simp] theorem State.freshImage_hostOut (s : State) (n : Nat) : (s.freshImage n).2.hostOut = s.hostOut := rfl
@[simp] theorem State.freshImage_insertions (s : State) (n : Nat) : (s.freshImage n).2.insertions = s.insertions := rfl
@[simp] theorem State.freshImage_cxlCache (s : State) (n : Nat) : (s.freshImage n).2.cxlCache = s.cxlCache := rfl
@[simp] theorem State.freshImage_pulled (s : State) (n : Nat) : (s.freshImage n).2.pulled = s.pulled := rfl
@[simp] theorem State.freshImage_snoops (s : State) (n : Nat) : (s.freshImage n).2.snoops = s.snoops := rfl
@[simp] theorem State.freshImage_dumpCtx (s : State) (n : Nat) : (s.freshImage n).2.dumpCtx = s.dumpCtx := rfl
@[simp] theorem State.freshImage_dumpWaiting (s : State) (n : Nat) : (s.freshImage n).2.dumpWaiting = s.dumpWaiting := rfl
@[simp] theorem State.freshImage_agenda (s : State) (n : Nat) : (s.freshImage n).2.agenda = s.agenda := rfl
@[simp] theorem State.freshImage_freshCount (s : State) (n : Nat) : (s.freshImage n).2.freshCount = s.freshCount + 1 := rfl

/-! ### newTag -/

@[simp] theorem State.newTag_pkg (s : State) : s.newTag.2.pkg = s.pkg := rfl
@[simp] theorem State.newTag_links (s : State) : s.newTag.2.links = s.links := rfl
@[simp] theorem State.newTag_hart (s : State) : s.newTag.2.hart = s.hart := rfl
@[simp] theorem State.newTag_harts (s : State) : s.newTag.2.harts = s.harts := rfl
@[simp] theorem State.newTag_gangs (s : State) : s.newTag.2.gangs = s.gangs := rfl
@[simp] theorem State.newTag_nextGang (s : State) : s.newTag.2.nextGang = s.nextGang := rfl
@[simp] theorem State.newTag_placeCount (s : State) : s.newTag.2.placeCount = s.placeCount := rfl
@[simp] theorem State.newTag_queues (s : State) : s.newTag.2.queues = s.queues := rfl
@[simp] theorem State.newTag_park (s : State) : s.newTag.2.park = s.park := rfl
@[simp] theorem State.newTag_retTable (s : State) : s.newTag.2.retTable = s.retTable := rfl
@[simp] theorem State.newTag_ends (s : State) : s.newTag.2.ends = s.ends := rfl
@[simp] theorem State.newTag_reports (s : State) : s.newTag.2.reports = s.reports := rfl
@[simp] theorem State.newTag_rings (s : State) : s.newTag.2.rings = s.rings := rfl
@[simp] theorem State.newTag_ctxs (s : State) : s.newTag.2.ctxs = s.ctxs := rfl
@[simp] theorem State.newTag_cores (s : State) : s.newTag.2.cores = s.cores := rfl
@[simp] theorem State.newTag_clusters (s : State) : s.newTag.2.clusters = s.clusters := rfl
@[simp] theorem State.newTag_dies (s : State) : s.newTag.2.dies = s.dies := rfl
@[simp] theorem State.newTag_banks (s : State) : s.newTag.2.banks = s.banks := rfl
@[simp] theorem State.newTag_tickets (s : State) : s.newTag.2.tickets = s.tickets := rfl
@[simp] theorem State.newTag_tlb (s : State) : s.newTag.2.tlb = s.tlb := rfl
@[simp] theorem State.newTag_mem (s : State) : s.newTag.2.mem = s.mem := rfl
@[simp] theorem State.newTag_poison (s : State) : s.newTag.2.poison = s.poison := rfl
@[simp] theorem State.newTag_correctable (s : State) : s.newTag.2.correctable = s.correctable := rfl
@[simp] theorem State.newTag_dir (s : State) : s.newTag.2.dir = s.dir := rfl
@[simp] theorem State.newTag_lines (s : State) : s.newTag.2.lines = s.lines := rfl
@[simp] theorem State.newTag_ltransit (s : State) : s.newTag.2.ltransit = s.ltransit := rfl
@[simp] theorem State.newTag_lwrites (s : State) : s.newTag.2.lwrites = s.lwrites := rfl
@[simp] theorem State.newTag_peerAcks (s : State) : s.newTag.2.peerAcks = s.peerAcks := rfl
@[simp] theorem State.newTag_evicted (s : State) : s.newTag.2.evicted = s.evicted := rfl
@[simp] theorem State.newTag_linkTable (s : State) : s.newTag.2.linkTable = s.linkTable := rfl
@[simp] theorem State.newTag_sauq (s : State) : s.newTag.2.sauq = s.sauq := rfl
@[simp] theorem State.newTag_l2 (s : State) : s.newTag.2.l2 = s.l2 := rfl
@[simp] theorem State.newTag_hostOut (s : State) : s.newTag.2.hostOut = s.hostOut := rfl
@[simp] theorem State.newTag_insertions (s : State) : s.newTag.2.insertions = s.insertions := rfl
@[simp] theorem State.newTag_cxlCache (s : State) : s.newTag.2.cxlCache = s.cxlCache := rfl
@[simp] theorem State.newTag_pulled (s : State) : s.newTag.2.pulled = s.pulled := rfl
@[simp] theorem State.newTag_snoops (s : State) : s.newTag.2.snoops = s.snoops := rfl
@[simp] theorem State.newTag_dumpCtx (s : State) : s.newTag.2.dumpCtx = s.dumpCtx := rfl
@[simp] theorem State.newTag_dumpWaiting (s : State) : s.newTag.2.dumpWaiting = s.dumpWaiting := rfl
@[simp] theorem State.newTag_agenda (s : State) : s.newTag.2.agenda = s.agenda := rfl
@[simp] theorem State.newTag_freshCount (s : State) : s.newTag.2.freshCount = s.freshCount := rfl

end Sys2Proof.Machine
end

