-- ==== Sys2Proof/Laws/Ops.lean ====
section
/-!
SUPPORT. What each shared operation can do, once: tables, counters, retiring, the scalar write-back, traces and traps.
-/
namespace Sys2Proof.Machine
open Sys2Proof.Claims

/-! ### Tables -/

theorem tget_tset {α : Type} (t : Table α) (k n : Nat) (v : α) : tget (tset t k v) n = if n = k then some v else tget t n := by
  induction t with
  | nil => by_cases h : k = n <;> simp [tset, tget, h, eq_comm]
  | cons p t ih =>
    obtain ⟨a, b⟩ := p
    by_cases h : n = k
    · subst h
      simp only [tset]
      split
      · simp [tget]
      · split
        · simp [tget]
        · rename_i h2; simp [tget, ih, Ne.symm h2]
    · simp only [tset, if_neg h] at ih ⊢
      split
      · simp [tget, Ne.symm h]
      · split
        · rename_i h2; subst h2; simp [tget, Ne.symm h]
        · simp [tget, ih]

theorem tgetD_tset {α : Type} (t : Table α) (k n : Nat) (v d : α) : tgetD (tset t k v) n d = if n = k then v else tgetD t n d := by
  unfold tgetD; rw [tget_tset]; split <;> rfl

@[simp] theorem core_modCore (s : State) (c d : BitVec 8) (f : Core → Core) :
    (s.modCore c f).core d = if d = c then f (s.core c) else s.core d := by
  unfold State.core State.modCore
  simp only [tgetD_tset, BitVec.toNat_inj]
  rfl

@[simp] theorem cluster_modCluster (s : State) (c d : BitVec 5) (f : Cluster → Cluster) :
    (s.modCluster c f).cluster d = if d = c then f (s.cluster c) else s.cluster d := by
  unfold State.cluster State.modCluster
  simp only [tgetD_tset, BitVec.toNat_inj]
  rfl

@[simp] theorem die_modDie (s : State) (c d : BitVec 2) (f : Die → Die) :
    (s.modDie c f).die d = if d = c then f (s.die c) else s.die d := by
  unfold State.die State.modDie
  simp only [tgetD_tset, BitVec.toNat_inj]
  rfl

@[simp] theorem ctx_modCtx (s : State) (c d : BitVec 8) (f : Ctx → Ctx) :
    (s.modCtx c f).ctx d = if d = c then f (s.ctx c) else s.ctx d := by
  unfold State.ctx State.modCtx
  simp only [tgetD_tset, BitVec.toNat_inj]
  rfl

@[simp] theorem link_modLink (s : State) (c d : BitVec 4) (f : Link → Link) :
    (s.modLink c f).link d = if d = c then f (s.link c) else s.link d := by
  unfold State.link State.modLink
  simp only [tgetD_tset, BitVec.toNat_inj]
  rfl

theorem bank_setBank (s : State) (i j : Nat) (b : Bank) : (s.setBank i b).bank j = if j = i then b else s.bank j := by
  unfold State.bank State.setBank
  simp only [tgetD_tset]

/-! ### Counters and retiring -/

theorem count_eq (s : State) (ev n : Nat) : s.count ev n = { s with cores := (s.count ev n).cores } := by
  unfold State.count; split <;> rfl

theorem count_core (s : State) (ev n : Nat) (c : BitVec 8) : (s.count ev n).core c = { s.core c with pm := ((s.count ev n).core c).pm } := by
  unfold State.count
  split
  · rfl
  · rename_i v h
    unfold State.core
    simp only [tgetD_tset]
    split
    · rename_i h2
      simp only [tgetD, h2, h, Option.getD_some]
    · rfl

theorem core_of_cores {s t : State} (h : t.cores = s.cores) (c : BitVec 8) : t.core c = s.core c := by
  unfold State.core; rw [h]

theorem onlyCounts_refl (s : State) : OnlyCounts s s := fun _ => rfl

theorem onlyCounts_trans {s t u : State} (h : OnlyCounts s t) (k : OnlyCounts t u) : OnlyCounts s u := fun c => by
  rw [k c, h c]

theorem onlyCounts_of_cores {s t : State} (h : t.cores = s.cores) : OnlyCounts s t := fun c => by rw [core_of_cores h]

theorem onlyCounts_count (s : State) (ev n : Nat) : OnlyCounts s (s.count ev n) := fun c => count_core s ev n c

theorem onlyHart_trans {s t u : State} (h : OnlyHart s t) (k : OnlyHart t u) : OnlyHart s u :=
  ⟨by rw [k.1, h.1], onlyCounts_trans h.2 k.2⟩

theorem onlyHart_count (s : State) (ev n : Nat) : OnlyHart s (s.count ev n) :=
  ⟨by rw [count_eq], onlyCounts_count s ev n⟩

theorem onlyHart_withHart (s : State) (f : Hart → Hart) : OnlyHart s (s.withHart f) := ⟨rfl, onlyCounts_of_cores rfl⟩

theorem getX_eq {s t : State} (h : t.hart.x = s.hart.x) (r : Reg) : t.getX r = s.getX r := by
  unfold State.getX; rw [h]

theorem getX_setX (s : State) (rd r : Reg) (v : Word) : (s.setX rd v).getX r = if r = rd ∧ r ≠ 0 then v else s.getX r := by
  unfold State.getX State.setX
  by_cases h : r = 0#5
  · simp [h]
  · by_cases h2 : rd = 0#5
    · simp only [h, h2, if_true, if_false, false_and]
    · have h0 : (r = 0) = False := eq_false h
      simp only [h, h2, if_false, h0, ne_eq, not_false_eq_true, and_true]
      by_cases h3 : r = rd
      · subst h3; simp
      · have : rd.toNat ≠ r.toNat := fun e => h3 (BitVec.eq_of_toNat_eq e.symm)
        simp only [h3, if_false]
        rw [Vector.getElem_set_ne _ _ this]

theorem onlyHart_setX (s : State) (rd : Reg) (v : Word) : OnlyHart s (s.setX rd v) := by
  unfold State.setX; split
  · exact ⟨rfl, onlyCounts_refl s⟩
  · exact ⟨rfl, onlyCounts_of_cores rfl⟩

theorem setX_hart (s : State) (rd : Reg) (v : Word) : (s.setX rd v).hart = { s.hart with x := (s.setX rd v).hart.x } := by
  unfold State.setX; split <;> rfl

theorem onlyHart_retireAt (s : State) (pc : Word) : OnlyHart s (s.retireAt pc) := by
  unfold State.retireAt
  exact onlyHart_trans ⟨rfl, onlyCounts_of_cores rfl⟩ (onlyHart_count _ 1 1)

theorem retireAt_hart (s : State) (pc : Word) : (s.retireAt pc).hart = { s.hart.retired with pc := pc } := by
  unfold State.retireAt; simp

/-- What every instruction that writes a register and retires does. -/
theorem writesOnly_retireAt (s : State) (rd : Reg) (v pc : Word) : WritesOnly s ((s.setX rd v).retireAt pc) rd v pc := by
  refine ⟨onlyHart_trans (onlyHart_setX s rd v) (onlyHart_retireAt _ pc), fun r => ?_, ?_⟩
  · rw [getX_eq (s := s.setX rd v), getX_setX]
    rw [retireAt_hart]; rfl
  · unfold OnlyRetires
    rw [retireAt_hart, setX_hart]; rfl

theorem goesOn_retireAt (s : State) (pc : Word) : GoesOn s (s.retireAt pc) pc := by
  have h := writesOnly_retireAt s 0 0 pc
  have e : s.setX 0 0 = s := by unfold State.setX; exact if_pos rfl
  rw [e] at h
  exact h

/-- `putX` completes (13 R341). -/
theorem putX_spec (s : State) (rd : Reg) (v : Word) : ∃ t, s.putX rd v = .next t ∧ WritesOnly s t rd v (s.hart.pc + 4) := by
  refine ⟨_, rfl, ?_⟩
  have h := writesOnly_retireAt s rd v ((s.setX rd v).hart.pc + 4)
  rw [setX_hart] at h
  unfold State.retire
  rw [setX_hart]
  exact h

/-! ### Memory and traces -/

theorem leBytes_length (n v : Nat) : (leBytes n v).length = n := by induction n generalizing v <;> simp_all [leBytes]

theorem memGet_putMem_other (s : State) (pa : Nat) (d : List Byte) (w : Memory.wf s.mem = true) (a : Nat) (h : a < pa ∨ pa + d.length ≤ a) :
    memGet (s.putMem pa d).mem a = memGet s.mem a := memGet_memWrite_other _ _ _ w _ h

theorem putMem_wf (s : State) (pa : Nat) (d : List Byte) (w : Memory.wf s.mem = true) : Memory.wf (s.putMem pa d).mem = true :=
  memWrite_wf _ _ _ w

theorem onlyTraced_refl (s : State) : OnlyTraced s s := ⟨rfl, fun _ => rfl, fun _ _ => rfl, fun _ _ => rfl⟩

theorem onlyTraced_trans {s t u : State} (h : OnlyTraced s t) (k : OnlyTraced t u) : OnlyTraced s u := by
  obtain ⟨h1, h2, h3, h4⟩ := h
  obtain ⟨k1, k2, k3, k4⟩ := k
  have e : t.hart = s.hart := by rw [h1]
  refine ⟨by rw [k1, h1], fun d => by rw [k2 d, h2 d], fun d hd => by rw [k3 d (by rw [e]; exact hd), h3 d hd], fun a ha => ?_⟩
  rw [k4 a, h4 a ha]
  unfold InSink
  rw [e, h2 (dieOf s.hart.core)]
  exact ha

theorem onlyTraced_modDie (s : State) (f : Nat) : OnlyTraced s (s.modDie (dieOf s.hart.core) (fun d => { d with sinkLost := f })) := by
  refine ⟨rfl, fun d => ?_, fun d h => ?_, fun a ha => rfl⟩
  · rw [die_modDie]; split
    · rename_i h; rw [h]
    · rfl
  · rw [die_modDie, if_neg h]

theorem onlyTraced_freshWord (s : State) : OnlyTraced s s.freshWord.2 := ⟨rfl, fun _ => rfl, fun _ _ => rfl, fun _ _ => rfl⟩

theorem traceRec_form (s : State) (kind : Nat) (w : Word) :
    ∃ x y, x.length = 8 ∧ y.length = 8 ∧ s.traceRec kind w = ((s.putMem
      ((wfield (s.die (dieOf s.hart.core)).sinkBase 12 40) <<< 12 + 16 * ((s.die (dieOf s.hart.core)).sinkPos % (s.die (dieOf s.hart.core)).sinkCap)) x).putMem
      ((wfield (s.die (dieOf s.hart.core)).sinkBase 12 40) <<< 12 + 16 * ((s.die (dieOf s.hart.core)).sinkPos % (s.die (dieOf s.hart.core)).sinkCap) + 8) y).modDie
      (dieOf s.hart.core) (fun d => { d with sinkPos := d.sinkPos + 1 }) :=
  ⟨_, _, leBytes_length _ _, leBytes_length _ _, rfl⟩

theorem traceRec_spec (s : State) (kind : Nat) (w : Word) (hcap : (s.die (dieOf s.hart.core)).sinkCap ≠ 0) (hw : Memory.wf s.mem = true) :
    OnlyTraced s (s.traceRec kind w) ∧ Memory.wf (s.traceRec kind w).mem = true := by
  obtain ⟨x, y, hx, hy, e⟩ := traceRec_form s kind w
  rw [e]
  have hp : (s.die (dieOf s.hart.core)).sinkPos % (s.die (dieOf s.hart.core)).sinkCap < (s.die (dieOf s.hart.core)).sinkCap := Nat.mod_lt _ (Nat.pos_of_ne_zero hcap)
  generalize (s.die (dieOf s.hart.core)).sinkPos % (s.die (dieOf s.hart.core)).sinkCap = n at hp
  refine ⟨⟨rfl, fun d => ?_, fun d h => ?_, fun a ha => ?_⟩, putMem_wf _ _ _ (putMem_wf _ _ _ hw)⟩
  · rw [die_modDie]; split
    · rename_i h; rw [h]; rfl
    · rfl
  · rw [die_modDie, if_neg h]; rfl
  · simp only [State.modDie_mem]
    simp only [InSink, Die.sinkCap] at ha hp
    rw [memGet_putMem_other _ _ _ (putMem_wf _ _ _ hw), memGet_putMem_other _ _ _ hw] <;> simp only [Nat.shiftLeft_eq, hx, hy] <;> omega

/-- What a trace can do (10 R274). -/
theorem trace_spec (s : State) (kind : Nat) (w : Word) (hw : Memory.wf s.mem = true) :
    OnlyTraced s (s.trace kind w) ∧ Memory.wf (s.trace kind w).mem = true := by
  unfold State.trace
  split
  · dsimp only
    split
    · exact ⟨onlyTraced_modDie s _, hw⟩
    · split
      · exact traceRec_spec s kind w ‹_› hw
      · rename_i hc _
        generalize BitVec.ofNat 64 (s.die (dieOf s.hart.core)).sinkLost = w5
        have h1 := traceRec_spec s 5 w5 hc hw
        have h2 := onlyTraced_trans h1.1 (onlyTraced_modDie (s.traceRec 5 w5) 0)
        have eh : (s.traceRec 5 w5).hart = s.hart := by rw [h1.1.1]
        rw [eh] at h2
        have e : ((s.traceRec 5 w5).modDie (dieOf s.hart.core) (fun d => { d with sinkLost := 0 })).hart = s.hart := by rw [h2.1]
        have h3 := traceRec_spec ((s.traceRec 5 w5).modDie (dieOf s.hart.core) (fun d => { d with sinkLost := 0 })) kind w
          (by rw [e, Die.sinkCap, h2.2.1]; exact hc) h1.2
        exact ⟨onlyTraced_trans h2 h3.1, h3.2⟩
  · exact ⟨onlyTraced_refl s, hw⟩

end Sys2Proof.Machine
end

