-- ==== Sys2Proof/Laws/Access.lean ====
section
/-!
SUPPORT. What a translation, and one access of a hart, can change.
-/
namespace Sys2Proof.Machine
open Sys2Proof.Claims

theorem uncount_eq (s : State) (d : BitVec 2) (ev n : Nat) : s.uncount d ev n = { s with dies := (s.uncount d ev n).dies } := by
  unfold State.uncount; split <;> rfl

theorem uncount_die (s : State) (d : BitVec 2) (ev n : Nat) (c : BitVec 2) :
    (s.uncount d ev n).die c = { s.die c with uncore := ((s.uncount d ev n).die c).uncore } := by
  unfold State.uncount
  split
  · rfl
  · rename_i v h
    unfold State.die
    simp only [tgetD_tset]
    split
    · rename_i h2
      simp only [tgetD, h2, h, Option.getD_some]
    · rfl

theorem die_of_dies {s t : State} (h : t.dies = s.dies) (d : BitVec 2) : t.die d = s.die d := by unfold State.die; rw [h]

/-! ### What stores nothing -/

theorem onlyLooks_refl (s : State) : OnlyLooks s s := ⟨rfl, onlyCounts_refl s, fun _ => rfl, rfl⟩

theorem onlyLooks_trans {s t u : State} (h : OnlyLooks s t) (k : OnlyLooks t u) : OnlyLooks s u :=
  ⟨by rw [k.1, h.1], onlyCounts_trans h.2.1 k.2.1, fun d => by rw [k.2.2.1 d, h.2.2.1 d], by rw [k.2.2.2, h.2.2.2]⟩

theorem onlyTranslates_refl (s : State) : OnlyTranslates s s := ⟨onlyLooks_refl s, rfl⟩

theorem onlyTranslates_trans {s t u : State} (h : OnlyTranslates s t) (k : OnlyTranslates t u) : OnlyTranslates s u :=
  ⟨onlyLooks_trans h.1 k.1, by rw [k.2, h.2]⟩

/-- A change that leaves the cores, the dies and the package's registers. -/
theorem onlyTranslates_of {s t : State} (h : t = { s with
    hart := t.hart, tlb := t.tlb, dir := t.dir, lines := t.lines, evicted := t.evicted, l2 := t.l2, freshCount := t.freshCount })
    (k : t.hart = { s.hart with lookups := t.hart.lookups }) : OnlyTranslates s t := by
  have hc : t.cores = s.cores := by rw [h]
  have hd : t.dies = s.dies := by rw [h]
  have hp : t.pkg = s.pkg := by rw [h]
  exact ⟨⟨by rw [h], onlyCounts_of_cores hc, fun d => by rw [die_of_dies hd], by rw [hp]⟩, k⟩

theorem onlyTranslates_count (s : State) (ev n : Nat) : OnlyTranslates s (s.count ev n) := by
  have hd : (s.count ev n).dies = s.dies := by rw [count_eq]
  exact ⟨⟨by rw [count_eq], onlyCounts_count s ev n, fun d => by rw [die_of_dies hd], by rw [count_eq]⟩, by rw [count_eq]⟩

theorem onlyTranslates_uncount (s : State) (d : BitVec 2) (ev n : Nat) : OnlyTranslates s (s.uncount d ev n) :=
  ⟨⟨by rw [uncount_eq], onlyCounts_of_cores (by rw [uncount_eq]), fun c => by rw [uncount_die s d ev n c], by rw [uncount_eq]⟩,
    by rw [uncount_eq]⟩

theorem onlyTranslates_scrubbed (s : State) (pa n : Nat) : OnlyTranslates s (s.scrubbed pa n) := by
  unfold State.scrubbed
  dsimp only
  split
  · exact onlyTranslates_refl s
  · exact ⟨⟨rfl, onlyCounts_of_cores rfl, fun _ => rfl, rfl⟩, rfl⟩

theorem onlyTranslates_sramUp (s : State) (k : Nat) : OnlyTranslates s (s.sramUp k) := by
  unfold State.sramUp
  split
  · exact onlyTranslates_refl s
  · exact ⟨⟨rfl, onlyCounts_of_cores rfl, fun _ => rfl, rfl⟩, rfl⟩

theorem onlyTranslates_foldl {α : Type} (f : State → α → State) (hf : ∀ s a, OnlyTranslates s (f s a)) (l : List α) (s : State) :
    OnlyTranslates s (l.foldl f s) := by
  induction l generalizing s with
  | nil => exact onlyTranslates_refl s
  | cons a l ih => exact onlyTranslates_trans (hf s a) (ih _)

theorem dirLines_frame (s : State) (pa n : Nat) (f : DirLine → BitVec 128 → DirLine) : OnlyTranslates s (s.dirLines pa n f) :=
  onlyTranslates_of rfl rfl

theorem l2Drop_frame (s : State) (line : Nat) (da : Bool) : OnlyTranslates s (s.l2Drop line da) := by
  unfold State.l2Drop
  dsimp only
  split
  · exact onlyTranslates_refl s
  · refine onlyTranslates_trans ?_ (onlyTranslates_of rfl rfl)
    split
    · exact onlyTranslates_uncount s _ _ _
    · exact onlyTranslates_refl s

/-- What a line's leaving its home can do (08 R197, R206). -/
theorem evict_frame (s : State) (line : Nat) : OnlyTranslates s (s.evict line) := by
  have h := dirLines_frame s (line * 128) 128 (fun l _ => l.home true)
  unfold State.evict
  dsimp only
  split
  · exact onlyTranslates_trans h (onlyTranslates_trans (l2Drop_frame _ _ _) (l2Drop_frame _ _ _))
  · rename_i x _
    exact onlyTranslates_trans h (onlyTranslates_trans (l2Drop_frame _ line x.da) (onlyTranslates_of rfl rfl))

/-- What an access to a line at its home can do to L2 (07 R191). -/
theorem l2Touch_frame (s : State) (dest : Option (BitVec 2)) (line : Nat) (da write : Bool) : OnlyTranslates s (s.l2Touch dest line da write) := by
  have h : OnlyTranslates s (if dest.any (fun d => d ≠ (homeOf (line * 128) da).1) then s.uncount (homeOf (line * 128) da).1 6 1 else s) := by
    split
    · exact onlyTranslates_uncount s _ _ _
    · exact onlyTranslates_refl s
  unfold State.l2Touch
  dsimp only
  generalize (if dest.any (fun d => d ≠ (homeOf (line * 128) da).1) then s.uncount (homeOf (line * 128) da).1 6 1 else s) = u at h ⊢
  split
  · exact onlyTranslates_trans h (onlyTranslates_trans (onlyTranslates_uncount u _ 1 1) (onlyTranslates_of rfl rfl))
  · have h2 := onlyTranslates_trans h
      (onlyTranslates_trans (onlyTranslates_uncount u (homeOf (line * 128) da).1 2 1) (onlyTranslates_uncount _ (stackDie line) 4 1))
    split
    · exact onlyTranslates_trans h2 (onlyTranslates_of rfl rfl)
    · have h3 := onlyTranslates_trans h2 (onlyTranslates_of (t := (State.freshImage _ 4).2) rfl rfl)
      split
      · exact onlyTranslates_trans h3 (onlyTranslates_trans (evict_frame _ _) (onlyTranslates_of rfl rfl))
      · exact h3

theorem homeLines_frame (s : State) (dest : Option (BitVec 2)) (pa n : Nat) (da write : Bool) : OnlyTranslates s (s.homeLines dest pa n da write) :=
  onlyTranslates_foldl _ (fun s _ => l2Touch_frame s _ _ _ _) _ _

/-- What an access at a home can do beside its bytes (08 R197, R200, R209). -/
theorem atHome_frame (s : State) (dest : Option (BitVec 2)) (pa n : Nat) (da write : Bool) : OnlyTranslates s (s.atHome dest pa n da write) :=
  onlyTranslates_trans (homeLines_frame s dest pa n da write) (dirLines_frame _ _ _ _)

theorem dropCopy_frame (s : State) (core : BitVec 8) (v : Nat × Bool) : OnlyTranslates s (s.dropCopy core v) := by
  unfold State.dropCopy
  split
  · exact onlyTranslates_of rfl rfl
  · split
    · exact onlyTranslates_refl s
    · exact onlyTranslates_of rfl rfl

/-- What making room in a core's data cache can do (07 R173). -/
theorem makeRoom_frame (s : State) (core : BitVec 8) (line : Nat) : OnlyTranslates s (s.makeRoom core line) := by
  unfold State.makeRoom
  dsimp only
  split
  · exact onlyTranslates_refl s
  · have h : OnlyTranslates s (s.freshImage 8).2 := onlyTranslates_of rfl rfl
    split
    · exact onlyTranslates_trans h (dropCopy_frame _ _ _)
    · exact h

/-- What an access through a core's data cache can do beside its bytes (07 R173, 08 R197 to R200). -/
theorem cached_frame (s : State) (core : BitVec 8) (pa n : Nat) (da write : Bool) : OnlyTranslates s (s.cached core pa n da write) := by
  unfold State.cached
  dsimp only
  split
  · exact atHome_frame s _ _ _ _ _
  · cases write <;> simp only [Bool.false_eq_true, if_false, if_true] <;> split
    all_goals first
      | exact onlyTranslates_trans (onlyTranslates_count s _ 1) (dirLines_frame _ _ _ _)
      | exact onlyTranslates_trans (onlyTranslates_trans (onlyTranslates_trans (onlyTranslates_count s _ 1) (homeLines_frame _ _ _ _ _ _))
          (dirLines_frame _ _ _ _)) (onlyTranslates_foldl _ (fun s _ => makeRoom_frame s _ _) _ _)

/-! ### Translation -/

theorem modDie_walks_frame (s : State) (die : BitVec 2) (f : List WalkEntry → List WalkEntry) :
    OnlyTranslates s (s.modDie die (fun d => { d with walks := f d.walks })) := by
  refine ⟨⟨rfl, onlyCounts_of_cores rfl, fun d => ?_, rfl⟩, rfl⟩
  rw [die_modDie]
  split
  · rename_i e; rw [e]
  · rfl

/-- What a walk can do (03 R85, R90). -/
theorem walkOn_frame (s : State) (die : BitVec 2) (c : BitVec 8) (va : Nat) : OnlyTranslates s (s.walkOn die c va).2 := by
  unfold State.walkOn
  dsimp only
  generalize walkReads s _ va 3 (rootOf s c) = reads
  have h : OnlyTranslates s (reads.foldl (fun t r => (t.scrubbed r.2 8).atHome (some die) r.2 8 false false) (s.uncount die 7 1)) :=
    onlyTranslates_trans (onlyTranslates_uncount s die 7 1)
      (onlyTranslates_foldl _ (fun t (r : Nat × Nat) => onlyTranslates_trans (onlyTranslates_scrubbed t r.2 8) (atHome_frame _ _ _ _ _ _)) _ _)
  have h2 := onlyTranslates_trans h (modDie_walks_frame _ die (keepPointers s c va reads))
  repeat' split
  all_goals first
    | exact h
    | exact h2

theorem onlyTranslates_keepLookup (s : State) (w : Who) (t : TlbEntry) : OnlyTranslates s (s.keepLookup w t) := by
  unfold State.keepLookup
  split
  · exact onlyTranslates_refl s
  · exact onlyTranslates_of rfl rfl

theorem onlyTranslates_tlb (s : State) (t : List TlbEntry) : OnlyTranslates s { s with tlb := t } := onlyTranslates_of rfl rfl

theorem translate_frame (s : State) (w : Who) (va : Nat) : OnlyTranslates s (translate s w va).2 := by
  have hc : OnlyTranslates s (if w.unit then s else s.count 0x0B 1) := by
    split
    · exact onlyTranslates_refl s
    · exact onlyTranslates_count _ _ _
  unfold translate
  dsimp only
  split
  · exact onlyTranslates_refl s
  · split
    · exact onlyTranslates_keepLookup s _ _
    · split
      · exact onlyTranslates_trans (onlyTranslates_trans hc (onlyTranslates_tlb _ _)) (onlyTranslates_keepLookup _ _ _)
      · generalize (if w.unit then s else s.count 0x0B 1) = u at hc ⊢
        have h := onlyTranslates_trans hc (walkOn_frame u (dieOf w.core) w.ctx va)
        generalize u.walkOn (dieOf w.core) w.ctx va = q at h ⊢
        obtain ⟨r, v⟩ := q
        cases r with
        | leaf e bits => exact onlyTranslates_trans (onlyTranslates_trans h (onlyTranslates_tlb _ _)) (onlyTranslates_keepLookup _ _ _)
        | fault => exact h
        | error => exact h

/-- What resolving an address can do (03 R83 to R90). -/
theorem resolve_frame (s : State) (w : Who) (va : Word) (k : Kind) : OnlyTranslates s (resolve s w va k).2 := by
  have h := translate_frame s w va.toNat
  unfold resolve
  split
  · exact onlyTranslates_refl s
  · split
    · exact onlyTranslates_refl s
    · generalize translate s w va.toNat = q at h ⊢
      obtain ⟨_ | _ | _, u⟩ := q <;> exact h

/-- The same, for a place that was found. -/
theorem resolve_spec {s s' : State} {w : Who} {va : Word} {k : Kind} {f : Found} (h : resolve s w va k = (f, s')) : OnlyTranslates s s' := by
  have := resolve_frame s w va k
  rw [h] at this
  exact this

end Sys2Proof.Machine
end

