-- ==== Sys2Proof/Laws/PerInstr.lean ====
section
/-!
SUPPORT. The encoder and the decoder agree, one lemma per instruction: the fields of each format, of a vector body, and then each
constructor.
-/
namespace Sys2Proof

/-! ### The fields of the formats -/

@[simp] theorem encR_op (f7 : BitVec 7) (rs2 rs1 : Reg) (f3 : BitVec 3) (rd : Reg) (op : BitVec 7) : field (encR f7 rs2 rs1 f3 rd op) 0 7 = op := by
  apply BitVec.eq_of_getLsbD_eq; intro i hi
  simp only [field, encR, BitVec.getLsbD_extractLsb', BitVec.getLsbD_append, hi, decide_true, Bool.true_and]
  (repeat' split) <;> first | omega | (congr 1; omega)

@[simp] theorem encR_rdOf (f7 : BitVec 7) (rs2 rs1 : Reg) (f3 : BitVec 3) (rd : Reg) (op : BitVec 7) : rdOf (encR f7 rs2 rs1 f3 rd op) = rd := by
  apply BitVec.eq_of_getLsbD_eq; intro i hi
  simp only [rdOf, field, encR, BitVec.getLsbD_extractLsb', BitVec.getLsbD_append, hi, decide_true, Bool.true_and]
  (repeat' split) <;> first | omega | (congr 1; omega)

@[simp] theorem encR_f3Of (f7 : BitVec 7) (rs2 rs1 : Reg) (f3 : BitVec 3) (rd : Reg) (op : BitVec 7) : f3Of (encR f7 rs2 rs1 f3 rd op) = f3 := by
  apply BitVec.eq_of_getLsbD_eq; intro i hi
  simp only [f3Of, field, encR, BitVec.getLsbD_extractLsb', BitVec.getLsbD_append, hi, decide_true, Bool.true_and]
  (repeat' split) <;> first | omega | (congr 1; omega)

@[simp] theorem encR_rs1Of (f7 : BitVec 7) (rs2 rs1 : Reg) (f3 : BitVec 3) (rd : Reg) (op : BitVec 7) : rs1Of (encR f7 rs2 rs1 f3 rd op) = rs1 := by
  apply BitVec.eq_of_getLsbD_eq; intro i hi
  simp only [rs1Of, field, encR, BitVec.getLsbD_extractLsb', BitVec.getLsbD_append, hi, decide_true, Bool.true_and]
  (repeat' split) <;> first | omega | (congr 1; omega)

@[simp] theorem encR_rs2Of (f7 : BitVec 7) (rs2 rs1 : Reg) (f3 : BitVec 3) (rd : Reg) (op : BitVec 7) : rs2Of (encR f7 rs2 rs1 f3 rd op) = rs2 := by
  apply BitVec.eq_of_getLsbD_eq; intro i hi
  simp only [rs2Of, field, encR, BitVec.getLsbD_extractLsb', BitVec.getLsbD_append, hi, decide_true, Bool.true_and]
  (repeat' split) <;> first | omega | (congr 1; omega)

@[simp] theorem encR_f7Of (f7 : BitVec 7) (rs2 rs1 : Reg) (f3 : BitVec 3) (rd : Reg) (op : BitVec 7) : f7Of (encR f7 rs2 rs1 f3 rd op) = f7 := by
  apply BitVec.eq_of_getLsbD_eq; intro i hi
  simp only [f7Of, field, encR, BitVec.getLsbD_extractLsb', BitVec.getLsbD_append, hi, decide_true, Bool.true_and]
  (repeat' split) <;> first | omega | (congr 1; omega)

@[simp] theorem encI_op (imm : BitVec 12) (rs1 : Reg) (f3 : BitVec 3) (rd : Reg) (op : BitVec 7) : field (encI imm rs1 f3 rd op) 0 7 = op := by
  apply BitVec.eq_of_getLsbD_eq; intro i hi
  simp only [field, encI, BitVec.getLsbD_extractLsb', BitVec.getLsbD_append, hi, decide_true, Bool.true_and]
  (repeat' split) <;> first | omega | (congr 1; omega)

@[simp] theorem encI_rdOf (imm : BitVec 12) (rs1 : Reg) (f3 : BitVec 3) (rd : Reg) (op : BitVec 7) : rdOf (encI imm rs1 f3 rd op) = rd := by
  apply BitVec.eq_of_getLsbD_eq; intro i hi
  simp only [rdOf, field, encI, BitVec.getLsbD_extractLsb', BitVec.getLsbD_append, hi, decide_true, Bool.true_and]
  (repeat' split) <;> first | omega | (congr 1; omega)

@[simp] theorem encI_f3Of (imm : BitVec 12) (rs1 : Reg) (f3 : BitVec 3) (rd : Reg) (op : BitVec 7) : f3Of (encI imm rs1 f3 rd op) = f3 := by
  apply BitVec.eq_of_getLsbD_eq; intro i hi
  simp only [f3Of, field, encI, BitVec.getLsbD_extractLsb', BitVec.getLsbD_append, hi, decide_true, Bool.true_and]
  (repeat' split) <;> first | omega | (congr 1; omega)

@[simp] theorem encI_rs1Of (imm : BitVec 12) (rs1 : Reg) (f3 : BitVec 3) (rd : Reg) (op : BitVec 7) : rs1Of (encI imm rs1 f3 rd op) = rs1 := by
  apply BitVec.eq_of_getLsbD_eq; intro i hi
  simp only [rs1Of, field, encI, BitVec.getLsbD_extractLsb', BitVec.getLsbD_append, hi, decide_true, Bool.true_and]
  (repeat' split) <;> first | omega | (congr 1; omega)

@[simp] theorem encI_immI (imm : BitVec 12) (rs1 : Reg) (f3 : BitVec 3) (rd : Reg) (op : BitVec 7) : immI (encI imm rs1 f3 rd op) = imm := by
  apply BitVec.eq_of_getLsbD_eq; intro i hi
  simp only [immI, field, encI, BitVec.getLsbD_extractLsb', BitVec.getLsbD_append, hi, decide_true, Bool.true_and]
  (repeat' split) <;> first | omega | (congr 1; omega)

@[simp] theorem encI_20_12 (imm : BitVec 12) (rs1 : Reg) (f3 : BitVec 3) (rd : Reg) (op : BitVec 7) : field (encI imm rs1 f3 rd op) 20 12 = imm := by
  apply BitVec.eq_of_getLsbD_eq; intro i hi
  simp only [field, encI, BitVec.getLsbD_extractLsb', BitVec.getLsbD_append, hi, decide_true, Bool.true_and]
  (repeat' split) <;> first | omega | (congr 1; omega)

@[simp] theorem encI_26_6 (imm : BitVec 12) (rs1 : Reg) (f3 : BitVec 3) (rd : Reg) (op : BitVec 7) : field (encI imm rs1 f3 rd op) 26 6 = field imm 6 6 := by
  apply BitVec.eq_of_getLsbD_eq; intro i hi
  simp only [field, encI, BitVec.getLsbD_extractLsb', BitVec.getLsbD_append, hi, decide_true, Bool.true_and]
  (repeat' split) <;> first | omega | (congr 1; omega)

@[simp] theorem encI_20_6 (imm : BitVec 12) (rs1 : Reg) (f3 : BitVec 3) (rd : Reg) (op : BitVec 7) : field (encI imm rs1 f3 rd op) 20 6 = field imm 0 6 := by
  apply BitVec.eq_of_getLsbD_eq; intro i hi
  simp only [field, encI, BitVec.getLsbD_extractLsb', BitVec.getLsbD_append, hi, decide_true, Bool.true_and]
  (repeat' split) <;> first | omega | (congr 1; omega)

@[simp] theorem encI_28_4 (imm : BitVec 12) (rs1 : Reg) (f3 : BitVec 3) (rd : Reg) (op : BitVec 7) : field (encI imm rs1 f3 rd op) 28 4 = field imm 8 4 := by
  apply BitVec.eq_of_getLsbD_eq; intro i hi
  simp only [field, encI, BitVec.getLsbD_extractLsb', BitVec.getLsbD_append, hi, decide_true, Bool.true_and]
  (repeat' split) <;> first | omega | (congr 1; omega)

@[simp] theorem encI_24_4 (imm : BitVec 12) (rs1 : Reg) (f3 : BitVec 3) (rd : Reg) (op : BitVec 7) : field (encI imm rs1 f3 rd op) 24 4 = field imm 4 4 := by
  apply BitVec.eq_of_getLsbD_eq; intro i hi
  simp only [field, encI, BitVec.getLsbD_extractLsb', BitVec.getLsbD_append, hi, decide_true, Bool.true_and]
  (repeat' split) <;> first | omega | (congr 1; omega)

@[simp] theorem encI_20_4 (imm : BitVec 12) (rs1 : Reg) (f3 : BitVec 3) (rd : Reg) (op : BitVec 7) : field (encI imm rs1 f3 rd op) 20 4 = field imm 0 4 := by
  apply BitVec.eq_of_getLsbD_eq; intro i hi
  simp only [field, encI, BitVec.getLsbD_extractLsb', BitVec.getLsbD_append, hi, decide_true, Bool.true_and]
  (repeat' split) <;> first | omega | (congr 1; omega)

@[simp] theorem encS_op (imm : BitVec 12) (rs2 rs1 : Reg) (f3 : BitVec 3) (op : BitVec 7) : field (encS imm rs2 rs1 f3 op) 0 7 = op := by
  apply BitVec.eq_of_getLsbD_eq; intro i hi
  simp only [field, encS, BitVec.getLsbD_extractLsb', BitVec.getLsbD_append, hi, decide_true, Bool.true_and]
  (repeat' split) <;> first | omega | (congr 1; omega)

@[simp] theorem encS_f3Of (imm : BitVec 12) (rs2 rs1 : Reg) (f3 : BitVec 3) (op : BitVec 7) : f3Of (encS imm rs2 rs1 f3 op) = f3 := by
  apply BitVec.eq_of_getLsbD_eq; intro i hi
  simp only [f3Of, field, encS, BitVec.getLsbD_extractLsb', BitVec.getLsbD_append, hi, decide_true, Bool.true_and]
  (repeat' split) <;> first | omega | (congr 1; omega)

@[simp] theorem encS_rs1Of (imm : BitVec 12) (rs2 rs1 : Reg) (f3 : BitVec 3) (op : BitVec 7) : rs1Of (encS imm rs2 rs1 f3 op) = rs1 := by
  apply BitVec.eq_of_getLsbD_eq; intro i hi
  simp only [rs1Of, field, encS, BitVec.getLsbD_extractLsb', BitVec.getLsbD_append, hi, decide_true, Bool.true_and]
  (repeat' split) <;> first | omega | (congr 1; omega)

@[simp] theorem encS_rs2Of (imm : BitVec 12) (rs2 rs1 : Reg) (f3 : BitVec 3) (op : BitVec 7) : rs2Of (encS imm rs2 rs1 f3 op) = rs2 := by
  apply BitVec.eq_of_getLsbD_eq; intro i hi
  simp only [rs2Of, field, encS, BitVec.getLsbD_extractLsb', BitVec.getLsbD_append, hi, decide_true, Bool.true_and]
  (repeat' split) <;> first | omega | (congr 1; omega)

@[simp] theorem encS_immS (imm : BitVec 12) (rs2 rs1 : Reg) (f3 : BitVec 3) (op : BitVec 7) : immS (encS imm rs2 rs1 f3 op) = imm := by
  apply BitVec.eq_of_getLsbD_eq; intro i hi
  simp only [immS, field, encS, BitVec.getLsbD_extractLsb', BitVec.getLsbD_append]
  interval_cases i <;> rfl

@[simp] theorem encB_op (imm : BitVec 12) (rs2 rs1 : Reg) (f3 : BitVec 3) (op : BitVec 7) : field (encB imm rs2 rs1 f3 op) 0 7 = op := by
  apply BitVec.eq_of_getLsbD_eq; intro i hi
  simp only [field, encB, BitVec.getLsbD_extractLsb', BitVec.getLsbD_append, hi, decide_true, Bool.true_and]
  (repeat' split) <;> first | omega | (congr 1; omega)

@[simp] theorem encB_f3Of (imm : BitVec 12) (rs2 rs1 : Reg) (f3 : BitVec 3) (op : BitVec 7) : f3Of (encB imm rs2 rs1 f3 op) = f3 := by
  apply BitVec.eq_of_getLsbD_eq; intro i hi
  simp only [f3Of, field, encB, BitVec.getLsbD_extractLsb', BitVec.getLsbD_append, hi, decide_true, Bool.true_and]
  (repeat' split) <;> first | omega | (congr 1; omega)

@[simp] theorem encB_rs1Of (imm : BitVec 12) (rs2 rs1 : Reg) (f3 : BitVec 3) (op : BitVec 7) : rs1Of (encB imm rs2 rs1 f3 op) = rs1 := by
  apply BitVec.eq_of_getLsbD_eq; intro i hi
  simp only [rs1Of, field, encB, BitVec.getLsbD_extractLsb', BitVec.getLsbD_append, hi, decide_true, Bool.true_and]
  (repeat' split) <;> first | omega | (congr 1; omega)

@[simp] theorem encB_rs2Of (imm : BitVec 12) (rs2 rs1 : Reg) (f3 : BitVec 3) (op : BitVec 7) : rs2Of (encB imm rs2 rs1 f3 op) = rs2 := by
  apply BitVec.eq_of_getLsbD_eq; intro i hi
  simp only [rs2Of, field, encB, BitVec.getLsbD_extractLsb', BitVec.getLsbD_append, hi, decide_true, Bool.true_and]
  (repeat' split) <;> first | omega | (congr 1; omega)

@[simp] theorem encB_immB (imm : BitVec 12) (rs2 rs1 : Reg) (f3 : BitVec 3) (op : BitVec 7) : immB (encB imm rs2 rs1 f3 op) = imm := by
  apply BitVec.eq_of_getLsbD_eq; intro i hi
  simp only [immB, field, encB, BitVec.getLsbD_extractLsb', BitVec.getLsbD_append]
  interval_cases i <;> rfl

@[simp] theorem encU_op (imm : BitVec 20) (rd : Reg) (op : BitVec 7) : field (encU imm rd op) 0 7 = op := by
  apply BitVec.eq_of_getLsbD_eq; intro i hi
  simp only [field, encU, BitVec.getLsbD_extractLsb', BitVec.getLsbD_append, hi, decide_true, Bool.true_and]
  (repeat' split) <;> first | omega | (congr 1; omega)

@[simp] theorem encU_rdOf (imm : BitVec 20) (rd : Reg) (op : BitVec 7) : rdOf (encU imm rd op) = rd := by
  apply BitVec.eq_of_getLsbD_eq; intro i hi
  simp only [rdOf, field, encU, BitVec.getLsbD_extractLsb', BitVec.getLsbD_append, hi, decide_true, Bool.true_and]
  (repeat' split) <;> first | omega | (congr 1; omega)

@[simp] theorem encU_immU (imm : BitVec 20) (rd : Reg) (op : BitVec 7) : immU (encU imm rd op) = imm := by
  apply BitVec.eq_of_getLsbD_eq; intro i hi
  simp only [immU, field, encU, BitVec.getLsbD_extractLsb', BitVec.getLsbD_append, hi, decide_true, Bool.true_and]
  (repeat' split) <;> first | omega | (congr 1; omega)

@[simp] theorem encJ_op (imm : BitVec 20) (rd : Reg) (op : BitVec 7) : field (encJ imm rd op) 0 7 = op := by
  apply BitVec.eq_of_getLsbD_eq; intro i hi
  simp only [field, encJ, BitVec.getLsbD_extractLsb', BitVec.getLsbD_append, hi, decide_true, Bool.true_and]
  (repeat' split) <;> first | omega | (congr 1; omega)

@[simp] theorem encJ_rdOf (imm : BitVec 20) (rd : Reg) (op : BitVec 7) : rdOf (encJ imm rd op) = rd := by
  apply BitVec.eq_of_getLsbD_eq; intro i hi
  simp only [rdOf, field, encJ, BitVec.getLsbD_extractLsb', BitVec.getLsbD_append, hi, decide_true, Bool.true_and]
  (repeat' split) <;> first | omega | (congr 1; omega)

@[simp] theorem encJ_immJ (imm : BitVec 20) (rd : Reg) (op : BitVec 7) : immJ (encJ imm rd op) = imm := by
  apply BitVec.eq_of_getLsbD_eq; intro i hi
  simp only [immJ, field, encJ, BitVec.getLsbD_extractLsb', BitVec.getLsbD_append]
  interval_cases i <;> rfl

@[simp] theorem encA_op (f5 : BitVec 5) (a : AmoBits) (rs2 rs1 rd : Reg) : field (encA f5 a rs2 rs1 rd) 0 7 = 0x2F#7 := by
  apply BitVec.eq_of_getLsbD_eq; intro i hi
  simp only [field, encA, BitVec.getLsbD_extractLsb', BitVec.getLsbD_append, hi, decide_true, Bool.true_and]
  (repeat' split) <;> first | omega | (congr 1; omega)

@[simp] theorem encA_rdOf (f5 : BitVec 5) (a : AmoBits) (rs2 rs1 rd : Reg) : rdOf (encA f5 a rs2 rs1 rd) = rd := by
  apply BitVec.eq_of_getLsbD_eq; intro i hi
  simp only [rdOf, field, encA, BitVec.getLsbD_extractLsb', BitVec.getLsbD_append, hi, decide_true, Bool.true_and]
  (repeat' split) <;> first | omega | (congr 1; omega)

@[simp] theorem encA_f3Of (f5 : BitVec 5) (a : AmoBits) (rs2 rs1 rd : Reg) : f3Of (encA f5 a rs2 rs1 rd) = (if a.dbl then 3#3 else 2#3) := by
  apply BitVec.eq_of_getLsbD_eq; intro i hi
  simp only [f3Of, field, encA, BitVec.getLsbD_extractLsb', BitVec.getLsbD_append, hi, decide_true, Bool.true_and]
  (repeat' split) <;> first | omega | (congr 1; omega)

@[simp] theorem encA_rs1Of (f5 : BitVec 5) (a : AmoBits) (rs2 rs1 rd : Reg) : rs1Of (encA f5 a rs2 rs1 rd) = rs1 := by
  apply BitVec.eq_of_getLsbD_eq; intro i hi
  simp only [rs1Of, field, encA, BitVec.getLsbD_extractLsb', BitVec.getLsbD_append, hi, decide_true, Bool.true_and]
  (repeat' split) <;> first | omega | (congr 1; omega)

@[simp] theorem encA_rs2Of (f5 : BitVec 5) (a : AmoBits) (rs2 rs1 rd : Reg) : rs2Of (encA f5 a rs2 rs1 rd) = rs2 := by
  apply BitVec.eq_of_getLsbD_eq; intro i hi
  simp only [rs2Of, field, encA, BitVec.getLsbD_extractLsb', BitVec.getLsbD_append, hi, decide_true, Bool.true_and]
  (repeat' split) <;> first | omega | (congr 1; omega)

@[simp] theorem encA_27_5 (f5 : BitVec 5) (a : AmoBits) (rs2 rs1 rd : Reg) : field (encA f5 a rs2 rs1 rd) 27 5 = f5 := by
  apply BitVec.eq_of_getLsbD_eq; intro i hi
  simp only [field, encA, BitVec.getLsbD_extractLsb', BitVec.getLsbD_append, hi, decide_true, Bool.true_and]
  (repeat' split) <;> first | omega | (congr 1; omega)

@[simp] theorem encA_26_1 (f5 : BitVec 5) (a : AmoBits) (rs2 rs1 rd : Reg) : field (encA f5 a rs2 rs1 rd) 26 1 = BitVec.ofBool a.aq := by
  apply BitVec.eq_of_getLsbD_eq; intro i hi
  simp only [field, encA, BitVec.getLsbD_extractLsb', BitVec.getLsbD_append, hi, decide_true, Bool.true_and]
  (repeat' split) <;> first | omega | (congr 1; omega)

@[simp] theorem encA_25_1 (f5 : BitVec 5) (a : AmoBits) (rs2 rs1 rd : Reg) : field (encA f5 a rs2 rs1 rd) 25 1 = BitVec.ofBool a.rl := by
  apply BitVec.eq_of_getLsbD_eq; intro i hi
  simp only [field, encA, BitVec.getLsbD_extractLsb', BitVec.getLsbD_append, hi, decide_true, Bool.true_and]
  (repeat' split) <;> first | omega | (congr 1; omega)

@[simp] theorem encV_op (o : BitVec 2) (eew : BitVec 3) (grp : BitVec 2) (rs2 rs1 rd : Reg) : field (encV o eew grp rs2 rs1 rd) 0 7 = 0x0B#7 := by
  apply BitVec.eq_of_getLsbD_eq; intro i hi
  simp only [field, encV, BitVec.getLsbD_extractLsb', BitVec.getLsbD_append, hi, decide_true, Bool.true_and]
  (repeat' split) <;> first | omega | (congr 1; omega)

@[simp] theorem encV_rdOf (o : BitVec 2) (eew : BitVec 3) (grp : BitVec 2) (rs2 rs1 rd : Reg) : rdOf (encV o eew grp rs2 rs1 rd) = rd := by
  apply BitVec.eq_of_getLsbD_eq; intro i hi
  simp only [rdOf, field, encV, BitVec.getLsbD_extractLsb', BitVec.getLsbD_append, hi, decide_true, Bool.true_and]
  (repeat' split) <;> first | omega | (congr 1; omega)

@[simp] theorem encV_f3Of (o : BitVec 2) (eew : BitVec 3) (grp : BitVec 2) (rs2 rs1 rd : Reg) : f3Of (encV o eew grp rs2 rs1 rd) = 0#3 := by
  apply BitVec.eq_of_getLsbD_eq; intro i hi
  simp only [f3Of, field, encV, BitVec.getLsbD_extractLsb', BitVec.getLsbD_append, hi, decide_true, Bool.true_and]
  (repeat' split) <;> first | omega | (congr 1; omega)

@[simp] theorem encV_rs1Of (o : BitVec 2) (eew : BitVec 3) (grp : BitVec 2) (rs2 rs1 rd : Reg) : rs1Of (encV o eew grp rs2 rs1 rd) = rs1 := by
  apply BitVec.eq_of_getLsbD_eq; intro i hi
  simp only [rs1Of, field, encV, BitVec.getLsbD_extractLsb', BitVec.getLsbD_append, hi, decide_true, Bool.true_and]
  (repeat' split) <;> first | omega | (congr 1; omega)

@[simp] theorem encV_rs2Of (o : BitVec 2) (eew : BitVec 3) (grp : BitVec 2) (rs2 rs1 rd : Reg) : rs2Of (encV o eew grp rs2 rs1 rd) = rs2 := by
  apply BitVec.eq_of_getLsbD_eq; intro i hi
  simp only [rs2Of, field, encV, BitVec.getLsbD_extractLsb', BitVec.getLsbD_append, hi, decide_true, Bool.true_and]
  (repeat' split) <;> first | omega | (congr 1; omega)

@[simp] theorem encV_30_2 (o : BitVec 2) (eew : BitVec 3) (grp : BitVec 2) (rs2 rs1 rd : Reg) : field (encV o eew grp rs2 rs1 rd) 30 2 = o := by
  apply BitVec.eq_of_getLsbD_eq; intro i hi
  simp only [field, encV, BitVec.getLsbD_extractLsb', BitVec.getLsbD_append, hi, decide_true, Bool.true_and]
  (repeat' split) <;> first | omega | (congr 1; omega)

@[simp] theorem encV_27_3 (o : BitVec 2) (eew : BitVec 3) (grp : BitVec 2) (rs2 rs1 rd : Reg) : field (encV o eew grp rs2 rs1 rd) 27 3 = eew := by
  apply BitVec.eq_of_getLsbD_eq; intro i hi
  simp only [field, encV, BitVec.getLsbD_extractLsb', BitVec.getLsbD_append, hi, decide_true, Bool.true_and]
  (repeat' split) <;> first | omega | (congr 1; omega)

@[simp] theorem encV_25_2 (o : BitVec 2) (eew : BitVec 3) (grp : BitVec 2) (rs2 rs1 rd : Reg) : field (encV o eew grp rs2 rs1 rd) 25 2 = grp := by
  apply BitVec.eq_of_getLsbD_eq; intro i hi
  simp only [field, encV, BitVec.getLsbD_extractLsb', BitVec.getLsbD_append, hi, decide_true, Bool.true_and]
  (repeat' split) <;> first | omega | (congr 1; omega)

@[simp] theorem encY_op (o scope : BitVec 3) (rs2 rs1 rd : Reg) : field (encY o scope rs2 rs1 rd) 0 7 = 0x0B#7 := by
  apply BitVec.eq_of_getLsbD_eq; intro i hi
  simp only [field, encY, BitVec.getLsbD_extractLsb', BitVec.getLsbD_append, hi, decide_true, Bool.true_and]
  (repeat' split) <;> first | omega | (congr 1; omega)

@[simp] theorem encY_rdOf (o scope : BitVec 3) (rs2 rs1 rd : Reg) : rdOf (encY o scope rs2 rs1 rd) = rd := by
  apply BitVec.eq_of_getLsbD_eq; intro i hi
  simp only [rdOf, field, encY, BitVec.getLsbD_extractLsb', BitVec.getLsbD_append, hi, decide_true, Bool.true_and]
  (repeat' split) <;> first | omega | (congr 1; omega)

@[simp] theorem encY_f3Of (o scope : BitVec 3) (rs2 rs1 rd : Reg) : f3Of (encY o scope rs2 rs1 rd) = 3#3 := by
  apply BitVec.eq_of_getLsbD_eq; intro i hi
  simp only [f3Of, field, encY, BitVec.getLsbD_extractLsb', BitVec.getLsbD_append, hi, decide_true, Bool.true_and]
  (repeat' split) <;> first | omega | (congr 1; omega)

@[simp] theorem encY_rs1Of (o scope : BitVec 3) (rs2 rs1 rd : Reg) : rs1Of (encY o scope rs2 rs1 rd) = rs1 := by
  apply BitVec.eq_of_getLsbD_eq; intro i hi
  simp only [rs1Of, field, encY, BitVec.getLsbD_extractLsb', BitVec.getLsbD_append, hi, decide_true, Bool.true_and]
  (repeat' split) <;> first | omega | (congr 1; omega)

@[simp] theorem encY_rs2Of (o scope : BitVec 3) (rs2 rs1 rd : Reg) : rs2Of (encY o scope rs2 rs1 rd) = rs2 := by
  apply BitVec.eq_of_getLsbD_eq; intro i hi
  simp only [rs2Of, field, encY, BitVec.getLsbD_extractLsb', BitVec.getLsbD_append, hi, decide_true, Bool.true_and]
  (repeat' split) <;> first | omega | (congr 1; omega)

@[simp] theorem encY_25_1 (o scope : BitVec 3) (rs2 rs1 rd : Reg) : field (encY o scope rs2 rs1 rd) 25 1 = 0#1 := by
  apply BitVec.eq_of_getLsbD_eq; intro i hi
  simp only [field, encY, BitVec.getLsbD_extractLsb', BitVec.getLsbD_append, hi, decide_true, Bool.true_and]
  (repeat' split) <;> first | omega | (congr 1; omega)

@[simp] theorem encY_26_3 (o scope : BitVec 3) (rs2 rs1 rd : Reg) : field (encY o scope rs2 rs1 rd) 26 3 = scope := by
  apply BitVec.eq_of_getLsbD_eq; intro i hi
  simp only [field, encY, BitVec.getLsbD_extractLsb', BitVec.getLsbD_append, hi, decide_true, Bool.true_and]
  (repeat' split) <;> first | omega | (congr 1; omega)

@[simp] theorem encY_29_3 (o scope : BitVec 3) (rs2 rs1 rd : Reg) : field (encY o scope rs2 rs1 rd) 29 3 = o := by
  apply BitVec.eq_of_getLsbD_eq; intro i hi
  simp only [field, encY, BitVec.getLsbD_extractLsb', BitVec.getLsbD_append, hi, decide_true, Bool.true_and]
  (repeat' split) <;> first | omega | (congr 1; omega)

@[simp] theorem shift_hi (a b : BitVec 6) : field (a ++ b : BitVec 12) 6 6 = a := by
  apply BitVec.eq_of_getLsbD_eq; intro i hi
  simp only [field, BitVec.getLsbD_extractLsb', BitVec.getLsbD_append, hi, decide_true, Bool.true_and]
  (repeat' split) <;> first | omega | (congr 1; omega)
@[simp] theorem shift_lo (a b : BitVec 6) : field (a ++ b : BitVec 12) 0 6 = b := by
  apply BitVec.eq_of_getLsbD_eq; intro i hi
  simp only [field, BitVec.getLsbD_extractLsb', BitVec.getLsbD_append, hi, decide_true, Bool.true_and]
  (repeat' split) <;> first | omega | (congr 1; omega)
@[simp] theorem fence_hi (a b c : BitVec 4) : field (a ++ b ++ c : BitVec 12) 8 4 = a := by
  apply BitVec.eq_of_getLsbD_eq; intro i hi
  simp only [field, BitVec.getLsbD_extractLsb', BitVec.getLsbD_append, hi, decide_true, Bool.true_and]
  (repeat' split) <;> first | omega | (congr 1; omega)
@[simp] theorem fence_mid (a b c : BitVec 4) : field (a ++ b ++ c : BitVec 12) 4 4 = b := by
  apply BitVec.eq_of_getLsbD_eq; intro i hi
  simp only [field, BitVec.getLsbD_extractLsb', BitVec.getLsbD_append, hi, decide_true, Bool.true_and]
  (repeat' split) <;> first | omega | (congr 1; omega)
@[simp] theorem fence_lo (a b c : BitVec 4) : field (a ++ b ++ c : BitVec 12) 0 4 = c := by
  apply BitVec.eq_of_getLsbD_eq; intro i hi
  simp only [field, BitVec.getLsbD_extractLsb', BitVec.getLsbD_append, hi, decide_true, Bool.true_and]
  (repeat' split) <;> first | omega | (congr 1; omega)
/-! ### The fields of a vector body -/

@[simp] theorem body_mark (c : BitVec 4) (f : BitVec 8) (b : Body) : field (encodeBody c f b) 0 7 = 0x3F#7 := by
  apply BitVec.eq_of_getLsbD_eq; intro i hi
  simp only [field, encodeBody, BitVec.getLsbD_extractLsb', BitVec.getLsbD_append, hi, decide_true, Bool.true_and]
  interval_cases i <;> rfl

@[simp] theorem body_cls (c : BitVec 4) (f : BitVec 8) (b : Body) : field (encodeBody c f b) 48 4 = c := by
  apply BitVec.eq_of_getLsbD_eq; intro i hi
  simp only [field, encodeBody, BitVec.getLsbD_extractLsb', BitVec.getLsbD_append, hi, decide_true, Bool.true_and]
  interval_cases i <;> rfl

@[simp] theorem body_funct (c : BitVec 4) (f : BitVec 8) (b : Body) : field (encodeBody c f b) 40 8 = f := by
  apply BitVec.eq_of_getLsbD_eq; intro i hi
  simp only [field, encodeBody, BitVec.getLsbD_extractLsb', BitVec.getLsbD_append, hi, decide_true, Bool.true_and]
  interval_cases i <;> rfl

@[simp] theorem body_mod (c : BitVec 4) (f : BitVec 8) (b : Body) : field (encodeBody c f b) 52 12 = b.mod := by
  apply BitVec.eq_of_getLsbD_eq; intro i hi
  simp only [field, encodeBody, BitVec.getLsbD_extractLsb', BitVec.getLsbD_append, hi, decide_true, Bool.true_and]
  interval_cases i <;> rfl

@[simp] theorem body_grp (c : BitVec 4) (f : BitVec 8) (b : Body) : field (encodeBody c f b) 38 2 = b.grp := by
  apply BitVec.eq_of_getLsbD_eq; intro i hi
  simp only [field, encodeBody, BitVec.getLsbD_extractLsb', BitVec.getLsbD_append, hi, decide_true, Bool.true_and]
  interval_cases i <;> rfl

@[simp] theorem body_ty (c : BitVec 4) (f : BitVec 8) (b : Body) : field (encodeBody c f b) 32 6 = b.ty := by
  apply BitVec.eq_of_getLsbD_eq; intro i hi
  simp only [field, encodeBody, BitVec.getLsbD_extractLsb', BitVec.getLsbD_append, hi, decide_true, Bool.true_and]
  interval_cases i <;> rfl

@[simp] theorem body_pol (c : BitVec 4) (f : BitVec 8) (b : Body) : field (encodeBody c f b) 31 1 = BitVec.ofBool b.pol := by
  apply BitVec.eq_of_getLsbD_eq; intro i hi
  simp only [field, encodeBody, BitVec.getLsbD_extractLsb', BitVec.getLsbD_append, hi, decide_true, Bool.true_and]
  interval_cases i <;> rfl

@[simp] theorem body_men (c : BitVec 4) (f : BitVec 8) (b : Body) : field (encodeBody c f b) 30 1 = BitVec.ofBool b.men := by
  apply BitVec.eq_of_getLsbD_eq; intro i hi
  simp only [field, encodeBody, BitVec.getLsbD_extractLsb', BitVec.getLsbD_append, hi, decide_true, Bool.true_and]
  interval_cases i <;> rfl

@[simp] theorem body_msk (c : BitVec 4) (f : BitVec 8) (b : Body) : field (encodeBody c f b) 27 3 = b.msk := by
  apply BitVec.eq_of_getLsbD_eq; intro i hi
  simp only [field, encodeBody, BitVec.getLsbD_extractLsb', BitVec.getLsbD_append, hi, decide_true, Bool.true_and]
  interval_cases i <;> rfl

@[simp] theorem body_vs3 (c : BitVec 4) (f : BitVec 8) (b : Body) : field (encodeBody c f b) 22 5 = b.vs3 := by
  apply BitVec.eq_of_getLsbD_eq; intro i hi
  simp only [field, encodeBody, BitVec.getLsbD_extractLsb', BitVec.getLsbD_append, hi, decide_true, Bool.true_and]
  interval_cases i <;> rfl

@[simp] theorem body_vs2 (c : BitVec 4) (f : BitVec 8) (b : Body) : field (encodeBody c f b) 17 5 = b.vs2 := by
  apply BitVec.eq_of_getLsbD_eq; intro i hi
  simp only [field, encodeBody, BitVec.getLsbD_extractLsb', BitVec.getLsbD_append, hi, decide_true, Bool.true_and]
  interval_cases i <;> rfl

@[simp] theorem body_vs1 (c : BitVec 4) (f : BitVec 8) (b : Body) : field (encodeBody c f b) 12 5 = b.vs1 := by
  apply BitVec.eq_of_getLsbD_eq; intro i hi
  simp only [field, encodeBody, BitVec.getLsbD_extractLsb', BitVec.getLsbD_append, hi, decide_true, Bool.true_and]
  interval_cases i <;> rfl

@[simp] theorem body_vd (c : BitVec 4) (f : BitVec 8) (b : Body) : field (encodeBody c f b) 7 5 = b.vd := by
  apply BitVec.eq_of_getLsbD_eq; intro i hi
  simp only [field, encodeBody, BitVec.getLsbD_extractLsb', BitVec.getLsbD_append, hi, decide_true, Bool.true_and]
  interval_cases i <;> rfl

/-- Whether a bit is 1. -/
@[simp] theorem ofBool_one (b : Bool) : decide (BitVec.ofBool b = 1#1) = b := by cases b <;> rfl

/-- The fields of a body are those it was encoded from. -/
theorem body_bodyOf (c : BitVec 4) (f : BitVec 8) (b : Body) : bodyOf (encodeBody c f b) = b := by
  cases b; simp [bodyOf]

/-- A body encodes the instruction whose code and fields it has. -/
theorem encodes_of_code {c : BitVec 4} {f : BitVec 8} {b : Body} {i : Instr} (h : memberCode i = some (c, f, b)) :
    encodesMember (encodeBody c f b) i = true := by
  simp [encodesMember, bodyOp, body_bodyOf, h]

/-- A FENCE that is neither PAUSE nor FENCE.TSO does not have their word. -/
theorem fence_ne (rd rs1 : Reg) (fm pred succ : BitVec 4) (h : Instr.wellFormed (.fence rd rs1 fm pred succ) = true) :
    encI (fm ++ pred ++ succ) rs1 0 rd 0x0F ≠ 0x0100000F#32 ∧ (fm ++ pred ++ succ : BitVec 12) ≠ 0x833#12 := by
  constructor
  · intro e
    have e1 := congrArg rdOf e
    have e2 := congrArg rs1Of e
    have e3 := congrArg (field · 28 4) e
    have e4 := congrArg (field · 24 4) e
    have e5 := congrArg (field · 20 4) e
    simp at e1 e2 e3 e4 e5
    subst_vars
    revert h; decide
  · intro e
    have e3 : fm = 8 := (fence_hi fm pred succ).symm.trans ((congrArg (field · 8 4) e).trans (by decide))
    have e4 : pred = 3 := (fence_mid fm pred succ).symm.trans ((congrArg (field · 4 4) e).trans (by decide))
    have e5 : succ = 3 := (fence_lo fm pred succ).symm.trans ((congrArg (field · 0 4) e).trans (by decide))
    subst e3 e4 e5
    simp [Instr.wellFormed] at h

end Sys2Proof

namespace Sys2Proof.Laws.Codec

/-- The word of a well-formed scalar instruction is no convoy header and decodes to it; the body of a vector instruction encodes it. -/
def Statement (i : Instr) : Prop :=
  (i.wellFormed = true → ∀ w, encodeScalar i = some w → field w 0 7 ≠ 0x2B#7 ∧ decodeWord w = .ok i)
    ∧ ∀ c f b, memberCode i = some (c, f, b) → encodesMember (encodeBody c f b) i = true

/-- A scalar instruction whose word decodes to it. -/
theorem Statement.scalar {i : Instr} {w : BitVec 32} (e : encodeScalar i = some w) (h : field w 0 7 ≠ 0x2B#7) (d : decodeWord w = .ok i) :
    Statement i :=
  ⟨fun _ v k => by cases e.symm.trans k; exact ⟨h, d⟩, fun _ _ _ k => encodes_of_code k⟩

/-- A vector instruction. -/
theorem Statement.member {i : Instr} {m : BitVec 4 × BitVec 8 × Body} (e : encodeScalar i = none) (_ : memberCode i = some m) : Statement i :=
  ⟨fun _ _ k => absurd (e.symm.trans k) nofun, fun _ _ _ k => encodes_of_code k⟩

/-- A row of the package, or a convoy. -/
theorem Statement.other {i : Instr} (e : encodeScalar i = none) (_ : memberCode i = none) : Statement i :=
  ⟨fun _ _ k => absurd (e.symm.trans k) nofun, fun _ _ _ k => encodes_of_code k⟩

theorem lui (rd : Reg) (imm : BitVec 20) : Statement (.lui rd imm) := Statement.scalar rfl (by simp) (by simp [decodeWord])
theorem auipc (rd : Reg) (imm : BitVec 20) : Statement (.auipc rd imm) := Statement.scalar rfl (by simp) (by simp [decodeWord])
theorem jal (rd : Reg) (imm : BitVec 20) : Statement (.jal rd imm) := Statement.scalar rfl (by simp) (by simp [decodeWord])
theorem jalr (rd rs1 : Reg) (imm : BitVec 12) : Statement (.jalr rd rs1 imm) := Statement.scalar rfl (by simp) (by simp [decodeWord])
theorem beq (rs1 rs2 : Reg) (imm : BitVec 12) : Statement (.beq rs1 rs2 imm) := Statement.scalar rfl (by simp) (by simp [decodeWord, decodeBranch])
theorem bne (rs1 rs2 : Reg) (imm : BitVec 12) : Statement (.bne rs1 rs2 imm) := Statement.scalar rfl (by simp) (by simp [decodeWord, decodeBranch])
theorem blt (rs1 rs2 : Reg) (imm : BitVec 12) : Statement (.blt rs1 rs2 imm) := Statement.scalar rfl (by simp) (by simp [decodeWord, decodeBranch])
theorem bge (rs1 rs2 : Reg) (imm : BitVec 12) : Statement (.bge rs1 rs2 imm) := Statement.scalar rfl (by simp) (by simp [decodeWord, decodeBranch])
theorem bltu (rs1 rs2 : Reg) (imm : BitVec 12) : Statement (.bltu rs1 rs2 imm) := Statement.scalar rfl (by simp) (by simp [decodeWord, decodeBranch])
theorem bgeu (rs1 rs2 : Reg) (imm : BitVec 12) : Statement (.bgeu rs1 rs2 imm) := Statement.scalar rfl (by simp) (by simp [decodeWord, decodeBranch])
theorem lb (rd rs1 : Reg) (imm : BitVec 12) : Statement (.lb rd rs1 imm) := Statement.scalar rfl (by simp) (by simp [decodeWord, decodeLoad])
theorem lh (rd rs1 : Reg) (imm : BitVec 12) : Statement (.lh rd rs1 imm) := Statement.scalar rfl (by simp) (by simp [decodeWord, decodeLoad])
theorem lw (rd rs1 : Reg) (imm : BitVec 12) : Statement (.lw rd rs1 imm) := Statement.scalar rfl (by simp) (by simp [decodeWord, decodeLoad])
theorem ld (rd rs1 : Reg) (imm : BitVec 12) : Statement (.ld rd rs1 imm) := Statement.scalar rfl (by simp) (by simp [decodeWord, decodeLoad])
theorem lbu (rd rs1 : Reg) (imm : BitVec 12) : Statement (.lbu rd rs1 imm) := Statement.scalar rfl (by simp) (by simp [decodeWord, decodeLoad])
theorem lhu (rd rs1 : Reg) (imm : BitVec 12) : Statement (.lhu rd rs1 imm) := Statement.scalar rfl (by simp) (by simp [decodeWord, decodeLoad])
theorem lwu (rd rs1 : Reg) (imm : BitVec 12) : Statement (.lwu rd rs1 imm) := Statement.scalar rfl (by simp) (by simp [decodeWord, decodeLoad])
theorem sb (rs1 rs2 : Reg) (imm : BitVec 12) : Statement (.sb rs1 rs2 imm) := Statement.scalar rfl (by simp) (by simp [decodeWord, decodeStore])
theorem sh (rs1 rs2 : Reg) (imm : BitVec 12) : Statement (.sh rs1 rs2 imm) := Statement.scalar rfl (by simp) (by simp [decodeWord, decodeStore])
theorem sw (rs1 rs2 : Reg) (imm : BitVec 12) : Statement (.sw rs1 rs2 imm) := Statement.scalar rfl (by simp) (by simp [decodeWord, decodeStore])
theorem sd (rs1 rs2 : Reg) (imm : BitVec 12) : Statement (.sd rs1 rs2 imm) := Statement.scalar rfl (by simp) (by simp [decodeWord, decodeStore])
theorem addi (rd rs1 : Reg) (imm : BitVec 12) : Statement (.addi rd rs1 imm) := Statement.scalar rfl (by simp) (by simp [decodeWord, decodeOpImm])
theorem slti (rd rs1 : Reg) (imm : BitVec 12) : Statement (.slti rd rs1 imm) := Statement.scalar rfl (by simp) (by simp [decodeWord, decodeOpImm])
theorem sltiu (rd rs1 : Reg) (imm : BitVec 12) : Statement (.sltiu rd rs1 imm) := Statement.scalar rfl (by simp) (by simp [decodeWord, decodeOpImm])
theorem xori (rd rs1 : Reg) (imm : BitVec 12) : Statement (.xori rd rs1 imm) := Statement.scalar rfl (by simp) (by simp [decodeWord, decodeOpImm])
theorem ori (rd rs1 : Reg) (imm : BitVec 12) : Statement (.ori rd rs1 imm) := Statement.scalar rfl (by simp) (by simp [decodeWord, decodeOpImm])
theorem andi (rd rs1 : Reg) (imm : BitVec 12) : Statement (.andi rd rs1 imm) := Statement.scalar rfl (by simp) (by simp [decodeWord, decodeOpImm])
theorem slli (rd rs1 : Reg) (sh : BitVec 6) : Statement (.slli rd rs1 sh) := Statement.scalar rfl (by simp) (by simp [decodeWord, decodeOpImm])
theorem srli (rd rs1 : Reg) (sh : BitVec 6) : Statement (.srli rd rs1 sh) := Statement.scalar rfl (by simp) (by simp [decodeWord, decodeOpImm])
theorem srai (rd rs1 : Reg) (sh : BitVec 6) : Statement (.srai rd rs1 sh) := Statement.scalar rfl (by simp) (by simp [decodeWord, decodeOpImm])
theorem addiw (rd rs1 : Reg) (imm : BitVec 12) : Statement (.addiw rd rs1 imm) := Statement.scalar rfl (by simp) (by simp [decodeWord, decodeOpImm32])
theorem slliw (rd rs1 : Reg) (sh : BitVec 5) : Statement (.slliw rd rs1 sh) := Statement.scalar rfl (by simp) (by simp [decodeWord, decodeOpImm32])
theorem srliw (rd rs1 : Reg) (sh : BitVec 5) : Statement (.srliw rd rs1 sh) := Statement.scalar rfl (by simp) (by simp [decodeWord, decodeOpImm32])
theorem sraiw (rd rs1 : Reg) (sh : BitVec 5) : Statement (.sraiw rd rs1 sh) := Statement.scalar rfl (by simp) (by simp [decodeWord, decodeOpImm32])
theorem add (rd rs1 rs2 : Reg) : Statement (.add rd rs1 rs2) := Statement.scalar rfl (by simp) (by simp [decodeWord, decodeOp])
theorem sub (rd rs1 rs2 : Reg) : Statement (.sub rd rs1 rs2) := Statement.scalar rfl (by simp) (by simp [decodeWord, decodeOp])
theorem sll (rd rs1 rs2 : Reg) : Statement (.sll rd rs1 rs2) := Statement.scalar rfl (by simp) (by simp [decodeWord, decodeOp])
theorem slt (rd rs1 rs2 : Reg) : Statement (.slt rd rs1 rs2) := Statement.scalar rfl (by simp) (by simp [decodeWord, decodeOp])
theorem sltu (rd rs1 rs2 : Reg) : Statement (.sltu rd rs1 rs2) := Statement.scalar rfl (by simp) (by simp [decodeWord, decodeOp])
theorem xorr (rd rs1 rs2 : Reg) : Statement (.xorr rd rs1 rs2) := Statement.scalar rfl (by simp) (by simp [decodeWord, decodeOp])
theorem srl (rd rs1 rs2 : Reg) : Statement (.srl rd rs1 rs2) := Statement.scalar rfl (by simp) (by simp [decodeWord, decodeOp])
theorem sra (rd rs1 rs2 : Reg) : Statement (.sra rd rs1 rs2) := Statement.scalar rfl (by simp) (by simp [decodeWord, decodeOp])
theorem orr (rd rs1 rs2 : Reg) : Statement (.orr rd rs1 rs2) := Statement.scalar rfl (by simp) (by simp [decodeWord, decodeOp])
theorem andd (rd rs1 rs2 : Reg) : Statement (.andd rd rs1 rs2) := Statement.scalar rfl (by simp) (by simp [decodeWord, decodeOp])
theorem mul (rd rs1 rs2 : Reg) : Statement (.mul rd rs1 rs2) := Statement.scalar rfl (by simp) (by simp [decodeWord, decodeOp])
theorem mulh (rd rs1 rs2 : Reg) : Statement (.mulh rd rs1 rs2) := Statement.scalar rfl (by simp) (by simp [decodeWord, decodeOp])
theorem mulhsu (rd rs1 rs2 : Reg) : Statement (.mulhsu rd rs1 rs2) := Statement.scalar rfl (by simp) (by simp [decodeWord, decodeOp])
theorem mulhu (rd rs1 rs2 : Reg) : Statement (.mulhu rd rs1 rs2) := Statement.scalar rfl (by simp) (by simp [decodeWord, decodeOp])
theorem div (rd rs1 rs2 : Reg) : Statement (.div rd rs1 rs2) := Statement.scalar rfl (by simp) (by simp [decodeWord, decodeOp])
theorem divu (rd rs1 rs2 : Reg) : Statement (.divu rd rs1 rs2) := Statement.scalar rfl (by simp) (by simp [decodeWord, decodeOp])
theorem rem (rd rs1 rs2 : Reg) : Statement (.rem rd rs1 rs2) := Statement.scalar rfl (by simp) (by simp [decodeWord, decodeOp])
theorem remu (rd rs1 rs2 : Reg) : Statement (.remu rd rs1 rs2) := Statement.scalar rfl (by simp) (by simp [decodeWord, decodeOp])
theorem addw (rd rs1 rs2 : Reg) : Statement (.addw rd rs1 rs2) := Statement.scalar rfl (by simp) (by simp [decodeWord, decodeOp32])
theorem subw (rd rs1 rs2 : Reg) : Statement (.subw rd rs1 rs2) := Statement.scalar rfl (by simp) (by simp [decodeWord, decodeOp32])
theorem sllw (rd rs1 rs2 : Reg) : Statement (.sllw rd rs1 rs2) := Statement.scalar rfl (by simp) (by simp [decodeWord, decodeOp32])
theorem srlw (rd rs1 rs2 : Reg) : Statement (.srlw rd rs1 rs2) := Statement.scalar rfl (by simp) (by simp [decodeWord, decodeOp32])
theorem sraw (rd rs1 rs2 : Reg) : Statement (.sraw rd rs1 rs2) := Statement.scalar rfl (by simp) (by simp [decodeWord, decodeOp32])
theorem mulw (rd rs1 rs2 : Reg) : Statement (.mulw rd rs1 rs2) := Statement.scalar rfl (by simp) (by simp [decodeWord, decodeOp32])
theorem divw (rd rs1 rs2 : Reg) : Statement (.divw rd rs1 rs2) := Statement.scalar rfl (by simp) (by simp [decodeWord, decodeOp32])
theorem divuw (rd rs1 rs2 : Reg) : Statement (.divuw rd rs1 rs2) := Statement.scalar rfl (by simp) (by simp [decodeWord, decodeOp32])
theorem remw (rd rs1 rs2 : Reg) : Statement (.remw rd rs1 rs2) := Statement.scalar rfl (by simp) (by simp [decodeWord, decodeOp32])
theorem remuw (rd rs1 rs2 : Reg) : Statement (.remuw rd rs1 rs2) := Statement.scalar rfl (by simp) (by simp [decodeWord, decodeOp32])
theorem lr (rd rs1 : Reg) (a : AmoBits) : Statement (.lr rd rs1 a) := by
  obtain ⟨d, q, l⟩ := a
  refine Statement.scalar rfl (by simp) ?_
  cases d <;> cases q <;> cases l <;> simp [decodeWord, decodeAmo, decodeAmoOp]
theorem sc (rd rs1 rs2 : Reg) (a : AmoBits) : Statement (.sc rd rs1 rs2 a) := by
  obtain ⟨d, q, l⟩ := a
  refine Statement.scalar rfl (by simp) ?_
  cases d <;> cases q <;> cases l <;> simp [decodeWord, decodeAmo, decodeAmoOp]
theorem amoswap (rd rs1 rs2 : Reg) (a : AmoBits) : Statement (.amoswap rd rs1 rs2 a) := by
  obtain ⟨d, q, l⟩ := a
  refine Statement.scalar rfl (by simp) ?_
  cases d <;> cases q <;> cases l <;> simp [decodeWord, decodeAmo, decodeAmoOp]
theorem amoadd (rd rs1 rs2 : Reg) (a : AmoBits) : Statement (.amoadd rd rs1 rs2 a) := by
  obtain ⟨d, q, l⟩ := a
  refine Statement.scalar rfl (by simp) ?_
  cases d <;> cases q <;> cases l <;> simp [decodeWord, decodeAmo, decodeAmoOp]
theorem amoxor (rd rs1 rs2 : Reg) (a : AmoBits) : Statement (.amoxor rd rs1 rs2 a) := by
  obtain ⟨d, q, l⟩ := a
  refine Statement.scalar rfl (by simp) ?_
  cases d <;> cases q <;> cases l <;> simp [decodeWord, decodeAmo, decodeAmoOp]
theorem amoand (rd rs1 rs2 : Reg) (a : AmoBits) : Statement (.amoand rd rs1 rs2 a) := by
  obtain ⟨d, q, l⟩ := a
  refine Statement.scalar rfl (by simp) ?_
  cases d <;> cases q <;> cases l <;> simp [decodeWord, decodeAmo, decodeAmoOp]
theorem amoor (rd rs1 rs2 : Reg) (a : AmoBits) : Statement (.amoor rd rs1 rs2 a) := by
  obtain ⟨d, q, l⟩ := a
  refine Statement.scalar rfl (by simp) ?_
  cases d <;> cases q <;> cases l <;> simp [decodeWord, decodeAmo, decodeAmoOp]
theorem amomin (rd rs1 rs2 : Reg) (a : AmoBits) : Statement (.amomin rd rs1 rs2 a) := by
  obtain ⟨d, q, l⟩ := a
  refine Statement.scalar rfl (by simp) ?_
  cases d <;> cases q <;> cases l <;> simp [decodeWord, decodeAmo, decodeAmoOp]
theorem amomax (rd rs1 rs2 : Reg) (a : AmoBits) : Statement (.amomax rd rs1 rs2 a) := by
  obtain ⟨d, q, l⟩ := a
  refine Statement.scalar rfl (by simp) ?_
  cases d <;> cases q <;> cases l <;> simp [decodeWord, decodeAmo, decodeAmoOp]
theorem amominu (rd rs1 rs2 : Reg) (a : AmoBits) : Statement (.amominu rd rs1 rs2 a) := by
  obtain ⟨d, q, l⟩ := a
  refine Statement.scalar rfl (by simp) ?_
  cases d <;> cases q <;> cases l <;> simp [decodeWord, decodeAmo, decodeAmoOp]
theorem amomaxu (rd rs1 rs2 : Reg) (a : AmoBits) : Statement (.amomaxu rd rs1 rs2 a) := by
  obtain ⟨d, q, l⟩ := a
  refine Statement.scalar rfl (by simp) ?_
  cases d <;> cases q <;> cases l <;> simp [decodeWord, decodeAmo, decodeAmoOp]
theorem fence (rd rs1 : Reg) (fm pred succ : BitVec 4) : Statement (.fence rd rs1 fm pred succ) := by
  refine ⟨fun h w e => ?_, nofun⟩
  cases e
  have k := fence_ne rd rs1 fm pred succ h
  exact ⟨by simp, by simpa [decodeWord, decodeMiscMem, k.2] using k.1⟩
theorem fenceTso (rd rs1 : Reg) : Statement (.fenceTso rd rs1) := Statement.scalar rfl (by simp) (by
  have k : encI 0x833 rs1 0 rd 0x0F ≠ 0x0100000F#32 := fun e => absurd (congrArg (field · 28 4) e) (by simp; decide)
  simpa [decodeWord, decodeMiscMem] using k)
theorem pause : Statement .pause := Statement.scalar rfl (by decide) (by decide)
theorem fenceI (rd rs1 : Reg) (imm : BitVec 12) : Statement (.fenceI rd rs1 imm) := Statement.scalar rfl (by simp) (by simp [decodeWord, decodeMiscMem])
theorem ecall : Statement .ecall := Statement.scalar rfl (by decide) (by decide)
theorem ebreak : Statement .ebreak := Statement.scalar rfl (by decide) (by decide)
theorem csrrw (rd rs1 : Reg) (csr : BitVec 12) : Statement (.csrrw rd rs1 csr) := Statement.scalar rfl (by simp) (by simp [decodeWord, decodeSystem])
theorem csrrs (rd rs1 : Reg) (csr : BitVec 12) : Statement (.csrrs rd rs1 csr) := Statement.scalar rfl (by simp) (by simp [decodeWord, decodeSystem])
theorem csrrc (rd rs1 : Reg) (csr : BitVec 12) : Statement (.csrrc rd rs1 csr) := Statement.scalar rfl (by simp) (by simp [decodeWord, decodeSystem])
theorem csrrwi (rd : Reg) (imm : BitVec 5) (csr : BitVec 12) : Statement (.csrrwi rd imm csr) := Statement.scalar rfl (by simp) (by simp [decodeWord, decodeSystem])
theorem csrrsi (rd : Reg) (imm : BitVec 5) (csr : BitVec 12) : Statement (.csrrsi rd imm csr) := Statement.scalar rfl (by simp) (by simp [decodeWord, decodeSystem])
theorem csrrci (rd : Reg) (imm : BitVec 5) (csr : BitVec 12) : Statement (.csrrci rd imm csr) := Statement.scalar rfl (by simp) (by simp [decodeWord, decodeSystem])
theorem vsetvl (rd rs1 : Reg) (eew : BitVec 3) (grp : BitVec 2) : Statement (.vsetvl rd rs1 eew grp) := Statement.scalar rfl (by simp) (by simp [decodeWord, decodeGalmus, okIf])
theorem vsetvlB (rd rs1 : Reg) (eew : BitVec 3) (grp : BitVec 2) : Statement (.vsetvlB rd rs1 eew grp) := Statement.scalar rfl (by simp) (by simp [decodeWord, decodeGalmus, okIf])
theorem vsetshape (rd rs1 rs2 : Reg) (eew : BitVec 3) (grp : BitVec 2) : Statement (.vsetshape rd rs1 rs2 eew grp) := Statement.scalar rfl (by simp) (by simp [decodeWord, decodeGalmus])
theorem vsetshapeB (rd rs1 rs2 : Reg) (eew : BitVec 3) (grp : BitVec 2) : Statement (.vsetshapeB rd rs1 rs2 eew grp) := Statement.scalar rfl (by simp) (by simp [decodeWord, decodeGalmus])
theorem tshape (rd rs1 rs2 : Reg) : Statement (.tshape rd rs1 rs2) := Statement.scalar rfl (by simp) (by simp [decodeWord, decodeGalmus])
theorem tfree (rs1 : Reg) : Statement (.tfree rs1) := Statement.scalar rfl (by simp) (by simp [decodeWord, decodeGalmus, okIf])
theorem ctload (rd rs1 rs2 : Reg) : Statement (.ctload rd rs1 rs2) := Statement.scalar rfl (by simp) (by simp [decodeWord, decodeGalmus])
theorem tqpush (rd rs1 rs2 : Reg) : Statement (.tqpush rd rs1 rs2) := Statement.scalar rfl (by simp) (by simp [decodeWord, decodeGalmus])
theorem tqpushP (rd rs1 rs2 : Reg) : Statement (.tqpushP rd rs1 rs2) := Statement.scalar rfl (by simp) (by simp [decodeWord, decodeGalmus])
theorem texit : Statement .texit := Statement.scalar rfl (by simp) (by simp [decodeWord, decodeGalmus, okIf])
theorem gbar : Statement .gbar := Statement.scalar rfl (by simp) (by simp [decodeWord, decodeGalmus, okIf])
theorem tyield : Statement .tyield := Statement.scalar rfl (by simp) (by simp [decodeWord, decodeGalmus, okIf])
theorem xcall (rd rs1 rs2 : Reg) : Statement (.xcall rd rs1 rs2) := Statement.scalar rfl (by simp) (by simp [decodeWord, decodeGalmus])
theorem fenceScoped (rd : Reg) (scope : BitVec 3) : Statement (.fenceScoped rd scope) := by
  refine ⟨fun h w e => ?_, nofun⟩
  cases e
  have k : ¬ 6 ≤ scope.toNat := by simpa [Instr.wellFormed] using h
  exact ⟨by simp, by simp [decodeWord, decodeGalmus, decodeSync, okIf, k]⟩
theorem fenceAcq (scope : BitVec 3) : Statement (.fenceAcq scope) := by
  refine ⟨fun h w e => ?_, nofun⟩
  cases e
  have k : ¬ 6 ≤ scope.toNat := by simpa [Instr.wellFormed] using h
  exact ⟨by simp, by simp [decodeWord, decodeGalmus, decodeSync, okIf, k]⟩
theorem fenceRel (rd : Reg) (scope : BitVec 3) : Statement (.fenceRel rd scope) := by
  refine ⟨fun h w e => ?_, nofun⟩
  cases e
  have k : ¬ 6 ≤ scope.toNat := by simpa [Instr.wellFormed] using h
  exact ⟨by simp, by simp [decodeWord, decodeGalmus, decodeSync, okIf, k]⟩
theorem viswait (rs1 : Reg) : Statement (.viswait rs1) := Statement.scalar rfl (by simp) (by simp [decodeWord, decodeGalmus, decodeSync, okIf])
theorem tkget (rd rs1 : Reg) : Statement (.tkget rd rs1) := Statement.scalar rfl (by simp) (by simp [decodeWord, decodeGalmus, decodeSync, okIf])
theorem tkwait (rs1 rs2 : Reg) : Statement (.tkwait rs1 rs2) := Statement.scalar rfl (by simp) (by simp [decodeWord, decodeGalmus, decodeSync, okIf])
theorem tkdone (rs1 : Reg) : Statement (.tkdone rs1) := Statement.scalar rfl (by simp) (by simp [decodeWord, decodeGalmus, decodeSync, okIf])
theorem stv (rd rs1 rs2 : Reg) : Statement (.stv rd rs1 rs2) := Statement.scalar rfl (by simp) (by simp [decodeWord, decodeGalmus, decodeSync, okIf])
theorem sxfer (rd rs1 rs2 : Reg) : Statement (.sxfer rd rs1 rs2) := Statement.scalar rfl (by simp) (by simp [decodeWord, decodeGalmus])
theorem sort (rd rs1 rs2 : Reg) : Statement (.sort rd rs1 rs2) := Statement.scalar rfl (by simp) (by simp [decodeWord, decodeGalmus])
theorem estat (rd rs1 : Reg) : Statement (.estat rd rs1) := Statement.scalar rfl (by simp) (by simp [decodeWord, decodeGalmus, okIf])
theorem ecancel (rd rs1 : Reg) : Statement (.ecancel rd rs1) := Statement.scalar rfl (by simp) (by simp [decodeWord, decodeGalmus, okIf])
theorem tret : Statement .tret := Statement.scalar rfl (by simp) (by simp [decodeWord, decodeGalmus, okIf])
theorem hwait (rd rs1 rs2 : Reg) : Statement (.hwait rd rs1 rs2) := Statement.scalar rfl (by simp) (by simp [decodeWord, decodeGalmus])
theorem sfenceT (rs1 rs2 : Reg) : Statement (.sfenceT rs1 rs2) := Statement.scalar rfl (by simp) (by simp [decodeWord, decodeGalmus, okIf])
theorem uiret : Statement .uiret := Statement.scalar rfl (by simp) (by simp [decodeWord, decodeGalmus, okIf])
theorem ctrig (rs1 : Reg) : Statement (.ctrig rs1) := Statement.scalar rfl (by simp) (by simp [decodeWord, decodeGalmus, okIf])
theorem tmark (rs1 : Reg) : Statement (.tmark rs1) := Statement.scalar rfl (by simp) (by simp [decodeWord, decodeGalmus, okIf])
theorem illegalInstruction (w : BitVec 32) : Statement (.illegalInstruction w) := Statement.other rfl rfl
theorem convoy (hdr : BitVec 32) (bodies : List Word) : Statement (.convoy hdr bodies) := Statement.other rfl rfl
theorem boot (trainOk linksOk : Bool) : Statement (.boot trainOk linksOk) := Statement.other rfl rfl
theorem convoyIssue (h : HartRef) : Statement (.convoyIssue h) := Statement.other rfl rfl
theorem convoyDrain (h : HartRef) : Statement (.convoyDrain h) := Statement.other rfl rfl
theorem userInterruptEntry (h : HartRef) : Statement (.userInterruptEntry h) := Statement.other rfl rfl
theorem hartSave (h : HartRef) : Statement (.hartSave h) := Statement.other rfl rfl
theorem stripClose (h : HartRef) : Statement (.stripClose h) := Statement.other rfl rfl
theorem tkwaitGrant (h : HartRef) : Statement (.tkwaitGrant h) := Statement.other rfl rfl
theorem hwaitWake (h : HartRef) : Statement (.hwaitWake h) := Statement.other rfl rfl
theorem gbarComplete (g : BitVec 16) : Statement (.gbarComplete g) := Statement.other rfl rfl
theorem fenceWaitEnd (h : HartRef) : Statement (.fenceWaitEnd h) := Statement.other rfl rfl
theorem systemFenceTimeout (h : HartRef) : Statement (.systemFenceTimeout h) := Statement.other rfl rfl
theorem viswaitEnd (h : HartRef) : Statement (.viswaitEnd h) := Statement.other rfl rfl
theorem stvReply (h : HartRef) : Statement (.stvReply h) := Statement.other rfl rfl
theorem vlbRebind (h : HartRef) : Statement (.vlbRebind h) := Statement.other rfl rfl
theorem tellerPlacement (cl : BitVec 5) : Statement (.tellerPlacement cl) := Statement.other rfl rfl
theorem handlerRecheck (cl : BitVec 5) : Statement (.handlerRecheck cl) := Statement.other rfl rfl
theorem preemptionRequest (cl : BitVec 5) : Statement (.preemptionRequest cl) := Statement.other rfl rfl
theorem gangResume (g : BitVec 16) (cl : BitVec 5) : Statement (.gangResume g cl) := Statement.other rfl rfl
theorem pendingStopComplete (c : BitVec 8) : Statement (.pendingStopComplete c) := Statement.other rfl rfl
theorem contextResetComplete (c : BitVec 8) : Statement (.contextResetComplete c) := Statement.other rfl rfl
theorem tlbInvalidationComplete (c : BitVec 8) : Statement (.tlbInvalidationComplete c) := Statement.other rfl rfl
theorem pageWalk (die : BitVec 2) : Statement (.pageWalk die) := Statement.other rfl rfl
theorem xcallPacketSend (core : BitVec 8) (entry : BitVec 6) : Statement (.xcallPacketSend core entry) := Statement.other rfl rfl
theorem pushReleaseComplete (h : HartRef) : Statement (.pushReleaseComplete h) := Statement.other rfl rfl
theorem releasedRecordAppend (qid : BitVec 16) : Statement (.releasedRecordAppend qid) := Statement.other rfl rfl
theorem joinDecrement : Statement .joinDecrement := Statement.other rfl rfl
theorem taskEndReport : Statement .taskEndReport := Statement.other rfl rfl
theorem tosComplete (cl : BitVec 5) : Statement (.tosComplete cl) := Statement.other rfl rfl
theorem transferStart (cl : BitVec 5) : Statement (.transferStart cl) := Statement.other rfl rfl
theorem sortStart (die : BitVec 2) : Statement (.sortStart die) := Statement.other rfl rfl
theorem transferDone (cl : BitVec 5) (x : Nat) : Statement (.transferDone cl x) := Statement.other rfl rfl
theorem sortDone (die : BitVec 2) : Statement (.sortDone die) := Statement.other rfl rfl
theorem auditEntryProcess (cl : BitVec 5) : Statement (.auditEntryProcess cl) := Statement.other rfl rfl
theorem dumpStart : Statement .dumpStart := Statement.other rfl rfl
theorem dumpComplete : Statement .dumpComplete := Statement.other rfl rfl
theorem stagingComplete : Statement .stagingComplete := Statement.other rfl rfl
theorem insertionSend : Statement .insertionSend := Statement.other rfl rfl
theorem peerLWriteAck : Statement .peerLWriteAck := Statement.other rfl rfl
theorem lWritePerform (line : Nat) : Statement (.lWritePerform line) := Statement.other rfl rfl
theorem counterLatch : Statement .counterLatch := Statement.other rfl rfl
theorem purseRefill (core : BitVec 8) : Statement (.purseRefill core) := Statement.other rfl rfl
theorem stepComplete (core : BitVec 8) : Statement (.stepComplete core) := Statement.other rfl rfl
theorem powerOnReset : Statement .powerOnReset := Statement.other rfl rfl
theorem perstAssert : Statement .perstAssert := Statement.other rfl rfl
theorem bootctlPkrst : Statement .bootctlPkrst := Statement.other rfl rfl
theorem bootctlStage : Statement .bootctlStage := Statement.other rfl rfl
theorem mailboxWrite (off : BitVec 16) (half : Half) (data : Word) : Statement (.mailboxWrite off half data) := Statement.other rfl rfl
theorem bootctlMaint : Statement .bootctlMaint := Statement.other rfl rfl
theorem maintClusterMeasure (cl : BitVec 5) (num den : Nat) : Statement (.maintClusterMeasure cl num den) := Statement.other rfl rfl
theorem maintClusterTimeout (cl : BitVec 5) : Statement (.maintClusterTimeout cl) := Statement.other rfl rfl
theorem thermctlWrite (half : Half) (data : Word) : Statement (.thermctlWrite half data) := Statement.other rfl rfl
theorem throttleStep (tj : BitVec 8) (watts : Nat) : Statement (.throttleStep tj watts) := Statement.other rfl rfl
theorem thermalTrip (cl : BitVec 5) (sensor : Bool) (tj : BitVec 8) : Statement (.thermalTrip cl sensor tj) := Statement.other rfl rfl
theorem uncorrectableStateError : Statement .uncorrectableStateError := Statement.other rfl rfl
theorem patrolScrub (pa : Nat) : Statement (.patrolScrub pa) := Statement.other rfl rfl
theorem dieLinkReplay (repair : Bool) : Statement (.dieLinkReplay repair) := Statement.other rfl rfl
theorem dieLinkFailure : Statement .dieLinkFailure := Statement.other rfl rfl
theorem getVersion : Statement .getVersion := Statement.other rfl rfl
theorem getCapabilities : Statement .getCapabilities := Statement.other rfl rfl
theorem negotiateAlgorithms (rsa3072 sha384 : Bool) : Statement (.negotiateAlgorithms rsa3072 sha384) := Statement.other rfl rfl
theorem getDigests : Statement .getDigests := Statement.other rfl rfl
theorem getCertificate (slot : BitVec 3) (off len : BitVec 16) : Statement (.getCertificate slot off len) := Statement.other rfl rfl
theorem challenge (slot : BitVec 3) (nonce : Nat) : Statement (.challenge slot nonce) := Statement.other rfl rfl
theorem getMeasurements (index : BitVec 8) (nonce : Nat) : Statement (.getMeasurements index nonce) := Statement.other rfl rfl
theorem spdmUnsupportedRequest (code : BitVec 8) : Statement (.spdmUnsupportedRequest code) := Statement.other rfl rfl
theorem codewordReceive (port : BitVec 4) (fec : Fec) (f0 f1 f2 f3 : Flit) : Statement (.codewordReceive port fec f0 f1 f2 f3) := Statement.other rfl rfl
theorem nakReceived (port : BitVec 4) (ack : BitVec 12) : Statement (.nakReceived port ack) := Statement.other rfl rfl
theorem creditFlitReceived (port : BitVec 4) (incs : BitVec 112) : Statement (.creditFlitReceived port incs) := Statement.other rfl rfl
theorem creditReturn (port : BitVec 4) : Statement (.creditReturn port) := Statement.other rfl rfl
theorem flitTransmit (port : BitVec 4) : Statement (.flitTransmit port) := Statement.other rfl rfl
theorem packetForward (p : Packet) : Statement (.packetForward p) := Statement.other rfl rfl
theorem timeStampExchange (port : BitVec 4) : Statement (.timeStampExchange port) := Statement.other rfl rfl
theorem timeStampRequest (p : Packet) : Statement (.timeStampRequest p) := Statement.other rfl rfl
theorem timeStampResponse (p : Packet) : Statement (.timeStampResponse p) := Statement.other rfl rfl
theorem linkDetectComplete (port : BitVec 4) (lanes : BitVec 8) : Statement (.linkDetectComplete port lanes) := Statement.other rfl rfl
theorem trainSuccess (port : BitVec 4) : Statement (.trainSuccess port) := Statement.other rfl rfl
theorem trainTimeout (port : BitVec 4) : Statement (.trainTimeout port) := Statement.other rfl rfl
theorem alignLock (port : BitVec 4) : Statement (.alignLock port) := Statement.other rfl rfl
theorem alignTimeout (port : BitVec 4) : Statement (.alignTimeout port) := Statement.other rfl rfl
theorem paramExchange (port : BitVec 4) (peer : BitVec 12) (sizes : BitVec 112) : Statement (.paramExchange port peer sizes) := Statement.other rfl rfl
theorem retrainEntry (port : BitVec 4) : Statement (.retrainEntry port) := Statement.other rfl rfl
theorem retrainDone (port : BitVec 4) (lanes : BitVec 8) : Statement (.retrainDone port lanes) := Statement.other rfl rfl
theorem linkRecoveryLimitExpiry (port : BitVec 4) : Statement (.linkRecoveryLimitExpiry port) := Statement.other rfl rfl
theorem requestTimeout (tag : BitVec 10) : Statement (.requestTimeout tag) := Statement.other rfl rfl
theorem fabctlDevidWrite (id : BitVec 12) : Statement (.fabctlDevidWrite id) := Statement.other rfl rfl
theorem fabctlLnkenWrite (en : BitVec 16) : Statement (.fabctlLnkenWrite en) := Statement.other rfl rfl
theorem nbcmdRead (v : Word) : Statement (.nbcmdRead v) := Statement.other rfl rfl
theorem nbcmdWrite (v : Word) : Statement (.nbcmdWrite v) := Statement.other rfl rfl
theorem nbcmdAnswer (p : Packet) : Statement (.nbcmdAnswer p) := Statement.other rfl rfl
theorem nbcmdTimeout : Statement .nbcmdTimeout := Statement.other rfl rfl
theorem rtaccSet (v : Word) : Statement (.rtaccSet v) := Statement.other rfl rfl
theorem registerWrite (t : RegBlock) (off : BitVec 16) (half : Half) (data : Word) : Statement (.registerWrite t off half data) := Statement.other rfl rfl
theorem mgtRegisterRead (p : Packet) : Statement (.mgtRegisterRead p) := Statement.other rfl rfl
theorem mgtRegisterWrite (p : Packet) : Statement (.mgtRegisterWrite p) := Statement.other rfl rfl
theorem mgtRegisterData (p : Packet) : Statement (.mgtRegisterData p) := Statement.other rfl rfl
theorem mgtAcknowledge (p : Packet) : Statement (.mgtAcknowledge p) := Statement.other rfl rfl
theorem mgtLinkEvent (p : Packet) : Statement (.mgtLinkEvent p) := Statement.other rfl rfl
theorem slotManagementAccess (slot : BitVec 4) (block : RegBlock) (off : BitVec 16) (half : Half) (wr : Option Word) : Statement (.slotManagementAccess slot block off half wr) := Statement.other rfl rfl
theorem memoryWindowRead (off : BitVec 15) (half : Half) : Statement (.memoryWindowRead off half) := Statement.other rfl rfl
theorem memoryWindowWrite (off : BitVec 15) (half : Half) (data : Word) : Statement (.memoryWindowWrite off half data) := Statement.other rfl rfl
theorem cxlMemAccess (pa : Nat) (wr : Option (List Byte)) (len : Nat) : Statement (.cxlMemAccess pa wr len) := Statement.other rfl rfl
theorem hostInsertion (slot : BitVec 4) (queue : BitVec 16) (off : BitVec 12) (whole : Bool) (rec : TaskRec) : Statement (.hostInsertion slot queue off whole rec) := Statement.other rfl rfl
theorem queueInsertionArrival (p : Packet) : Statement (.queueInsertionArrival p) := Statement.other rfl rfl
theorem insertionReport (p : Packet) : Statement (.insertionReport p) := Statement.other rfl rfl
theorem insertionStatusRead (slot : BitVec 4) (queue : BitVec 16) (off : BitVec 12) (half : Half) : Statement (.insertionStatusRead slot queue off half) := Statement.other rfl rfl
theorem hostRead (p : Packet) : Statement (.hostRead p) := Statement.other rfl rfl
theorem hostReadData (p : Packet) : Statement (.hostReadData p) := Statement.other rfl rfl
theorem hostWrite (p : Packet) : Statement (.hostWrite p) := Statement.other rfl rfl
theorem hostWriteAck (p : Packet) : Statement (.hostWriteAck p) := Statement.other rfl rfl
theorem hostErrorResponse (p : Packet) : Statement (.hostErrorResponse p) := Statement.other rfl rfl
theorem ctxctlAllocSet (c : BitVec 8) : Statement (.ctxctlAllocSet c) := Statement.other rfl rfl
theorem ctxctlAllocClear (c : BitVec 8) : Statement (.ctxctlAllocClear c) := Statement.other rfl rfl
theorem ctxctlRunSet (c : BitVec 8) : Statement (.ctxctlRunSet c) := Statement.other rfl rfl
theorem ctxctlRunClear (c : BitVec 8) : Statement (.ctxctlRunClear c) := Statement.other rfl rfl
theorem ctxctlRst (c : BitVec 8) : Statement (.ctxctlRst c) := Statement.other rfl rfl
theorem tlbinvWrite (c : BitVec 8) (v : Word) : Statement (.tlbinvWrite c v) := Statement.other rfl rfl
theorem translationMiss (die : BitVec 2) (c : BitVec 8) (va : Word) : Statement (.translationMiss die c va) := Statement.other rfl rfl
theorem invocationCall (p : Packet) : Statement (.invocationCall p) := Statement.other rfl rfl
theorem arrivalReport (p : Packet) : Statement (.arrivalReport p) := Statement.other rfl rfl
theorem endReport (p : Packet) : Statement (.endReport p) := Statement.other rfl rfl
theorem callLost (core : BitVec 8) (entry : BitVec 6) : Statement (.callLost core entry) := Statement.other rfl rfl
theorem qcmdCreate (qid : BitVec 16) : Statement (.qcmdCreate qid) := Statement.other rfl rfl
theorem qcmdModify (qid : BitVec 16) : Statement (.qcmdModify qid) := Statement.other rfl rfl
theorem qcmdDelete (qid : BitVec 16) : Statement (.qcmdDelete qid) := Statement.other rfl rfl
theorem qcmdRead (qid : BitVec 16) : Statement (.qcmdRead qid) := Statement.other rfl rfl
theorem bkcmdToc (i : BankIssuer) (v : Word) : Statement (.bkcmdToc i v) := Statement.other rfl rfl
theorem bkcmdTos (i : BankIssuer) (v : Word) : Statement (.bkcmdTos i v) := Statement.other rfl rfl
theorem bkcmdHold (i : BankIssuer) (v : Word) : Statement (.bkcmdHold i v) := Statement.other rfl rfl
theorem bkcmdRelease (i : BankIssuer) (v : Word) : Statement (.bkcmdRelease i v) := Statement.other rfl rfl
theorem bkcmdSetf (i : BankIssuer) (v : Word) : Statement (.bkcmdSetf i v) := Statement.other rfl rfl
theorem bkcmdSets (i : BankIssuer) (v : Word) : Statement (.bkcmdSets i v) := Statement.other rfl rfl
theorem bkcmdRead (i : BankIssuer) (v : Word) : Statement (.bkcmdRead i v) := Statement.other rfl rfl
theorem engineFifoAppend (cl : BitVec 5) (x : Nat) : Statement (.engineFifoAppend cl x) := Statement.other rfl rfl
theorem chainedLoadElement (h : HartRef) : Statement (.chainedLoadElement h) := Statement.other rfl rfl
theorem sauOperation (o : SauOp) : Statement (.sauOperation o) := Statement.other rfl rfl
theorem sauChainApply (line : Nat) : Statement (.sauChainApply line) := Statement.other rfl rfl
theorem ownershipRequest (core : BitVec 8) (line : Nat) : Statement (.ownershipRequest core line) := Statement.other rfl rfl
theorem invalidation (core : BitVec 8) (line : Nat) (seq : BitVec 8) : Statement (.invalidation core line seq) := Statement.other rfl rfl
theorem lineFill (core : BitVec 8) (line : Nat) (seq : BitVec 8) : Statement (.lineFill core line seq) := Statement.other rfl rfl
theorem l2Eviction (line : Nat) : Statement (.l2Eviction line) := Statement.other rfl rfl
theorem leaseRead (core : BitVec 8) (line : Nat) : Statement (.leaseRead core line) := Statement.other rfl rfl
theorem lWriteArrival : Statement .lWriteArrival := Statement.other rfl rfl
theorem memoryRead (p : Packet) : Statement (.memoryRead p) := Statement.other rfl rfl
theorem memoryReadData (p : Packet) : Statement (.memoryReadData p) := Statement.other rfl rfl
theorem memoryWrite (p : Packet) : Statement (.memoryWrite p) := Statement.other rfl rfl
theorem memoryWriteAck (p : Packet) : Statement (.memoryWriteAck p) := Statement.other rfl rfl
theorem memoryErrorResponse (p : Packet) : Statement (.memoryErrorResponse p) := Statement.other rfl rfl
theorem atomicRequest (p : Packet) : Statement (.atomicRequest p) := Statement.other rfl rfl
theorem cxlSnoop (line : Nat) : Statement (.cxlSnoop line) := Statement.other rfl rfl
theorem atomicResponse (p : Packet) : Statement (.atomicResponse p) := Statement.other rfl rfl
theorem atomicErrorResponse (p : Packet) : Statement (.atomicErrorResponse p) := Statement.other rfl rfl
theorem transferFailed (e : EngineRef) (x : Nat) : Statement (.transferFailed e x) := Statement.other rfl rfl
theorem dbctlHalt (core : BitVec 8) : Statement (.dbctlHalt core) := Statement.other rfl rfl
theorem dbctlResume (core : BitVec 8) : Statement (.dbctlResume core) := Statement.other rfl rfl
theorem dbctlStep (core : BitVec 8) : Statement (.dbctlStep core) := Statement.other rfl rfl
theorem dbctlSteprep (core : BitVec 8) : Statement (.dbctlSteprep core) := Statement.other rfl rfl
theorem dbctlSnap (core : BitVec 8) : Statement (.dbctlSnap core) := Statement.other rfl rfl
theorem pmtrigWrite (t : Word) : Statement (.pmtrigWrite t) := Statement.other rfl rfl
theorem powerRemoval : Statement .powerRemoval := Statement.other rfl rfl
theorem hostPortCompletion (tag : BitVec 10) (good : Bool) (data : List Word) : Statement (.hostPortCompletion tag good data) := Statement.other rfl rfl
theorem vadd (b : Body) : Statement (.vadd b) := Statement.member rfl rfl
theorem vsub (b : Body) : Statement (.vsub b) := Statement.member rfl rfl
theorem vrsub (b : Body) : Statement (.vrsub b) := Statement.member rfl rfl
theorem vmin (b : Body) : Statement (.vmin b) := Statement.member rfl rfl
theorem vmax (b : Body) : Statement (.vmax b) := Statement.member rfl rfl
theorem vminu (b : Body) : Statement (.vminu b) := Statement.member rfl rfl
theorem vmaxu (b : Body) : Statement (.vmaxu b) := Statement.member rfl rfl
theorem vand (b : Body) : Statement (.vand b) := Statement.member rfl rfl
theorem vor (b : Body) : Statement (.vor b) := Statement.member rfl rfl
theorem vxor (b : Body) : Statement (.vxor b) := Statement.member rfl rfl
theorem vsll (b : Body) : Statement (.vsll b) := Statement.member rfl rfl
theorem vsrl (b : Body) : Statement (.vsrl b) := Statement.member rfl rfl
theorem vsra (b : Body) : Statement (.vsra b) := Statement.member rfl rfl
theorem vmul (b : Body) : Statement (.vmul b) := Statement.member rfl rfl
theorem vmulh (b : Body) : Statement (.vmulh b) := Statement.member rfl rfl
theorem vmulhu (b : Body) : Statement (.vmulhu b) := Statement.member rfl rfl
theorem vmulhsu (b : Body) : Statement (.vmulhsu b) := Statement.member rfl rfl
theorem vsadd (b : Body) : Statement (.vsadd b) := Statement.member rfl rfl
theorem vsaddu (b : Body) : Statement (.vsaddu b) := Statement.member rfl rfl
theorem vssub (b : Body) : Statement (.vssub b) := Statement.member rfl rfl
theorem vssubu (b : Body) : Statement (.vssubu b) := Statement.member rfl rfl
theorem vaadd (b : Body) : Statement (.vaadd b) := Statement.member rfl rfl
theorem vaaddu (b : Body) : Statement (.vaaddu b) := Statement.member rfl rfl
theorem vwadd (b : Body) : Statement (.vwadd b) := Statement.member rfl rfl
theorem vwaddu (b : Body) : Statement (.vwaddu b) := Statement.member rfl rfl
theorem vwmul (b : Body) : Statement (.vwmul b) := Statement.member rfl rfl
theorem vwmulu (b : Body) : Statement (.vwmulu b) := Statement.member rfl rfl
theorem vwmulsu (b : Body) : Statement (.vwmulsu b) := Statement.member rfl rfl
theorem vwmacc (b : Body) : Statement (.vwmacc b) := Statement.member rfl rfl
theorem vwmaccu (b : Body) : Statement (.vwmaccu b) := Statement.member rfl rfl
theorem vwmaccsu (b : Body) : Statement (.vwmaccsu b) := Statement.member rfl rfl
theorem vnsrl (b : Body) : Statement (.vnsrl b) := Statement.member rfl rfl
theorem vnsra (b : Body) : Statement (.vnsra b) := Statement.member rfl rfl
theorem vnclip (b : Body) : Statement (.vnclip b) := Statement.member rfl rfl
theorem vnclipu (b : Body) : Statement (.vnclipu b) := Statement.member rfl rfl
theorem vmseq (b : Body) : Statement (.vmseq b) := Statement.member rfl rfl
theorem vmsne (b : Body) : Statement (.vmsne b) := Statement.member rfl rfl
theorem vmslt (b : Body) : Statement (.vmslt b) := Statement.member rfl rfl
theorem vmsltu (b : Body) : Statement (.vmsltu b) := Statement.member rfl rfl
theorem vmsle (b : Body) : Statement (.vmsle b) := Statement.member rfl rfl
theorem vmsleu (b : Body) : Statement (.vmsleu b) := Statement.member rfl rfl
theorem vmsgt (b : Body) : Statement (.vmsgt b) := Statement.member rfl rfl
theorem vmsgtu (b : Body) : Statement (.vmsgtu b) := Statement.member rfl rfl
theorem vmerge (b : Body) : Statement (.vmerge b) := Statement.member rfl rfl
theorem vmv (b : Body) : Statement (.vmv b) := Statement.member rfl rfl
theorem vid (b : Body) : Statement (.vid b) := Statement.member rfl rfl
theorem vrowid (b : Body) : Statement (.vrowid b) := Statement.member rfl rfl
theorem vcolid (b : Body) : Statement (.vcolid b) := Statement.member rfl rfl
theorem vfadd (b : Body) : Statement (.vfadd b) := Statement.member rfl rfl
theorem vfsub (b : Body) : Statement (.vfsub b) := Statement.member rfl rfl
theorem vfmul (b : Body) : Statement (.vfmul b) := Statement.member rfl rfl
theorem vfmacc (b : Body) : Statement (.vfmacc b) := Statement.member rfl rfl
theorem vfnmacc (b : Body) : Statement (.vfnmacc b) := Statement.member rfl rfl
theorem vfmsac (b : Body) : Statement (.vfmsac b) := Statement.member rfl rfl
theorem vfnmsac (b : Body) : Statement (.vfnmsac b) := Statement.member rfl rfl
theorem vfmin (b : Body) : Statement (.vfmin b) := Statement.member rfl rfl
theorem vfmax (b : Body) : Statement (.vfmax b) := Statement.member rfl rfl
theorem vfsgnj (b : Body) : Statement (.vfsgnj b) := Statement.member rfl rfl
theorem vfsgnjn (b : Body) : Statement (.vfsgnjn b) := Statement.member rfl rfl
theorem vfsgnjx (b : Body) : Statement (.vfsgnjx b) := Statement.member rfl rfl
theorem vmfeq (b : Body) : Statement (.vmfeq b) := Statement.member rfl rfl
theorem vmfne (b : Body) : Statement (.vmfne b) := Statement.member rfl rfl
theorem vmflt (b : Body) : Statement (.vmflt b) := Statement.member rfl rfl
theorem vmfle (b : Body) : Statement (.vmfle b) := Statement.member rfl rfl
theorem vmfgt (b : Body) : Statement (.vmfgt b) := Statement.member rfl rfl
theorem vfclass (b : Body) : Statement (.vfclass b) := Statement.member rfl rfl
theorem vfcvtFX (b : Body) : Statement (.vfcvtFX b) := Statement.member rfl rfl
theorem vfcvtXF (b : Body) : Statement (.vfcvtXF b) := Statement.member rfl rfl
theorem vfwcvt (b : Body) : Statement (.vfwcvt b) := Statement.member rfl rfl
theorem vfncvt (b : Body) : Statement (.vfncvt b) := Statement.member rfl rfl
theorem vle (b : Body) : Statement (.vle b) := Statement.member rfl rfl
theorem vlse (b : Body) : Statement (.vlse b) := Statement.member rfl rfl
theorem vlxe (b : Body) : Statement (.vlxe b) := Statement.member rfl rfl
theorem vlseg (b : Body) : Statement (.vlseg b) := Statement.member rfl rfl
theorem vlmx (b : Body) : Statement (.vlmx b) := Statement.member rfl rfl
theorem vlw (b : Body) : Statement (.vlw b) := Statement.member rfl rfl
theorem vlcx (b : Body) : Statement (.vlcx b) := Statement.member rfl rfl
theorem vleff (b : Body) : Statement (.vleff b) := Statement.member rfl rfl
theorem vgl (b : Body) : Statement (.vgl b) := Statement.member rfl rfl
theorem vpop (b : Body) : Statement (.vpop b) := Statement.member rfl rfl
theorem vse (b : Body) : Statement (.vse b) := Statement.member rfl rfl
theorem vsse (b : Body) : Statement (.vsse b) := Statement.member rfl rfl
theorem vsxe (b : Body) : Statement (.vsxe b) := Statement.member rfl rfl
theorem vsseg (b : Body) : Statement (.vsseg b) := Statement.member rfl rfl
theorem vsmx (b : Body) : Statement (.vsmx b) := Statement.member rfl rfl
theorem vsn (b : Body) : Statement (.vsn b) := Statement.member rfl rfl
theorem vsc (b : Body) : Statement (.vsc b) := Statement.member rfl rfl
theorem vamoadd (b : Body) : Statement (.vamoadd b) := Statement.member rfl rfl
theorem vamoand (b : Body) : Statement (.vamoand b) := Statement.member rfl rfl
theorem vamoor (b : Body) : Statement (.vamoor b) := Statement.member rfl rfl
theorem vamoxor (b : Body) : Statement (.vamoxor b) := Statement.member rfl rfl
theorem vamomin (b : Body) : Statement (.vamomin b) := Statement.member rfl rfl
theorem vamomax (b : Body) : Statement (.vamomax b) := Statement.member rfl rfl
theorem vamominu (b : Body) : Statement (.vamominu b) := Statement.member rfl rfl
theorem vamomaxu (b : Body) : Statement (.vamomaxu b) := Statement.member rfl rfl
theorem vamoswap (b : Body) : Statement (.vamoswap b) := Statement.member rfl rfl
theorem vamofadd (b : Body) : Statement (.vamofadd b) := Statement.member rfl rfl
theorem vamofmin (b : Body) : Statement (.vamofmin b) := Statement.member rfl rfl
theorem vamofmax (b : Body) : Statement (.vamofmax b) := Statement.member rfl rfl
theorem vamofxadd (b : Body) : Statement (.vamofxadd b) := Statement.member rfl rfl
theorem vsapp (b : Body) : Statement (.vsapp b) := Statement.member rfl rfl
theorem vslideup (b : Body) : Statement (.vslideup b) := Statement.member rfl rfl
theorem vslidedown (b : Body) : Statement (.vslidedown b) := Statement.member rfl rfl
theorem vrgather (b : Body) : Statement (.vrgather b) := Statement.member rfl rfl
theorem vpswap (b : Body) : Statement (.vpswap b) := Statement.member rfl rfl
theorem vtrans (b : Body) : Statement (.vtrans b) := Statement.member rfl rfl
theorem vredsum (b : Body) : Statement (.vredsum b) := Statement.member rfl rfl
theorem vfredsum (b : Body) : Statement (.vfredsum b) := Statement.member rfl rfl
theorem vfsumBs (b : Body) : Statement (.vfsumBs b) := Statement.member rfl rfl
theorem vredmin (b : Body) : Statement (.vredmin b) := Statement.member rfl rfl
theorem vredmax (b : Body) : Statement (.vredmax b) := Statement.member rfl rfl
theorem vredminu (b : Body) : Statement (.vredminu b) := Statement.member rfl rfl
theorem vredmaxu (b : Body) : Statement (.vredmaxu b) := Statement.member rfl rfl
theorem vfredmin (b : Body) : Statement (.vfredmin b) := Statement.member rfl rfl
theorem vfredmax (b : Body) : Statement (.vfredmax b) := Statement.member rfl rfl
theorem vmand (b : Body) : Statement (.vmand b) := Statement.member rfl rfl
theorem vmor (b : Body) : Statement (.vmor b) := Statement.member rfl rfl
theorem vmxor (b : Body) : Statement (.vmxor b) := Statement.member rfl rfl
theorem vmnot (b : Body) : Statement (.vmnot b) := Statement.member rfl rfl
theorem vpopc (b : Body) : Statement (.vpopc b) := Statement.member rfl rfl
theorem vfirst (b : Body) : Statement (.vfirst b) := Statement.member rfl rfl
theorem viota (b : Body) : Statement (.viota b) := Statement.member rfl rfl
theorem vcompress (b : Body) : Statement (.vcompress b) := Statement.member rfl rfl
theorem vmvXS (b : Body) : Statement (.vmvXS b) := Statement.member rfl rfl
theorem vmvSX (b : Body) : Statement (.vmvSX b) := Statement.member rfl rfl
theorem tzero (b : Body) : Statement (.tzero b) := Statement.member rfl rfl
theorem tmac (b : Body) : Statement (.tmac b) := Statement.member rfl rfl
theorem topa (b : Body) : Statement (.topa b) := Statement.member rfl rfl
theorem tread (b : Body) : Statement (.tread b) := Statement.member rfl rfl
theorem twrite (b : Body) : Statement (.twrite b) := Statement.member rfl rfl
theorem tdrain (b : Body) : Statement (.tdrain b) := Statement.member rfl rfl
theorem vsin (b : Body) : Statement (.vsin b) := Statement.member rfl rfl
theorem vcos (b : Body) : Statement (.vcos b) := Statement.member rfl rfl
theorem vexp2 (b : Body) : Statement (.vexp2 b) := Statement.member rfl rfl
theorem vlog2 (b : Body) : Statement (.vlog2 b) := Statement.member rfl rfl
theorem vrcp (b : Body) : Statement (.vrcp b) := Statement.member rfl rfl
theorem vrsqrt (b : Body) : Statement (.vrsqrt b) := Statement.member rfl rfl
theorem vsqrt (b : Body) : Statement (.vsqrt b) := Statement.member rfl rfl
theorem vdiv (b : Body) : Statement (.vdiv b) := Statement.member rfl rfl
theorem vtex (b : Body) : Statement (.vtex b) := Statement.member rfl rfl
theorem vraybox (b : Body) : Statement (.vraybox b) := Statement.member rfl rfl
theorem vraytri (b : Body) : Statement (.vraytri b) := Statement.member rfl rfl
theorem vcover (b : Body) : Statement (.vcover b) := Statement.member rfl rfl

end Sys2Proof.Laws.Codec
end

