-- ==== Sys2Proof/Laws/Vector.lean ====
section
/-!
SUPPORT. What a vector instruction executed by itself does around its effect (12 R321; 06 R164, R168): its checks, its charge, its trace.
-/
namespace Sys2Proof.Machine
open Sys2Proof.Claims

/-- A trace record with a free second word reaches what a trace record reaches. -/
theorem traceFree_spec (s : State) (kind : Nat) (hw : Memory.wf s.mem = true) :
    OnlyTraced s (s.traceFree kind) ∧ Memory.wf (s.traceFree kind).mem = true := by
  unfold State.traceFree
  split
  · have h := trace_spec s.freshWord.2 kind s.freshWord.1 hw
    exact ⟨onlyTraced_trans (onlyTraced_freshWord s) h.1, h.2⟩
  · exact ⟨onlyTraced_refl s, hw⟩

/-- The purses of a core after a queue has paid so many coins (05 R136). -/
def payFrom (ps : Table Int) (key coins : Nat) : Table Int := tset ps key (max (-(2 ^ 31 : Nat)) (tgetD ps key 0 - (coins : Int)))

/-- What issuing one member does. -/
def IssuedOne (s t : State) (coins : Nat) (did : Bool) : Prop :=
  (∃ u, OnlyTraced s u ∧ t = { u with hart := t.hart, cores := t.cores })
    ∧ (∀ c, t.core c = { s.core c with
        pm := (t.core c).pm
        purses := if c = s.hart.core ∧ did = true then payFrom (s.core c).purses ((s.hart.purse s).getD 0) coins else (s.core c).purses })
    ∧ t.hart = { s.hart with stripCoins := s.hart.stripCoins + (if did then coins else 0), stripMem := t.hart.stripMem, stripArith := t.hart.stripArith }

/-- A change of the hart leaves the cores. -/
@[simp] theorem withHart_core (s : State) (f : Hart → Hart) (c : BitVec 8) : (s.withHart f).core c = s.core c := rfl
/-- Counting leaves the hart. -/
@[simp] theorem count_hart (s : State) (e n : Nat) : (s.count e n).hart = s.hart := by rw [count_eq]

/-- What the issue of one member changes. -/
theorem issue_spec (s : State) (p : Placed) (c : Captured) (r : Bool) :
    (s.issue p c r) = { s with hart := (s.issue p c r).hart, cores := (s.issue p c r).cores }
    ∧ (∀ d, (s.issue p c r).core d = { s.core d with
        pm := ((s.issue p c r).core d).pm
        purses := if d = s.hart.core then payFrom (s.core d).purses ((s.hart.purse s).getD 0) (p.coins c r s.hart) else (s.core d).purses })
    ∧ (s.issue p c r).hart = { s.hart with
        stripCoins := s.hart.stripCoins + p.coins c r s.hart, stripMem := (s.issue p c r).hart.stripMem, stripArith := (s.issue p c r).hart.stripArith } := by
  unfold State.issue State.charge
  refine ⟨?_, fun d => ?_, ?_⟩
  · simp only [State.withHart]
    rw [count_eq]
    simp only []
    rw [count_eq]
    rfl
  · dsimp only
    rw [withHart_core, count_core, withHart_core, count_core, core_modCore]
    split
    · rename_i h; subst h; rfl
    · rfl
  · dsimp only
    simp only [State.withHart_hart, count_hart]
    split <;> rfl

theorem traceRec_hart (s : State) (kind : Nat) (w : Word) : (s.traceRec kind w).hart = s.hart := by
  unfold State.traceRec; simp only [State.modDie_hart, State.putMem_hart]

/-- Tracing leaves the hart. -/
theorem trace_hart (s : State) (kind : Nat) (w : Word) : (s.trace kind w).hart = s.hart := by
  unfold State.trace
  dsimp only
  split
  · split
    · exact State.modDie_hart _ _ _
    · split
      · exact traceRec_hart _ _ _
      · rw [traceRec_hart, State.modDie_hart, traceRec_hart]
  · rfl

theorem traceFree_hart (s : State) (kind : Nat) : (s.traceFree kind).hart = s.hart := by
  unfold State.traceFree
  split
  · rw [trace_hart]; rfl
  · rfl

/-- Issuing one member leaves the registers' errors. -/
theorem issueAll_errors (s : State) (c : Captured) (done restart : BitVec 6) (p : Placed) :
    (s.issueAll c done restart [p]).hart = { s.hart with
      stripCoins := (s.issueAll c done restart [p]).hart.stripCoins, stripMem := (s.issueAll c done restart [p]).hart.stripMem
      stripArith := (s.issueAll c done restart [p]).hart.stripArith } := by
  unfold State.issueAll
  simp only [List.zipIdx_cons, List.zipIdx_nil, List.foldl_cons, List.foldl_nil, count_hart]
  split
  · rw [traceFree_hart]
  · rw [(issue_spec _ _ _ _).2.2, traceFree_hart]

theorem regCount_zero (n : Nat) : regCount (0 : BitVec n) = 0 := by simp [regCount]

/-- On registers without an error a member just performs. -/
theorem step_clean (c : Captured) (restart : BitVec 6) (r : Run) (j : Nat) (p : Placed) {u : State} (hc : Clean r.s.hart) (hf : r.flt = none)
    (hb : r.blocked = 0) (hdis : ¬ (c.vl = 0 ∧ p.m.mxu = none)) (hr : p.m.run c (p.from c (wbit restart j)) r.lim r.s = .ok u) :
    r.step c restart j p = .ok { r with s := u, ended := bset r.ended j true } := by
  obtain ⟨h1, h2, h3, h4⟩ := hc
  have hs : p.spoilt r.s.hart = false := by unfold Placed.spoilt; simp [h1, h2]
  have hm : p.mended r.s.hart = 0 := by
    unfold Placed.mended
    rw [h3, h4, show vectorRegs (p.m.readSet p.body) &&& (0 : BitVec 32) = 0 from BitVec.and_zero,
      show p.m.tiles &&& (0 : BitVec 4) = 0 from BitVec.and_zero, regCount_zero, regCount_zero]
  have hp : p.run c (p.from c (wbit restart j)) r.lim r.s = .ok u := by
    unfold Placed.run
    rw [h1, h3, if_pos (.inl (by decide)), hr]
  have hn : p.m.readSet p.body &&& r.blocked = 0 := by rw [hb]; exact BitVec.and_zero
  unfold Run.step
  simp only [hf, hs, hm, hp, hn, Option.isSome_none, Bool.and_false, Bool.false_eq_true, if_false, ne_eq, not_true_eq_false,
    decide_false, State.sramUp, if_true]
  rw [if_neg]
  simpa using hdis

/-- A lone member that passes its checks and performs, on registers without an error. -/
theorem lone_performs (cls : BitVec 4) (f8 : BitVec 8) (b : Body) (m : Member) (s u : State) (hd : s.hart.disp = [])
    (hdone : wbit s.hart.cvUse.1 0 = false) (hb : Clean s.hart)
    (hc : memberChecks [{ cls := cls.toNat, body := b, word := encodeBody cls f8 b, m := m }] (loneHeader cls) s.hart.captured
      (s.hart.cvUse.1 &&& 1) (s.hart.cvUse.2 &&& 1 &&& ~~~ (s.hart.cvUse.1 &&& 1)) s.hart = none)
    (hv : s.hart.captured.vl ≠ 0 ∨ m.mxu.isSome = true)
    (hr : m.run s.hart.captured (Placed.from { cls := cls.toNat, body := b, word := encodeBody cls f8 b, m := m } s.hart.captured
        (wbit (s.hart.cvUse.2 &&& 1 &&& ~~~ (s.hart.cvUse.1 &&& 1)) 0)) s.hart.captured.vl
      (s.issueAll s.hart.captured (s.hart.cvUse.1 &&& 1) (s.hart.cvUse.2 &&& 1 &&& ~~~ (s.hart.cvUse.1 &&& 1))
        [{ cls := cls.toNat, body := b, word := encodeBody cls f8 b, m := m }]) = .ok u) :
    lone cls f8 b m s = .next (u.withHart (fun h => { h.drained with pc := h.pc + 12 })) := by
  have hdone' : wbit (s.hart.cvUse.1 &&& 1) 0 = false := by unfold wbit at hdone ⊢; rw [BitVec.getLsbD_and, hdone]; rfl
  have hdis : ¬ (s.hart.captured.vl = 0 ∧ m.mxu = none) := by
    rintro ⟨h1, h2⟩; rcases hv with h | h
    · exact h h1
    · simp [h2] at h
  have he := issueAll_errors s s.hart.captured (s.hart.cvUse.1 &&& 1) (s.hart.cvUse.2 &&& 1 &&& ~~~ (s.hart.cvUse.1 &&& 1))
    { cls := cls.toNat, body := b, word := encodeBody cls f8 b, m := m }
  unfold lone
  simp only [hd, List.isEmpty_nil, not_true_eq_false, if_false, hc]
  unfold perform
  simp only []
  generalize s.issueAll s.hart.captured (s.hart.cvUse.1 &&& 1) (s.hart.cvUse.2 &&& 1 &&& ~~~ (s.hart.cvUse.1 &&& 1))
    [{ cls := cls.toNat, body := b, word := encodeBody cls f8 b, m := m }] = i at he hr ⊢
  have hi : Clean i.hart := by rw [he]; exact hb
  simp only [Run.all, hdone', Bool.false_eq_true, if_false]
  rw [step_clean _ _ _ _ _ hi rfl rfl hdis hr]

/-- What the issue of a convoy of one member changes. -/
theorem issueAll_spec (s : State) (p : Placed) (c : Captured) (done restart : BitVec 6) (hw : Memory.wf s.mem = true) :
    IssuedOne s (s.issueAll c done restart [p]) (p.coins c (wbit restart 0) s.hart) (!wbit done 0) ∧ (s.issueAll c done restart [p]).mem = (s.traceFree 3).mem := by
  obtain ⟨h1, h2⟩ := traceFree_spec s 3 hw
  unfold State.issueAll
  simp only [List.zipIdx_cons, List.zipIdx_nil, List.foldl_cons, List.foldl_nil]
  have eh : (s.traceFree 3).hart = s.hart := by rw [h1.1]
  have ec : (s.traceFree 3).cores = s.cores := by rw [h1.1]
  have eg : (s.traceFree 3).gangs = s.gangs := by rw [h1.1]
  have ep : (s.hart.purse (s.traceFree 3)) = s.hart.purse s := by unfold Hart.purse; rw [eg]
  cases hd : wbit done 0
  · obtain ⟨k1, k2, k3⟩ := issue_spec (s.traceFree 3) p c (wbit restart 0)
    simp only [Bool.false_eq_true, if_false]
    refine ⟨⟨⟨_, h1, ?_⟩, fun d => ?_, ?_⟩, ?_⟩
    · rw [count_eq, count_eq, k1]
    · rw [count_core, count_core, k2, eh, ep, core_of_cores ec]; simp
    · rw [count_hart, count_hart, k3, eh]; simp
    · rw [count_eq, count_eq, k1]
  · simp only [if_true]
    refine ⟨⟨⟨_, h1, ?_⟩, fun d => ?_, ?_⟩, ?_⟩
    · rw [count_eq, count_eq]
    · rw [count_core, count_core, core_of_cores ec]; simp
    · rw [count_hart, count_hart, eh]; simp
    · rw [count_eq, count_eq]

end Sys2Proof.Machine
end

