-- ==== Sys2Proof/Tests/Slice0.lean ====
section
/-!
SUPPORT. The model's own tests: decoding of words written out from the encodings (12 Tables 12.1 to 12.6), ill-formed terms that the checks refuse, witnesses
that the hypotheses of the obligations can be met together, and a few values by hand calculation.
-/
set_option linter.unusedSimpArgs false
namespace Sys2Proof.Tests
open Sys2Proof Sys2Proof.Machine Sys2Proof.Claims

/-! ### Decoding -/

/-- Words of LUI to the stores, written from the formats of 12 Tables 12.2 to 12.4 and 13 Table 13.1. -/
theorem test_decode_base_0 : ∀ p ∈ ([
    (0x123452B7, .lui 5 0x12345)
    , (0xFEDCB317, .auipc 6 0xFEDCB)
    , (0xFFFFF0EF, .jal 1 0xFFFFF)
    , (0x001000EF, .jal 1 0x400)
    , (0x320540EF, .jal 1 0x2A190)
    , (0xFFC380E7, .jalr 1 7 0xFFC)
    , (0xFE628FE3, .beq 5 6 0xFFF)
    , (0x006290E3, .bne 5 6 0x400)
    , (0x7E62C063, .blt 5 6 0x3F0)
    , (0x0062DF63, .bge 5 6 0xF)
    , (0x8062E063, .bltu 5 6 0x800)
    , (0x7E62FFE3, .bgeu 5 6 0x7FF)
    , (0xFFF58503, .lb 10 11 0xFFF)
    , (0xFFE59503, .lh 10 11 0xFFE)
    , (0xFFD5A503, .lw 10 11 0xFFD)
    , (0xFFC5B503, .ld 10 11 0xFFC)] : List (Nat × Instr)), decodeTableWord 32 p.1 = some p.2 := by decide

/-- Words of LUI to the stores, written from the formats of 12 Tables 12.2 to 12.4 and 13 Table 13.1. -/
theorem test_decode_base_1 : ∀ p ∈ ([
    (0xFFB5C503, .lbu 10 11 0xFFB)
    , (0xFFA5D503, .lhu 10 11 0xFFA)
    , (0xFF95E503, .lwu 10 11 0xFF9)
    , (0x7ED60023, .sb 12 13 0x7E0)
    , (0x7ED610A3, .sh 12 13 0x7E1)
    , (0x7ED62123, .sw 12 13 0x7E2)
    , (0x7ED631A3, .sd 12 13 0x7E3)] : List (Nat × Instr)), decodeTableWord 32 p.1 = some p.2 := by decide

/-- Words of OP-IMM and OP-IMM-32, written from the formats of 12 Tables 12.2 to 12.4 and 13 Table 13.1. -/
theorem test_decode_op_imm_0 : ∀ p ∈ ([
    (0x80010093, .addi 1 2 0x800)
    , (0x80212093, .slti 1 2 0x802)
    , (0x80313093, .sltiu 1 2 0x803)
    , (0x80414093, .xori 1 2 0x804)
    , (0x80616093, .ori 1 2 0x806)
    , (0x80717093, .andi 1 2 0x807)
    , (0x03F21193, .slli 3 4 63)
    , (0x02125193, .srli 3 4 33)
    , (0x42225193, .srai 3 4 34)
    , (0x7FF4841B, .addiw 8 9 0x7FF)
    , (0x01F4941B, .slliw 8 9 31)
    , (0x0114D41B, .srliw 8 9 17)
    , (0x4124D41B, .sraiw 8 9 18)] : List (Nat × Instr)), decodeTableWord 32 p.1 = some p.2 := by decide

/-- Words of OP and OP-32, written from the formats of 12 Tables 12.2 to 12.4 and 13 Table 13.1. -/
theorem test_decode_op_0 : ∀ p ∈ ([
    (0x01288833, .add 16 17 18)
    , (0x41288833, .sub 16 17 18)
    , (0x01289833, .sll 16 17 18)
    , (0x0128A833, .slt 16 17 18)
    , (0x0128B833, .sltu 16 17 18)
    , (0x0128C833, .xorr 16 17 18)
    , (0x0128D833, .srl 16 17 18)
    , (0x4128D833, .sra 16 17 18)
    , (0x0128E833, .orr 16 17 18)
    , (0x0128F833, .andd 16 17 18)
    , (0x03288833, .mul 16 17 18)
    , (0x03289833, .mulh 16 17 18)
    , (0x0328A833, .mulhsu 16 17 18)
    , (0x0328B833, .mulhu 16 17 18)
    , (0x0328C833, .div 16 17 18)
    , (0x0328D833, .divu 16 17 18)] : List (Nat × Instr)), decodeTableWord 32 p.1 = some p.2 := by decide

/-- Words of OP and OP-32, written from the formats of 12 Tables 12.2 to 12.4 and 13 Table 13.1. -/
theorem test_decode_op_1 : ∀ p ∈ ([
    (0x0328E833, .rem 16 17 18)
    , (0x0328F833, .remu 16 17 18)
    , (0x015A09BB, .addw 19 20 21)
    , (0x415A09BB, .subw 19 20 21)
    , (0x015A19BB, .sllw 19 20 21)
    , (0x015A59BB, .srlw 19 20 21)
    , (0x415A59BB, .sraw 19 20 21)
    , (0x035A09BB, .mulw 19 20 21)
    , (0x035A49BB, .divw 19 20 21)
    , (0x035A59BB, .divuw 19 20 21)
    , (0x035A69BB, .remw 19 20 21)
    , (0x035A79BB, .remuw 19 20 21)] : List (Nat × Instr)), decodeTableWord 32 p.1 = some p.2 := by decide

/-- Words of AMO, written from the formats of 12 Tables 12.2 to 12.4 and 13 Table 13.1. -/
theorem test_decode_amo_0 : ∀ p ∈ ([
    (0x1883A32F, .sc 6 7 8 { dbl := false, aq := false, rl := false })
    , (0x0883B32F, .amoswap 6 7 8 { dbl := true, aq := false, rl := false })
    , (0x0483A32F, .amoadd 6 7 8 { dbl := false, aq := true, rl := false })
    , (0x2683B32F, .amoxor 6 7 8 { dbl := true, aq := true, rl := true })
    , (0x6283A32F, .amoand 6 7 8 { dbl := false, aq := false, rl := true })
    , (0x4283B32F, .amoor 6 7 8 { dbl := true, aq := false, rl := true })
    , (0x8483A32F, .amomin 6 7 8 { dbl := false, aq := true, rl := false })
    , (0xA483B32F, .amomax 6 7 8 { dbl := true, aq := true, rl := false })
    , (0xC083A32F, .amominu 6 7 8 { dbl := false, aq := false, rl := false })
    , (0xE283B32F, .amomaxu 6 7 8 { dbl := true, aq := false, rl := true })
    , (0x1403B32F, .lr 6 7 { dbl := true, aq := true, rl := false })] : List (Nat × Instr)), decodeTableWord 32 p.1 = some p.2 := by decide

/-- Words of MISC-MEM and SYSTEM, written from the formats of 12 Tables 12.2 to 12.4 and 13 Table 13.1. -/
theorem test_decode_system_0 : ∀ p ∈ ([
    (0x0FF0000F, .fence 0 0 0 15 15)
    , (0x8330000F, .fenceTso 0 0)
    , (0x0100000F, .pause)
    , (0x0000100F, .fenceI 0 0 0)
    , (0x00000073, .ecall)
    , (0x00100073, .ebreak)
    , (0xC01492F3, .csrrw 5 9 0xC01)
    , (0xC014A2F3, .csrrs 5 9 0xC01)
    , (0xC014B2F3, .csrrc 5 9 0xC01)
    , (0xC014D2F3, .csrrwi 5 9 0xC01)
    , (0xC014E2F3, .csrrsi 5 9 0xC01)
    , (0xC014F2F3, .csrrci 5 9 0xC01)] : List (Nat × Instr)), decodeTableWord 32 p.1 = some p.2 := by decide

/-- Words of the Galmus groups VCFG to SYNC, words of the spec's own examples (13, 14), written from the formats of 12 Tables 12.2 to 12.4 and 13 Table 13.1. -/
theorem test_decode_galmus_0 : ∀ p ∈ ([
    (0x1006028B, .vsetvl 5 12 2 0)
    , (0x5006028B, .vsetvlB 5 12 2 0)
    , (0x92B5028B, .vsetshape 5 10 11 2 1)
    , (0xD2B5028B, .vsetshapeB 5 10 11 2 1)
    , (0x00B5128B, .tshape 5 10 11)
    , (0x0205100B, .tfree 10)
    , (0x04B5128B, .ctload 5 10 11)
    , (0x00B5228B, .tqpush 5 10 11)
    , (0x02B5228B, .tqpushP 5 10 11)
    , (0x0400200B, .texit)
    , (0x0600200B, .gbar)
    , (0x0800200B, .tyield)
    , (0x0AB5228B, .xcall 5 10 11)
    , (0x1400328B, .fenceScoped 5 5)
    , (0x1000300B, .fenceScoped 0 4)
    , (0x0C00300B, .fenceScoped 0 3)] : List (Nat × Instr)), decodeTableWord 32 p.1 = some p.2 := by decide

/-- Words of the Galmus groups VCFG to SYNC, words of the spec's own examples (13, 14), written from the formats of 12 Tables 12.2 to 12.4 and 13 Table 13.1. -/
theorem test_decode_galmus_1 : ∀ p ∈ ([
    (0x2800300B, .fenceAcq 2)
    , (0x5000300B, .fenceRel 0 4)
    , (0x4C00300B, .fenceRel 0 3)
    , (0x6003B00B, .viswait 7)
    , (0x8005328B, .tkget 5 10)
    , (0xA055300B, .tkwait 10 5)
    , (0xC005300B, .tkdone 10)
    , (0xE065338B, .stv 7 10 6)] : List (Nat × Instr)), decodeTableWord 32 p.1 = some p.2 := by decide

/-- Words of the Galmus groups ENGINE and SYSTEM, words of the spec's own examples, written from the formats of 12 Tables 12.2 to 12.4 and 13 Table 13.1. -/
theorem test_decode_engines_0 : ∀ p ∈ ([
    (0x00B5430B, .sxfer 6 10 11)
    , (0x02B5430B, .sort 6 10 11)
    , (0x0405C38B, .estat 7 11)
    , (0x0605C38B, .ecancel 7 11)
    , (0x0000500B, .tret)
    , (0x02B5528B, .hwait 5 10 11)
    , (0x04B5500B, .sfenceT 10 11)
    , (0x0600500B, .uiret)
    , (0x0805500B, .ctrig 10)
    , (0x0A05500B, .tmark 10)
    , (0xC01022F3, .csrrs 5 0 0xC01)] : List (Nat × Instr)), decodeTableWord 32 p.1 = some p.2 := by decide

/-- Encodings that 12 R312 to R320 refuse are no instruction. -/
theorem test_decode_refuses : ∀ w ∈ ([0x00007003, 0x00004023, 0x00002063, 0x44009093, 0x041080B3, 0x0010C0AF, 0x1010A0AF, 0x10500073, 0x1800300B, 0x0200300B, 0x6403B00B, 0x1016028B, 0x0400208B, 0x0600100B, 0x0C00200B, 0x0800400B, 0x0C00500B, 0x0000600B, 0x00000007, 0x00000001, 0x0000001F, 0x0000007F, 0x0000003F] : List Nat), decodeTableWord 32 w = none := by decide

/-- Bodies of class 0, each field written out (12 Tables 12.6 and 12.8). -/
theorem test_body_0_0 : ∀ p ∈ ([
    (0x5A50004788CAB6BF, .vadd { mod := 0x5A5, grp := 1, ty := 0x7, pol := true, men := false, msk := 1, vs3 := 3, vs2 := 5, vs1 := 11, vd := 13 })
    , (0xB4A0018E51956D3F, .vsub { mod := 0xB4A, grp := 2, ty := 0xE, pol := false, men := true, msk := 2, vs3 := 6, vs2 := 10, vs1 := 22, vd := 26 })
    , (0x0EF002D5DA5E13BF, .vrsub { mod := 0xEF, grp := 3, ty := 0x15, pol := true, men := true, msk := 3, vs3 := 9, vs2 := 15, vs1 := 1, vd := 7 })
    , (0x6940031C2328CA3F, .vmin { mod := 0x694, grp := 0, ty := 0x1C, pol := false, men := false, msk := 4, vs3 := 12, vs2 := 20, vs1 := 12, vd := 20 })
    , (0xC3900463ABF370BF, .vmax { mod := 0xC39, grp := 1, ty := 0x23, pol := true, men := false, msk := 5, vs3 := 15, vs2 := 25, vs1 := 23, vd := 1 })
    , (0x1DE005AA74BC273F, .vminu { mod := 0x1DE, grp := 2, ty := 0x2A, pol := false, men := true, msk := 6, vs3 := 18, vs2 := 30, vs1 := 2, vd := 14 })
    , (0x783006F1FD46DDBF, .vmaxu { mod := 0x783, grp := 3, ty := 0x31, pol := true, men := true, msk := 7, vs3 := 21, vs2 := 3, vs1 := 13, vd := 27 })
    , (0xD28007380611843F, .vand { mod := 0xD28, grp := 0, ty := 0x38, pol := false, men := false, msk := 0, vs3 := 24, vs2 := 8, vs1 := 24, vd := 8 })
    , (0x2CD0087F8EDA3ABF, .vor { mod := 0x2CD, grp := 1, ty := 0x3F, pol := true, men := false, msk := 1, vs3 := 27, vs2 := 13, vs1 := 3, vd := 21 })
    , (0x8720098657A4E13F, .vxor { mod := 0x872, grp := 2, ty := 0x6, pol := false, men := true, msk := 2, vs3 := 30, vs2 := 18, vs1 := 14, vd := 2 })
    , (0xE1700ACDD86F97BF, .vsll { mod := 0xE17, grp := 3, ty := 0xD, pol := true, men := true, msk := 3, vs3 := 1, vs2 := 23, vs1 := 25, vd := 15 })
    , (0x3BC00B1421384E3F, .vsrl { mod := 0x3BC, grp := 0, ty := 0x14, pol := false, men := false, msk := 4, vs3 := 4, vs2 := 28, vs1 := 4, vd := 28 })] : List (Word × Instr)), encodesMember p.1 p.2 = true := by decide

/-- Bodies of class 0, each field written out (12 Tables 12.6 and 12.8). -/
theorem test_body_0_1 : ∀ p ∈ ([
    (0x96100C5BA9C2F4BF, .vsra { mod := 0x961, grp := 1, ty := 0x1B, pol := true, men := false, msk := 5, vs3 := 7, vs2 := 1, vs1 := 15, vd := 9 })
    , (0xF0600DA2728DAB3F, .vmul { mod := 0xF06, grp := 2, ty := 0x22, pol := false, men := true, msk := 6, vs3 := 10, vs2 := 6, vs1 := 26, vd := 22 })
    , (0x4AB00EE9FB5651BF, .vmulh { mod := 0x4AB, grp := 3, ty := 0x29, pol := true, men := true, msk := 7, vs3 := 13, vs2 := 11, vs1 := 5, vd := 3 })
    , (0xA5000F300421083F, .vmulhu { mod := 0xA50, grp := 0, ty := 0x30, pol := false, men := false, msk := 0, vs3 := 16, vs2 := 16, vs1 := 16, vd := 16 })
    , (0xFF5010778CEBBEBF, .vmulhsu { mod := 0xFF5, grp := 1, ty := 0x37, pol := true, men := false, msk := 1, vs3 := 19, vs2 := 21, vs1 := 27, vd := 29 })
    , (0x59A011BE55B4653F, .vsadd { mod := 0x59A, grp := 2, ty := 0x3E, pol := false, men := true, msk := 2, vs3 := 22, vs2 := 26, vs1 := 6, vd := 10 })
    , (0xB3F012C5DE7F1BBF, .vsaddu { mod := 0xB3F, grp := 3, ty := 0x5, pol := true, men := true, msk := 3, vs3 := 25, vs2 := 31, vs1 := 17, vd := 23 })
    , (0x0E40130C2709C23F, .vssub { mod := 0xE4, grp := 0, ty := 0xC, pol := false, men := false, msk := 4, vs3 := 28, vs2 := 4, vs1 := 28, vd := 4 })
    , (0x68901453AFD278BF, .vssubu { mod := 0x689, grp := 1, ty := 0x13, pol := true, men := false, msk := 5, vs3 := 31, vs2 := 9, vs1 := 7, vd := 17 })
    , (0xC2E0159A709D2F3F, .vaadd { mod := 0xC2E, grp := 2, ty := 0x1A, pol := false, men := true, msk := 6, vs3 := 2, vs2 := 14, vs1 := 18, vd := 30 })
    , (0x1D3016E1F967D5BF, .vaaddu { mod := 0x1D3, grp := 3, ty := 0x21, pol := true, men := true, msk := 7, vs3 := 5, vs2 := 19, vs1 := 29, vd := 11 })
    , (0x7780172802308C3F, .vwadd { mod := 0x778, grp := 0, ty := 0x28, pol := false, men := false, msk := 0, vs3 := 8, vs2 := 24, vs1 := 8, vd := 24 })] : List (Word × Instr)), encodesMember p.1 p.2 = true := by decide

/-- Bodies of class 0, each field written out (12 Tables 12.6 and 12.8). -/
theorem test_body_0_2 : ∀ p ∈ ([
    (0xD1D0186F8AFB32BF, .vwaddu { mod := 0xD1D, grp := 1, ty := 0x2F, pol := true, men := false, msk := 1, vs3 := 11, vs2 := 29, vs1 := 19, vd := 5 })
    , (0x2C2019B65385E93F, .vwmul { mod := 0x2C2, grp := 2, ty := 0x36, pol := false, men := true, msk := 2, vs3 := 14, vs2 := 2, vs1 := 30, vd := 18 })
    , (0x86701AFDDC4E9FBF, .vwmulu { mod := 0x867, grp := 3, ty := 0x3D, pol := true, men := true, msk := 3, vs3 := 17, vs2 := 7, vs1 := 9, vd := 31 })
    , (0xE0C01B042519463F, .vwmulsu { mod := 0xE0C, grp := 0, ty := 0x4, pol := false, men := false, msk := 4, vs3 := 20, vs2 := 12, vs1 := 20, vd := 12 })
    , (0x3B101C4BADE3FCBF, .vwmacc { mod := 0x3B1, grp := 1, ty := 0xB, pol := true, men := false, msk := 5, vs3 := 23, vs2 := 17, vs1 := 31, vd := 25 })
    , (0x95601D9276ACA33F, .vwmaccu { mod := 0x956, grp := 2, ty := 0x12, pol := false, men := true, msk := 6, vs3 := 26, vs2 := 22, vs1 := 10, vd := 6 })
    , (0xEFB01ED9FF7759BF, .vwmaccsu { mod := 0xEFB, grp := 3, ty := 0x19, pol := true, men := true, msk := 7, vs3 := 29, vs2 := 27, vs1 := 21, vd := 19 })
    , (0x4A001F200000003F, .vnsrl { mod := 0x4A0, grp := 0, ty := 0x20, pol := false, men := false, msk := 0, vs3 := 0, vs2 := 0, vs1 := 0, vd := 0 })
    , (0xA450206788CAB6BF, .vnsra { mod := 0xA45, grp := 1, ty := 0x27, pol := true, men := false, msk := 1, vs3 := 3, vs2 := 5, vs1 := 11, vd := 13 })
    , (0xFEA021AE51956D3F, .vnclip { mod := 0xFEA, grp := 2, ty := 0x2E, pol := false, men := true, msk := 2, vs3 := 6, vs2 := 10, vs1 := 22, vd := 26 })
    , (0x58F022F5DA5E13BF, .vnclipu { mod := 0x58F, grp := 3, ty := 0x35, pol := true, men := true, msk := 3, vs3 := 9, vs2 := 15, vs1 := 1, vd := 7 })
    , (0xB340233C2328CA3F, .vmseq { mod := 0xB34, grp := 0, ty := 0x3C, pol := false, men := false, msk := 4, vs3 := 12, vs2 := 20, vs1 := 12, vd := 20 })] : List (Word × Instr)), encodesMember p.1 p.2 = true := by decide

/-- Bodies of class 0, each field written out (12 Tables 12.6 and 12.8). -/
theorem test_body_0_3 : ∀ p ∈ ([
    (0x0D902443ABF370BF, .vmsne { mod := 0xD9, grp := 1, ty := 0x3, pol := true, men := false, msk := 5, vs3 := 15, vs2 := 25, vs1 := 23, vd := 1 })
    , (0x67E0258A74BC273F, .vmslt { mod := 0x67E, grp := 2, ty := 0xA, pol := false, men := true, msk := 6, vs3 := 18, vs2 := 30, vs1 := 2, vd := 14 })
    , (0xC23026D1FD46DDBF, .vmsltu { mod := 0xC23, grp := 3, ty := 0x11, pol := true, men := true, msk := 7, vs3 := 21, vs2 := 3, vs1 := 13, vd := 27 })
    , (0x1C8027180611843F, .vmsle { mod := 0x1C8, grp := 0, ty := 0x18, pol := false, men := false, msk := 0, vs3 := 24, vs2 := 8, vs1 := 24, vd := 8 })
    , (0x76D0285F8EDA3ABF, .vmsleu { mod := 0x76D, grp := 1, ty := 0x1F, pol := true, men := false, msk := 1, vs3 := 27, vs2 := 13, vs1 := 3, vd := 21 })
    , (0xD12029A657A4E13F, .vmsgt { mod := 0xD12, grp := 2, ty := 0x26, pol := false, men := true, msk := 2, vs3 := 30, vs2 := 18, vs1 := 14, vd := 2 })
    , (0x2B702AEDD86F97BF, .vmsgtu { mod := 0x2B7, grp := 3, ty := 0x2D, pol := true, men := true, msk := 3, vs3 := 1, vs2 := 23, vs1 := 25, vd := 15 })
    , (0x85C02B3421384E3F, .vmerge { mod := 0x85C, grp := 0, ty := 0x34, pol := false, men := false, msk := 4, vs3 := 4, vs2 := 28, vs1 := 4, vd := 28 })
    , (0xE0102C7BA9C2F4BF, .vmv { mod := 0xE01, grp := 1, ty := 0x3B, pol := true, men := false, msk := 5, vs3 := 7, vs2 := 1, vs1 := 15, vd := 9 })
    , (0x3A602D82728DAB3F, .vid { mod := 0x3A6, grp := 2, ty := 0x2, pol := false, men := true, msk := 6, vs3 := 10, vs2 := 6, vs1 := 26, vd := 22 })
    , (0x94B02EC9FB5651BF, .vrowid { mod := 0x94B, grp := 3, ty := 0x9, pol := true, men := true, msk := 7, vs3 := 13, vs2 := 11, vs1 := 5, vd := 3 })
    , (0xEF002F100421083F, .vcolid { mod := 0xEF0, grp := 0, ty := 0x10, pol := false, men := false, msk := 0, vs3 := 16, vs2 := 16, vs1 := 16, vd := 16 })] : List (Word × Instr)), encodesMember p.1 p.2 = true := by decide

/-- Bodies of class 1, each field written out (12 Tables 12.6 and 12.9). -/
theorem test_body_1_0 : ∀ p ∈ ([
    (0x495100578CEBBEBF, .vfadd { mod := 0x495, grp := 1, ty := 0x17, pol := true, men := false, msk := 1, vs3 := 19, vs2 := 21, vs1 := 27, vd := 29 })
    , (0xA3A1019E55B4653F, .vfsub { mod := 0xA3A, grp := 2, ty := 0x1E, pol := false, men := true, msk := 2, vs3 := 22, vs2 := 26, vs1 := 6, vd := 10 })
    , (0xFDF102E5DE7F1BBF, .vfmul { mod := 0xFDF, grp := 3, ty := 0x25, pol := true, men := true, msk := 3, vs3 := 25, vs2 := 31, vs1 := 17, vd := 23 })
    , (0x5841032C2709C23F, .vfmacc { mod := 0x584, grp := 0, ty := 0x2C, pol := false, men := false, msk := 4, vs3 := 28, vs2 := 4, vs1 := 28, vd := 4 })
    , (0xB2910473AFD278BF, .vfnmacc { mod := 0xB29, grp := 1, ty := 0x33, pol := true, men := false, msk := 5, vs3 := 31, vs2 := 9, vs1 := 7, vd := 17 })
    , (0x0CE105BA709D2F3F, .vfmsac { mod := 0xCE, grp := 2, ty := 0x3A, pol := false, men := true, msk := 6, vs3 := 2, vs2 := 14, vs1 := 18, vd := 30 })
    , (0x673106C1F967D5BF, .vfnmsac { mod := 0x673, grp := 3, ty := 0x1, pol := true, men := true, msk := 7, vs3 := 5, vs2 := 19, vs1 := 29, vd := 11 })
    , (0xC181070802308C3F, .vfmin { mod := 0xC18, grp := 0, ty := 0x8, pol := false, men := false, msk := 0, vs3 := 8, vs2 := 24, vs1 := 8, vd := 24 })
    , (0x1BD1084F8AFB32BF, .vfmax { mod := 0x1BD, grp := 1, ty := 0xF, pol := true, men := false, msk := 1, vs3 := 11, vs2 := 29, vs1 := 19, vd := 5 })
    , (0x762109965385E93F, .vfsgnj { mod := 0x762, grp := 2, ty := 0x16, pol := false, men := true, msk := 2, vs3 := 14, vs2 := 2, vs1 := 30, vd := 18 })
    , (0xD0710ADDDC4E9FBF, .vfsgnjn { mod := 0xD07, grp := 3, ty := 0x1D, pol := true, men := true, msk := 3, vs3 := 17, vs2 := 7, vs1 := 9, vd := 31 })
    , (0x2AC10B242519463F, .vfsgnjx { mod := 0x2AC, grp := 0, ty := 0x24, pol := false, men := false, msk := 4, vs3 := 20, vs2 := 12, vs1 := 20, vd := 12 })] : List (Word × Instr)), encodesMember p.1 p.2 = true := by decide

/-- Bodies of class 1, each field written out (12 Tables 12.6 and 12.9). -/
theorem test_body_1_1 : ∀ p ∈ ([
    (0x85110C6BADE3FCBF, .vmfeq { mod := 0x851, grp := 1, ty := 0x2B, pol := true, men := false, msk := 5, vs3 := 23, vs2 := 17, vs1 := 31, vd := 25 })
    , (0xDF610DB276ACA33F, .vmfne { mod := 0xDF6, grp := 2, ty := 0x32, pol := false, men := true, msk := 6, vs3 := 26, vs2 := 22, vs1 := 10, vd := 6 })
    , (0x39B10EF9FF7759BF, .vmflt { mod := 0x39B, grp := 3, ty := 0x39, pol := true, men := true, msk := 7, vs3 := 29, vs2 := 27, vs1 := 21, vd := 19 })
    , (0x94010F000000003F, .vmfle { mod := 0x940, grp := 0, ty := 0x0, pol := false, men := false, msk := 0, vs3 := 0, vs2 := 0, vs1 := 0, vd := 0 })
    , (0xEE51104788CAB6BF, .vmfgt { mod := 0xEE5, grp := 1, ty := 0x7, pol := true, men := false, msk := 1, vs3 := 3, vs2 := 5, vs1 := 11, vd := 13 })
    , (0x48A1118E51956D3F, .vfclass { mod := 0x48A, grp := 2, ty := 0xE, pol := false, men := true, msk := 2, vs3 := 6, vs2 := 10, vs1 := 22, vd := 26 })
    , (0xA2F112D5DA5E13BF, .vfcvtFX { mod := 0xA2F, grp := 3, ty := 0x15, pol := true, men := true, msk := 3, vs3 := 9, vs2 := 15, vs1 := 1, vd := 7 })
    , (0xFD41131C2328CA3F, .vfcvtXF { mod := 0xFD4, grp := 0, ty := 0x1C, pol := false, men := false, msk := 4, vs3 := 12, vs2 := 20, vs1 := 12, vd := 20 })
    , (0x57911463ABF370BF, .vfwcvt { mod := 0x579, grp := 1, ty := 0x23, pol := true, men := false, msk := 5, vs3 := 15, vs2 := 25, vs1 := 23, vd := 1 })
    , (0xB1E115AA74BC273F, .vfncvt { mod := 0xB1E, grp := 2, ty := 0x2A, pol := false, men := true, msk := 6, vs3 := 18, vs2 := 30, vs1 := 2, vd := 14 })] : List (Word × Instr)), encodesMember p.1 p.2 = true := by decide

/-- Bodies of class 2, each field written out (12 Tables 12.6 and 12.10). -/
theorem test_body_2_0 : ∀ p ∈ ([
    (0x0C3200F1FD46DDBF, .vle { mod := 0xC3, grp := 3, ty := 0x31, pol := true, men := true, msk := 7, vs3 := 21, vs2 := 3, vs1 := 13, vd := 27 })
    , (0x668201380611843F, .vlse { mod := 0x668, grp := 0, ty := 0x38, pol := false, men := false, msk := 0, vs3 := 24, vs2 := 8, vs1 := 24, vd := 8 })
    , (0xC0D2027F8EDA3ABF, .vlxe { mod := 0xC0D, grp := 1, ty := 0x3F, pol := true, men := false, msk := 1, vs3 := 27, vs2 := 13, vs1 := 3, vd := 21 })
    , (0x1B22038657A4E13F, .vlseg { mod := 0x1B2, grp := 2, ty := 0x6, pol := false, men := true, msk := 2, vs3 := 30, vs2 := 18, vs1 := 14, vd := 2 })
    , (0x757204CDD86F97BF, .vlmx { mod := 0x757, grp := 3, ty := 0xD, pol := true, men := true, msk := 3, vs3 := 1, vs2 := 23, vs1 := 25, vd := 15 })
    , (0xCFC2051421384E3F, .vlw { mod := 0xCFC, grp := 0, ty := 0x14, pol := false, men := false, msk := 4, vs3 := 4, vs2 := 28, vs1 := 4, vd := 28 })
    , (0x2A12065BA9C2F4BF, .vlcx { mod := 0x2A1, grp := 1, ty := 0x1B, pol := true, men := false, msk := 5, vs3 := 7, vs2 := 1, vs1 := 15, vd := 9 })
    , (0x846207A2728DAB3F, .vleff { mod := 0x846, grp := 2, ty := 0x22, pol := false, men := true, msk := 6, vs3 := 10, vs2 := 6, vs1 := 26, vd := 22 })
    , (0xDEB208E9FB5651BF, .vgl { mod := 0xDEB, grp := 3, ty := 0x29, pol := true, men := true, msk := 7, vs3 := 13, vs2 := 11, vs1 := 5, vd := 3 })
    , (0x390209300421083F, .vpop { mod := 0x390, grp := 0, ty := 0x30, pol := false, men := false, msk := 0, vs3 := 16, vs2 := 16, vs1 := 16, vd := 16 })] : List (Word × Instr)), encodesMember p.1 p.2 = true := by decide

/-- Bodies of class 3, each field written out (12 Tables 12.6 and 12.11). -/
theorem test_body_3_0 : ∀ p ∈ ([
    (0x935300778CEBBEBF, .vse { mod := 0x935, grp := 1, ty := 0x37, pol := true, men := false, msk := 1, vs3 := 19, vs2 := 21, vs1 := 27, vd := 29 })
    , (0xEDA301BE55B4653F, .vsse { mod := 0xEDA, grp := 2, ty := 0x3E, pol := false, men := true, msk := 2, vs3 := 22, vs2 := 26, vs1 := 6, vd := 10 })
    , (0x47F302C5DE7F1BBF, .vsxe { mod := 0x47F, grp := 3, ty := 0x5, pol := true, men := true, msk := 3, vs3 := 25, vs2 := 31, vs1 := 17, vd := 23 })
    , (0xA243030C2709C23F, .vsseg { mod := 0xA24, grp := 0, ty := 0xC, pol := false, men := false, msk := 4, vs3 := 28, vs2 := 4, vs1 := 28, vd := 4 })
    , (0xFC930453AFD278BF, .vsmx { mod := 0xFC9, grp := 1, ty := 0x13, pol := true, men := false, msk := 5, vs3 := 31, vs2 := 9, vs1 := 7, vd := 17 })
    , (0x56E3059A709D2F3F, .vsn { mod := 0x56E, grp := 2, ty := 0x1A, pol := false, men := true, msk := 6, vs3 := 2, vs2 := 14, vs1 := 18, vd := 30 })
    , (0xB13306E1F967D5BF, .vsc { mod := 0xB13, grp := 3, ty := 0x21, pol := true, men := true, msk := 7, vs3 := 5, vs2 := 19, vs1 := 29, vd := 11 })
    , (0x0B83072802308C3F, .vamoadd { mod := 0xB8, grp := 0, ty := 0x28, pol := false, men := false, msk := 0, vs3 := 8, vs2 := 24, vs1 := 8, vd := 24 })
    , (0x65D3086F8AFB32BF, .vamoand { mod := 0x65D, grp := 1, ty := 0x2F, pol := true, men := false, msk := 1, vs3 := 11, vs2 := 29, vs1 := 19, vd := 5 })
    , (0xC02309B65385E93F, .vamoor { mod := 0xC02, grp := 2, ty := 0x36, pol := false, men := true, msk := 2, vs3 := 14, vs2 := 2, vs1 := 30, vd := 18 })
    , (0x1A730AFDDC4E9FBF, .vamoxor { mod := 0x1A7, grp := 3, ty := 0x3D, pol := true, men := true, msk := 3, vs3 := 17, vs2 := 7, vs1 := 9, vd := 31 })
    , (0x74C30B042519463F, .vamomin { mod := 0x74C, grp := 0, ty := 0x4, pol := false, men := false, msk := 4, vs3 := 20, vs2 := 12, vs1 := 20, vd := 12 })] : List (Word × Instr)), encodesMember p.1 p.2 = true := by decide

/-- Bodies of class 3, each field written out (12 Tables 12.6 and 12.11). -/
theorem test_body_3_1 : ∀ p ∈ ([
    (0xCF130C4BADE3FCBF, .vamomax { mod := 0xCF1, grp := 1, ty := 0xB, pol := true, men := false, msk := 5, vs3 := 23, vs2 := 17, vs1 := 31, vd := 25 })
    , (0x29630D9276ACA33F, .vamominu { mod := 0x296, grp := 2, ty := 0x12, pol := false, men := true, msk := 6, vs3 := 26, vs2 := 22, vs1 := 10, vd := 6 })
    , (0x83B30ED9FF7759BF, .vamomaxu { mod := 0x83B, grp := 3, ty := 0x19, pol := true, men := true, msk := 7, vs3 := 29, vs2 := 27, vs1 := 21, vd := 19 })
    , (0xDE030F200000003F, .vamoswap { mod := 0xDE0, grp := 0, ty := 0x20, pol := false, men := false, msk := 0, vs3 := 0, vs2 := 0, vs1 := 0, vd := 0 })
    , (0x3853106788CAB6BF, .vamofadd { mod := 0x385, grp := 1, ty := 0x27, pol := true, men := false, msk := 1, vs3 := 3, vs2 := 5, vs1 := 11, vd := 13 })
    , (0x92A311AE51956D3F, .vamofmin { mod := 0x92A, grp := 2, ty := 0x2E, pol := false, men := true, msk := 2, vs3 := 6, vs2 := 10, vs1 := 22, vd := 26 })
    , (0xECF312F5DA5E13BF, .vamofmax { mod := 0xECF, grp := 3, ty := 0x35, pol := true, men := true, msk := 3, vs3 := 9, vs2 := 15, vs1 := 1, vd := 7 })
    , (0x4743133C2328CA3F, .vamofxadd { mod := 0x474, grp := 0, ty := 0x3C, pol := false, men := false, msk := 4, vs3 := 12, vs2 := 20, vs1 := 12, vd := 20 })
    , (0xA1931443ABF370BF, .vsapp { mod := 0xA19, grp := 1, ty := 0x3, pol := true, men := false, msk := 5, vs3 := 15, vs2 := 25, vs1 := 23, vd := 1 })] : List (Word × Instr)), encodesMember p.1 p.2 = true := by decide

/-- Bodies of class 4, each field written out (12 Tables 12.6 and 12.12). -/
theorem test_body_4_0 : ∀ p ∈ ([
    (0xFBE4008A74BC273F, .vslideup { mod := 0xFBE, grp := 2, ty := 0xA, pol := false, men := true, msk := 6, vs3 := 18, vs2 := 30, vs1 := 2, vd := 14 })
    , (0x563401D1FD46DDBF, .vslidedown { mod := 0x563, grp := 3, ty := 0x11, pol := true, men := true, msk := 7, vs3 := 21, vs2 := 3, vs1 := 13, vd := 27 })
    , (0xB08402180611843F, .vrgather { mod := 0xB08, grp := 0, ty := 0x18, pol := false, men := false, msk := 0, vs3 := 24, vs2 := 8, vs1 := 24, vd := 8 })
    , (0x0AD4035F8EDA3ABF, .vpswap { mod := 0xAD, grp := 1, ty := 0x1F, pol := true, men := false, msk := 1, vs3 := 27, vs2 := 13, vs1 := 3, vd := 21 })
    , (0x652404A657A4E13F, .vtrans { mod := 0x652, grp := 2, ty := 0x26, pol := false, men := true, msk := 2, vs3 := 30, vs2 := 18, vs1 := 14, vd := 2 })
    , (0xBF7405EDD86F97BF, .vredsum { mod := 0xBF7, grp := 3, ty := 0x2D, pol := true, men := true, msk := 3, vs3 := 1, vs2 := 23, vs1 := 25, vd := 15 })
    , (0x19C4063421384E3F, .vfredsum { mod := 0x19C, grp := 0, ty := 0x34, pol := false, men := false, msk := 4, vs3 := 4, vs2 := 28, vs1 := 4, vd := 28 })
    , (0x7414077BA9C2F4BF, .vfsumBs { mod := 0x741, grp := 1, ty := 0x3B, pol := true, men := false, msk := 5, vs3 := 7, vs2 := 1, vs1 := 15, vd := 9 })
    , (0xCE640882728DAB3F, .vredmin { mod := 0xCE6, grp := 2, ty := 0x2, pol := false, men := true, msk := 6, vs3 := 10, vs2 := 6, vs1 := 26, vd := 22 })
    , (0x28B409C9FB5651BF, .vredmax { mod := 0x28B, grp := 3, ty := 0x9, pol := true, men := true, msk := 7, vs3 := 13, vs2 := 11, vs1 := 5, vd := 3 })
    , (0x83040A100421083F, .vredminu { mod := 0x830, grp := 0, ty := 0x10, pol := false, men := false, msk := 0, vs3 := 16, vs2 := 16, vs1 := 16, vd := 16 })
    , (0xDD540B578CEBBEBF, .vredmaxu { mod := 0xDD5, grp := 1, ty := 0x17, pol := true, men := false, msk := 1, vs3 := 19, vs2 := 21, vs1 := 27, vd := 29 })] : List (Word × Instr)), encodesMember p.1 p.2 = true := by decide

/-- Bodies of class 4, each field written out (12 Tables 12.6 and 12.12). -/
theorem test_body_4_1 : ∀ p ∈ ([
    (0x37A40C9E55B4653F, .vfredmin { mod := 0x37A, grp := 2, ty := 0x1E, pol := false, men := true, msk := 2, vs3 := 22, vs2 := 26, vs1 := 6, vd := 10 })
    , (0x91F40DE5DE7F1BBF, .vfredmax { mod := 0x91F, grp := 3, ty := 0x25, pol := true, men := true, msk := 3, vs3 := 25, vs2 := 31, vs1 := 17, vd := 23 })
    , (0xEC440E2C2709C23F, .vmand { mod := 0xEC4, grp := 0, ty := 0x2C, pol := false, men := false, msk := 4, vs3 := 28, vs2 := 4, vs1 := 28, vd := 4 })
    , (0x46940F73AFD278BF, .vmor { mod := 0x469, grp := 1, ty := 0x33, pol := true, men := false, msk := 5, vs3 := 31, vs2 := 9, vs1 := 7, vd := 17 })
    , (0xA0E410BA709D2F3F, .vmxor { mod := 0xA0E, grp := 2, ty := 0x3A, pol := false, men := true, msk := 6, vs3 := 2, vs2 := 14, vs1 := 18, vd := 30 })
    , (0xFB3411C1F967D5BF, .vmnot { mod := 0xFB3, grp := 3, ty := 0x1, pol := true, men := true, msk := 7, vs3 := 5, vs2 := 19, vs1 := 29, vd := 11 })
    , (0x5584120802308C3F, .vpopc { mod := 0x558, grp := 0, ty := 0x8, pol := false, men := false, msk := 0, vs3 := 8, vs2 := 24, vs1 := 8, vd := 24 })
    , (0xAFD4134F8AFB32BF, .vfirst { mod := 0xAFD, grp := 1, ty := 0xF, pol := true, men := false, msk := 1, vs3 := 11, vs2 := 29, vs1 := 19, vd := 5 })
    , (0x0A2414965385E93F, .viota { mod := 0xA2, grp := 2, ty := 0x16, pol := false, men := true, msk := 2, vs3 := 14, vs2 := 2, vs1 := 30, vd := 18 })
    , (0x647415DDDC4E9FBF, .vcompress { mod := 0x647, grp := 3, ty := 0x1D, pol := true, men := true, msk := 3, vs3 := 17, vs2 := 7, vs1 := 9, vd := 31 })
    , (0xBEC416242519463F, .vmvXS { mod := 0xBEC, grp := 0, ty := 0x24, pol := false, men := false, msk := 4, vs3 := 20, vs2 := 12, vs1 := 20, vd := 12 })
    , (0x1914176BADE3FCBF, .vmvSX { mod := 0x191, grp := 1, ty := 0x2B, pol := true, men := false, msk := 5, vs3 := 23, vs2 := 17, vs1 := 31, vd := 25 })] : List (Word × Instr)), encodesMember p.1 p.2 = true := by decide

/-- Bodies of class 5, each field written out (12 Tables 12.6 and 12.13). -/
theorem test_body_5_0 : ∀ p ∈ ([
    (0x736500B276ACA33F, .tzero { mod := 0x736, grp := 2, ty := 0x32, pol := false, men := true, msk := 6, vs3 := 26, vs2 := 22, vs1 := 10, vd := 6 })
    , (0xCDB501F9FF7759BF, .tmac { mod := 0xCDB, grp := 3, ty := 0x39, pol := true, men := true, msk := 7, vs3 := 29, vs2 := 27, vs1 := 21, vd := 19 })
    , (0x280502000000003F, .topa { mod := 0x280, grp := 0, ty := 0x0, pol := false, men := false, msk := 0, vs3 := 0, vs2 := 0, vs1 := 0, vd := 0 })
    , (0x8255034788CAB6BF, .tread { mod := 0x825, grp := 1, ty := 0x7, pol := true, men := false, msk := 1, vs3 := 3, vs2 := 5, vs1 := 11, vd := 13 })
    , (0xDCA5048E51956D3F, .twrite { mod := 0xDCA, grp := 2, ty := 0xE, pol := false, men := true, msk := 2, vs3 := 6, vs2 := 10, vs1 := 22, vd := 26 })
    , (0x36F505D5DA5E13BF, .tdrain { mod := 0x36F, grp := 3, ty := 0x15, pol := true, men := true, msk := 3, vs3 := 9, vs2 := 15, vs1 := 1, vd := 7 })] : List (Word × Instr)), encodesMember p.1 p.2 = true := by decide

/-- Bodies of class 6, each field written out (12 Tables 12.6 and 12.14). -/
theorem test_body_6_0 : ∀ p ∈ ([
    (0x9146001C2328CA3F, .vsin { mod := 0x914, grp := 0, ty := 0x1C, pol := false, men := false, msk := 4, vs3 := 12, vs2 := 20, vs1 := 12, vd := 20 })
    , (0xEB960163ABF370BF, .vcos { mod := 0xEB9, grp := 1, ty := 0x23, pol := true, men := false, msk := 5, vs3 := 15, vs2 := 25, vs1 := 23, vd := 1 })
    , (0x45E602AA74BC273F, .vexp2 { mod := 0x45E, grp := 2, ty := 0x2A, pol := false, men := true, msk := 6, vs3 := 18, vs2 := 30, vs1 := 2, vd := 14 })
    , (0xA03603F1FD46DDBF, .vlog2 { mod := 0xA03, grp := 3, ty := 0x31, pol := true, men := true, msk := 7, vs3 := 21, vs2 := 3, vs1 := 13, vd := 27 })
    , (0xFA8604380611843F, .vrcp { mod := 0xFA8, grp := 0, ty := 0x38, pol := false, men := false, msk := 0, vs3 := 24, vs2 := 8, vs1 := 24, vd := 8 })
    , (0x54D6057F8EDA3ABF, .vrsqrt { mod := 0x54D, grp := 1, ty := 0x3F, pol := true, men := false, msk := 1, vs3 := 27, vs2 := 13, vs1 := 3, vd := 21 })
    , (0xAF26068657A4E13F, .vsqrt { mod := 0xAF2, grp := 2, ty := 0x6, pol := false, men := true, msk := 2, vs3 := 30, vs2 := 18, vs1 := 14, vd := 2 })
    , (0x097607CDD86F97BF, .vdiv { mod := 0x97, grp := 3, ty := 0xD, pol := true, men := true, msk := 3, vs3 := 1, vs2 := 23, vs1 := 25, vd := 15 })
    , (0x63C6081421384E3F, .vtex { mod := 0x63C, grp := 0, ty := 0x14, pol := false, men := false, msk := 4, vs3 := 4, vs2 := 28, vs1 := 4, vd := 28 })
    , (0xBE16095BA9C2F4BF, .vraybox { mod := 0xBE1, grp := 1, ty := 0x1B, pol := true, men := false, msk := 5, vs3 := 7, vs2 := 1, vs1 := 15, vd := 9 })
    , (0x18660AA2728DAB3F, .vraytri { mod := 0x186, grp := 2, ty := 0x22, pol := false, men := true, msk := 6, vs3 := 10, vs2 := 6, vs1 := 26, vd := 22 })
    , (0x72B60BE9FB5651BF, .vcover { mod := 0x72B, grp := 3, ty := 0x29, pol := true, men := true, msk := 7, vs3 := 13, vs2 := 11, vs1 := 5, vd := 3 })] : List (Word × Instr)), encodesMember p.1 p.2 = true := by decide

/-- The bodies that the spec writes out: `vnclip.i8 v8, v4:2, x6`, `vmseq.i32 m1, v4, x0`, `vfirst x6, m1`, `vfncvt.ef`, `tmac acc0, v0, v8, 8, 0`,
`tdrain.ui8 v16, acc1, v1, v2, v3, 0`, `vsin.f32 v8, v4`, `vdiv.f32 v8, v4, x13` and `vcover.i32 m2, v8, v4, x10`. -/
theorem test_body_examples : ∀ p ∈ ([
    (0x001021000180443F, .vnclip { mod := 0x1, grp := 0, ty := 0x0, pol := false, men := false, msk := 0, vs3 := 6, vs2 := 0, vs1 := 4, vd := 8 })
    , (0x00102318000040BF, .vmseq { mod := 0x1, grp := 0, ty := 0x18, pol := false, men := false, msk := 0, vs3 := 0, vs2 := 0, vs1 := 4, vd := 1 })
    , (0x000413C04800033F, .vfirst { mod := 0x0, grp := 3, ty := 0x0, pol := false, men := true, msk := 1, vs3 := 0, vs2 := 0, vs1 := 0, vd := 6 })
    , (0x144115120000443F, .vfncvt { mod := 0x144, grp := 0, ty := 0x12, pol := false, men := false, msk := 0, vs3 := 0, vs2 := 0, vs1 := 4, vd := 8 })
    , (0x01C501000010003F, .tmac { mod := 0x1C, grp := 0, ty := 0x0, pol := false, men := false, msk := 0, vs3 := 0, vs2 := 8, vs1 := 0, vd := 0 })
    , (0x0015050100C4183F, .tdrain { mod := 0x1, grp := 0, ty := 0x1, pol := false, men := false, msk := 0, vs3 := 3, vs2 := 2, vs1 := 1, vd := 16 })
    , (0x000600140000443F, .vsin { mod := 0x0, grp := 0, ty := 0x14, pol := false, men := false, msk := 0, vs3 := 0, vs2 := 0, vs1 := 4, vd := 8 })
    , (0x001607140340443F, .vdiv { mod := 0x1, grp := 0, ty := 0x14, pol := false, men := false, msk := 0, vs3 := 13, vs2 := 0, vs1 := 4, vd := 8 })
    , (0x20060B180280443F, .vcover { mod := 0x200, grp := 0, ty := 0x18, pol := false, men := false, msk := 0, vs3 := 10, vs2 := 0, vs1 := 4, vd := 8 })] : List (Word × Instr)), encodesMember p.1 p.2 = true := by decide

/-- A lone convoy of one member is its header and its body; the header announces the member (12 Table 12.5, R321). -/
theorem test_decode_lone : ∀ p ∈ ([
    (0x00102318000040BF000000AB, .convoy 0x000000AB [0x00102318000040BF])
    , (0x144115120000443F000004AB, .convoy 0x000004AB [0x144115120000443F])
    , (0x000413C04800033F000010AB, .convoy 0x000010AB [0x000413C04800033F])
    , (0x01C501000010003F000014AB, .convoy 0x000014AB [0x01C501000010003F])
    , (0x000600140000443F000018AB, .convoy 0x000018AB [0x000600140000443F])] : List (Nat × Instr)), decodeTableWord 96 p.1 = some p.2 := by decide

/-- The header of a convoy of VLD, VALU and VXP, which 12 writes out, takes three bodies after it. -/
theorem test_decode_three : decodeTableWord 224 (0x000400000000003F000000000000003F000200000000003F000409AB) = some (.convoy 0x000409AB [0x000200000000003F, 0x000000000000003F, 0x000400000000003F]) := by decide

/-! ### Well-formedness -/

/-- A packet of a class and operation with a payload of one word: one flit (01 R31). -/
def packet (cls : BitVec 3) (op : BitVec 5) (len : BitVec 6) : Packet :=
  { dst := 1, src := 2, cls := cls, op := op, tag := 3, len := len, ctx := 0, hops := 0, chan := 0, body := [0], port := 0 }

/-- Each row that a packet brings takes a packet of its own class and operation (01 Table 1.6) and no other. -/
theorem test_illFormed_packets :
    ([(Instr.packetForward (packet 3 5 0)).wellFormed
      , (Instr.timeStampRequest (packet 5 0 0)).wellFormed
      , (Instr.timeStampResponse (packet 5 1 0)).wellFormed
      , (Instr.nbcmdAnswer (packet 4 0 0)).wellFormed
      , (Instr.mgtRegisterRead (packet 4 0 0)).wellFormed
      , (Instr.mgtRegisterData (packet 4 1 0)).wellFormed
      , (Instr.mgtRegisterWrite (packet 4 2 0)).wellFormed
      , (Instr.mgtAcknowledge (packet 4 3 0)).wellFormed
      , (Instr.mgtLinkEvent (packet 4 4 0)).wellFormed
      , (Instr.queueInsertionArrival (packet 2 0 0)).wellFormed
      , (Instr.insertionReport (packet 3 4 0)).wellFormed
      , (Instr.hostRead (packet 3 0 0)).wellFormed
      , (Instr.hostReadData (packet 3 1 0)).wellFormed
      , (Instr.hostWrite (packet 3 2 0)).wellFormed
      , (Instr.hostWriteAck (packet 3 3 0)).wellFormed
      , (Instr.hostErrorResponse (packet 3 5 0)).wellFormed
      , (Instr.invocationCall (packet 2 0 0)).wellFormed
      , (Instr.arrivalReport (packet 2 1 0)).wellFormed
      , (Instr.endReport (packet 2 1 0)).wellFormed
      , (Instr.memoryRead (packet 0 0 0)).wellFormed
      , (Instr.memoryReadData (packet 0 1 0)).wellFormed
      , (Instr.memoryWrite (packet 0 2 0)).wellFormed
      , (Instr.memoryWriteAck (packet 0 3 0)).wellFormed
      , (Instr.memoryErrorResponse (packet 0 4 0)).wellFormed
      , (Instr.atomicRequest (packet 1 0 0)).wellFormed
      , (Instr.atomicResponse (packet 1 1 0)).wellFormed
      , (Instr.atomicErrorResponse (packet 1 2 0)).wellFormed] : List Bool).all id = true
    ∧ ([(Instr.packetForward (packet 6 0 0)).wellFormed
      , (Instr.packetForward (packet 3 6 0)).wellFormed
      , (Instr.packetForward (packet 3 5 1)).wellFormed
      , (Instr.timeStampRequest (packet 5 1 0)).wellFormed
      , (Instr.timeStampRequest (packet 5 0 1)).wellFormed
      , (Instr.timeStampResponse (packet 5 2 0)).wellFormed
      , (Instr.timeStampResponse (packet 5 1 1)).wellFormed
      , (Instr.nbcmdAnswer (packet 5 0 0)).wellFormed
      , (Instr.nbcmdAnswer (packet 4 0 1)).wellFormed
      , (Instr.mgtRegisterRead (packet 4 1 0)).wellFormed
      , (Instr.mgtRegisterRead (packet 4 0 1)).wellFormed
      , (Instr.mgtRegisterData (packet 4 2 0)).wellFormed
      , (Instr.mgtRegisterData (packet 4 1 1)).wellFormed
      , (Instr.mgtRegisterWrite (packet 4 3 0)).wellFormed
      , (Instr.mgtRegisterWrite (packet 4 2 1)).wellFormed
      , (Instr.mgtAcknowledge (packet 4 4 0)).wellFormed
      , (Instr.mgtAcknowledge (packet 4 3 1)).wellFormed
      , (Instr.mgtLinkEvent (packet 4 5 0)).wellFormed
      , (Instr.mgtLinkEvent (packet 4 4 1)).wellFormed
      , (Instr.queueInsertionArrival (packet 2 1 0)).wellFormed
      , (Instr.queueInsertionArrival (packet 2 0 1)).wellFormed
      , (Instr.insertionReport (packet 3 5 0)).wellFormed
      , (Instr.insertionReport (packet 3 4 1)).wellFormed
      , (Instr.hostRead (packet 3 1 0)).wellFormed
      , (Instr.hostRead (packet 3 0 1)).wellFormed
      , (Instr.hostReadData (packet 3 2 0)).wellFormed
      , (Instr.hostReadData (packet 3 1 1)).wellFormed
      , (Instr.hostWrite (packet 3 3 0)).wellFormed
      , (Instr.hostWrite (packet 3 2 1)).wellFormed
      , (Instr.hostWriteAck (packet 3 4 0)).wellFormed
      , (Instr.hostWriteAck (packet 3 3 1)).wellFormed
      , (Instr.hostErrorResponse (packet 3 6 0)).wellFormed
      , (Instr.hostErrorResponse (packet 3 5 1)).wellFormed
      , (Instr.invocationCall (packet 2 1 0)).wellFormed
      , (Instr.invocationCall (packet 2 0 1)).wellFormed
      , (Instr.arrivalReport (packet 2 2 0)).wellFormed
      , (Instr.arrivalReport (packet 2 1 1)).wellFormed
      , (Instr.endReport (packet 2 2 0)).wellFormed
      , (Instr.endReport (packet 2 1 1)).wellFormed
      , (Instr.memoryRead (packet 0 1 0)).wellFormed
      , (Instr.memoryRead (packet 0 0 1)).wellFormed
      , (Instr.memoryReadData (packet 0 2 0)).wellFormed
      , (Instr.memoryReadData (packet 0 1 1)).wellFormed
      , (Instr.memoryWrite (packet 0 3 0)).wellFormed
      , (Instr.memoryWrite (packet 0 2 1)).wellFormed
      , (Instr.memoryWriteAck (packet 0 4 0)).wellFormed
      , (Instr.memoryWriteAck (packet 0 3 1)).wellFormed
      , (Instr.memoryErrorResponse (packet 0 5 0)).wellFormed
      , (Instr.memoryErrorResponse (packet 0 4 1)).wellFormed
      , (Instr.atomicRequest (packet 1 1 0)).wellFormed
      , (Instr.atomicRequest (packet 1 0 1)).wellFormed
      , (Instr.atomicResponse (packet 1 2 0)).wellFormed
      , (Instr.atomicResponse (packet 1 1 1)).wellFormed
      , (Instr.atomicErrorResponse (packet 1 3 0)).wellFormed
      , (Instr.atomicErrorResponse (packet 1 2 1)).wellFormed] : List Bool).any id = false := by decide

/-- The words that are FENCE.TSO and PAUSE are no FENCE; scopes 6 and 7 name nothing; a convoy's header has the mark and announces its
bodies; an illegal instruction is no word of another row. -/
theorem test_illFormed_instructions :
    ([ (Instr.fence 1 2 8 3 3), .fence 0 0 0 1 0, .fenceScoped 0 6, .fenceAcq 7, .fenceRel 3 6, .convoy 0x000409AB [0, 0], .convoy 0x00000013 []
     , .convoy 0x0000002B [0], .convoy 0x000003AB [0, 0, 0, 0, 0, 0, 0], .illegalInstruction 0x00000013, .illegalInstruction 0x0000003F
     , .illegalInstruction 0x000000AB ] : List Instr).all (fun i => !i.wellFormed) = true
    ∧ ([ (Instr.fence 0 0 0 15 15), .fenceScoped 0 5, .fenceAcq 0, .fenceRel 3 4, .convoy 0x000409AB [0, 0, 0], .convoy 0x000003AB []
       , .illegalInstruction 0, .illegalInstruction 0x10500073 ] : List Instr).all Instr.wellFormed = true := by decide

/-- A scatter-add operation has a function of 08 R211 and an aligned element; SPDM has slots 0 and 1; a measured ratio has a denominator; a
completion of the host port has at most 16 words, an access of CXL.mem 1 to 64 bytes. -/
theorem test_illFormed_rows :
    let o : SauOp := { host := false, pa := 8, fn := 15, dbl := true, a := 0, b := 0, reply := none, issuer := none }
    ([ (Instr.sauOperation { o with fn := 16 }), .sauOperation { o with pa := 12 }, .challenge 2 0, .getCertificate 2 0 0, .maintClusterMeasure 0 1 0
     , .hostPortCompletion 0 true (List.replicate 17 0), .cxlMemAccess 0 none 0, .cxlMemAccess 0 none 65 ] : List Instr).all (fun i => !i.wellFormed) = true
    ∧ ([ (Instr.sauOperation o), .sauOperation { o with pa := 12, dbl := false }, .challenge 1 0, .getCertificate 1 0 0, .maintClusterMeasure 0 1 1
       , .hostPortCompletion 0 true (List.replicate 16 0), .cxlMemAccess 0 none 1, .cxlMemAccess 0 none 64 ] : List Instr).all Instr.wellFormed = true := by
  decide

/-! ### A small machine

Context 0 runs one hart on core 0 that translates three pages through its first-level TLB: code at 0x1000, data of class C at 0x4000 and of
class D at 0x5000, at the same physical addresses (03 R87: V, R, W, X, U, A and D are bits 0, 1, 2, 3, 4, 6 and 7 of a leaf). -/

/-- The leaf of a page. -/
def leafOf (page perm : Nat) : Word := BitVec.ofNat 64 (4096 * page + perm)

/-- A first-level TLB entry of core 0 and context 0 for a page at the same physical address. -/
def pageOf (page perm : Nat) : TlbEntry :=
  { second := false, unit := 0, ctx := 0, base := 4096 * page, bits := 12, leaf := leafOf page perm }

/-- A hart in user mode at the code page, with a trap vector at 0x2000 (10 Table 10.2). -/
def hart0 : Hart := { Hart.empty with live := true, pc := 0x1000, stvec := 0x800, vl := 4, vrows := 1, vcols := 4, vtEew := 2 }

/-- The small machine. -/
def live : State :=
  { State.reset with hart := hart0, ctxs := [(0, { Ctx.empty with state := .running, run := true })], tlb := [pageOf 1 0x5B, pageOf 4 0xD7, pageOf 5 0x1D7] }

/-- The small machine with x[r] = v. -/
def liveX (rs : List (Reg × Word)) : State := rs.foldl (fun s p => s.setX p.1 p.2) live

/-- The same machine in supervisor mode. -/
def liveSup : State := live.withHart (fun h => { h with sup := true })

/-- What an outcome leaves, where it goes on. -/
def after (o : Host.Outcome State Fault Refusal) : Option State :=
  match o with
  | .next t => some t
  | _ => none

/-- What the next state satisfies. -/
def leaves (o : Host.Outcome State Fault Refusal) (p : State → Bool) : Bool :=
  match o with
  | .next t => p t
  | _ => false


/-! ### Witnesses: for each statement with hypotheses, a state and operands that meet them -/

/-- Branches: taken, not taken, and to a target with bit 1 set. -/
theorem witness_branches :
    (∃ p ∈ branchTable, p.2 (live.getX 0) (live.getX 0) = true ∧ (pcPlus live (2 * (4 : BitVec 12).toInt)).getLsbD 1 = false)
    ∧ (∃ p ∈ branchTable, p.2 (live.getX 0) (live.getX 0) = true ∧ (pcPlus live (2 * (1 : BitVec 12).toInt)).getLsbD 1 = true)
    ∧ ∃ p ∈ branchTable, p.2 (live.getX 0) (live.getX 0) = false := by decide

/-- Jumps, to an aligned target and to one with bit 1 set. -/
theorem witness_jumps :
    (pcPlus live (2 * (4 : BitVec 20).toInt)).getLsbD 1 = false ∧ (pcPlus live (2 * (1 : BitVec 20).toInt)).getLsbD 1 = true
    ∧ (BitVec.ofInt 64 ((live.getX 0).toInt + (5 : BitVec 12).toInt) &&& ~~~ 1).getLsbD 1 = false
    ∧ (BitVec.ofInt 64 ((live.getX 0).toInt + (3 : BitVec 12).toInt) &&& ~~~ 1).getLsbD 1 = true := by decide

/-- A core that does not trace, and memory in its form. -/
theorem witness_trace : (live.core live.hart.core).dTren = false ∧ Memory.wf live.mem = true := by decide

/-- The small machine with empty caches of translations and a page table at 0x10000 that maps 0x1000 to 0x1000 with some permissions, location
and upper bits (03 R85): three pointers and a leaf. -/
def walked (leaf : Word) : State :=
  { live with tlb := [], ctxs := [(0, { Ctx.empty with state := .running, run := true, ptbase := 0x10000 })]
              mem := memWrite (memWrite (memWrite (memWrite [] 0x10000 (leBytes 8 0x11001)) 0x11000 (leBytes 8 0x12001)) 0x12000 (leBytes 8 0x13001))
                0x13008 (leBytes 8 leaf.toNat) }

/-- A leaf with V, R, W, X, U, A and D at page 1, one without R, one of the firmware's memory, and one of page 5 of device 0x100. -/
def leafAll : Word := 0x10DF
def leafNoRead : Word := 0x10D9
def leafTop : Word := 0x7FE00000DF
def leafPeer : Word := 0x10000000054DF

/-- Addresses: not canonical; walked without a leaf; a leaf that permits or not; local memory below and above the top of the contexts' part;
a peer; a fetch from the windows. -/
theorem witness_resolve :
    2 ^ 48 ≤ (0x1000000000000 : Word).toNat ∧ (0x1000 : Word).toNat < 0xFC0000000000 ∧ live.hart.who.sup = false ∧ uncached (walked leafAll) live.hart.who
    ∧ tablesGood (walked leafAll) live.hart.who 0x1008 ∧ tablesGood (walked leafAll) live.hart.who 0x2000
    ∧ ¬ tablesGood { walked leafAll with poison := [0x13000 / 32] } live.hart.who 0x1008
    ∧ walk (walked leafAll) 0 0x2000 = none
    ∧ walk (walked leafAll) 0 0x1008 = some (leafAll, 12)
    ∧ permits leafAll .load false = true ∧ wfield leafAll 10 2 = 0 ∧ wfield leafAll 12 40 * 4096 + 0x1008 % 2 ^ 12 < contextTop
    ∧ walk (walked leafNoRead) 0 0x1008 = some (leafNoRead, 12) ∧ permits leafNoRead .load false = false
    ∧ (walk (walked leafTop) 0 0x1000 = some (leafTop, 12) ∧ contextTop ≤ wfield leafTop 12 40 * 4096 + 0x1000 % 2 ^ 12)
    ∧ (walk (walked leafPeer) 0 0x1000 = some (leafPeer, 12) ∧ wfield leafPeer 10 2 = 1 ∧ permits leafPeer .store false = true)
    ∧ 0xFC0000000000 ≤ (0xFE0000000000 : Word).toNat ∧ (0xFE0000000000 : Word).toNat < 2 ^ 48 := by
  unfold uncached tablesGood
  decide

/-- The machine after the current hart's address is translated. -/
def resolved (s : State) (va : Word) (k : Kind) : State := (resolve s s.hart.who va k).2

/-- A doubleword of the data page is reached in local memory outside class L, free of errors. -/
theorem witness_reach_phys :
    Reaches live 0x4008 8 .load (.phys 0x4008 0 false) (resolved live 0x4008 .load)
    ∧ Reaches live 0x4008 8 .store (.phys 0x4008 0 false) (resolved live 0x4008 .store)
    ∧ Reaches live 0x4008 8 .amo (.phys 0x4008 0 false) (resolved live 0x4008 .amo)
    ∧ addrOf (liveX [(5, 0x4000)]) 5 8 = 0x4008 ∧ (0x4008 : Word).toNat % 8 = 0 ∧ poisoned live 0x4008 8 = false ∧ Memory.wf live.mem = true
    ∧ homeFree live 0x4008 :=
  ⟨⟨rfl, rfl, rfl⟩, ⟨rfl, rfl, rfl⟩, ⟨rfl, rfl, rfl⟩, by decide, by decide, by decide, by decide, fun _ h => nomatch h⟩

/-- The small machine with bank 16 of cluster 0, in scratch mode, held by context 0. -/
def banked : State := { live with banks := [(16, { Bank.reset 16 with holder := .ctx 0 })] }

/-- A doubleword at the end of bank 16 of the cluster window is reached in the bank. -/
theorem witness_reach_bank :
    Reaches banked 0xFD0000085FF8 8 .load (.bank 16 0x5FF8) banked ∧ Reaches banked 0xFD0000085FF8 8 .store (.bank 16 0x5FF8) banked
    ∧ (0xFD0000085FF8 : Word).toNat % 8 = 0 ∧ 0x5FF8 + 8 ≤ 24576 ∧ bankBad (banked.bank 16) 0x5FF8 8 = false :=
  ⟨⟨rfl, rfl, rfl⟩, ⟨rfl, rfl, rfl⟩, by decide⟩

/-- The supervisor page is another place that answers reads and writes. -/
theorem witness_reach_page :
    Reaches liveSup 0xFC0000000008 8 .load (.page 8) liveSup ∧ Reaches liveSup 0xFC0000000008 8 .store (.page 8) liveSup
    ∧ (∃ b u, readPlace liveSup 0xFC0000000008 (.page 8) 8 .load = .ok b u)
    ∧ ∃ v u, writePlace liveSup 0xFC0000000008 (.page 8) (leBytes 8 5) = .ok v u :=
  ⟨⟨rfl, rfl, rfl⟩, ⟨rfl, rfl, rfl⟩, ⟨_, _, rfl⟩, ⟨_, _, rfl⟩⟩

/-- Atomics: aligned operands of both widths, with nothing to release; a link that holds and one that does not. -/
theorem witness_atomics :
    (0x4008 : Word).toNat % formBytes { dbl := true, aq := true, rl := true } = 0 ∧ homeFree live 0x4008 ∧ mayRelease { dbl := true, aq := true, rl := true } live
    ∧ (0x4004 : Word).toNat % formBytes { dbl := false, aq := false, rl := false } = 0 ∧ mayRelease { dbl := false, aq := false, rl := false } live
    ∧ live.hart.link = none
    ∧ (let s := { live.withHart (fun h => { h with link := some (0x4008 / 128) }) with linkTable := [linkEntry live true 0 (0x4008 / 128) false] }
       s.hart.link = some (0x4008 / 128) ∧ ∃ e ∈ s.linkTable, e.same (linkEntry s true 0 0 false) = true ∧ e.line = 0x4008 / 128 ∧ e.intact = true) :=
  ⟨by decide, fun _ h => (nomatch h), fun _ => rfl, by decide, fun h => (nomatch h), rfl, by decide⟩

/-- A release annotation leaves the address where it was. -/
theorem witness_release : Reaches (letGo { dbl := true, aq := true, rl := true } live) 0x4008 8 .amo (.phys 0x4008 0 false)
    (resolved (letGo { dbl := true, aq := true, rl := true } live) 0x4008 .amo) := ⟨rfl, rfl, rfl⟩

/-- A misaligned address, and one whose page is not mapped for the access. -/
theorem witness_bad_access :
    (addrOf live 0 3).toNat % 8 ≠ 0 ∧ (addrOf live 0 0x7F0).toNat % 8 = 0
    ∧ (resolve live live.hart.who (addrOf live 0 0x7F0) .load).1.toOption = none
    ∧ (resolve live live.hart.who (addrOf live 0 0x7F0) .store).1.toOption = none
    ∧ (liveX [(5, 0x4003)]).getX 5 ≠ 0 ∧ ((liveX [(5, 0x4003)]).getX 5).toNat % formBytes { dbl := false, aq := false, rl := false } ≠ 0 := by decide

/-! #### Traps, returns, the SYSTEM group -/

/-- A hart that can take a trap; one in its handler, one without a vector; and a core that halts on EBREAK. -/
theorem witness_traps :
    CanTrap live ∧ (live.core live.hart.core).dEbh = false
    ∧ (¬ CanTrap (live.withHart (fun h => { h with tact := true })) ∧ (live.ctx live.hart.ctx).state = .running)
    ∧ (¬ CanTrap (live.withHart (fun h => { h with stvec := 0 })) ∧ dumpFits live live.hart.ctx = false
        ∧ dumpFits (live.modCtx 0 (fun c => { c with dumpsize := 0x1000 })) live.hart.ctx = true)
    ∧ ((live.modCore 0 (fun c => { c with dEbh := true })).core live.hart.core).dEbh = true := by
  refine ⟨?_, ?_, ⟨?_, ?_⟩, ?_, ?_⟩ <;> first | decide | (unfold CanTrap; decide)

/-- Returns to an aligned address and to one with bit 1 set, in both modes. -/
theorem witness_returns :
    (liveSup.hart.sup = true ∧ liveSup.hart.sepc.getLsbD 1 = false)
    ∧ (let s := liveSup.withHart (fun h => { h with sepc := 0x1002 }); s.hart.sup = true ∧ s.hart.sepc.getLsbD 1 = true)
    ∧ (live.hart.sup = false ∧ live.hart.uepc.getLsbD 1 = false)
    ∧ (let s := live.withHart (fun h => { h with uepc := 0x1002 }); s.hart.sup = false ∧ s.hart.uepc.getLsbD 1 = true) := by decide

/-- Every instruction of the table of wrong modes, in the mode that makes it illegal. -/
theorem witness_wrong_mode :
    (∃ p ∈ illegalTable 0 5 6 live, p.1 = .tret ∧ p.2) ∧ (∃ p ∈ illegalTable 0 5 6 liveSup, p.1 = .uiret ∧ p.2)
    ∧ (∃ p ∈ illegalTable 0 5 6 live, p.1 = .ctrig 5 ∧ p.2) ∧ (∃ p ∈ illegalTable 0 5 6 live, p.1 = .sfenceT 5 6 ∧ p.2)
    ∧ (6 ≤ ((liveX [(6, 7)]).getX 6).toNat % 8) ∧ ∃ p ∈ illegalTable 0 5 6 live, p.1 = .hwait 0 0 6 ∧ p.2 := by
  refine ⟨⟨_, .head _, rfl, rfl⟩, ⟨_, .tail _ (.head _), rfl, rfl⟩, ⟨_, .tail _ (.tail _ (.head _)), rfl, rfl⟩,
    ⟨_, .tail _ (.tail _ (.tail _ (.head _))), rfl, .inl rfl⟩, by decide,
    ⟨_, .tail _ (.tail _ (.tail _ (.tail _ (.head _)))), rfl, by decide⟩⟩

/-- SFENCE.T with nothing in flight; entries that each of its forms drops and keeps. -/
theorem witness_sfence :
    liveSup.hart.sup = true ∧ (liveSup.getX 6).toNat % 8 < 6 ∧ ((liveX [(6, 5)]).getX 6).toNat % 8 < 6 ∧ liveSup.hart.disp = [] ∧ seenAll liveSup = true
    ∧ (∃ e ∈ liveSup.tlb, fenceCovers (liveX [(5, 0x4000)]) 5 e ∧ wbit e.leaf 5 = false) ∧ ∃ e ∈ liveSup.tlb, ¬ fenceCovers (liveX [(5, 0x4000)]) 5 e := by
  unfold fenceCovers; decide

/-- HWAIT: an interrupt that can be taken, a wait that has run out and one that has not, and a doubleword that is not the expected one. -/
theorem witness_hwait :
    (live.withHart (fun h => { h with uieIe := true, xhandler := 0x1000, xfers := [{ id := 1, state := .done, code := 0, addr := 0, irq := true, handler := 0x1000, sort := false, order := 0 }] })).hart.interruptible = true
    ∧ live.hart.interruptible = false
    ∧ (let s := { live.withHart (fun h => { h with wait := .hwait none 0 5 0 }) with pkg := { Pkg.reset with dtime := 0x100000 } }
       s.hart.interruptible = false ∧ s.hart.wait = .hwait none 0 5 0 ∧ 2 ^ 20 ≤ (s.pkg.dtime - 0).toNat)
    ∧ (live.pkg.dtime - hwaitStart live).toNat < 2 ^ 20
    ∧ ((5 : Reg) ≠ 0 ∧ ((liveX [(5, 0x4008), (6, 1)]).getX 5).toNat % 8 = 0 ∧ (Place.phys 0x4008 0 false).near = true) := by decide

/-- What HWAIT finds: no word named; a word that is not the one expected, and one that is. -/
theorem witness_hwait_address :
    Looks live 0 none live
    ∧ (let s := liveX [(5, 0x4008), (6, 1)]
       ∃ n u, Looks s 5 (some n) u ∧ n ≠ (s.getX 6).toNat ∧ n = (s.getX 7).toNat ∧ u.hart.interruptible = false ∧ (u.pkg.dtime - hwaitStart s).toNat < 2 ^ 20) :=
  ⟨.inl ⟨rfl, rfl, rfl⟩, _, _, .inr ⟨by decide, by decide, _, _, _, rfl, rfl, rfl, rfl⟩, by decide⟩

/-- Legal accesses that wait for nothing: `vkeep`, `dtime` read, and `sstatus` in supervisor mode. -/
theorem witness_csr :
    csrIllegal live 0x801 true = false ∧ csrWaits live 0x801 true = false ∧ csrIllegal live 0xC01 false = false ∧ csrWaits live 0xC01 true = false
    ∧ csrIllegal liveSup 0x500 true = false ∧ csrWaits liveSup 0x500 true = false := by decide

/-- Illegal accesses: a number no table gives, a write of a read-only one, and a user access to a supervisor number. -/
theorem witness_csr_illegal :
    csrRead live 0x7FF = none ∧ 0xC01 / 1024 = 3
    ∧ (live.hart.sup = false ∧ 0x500 / 256 % 4 = 1 ∧ ¬ (0x520 ≤ 0x500 ∧ 0x500 ≤ 0x52F ∧ false = false)) := by decide


/-! #### Fences, tickets, lengths and shapes -/

/-- A posted write of the hart that has failed. -/
def failedWrite : Posted := { seq := 0, tag := 3, port := 2, va := 0x6000, line := 0, failed := true }

/-- The small machine with a transfer of the hart in flight. -/
def running0 : Xfer := { id := 7, state := .running, code := 0, addr := 0, irq := false, handler := 0, sort := false, order := 0 }

/-- Fences of each clause: nothing to order; writes that are complete; scopes 0, 4 and 5. -/
theorem witness_fences :
    ((2 : BitVec 4) ≠ 0 ∧ (1 : BitVec 4) ≠ 0 ∧ (5 : BitVec 3) ≠ 0 ∧ (4 : BitVec 3).toNat < 5) ∧ NoTransfers live ∧ fenceReady live = true ∧ seenAll live = true ∧ live.hart.posted = []
    ∧ ((2 : BitVec 4).getLsbD 0 = false ∧ (2 : BitVec 4).getLsbD 2 = false) ∧ (1 : BitVec 4).getLsbD 0 = true ∧ (4 : BitVec 4).getLsbD 2 = true := by
  exact ⟨by decide, (fun _ h => nomatch h), by decide⟩

/-- A fence of system scope after a failed write, which its context reports or traps. -/
theorem witness_failed_fence :
    let s := live.withHart (fun h => { h with posted := [failedWrite] })
    fenceReady s = true ∧ firstPosted s.hart.posted = some failedWrite ∧ (∃ q ∈ s.hart.posted, q.failed = true)
    ∧ ((s.writeHome.postLinkFault s.hart.ctx 2 0x6000).ctx 0).ftrap = false
    ∧ (((s.modCtx 0 (fun c => { c with ftrap := true })).writeHome.postLinkFault s.hart.ctx 2 0x6000).ctx 0).ftrap = true := by decide

/-- VISWAIT for a time that has come and for one that has not. -/
theorem witness_viswait : (live.getX 0).toNat ≤ live.pkg.dtime.toNat ∧ live.pkg.dtime.toNat < ((liveX [(5, 1)]).getX 5).toNat := by decide

/-- The small machine with its data page of class L. -/
def liveL : State := { live with tlb := [pageOf 1 0x5B, pageOf 4 0x1D7] }

/-- STV to local memory and to a class L line. -/
theorem witness_stv :
    Reaches (liveX [(5, 0x4008)]) ((liveX [(5, 0x4008)]).getX 5) 8 .store (.phys 0x4008 0 false) (resolved (liveX [(5, 0x4008)]) 0x4008 .store)
    ∧ Reaches liveL 0x4008 8 .store (.phys 0x4008 1 false) (resolved liveL 0x4008 .store)
    ∧ ((liveX [(5, 0x4008)]).getX 5).toNat % 8 = 0 ∧ (6 : Reg) ≠ 0 ∧ ∀ p ∈ liveL.hart.posted, p.seq + 1 ≠ liveL.hart.postSeq + 1 :=
  ⟨⟨rfl, rfl, rfl⟩, ⟨rfl, rfl, rfl⟩, by decide, by decide, fun p h => by cases h⟩

/-- The small machine with a ticket of tile 3 issued and not served, and another. -/
def ticketed : State :=
  { liveX [(5, 3), (6, 0), (7, 1), (8, 2)] with tickets := [{ ctx := 0, cl := 0, tile := 3, t := 2, s := 0, holder := none }] }

/-- The small machine with the tile held here, and held on another cluster too. -/
def holding : State :=
  { ticketed.withHart (fun h => { h with held := [3] }) with
    tickets := [ { ctx := 0, cl := 0, tile := 3, t := 2, s := 0, holder := some (live.hart.gang, live.hart.rank) }
               , { ctx := 0, cl := 9, tile := 3, t := 5, s := 4, holder := some (live.hart.gang, live.hart.rank) } ] }

/-- TKDONE of a tile held here alone, and here and on another cluster. -/
theorem witness_held :
    3 ∈ holding.hart.held ∧ fenceReady holding = true ∧ (heldPair holding 3).cl = clusterOf holding.hart.core
    ∧ heldPair { holding with tickets := holding.tickets.drop 1 } 3 = { ctx := 0, cl := 9, tile := 3, t := 5, s := 4, holder := some (live.hart.gang, live.hart.rank) } := by
  decide

/-- The small machine with `n` pairs of another context in cluster 0. -/
def crowded (n : Nat) : State :=
  { liveX [(5, 3)] with tickets := List.replicate n { ctx := 1, cl := 0, tile := 0, t := 1, s := 0, holder := none } }

/-- So many pairs leave no room for one more. -/
theorem crowded_full (n : Nat) (h : 528384 ≤ n) : needPair (crowded n) 3 = none := by
  have hc : clusterOf (crowded n).hart.core = 0 := (by decide : clusterOf (liveX [(5, 3)]).hart.core = 0)
  have ht : (crowded n).tickets = List.replicate n { ctx := 1, cl := 0, tile := 0, t := 1, s := 0, holder := none } := rfl
  have full : ticketsFull (crowded n) = true := by
    have hs : spilledPairs (crowded n)
        = (n - 4096) + ((List.range 31).map (fun c => ((crowded n).tickets.filter (fun t => t.cl.toNat = c + 1)).length - 4096)).sum := by
      rw [spilledPairs, List.range_succ_eq_map, List.map_cons, List.sum_cons, ht]
      simp [List.filter_replicate, Function.comp_def]
    simp only [ticketsFull, hc, ht, List.filter_replicate, decide_true, if_true, List.length_replicate, Bool.decide_and, Bool.and_eq_true, decide_eq_true_eq]
    omega
  have keep : (crowded n).discardPairs = crowded n := by
    have : ((1 : BitVec 32) ≠ 0) := by decide
    simp [State.discardPairs, ht, List.filter_replicate]
    rfl
  have none' : (crowded n).tickets.any (fun t => ticketKey t (crowded n).hart.ctx (clusterOf (crowded n).hart.core) 3) = false := by
    have : (crowded n).hart.ctx = 0 := rfl
    simp [ht, ticketKey, this]
  simp only [needPair, keep, full, none', Bool.false_eq_true, not_true_eq_false, or_self, if_true, if_false]

/-- A cluster without room for a pair, and a tile id with a bit above bit 19 set. -/
theorem witness_ticket_faults :
    (∃ s, s.getX 5 = (3 : BitVec 20).setWidth 64 ∧ needPair s 3 = none) ∧ 2 ^ 20 ≤ (0x100000 : Word).toNat :=
  ⟨⟨crowded 528384, rfl, crowded_full _ (Nat.le_refl _)⟩, by decide⟩

/-- Tickets: room for a pair; the ticket that is served, a later one that has been issued, one that has not, a tile held and one not held. -/
theorem witness_tickets :
    (ticketed.getX 5).toNat = (3 : BitVec 20).toNat ∧ ticketsFull ticketed = false
    ∧ (ticketOf ticketed 3).s = (ticketed.getX 6).setWidth 32 ∧ (ticketOf ticketed 3).t ≠ (ticketOf ticketed 3).s
    ∧ (((ticketed.getX 7).setWidth 32 : BitVec 32) - (ticketOf ticketed 3).s).toNat < ((ticketOf ticketed 3).t - (ticketOf ticketed 3).s).toNat
    ∧ (ticketOf ticketed 3).s ≠ (ticketed.getX 7).setWidth 32
    ∧ ((ticketOf ticketed 3).t - (ticketOf ticketed 3).s).toNat ≤ (((ticketed.getX 8).setWidth 32 : BitVec 32) - (ticketOf ticketed 3).s).toNat
    ∧ 3 ∈ (ticketed.withHart (fun h => { h with held := [3] })).hart.held ∧ fenceReady ticketed = true ∧ 3 ∉ ticketed.hart.held := by decide

/-- Element widths on both sides of the boundary, and a hart whose convoys have drained. -/
theorem witness_lengths :
    (3 : BitVec 3).toNat ≤ 3 ∧ 3 < (4 : BitVec 3).toNat ∧ live.hart.disp = []
    ∧ (live.cluster (clusterOf live.hart.core)).bankCmd = [] ∧ (512 ∈ vlbSizes ∧ live.hart.vlb.toNat ≤ 512 ∧ 512 ≤ lengthFor (2 ^ 64) 2 0 ∧ fits live 512 = true)
    ∧ (∀ v ∈ vlbSizes, live.hart.vlb.toNat ≤ v → fits { live with harts := List.replicate 31 { hart0 with vlb := 8192 } } v = false)
    ∧ lengthFor 4 2 0 ≤ live.hart.vlb.toNat ∧ live.hart.vlb.toNat < lengthFor (2 ^ 64) 2 0 ∧ live.hart.grow = false
    ∧ (live.withHart (fun h => { h with grow := true })).hart.grow = true
    ∧ (live.hart.vkeep.getLsbD 0 = true ∨ live.hart.vlb = live.hart.vlb) ∧ (live.withHart (fun h => { h with vkeep := 1 })).hart.vkeep.getLsbD 0 = true := by
  decide

/-- Strips: a hart that keeps no records, and one that does, with an earlier record due. -/
theorem witness_strips :
    hart0.srEn = false ∧ (let h := { hart0 with srEn := true, stripDue := [{ pc := 0x1000, vrows := 1, vcols := 4, vl := 4, ahead := 0, counts := some (1, 2, 3, 4) }] }
      h.srEn = true ∧ h.disp = [] ∧ ∀ d ∈ h.stripDue, d.counts ≠ none) := by decide

/-- A change of length, and none; registers of both kinds. -/
theorem witness_length_changes :
    (256 : Nat) = hart0.vlb.toNat ∧ (512 : Nat) ≠ hart0.vlb.toNat ∧ hart0.vkeep.getLsbD 0 = false ∧ { hart0 with vkeep := 1 }.vkeep.getLsbD 0 = true := by decide

/-- A hart with a tile whose operands ask TSHAPE for 4 x 8 x 32 of bf16, and one without; an aligned code table that can be read. -/
theorem witness_shape :
    let s := (liveX [(5, 0x0000002000080004), (6, 0x231), (7, 0x4000)]).withHart (fun h => { h with tiles := 1 })
    s.hart.disp = [] ∧ shapeGrant s.hart.vlb.toNat s.hart.tiles.toNat (s.getX 5) (s.getX 6) = some (4, 8, 32, 1)
    ∧ shapeGrant live.hart.vlb.toNat live.hart.tiles.toNat (s.getX 5) (s.getX 6) = none
    ∧ (s.getX 7).toNat % 64 = 0 ∧ decoding s s.hart.ctx s.hart.ref = false ∧ (s.getX 6).toNat % 4 < 4 := by decide

/-- See `witness_shape`. -/
theorem witness_ctload : ∃ bs u, hartLoad (liveX [(7, 0x4000)]) ((liveX [(7, 0x4000)]).getX 7) 64 = .ok bs u ∧ decoding u u.hart.ctx u.hart.ref = false :=
  ⟨_, _, rfl, rfl⟩

/-! #### Queues, calls, gangs and engines -/

/-- A record of zeros. -/
def rec0 : TaskRec := { w0 := 0, w1 := 0, w2 := 0, w3 := 0, w4 := 0, w5 := 0, w6 := 0, w7 := 0 }

/-- A queue of context 0 with room for two records. -/
def queue0 : Queue :=
  { ctx := 0, weight := 1, pri := 3, policy := 2, keyed := false, binned := false, opn := false, cap := 7, aff := 0xFFFFFFFF, hwm := 2, recs := [] }

/-- A gang of one rank, placed from queue 0 in cluster 0. -/
def gang0 : Gang :=
  { ctx := 0, queue := 0, policy := 2, weight := 1, prio := 3, task := rec0, pc := 0x1000, cluster := 0, grant := 256, banks := [], barGen := 0
    barArr := 0, ended := 0, userEnd := true, frame := none, framed := 0, savedRanks := 0, saved := false, boundary := 0, preempt := false
    carry := [], placedAt := 0, orphan := false, aff := 0xFFFFFFFF, binned := false }

/-- The small machine with the hart's gang and a queue; x5 names the queue, x6 the data page, x7 the queue with a counter there. -/
def tasked : State :=
  { liveX [(5, 0), (6, 0x4000), (7, 0x40800000)] with gangs := [(0, gang0)], queues := [(0, queue0)] }

/-- The record at x6, as a load of it answers. -/
theorem witness_push_loads : ∃ b u, hartLoad tasked (tasked.getX 6) 64 = .ok b u ∧ (tasked.getX 6).toNat % 64 = 0 ∧ taskOk (plainTask (taskOfBytes b)) = true
    ∧ pushTarget u 0 = .ok queue0 ∧ queue0.recs.length < queue0.hwm.toNat
    ∧ ∃ pa v, counterAt u (BitVec.ofNat 64 ((tasked.getX 7).toNat / 2 ^ 16)) = .ok pa v ∧ memNat v.mem pa 8 = 0 ∧ v.park.length < 262144 :=
  ⟨_, _, rfl, by decide, by decide, rfl, by decide, _, _, rfl, by decide, by decide⟩

/-- A bad record; a queue that does not exist; a full queue; a counter that is not 0. -/
theorem witness_push_refusals :
    taskOk (plainTask (taskOfBytes (leBytes 64 0x38000000))) = false ∧ (∃ r, pushTarget live 0 = .error r)
    ∧ ({ queue0 with hwm := 0 } : Queue).hwm.toNat ≤ queue0.recs.length
    ∧ memNat (memWrite [] 0x4080 [1]) 0x4080 8 ≠ 0 := by
  refine ⟨by decide, ⟨_, rfl⟩, by decide, by decide⟩

/-- XCALL: a good descriptor and a bad one, a free entry, and a full send queue. -/
theorem witness_xcall :
    (∃ b u, hartLoad tasked (tasked.getX 6) 64 = .ok b u ∧ descBad (taskOfBytes b) = false ∧ tget (u.core u.hart.core).send 0 = none)
    ∧ descBad (taskOfBytes (leBytes 64 8)) = true
    ∧ (let e : SendEntry := sendEntryOf tasked rec0 0 1 0
       ∀ i < 64, (tget ((tasked.modCore 0 (fun c => { c with send := (List.range 64).map (fun i => (i, e)) })).core 0).send i).isSome = true) := by
  refine ⟨⟨_, _, rfl, rfl, rfl⟩, by decide, by decide⟩

/-- A gang: its last rank at the barrier, one that is not, one with a rank that has ended; and the end of a gang's last and of another rank. -/
theorem witness_gang :
    tget tasked.gangs tasked.hart.gang.toNat = some gang0 ∧ fenceReady tasked = true ∧ gang0.ended = 0
    ∧ gang0.barArr ||| BitVec.twoPow 64 tasked.hart.rank.toNat = ranksOf gang0 ∧ gang0.savedRanks = 0 ∧ tasked.hart.wait ≠ .gbar
    ∧ (let g := { gang0 with task := { rec0 with w0 := 0x10000 } }; ranksOf g ≠ g.barArr ||| BitVec.twoPow 64 tasked.hart.rank.toNat)
    ∧ ({ gang0 with ended := 2 } : Gang).ended ≠ 0 ∧ preempted tasked 2 = false ∧ exitReady tasked = true := by decide

/-- A block that each engine accepts, one that it does not, and room for it. -/
theorem witness_transfers :
    streamOk rec0 = true ∧ streamOk { rec0 with w6 := 1 } = false ∧ sortOk { rec0 with w4 := 0x1000, w6 := 1 } = true ∧ pairsOf { rec0 with w4 := 0x1000, w6 := 1 } ≠ 0
    ∧ sortOk { rec0 with w6 := 0x8000000000000000 } = false
    ∧ (∀ x ∈ tasked.hart.xfers, x.id ≠ 0) ∧ tasked.hart.xfers.length < 32 ∧ (tasked.core 0).arit.length < 32
    ∧ (engQueue tasked (.stream 0)).length < 32 ∧ (engQueue tasked (.sort 0)).length < 32 ∧ tasked.hart.vl ≠ 0
    ∧ ¬ (List.replicate 32 running0).length < 32 := by decide

/-- A transfer in the stream engine of cluster 0. -/
def eng0 : EngXfer :=
  { core := 0, slot := 0, ctx := 0, gang := 0, rank := 0, id := 7, sup := false, blk := rec0, count := 4, rel := { gang := 0, rank := 0, seq := 0, v := 0, xfers := [] }
    started := true, left := [2, 3], cur := none, cancelled := false, replies := [], waiting := false, maxV := 0 }

/-- The small machine with that transfer running. -/
def moving : State := { (tasked.modCluster 0 (fun c => { c with stream := [eng0] })).withHart (fun h => { h with xfers := [running0] }) with ctxs := tasked.ctxs }

/-- ESTAT and ECANCEL: of no entry, of an ended transfer with and without an interrupt, and of a running one. -/
theorem witness_status :
    moving.hart.xfers.find? (fun x => x.id = 5) = none ∧ moving.hart.xfers.find? (fun x => x.id = 7) = some running0 ∧ running0.state = .running
    ∧ ({ running0 with state := .done } : Xfer).state ≠ .running ∧ ({ running0 with state := .done } : Xfer).irq = false
    ∧ runningXfer moving 7 = some (.stream 0, eng0) ∧ eng0.left ≠ [] ∧ eng0.waiting = false ∧ eng0.maxV ≤ moving.pkg.dtime.toNat ∧ moving.hart.live = true := by
  decide


/-! #### Vector instructions -/

/-- A body without modifiers and without a mask: type, destination and sources. -/
def body (ty : BitVec 6) (vd vs1 vs2 : Reg) : Body :=
  { mod := 0, grp := 0, ty := ty, pol := false, men := false, msk := 0, vs3 := 0, vs2 := vs2, vs1 := vs1, vd := vd }

/-- Legal integer operands for every line of the tables: one body of type i32 or i16 for each, aligned for the wider groups. -/
theorem witness_vector_integers : ∀ p ∈ intForms ++ wideForms ++ narrowForms ++ cmpForms ++ moveForms,
    ∃ b, p.Legal b hart0 ∧ p.Fits b hart0 ∧ p.performs hart0 := by
  simp only [intForms, wideForms, narrowForms, cmpForms, moveForms, List.forall_mem_append, List.forall_mem_cons, List.not_mem_nil, false_implies,
    implies_true, and_true, VForm.Legal, VForm.Fits, VForm.performs, wrapForm, intForm, wideForm, narrowForm, cmpForm, indexForm, only, oneSecond]
  and_intros <;> first
    | exact ⟨body 24 8 4 6, by decide⟩
    | exact ⟨body 24 1 4 6, by decide⟩
    | exact ⟨body 22 8 4 6, by decide⟩
    | exact ⟨body 24 8 4 0, by decide⟩
    | exact ⟨body 24 8 0 0, by decide⟩
    | exact ⟨{ body 24 8 4 6 with men := true }, by decide⟩

/-- Legal FP32 operands for every line of the tables, under rounding mode 0; a mode that names none. -/
theorem witness_vector_floats : (∀ p ∈ floatForms ++ specialForms, ∃ b, p.Legal b hart0 ∧ p.Fits b hart0 ∧ p.performs hart0)
    ∧ ¬ modeOk { hart0 with vfrm := 5 } := by
  refine ⟨?_, by unfold modeOk; decide⟩
  simp only [floatForms, specialForms, List.forall_mem_append, List.forall_mem_cons, List.not_mem_nil, false_implies,
    implies_true, and_true, VForm.Legal, VForm.Fits, VForm.performs, floatForm, fusedForm, signForm, fcmpForm, specialForm, only, oneSecond, modeOk]
  and_intros <;> first
    | exact ⟨body 20 8 4 6, by decide⟩
    | exact ⟨body 20 1 4 6, by decide⟩
    | exact ⟨body 20 8 4 0, by decide⟩

/-- Legal types for every conversion; the block forms take 32 elements. -/
theorem witness_conversions : ∀ p ∈ convertForms, ∃ b h, p.Legal b h ∧ p.Fits b h ∧ p.performs h := by
  simp only [convertForms, List.forall_mem_cons, List.not_mem_nil, false_implies, implies_true, and_true, VForm.Legal, VForm.Fits,
    VForm.performs, convertForm, blockForm, only, modeOk, wholeBlocks]
  and_intros
  · exact ⟨{ body 20 8 4 0 with mod := 0x180 }, hart0, by decide⟩
  · exact ⟨{ body 24 8 4 0 with mod := 0x140 }, hart0, by decide⟩
  · exact ⟨{ body 20 8 4 0 with mod := 0x120 }, hart0, by decide⟩
  · exact ⟨{ body 20 8 4 0 with mod := 0x0A0, vs3 := 3 }, { hart0 with vl := 32, vcols := 32 }, by decide⟩
  · exact ⟨{ body 18 8 4 0 with mod := 0x140 }, hart0, by decide⟩
  · exact ⟨{ body 28 8 4 0 with mod := 0x140 }, hart0, by decide⟩
  · exact ⟨{ body 18 8 4 0 with mod := 0x144 }, hart0, by decide⟩
  · exact ⟨{ body 10 8 4 0 with mod := 0x140, vs3 := 3 }, { hart0 with vl := 32, vcols := 32 }, by decide⟩


/-- Legal operands for every permutation, reduction and mask instruction: with an odd and an even number of columns for VPSWAP, whole blocks for the
block sum, and type 0 and group 8 for the mask instructions. -/
theorem witness_permutations : ∀ p ∈ permForms ++ reduceForms, ∃ b h, p.Legal b h ∧ p.Fits b h ∧ p.performs h := by
  simp only [permForms, reduceForms, List.forall_mem_append, List.forall_mem_cons, List.not_mem_nil, false_implies, implies_true, and_true, VForm.Legal,
    VForm.Fits, VForm.performs, permForm, slideForm, reduceForm, freduceForm, logicForm, countForm, swapForm, maskFixed, only, oneSecond, modeOk]
  and_intros <;> first
    | exact ⟨body 24 8 4 0, hart0, by decide⟩
    | exact ⟨body 24 8 4 0, { hart0 with vl := 3, vcols := 3 }, by decide⟩
    | exact ⟨body 24 8 4 6, hart0, by decide⟩
    | exact ⟨body 20 8 4 6, hart0, by decide⟩
    | exact ⟨body 24 8 0 0, hart0, by decide⟩
    | exact ⟨{ body 24 8 0 0 with mod := 1 }, hart0, by decide⟩
    | exact ⟨{ body 10 8 4 6 with vs3 := 7 }, { hart0 with vl := 32, vcols := 32 }, by decide⟩
    | exact ⟨{ body 0 1 2 3 with grp := 3 }, hart0, by decide⟩
    | exact ⟨{ body 0 1 2 0 with grp := 3 }, hart0, by decide⟩
    | exact ⟨{ body 0 5 0 0 with grp := 3, men := true, msk := 1 }, hart0, by decide⟩

/-- A hart with one tile and a shape of `m` x `n` x 32 of two types (16 R425). -/
def shaped1 (kind : BitVec 2) (fa fb : BitVec 5) : Hart :=
  { hart0 with tiles := 1, tsm := 4, tsn := 4, tsk := 32, tfKind := kind, tfA := fa, tfB := fb }

/-- Shapes and operands for every matrix instruction: of bf16 and of INT8, and of FP64. -/
theorem witness_matrix : ∀ p ∈ tileForms ++ productForms, ∃ b h, p.Legal b h ∧ p.Fits b h ∧ p.performs h := by
  simp only [tileForms, productForms, List.forall_mem_append, List.forall_mem_cons, List.not_mem_nil, false_implies, implies_true, and_true, VForm.Legal,
    VForm.Fits, VForm.performs, matrixForm, rowsFit, only]
  and_intros
  · exact ⟨body 0 0 0 0, shaped1 1 18 18, by decide⟩
  · exact ⟨body 20 8 0 0, shaped1 1 18 18, by decide⟩
  · exact ⟨body 20 0 4 0, shaped1 1 18 18, by decide⟩
  · exact ⟨{ body 1 16 1 2 with vs3 := 3 }, shaped1 2 0 0, by decide⟩
  · exact ⟨{ body 0 0 0 8 with mod := 0x01C }, shaped1 1 18 18, by decide⟩
  · exact ⟨body 0 0 4 5, shaped1 1 18 18, by decide⟩

/-- The shape of FP64, whose elements TREAD reads as 64 bits; an integer shape for the sum of TMAC; and the same operands where an audit samples. -/
theorem witness_matrix_more :
    (∃ p ∈ tileForms, ∃ b, wOf b = 64 ∧ p.Legal b (shaped1 3 21 21) ∧ p.Fits b (shaped1 3 21 21))
    ∧ ((shaped1 2 0 0).tfKind = 2 ∧ (shaped1 2 0 0).tfSat = false ∧ (shaped1 2 0 0).tsk.toNat % 32 = 0)
    ∧ ({ shaped1 1 18 18 with asampN := 1 } : Hart).asampN ≠ 0 := by
  refine ⟨⟨_, .tail _ (.head _), body 21 8 0 0, rfl, ?_⟩, by decide, by decide⟩
  simp only [VForm.Legal, VForm.Fits, rowsFit, only]
  decide

/-- VCOVER with a mask destination that is not its mask. -/
theorem witness_cover : ∃ b, coverForm.Legal b hart0 ∧ coverForm.Fits b hart0 ∧ coverForm.performs hart0 := by
  refine ⟨{ body 24 8 4 0 with vs3 := 10, mod := 0x200 }, ?_⟩
  simp only [coverForm, VForm.Legal, VForm.Fits, VForm.performs, only]
  decide


/-- The member goes on. -/
def okRes (r : MRes) : Bool :=
  match r with
  | .ok _ => true
  | _ => false

/-- See `okRes`. -/
theorem okRes_spec (r : MRes) (h : okRes r = true) : ∃ u, r = .ok u := by
  cases r <;> first | exact ⟨_, rfl⟩ | cases h

/-- The small machine with a FIFO bank that holds 16 bytes for the hart's gang, code table 0 of context 0 with the one code 0, and a coded block of
23 bytes at 0x4000; x10 is the data page, x11 a stride, x12 the bank. -/
def memLive : State :=
  { liveX [(10, 0x4000), (11, 8), (12, 0xFD0000080000)] with
    banks := [(16, { Bank.reset 16 with mode := .F, holder := .gang 0 0, tail := 16, arr := 16 })]
    ctxs := [(0, { Ctx.empty with state := .running, run := true, codes := [{ bytes := some (leBytes 64 1), gen := 1, loading := none }] })]
    mem := [(0x4000, 23)] }

/-- A hart of `memLive` with 32 elements. -/
def memLive32 : State := memLive.withHart (fun h => { h with vl := 32, vcols := 32 })

/-- A hart of `memLive` with one element. -/
def memLive1 : State := memLive.withHart (fun h => { h with vl := 1, vcols := 1 })

/-- A legal body for a member whose base is x10. -/
def mbody (ty : BitVec 6) (vd vs1 vs2 : Reg) (mod : BitVec 12) : Body := { body ty vd vs1 vs2 with vs3 := 10, mod := mod }

/-- The hypotheses of a line of the tables of vector memory instructions, together. -/
def MemWitness (p : MForm) (b : Body) (s : State) : Prop :=
  (s.hart.disp = [] ∧ Clean s.hart) ∧ p.toV.Legal b s.hart ∧ p.toV.Fits b s.hart ∧ doneMark s.hart = false ∧ s.hart.vl ≠ 0 ∧ ∃ u, p.run b (p.issued b s) = .ok u

/-- See `MemWitness`. -/
theorem memWitness (p : MForm) (b : Body) (s : State) (h1 : s.hart.disp = [] ∧ Clean s.hart) (h2 : p.toV.Legal b s.hart) (h3 : p.toV.Fits b s.hart)
    (h4 : doneMark s.hart = false) (h5 : s.hart.vl ≠ 0) (h6 : okRes (p.run b (p.issued b s)) = true) : MemWitness p b s :=
  ⟨h1, h2, h3, h4, h5, okRes_spec _ h6⟩

/-- The plain loads and stores, the segments and the blocks: operands and a state whose accesses answer. -/
theorem witness_vector_loads_stores : ∀ p ∈ plainMemForms ++ groupMemForms, ∃ b s, MemWitness p b s := by
  simp only [plainMemForms, groupMemForms, List.forall_mem_append, List.forall_mem_cons,
    List.not_mem_nil, false_implies, implies_true, and_true]
  and_intros
  · exact ⟨mbody 24 8 0 0 0, memLive, memWitness _ _ _ (by unfold Clean; decide) (by simp only [MForm.toV, VForm.Legal, loadForm, storeForm, indexed, memOnly, only, wholeBlocks, blockMemForm, modeOk]; decide)
      (by simp only [MForm.toV, VForm.Fits, loadForm, storeForm, indexed, memOnly, only, wholeBlocks, blockMemForm, modeOk]; decide) (by decide) (by decide) (by decide +kernel)⟩
  · exact ⟨mbody 24 8 0 11 0, memLive, memWitness _ _ _ (by unfold Clean; decide) (by simp only [MForm.toV, VForm.Legal, loadForm, storeForm, indexed, memOnly, only, wholeBlocks, blockMemForm, modeOk]; decide)
      (by simp only [MForm.toV, VForm.Fits, loadForm, storeForm, indexed, memOnly, only, wholeBlocks, blockMemForm, modeOk]; decide) (by decide) (by decide) (by decide +kernel)⟩
  · exact ⟨mbody 24 8 0 4 0x080, memLive, memWitness _ _ _ (by unfold Clean; decide) (by simp only [MForm.toV, VForm.Legal, loadForm, storeForm, indexed, memOnly, only, wholeBlocks, blockMemForm, modeOk]; decide)
      (by simp only [MForm.toV, VForm.Fits, loadForm, storeForm, indexed, memOnly, only, wholeBlocks, blockMemForm, modeOk]; decide) (by decide) (by decide) (by decide +kernel)⟩
  · exact ⟨mbody 24 8 0 0 0, memLive, memWitness _ _ _ (by unfold Clean; decide) (by simp only [MForm.toV, VForm.Legal, loadForm, storeForm, indexed, memOnly, only, wholeBlocks, blockMemForm, modeOk]; decide)
      (by simp only [MForm.toV, VForm.Fits, loadForm, storeForm, indexed, memOnly, only, wholeBlocks, blockMemForm, modeOk]; decide) (by decide) (by decide) (by decide +kernel)⟩
  · exact ⟨mbody 24 8 0 11 0, memLive, memWitness _ _ _ (by unfold Clean; decide) (by simp only [MForm.toV, VForm.Legal, loadForm, storeForm, indexed, memOnly, only, wholeBlocks, blockMemForm, modeOk]; decide)
      (by simp only [MForm.toV, VForm.Fits, loadForm, storeForm, indexed, memOnly, only, wholeBlocks, blockMemForm, modeOk]; decide) (by decide) (by decide) (by decide +kernel)⟩
  · exact ⟨mbody 24 8 0 4 0x080, memLive1, memWitness _ _ _ (by unfold Clean; decide) (by simp only [MForm.toV, VForm.Legal, loadForm, storeForm, indexed, memOnly, only, wholeBlocks, blockMemForm, modeOk]; decide)
      (by simp only [MForm.toV, VForm.Fits, loadForm, storeForm, indexed, memOnly, only, wholeBlocks, blockMemForm, modeOk]; decide) (by decide) (by decide) (by decide +kernel)⟩
  · exact ⟨mbody 24 8 0 0 0x040, memLive, memWitness _ _ _ (by unfold Clean; decide) (by simp only [MForm.toV, VForm.Legal, loadForm, storeForm, indexed, memOnly, only, wholeBlocks, blockMemForm, modeOk]; decide)
      (by simp only [MForm.toV, VForm.Fits, loadForm, storeForm, indexed, memOnly, only, wholeBlocks, blockMemForm, modeOk]; decide) (by decide) (by decide) (by decide +kernel)⟩
  · exact ⟨mbody 24 8 0 0 0x040, memLive, memWitness _ _ _ (by unfold Clean; decide) (by simp only [MForm.toV, VForm.Legal, loadForm, storeForm, indexed, memOnly, only, wholeBlocks, blockMemForm, modeOk]; decide)
      (by simp only [MForm.toV, VForm.Fits, loadForm, storeForm, indexed, memOnly, only, wholeBlocks, blockMemForm, modeOk]; decide) (by decide) (by decide) (by decide +kernel)⟩
  · exact ⟨mbody 10 8 3 0 0, memLive32, memWitness _ _ _ (by unfold Clean; decide) (by simp only [MForm.toV, VForm.Legal, loadForm, storeForm, indexed, memOnly, only, wholeBlocks, blockMemForm, modeOk]; decide)
      (by simp only [MForm.toV, VForm.Fits, loadForm, storeForm, indexed, memOnly, only, wholeBlocks, blockMemForm, modeOk]; decide) (by decide) (by decide) (by decide +kernel)⟩
  · exact ⟨mbody 10 8 3 0 0, memLive32, memWitness _ _ _ (by unfold Clean; decide) (by simp only [MForm.toV, VForm.Legal, loadForm, storeForm, indexed, memOnly, only, wholeBlocks, blockMemForm, modeOk]; decide)
      (by simp only [MForm.toV, VForm.Fits, loadForm, storeForm, indexed, memOnly, only, wholeBlocks, blockMemForm, modeOk]; decide) (by decide) (by decide) (by decide +kernel)⟩
  · exact ⟨mbody 17 8 3 0 0, memLive32, memWitness _ _ _ (by unfold Clean; decide) (by simp only [MForm.toV, VForm.Legal, loadForm, storeForm, indexed, memOnly, only, wholeBlocks, blockMemForm, modeOk]; decide)
      (by simp only [MForm.toV, VForm.Fits, loadForm, storeForm, indexed, memOnly, only, wholeBlocks, blockMemForm, modeOk]; decide) (by decide) (by decide) (by decide +kernel)⟩

/-- The widening load, the narrowing store, the fault-only-first load, and the gang streams. -/
theorem witness_vector_other_memory : ∀ p ∈ otherMemForms, ∃ b s, MemWitness p b s := by
  simp only [otherMemForms, List.forall_mem_append, List.forall_mem_cons,
    List.not_mem_nil, false_implies, implies_true, and_true]
  and_intros
  · exact ⟨mbody 24 8 0 0 (4 <<< 6), memLive, memWitness _ _ _ (by unfold Clean; decide) (by simp only [MForm.toV, VForm.Legal, loadForm, storeForm, indexed, memOnly, only, wholeBlocks, blockMemForm, modeOk]; decide)
      (by simp only [MForm.toV, VForm.Fits, loadForm, storeForm, indexed, memOnly, only, wholeBlocks, blockMemForm, modeOk]; decide) (by decide) (by decide) (by decide +kernel)⟩
  · exact ⟨mbody 24 8 0 0 (4 <<< 6), memLive, memWitness _ _ _ (by unfold Clean; decide) (by simp only [MForm.toV, VForm.Legal, loadForm, storeForm, indexed, memOnly, only, wholeBlocks, blockMemForm, modeOk]; decide)
      (by simp only [MForm.toV, VForm.Fits, loadForm, storeForm, indexed, memOnly, only, wholeBlocks, blockMemForm, modeOk]; decide) (by decide) (by decide) (by decide +kernel)⟩
  · exact ⟨mbody 24 8 0 13 0, memLive, memWitness _ _ _ (by unfold Clean; decide) (by simp only [MForm.toV, VForm.Legal, loadForm, storeForm, indexed, memOnly, only, wholeBlocks, blockMemForm, modeOk]; decide)
      (by simp only [MForm.toV, VForm.Fits, loadForm, storeForm, indexed, memOnly, only, wholeBlocks, blockMemForm, modeOk]; decide) (by decide) (by decide) (by decide +kernel)⟩
  · exact ⟨{ body 24 8 0 13 with vs3 := 12 }, memLive, memWitness _ _ _ (by unfold Clean; decide) (by simp only [MForm.toV, VForm.Legal, loadForm, storeForm, indexed, memOnly, only, wholeBlocks, blockMemForm, modeOk]; decide)
      (by simp only [MForm.toV, VForm.Fits, loadForm, storeForm, indexed, memOnly, only, wholeBlocks, blockMemForm, modeOk]; decide) (by decide) (by decide) (by decide +kernel)⟩
  · exact ⟨{ body 24 8 0 4 with mod := 0x280 }, memLive, memWitness _ _ _ (by unfold Clean; decide) (by simp only [MForm.toV, VForm.Legal, loadForm, storeForm, indexed, memOnly, only, wholeBlocks, blockMemForm, modeOk]; decide)
      (by simp only [MForm.toV, VForm.Fits, loadForm, storeForm, indexed, memOnly, only, wholeBlocks, blockMemForm, modeOk]; decide) (by decide) (by decide) (by decide +kernel)⟩

/-- The linked gather and scatter. -/
theorem witness_vector_links : ∀ p ∈ linkMemForms, ∃ b s, MemWitness p b s := by
  simp only [linkMemForms, List.forall_mem_append, List.forall_mem_cons,
    List.not_mem_nil, false_implies, implies_true, and_true]
  and_intros
  · exact ⟨mbody 24 8 0 4 0x080, memLive1, memWitness _ _ _ (by unfold Clean; decide) (by simp only [MForm.toV, VForm.Legal, loadForm, storeForm, indexed, memOnly, only, wholeBlocks, blockMemForm, modeOk]; decide)
      (by simp only [MForm.toV, VForm.Fits, loadForm, storeForm, indexed, memOnly, only, wholeBlocks, blockMemForm, modeOk]; decide) (by decide) (by decide) (by decide +kernel)⟩
  · exact ⟨mbody 24 8 0 4 0x280, memLive1, memWitness _ _ _ (by unfold Clean; decide) (by simp only [MForm.toV, VForm.Legal, loadForm, storeForm, indexed, memOnly, only, wholeBlocks, blockMemForm, modeOk]; decide)
      (by simp only [MForm.toV, VForm.Fits, loadForm, storeForm, indexed, memOnly, only, wholeBlocks, blockMemForm, modeOk]; decide) (by decide) (by decide) (by decide +kernel)⟩

/-- The vector atomics, which answer the old value where bit 11 of the modifiers asks for it. -/
theorem witness_vector_atomics : ∀ p ∈ vamoForms, ∃ b s, MemWitness p b s := by
  simp only [vamoForms, List.forall_mem_append, List.forall_mem_cons,
    List.not_mem_nil, false_implies, implies_true, and_true]
  and_intros
  · exact ⟨mbody 24 0 12 4 0x280, memLive1, memWitness _ _ _ (by unfold Clean; decide) (by simp only [MForm.toV, VForm.Legal, vamoForm, memOnly, only]; decide)
      (by simp only [MForm.toV, VForm.Fits, vamoForm, memOnly, only]; decide) (by decide) (by decide) (by decide +kernel)⟩
  · exact ⟨mbody 24 0 12 4 0x280, memLive1, memWitness _ _ _ (by unfold Clean; decide) (by simp only [MForm.toV, VForm.Legal, vamoForm, memOnly, only]; decide)
      (by simp only [MForm.toV, VForm.Fits, vamoForm, memOnly, only]; decide) (by decide) (by decide) (by decide +kernel)⟩
  · exact ⟨mbody 24 0 12 4 0x280, memLive1, memWitness _ _ _ (by unfold Clean; decide) (by simp only [MForm.toV, VForm.Legal, vamoForm, memOnly, only]; decide)
      (by simp only [MForm.toV, VForm.Fits, vamoForm, memOnly, only]; decide) (by decide) (by decide) (by decide +kernel)⟩
  · exact ⟨mbody 24 0 12 4 0x280, memLive1, memWitness _ _ _ (by unfold Clean; decide) (by simp only [MForm.toV, VForm.Legal, vamoForm, memOnly, only]; decide)
      (by simp only [MForm.toV, VForm.Fits, vamoForm, memOnly, only]; decide) (by decide) (by decide) (by decide +kernel)⟩
  · exact ⟨mbody 24 0 12 4 0x280, memLive1, memWitness _ _ _ (by unfold Clean; decide) (by simp only [MForm.toV, VForm.Legal, vamoForm, memOnly, only]; decide)
      (by simp only [MForm.toV, VForm.Fits, vamoForm, memOnly, only]; decide) (by decide) (by decide) (by decide +kernel)⟩
  · exact ⟨mbody 24 0 12 4 0x280, memLive1, memWitness _ _ _ (by unfold Clean; decide) (by simp only [MForm.toV, VForm.Legal, vamoForm, memOnly, only]; decide)
      (by simp only [MForm.toV, VForm.Fits, vamoForm, memOnly, only]; decide) (by decide) (by decide) (by decide +kernel)⟩
  · exact ⟨mbody 24 0 12 4 0x280, memLive1, memWitness _ _ _ (by unfold Clean; decide) (by simp only [MForm.toV, VForm.Legal, vamoForm, memOnly, only]; decide)
      (by simp only [MForm.toV, VForm.Fits, vamoForm, memOnly, only]; decide) (by decide) (by decide) (by decide +kernel)⟩
  · exact ⟨mbody 24 0 12 4 0x280, memLive1, memWitness _ _ _ (by unfold Clean; decide) (by simp only [MForm.toV, VForm.Legal, vamoForm, memOnly, only]; decide)
      (by simp only [MForm.toV, VForm.Fits, vamoForm, memOnly, only]; decide) (by decide) (by decide) (by decide +kernel)⟩
  · exact ⟨mbody 24 8 12 4 0xA80, memLive1, memWitness _ _ _ (by unfold Clean; decide) (by simp only [MForm.toV, VForm.Legal, vamoForm, memOnly, only]; decide)
      (by simp only [MForm.toV, VForm.Fits, vamoForm, memOnly, only]; decide) (by decide) (by decide) (by decide +kernel)⟩
  · exact ⟨mbody 20 8 12 4 0xA80, memLive1, memWitness _ _ _ (by unfold Clean; decide) (by simp only [MForm.toV, VForm.Legal, vamoForm, memOnly, only]; decide)
      (by simp only [MForm.toV, VForm.Fits, vamoForm, memOnly, only]; decide) (by decide) (by decide) (by decide +kernel)⟩
  · exact ⟨mbody 20 0 12 4 0x280, memLive1, memWitness _ _ _ (by unfold Clean; decide) (by simp only [MForm.toV, VForm.Legal, vamoForm, memOnly, only]; decide)
      (by simp only [MForm.toV, VForm.Fits, vamoForm, memOnly, only]; decide) (by decide) (by decide) (by decide +kernel)⟩
  · exact ⟨mbody 20 0 12 4 0x280, memLive1, memWitness _ _ _ (by unfold Clean; decide) (by simp only [MForm.toV, VForm.Legal, vamoForm, memOnly, only]; decide)
      (by simp only [MForm.toV, VForm.Fits, vamoForm, memOnly, only]; decide) (by decide) (by decide) (by decide +kernel)⟩
  · exact ⟨mbody 20 0 12 4 0x280, memLive1, memWitness _ _ _ (by unfold Clean; decide) (by simp only [MForm.toV, VForm.Legal, vamoForm, memOnly, only]; decide)
      (by simp only [MForm.toV, VForm.Fits, vamoForm, memOnly, only]; decide) (by decide) (by decide) (by decide +kernel)⟩

/-- The graphics instructions, with every element masked off and, for the ray tests, with some. -/
theorem witness_graphics : ∀ p ∈ graphicsForms, ∃ b s, MemWitness p b s := by
  simp only [graphicsForms, List.forall_mem_append, List.forall_mem_cons,
    List.not_mem_nil, false_implies, implies_true, and_true]
  and_intros
  · exact ⟨{ mbody 20 16 4 8 0 with men := true }, memLive1, memWitness _ _ _ (by unfold Clean; decide) (by simp only [MForm.toV, VForm.Legal, graphicsForm, only]; decide)
      (by simp only [MForm.toV, VForm.Fits, graphicsForm, only]; decide) (by decide) (by decide) (by decide +kernel)⟩
  · exact ⟨mbody 20 16 1 8 0x200, memLive1, memWitness _ _ _ (by unfold Clean; decide) (by simp only [MForm.toV, VForm.Legal, graphicsForm, only]; decide)
      (by simp only [MForm.toV, VForm.Fits, graphicsForm, only]; decide) (by decide) (by decide) (by decide +kernel)⟩
  · exact ⟨mbody 20 16 1 8 0x200, memLive1, memWitness _ _ _ (by unfold Clean; decide) (by simp only [MForm.toV, VForm.Legal, graphicsForm, only]; decide)
      (by simp only [MForm.toV, VForm.Fits, graphicsForm, only]; decide) (by decide) (by decide) (by decide +kernel)⟩



/-- A read-modify-write that stores and one that does not, at local memory. -/
theorem witness_element : ∃ r r' : Rmw, Reaches live 0x4008 r.bytes .amo (.phys 0x4008 0 false) (resolved live 0x4008 .amo)
    ∧ poisoned live 0x4008 r.bytes = false ∧ (r.act (memNat live.mem 0x4008 r.bytes)).1 = some 5
    ∧ r'.bytes = r.bytes ∧ (r'.act (memNat live.mem 0x4008 r'.bytes)).1 = none :=
  ⟨{ code := 8, dbl := true, a := 5, b := 0, act := fun v => (some 5, v) }, { code := 8, dbl := true, a := 5, b := 0, act := fun v => (none, v) },
    ⟨rfl, rfl, rfl⟩, by decide, rfl, rfl, rfl⟩

/-! #### Convoys -/

/-- The lone convoy of `vadd.i32 v8, v4, v6` (12 Tables 12.5, 12.6, 12.8). -/
def addHdr : BitVec 32 := 0x000000AB
/-- See `addHdr`. -/
def addBody : Word := encodeBody 0 0 (body 24 8 4 6)

/-- The convoy as dispatched at the hart's pc. -/
def addConvoy : Convoy := { pc := 0x1000, hdr := addHdr, bodies := [addBody], cap := hart0.captured, done := 0, restart := 0, issued := false }

/-- The small machine with the dispatched convoy, and with it issued. -/
def convoyed (issued : Bool) : State := live.withHart (fun h => { h with pc := 0x100C, disp := [{ addConvoy with issued := issued }] })

/-- Dispatch: a convoy that passes its checks, with room, and with a queue that is not free; one that fails a check, before and after older ones have
drained; counts of 0 and 7, and reserved bits. -/
theorem witness_dispatch :
    live.hart.rep = none ∧ convoyChecks addHdr [addBody] hart0.captured 0 0 hart0 = none
    ∧ (live.hart.cvUse.1 &&& memberBits addHdr = 0 ∧ live.hart.cvUse.2 &&& memberBits addHdr = 0) ∧ live.hart.disp = []
    ∧ (let h := { hart0 with disp := List.replicate 4 addConvoy }; ¬ (h.disp = [] ∨ (h.disp.length < 4 ∧ h.vstart = 0 ∧ h.cvRestart = 0 ∧ h.cvDone = 0 ∧ h.cvMember = 0)))
    ∧ (let h := { hart0 with disp := [addConvoy] }; h.disp.length < 4 ∧ h.disp ≠ [])
    ∧ convoyChecks addHdr [0x3F] { hart0.captured with vl := 65536 } 0 0 hart0 = some (0x0D, 0, 0)
    ∧ (0x2B : BitVec 32).toNat / 2 ^ 7 % 8 = 0 ∧ (0x3AB : BitVec 32).toNat / 2 ^ 7 % 8 = 7 ∧ (0x400000AB : BitVec 32).toNat / 2 ^ 30 ≠ 0 := by
  decide

/-- Issue and drain: no convoy, one not issued and one issued, of the hart in core 0 slot 0. -/
theorem witness_issue :
    Is live live { core := 0, slot := 0 } ∧ Is (convoyed false) (convoyed false) { core := 0, slot := 0 }
    ∧ (convoyed false).hart.disp = [addConvoy] ∧ addConvoy.issued = false ∧ addConvoy.done = 0 ∧ addConvoy.restart = 0
    ∧ addConvoy.cap = (convoyed false).hart.captured ∧ Memory.wf (convoyed false).mem = true
    ∧ ({ (convoyed false).hart with pc := 0x1000 } : Hart).cvUse = (0, 0) ∧ (convoyed false).hart.vl ≠ 0
    ∧ memberCode (.vadd (body 24 8 4 6)) = some (0, 0, body 24 8 4 6) ∧ addConvoy.bodies = [encodeBody 0 0 (body 24 8 4 6)]
    ∧ (∃ v rest, (convoyed true).hart.disp = v :: rest ∧ v.issued = true) :=
  ⟨⟨rfl, rfl, rfl⟩, ⟨rfl, rfl, rfl⟩, rfl, rfl, rfl, rfl, by decide, rfl, by decide, by decide, rfl, rfl, _, _, rfl, rfl⟩

/-- See `witness_issue`: the member is one of the integer table. -/
theorem witness_issue_member : wrapForm .vadd (fun _ x y => (x : Int) + y) ∈ intForms ∧ (wrapForm .vadd (fun _ x y => (x : Int) + y)).make = .vadd :=
  ⟨List.mem_cons_self .., rfl⟩

/-! #### The service core -/

/-- Power, temperature and errors: a bridge that PERST# resets and a machine that it does not; throttling up, down and neither; a trip and none; a
granule with an uncorrectable error and one without. -/
theorem witness_power :
    (live.fab.bridge = true ∧ live.pkg.tripOut = false ∧ live.pkg.powered = true)
    ∧ ¬ ({ live.pkg with tripOut := true } : Pkg).tripOut = false
    ∧ (live.pkg.tthrot.toNat ≤ (95 : BitVec 8).toNat) ∧ live.pkg.pcap.toNat < 2001
    ∧ ((92 : BitVec 8).toNat + 3 ≤ live.pkg.tthrot.toNat ∧ 1999 < live.pkg.pcap.toNat)
    ∧ ((93 : BitVec 8).toNat < live.pkg.tthrot.toNat ∧ 1999 ≤ live.pkg.pcap.toNat ∧ live.pkg.tthrot.toNat < (93 : BitVec 8).toNat + 3)
    ∧ (live.pkg.ttrip ≤ (115 : BitVec 8) ∧ (95 : BitVec 8) < live.pkg.ttrip)
    ∧ live.pkg.ttrip ≤ 110 ∧ 109 < live.pkg.ttrip ∧ 64 / 32 ∈ ({ live with poison := [2] } : State).poison ∧ 64 / 32 ∉ live.poison := by decide

/-- Boot: done before, and to be done; what the signature and the version of an image are is the configuration's (log 2), and one of the clauses
holds whichever they are. -/
theorem witness_boot :
    live.pkg.bootState = 0 ∧ ({ live.pkg with bootState := 4 } : Pkg).bootState ≠ 0
    ∧ (¬ Signed live.pkg.flash ∨ (Signed live.pkg.flash ∧ ¬ (Config.imageSecver live.pkg.flash).toNat < live.pkg.minver.toNat)) :=
  ⟨by decide, by decide, (Classical.em _).symm.imp_right fun h => ⟨h, Nat.not_lt_zero _⟩⟩

/-- Staging and maintenance: none at work, one at work, and an idle and a busy cluster that is measured, for too long. -/
theorem witness_maintenance :
    (live.pkg.maint = false ∧ live.pkg.stage = false) ∧ ({ live.pkg with maint := true } : Pkg).maint = true ∧ ({ live.pkg with stage := true } : Pkg).stage = true
    ∧ (0x1008 : BitVec 16).toNat % 8 = 0 ∧ (0x1004 : BitVec 16).toNat % 8 ≠ 0 ∧ ((0x1000 : BitVec 16).toNat < 0x2000 ∧ (0xFFF : BitVec 16).toNat < 0x1000)
    ∧ (let s := { live with pkg := { live.pkg with maint := true, maintCl := some 3, dtime := 1000000000 }, clusters := [(3, { Cluster.empty with closed := some 0 })] }
       s.pkg.maintCl = some 3 ∧ clusterBusy s 3 = false ∧ s.pkg.maintCl ≠ some 4)
    ∧ (let s := { tasked with pkg := { live.pkg with maint := true, maintCl := some 0, dtime := 1000000000 }, clusters := [(0, { Cluster.empty with closed := some 0 })] }
       clusterBusy s 0 = true ∧ (s.cluster 0).closed = some 0 ∧ 0 + 1000000000 ≤ s.pkg.dtime.toNat)
    ∧ (live.cluster 0).closed = none := by decide

/-- Attestation: a bridge that runs its image, before and after the algorithms are agreed, and a machine that has not booted. -/
theorem witness_attestation :
    (let s := { live with pkg := { live.pkg with bootState := 4, keys := some (7, 5) } }
     (s.fab.bridge = true ∧ s.pkg.bootState = 4 ∧ s.pkg.keys ≠ none) ∧ s.pkg.spdmAlgos = false)
    ∧ ({ live.pkg with bootState := 4, keys := some (7, 5), spdmAlgos := true } : Pkg).spdmAlgos = true
    ∧ ¬ (live.fab.bridge = true ∧ live.pkg.bootState = 4 ∧ live.pkg.keys ≠ none)
    ∧ (1 : BitVec 3).toNat ≤ 1 ∧ 1 < (2 : BitVec 3).toNat ∧ (4 : BitVec 8).toNat ≤ 4 := by decide

/-! #### Links, packets and time -/

/-- The small machine as device 1 with port 2 in a state since time 0; its device time is `now`. -/
def linked (st : LinkState) (now : Word) : State :=
  { live with
    links := [(2, { Link.reset with state := st, width := 8 })], pkg := { live.pkg with bootState := 4, dtime := now }
    fab := { live.fab with devid := 1, route := [(2, 0x82)] } }

/-- A flit that carries nothing and acknowledges nothing that is known. -/
def idleFlit : Flit := mkFlit 0 0 0 0 false false 0

/-- Flits: links that are ACTIVE and not; with and without a replay, an owed credit, and a full retry buffer. -/
theorem witness_flits :
    ((linked .down 0).link 2).state ≠ .active ∧ ((linked .active 0).link 2).state = .active
    ∧ (((linked .active 0).link 2).rxDiscard = false ∧ ({ Link.reset with rxDiscard := true } : Link).rxDiscard = true)
    ∧ (flitGood idleFlit = true ∧ flitKind idleFlit = 0 ∧ ((linked .active 0).link 2).retry.any (fun p => p.1 = flitAck idleFlit) = false)
    ∧ ((linked .active 0).link 2).retry.any (fun p => p.1 = 5) = false
    ∧ (let r : List (BitVec 12 × Flit) := [(4, idleFlit), (5, idleFlit), (6, idleFlit)]
       r = [(4, idleFlit)] ++ (5, idleFlit) :: [(6, idleFlit)] ∧ (([(4, idleFlit)] : List (BitVec 12 × Flit)).headD (5, idleFlit)).1 + BitVec.ofNat 12 1 = 5)
    ∧ ((linked .active 0).link 2).rxOwed = [] ∧ (let l := { Link.reset with rxOwed := [(0, 3)], owedFor := 63 }; l.rxOwed ≠ [] ∧ 63 ≤ l.owedFor)
    ∧ Link.reset.owedFor < 63
    ∧ ({ Link.reset with replay := [idleFlit] } : Link).replay = idleFlit :: [] ∧ 1024 ≤ (List.replicate 1024 (0 : Nat)).length := by decide +kernel

/-- A packet to device `dst` with so many hops left, a host write acknowledge. -/
def packetTo (dst : BitVec 12) (hops : BitVec 4) : Packet :=
  { dst := dst, src := 5, cls := 3, op := 3, tag := 9, len := 0, ctx := 0, hops := hops, chan := 0, body := [0], port := 0 }

/-- Packets: malformed; for a neighbour, for this device, for another by a route and without one; at a device that has no id. -/
theorem witness_packets :
    packetOps ({ packetTo 2 3 with op := 9 } : Packet).cls.toNat ≤ 9 ∧ (packetOps (packetTo 2 3).cls.toNat > (packetTo 2 3).op.toNat ∧ (packetTo 2 3).dst ≠ 0xFFF)
    ∧ isNeighbour { packetTo 0xFFF 0 with cls := 5, op := 0 } = true
    ∧ ((packetTo 1 3).dst = (linked .active 0).fab.devid ∧ (linked .active 0).fab.devid ≠ 0xFFF)
    ∧ (isNeighbour (packetTo 2 3) = false ∧ live.fab.devid = 0xFFF)
    ∧ ((packetTo 2 3).dst ≠ (linked .active 0).fab.devid ∧ (tgetD (linked .active 0).fab.route 2 0).getLsbD 7 = true ∧ (packetTo 2 3).hops ≠ 0)
    ∧ (tgetD (linked .active 0).fab.route 3 0).getLsbD 7 = false ∧ (packetTo 2 0).hops = 0 := by decide

/-- Links in each state that an event moves, before and after each limit; lanes that make a link of 8 and of 4, and that make none. -/
theorem witness_links :
    (∀ st ∈ [LinkState.down, .detect, .train, .align, .param, .active, .retrain], ((linked st 0).link 2).state = st)
    ∧ (((8 : BitVec 8) = 8 ∧ (0xFF : BitVec 8) = 0xFF) ∧ (4 : BitVec 8) = 4 ∧ (0xF7 : BitVec 8) ≠ 0xFF ∧ (0xF7 : BitVec 8).toNat / 16 = 15)
    ∧ ((linked .down 0).fab.lnken.getLsbD 2 = true ∧ (linked .down 0).pkg.bootState = 4)
    ∧ ((0x77 : BitVec 8).toNat % 16 ≠ 15 ∧ (0x77 : BitVec 8).toNat / 16 ≠ 15)
    ∧ (((linked .train 100000000).link 2).since + 100000000 ≤ (linked .train 100000000).pkg.dtime.toNat
        ∧ (linked .train 99999999).pkg.dtime.toNat < ((linked .train 99999999).link 2).since + 100000000)
    ∧ (((linked .align 10000000).link 2).since + 10000000 ≤ (linked .align 10000000).pkg.dtime.toNat)
    ∧ (((linked .retrain 1000000).link 2).since + lrTicks (linked .retrain 1000000) ≤ (linked .retrain 1000000).pkg.dtime.toNat
        ∧ (linked .retrain 999999).pkg.dtime.toNat < ((linked .retrain 999999).link 2).since + lrTicks (linked .retrain 999999)) := by decide

/-- A request of a stamp exchange by port 2, and one by a route. -/
def stampReq : Request := { tag := 9, dst := 0xFFF, port := 2, since := 0, waiter := .stamp, lease := none }

/-- Time stamps and timeouts: no request with the tag, and one, of a bridge and of another device; before and after the limit. -/
theorem witness_times :
    ((linked .down 0).link 3).state ≠ .active ∧ isNeighbour { packetTo 0xFFF 0 with cls := 5, op := 0 } = true
    ∧ (∀ r ∈ live.fab.reqs, ¬ (r.tag = 9 ∧ r.waiter = .stamp ∧ r.port = 2)) ∧ (∀ r ∈ live.fab.reqs, r.tag ≠ 9)
    ∧ ((stampReq.tag = (packetTo 1 0).tag ∧ stampReq.waiter = .stamp ∧ stampReq.port = ({ packetTo 1 0 with port := 2 } : Packet).port)
        ∧ [stampReq] = [] ++ stampReq :: [])
    ∧ (live.fab.bridge = true ∧ ({ live.fab with bridge := false } : Fabric).bridge = false)
    ∧ (({ packetTo 1 0 with body := [0, 9, 100] } : Packet).body.getD 2 0).toNat ≤ 100 ∧ 100 < (({ packetTo 1 0 with body := [0, 9, 101] } : Packet).body.getD 2 0).toNat
    ∧ ((linked .active 1999999).pkg.dtime.toNat < stampReq.since + 2 * lrTicks (linked .active 1999999))
    ∧ (stampReq.dst ≠ (linked .active 2000000).fab.devid ∧ stampReq.since + 2 * lrTicks (linked .active 2000000) ≤ (linked .active 2000000).pkg.dtime.toNat) := by
  decide


/-! #### The fabric and the management block -/

/-- A packet from device 5 with a tag and some words, by port 2; with dst 0xFFF and hops 0 a neighbour's. -/
def packetIn (cls : BitVec 3) (op : BitVec 5) (dst : BitVec 12) (hops : BitVec 4) (words : List Word) : Packet :=
  { dst := dst, src := 5, cls := cls, op := op, tag := 9, len := 0, ctx := 0, hops := hops, chan := 0, body := words, port := 2 }

/-- A request of tag 9 to device 5 by port 2, and who waits for it. -/
def asked1 (w : Waiter) : Request := { tag := 9, dst := 5, port := 2, since := 0, waiter := w, lease := none }

/-- The machine of `linked` with one outstanding request. -/
def asking (w : Waiter) (now : Word) : State := { linked .active now with fab := { (linked .active now).fab with reqs := [asked1 w] } }

/-- A request that is the only one is the first that meets any condition it meets. -/
theorem firstReq_only (w : Waiter) (now : Word) (f : Request → Prop) (h : f (asked1 w)) : FirstReq (asking w now) f (asked1 w) [] :=
  ⟨[], [], rfl, rfl, h, fun _ h => (nomatch h)⟩

/-- The neighbour command: idle and busy; on a link that is ACTIVE and on one that is not; its answer, its timeout, and neither. -/
theorem witness_neighbour :
    (linked .active 0).fab.nbcmd.getLsbD 63 = false ∧ ({ live.fab with nbcmd := 0x8000000000000000 } : Fabric).nbcmd.getLsbD 63 = true
    ∧ ((linked .active 0).link (BitVec.ofNat 4 ((0x2000 : Word).toNat / 2 ^ 44))).state ≠ .active
    ∧ ((linked .active 0).link (BitVec.ofNat 4 ((0x200000000000 : Word).toNat / 2 ^ 44))).state = .active
    ∧ (∀ r ∈ live.fab.reqs, ¬ (r.waiter = .nbcmd ∧ r.tag = 9 ∧ r.port = 2)) ∧ (linked .active 0).fab.held = []
    ∧ (∀ r ∈ (asking .nbcmd 1999999).fab.reqs, r.waiter = .nbcmd → (1999999 : Word).toNat < r.since + 2 * lrTicks (asking .nbcmd 1999999))
    ∧ isNeighbour (packetIn 4 4 0xFFF 0 [7]) = true ∧ isNeighbour (packetIn 4 4 1 3 [7]) = false
    ∧ (∀ port : BitVec 4, (0xFFFF : BitVec 16).getLsbD port.toNat = false → ((linked .active 0).link port).state = .down)
    ∧ (0xFFFB : BitVec 16).getLsbD 2 = false := by decide

/-- See `witness_neighbour`. -/
theorem witness_neighbour_request :
    FirstReq (asking .nbcmd 0) (fun r => r.waiter = .nbcmd ∧ r.tag = (packetIn 4 1 1 3 [0, 7]).tag ∧ r.port = (packetIn 4 1 1 3 [0, 7]).port) (asked1 .nbcmd) []
    ∧ FirstReq (asking .nbcmd 2000000) (fun r => r.waiter = .nbcmd ∧ r.since + 2 * lrTicks (asking .nbcmd 2000000) ≤ (asking .nbcmd 2000000).pkg.dtime.toNat)
        (asked1 .nbcmd) [] :=
  ⟨firstReq_only _ _ _ (by decide), firstReq_only _ _ _ (by decide)⟩

/-- The management block: a booted bridge and one that is neither; aligned and other offsets; the top of the contexts' memory from both sides. -/
theorem witness_management :
    (linked .active 0).hostReady = true ∧ live.hostReady = false ∧ ((linked .active 0).fab.bridge = true ∧ (linked .active 0).pkg.bootState = 4)
    ∧ ((4 : BitVec 16).toNat % 8 ≠ 0 ∧ ({ live.fab with bridge := false } : Fabric).bridge = false ∧ (live.pkg.bootState ≠ 4 ∧ live.pkg.bootState ≠ 5))
    ∧ (live.pkg.mwbase.toNat + (8 : BitVec 15).toNat + (halfAt .high).1 + (halfAt .high).2 ≤ contextTop ∧ poisoned live 12 4 = false ∧ Memory.wf live.mem = true)
    ∧ contextTop < (0x7FE0000000 : Word).toNat + (0 : BitVec 15).toNat + (halfAt .whole).1 + (halfAt .whole).2
    ∧ (contextTop - 64 + 64 ≤ contextTop ∧ (leBytes 64 5).length = 64) ∧ contextTop < contextTop - 63 + 64
    ∧ tget live.queues 0 = none ∧ tget tasked.queues 0 = some queue0
    ∧ ((packetIn 4 0 0xFFF 0 [4]).body.headD 0).toNat % 8 ≠ 0 ∧ 0x8000 ≤ ((packetIn 4 0 0xFFF 0 [0x8000]).body.headD 0).toNat % 2 ^ 16
    ∧ (∃ x ∈ shownMgt live, ((packetIn 4 0 0xFFF 0 [0x300]).body.headD 0).toNat = x.1.toNat)
    ∧ (∃ x ∈ storedMgt, (packetIn 4 2 0xFFF 0 [0x300, 0x5000]).body = [x.1.setWidth 64, 0x5000])
    ∧ (∀ r ∈ live.fab.reqs, ¬ (r.tag = 9 ∧ r.dst = 5)) := by decide

/-- Answers to a read and to a write of a slot's register. -/
theorem witness_management_answers :
    FirstReq (asking (.slotMgmt false) 0) (fun r => r.tag = (packetIn 4 1 1 3 [0, 7]).tag ∧ r.dst = (packetIn 4 1 1 3 [0, 7]).src) (asked1 (.slotMgmt false)) []
    ∧ ((packetIn 4 1 1 3 [0, 7]).body.headD 0).toNat % 256 = 0 ∧ (asked1 (.slotMgmt false)).waiter = .slotMgmt false
    ∧ FirstReq (asking (.slotMgmt true) 0) (fun r => r.tag = (packetIn 4 3 1 3 [0]).tag ∧ r.dst = (packetIn 4 3 1 3 [0]).src) (asked1 (.slotMgmt true)) [] :=
  ⟨firstReq_only _ _ _ (by decide), by decide, rfl, firstReq_only _ _ _ (by decide)⟩

/-! #### Host packets and insertions -/

/-- Packets that leave: for this device, without an id or a route, by a held entry and by an open one. -/
theorem witness_leaves :
    (packetTo 1 15).dst = (linked .active 0).fab.devid ∧ ((packetTo 2 15).dst ≠ live.fab.devid ∧ live.fab.devid = 0xFFF)
    ∧ (tgetD (linked .active 0).fab.route 3 0).getLsbD 7 = false ∧ (linked .active 0).fab.devid ≠ 0xFFF
    ∧ ((tgetD (linked .active 0).fab.route 2 0).getLsbD 7 = true ∧ (tgetD (linked .active 0).fab.route 2 0).getLsbD 6 = false)
    ∧ ((0xC2 : BitVec 8).getLsbD 7 = true ∧ (0xC2 : BitVec 8).getLsbD 6 = true) := by decide

/-- Host packets: spans of 1 and 128 bytes that the bridge takes, and of 0 and 129 that it does not. -/
theorem witness_host_packets :
    ¬ hostAsks { linked .active 0 with fab := { (linked .active 0).fab with rejects := [(0x4000, 0x4001)] } } (packetIn 3 0 1 3 [0x0100000000004000])
    ∧ (hostAsks (linked .active 0) (packetIn 3 0 1 3 [0x0100000000004000]) ∧ hostAsks (linked .active 0) (packetIn 3 0 1 3 [0x8000000000004000]))
    ∧ ¬ hostAsks (linked .active 0) (packetIn 3 0 1 3 [0x4000]) ∧ ¬ hostAsks (linked .active 0) (packetIn 3 0 1 3 [0x8100000000004000]) := by
  unfold hostAsks
  decide

/-- Answers of the host to a hart's load, to a hart's posted write, and at the bridge to a hart and to another device. -/
theorem witness_host_answers :
    let r : HartRef := { core := 0, slot := 0 }
    let w : Posted := { seq := 0, tag := 9, port := 2, va := 0x6000, line := 0, failed := false }
    FirstReq (asking (.hart r) 0) (fun q => q.tag = (packetIn 3 1 1 3 [0, 7]).tag ∧ q.dst = (packetIn 3 1 1 3 [0, 7]).src) (asked1 (.hart r)) []
    ∧ (asked1 (.hart r)).lease = none
    ∧ (let s := (asking (.write r) 0).withHart (fun h => { h with posted := [w] })
       FirstReq s (fun q => q.tag = (packetIn 3 3 1 3 [0]).tag ∧ q.dst = (packetIn 3 3 1 3 [0]).src) (asked1 (.write r)) []
       ∧ ((packetIn 3 3 1 3 [0]).body.headD 0).toNat % 256 = 0 ∧ s.hart.live = true ∧ s.hart.ref = r ∧ s.hart.posted = [w] ∧ w.tag = (asked1 (.write r)).tag
       ∧ w.failed = false ∧ ∀ rd, s.hart.wait ≠ .stv rd none)
    ∧ (∀ x ∈ [Waiter.hart r, .hostRead 5 3],
        FirstReq { asking x 0 with fab := { (asking x 0).fab with devid := 5 } } (fun q => q.tag = 9 ∧ q.dst = 5) (asked1 x) []) :=
  ⟨firstReq_only _ _ _ (by decide), rfl, ⟨⟨[], [], rfl, rfl, by decide, fun _ h => (nomatch h)⟩, by decide, rfl, rfl, rfl, rfl, rfl, fun _ h => (nomatch h)⟩,
    fun x _ => ⟨[], [], rfl, rfl, ⟨rfl, rfl⟩, fun _ h => (nomatch h)⟩⟩

/-- Insertions: whole and aligned, and not; none waiting, one that waits for a write of the host's, one that goes; a slot without a device. -/
theorem witness_insertions :
    (linked .active 0).hostReady = true ∧ live.hostReady = false ∧ ((64 : BitVec 12).toNat % 64 = 0 ∧ (8 : BitVec 12).toNat % 64 ≠ 0) ∧ live.insertions = []
    ∧ (∃ r ∈ (asking (.slotMgmt true) 0).fab.reqs, r.waiter = .slotMgmt true ∧ r.tag ∈ [(9 : BitVec 10)])
    ∧ (∀ r ∈ (asking (.slotMgmt true) 0).fab.reqs, r.waiter = .slotMgmt true → r.tag ∉ ([] : List (BitVec 10)))
    ∧ (let x : Insertion := { slot := 0, queue := 0, task := rec0, after := [], vis := 5 }
       (linked .active 4).pkg.dtime.toNat < x.vis ∧ x.vis ≤ (linked .active 5).pkg.dtime.toNat ∧ [x] = x :: [])
    ∧ ((1 : BitVec 4) ≠ 0 ∧ (tgetD live.fab.grpmap 1 0).getLsbD 63 = false) := by decide

/-- Arrivals: a call's packet, one from a device that does not bridge; no queue, room in one, and a record that is not well formed. -/
theorem witness_insertion_arrivals :
    ((packetIn 2 0 1 3 [0]).body.headD 0).getLsbD 32 = false ∧ ((packetIn 2 0 1 3 [0x100000000]).body.headD 0).getLsbD 32 = true
    ∧ (packetIn 2 0 1 3 []).src ≠ live.fab.master ∧ (packetIn 2 0 1 3 []).src = ({ live.fab with master := 5 } : Fabric).master
    ∧ (packetIn 2 0 1 3 (0x100000000 :: wordsOf rec0)).body.tail = wordsOf rec0 ∧ tget live.queues 0 = none ∧ tget tasked.queues 0 = some queue0
    ∧ (tasked.ctx queue0.ctx).state = .running ∧ taskOk rec0 = true ∧ queue0.recs.length < 2 ^ (queue0.cap.toNat + 4)
    ∧ taskOk { rec0 with w0 := 0x1C000000 &&& 0x7FFFFFFFFF } = false := by decide

/-! #### Contexts -/

/-- The small machine with context 3 in a state. -/
def ctxIn (x : Ctx) : State := { linked .active 0 with ctxs := [(3, x)] }

/-- The small machine with context 3 in a state and a gang of it that is resident. -/
def ctxWith (x : Ctx) : State := { ctxIn x with gangs := [(0, { gang0 with ctx := 3 })] }

/-- A context in every state, with and without a stop that is asked for, with and without resident gangs. -/
theorem witness_contexts :
    (∀ st ∈ [CtxState.free, .stopped, .running, .resetting, .dumping, .dead], ((ctxIn { Ctx.empty with state := st }).ctx 3).state = st)
    ∧ (linked .active 0).pkg.bootState = 4 ∧ live.pkg.bootState ≠ 4
    ∧ (let x := (ctxIn { Ctx.empty with state := .running, run := true }).ctx 3; x.state = .running ∧ x.run = true ∧ x.stopPending = false)
    ∧ (let x := (ctxIn { Ctx.empty with state := .running, stopPending := true }).ctx 3; x.state = .running ∧ x.run = false ∧ x.stopPending = true) := by
  decide

/-- See `witness_contexts`. -/
theorem witness_context_gangs : (∀ x, ¬ HasGangs (ctxIn x) 3) ∧ ∀ x, HasGangs (ctxWith x) 3 :=
  ⟨fun _ ⟨_, h, _⟩ => (nomatch h), fun _ => ⟨_, List.mem_cons_self .., rfl, rfl⟩⟩

/-- A reset that its dump holds up, one that need not wait, and one whose writes are left. -/
theorem witness_context_reset :
    (let s := { ctxIn { Ctx.empty with state := .dumping } with dumpCtx := some 3 }; (s.ctx 3).state = .dumping ∧ s.dumpCtx = some 3)
    ∧ (ctxIn { Ctx.empty with state := .dumping }).dumpCtx ≠ some 3 ∧ ¬ ResetWaits (ctxIn { Ctx.empty with state := .resetting }) 3
    ∧ ResetWaits { ctxIn { Ctx.empty with state := .resetting } with
        ltransit := [{ core := 0, slot := 0, ctx := 3, gang := 0, rank := 0, seq := 0, pa := 0, da := false, data := [], v := 0, performed := false
                       foreign := false }] } 3
    ∧ Sorted (ctxIn { Ctx.empty with state := .resetting }).queues ∧ Sorted (ctxIn { Ctx.empty with state := .resetting }).banks := by
  refine ⟨by decide, by decide, ?_, .inl (.inl ⟨_, List.mem_cons_self .., rfl, rfl⟩), .nil, .nil⟩
  rintro ((⟨w, h, -⟩ | ⟨w, h, -⟩) | ⟨w, h, -⟩ | ⟨w, h, -⟩ | ⟨w, h, -, n⟩)
  all_goals first | exact n rfl | cases h

/-- A context with a queue whose records have no error. -/
theorem witness_reset_records :
   (∀ p ∈ ([(0, { queue0 with ctx := 3, recs := [{ task := rec0, pc := none, pusher := 3, rel := none, version := 0, sau := false, bad := false }] })] : Table Queue), p.2.ctx = 3 → ∀ r ∈ p.2.recs, r.bad = false)
    ∧ ∀ k ∈ (ctxIn { Ctx.empty with state := .resetting }).park, k.bad = false := by decide

/-- Translations: no invalidation and one; an entry that one names and one that it does not; a miss that is queued, one that is not, and a full queue;
a walk that finds a page and one that finds none. -/
theorem witness_translations :
    live.ctx 0 = { Ctx.empty with state := .running, run := true } ∧ (live.ctx 0).tlbinv = []
    ∧ Names 1 0 (pageOf 4 0xD7) ∧ ¬ Names 0x5000 0 (pageOf 4 0xD7)
    ∧ (¬ (∃ m ∈ (live.die 0).missQ, m.ctx = 0 ∧ m.va.toNat / 2 ^ 12 % 2 ^ 36 = (0x4000 : Word).toNat / 2 ^ 12 % 2 ^ 36) ∧ (live.die 0).missQ.length < 1024)
    ∧ (∃ m ∈ [({ ctx := 0, va := 0x4008 } : Miss)], m.ctx = 0 ∧ m.va.toNat / 2 ^ 12 % 2 ^ 36 = (0x4000 : Word).toNat / 2 ^ 12 % 2 ^ 36)
    ∧ (∀ r ∈ walkReads (walked leafAll) (fun _ => none) 0x1008 3 (rootOf (walked leafAll) 0), poisoned (walked leafAll) r.2 8 = false)
    ∧ ((walked leafAll).die 0).walks = [] ∧ walk (walked leafAll) 0 0x2000 = none ∧ walk (walked leafAll) 0 0x1008 = some (leafAll, 12) := by
  unfold Names
  decide


/-! #### Calls -/

/-- A call of the hart to context 3 of device 1, with the given order in its queue. -/
def call0 (order : Nat) : SendEntry := sendEntryOf tasked { rec0 with w0 := 0x300100000000 } 5 1 order

/-- The small machine with calls in core 0's send queue. -/
def calling (es : List (Nat × SendEntry)) : State := tasked.modCore 0 (fun c => { c with send := es })

/-- No call; one that is sent and one that is not; one whose writes are complete; before and after the limit. -/
theorem witness_calls_leave :
    tget ((calling []).core 0).send 5 = none ∧ tget ((calling [(5, call0 1)]).core 0).send 5 = some (call0 1) ∧ (call0 1).sent = false
    ∧ writesDone (calling [(5, call0 1)]) (call0 1).rel = true ∧ ({ call0 1 with sent := true } : SendEntry).sent = true
    ∧ (call0 1).since + 2 * lrTicks tasked ≤ ({ tasked with pkg := { tasked.pkg with dtime := 2000000 } } : State).pkg.dtime.toNat
    ∧ tasked.pkg.dtime.toNat < (call0 1).since + 2 * lrTicks tasked := by decide

/-- A call that is aborted, and one that is not; an older call that goes first, and one that does not; writes that are not complete. -/
theorem witness_calls_wait :
    Aborted (calling []) { call0 1 with abort := true } ∧ ¬ Aborted (calling [(5, call0 1)]) (call0 1)
    ∧ GoesFirst (call0 0) (call0 1) ∧ (∀ x ∈ [(5, call0 1)], ¬ GoesFirst x.2 (call0 1))
    ∧ writesDone (calling []) { (call0 1).rel with v := 1 } = false := by
  refine ⟨.inl rfl, ?_, by unfold GoesFirst; decide, ?_, by decide⟩
  · rintro (h | ⟨h, hm, -, -, p, hp, -⟩)
    · cases h
    · simp only [State.allHarts, calling, tasked, State.modCore] at hm
      rcases List.mem_cons.1 hm with rfl | hm
      · cases hp
      · cases hm
  · intro x hx
    rcases List.mem_singleton.1 hx with rfl
    unfold GoesFirst
    decide

/-- A completion packet for context 0 with its three words. -/
def told (a b c : Word) : Packet := { dst := 1, src := 5, cls := 2, op := 1, tag := 0, len := 2, ctx := 0, hops := 15, chan := 2, body := [a, b, c], port := 2 }

/-- Reports: of the context's epoch and of another; matched by entry and generation, and not; for a free context, for one that is told by an event, by a
permission failure's event, and for one that asked for none. -/
theorem witness_reports :
    (tasked.ctx (told 0 0 0).ctx).epoch.toNat = (0 : Word).toNat / 2 ^ 36 % 256 ∧ (tasked.ctx (told 0 0 0).ctx).epoch.toNat ≠ (0x1000000000 : Word).toNat / 2 ^ 36 % 256
    ∧ ((0 : BitVec 8).toNat = (0x1400000 : Word).toNat / 2 ^ 28 % 256 ∧ (5 : BitVec 6).toNat = (0x1400000 : Word).toNat / 2 ^ 22 % 64)
    ∧ ((call0 1).gen.toNat = (0x80000 : Word).toNat / 2 ^ 19 % 65536 ∧ { call0 1 with sent := true }.sent = true ∧ (call0 1).ctx = (told 0 0 0).ctx)
    ∧ (call0 1).gen.toNat ≠ (0x100000 : Word).toNat / 2 ^ 19 % 65536
    ∧ (live.ctx 9).state = .free ∧ ((live.ctx 0).state ≠ .free ∧ (live.ctx 0).state ≠ .resetting)
    ∧ ((0 : BitVec 8) = 0 ∧ (3 : BitVec 3).getLsbD 2 = false) ∧ ((8 : BitVec 8) ≠ 0 ∧ (2 : BitVec 3).getLsbD 0 = false ∧ (2 : BitVec 3).getLsbD 1 = true)
    ∧ ((8 : BitVec 8) ≠ 7 ∧ (0 : BitVec 3).getLsbD 1 = false) := by decide

/-- A handler table of one entry at 0x1000: enabled or disabled, and whom it lets in, with its queue. -/
def handlerWords (w0 w1 w2 : Word) : List Byte := leBytes 8 w0.toNat ++ leBytes 8 w1.toNat ++ leBytes 8 w2.toNat

/-- The machine of `walked` with such a table, and queue 0. -/
def handling (w0 w1 w2 : Word) : State :=
  { walked 0x10DF with
    ctxs := [(0, { Ctx.empty with state := .running, run := true, ptbase := 0x10000, htbase := 0x1000 })]
    mem := memWrite (walked 0x10DF).mem 0x1000 (handlerWords w0 w1 w2), queues := [(0, queue0)] }

/-- The entry of handler 0 with its first bits, its shape, and whom it lets in; its priority is at most 3. -/
def handler0 (dis lets : Bool) (shape : BitVec 20) : Handler :=
  { pc := 0x2000, dis := dis, queue := 0, spill := false, shape := shape, version := 7, self := lets, loc := lets, remote := lets, maxpri := 3 }

/-- Handler entries: none, enabled, disabled, one that lets nobody in, and one whose shape is not good. -/
theorem witness_handlers :
    handlerLookup (handling 0 0 0) 0 0 = .none 0x1000 0 ∧ handlerLookup (handling 0 0 0) 0 1 = .none 0 0
    ∧ handlerLookup (handling 0x8000000000002000 0x7 0x3B) 0 0 = .entry (handler0 false true 0)
    ∧ handlerLookup (handling 0xC000000000002000 0x7 0x3B) 0 0 = .entry (handler0 true true 0)
    ∧ handlerLookup (handling 0x8000000000002000 0x7 0x3) 0 0 = .entry (handler0 false false 0)
    ∧ handlerLookup (handling 0x8000000000002000 0x1800007 0x3B) 0 0 = .entry (handler0 false true 0x180) := by decide +kernel

/-- An invocation packet of context 5 of device 1 for context 0. -/
def invoked (a b : Word) : Packet := { dst := 0xFFF, src := 1, cls := 2, op := 0, tag := 0, len := 8, ctx := 0, hops := 15, chan := 2, body := [a, b], port := 2 }

/-- Calls that arrive: an insertion; without and with a permission; for a context that is up and one that is not; a shape that is good and one
that is not; let in and not. -/
theorem witness_calls_arrive :
    ((invoked 0x100000000 0).body.headD 0).getLsbD 32 = true ∧ ((invoked 0 0).body.headD 0).getLsbD 32 = false
    ∧ xpermCap live 0x00105 0 = none ∧ xpermCap live (live.fab.devid ++ (0 : BitVec 8)) 0 = some 7
    ∧ ((live.ctx 0).state = .running ∨ (live.ctx 0).state = .stopped) ∧ ¬ ((live.ctx 9).state = .running ∨ (live.ctx 9).state = .stopped)
    ∧ ((0 : BitVec 20).toNat / 2 ^ 6 % 8 ≤ 5 ∧ (0 : BitVec 20).toNat / 2 ^ 10 % 8 ≤ 4 ∧ ((0 : BitVec 20).toNat % 64 / 8 + 1) * ((0 : BitVec 20).toNat / 2 ^ 10 % 8) ≤ 4)
    ∧ ¬ ((0x180 : BitVec 20).toNat / 2 ^ 6 % 8 ≤ 5)
    ∧ LetsIn live (handler0 false true 0) (live.fab.devid ++ (0 : BitVec 8)) 0 ∧ ¬ LetsIn live (handler0 false false 0) (live.fab.devid ++ (0 : BitVec 8)) 0 := by
  unfold LetsIn
  decide

/-- The end of a task with return slot 3, and that slot. -/
def end0 : TaskEnd := { ctx := 0, gang := 0, queue := 0, join := 0, rslot := 3, outcome := 0, rels := [] }
/-- See `end0`. -/
def slot0 : RetSlot :=
  { gid := 0x105, epoch := 0, ctx := 0, core := 0, entry := 0, gen := 1, flags := 1, callTag := 5, handler := 0, version := 7, ring := 0, pri := 0, bad := false }

/-- The queue of a call: none of its context, and one with room or without; a report wanted or not; a return slot and none; a task of a call that has ended, with
and without its slot. -/
theorem witness_calls_end :
    (∀ d, tget live.queues 0 = some d → d.ctx ≠ 0) ∧ (tget tasked.queues (handler0 false true 0).queue.toNat = some queue0 ∧ queue0.ctx = 0)
    ∧ queue0.recs.length < 2 ^ (queue0.cap.toNat + 4) ∧ ¬ (List.replicate 16 rec0).length < 2 ^ (({ queue0 with cap := 0 } : Queue).cap.toNat + 4)
    ∧ (1 % 2 = 1 ∧ 1 < 4) ∧ ¬ (0 % 2 = 1) ∧ freeReturn live.retTable = some 0 ∧ (∀ e ∈ live.reports, ∃ r ∈ e.rels, writesDone live r = false)
    ∧ tget live.retTable end0.rslot = none ∧ (∀ r ∈ end0.rels, writesDone live r = true) ∧ live.reports ++ [end0] = [] ++ end0 :: []
    ∧ tget [(3, slot0)] end0.rslot = some slot0 ∧ slot0.bad = false := by decide

/-- A return table without a free entry. -/
theorem witness_no_return (k : RetSlot) : freeReturn ((List.range 16384).map (fun i => (i, k))) = none := by
  simp [freeReturn]


/-! #### Queues -/

/-- The machine of `tasked` with the operands of a queue command, and a quota of so many queues for context 0. -/
def asksQueue (attr limit : Word) (quota : Nat) : State :=
  { tasked with
    pkg := { tasked.pkg with qattr := attr, qlimit := limit }
    ctxs := [(0, { Ctx.empty with state := .running, run := true, quota := BitVec.ofNat 64 (quota * 2 ^ 32) })] }

/-- Attributes: good at both ends of each range, and bad just outside. -/
theorem witness_queue_attributes :
    GoodAttr 0x1 1 ∧ GoodAttr 0xC000000001 65536 ∧ GoodAttr 0x60000000001 16
    ∧ ¬ GoodAttr 0xD000000001 1 ∧ ¬ GoodAttr 0x100000001 1 ∧ ¬ GoodAttr 0x0 1 ∧ ¬ GoodAttr 0x1 0 ∧ ¬ GoodAttr 0x1 17 ∧ ¬ GoodAttr 0x20000000001 1 := by
  simp only [GoodAttr]
  and_intros <;> decide

/-- Queue commands: a queue that exists and one that does not; each condition of a creation met and not; a modification of the same kind and of another; a
deletion of a queue without bad records. -/
theorem witness_queue_commands :
    let s := asksQueue 0x01EC7000000001 2 2
    let n := newQueue s.pkg.qattr s.pkg.qlimit
    tget s.queues (BitVec.toNat (0 : BitVec 16)) = some queue0 ∧ tget s.queues (BitVec.toNat (9 : BitVec 16)) = none ∧ GoodAttr s.pkg.qattr.toNat s.pkg.qlimit.toNat
    ∧ ((s.ctx n.ctx).state = .stopped ∨ (s.ctx n.ctx).state = .running) ∧ ¬ ((live.ctx 9).state = .stopped ∨ (live.ctx 9).state = .running)
    ∧ (s.queues.filter (fun p => p.2.ctx = n.ctx)).length < (s.ctx n.ctx).quota.toNat / 2 ^ 32 % 65536
    ∧ ((asksQueue 0x01EC7000000001 2 1).ctx n.ctx).quota.toNat / 2 ^ 32 % 65536 ≤ (s.queues.filter (fun p => p.2.ctx = n.ctx)).length
    ∧ (2 ^ (n.cap.toNat + 4) ≤ s.pkg.qsfree.toNat ∧ (0 : BitVec 32).toNat < 2 ^ (n.cap.toNat + 4))
    ∧ (let m := newQueue 0x1 1; ¬ (queue0.ctx = m.ctx ∧ queue0.keyed = m.keyed ∧ queue0.binned = m.binned ∧ queue0.cap = m.cap))
    ∧ (∀ r ∈ queue0.recs, r.bad = false) ∧ (∀ p ∈ s.park, p.qid = 0 → p.bad = false) := by
  simp only [GoodAttr]
  decide

/-- See `witness_queue_commands`: attributes of the same kind as a queue's. -/
theorem witness_queue_modify :
    let n := newQueue 0x7000000001 2
    GoodAttr 0x7000000001 2 ∧ queue0.ctx = n.ctx ∧ queue0.keyed = n.keyed ∧ queue0.binned = n.binned ∧ queue0.cap = n.cap := by
  simp only [GoodAttr]
  decide

/-- A record that its hart has pushed before its writes were complete. -/
def pushed : QRec := { task := rec0, pc := none, pusher := 0, version := 0, rel := some live.hart.release, bad := false, sau := false }

/-- A record parked on a counter for queue 0. -/
def parked : Parked := { pa := 0x1008, qid := 0, task := rec0, pusher := 0, released := true, rel := none, bad := false }

/-- The machine of `tasked` with one such record in queue 0. -/
def pushing : State := { tasked with queues := [(0, { queue0 with recs := [pushed] })] }

/-- Records: none that is ready, and one; none that is released, and one, for a queue with room and for one without. -/
theorem witness_records :
    (∀ p ∈ tasked.queues, ∀ x ∈ p.2.recs, ¬ Ready tasked { core := 0, slot := 0 } x)
    ∧ (pushing.queues = [] ++ (0, { queue0 with recs := [pushed] }) :: [] ∧ [pushed] = [] ++ pushed :: [] ∧ Ready pushing { core := 0, slot := 0 } pushed)
    ∧ (∀ p ∈ live.park, ¬ (p.released = true ∧ p.qid = 0)) ∧ tget live.queues (BitVec.toNat (0 : BitVec 16)) = none
    ∧ (({ tasked with park := [parked] } : State).park = [] ++ parked :: [] ∧ parked.released = true ∧ parked.qid = 0 ∧ parked.bad = false)
    ∧ tget tasked.queues (BitVec.toNat (0 : BitVec 16)) = some queue0 ∧ queue0.recs.length < 2 ^ (queue0.cap.toNat + 4)
    ∧ 2 ^ (({ queue0 with cap := 0 } : Queue).cap.toNat + 4) ≤ (List.replicate 16 pushed).length := by
  refine ⟨?_, ⟨rfl, rfl, _, rfl, by decide, by decide⟩, by decide⟩
  intro p hp x hx
  rcases List.mem_singleton.1 hp with rfl
  cases hx

/-- The end of a task whose join counter is at 0x1008. -/
def ended0 : TaskEnd := { ctx := 0, gang := 0, queue := 0, join := 0x1008, rslot := 0, outcome := 0, rels := [] }

/-- Joins: none, one whose counter is mapped to good memory outside class L, and one whose counter is not mapped. -/
theorem witness_joins :
    live.ends = [] ∧ ({ walked 0x10DF with ends := [ended0] } : State).ends = ended0 :: []
    ∧ ctxPhys { walked 0x10DF with ends := [ended0] } ended0.ctx ended0.join .amo = .ok (0x1008, 0, false)
    ∧ homeFree (walked 0x10DF) 0x1008 ∧ ctxPhys { walked 0x10DF with ends := [ended0], poison := [0x13000 / 32] } ended0.ctx ended0.join .amo = .error 0x15
    ∧ ctxPhys { live with ends := [ended0] } ended0.ctx ended0.join .amo = .error Kind.amo.pageFault ∧ Kind.amo.pageFault ≠ 0x15 ∧ poisoned (walked 0x10DF) 0x1008 8 = false
    ∧ Memory.wf (walked 0x10DF).mem = true := by
  unfold homeFree
  decide +kernel

/-- Events: of a free context, of one whose event queue takes them, and of one without such a queue or with a full one. -/
theorem witness_events :
    (live.ctx 9).state = .free
    ∧ (let x : Ctx := { Ctx.empty with state := .running, evq := 0x8000000000000000 }
       (x.state ≠ .free ∧ x.state ≠ .resetting) ∧ x.evq.getLsbD 63 = true ∧ tget tasked.queues (x.evq.setWidth 16 : BitVec 16).toNat = some queue0)
    ∧ queue0.ctx = 0 ∧ queue0.recs.length < 2 ^ (queue0.cap.toNat + 4) ∧ (0x10 : BitVec 8) ≠ 0x13
    ∧ (∀ d, tget live.queues ((live.ctx 0).evq.setWidth 16 : BitVec 16).toNat = some d → (live.ctx 0).evq.getLsbD 63 = false) := by decide

/-! #### Gangs -/

/-- A record that queue 0 offers, with its pc. -/
def placed (gsz : Nat) (pc : Option Word) : QRec :=
  { task := { rec0 with w0 := BitVec.ofNat 64 (gsz * 2 ^ 16) }, pc := pc, pusher := 0, version := 0, rel := none, bad := false, sau := false }

/-- A machine without harts whose context 0 may run 16 harts and 2 banks, with that record in queue 0. -/
def offering (gsz : Nat) (pc : Option Word) : State :=
  { walked 0x10DF with
    hart := Hart.empty
    ctxs := [(0, { Ctx.empty with state := .running, run := true, ptbase := 0x10000, htbase := 0x1000, quota := 0x100002 })]
    queues := [(0, { queue0 with weight := 4, recs := [placed gsz pc] })] }

/-- The candidate that it offers. -/
def offer (gsz : Nat) (pc : Option Word) : Cand :=
  { key := 0, prio := 3, weight := 4, head := .record 0 { queue0 with weight := 4, recs := [placed gsz pc] } (placed gsz pc) }

/-- Placement: no candidate; a record that has a pc and room; one whose handler entry is bad; and one without room. -/
theorem witness_placement :
    winner live 0 = none
    ∧ (∃ ring, winner (offering 1 (some 0x1000)) 0 = some (offer 1 (some 0x1000), ring)
        ∧ entryOf (Rung (offering 1 (some 0x1000)) 0 ring) 0 (placed 1 (some 0x1000)) = .pc 0x1000
        ∧ roomFor (Rung (offering 1 (some 0x1000)) 0 ring) 0 (offer 1 (some 0x1000)).head = true)
    ∧ (∃ ring, winner (offering 0 none) 0 = some (offer 0 none, ring) ∧ entryOf (Rung (offering 0 none) 0 ring) 0 (placed 0 none) = .bad 0x1000 0) := by
  refine ⟨by decide +kernel, ⟨{ at' := 0, paid := true, deficit := [(0, 4)] }, by decide +kernel, by decide +kernel, by decide +kernel⟩,
    ⟨{ at' := 0, paid := true, deficit := [(0, 4)] }, by decide +kernel, by decide +kernel⟩⟩


/-- A gang of policy 2 whose frame is at 0x200000. -/
def framed0 : Gang := { gang0 with frame := some 0x200000, preempt := true, prio := 1 }

/-- The machine of `walked` with a supervisor's page of 2 MiB at 0x200000, whose hart is of that gang. -/
def framed (g : Gang) : State :=
  { walked 0x10DF with mem := memWrite (walked 0x10DF).mem 0x12008 (leBytes 8 0x2000C7), gangs := [(0, g)] }

/-- Bytes that end before their page does are written at once. -/
theorem fput_page (c : BitVec 8) (va pa : Nat) (bs : List Byte) (s : State) (h : framePhys s c va .store = .ok pa) (h0 : bs ≠ [])
    (hl : bs.length ≤ 4096 - va % 4096) : fput c va bs s = .ok ((s.homeRange pa bs.length true).putMem pa bs) := by
  unfold fput pages
  rw [frameWrite, if_neg h0]
  simp only [h]
  rw [List.take_of_length_le hl, List.drop_eq_nil_of_le hl, frameWrite, if_pos rfl]

/-- What went well goes on. -/
theorem exceptOk_bind {α β : Type} (a : α) (f : α → Except FrameFault β) : ((Except.ok a : Except FrameFault α) >>= f) = f a := rfl

/-- The bytes of the x registers of a hart. -/
def xBytes (s : State) : List Byte := (List.range 32).flatMap (fun i => leBytes 8 (s.getX (BitVec.ofNat 5 i)).toNat)

/-- The control area of a hart fits its page. -/
theorem controlBytes_fits (s : State) (n : Nat) (hs : s.hart.xfers = []) : (controlBytes s n).length = 3840 := by
  have hle (v : Nat) : (leBytes 8 v).length = 8 := rfl
  have key (N : Nat) (l : List (Nat × Word)) (h : ∀ p ∈ l, p.1 + 8 ≤ N + 0x100) : ∀ b : List Byte, b.length = N → 8 ≤ N →
      (l.foldl (fun b p => b.take (p.1 - 0x100) ++ leBytes 8 p.2.toNat ++ b.drop (p.1 - 0x100 + 8)) b).length = N := by
    induction l with
    | nil => exact fun _ hb _ => hb
    | cons p l ih =>
      intro b hb h8
      have hp := h p (List.mem_cons_self ..)
      rw [List.foldl_cons]
      refine ih (fun q hq => h q (List.mem_cons_of_mem _ hq)) _ ?_ h8
      simp only [List.length_append, List.length_take, List.length_drop, hle, hb]
      omega
  have hx : (xferBytes s.hart).length = 512 := by
    unfold xferBytes
    simp only [hs, List.take_nil, List.flatMap_nil, List.nil_append, List.length_replicate, List.length_nil]
    omega
  unfold controlBytes
  simp only [List.length_append, hx, List.length_replicate]
  rw [key 0x400 _ ?_ _ List.length_replicate (by omega)]
  simp only [csrSlots, List.mem_append, List.mem_cons, List.mem_map, List.mem_range, List.not_mem_nil, or_false]
  rintro p ((rfl | rfl | rfl | rfl) | (((⟨i, hi, rfl⟩ | ⟨i, hi, rfl⟩) | ⟨i, hi, rfl⟩) | rfl | rfl)) <;> simp only <;> omega

/-- The machine of `framed` with the hart's x registers in its frame, and with the control area too. -/
def framedX : State := ((framed framed0).homeRange 0x201000 (xBytes (framed framed0)).length true).putMem 0x201000 (xBytes (framed framed0))
/-- See `framedX`. -/
def framedC : State := (framedX.homeRange 0x201100 (controlBytes framedX 0).length true).putMem 0x201100 (controlBytes framedX 0)

/-- The x registers and the control area of the saved hart fit their page. -/
theorem witness_saves_fit :
    framePhys (framed framed0) 0 0x201000 .store = .ok 0x201000 ∧ framePhys framedX 0 0x201100 .store = .ok 0x201100
    ∧ (xBytes (framed framed0)).length = 256 ∧ 0x200000 + frameHart framed0 (framed framed0).hart.rank.toNat = 0x201000 := by decide +kernel

/-- The images of the hart can be saved. -/
theorem witness_images : saveImages (framed framed0) framed0 0x200000
    = .ok (framedC.modGang 0 (fun g => { g with framed := g.framed ||| BitVec.twoPow 64 0 })) := by
  obtain ⟨h1, h2, h3, h5⟩ := witness_saves_fit
  have h4 := controlBytes_fits framedX 0 rfl
  have e1 : fput 0 0x201000 (xBytes (framed framed0)) (framed framed0) = .ok framedX :=
    fput_page 0 _ _ _ _ h1 (by intro h; rw [h] at h3; cases h3) (by omega)
  have e2 : fput 0 0x201100 (controlBytes framedX 0) framedX = .ok framedC :=
    fput_page 0 _ _ _ _ h2 (by intro h; rw [h] at h4; cases h4) (by omega)
  have e3 : savedMap (framed framed0) framed0 0x200000 (framed framed0).hart.rank.toNat = .ok 0 := by decide
  have e4 : (framed framed0).hart.vdirty.toNat = 0 := by decide
  have e5 : (framed framed0).hart.badImage = false := by decide
  dsimp only [saveImages]
  rw [e3, h5, e4, e5, if_neg Bool.false_ne_true, exceptOk_bind, exceptOk_bind]
  change (fput 0 0x201000 (xBytes (framed framed0)) (framed framed0) >>= _) = _
  rw [e1, exceptOk_bind]
  change (fput 0 0x201100 (controlBytes framedX 0) framedX >>= _) = _
  rw [e2, exceptOk_bind]
  generalize framedC = w
  rfl

/-- A hart that is to be saved, at once and not; its frame can be written; it is the last of its gang, and it is not. -/
theorem witness_saves :
    preempted (framed framed0) 2 = true ∧ preempted tasked 2 = false ∧ preempted tasked 3 = false
    ∧ ((framed { framed0 with policy := 3 }).hart.wait = .none ∧ preempted (framed { framed0 with policy := 3 }) 3 = true
        ∧ savableWait (.viswait 5) true = true)
    ∧ (((framed framed0).core 0).dHalted = false ∧ saveReady (framed framed0) = true ∧ (framed framed0).hart.rep = none ∧ savableWait .gbar false = true
        ∧ savableWait (.viswait 5) false = false)
    ∧ (let u := (framed framed0).withHart (fun h => { h with wait := .gbar }); preempted u 2 = true ∧ u.hart.wait ≠ .none)
    ∧ tget (framed framed0).gangs 0 = some framed0
    ∧ (∃ v, saveImages (framed framed0) framed0 0x200000 = .ok v ∧ (v.ctx framed0.ctx).state = .running)
    ∧ (framed0.savedRanks ||| BitVec.twoPow 64 (framed framed0).hart.rank.toNat ||| framed0.ended = allRanks framed0)
    ∧ (let g := { framed0 with task := { rec0 with w0 := 0x10000 } }; g.savedRanks ||| BitVec.twoPow 64 (0 : Nat) ||| g.ended ≠ allRanks g) :=
  ⟨by decide, by decide, by decide, by decide, by decide, by decide, rfl, ⟨_, witness_images, rfl⟩, by decide, by decide⟩

/-- The machine of `framed` without harts, and with that gang saved, which its queue offers first. -/
def resuming : State :=
  { framed { framed0 with saved := true, preempt := false } with
    hart := Hart.empty
    ctxs := [(0, { Ctx.empty with state := .running, run := true, ptbase := 0x10000, quota := 0x100002 })]
    queues := [(0, { queue0 with weight := 4, recs := [] })] }

/-- What is asked of the winner of `resuming`: a gang with a frame, room, and a frame that can be read. -/
def resumes (c : Cand) (r : Ring) : Bool :=
  match c.head with
  | .gang 0 g => g.frame = some 0x200000 && roomFor (Rung resuming 0 r) 0 (.gang 0 g)
      && (match resumeGang (Rung resuming 0 r) 0 g 0x200000 0 [{ core := 0, slot := 0 }] [] with
          | .ok _ => true
          | .error _ => false)
  | _ => false

/-- A saved gang that wins has room, and its frame can be read. -/
theorem witness_resume : ∃ c ring, winner resuming 0 = some (c, ring) ∧ resumes c ring = true := by
  have h : (winner resuming 0).any (fun p => resumes p.1 p.2) = true := by decide +kernel
  revert h
  cases winner resuming 0 with
  | none => exact fun h => nomatch h
  | some p => exact fun h => ⟨p.1, p.2, rfl, h⟩

/-- A record with an error wins. -/
theorem witness_bad_record :
    let s := { offering 1 (some 0x1000) with queues := [(0, { queue0 with weight := 4, recs := [{ placed 1 (some 0x1000) with bad := true }] })] }
    (winner s 0).any (fun p => match p.1.head with
      | .record _ _ r => r.bad
      | _ => false) = true := by decide +kernel

/-- The cores of cluster 0 but for those listed are halted. -/
def haltedBut (s : State) (n : Nat) : State := (List.range 8).foldl (fun s i => if i < n then s else s.modCore (BitVec.ofNat 8 i) (fun c => { c with dHalted := true })) s

/-- A head without room for it, where every core is halted. -/
theorem witness_no_room :
    ∃ ring, winner (haltedBut (offering 1 (some 0x1000)) 0) 0 = some (offer 1 (some 0x1000), ring)
      ∧ roomFor (Rung (haltedBut (offering 1 (some 0x1000)) 0) 0 ring) 0 (offer 1 (some 0x1000)).head = false :=
  ⟨{ at' := 0, paid := true, deficit := [(0, 4)] }, by decide +kernel, by decide +kernel⟩

/-- A gang that may be saved holds the one slot that the head of queue 0 lacks, which has waited 20 microseconds. -/
def contended : State :=
  let s := haltedBut (framed { framed0 with preempt := false }) 1
  { s.modCluster 0 (fun k => { k with reserved := some { key := 0, head := .record (placed 15 (some 0x1000)), since := 0, pool := [], used := List.replicate 8 0 } }) with
    pkg := { s.pkg with dtime := 20000 }
    ctxs := [(0, { Ctx.empty with state := .running, run := true, ptbase := 0x10000, quota := 0x200002 })]
    queues := [(0, { queue0 with weight := 16, recs := [placed 15 (some 0x1000)] })] }

/-- Pre-emption: nothing to pre-empt, and a gang. -/
theorem witness_preemption : preemptable live 0 = none ∧ preemptable contended 0 = some [(0, { framed0 with preempt := false })] := by decide +kernel

/-- Barriers: no gang; one whose ranks have all come, and one where one has not. Purses of a core with harts and without. -/
theorem witness_barriers :
    tget live.gangs (BitVec.toNat (0 : BitVec 16)) = none ∧ tget tasked.gangs (BitVec.toNat (0 : BitVec 16)) = some gang0
    ∧ (let x := { gang0 with barArr := 1 }; x.barArr = allRanks x ∧ x.ended = 0 ∧ x.savedRanks = 0) ∧ ¬ gang0.barArr = allRanks gang0
    ∧ purseKeys tasked 1 = [] ∧ purseKeys tasked 0 ≠ [] := by decide

/-- A hart at VSETVL.B, and one at another instruction. -/
theorem witness_rebind :
    let s := { live with mem := memWrite [] 0x1000 (leBytes 4 0x5201008B) }
    live.hart.live = true ∧ live.hart.ref = { core := 0, slot := 0 } ∧ live.hart.disp = []
    ∧ (∃ bs t rest, s.fetch = (.bytes bs, t) ∧ decode bs = .ok (.vsetvlB 1 2 2 1, rest)) :=
  ⟨rfl, rfl, rfl, _, _, _, rfl, rfl⟩


/-! #### Bank commands -/

/-- A gang of the hart that holds a bank of its cluster, by its index there. -/
def bankGang (k : Nat) : Gang := { gang0 with banks := [k] }

/-- The small machine with bank 16 of cluster 0 as given, and the hart's gang holding it. -/
def withBank (b : Bank) : State :=
  { live with banks := [(16, b)], gangs := [(0, bankGang 16)], ctxs := [(0, { Ctx.empty with state := .running, run := true, quota := 1 })] }

/-- Commands: of a hart that lives; of the host; idle and busy; behind another; with bad names, and with names of a bank by its index and by a gang. -/
theorem witness_bank_names :
    live.hart.live = true ∧ (bkNow live .hart).getLsbD 63 = false ∧ (bkNow live (.host 0)).getLsbD 63 = false
    ∧ (bkNow (live.withHart (fun h => { h with bkcmd := 0x8000000000000000 })) .hart).getLsbD 63 = true
    ∧ SameBut 0x10000000 0x20000000 ∧ (live.cluster (bkCluster live .hart)).bankCmd = []
    ∧ (let b : BankCmd := { host := true, cl := 0, ref := { core := 0, slot := 0 }, val := 0 }
       ((live.modCluster 0 (fun k => { k with bankCmd := [b] })).cluster 0).bankCmd ≠ [])
    ∧ ((0x100 : Word).toNat / 2 ^ 8 % 2 ^ 17 ≠ 0 ∧ (0xFFFF000000C0 : Word).toNat / 2 ^ 32 % 65536 = 0xFFFF ∧ 192 ≤ (0xFFFF000000C0 : Word).toNat % 256)
    ∧ ((0x40 : Word).toNat / 2 ^ 32 % 65536 ≠ 0xFFFF ∧ 64 ≤ (0x40 : Word).toNat % 256)
    ∧ NamesBank live (.host 0) 0xFFFF10000010 16 ∧ NamesBank live .hart 0xFFFF300000BF 191
    ∧ (let s := live.modCluster 0 (fun k => { k with reserved := some { key := 0, head := .gang 0, since := 0, pool := [17], used := [] } })
       KeptForHead s 0 16 ∧ ¬ KeptForHead s 0 17 ∧ ¬ KeptForHead live 0 16) := by
  refine ⟨rfl, by decide, by decide, by decide, by unfold SameBut; decide, by decide, by decide, by decide, by decide, ⟨by decide, .inl (by decide)⟩,
    ⟨by decide, .inl (by decide)⟩, ⟨_, rfl, by decide⟩, ?_, ?_⟩
  · rintro ⟨r, h, hn⟩
    cases h
    exact hn (by decide)
  · rintro ⟨r, h, -⟩
    cases h

/-- See `witness_bank_names`: bank 16 as bank 0 of gang 0. -/
theorem witness_bank_of_gang : NamesBank (withBank (Bank.reset 16)) .hart 0x50000000 16 ∧ NamesBank (withBank (Bank.reset 16)) (.host 0) 0x70000000 16 :=
  ⟨⟨by decide, .inr ⟨by decide, by decide, bankGang 16, rfl, rfl, rfl, fun _ => rfl, rfl⟩⟩,
    ⟨by decide, .inr ⟨by decide, by decide, bankGang 16, rfl, rfl, rfl, (fun h => nomatch h), rfl⟩⟩⟩

/-- Banks in each mode, with each holder, with and without writers; a quota with room and one without; a stream that is used and one that is not. -/
theorem witness_banks :
    ((withBank { Bank.reset 16 with mode := .S }).bank 16).mode = .S ∧ ((withBank { Bank.reset 16 with mode := .C }).bank 16).mode = .C
    ∧ ((withBank { Bank.reset 16 with mode := .F }).bank 16).mode = .F ∧ ((withBank { Bank.reset 16 with mode := .X }).bank 16).mode = .X
    ∧ (Bank.reset 16).holder = .none ∧ ({ Bank.reset 16 with holder := .ctx 0 } : Bank).holder = .ctx (withBank (Bank.reset 16)).hart.ctx
    ∧ (Bank.reset 16).writers = [] ∧ ({ Bank.reset 16 with writers := [(0, 0, 7, 0)] } : Bank).writers ≠ []
    ∧ banksHeld live 0 < ((withBank (Bank.reset 16)).ctx 0).quota.toNat % 512
    ∧ (live.ctx 0).quota.toNat % 512 ≤ banksHeld live 0
    ∧ Own live 0xFFFF50000010 { Bank.reset 16 with holder := .ctx 0 } ∧ Own live 0x50000000 { Bank.reset 16 with holder := .gang 0 0 }
    ∧ ¬ Own live 0x50000000 { Bank.reset 16 with holder := .ctx 0 }
    ∧ (∃ x ∈ (withBank { Bank.reset 16 with mode := .F, holder := .gang 0 0 }).banks, x.2.mode = .F ∧ x.2.holder = .gang 0 0 ∧ x.2.stream = 0)
    ∧ ¬ (∃ x ∈ (withBank (Bank.reset 16)).banks, x.2.mode = .F) := by
  unfold Own
  decide

/-- A cluster without a command, and one whose TOS runs. -/
theorem witness_tos :
    (live.cluster 0).bankCmd = []
    ∧ (let c : BankCmd := { host := true, cl := 0, ref := { core := 0, slot := 0 }, val := 0xFFFF20000010 }
       ((live.modCluster 0 (fun k => { k with bankCmd := [c] })).cluster 0).bankCmd = [c] ∧ c.val.toNat / 2 ^ 28 % 16 = 2 ∧ c.host = true ∧ c.cl = 0
         ∧ c.work = .command)
    ∧ (banked.bank 16).mode ≠ .C ∧ ((withBank { Bank.reset 16 with mode := .C }).bank 16).mode = .C
    ∧ NamesBank live (.host 0) 0xFFFF20000010 16 :=
  ⟨by decide, by decide, by decide, by decide, ⟨by decide, .inl (by decide)⟩⟩

/-! #### Engines -/

/-- A transfer from 0x1100 to 0x1200, and one to a given address, of which element 2 is left. -/
def eng1 (src dst : Word) (mask : Nat) : EngXfer := { eng0 with blk := { rec0 with w0 := src, w1 := dst, w4 := BitVec.ofNat 64 (mask * 2 ^ 40) }, left := [2] }

/-- The machine of `walked` with transfers in the stream engine of cluster 0, and bank 16 as a FIFO of the hart's gang with so many bytes. -/
def streaming (q : List EngXfer) (used : Nat) : State :=
  { walked 0x10DF with
    clusters := [(0, { Cluster.empty with stream := q })]
    banks := [(16, { Bank.reset 16 with mode := .F, holder := .gang 0 0, tail := used, arr := used })] }

/-- Starting: none waits, all four places are taken, and one is next; whose writes are performed and not; with and without a bad multicast. -/
theorem witness_transfer_starts :
    (∀ x ∈ engQueue (streaming [eng0] 0) (.stream 0), x.started = true)
    ∧ 4 ≤ ((engQueue (streaming (List.replicate 4 eng0) 0) (.stream 0)).filter (fun x => x.started)).length
    ∧ mayStart (streaming [{ eng0 with started := false }] 0) { eng0 with started := false } = true
    ∧ mayStart (streaming [] 0) { eng0 with started := false, rel := { eng0.rel with v := 1 } } = false
    ∧ mcastFault (streaming [] 0) { eng0 with started := false } = none ∧ mcastFault (streaming [] 0) (eng1 0x1100 0xFD0000000000 1) = some 0xFD0000000000
    ∧ (engQueue (streaming [] 0) (.stream 0))[0]? = none ∧ (engQueue (streaming [eng0] 0) (.stream 0))[0]? = some eng0 := by decide

/-- See `witness_transfer_starts`. -/
theorem witness_next_up : NextUp [eng0, { eng0 with started := false }] { eng0 with started := false } :=
  ⟨[eng0], [], rfl, rfl, fun y h => by rcases List.mem_singleton.1 h with rfl; rfl⟩

/-- A transfer that goes on, with an element to perform and with none. -/
theorem witness_transfer_runs :
    Runs (eng1 0x1100 0x1200 0) ∧ ¬ Runs { eng0 with waiting := true } ∧ ({ eng0 with left := [] } : EngXfer).maxV ≤ live.pkg.dtime.toNat
    ∧ nextElem (streaming [eng1 0x1100 0x1200 0] 0) (eng1 0x1100 0x1200 0) = (some 2, streaming [eng1 0x1100 0x1200 0] 0) := by
  unfold Runs
  decide

/-- An element whose source, or whose destination, is not mapped. -/
theorem witness_transfer_fails :
    (∃ code addr, streamElem (streaming [] 0) { eng1 0x3000 0x1200 0 with cur := some 2 } 2 = .fail code addr ∧ streamElem (streaming [] 0) (eng1 0x3000 0x1200 0) 2 = .fail code addr)
    ∧ (∃ c u, resolve (streaming [] 0) (eng1 0x3000 0x1200 0).who (srcAddr (eng1 0x3000 0x1200 0).blk 4 2) .load = (.error c, u)) :=
  ⟨⟨_, _, rfl, rfl⟩, ⟨_, _, rfl⟩⟩

/-- A transfer to a peer's page whose write a link has lost. -/
theorem witness_transfer_lost :
    let r (st : BitVec 8) : Reply := { tag := 0, status := st, data := leBytes 4 7, time := 0 }
    let x : EngXfer := { eng1 0x1100 0x1200 0 with replies := [r 0, r 0xFF] }
    streamElem (walked leafPeer) x 2 = .lost (dstAddr x.blk 4 2) ∧ streamElem (walked leafPeer) { x with cur := some 2 } 2 = .lost (dstAddr x.blk 4 2) :=
  ⟨rfl, rfl⟩

/-- The machine after an engine's address has been translated. -/
def unitResolved (s : State) (x : EngXfer) (va : Word) (k : Kind) : State := (resolve s x.who va k).2

set_option maxRecDepth 4000 in
/-- An element from local memory to local memory. -/
theorem witness_transfer_copies :
    let x := eng1 0x1100 0x1200 0
    let u := unitResolved (streaming [] 0) x (srcAddr x.blk x.count 2) .load
    let w := (u.scrubbed (srcAddr x.blk x.count 2).toNat (esizeOf x.blk)).atHome none (srcAddr x.blk x.count 2).toNat (esizeOf x.blk) false false
    resolve (streaming [] 0) x.who (srcAddr x.blk x.count 2) .load = (.ok (.phys (srcAddr x.blk x.count 2).toNat 0 false), u)
      ∧ (poisoned u (srcAddr x.blk x.count 2).toNat (esizeOf x.blk) = false ∧ appendsTo w x = none ∧ mcastOf x.blk = 0 ∧ Memory.wf (streaming [] 0).mem = true)
      ∧ resolve w x.who (dstAddr x.blk x.count 2) .store
          = (.ok (.phys (dstAddr x.blk x.count 2).toNat 0 false), unitResolved w x (dstAddr x.blk x.count 2) .store) :=
  ⟨Prod.ext (by rfl) rfl, by decide +kernel, Prod.ext (by rfl) rfl⟩

/-- An append to a ring with room and to one without; a hart that waits for its transfers, and one that does not. -/
theorem witness_transfer_appends :
    let x := eng1 0x1100 0xFD0000080000 0
    let u := unitResolved (streaming [] 0) x (srcAddr x.blk x.count 2) .load
    resolve (streaming [] 0) x.who (srcAddr x.blk x.count 2) .load = (.ok (.phys (srcAddr x.blk x.count 2).toNat 0 false), u)
    ∧ (appendsTo ((u.scrubbed (srcAddr x.blk x.count 2).toNat (esizeOf x.blk)).atHome none (srcAddr x.blk x.count 2).toNat (esizeOf x.blk) false false) x = some 16
      ∧ appendsTo (streaming [] 0) x = some 16
      ∧ ((streaming [] 24575).bank 16).used + esizeOf x.blk ≤ 24576 ∧ 24576 < ((streaming [] 24576).bank 16).used + esizeOf x.blk
      ∧ (live.withHart (fun h => { h with wait := .transfer })).hart.wait = .transfer ∧ live.hart.wait ≠ .transfer) :=
  ⟨Prod.ext (by rfl) rfl, by decide +kernel⟩

/-- A sort of one pair of a 4-byte key, from 0x1100 to 0x1200, with its temporary area at 0x1240; and one whose input is not mapped. -/
def sort1 (kin : Word) : EngXfer := { eng0 with blk := { rec0 with w0 := kin, w2 := 0x1200, w4 := 0x1240, w6 := 1 }, left := [0], count := 1 }

/-- The machine of `walked` with sorts in the engine of die 0, the page of class L, and a line at 0x1200 whose last lease ends at 100. -/
def sorting (q : List EngXfer) : State :=
  { walked 0x11DF with dies := [(0, { Die.empty with sort := q })], lines := [(36, { LLine.empty with horizon := 100 })] }

/-- Sorts: none waits, one runs, one is next; one that fails, one that is done before its outputs are visible. -/
theorem witness_sorts :
    (∀ x ∈ engQueue (sorting []) (.sort 0), x.started = false) ∧ (∃ x ∈ engQueue (sorting [sort1 0x1100]) (.sort 0), x.started = true)
    ∧ engQueue (sorting [sort1 0x1100]) (.sort 0) = [] ++ sort1 0x1100 :: [] ∧ NextUp [{ eng0 with started := false }] { eng0 with started := false }
    ∧ mayStart (sorting []) { eng0 with started := false } = true ∧ (∃ code addr, sortRun (sorting []) (sort1 0x3000) = .error (code, addr)) := by
  refine ⟨by decide, by decide, by decide, ⟨[], [], rfl, rfl, fun _ h => (nomatch h)⟩, by decide, _, _, rfl⟩

/-- See `witness_sorts`. -/
theorem witness_sort_done :
    ∃ v u, sortRun (sorting [sort1 0x1100]) (sort1 0x1100) = .ok (v, u) ∧ engQueue u (.sort 0) = [sort1 0x1100]
      ∧ (sorting [sort1 0x1100]).pkg.dtime.toNat < v := by
  have h : (match sortRun (sorting [sort1 0x1100]) (sort1 0x1100) with
    | .ok (v, u) => decide (engQueue u (.sort 0) = [sort1 0x1100]) && decide (0 < v)
    | .error _ => false) = true := by decide +kernel
  revert h
  cases sortRun (sorting [sort1 0x1100]) (sort1 0x1100) with
  | ok r => exact fun h => ⟨r.1, r.2, rfl, of_decide_eq_true (Bool.and_eq_true_iff.1 h).1, of_decide_eq_true (Bool.and_eq_true_iff.1 h).2⟩
  | error _ => exact fun h => nomatch h

/-- An entry of the audit unit of context 0, whose histograms are at an address, with a threshold. -/
def escrow0 (hist : Word) (count : BitVec 32) : Escrow :=
  { ctx := 0, gang := 0, tag := 0, pc := 0x1000, hist := hist, thrBin := 0, thrCount := count, handler := 5, size := 0, m := 0, n := 0, k := 0
    a := [], b := [], before := [], after := [], replies := [], waiting := false, bad := false }

/-- The machine of `walked` with an entry, a page of 2 MiB at 0x800000 for the sticky bits, and a count of 1 in bin 0. -/
def auditing (x : Escrow) : State :=
  { walked 0x10DF with mem := memWrite (memWrite (walked 0x10DF).mem 0x12020 (leBytes 8 0x8000DF)) 0x1000 [1], clusters := [(0, { Cluster.empty with escrow := [x] })] }

/-- The answer of a line's home: the old value was 0. -/
def zeroReply (st : BitVec 8) : Reply := { tag := 0, status := st, data := leBytes 8 0, time := 0 }

/-- What an audit answers, without the state. -/
def audited (x : Escrow) : Option (Option Bool) × Option (BitVec 8) :=
  match auditAccess (auditing x) x (auditWho x.ctx 0 x.gang) with
  | (.ok b _ _, _) => (some b, none)
  | (.fault c, _) => (none, some c)
  | _ => (none, none)

/-- Audits: no entry, one that waits, one under its threshold, one that is the first to cross it, and one whose histograms are not mapped. -/
theorem witness_audits :
    (live.cluster 0).escrow = [] ∧ ((auditing (escrow0 0x1000 0)).cluster 0).escrow = escrow0 0x1000 0 :: []
    ∧ ({ escrow0 0x1000 0 with waiting := true } : Escrow).waiting = true ∧ (escrow0 0x1000 0).waiting = false
    ∧ audited { escrow0 0x1000 0 with replies := [zeroReply 0] } = (some none, none)
    ∧ audited { escrow0 0x1000 1 with replies := [zeroReply 0, zeroReply 0] } = (some (some false), none)
    ∧ (audited (escrow0 0x3000 0)).1 = none ∧ (audited (escrow0 0x3000 0)).2.isSome = true
    ∧ ({ escrow0 0x1000 0 with bad := true } : Escrow).bad = true := by decide +kernel

/-- An audit whose histograms are on a peer's page: it asks the peer, and fails when a link has lost the answer. -/
theorem witness_audit_peer :
    (∃ n addr, auditAccess (walked leafPeer) (escrow0 0x1000 0) (auditWho 0 0 0) = (.need n, addr))
    ∧ ∃ c addr, auditAccess (walked leafPeer) { escrow0 0x1000 0 with replies := [zeroReply 0xFF] } (auditWho 0 0 0)
        = (.failed c, addr) := ⟨⟨_, _, rfl⟩, _, _, rfl⟩


/-! #### Lines and scatter-add units -/

/-- The small machine with an entry of the directory for line 5. -/
def directed (d : DirLine) : State := { live with dir := [(5, d)] }

/-- A line that cores hold in a state. -/
def shared (st : DirState) (cs : List (BitVec 8)) : DirLine :=
  { DirLine.empty with state := st, copies := cs.map (fun c => { core := c, written := 0, mask := 0 }) }

/-- Lines without copies, shared, owned, and privatised; an invalidation that names a copy and one that does not; fills that are late and not. -/
theorem witness_lines :
    (dirOf live 5).mayWrite 0 0 = false ∧ (dirOf (directed (shared .M [0])) 5).mayWrite 0 0 = true ∧ (dirOf (directed (shared .M [1])) 5).mayWrite 0 0 = false
    ∧ ((dirOf live 5).state = .I ∧ privatises (dirOf live 5).tenures 0 = false) ∧ (dirOf (directed (shared .M [1])) 5).state = .M
    ∧ (let d := dirOf (directed (shared .S [0, 1])) 5; d.state = .S ∧ d.copies.any (fun k => k.core = 0) = true)
    ∧ ((dirOf live 5).state ≠ .S ∧ (dirOf (directed (shared .S [1])) 5).copies.any (fun k => k.core = 0) = false)
    ∧ (let d : DirLine := { DirLine.empty with pending := [(0, 2, some 3)] }
       d.pending = [] ++ (0, 2, some 3) :: [] ∧ (3 : BitVec 8) ≠ 2 ∧ ((3 : BitVec 8) - 2).toNat < 128 ∧ ¬ ((2 : BitVec 8) - 3).toNat < 128)
    ∧ (∀ p ∈ (dirOf live 5).pending, ¬ (p.1 = 0 ∧ p.2.1 = 2)) := by
  refine ⟨by decide, by decide, by decide, by decide, by decide, by decide, by decide, ⟨rfl, by decide⟩, fun _ h => (nomatch h)⟩

/-- A class L write of the hart to line 5, to be visible at a time. -/
def lwrite (v : Nat) : LWrite :=
  { core := 0, slot := 0, ctx := 0, gang := 0, rank := 0, seq := 0, pa := 640, da := false, data := [7], v := v, performed := false, foreign := false }

/-- The same write as an operation of the line's scatter-add unit, and as an element of an instruction with `.o`. -/
def lsau (v : Nat) : LWrite := { lwrite v with sau := true }
def lelem (v : Nat) : LWrite := { lwrite v with ordered := true }

/-- Class L: a line without and with a pending write; a write that arrives before and after its time; one that waits and one that is due; writes
that may come, by themselves and in `.o` order, and that may not; leases with and without time to hit, on cores with and without a C bank. -/
theorem witness_class_l :
    live.pendingOf 5 = [] ∧ ({ live with lwrites := [lwrite 100] } : State).pendingOf 5 = lwrite 100 :: [] ∧ live.ltransit = []
    ∧ ({ live with ltransit := [lwrite 0] } : State).ltransit = lwrite 0 :: [] ∧ (∀ u ∈ ({ live with lwrites := [lwrite 100] } : State).lwrites, live.pkg.dtime.toNat + 4 < u.v)
    ∧ (let x := ({ live with lines := [(5, { LLine.empty with horizon := 100 })] } : State).lline false 5
       live.pkg.dtime.toNat + 4 < max live.pkg.dtime.toNat (max x.horizon x.lastV))
    ∧ max live.pkg.dtime.toNat (max (live.lline false 5).horizon (live.lline false 5).lastV) ≤ live.pkg.dtime.toNat + 4
    ∧ (live.pkg.dtime.toNat + 4 < (lwrite 100).v ∧ (lwrite 4).v ≤ live.pkg.dtime.toNat + 4) ∧ (∀ a ∈ live.peerAcks, live.pkg.dtime.toNat < a.v)
    ∧ (let a : PeerAck := { dst := 5, tag := 9, v := 0 }; ({ live with peerAcks := [a] } : State).peerAcks = [] ++ a :: [] ∧ a.v ≤ live.pkg.dtime.toNat ∧ a.mgt = false)
    ∧ ((lwrite 0).more = none ∧ (lwrite 0).performed = false ∧ (lwrite 0).sau = false ∧ (lwrite 0).ordered = false)
    ∧ ({ live with lwrites := [lsau 0] } : State).pendingOf 5 = lsau 0 :: [] ∧ (lsau 0).sau = true
    ∧ ((lsau 0).performed = false ∧ ({ lsau 0 with performed := true } : LWrite).sau = true)
    ∧ 0 < cWays live 0 ∧ cWays { live with banks := (List.range 24).map (fun i => (i, { Bank.reset i with mode := .S })) } 0 = 0
    ∧ live.pkg.dtime.toNat + 8 < live.pkg.dtime.toNat + (live.lline false 5).lease := by decide

/-- See `witness_class_l`. -/
theorem witness_comes :
    Comes live [] (lwrite 0) ∧ ¬ Comes live [lwrite 0] (lwrite 1) ∧ Comes { live with lwrites := [{ lelem 3 with performed := true }] } [] (lelem 0)
    ∧ ¬ Comes { live with lwrites := [lelem 3] } [] (lelem 0)
    ∧ (∀ before w after, live.ltransit = before ++ w :: after → ¬ Comes live before w) := by
  refine ⟨⟨fun _ h => (nomatch h), fun h => (nomatch h)⟩, fun h => h.1 (lwrite 0) (.head _) ⟨rfl, rfl, rfl, rfl⟩, ⟨fun _ h => (nomatch h), ?_⟩,
    fun h => absurd (h.2 rfl (lelem 3) (.head _) ⟨rfl, rfl, rfl, rfl⟩ rfl) (by decide), fun b w a h => by cases b <;> nomatch h⟩
  intro _ u hu _ _
  obtain rfl : u = { lelem 3 with performed := true } := by simpa using hu
  rfl

/-- A fetch-and-add of 5 at 0x4008 of local memory, and of the host's. -/
def sau0 (host : Bool) : SauOp := { host := host, pa := 0x4008, fn := 0, dbl := true, a := 5, b := 0, reply := some (5, 9), issuer := none }

/-- The operation held at its home: of a line that is not leased, of one that is, and on its way there. -/
def held0 (host l placed : Bool) : SauWait := { op := sau0 host, l := l, da := false, placed := placed }

/-- Scatter-add: operations that reach their home, from elsewhere and from this device. -/
theorem witness_enters :
    Enters live live (sau0 false) (held0 false false true) ∧ Enters live live (sau0 true) (held0 true false true)
    ∧ Enters { live with lines := [(128, LLine.empty)] } { live with lines := [(128, LLine.empty)] } (sau0 false) (held0 false true true)
    ∧ Enters { live with sauq := [held0 false false false] } live (sau0 false) (held0 false false true) :=
  ⟨.inr ⟨fun _ h => (nomatch h), rfl, rfl⟩, .inr ⟨fun _ h => (nomatch h), rfl, rfl⟩, .inr ⟨fun _ h => (nomatch h), rfl, rfl⟩,
    .inl ⟨[], [], _, rfl, ⟨rfl, rfl⟩, fun _ h => (nomatch h), rfl, rfl⟩⟩

/-- Scatter-add: a line without a chain and with one, of one operation and of two; leased, and not; before its time; a host line that is pulled and one
that is not; a line that may be evicted and one that may not, of local memory and of the host's. -/
theorem witness_scatter_adds :
    ((held0 false false true).l = false ∧ (sau0 false).host = false ∧ live.chain (sauLine (sau0 false)) = [] ∧ live.snoops = [] ∧ Memory.wf live.mem = true)
    ∧ ({ live with sauq := [held0 false false true] } : State).chain (sauLine (sau0 false)) = [held0 false false true]
    ∧ ((sau0 true).host = true ∧ live.chain (sauLine (sau0 true)) = [] ∧ tget live.pulled ((sau0 true).pa / 128) = none)
    ∧ (let u : State := { live with lines := [(128, { LLine.empty with horizon := 100 })] }
       let x := u.lline (held0 false true true).da (sauLine (sau0 false))
       (held0 false true true).l = true ∧ u.pendingOf 128 = [] ∧ live.pkg.dtime.toNat + 4 < max live.pkg.dtime.toNat (max x.horizon x.lastV))
    ∧ (sauReady live (held0 true false true) = false
       ∧ ({ live with sauq := [held0 true false true] } : State).chain (sauLine (sau0 true)) = held0 true false true :: [])
    ∧ (poisoned live (sau0 false).pa (sauBytes (sau0 false)) = false
       ∧ poisoned { live with poison := [0x4008 / 32] } (sau0 false).pa (sauBytes (sau0 false)) = true)
    ∧ (live.pendingOf 5 = [] ∧ (∀ w ∈ live.sauq, w.line ≠ 5) ∧ (5 : Nat) < 2 ^ 45 ∧ live.chain (2 ^ 45 + 5) = [] ∧ live.pendingOf (2 ^ 45 + 5) = [])
    ∧ (∃ w ∈ ({ live with sauq := [held0 false false false] } : State).sauq, w.line = 128) ∧ (∀ x ∈ live.sauq, x.line ≠ 2 ^ 45 + 5)
    ∧ ({ live with sauq := [held0 true false true] } : State).chain (2 ^ 45 + 128) ≠ []
    ∧ (tget live.pulled 5 = none ∧ tget [(5, (7, false))] 5 = some (7, false) ∧ tget [(5, (7, true))] 5 = some (7, true))
    ∧ (tget live.lines 5 = none ∧ tget [(5, { LLine.empty with horizon := 100 })] 5 = some { LLine.empty with horizon := 100 }) := by decide

/-! #### Memory and atomic packets -/

/-- Requests: of 8 bytes in a line, across a line's end, above context memory; of a good word and of a bad one; with and without a lease asked for. -/
theorem witness_memory_packets :
    (let p := packetIn 0 0 1 3 [0x0380000000004008]; askedAt p = (0x4008, 8) ∧ (askedAt p).1 % 128 + (askedAt p).2 ≤ 128 ∧ (askedAt p).1 < contextTop
      ∧ poisoned live (askedAt p).1 (askedAt p).2 = false ∧ (p.body.headD 0).getLsbD 63 = false ∧ (p.body.headD 0).getLsbD 62 = false)
    ∧ 128 < (askedAt (packetIn 0 0 1 3 [0x0380000000004079])).1 % 128 + (askedAt (packetIn 0 0 1 3 [0x0380000000004079])).2
    ∧ contextTop ≤ (askedAt (packetIn 0 0 1 3 [0x0380007FE0000000])).1 ∧ poisoned { live with poison := [0x4008 / 32] } 0x4008 8 = true
    ∧ ((packetIn 0 0 1 3 [0x8380000000004008]).body.headD 0).getLsbD 63 = true ∧ ((packetIn 0 2 1 3 [0x4380000000004008]).body.headD 0).getLsbD 62 = true
    ∧ (∀ w ∈ live.lwrites, live.pkg.dtime.toNat + 4 < w.v) ∧ (∀ r ∈ live.fab.reqs, ¬ (r.tag = 9 ∧ r.dst = 5)) := by decide

/-- Answers: to a hart's load without and with a lease, that lasts and that does not; to a hart's posted write. -/
theorem witness_memory_answers :
    let r : HartRef := { core := 0, slot := 0 }
    let w : Posted := { seq := 0, tag := 9, port := 2, va := 0x6000, line := 0, failed := false }
    let p := packetIn 0 1 1 3 (0x1000 :: List.replicate 16 0)
    FirstReq (asking (.hart r) 0) (fun q => q.tag = p.tag ∧ q.dst = p.src) (asked1 (.hart r)) []
    ∧ ((asked1 (.hart r)).lease = none ∧ head p / 2 ^ 56 = 0 ∧ (bytesOf p.body.tail).length = 128)
    ∧ (let q : Request := { asked1 (.hart r) with lease := some 5 }
       FirstReq { asking (.hart r) 0 with fab := { (asking (.hart r) 0).fab with reqs := [q] } } (fun q => q.tag = p.tag ∧ q.dst = p.src) q []
       ∧ (0 : Word).toNat + 8 < q.since + head p % 2 ^ 17 ∧ q.since + head p % 2 ^ 17 ≤ (0x1000 : Word).toNat + 8
       ∧ 0 < cWays { asking (.hart r) 0 with fab := { (asking (.hart r) 0).fab with reqs := [q] } } r.core)
    ∧ (let s := (asking (.write r) 0).withHart (fun h => { h with posted := [w] })
       FirstReq s (fun q => q.tag = p.tag ∧ q.dst = p.src) (asked1 (.write r)) [] ∧ s.hart.posted = [w] ∧ w.tag = (asked1 (.write r)).tag ∧ w.failed = false
       ∧ ∀ rd, s.hart.wait ≠ .stv rd none) :=
  ⟨firstReq_only _ _ _ (by decide), by decide +kernel, ⟨⟨[], [], rfl, rfl, by decide, fun _ h => (nomatch h)⟩, by decide⟩,
    ⟨⟨[], [], rfl, rfl, by decide, fun _ h => (nomatch h)⟩, rfl, rfl, rfl, fun _ h => (nomatch h)⟩⟩

/-- Atomic requests: well formed and not; local, above context memory and bad; of the host's with and without a bridge. -/
theorem witness_atomic_packets :
    (let p := packetIn 1 0 1 3 [0x0200000000004008, 5, 0]
     p.ctx ≠ 1 ∧ head p % 2 ^ 52 = 0x4008 ∧ (head p / 2 ^ 58 = 0 ∧ (p.body.headD 0).getLsbD 57 = true) ∧ head p % 2 ^ 52 % 8 = 0 ∧ head p % 2 ^ 52 < contextTop)
    ∧ (16 ≤ (0x4200000000004008 : Word).toNat / 2 ^ 58 ∧ (0x0200000000004004 : Word).toNat % 2 ^ 52 % 8 ≠ 0)
    ∧ (({ packetIn 1 0 1 3 [0] with ctx := 1 } : Packet).ctx = 1 ∧ live.fab.bridge = true ∧ ({ live.fab with bridge := false } : Fabric).bridge = false)
    ∧ (live.cxlCache = false ∧ ({ live with cxlCache := true } : State).cxlCache = true)
    ∧ ((∀ x ∈ live.sauq, x.op = sau0 false → x.placed = true) ∧ leasedLine live (sau0 false) = false ∧ live.snoops = []
       ∧ live.chain ((sau0 false).pa / 128) = []) := by decide

/-! #### The ends of waits -/

/-- The small machine whose hart waits. -/
def waiting (w : Wait) : State := live.withHart (fun h => { h with wait := w })

/-- A hart in the slot and none; each wait, before and after its end. -/
theorem witness_waits :
    (∀ w, Is (waiting w) (waiting w) { core := 0, slot := 0 }) ∧ (∀ u, ¬ Is State.reset u { core := 0, slot := 0 })
    ∧ fenceEnd (waiting (.fence 5 6 true 0)) 5 0 = .complete ∧ fenceEnd ((waiting (.fence 5 6 true 0)).withHart (fun h => { h with xfers := [running0] })) 5 0 = .waits
    ∧ fenceReady (waiting (.fence 5 6 true 0)) = true ∧ seenAll (waiting .fenceI) = true
    ∧ seenAll { (waiting .fenceI).withHart (fun h => { h with postSeq := 1 }) with ltransit := [lwrite 0] } = false
    ∧ ((0 : Word).toNat ≤ (waiting (.viswait 0)).pkg.dtime.toNat ∧ (waiting (.viswait 1)).pkg.dtime.toNat < (1 : Word).toNat)
    ∧ ((ticketAt (waiting (.ticket 3 0 0)) 0 3).s = 0 ∧ (ticketAt (waiting (.ticket 3 1 0)) 0 3).s ≠ 1)
    ∧ (waiting (.hwait none 0 6 0)).hart.wait = .hwait none 0 6 0 ∧ (waiting (.stv 6 (some 9))).hart.wait = .stv 6 (some 9)
    ∧ (∀ rd v, (waiting .none).hart.wait ≠ .stv rd (some v)) ∧ live.hart.live = true ∧ live.hart.ref = { core := 0, slot := 0 }
    ∧ ((∀ scope rd report start, (waiting (.viswait 0)).hart.wait ≠ .fence scope rd report start) ∧ (waiting (.viswait 0)).hart.wait ≠ .fenceI)
    ∧ (∀ t, (waiting .none).hart.wait ≠ .viswait t) ∧ (∀ tile k cl, (waiting .none).hart.wait ≠ .ticket tile k cl)
    ∧ (∀ a expect rd start, (waiting .none).hart.wait ≠ .hwait a expect rd start)
    ∧ (∃ b v, hartLoad (waiting (.hwait (some 0x4008) 0 6 0)) 0x4008 8 = .ok b v) := by
  refine ⟨fun w => ⟨rfl, rfl, rfl⟩, ?_, by decide, by decide, by decide, by decide, by decide, by decide, by decide, rfl, rfl, fun _ _ h => (nomatch h), rfl, rfl,
    ⟨fun _ _ _ _ h => (nomatch h), fun h => (nomatch h)⟩, fun _ h => (nomatch h), fun _ _ _ h => (nomatch h), fun _ _ _ _ h => (nomatch h), _, _, rfl⟩
  rintro u ⟨rfl, h, -⟩
  exact absurd h (by decide)

/-- A posted write of a fence that has failed, and a limit that has passed. -/
theorem witness_fence_fails :
    firstPosted ((waiting (.fence 5 6 true 0)).withHart (fun h => { h with posted := [failedWrite] })).hart.posted = some failedWrite
    ∧ (∃ q ∈ [failedWrite], q.failed = true)
    ∧ (0 : Word).toNat + lrTicks live ≤ ({ live.pkg with dtime := 1000000 } : Pkg).dtime.toNat := by decide

/-- A transfer whose interrupt is owed. -/
def owed0 : Xfer := { running0 with state := .done, irq := true, handler := 0x2000 }

/-- A strip that is due, before and after its closing point. -/
def due0 (counts : Option (Nat × Nat × Nat × Nat)) : StripDue := { pc := 0x1000, vrows := 1, vcols := 4, vl := 4, ahead := 0, counts := counts }

/-- The small machine whose strip record is due, and whose hart may store it at 0x4000. -/
def striped (counts : Option (Nat × Nat × Nat × Nat)) : State :=
  live.withHart (fun h => { h with stripDue := [due0 counts], srEn := true, srbase := 4 })

/-- Interrupts: masked, none owed, one owed, and each reason that keeps it; a strip that is due, before and after its closing point, and one
that a transfer in flight meets. -/
theorem witness_interrupts :
    live.hart.uieIe = false
    ∧ (let h := { hart0 with uieIe := true, xfers := [owed0] }
       h.sup = false ∧ h.uieIe = true ∧ h.disp = [] ∧ h.wait = .none ∧ h.replies = [] ∧ (owed0 ∈ h.xfers ∧ owed0.irq = true ∧ owed0.state ≠ .running)
       ∧ ∀ y ∈ h.xfers, y ≠ owed0 → owed0.order < y.order)
    ∧ live.hart.stripDue = [] ∧ ((striped none).hart.stripDue = due0 none :: [] ∧ (due0 none).counts = none)
    ∧ (let s := striped (some (9, 8, 7, 6))
       let a : Word := BitVec.ofNat 64 (s.hart.srbase.toNat * 4096 + 32 * (s.hart.srhead.toNat % 2 ^ s.hart.srK.toNat))
       s.hart.stripDue = due0 (some (9, 8, 7, 6)) :: [] ∧ a = 0x4000 ∧ transfersMet (resolved s 0x4000 .store) a.toNat 32 true = []) := by decide

/-- See `witness_interrupts`. -/
theorem witness_strip :
    resolve live live.hart.who 0x4000 .store = (.ok (.phys 0x4000 0 false), resolved live 0x4000 .store)
    ∧ (∃ c v, resolve live live.hart.who 0x9000 .store = (.error c, v))
    ∧ transfersMet (live.modCore 0 (fun c => { c with arit := [{ slot := 0, id := 7, rlo := 0x4000, rhi := 0x4008, wlo := 0x5000, whi := 0x5008 }] }))
        0x4000 32 true ≠ [] := ⟨rfl, ⟨_, _, rfl⟩, by decide⟩

/-! #### Debug, counters and dumps -/

/-- The small machine with a change of core 0. -/
def cored (f : Core → Core) : State := live.modCore 0 f

/-- A core that runs, one that is halted, one that steps and one whose step is over; the hart that it steps, and none; gangs with and without a frame. -/
theorem witness_debug :
    (live.core 0).dHalted = false
    ∧ (let c := (cored (fun c => { c with dHalted := true })).core 0; c.dHalted = true ∧ c.stepping = none ∧ c.snapped = false)
    ∧ (live.allHarts.filter (fun h => h.core = 0) = [hart0] ∧ hart0.disp = [] ∧ hart0.replies = [] ∧ hart0.wait = .none)
    ∧ (let h := { hart0 with wait := .reply 0 }; h ∈ (live.withHart (fun h => { h with wait := .reply 0 })).allHarts ∧ h.wait = .reply 0)
    ∧ (live.findHart { core := 0, slot := (live.core 0).dShart } ≠ none ∧ (live.findHart { core := 0, slot := 5 }) = none)
    ∧ (∀ h ∈ tasked.allHarts, tget tasked.gangs h.gang.toNat = some gang0) ∧ gang0.frame = none
    ∧ (let c := (cored (fun c => { c with dHalted := true, stepping := some false, stepBegan := true })).core 0
       c.stepping ≠ none ∧ c.stepBegan = true ∧ ∀ h ∈ live.findHart { core := 0, slot := c.dShart }, h.disp = [] ∧ h.wait = .none)
    ∧ (¬ ∀ h ∈ (live.withHart (fun h => { h with wait := .viswait 0 })).findHart { core := 0, slot := 0 },
        h.wait = .none ∨ h.wait = .saved ∨ h.wait = .ended ∨ h.wait = .halted) := by decide

/-- Triggers and dumps: none armed, one before its time and one at it; no dump, one that waits, one that is written with and without a reset that waits, with and
without room for its header. -/
theorem witness_dumps :
    live.pkg.pmPending = false ∧ (let p : Pkg := { live.pkg with pmPending := true, pmtrig := 5 }; p.dtime.toNat < p.pmtrig.toNat ∧ p.pmPending = true)
    ∧ live.pkg.pmtrig.toNat ≤ live.pkg.dtime.toNat ∧ live.dumpCtx = none ∧ live.dumpWaiting = [] ∧ ({ live with dumpWaiting := [3] } : State).dumpWaiting = 3 :: []
    ∧ (let s := { ctxIn { Ctx.empty with state := .dumping, dumpsize := 0x240, dumpbase := 0x8000 } with dumpCtx := some 3 }
       s.dumpCtx = some 3 ∧ (s.ctx 3).resetHeld = false ∧ 0x240 ≤ (s.ctx 3).dumpsize.toNat ∧ (s.gangs.filter (fun p => p.2.ctx = 3)).length = 0 ∧ Memory.wf s.mem = true)
    ∧ (let s := { ctxIn { Ctx.empty with state := .dumping, dumpsize := 0x23F, resetHeld := true } with dumpCtx := some 3 }
       (s.ctx 3).resetHeld = true ∧ (s.ctx 3).dumpsize.toNat < 0x240) := by decide

/-! #### The machine -/

/-- The machine whose agenda is as given, whose package has power. -/
def upWith (ms : List Move) : State := { live with pkg := { live.pkg with powered := true, stopped := false }, agenda := ms }

/-- A package that is up, whose agenda holds an event, time, a packet, or a turn of a hart that may fetch. -/
theorem witness_up :
    Up (upWith []) ∧ (upWith [.event .powerRemoval]).agenda = .event .powerRemoval :: [] ∧ (upWith [.time 3]).agenda = .time 3 :: []
    ∧ (upWith [.upset .corrected]).agenda = .upset .corrected :: [] ∧ (∀ p, (upWith [.packet p]).agenda = .packet p :: []) ∧ MayFetch (atTurn (upWith []) [] { core := 0, slot := 0 }) { core := 0, slot := 0 } := by
  refine ⟨⟨rfl, rfl⟩, rfl, rfl, rfl, fun _ => rfl, ?_⟩
  unfold MayFetch
  decide

/-- The row that a packet is, for a class with one row of its op and for one with two. -/
theorem witness_arrivals :
    (∃ x ∈ arrivals (packetIn 3 3 1 3 [0]), (packetIn 3 3 1 3 [0]).cls.toNat = x.1 ∧ (packetIn 3 3 1 3 [0]).op.toNat = x.2.1 ∧ x.2.2.1 = true)
    ∧ (∃ x ∈ arrivals (packetIn 2 1 1 3 [0x200000]), (packetIn 2 1 1 3 [0x200000]).cls.toNat = x.1 ∧ (packetIn 2 1 1 3 [0x200000]).op.toNat = x.2.1 ∧ x.2.2.1 = true) := by
  constructor
  · exact ⟨(3, 3, true, .hostWriteAck (packetIn 3 3 1 3 [0])), by simp [arrivals], rfl, rfl, rfl⟩
  · exact ⟨(2, 1, (0x200000 : Word).getLsbD 21, .endReport (packetIn 2 1 1 3 [0x200000])), by simp [arrivals, packetIn], rfl, rfl, by decide⟩

/-- Fetches: bytes that decode, a body outside a convoy, bytes that do not, and a fetch that traps; an instruction cache without the line. -/
theorem witness_fetches :
    let s (w : Nat) : State := { upWith [] with mem := memWrite [] 0x1000 (leBytes 4 w) }
    (∃ bs v i more, (s 0xFFB10093).fetch = (.bytes bs, v) ∧ breakHit v v.hart.pc (startSize (lineWord bs 0)) = none ∧ decode bs = .ok (i, more))
    ∧ (∃ bs v, (s 0x3F).fetch = (.bytes bs, v) ∧ decode bs = .error .orphanBody) ∧ (∃ bs v e, (s 0).fetch = (.bytes bs, v) ∧ decode bs = .error e ∧ e ≠ .orphanBody)
    ∧ (∃ c tval pc m v, ((s 0).withHart (fun h => { h with pc := 0x9000 })).fetch = (.trap c tval pc m, v))
    ∧ (∃ v, resolve (s 0) (s 0).hart.who 0x1000 .fetch = (.ok (.phys 0x1000 0 false), v) ∧ poisoned v 0x1000 128 = false ∧ tget (v.core v.hart.core).icache (0x1000 / 128) = none
        ∧ startOf (memRead v.mem 0x1000 128) 0 = 0) := by
  refine ⟨⟨_, _, _, _, rfl, rfl, rfl⟩, ⟨_, _, rfl, rfl⟩, ⟨_, _, _, rfl, rfl, by decide⟩, ⟨_, _, _, _, _, rfl⟩, ⟨_, rfl, rfl, rfl, rfl⟩⟩

/-- A package without power, one that has stopped, and agendas of each kind. -/
theorem witness_stopped :
    State.reset.agenda.head? ≠ some (.event .powerOnReset) ∧ ({ live.pkg with powered := false } : Pkg).powered = false
    ∧ (({ live.pkg with powered := true, stopped := true, tripOut := true } : Pkg).stopped = true)
    ∧ (upWith [.event .perstAssert]).agenda.head? ≠ some (.event .powerRemoval) ∧ (upWith [.event .powerOnReset]).agenda = .event .powerOnReset :: []
    ∧ (upWith [.event .perstAssert]).agenda = .event .perstAssert :: [] ∧ (upWith [.event .bootctlPkrst]).agenda.head? = some (.event .bootctlPkrst)
    ∧ (live.pkg.tripOut = false ∧ ({ live.pkg with tripOut := true } : Pkg).tripOut = true) ∧ (0x48 : BitVec 16).toNat < 0x50 ∧ (carried .whole 1).getLsbD 0 = true
    ∧ (upWith [.event (.slotManagementAccess 0 .mgt 0x48 .whole none)]).agenda.head? = some (.event (.slotManagementAccess 0 .mgt 0x48 .whole none))
    ∧ (upWith [.event (.slotManagementAccess 0 .mgt 8 .whole (some 1))]).agenda.head? = some (.event (.slotManagementAccess 0 .mgt 8 .whole (some 1))) := by decide

/-- Memories and tables in their form, and a step from them that goes on. -/
theorem witness_steps :
    Memory.wf (upWith [.time 1]).mem = true ∧ Sorted (upWith [.time 1]).queues ∧ Sorted (upWith [.time 1]).banks ∧ ∃ t, step (upWith [.time 1]) = .next t :=
  ⟨rfl, .nil, .nil, _, rfl⟩

/-- Well-formed instructions: a scalar one, and one that a convoy's body encodes. -/
theorem witness_encodings :
    (Instr.addi 1 2 0xFFB).wellFormed = true ∧ (encodeScalar (.addi 1 2 0xFFB)).isSome = true
    ∧ (Instr.vadd (body 24 8 4 6)).wellFormed = true ∧ (memberCode (.vadd (body 24 8 4 6))).isSome = true := by decide


/-! ### Values by hand calculation

Each test runs one instruction on the small machine and looks at one or two fields of the next state. The expected values are worked out from the
tables that each name cites. -/

/-- Arithmetic (13 R341): a sum that wraps, a difference below 0, the least number shifted right by 63, and unsigned and signed order. -/
theorem test_arithmetic :
    leaves (exec (.addi 1 2 1) (liveX [(2, 0xFFFFFFFFFFFFFFFF)])) (fun t => t.getX 1 == 0 && t.hart.pc == 0x1004) = true
    ∧ leaves (exec (.sub 1 2 3) (liveX [(2, 3), (3, 5)])) (fun t => t.getX 1 == 0xFFFFFFFFFFFFFFFE) = true
    ∧ leaves (exec (.srai 1 2 63) (liveX [(2, 0x8000000000000000)])) (fun t => t.getX 1 == 0xFFFFFFFFFFFFFFFF) = true
    ∧ leaves (exec (.sltu 1 2 3) (liveX [(2, 1), (3, 0xFFFFFFFFFFFFFFFF)])) (fun t => t.getX 1 == 1) = true
    ∧ leaves (exec (.slt 1 2 3) (liveX [(2, 1), (3, 0xFFFFFFFFFFFFFFFF)])) (fun t => t.getX 1 == 0) = true
    ∧ leaves (exec (.addi 0 2 1) (liveX [(2, 6)])) (fun t => t.getX 0 == 0) = true := by decide +kernel

/-- Words (13 R341): a sum of 32 bits is sign-extended, and a shift takes 5 bits of its amount. -/
theorem test_words :
    leaves (exec (.addiw 1 2 1) (liveX [(2, 0x7FFFFFFF)])) (fun t => t.getX 1 == 0xFFFFFFFF80000000) = true
    ∧ leaves (exec (.srlw 1 2 3) (liveX [(2, 0xFFFFFFFF80000000), (3, 36)])) (fun t => t.getX 1 == 0x08000000) = true
    ∧ leaves (exec (.lui 1 0x80000) live) (fun t => t.getX 1 == 0xFFFFFFFF80000000) = true
    ∧ leaves (exec (.auipc 1 0x00001) live) (fun t => t.getX 1 == 0x2000) = true := by decide +kernel

/-- Products and quotients (13 R341): (-1) times (2^64 - 1) in its upper half, and the two corners of division. -/
theorem test_products :
    leaves (exec (.mulh 1 2 3) (liveX [(2, 0xFFFFFFFFFFFFFFFF), (3, 0xFFFFFFFFFFFFFFFF)])) (fun t => t.getX 1 == 0) = true
    ∧ leaves (exec (.mulhsu 1 2 3) (liveX [(2, 0xFFFFFFFFFFFFFFFF), (3, 0xFFFFFFFFFFFFFFFF)])) (fun t => t.getX 1 == 0xFFFFFFFFFFFFFFFF) = true
    ∧ leaves (exec (.mulhu 1 2 3) (liveX [(2, 0xFFFFFFFFFFFFFFFF), (3, 0xFFFFFFFFFFFFFFFF)])) (fun t => t.getX 1 == 0xFFFFFFFFFFFFFFFE) = true
    ∧ leaves (exec (.div 1 2 0) (liveX [(2, 7)])) (fun t => t.getX 1 == 0xFFFFFFFFFFFFFFFF) = true
    ∧ leaves (exec (.rem 1 2 0) (liveX [(2, 7)])) (fun t => t.getX 1 == 7) = true
    ∧ leaves (exec (.div 1 2 3) (liveX [(2, 0x8000000000000000), (3, 0xFFFFFFFFFFFFFFFF)])) (fun t => t.getX 1 == 0x8000000000000000) = true := by
  decide +kernel

/-- Control flow (13 R341, 12 R311): a branch taken backwards and one not taken, a link, and a target whose bit 0 is dropped. -/
theorem test_control_flow :
    leaves (exec (.bne 2 0 0xFFE) (liveX [(2, 1)])) (fun t => t.hart.pc == 0xFFC) = true
    ∧ leaves (exec (.beq 2 0 0xFFE) (liveX [(2, 1)])) (fun t => t.hart.pc == 0x1004) = true
    ∧ leaves (exec (.jal 1 4) live) (fun t => t.hart.pc == 0x1008 && t.getX 1 == 0x1004) = true
    ∧ leaves (exec (.jalr 2 2 0) (liveX [(2, 0x3001)])) (fun t => t.hart.pc == 0x3000 && t.getX 2 == 0x1004) = true := by decide +kernel

/-- The small machine with the bytes 0x80, 0x01, 0xFE, 0xFF at 0x4000. -/
def bytesAt : State := { liveX [(2, 0x4000), (3, 0x123456789ABCDEF0)] with mem := memWrite [] 0x4000 [0x80, 0x01, 0xFE, 0xFF] }

/-- Memory (13 R342): little-endian, sign-extended or not, and a store of its low bytes. -/
theorem test_memory :
    leaves (exec (.lb 1 2 0) bytesAt) (fun t => t.getX 1 == 0xFFFFFFFFFFFFFF80) = true
    ∧ leaves (exec (.lhu 1 2 0) bytesAt) (fun t => t.getX 1 == 0x180) = true
    ∧ leaves (exec (.lw 1 2 0) bytesAt) (fun t => t.getX 1 == 0xFFFFFFFFFFFE0180) = true
    ∧ leaves (exec (.sh 2 3 2) bytesAt) (fun t => memRead t.mem 0x4000 4 == [0x80, 0x01, 0xF0, 0xDE]) = true
    ∧ leaves (exec (.amoadd 1 2 3 { dbl := false, aq := false, rl := false }) bytesAt)
        (fun t => t.getX 1 == 0xFFFFFFFFFFFE0180 && memNat t.mem 0x4000 4 == 0x9ABAE070) = true := by decide +kernel

/-- Traps and returns (10 R252 to R254): ECALL leaves its pc and cause and enters supervisor mode; TRET goes back; a misaligned load reports its address. -/
theorem test_traps :
    leaves (exec .ecall live) (fun t => t.hart.pc == 0x2000 && t.hart.sepc == 0x1000 && t.hart.scause == 0x0B && t.hart.sup) = true
    ∧ leaves (exec .tret (liveSup.withHart (fun h => { h with sepc := 0x1010, spp := false }))) (fun t => t.hart.pc == 0x1010 && !t.hart.sup) = true
    ∧ leaves (exec (.lw 1 2 1) bytesAt) (fun t => t.hart.scause == 0x0A && t.hart.stval == 0x4001 && t.hart.pc == 0x2000) = true := by decide +kernel

/-- CSRs (10 Table 10.3): a swap of `vxrm` keeps its two bits, and gives the old value. -/
theorem test_csr :
    leaves (exec (.csrrw 1 2 0x804) (liveX [(2, 0xFF)])) (fun t => t.getX 1 == 0 && t.hart.vxrm == 3) = true
    ∧ leaves (exec (.csrrs 1 0 0xC20) live) (fun t => t.getX 1 == 4) = true := by decide +kernel

/-- The small machine with elements 1, 2, 3 and 0xFFFFFFFF in v4, and 1 in each element of v6. -/
def vectors : State := live.withHart (fun h => { h with v := (h.v.set 4 0xFFFFFFFF000000030000000200000001).set 6 0x00000001000000010000000100000001 })

/-- Vector instructions (14 R373): a sum of four words wraps, and 1.0 + 2.0 is 3.0 in FP32. -/
theorem test_vectors :
    leaves (exec (.vadd (body 24 8 4 6)) vectors) (fun t => t.hart.v[8]! == 0x00000000000000040000000300000002) = true
    ∧ leaves (exec (.vfadd (body 20 8 4 6)) ((live.withHart (fun h => { h with vl := 1, v := (h.v.set 4 0x3F800000).set 6 0x40000000 }))))
        (fun t => t.hart.v[8]! % 2 ^ 32 == 0x40400000) = true := by decide +kernel

/-- From reset, a word placed where the fetch finds it is the first instruction to run: ADDI x1, x0, 5. -/
theorem test_first_step : leaves (step (State.reset.withFetchWord 32 0x00500093)) (fun t => t.getX 1 == 5) = true := by decide +kernel

end Sys2Proof.Tests
end

section
/-!
PROOFS. A vector instruction by itself is a convoy of one member (12 R321): what issuing it changes, and that it completes with the effect of
its line of the tables when its member performs as the line says (`Performs`, `completes_of_performs`).
-/
namespace Sys2Proof.VectorProofs
open Sys2Proof.Machine hiding takes
open Sys2Proof.Claims

/-! ### Issuing a member -/

/-- A convoy of one member has issued: beside the strip counts of the hart, what counts and what its trace record reaches, nothing but the
purse of the hart's queue differs, which has paid `coins` when the member runs. -/
def Issued (s t : State) (runs : Bool) (coins : Nat) : Prop :=
  (∃ u, OnlyTraced s u ∧ t = { u with hart := t.hart, cores := t.cores })
    ∧ (∀ c, t.core c = { s.core c with
        pm := (t.core c).pm
        purses := if c = s.hart.core ∧ runs = true then paid (s.core c).purses ((s.hart.purse s).getD 0) coins else (s.core c).purses })
    ∧ t.hart = { s.hart with
        stripCoins := s.hart.stripCoins + (if runs then coins else 0), stripMem := t.hart.stripMem, stripArith := t.hart.stripArith }

theorem onlyTraced_traceFree (s : State) (kind : Nat) (hw : Memory.wf s.mem = true) : OnlyTraced s (s.traceFree kind) := by
  unfold State.traceFree
  split
  · have hf := onlyTraced_freshWord s
    exact onlyTraced_trans hf (trace_spec s.freshWord.2 kind s.freshWord.1 (by rw [State.freshWord_mem]; exact hw)).1
  · exact onlyTraced_refl s

theorem onlyTraced_hart {s u : State} (h : OnlyTraced s u) : u.hart = s.hart := by rw [h.1]

theorem onlyTraced_core {s u : State} (h : OnlyTraced s u) (c : BitVec 8) : u.core c = s.core c :=
  core_of_cores (by rw [h.1]) c

theorem onlyTraced_purse {s u : State} (h : OnlyTraced s u) : u.hart.purse u = s.hart.purse s := by
  unfold Hart.purse; rw [h.1]

theorem issued_count {s t : State} {runs : Bool} {coins : Nat} (h : Issued s t runs coins) (ev n : Nat) :
    Issued s (t.count ev n) runs coins := by
  obtain ⟨⟨u, hu, ht⟩, hc, hh⟩ := h
  refine ⟨⟨u, hu, ?_⟩, fun c => ?_, ?_⟩
  · rw [count_eq, ht]
  · rw [count_core, hc]
  · rw [State.count_hart]; exact hh

/-- A member marked completed issues nothing. -/
theorem issued_of_traced {s u : State} (h : OnlyTraced s u) (coins : Nat) : Issued s u false coins := by
  refine ⟨⟨u, h, rfl⟩, fun c => ?_, ?_⟩
  · rw [onlyTraced_core h]; simp
  · rw [onlyTraced_hart h]; simp

/-- The queue of the current hart pays (05 R136). -/
theorem charge_core (s : State) (n : Nat) (c : BitVec 8) :
    (s.charge n).core c = { s.core c with
      pm := ((s.charge n).core c).pm
      purses := if c = s.hart.core then paid (s.core c).purses ((s.hart.purse s).getD 0) n else (s.core c).purses } := by
  refine (count_core (s.modCore s.hart.core _) 3 n c).trans ?_
  rw [core_modCore]
  by_cases hc : c = s.hart.core
  · subst hc; rw [if_pos rfl, if_pos rfl]; rfl
  · rw [if_neg hc, if_neg hc]; rfl

theorem charge_hart (s : State) (n : Nat) : (s.charge n).hart = { s.hart with stripCoins := s.hart.stripCoins + n } := by
  simp [State.charge]

theorem charge_eq (s : State) (n : Nat) : s.charge n = { s with hart := (s.charge n).hart, cores := (s.charge n).cores } := by
  unfold State.charge
  simp only [State.withHart]
  rw [count_eq]
  rfl

theorem issued_charge {s u : State} (h : OnlyTraced s u) (coins : Nat) : Issued s (u.charge coins) true coins := by
  refine ⟨⟨u, h, charge_eq u coins⟩, fun c => ?_, ?_⟩
  · rw [charge_core, onlyTraced_purse h, onlyTraced_hart h, onlyTraced_core h]; simp
  · rw [charge_hart, onlyTraced_hart h]; simp

theorem issued_withHart {s t : State} {runs : Bool} {coins : Nat} (h : Issued s t runs coins) (f : Hart → Hart)
    (hf : f t.hart = { t.hart with stripMem := (f t.hart).stripMem, stripArith := (f t.hart).stripArith }) :
    Issued s (t.withHart f) runs coins := by
  obtain ⟨⟨u, hu, ht⟩, hc, hh⟩ := h
  refine ⟨⟨u, hu, ?_⟩, hc, ?_⟩
  · rw [ht]; rfl
  · rw [State.withHart_hart, hf, hh]

theorem issued_issue {s u : State} (h : OnlyTraced s u) (p : Placed) (c : Captured) (restart : Bool) :
    Issued s (u.issue p c restart) true (p.coins c restart s.hart) := by
  unfold State.issue
  rw [← onlyTraced_hart h]
  refine issued_withHart (issued_count (issued_charge h _) _ _) _ ?_
  split <;> rfl

/-- What issuing a convoy of one member does (05 R136; 10 R274). -/
theorem issued_issueAll (s : State) (c : Captured) (done restart : BitVec 6) (p : Placed) (hw : Memory.wf s.mem = true) :
    Issued s (s.issueAll c done restart [p]) (!wbit done 0) (p.coins c (wbit restart 0) s.hart) := by
  have ht := onlyTraced_traceFree s 3 hw
  unfold State.issueAll
  simp only [List.zipIdx_cons, List.zipIdx_nil, List.foldl_cons, List.foldl_nil]
  refine issued_count (issued_count ?_ _ _) _ _
  cases wbit done 0
  · exact issued_issue ht p c _
  · exact issued_of_traced ht _

/-! ### The strip counts of a hart -/

/-- A hart with the strip counts of another. -/
def stripsOf (h k : Hart) : Hart := { h with stripCoins := k.stripCoins, stripMem := k.stripMem, stripArith := k.stripArith }

theorem issued_hart {s t : State} {runs : Bool} {coins : Nat} (h : Issued s t runs coins) : t.hart = stripsOf s.hart t.hart := by
  obtain ⟨-, -, hh⟩ := h
  rw [hh]; rfl

/-- A convoy that has issued, and whose member has left the hart as `k`, has drained (06 R152, R168). -/
theorem drained_of_issued {s t : State} {coins : Nat} (h : Issued s t (!doneMark s.hart) coins) (k : Hart)
    (hpc : k.pc = s.hart.pc) (hret : k.instret = s.hart.instret) :
    Drained s { t with hart := { (stripsOf k t.hart).drained with pc := (stripsOf k t.hart).pc + 12 } } k coins := by
  obtain ⟨⟨u, hu, ht⟩, hc, hh⟩ := h
  have hcoins : t.hart.stripCoins = s.hart.stripCoins + (if doneMark s.hart then 0 else coins) := by
    rw [hh]; cases doneMark s.hart <;> rfl
  refine ⟨⟨u, hu, by rw [ht]⟩, fun c => ?_, ?_⟩
  · have hcc := hc c
    simp only [Bool.not_eq_true'] at hcc
    exact hcc
  · simp only [stripsOf, Hart.drained, hpc, hret, hcoins]

/-! ### A lone convoy -/

/-- A member performs as a line of the tables says: its description is the line's, the line's conditions pass its checks, and from a hart
whose strip counts alone have moved it leaves the line's hart. -/
structure Performs (p : VForm) (b : Body) (s : State) (m : Member) : Prop where
  ops : m.ops = p.ops b := by rfl
  width : m.w = p.w b := by rfl
  group : m.n = p.n b := by rfl
  mxu : m.mxu = p.mx.map (fun f => f b) := by rfl
  starts : m.starts = p.starts := by rfl
  whole : (m.whole || m.mxu.isSome) = !p.starts := by rfl
  applied : m.applied s.hart.captured s.hart = 0 := by rfl
  good : p.legal b s.hart → m.bad s.hart.captured s.hart = false
  shape : p.fits b s.hart → m.shape s.hart.captured s.hart (doneMark s.hart || restartMark s.hart) = none := by exact fun _ => rfl
  pc : (p.effect b s).pc = s.hart.pc
  instret : (p.effect b s).instret = s.hart.instret
  run : p.legal b s.hart → p.performs s.hart → ∀ u k, u.hart = stripsOf s.hart k →
    m.run s.hart.captured (bif p.starts then firstElem s.hart else 0) s.hart.vl.toNat u
      = .ok { u with hart := stripsOf (p.effect b s) k }

theorem memberChecks_single {p : Placed} {hdr : BitVec 32} {c : Captured} {done restart : BitVec 6} {h : Hart}
    (hl : p.m.illegal p.body c h = false) (hs : p.m.shapeFault c h (wbit done 0) (wbit restart 0) = none) :
    memberChecks [p] hdr c done restart h = none := by
  simp [memberChecks, firstBad, conflict, hl, hs]

theorem illegal_of_legal {p : VForm} {b : Body} {s : State} {m : Member} (hm : Performs p b s m) (h : p.Legal b s.hart) :
    m.illegal b s.hart.captured s.hart = false := by
  obtain ⟨hmask, hops, hmixed, hlegal⟩ := h
  have hmb : maskBad b = false := by
    unfold maskBad
    cases hmen : b.men
    · simp [hmask hmen]
    · rfl
  simp only [Member.illegal, hm.ops, hmixed, hm.good hlegal, hmb, Bool.or_false, Bool.false_or, List.any_eq_false]
  exact fun o ho => by simp [hops o ho]

theorem shapeFault_of_fits {p : VForm} {b : Body} {s : State} {m : Member} (hm : Performs p b s m) (h : p.Fits b s.hart) :
    m.shapeFault s.hart.captured s.hart (doneMark s.hart) (restartMark s.hart) = none := by
  obtain ⟨hlen, hstart, hfits⟩ := h
  have h1 : ¬ s.hart.vlb.toNat * 8 * p.n b < s.hart.vl.toNat * p.w b := by rw [Nat.mul_comm s.hart.vlb.toNat]; omega
  unfold Member.shapeFault
  rw [hm.width, hm.group, hm.starts, hm.shape hfits, if_neg (by simp [Hart.captured, h1]), if_neg]
  simp only [Bool.and_eq_true, Bool.not_eq_true', Hart.captured]
  rintro ⟨⟨⟨⟨⟨-, hs⟩, hd⟩, hr⟩, hpos⟩, hle⟩
  exact absurd (of_decide_eq_true hle) (by have := hstart hs hd hr (of_decide_eq_true hpos); omega)

theorem wbit_and_one (x : BitVec 6) : wbit (x &&& 1) 0 = wbit x 0 := by simp [wbit]

theorem wbit_done (h : Hart) : wbit (h.cvUse.1 &&& 1) 0 = doneMark h := wbit_and_one _

theorem wbit_restart (h : Hart) : wbit (h.cvUse.2 &&& 1 &&& ~~~(h.cvUse.1 &&& 1)) 0 = restartMark h := by
  simp [wbit, restartMark, doneMark]

/-- The first element that a member with the description of a line performs. -/
theorem from_eq {p : VForm} {b : Body} {s : State} {m : Member} (hm : Performs p b s m) (cls : Nat) (word : Word) :
    Placed.from { cls := cls, body := b, word := word, m := m } s.hart.captured (restartMark s.hart)
      = bif p.starts then firstElem s.hart else 0 := by
  unfold Placed.from firstElem
  rw [hm.whole]
  cases p.starts <;> cases restartMark s.hart <;> rfl

theorem coins_eq {p : VForm} {b : Body} {s : State} {m : Member} (hm : Performs p b s m) (cls : Nat) (word : Word) :
    Placed.coins { cls := cls, body := b, word := word, m := m } s.hart.captured (restartMark s.hart) s.hart = p.coins b s.hart := by
  simp only [Placed.coins, VForm.coins, Placed.charged, hm.mxu, hm.applied, hm.width, hm.group]
  cases p.mx with
  | some f => rfl
  | none => cases hr : restartMark s.hart <;> simp [cdiv, firstElem, hr, Captured.start, Hart.captured]

theorem spoilt_of_clean {p : Placed} {h : Hart} (hc : Clean h) : p.spoilt h = false := by
  obtain ⟨hv, ha, -, -⟩ := hc
  simp [Placed.spoilt, hv, ha]

theorem regCount_zero (n : Nat) : regCount (0#n) = 0 := by simp [regCount]

theorem mended_of_clean {p : Placed} {h : Hart} (hc : Clean h) : p.mended h = 0 := by
  obtain ⟨-, -, hv, ha⟩ := hc
  simp [Placed.mended, hv, ha, regCount_zero]

theorem run_of_clean {p : Placed} {c : Captured} {lo hi : Nat} {s : State} (hc : Clean s.hart) : p.run c lo hi s = p.m.run c lo hi s := by
  obtain ⟨hv, -, hs, -⟩ := hc
  unfold Placed.run
  rw [if_pos (Or.inl (by rw [hv, hs]; rfl))]

/-- A convoy of one member that is marked done, or has no elements, ends as it has issued. -/
theorem perform_idle {p : Placed} {c : Captured} {done restart : BitVec 6} {s : State}
    (h : wbit done 0 = true ∨ (c.vl = 0 ∧ p.m.mxu.isNone = true)) :
    perform [p] c false done restart s = .ok (s.issueAll c done restart [p]) := by
  cases hd : wbit done 0
  · obtain ⟨hv, hx⟩ := h.resolve_left (by simp [hd])
    simp [perform, Run.all, Run.step, hd, hv, hx]
  · simp [perform, Run.all, hd]

/-- A convoy of one member whose run goes through ends with that run. -/
theorem perform_runs {p : Placed} {c : Captured} {done restart : BitVec 6} {s u : State} (hd : wbit done 0 = false)
    (hv : (decide (c.vl = 0) && p.m.mxu.isNone) = false) (hc : Clean (s.issueAll c done restart [p]).hart)
    (hr : p.m.run c (p.from c (wbit restart 0)) c.vl (s.issueAll c done restart [p]) = .ok u) :
    perform [p] c false done restart s = .ok u := by
  simp [perform, Run.all, Run.step, hd, hv, spoilt_of_clean hc, run_of_clean hc, hr, mended_of_clean hc, State.sramUp]

theorem clean_stripsOf {h k : Hart} (hc : Clean h) : Clean (stripsOf h k) := hc

theorem lone_next {cls : BitVec 4} {f8 : BitVec 8} {b : Body} {m : Member} {s t : State} (hdisp : s.hart.disp = [])
    (hl : m.illegal b s.hart.captured s.hart = false)
    (hs : m.shapeFault s.hart.captured s.hart (doneMark s.hart) (restartMark s.hart) = none)
    (hp : perform [{ cls := cls.toNat, body := b, word := encodeBody cls f8 b, m := m }] s.hart.captured false (s.hart.cvUse.1 &&& 1)
      (s.hart.cvUse.2 &&& 1 &&& ~~~(s.hart.cvUse.1 &&& 1)) s = .ok t) :
    lone cls f8 b m s = .next (t.withHart (fun h => { h.drained with pc := h.pc + 12 })) := by
  unfold lone
  rw [if_neg (by simp [hdisp])]
  simp only
  rw [memberChecks_single hl (by rw [wbit_done, wbit_restart]; exact hs), hp]

/-- A lone convoy of a member that performs as its line says completes, with the line's effect (06 R152, R168; 12 R321). -/
theorem lone_completes {p : VForm} {b : Body} {s : State} {m : Member} (hm : Performs p b s m) (cls : BitVec 4) (f8 : BitVec 8)
    (hw : Memory.wf s.mem = true) (hdisp : s.hart.disp = []) (hclean : Clean s.hart) (hl : p.Legal b s.hart) (hf : p.Fits b s.hart) :
    ∃ t, lone cls f8 b m s = .next t
      ∧ (p.performs s.hart → Drained s t (p.effect b s) (p.coins b s.hart))
      ∧ (¬ p.performs s.hart → Drained s t s.hart (p.coins b s.hart)) := by
  have hnext := fun t => lone_next (t := t) (cls := cls) (f8 := f8) hdisp (illegal_of_legal hm hl) (shapeFault_of_fits hm hf)
  have hi := issued_issueAll s s.hart.captured (s.hart.cvUse.1 &&& 1) (s.hart.cvUse.2 &&& 1 &&& ~~~(s.hart.cvUse.1 &&& 1))
    { cls := cls.toNat, body := b, word := encodeBody cls f8 b, m := m } hw
  rw [wbit_done, wbit_restart, coins_eq hm] at hi
  have hh := issued_hart hi
  obtain ⟨-, -, -, hlegal⟩ := hl
  have hmx : m.mxu.isSome = p.mx.isSome := by rw [hm.mxu, Option.isSome_map]
  by_cases hperf : p.performs s.hart
  · obtain ⟨hdone, hsome⟩ := hperf
    have hrun := hm.run hlegal ⟨hdone, hsome⟩ _ _ hh
    rw [← from_eq hm cls.toNat (encodeBody cls f8 b), ← wbit_restart] at hrun
    refine ⟨_, hnext _ (perform_runs (by rw [wbit_done]; exact hdone) ?_ ?_ hrun), fun _ => ?_, fun h => absurd ⟨hdone, hsome⟩ h⟩
    · rw [← hmx] at hsome
      rcases hsome with h | h
      · have hv : s.hart.vl.toNat ≠ 0 := fun e => h (BitVec.eq_of_toNat_eq e)
        simp [Hart.captured, hv]
      · rw [← Option.not_isSome, h]; simp
    · rw [hh]; exact clean_stripsOf hclean
    · exact drained_of_issued hi _ hm.pc hm.instret
  · refine ⟨_, hnext _ (perform_idle ?_), fun h => absurd h hperf, fun _ => ?_⟩
    · rw [wbit_done]
      cases hd : doneMark s.hart
      · right
        have h2 : ¬ (s.hart.vl ≠ 0 ∨ p.mx.isSome = true) := fun h => hperf ⟨hd, h⟩
        obtain ⟨hv, hx⟩ := not_or.1 h2
        refine ⟨by simp only [Hart.captured]; rw [not_not.1 hv]; rfl, ?_⟩
        rw [← hmx] at hx
        simpa using hx
      · exact Or.inl rfl
    · have hdrained := drained_of_issued hi s.hart rfl rfl
      rw [← hh] at hdrained
      exact hdrained

/-- A line of the tables completes when its instruction is a lone convoy of a member that performs as the line says. -/
theorem completes_of_performs {p : VForm} {cls : BitVec 4} {f8 : BitVec 8} {m : Body → State → Member}
    (hexec : ∀ b s, exec (p.make b) s = lone cls f8 b (m b s) s) (hm : ∀ b s, p.Legal b s.hart → Performs p b s (m b s)) : p.Completes := by
  intro b s hw hdisp hclean hl hf
  rw [hexec]
  exact lone_completes (hm b s hl) cls f8 hw hdisp hclean hl hf

end Sys2Proof.VectorProofs
end

section
/-!
PROOFS. What the lines of the vector tables share: writing results to registers and masks, the operands of an element, the checks of a legal
body, and the fixed-point results (11 R282, R288).
-/
namespace Sys2Proof.VectorProofs
open Sys2Proof.Machine hiding takes
open Sys2Proof.Claims

/-! ### Writing results -/

theorem vset_frame {α : Type} (f : Hart → α) (hf : ∀ (h : Hart) v d, f { h with v := v, vdirty := d } = f h) (h : Hart) (vb w e x : Nat) :
    f (h.vset vb w e x) = f h := by
  unfold Hart.vset
  dsimp only
  split
  · exact hf h _ _
  · rfl

/-- What does not look at the vector registers is the same after results have been written to a group. -/
theorem vputs_frame {α : Type} (f : Hart → α) (hf : ∀ (h : Hart) v d, f { h with v := v, vdirty := d } = f h) (h : Hart) (vb w : Nat)
    (items : List (Nat × Nat)) : f (h.vputs vb w items) = f h := by
  induction items generalizing h with
  | nil => rfl
  | cons i items ih => exact (ih _).trans (vset_frame f hf h vb w i.1 i.2)

theorem mset_frame {α : Type} (f : Hart → α) (hf : ∀ (h : Hart) m d, f { h with m := m, vdirty := d } = f h) (h : Hart) (r e : Nat) (x : Bool) :
    f (h.mset r e x) = f h := by
  unfold Hart.mset
  split
  · exact hf h _ _
  · rfl

/-- What does not look at the mask registers is the same after bits have been written to one. -/
theorem mputs_frame {α : Type} (f : Hart → α) (hf : ∀ (h : Hart) m d, f { h with m := m, vdirty := d } = f h) (h : Hart) (r : Nat)
    (items : List (Nat × Bool)) : f (h.mputs r items) = f h := by
  induction items generalizing h with
  | nil => rfl
  | cons i items ih => exact (ih _).trans (mset_frame f hf h r i.1 i.2)

theorem vset_stripsOf (h k : Hart) (vb w e x : Nat) : (stripsOf h k).vset vb w e x = stripsOf (h.vset vb w e x) k := by
  unfold Hart.vset
  dsimp only [stripsOf]
  split <;> rfl

theorem vputs_stripsOf (h k : Hart) (vb w : Nat) (items : List (Nat × Nat)) :
    (stripsOf h k).vputs vb w items = stripsOf (h.vputs vb w items) k := by
  induction items generalizing h with
  | nil => rfl
  | cons i items ih =>
    refine Eq.trans ?_ (ih (h.vset vb w i.1 i.2))
    rw [← vset_stripsOf]; rfl

theorem mset_stripsOf (h k : Hart) (r e : Nat) (x : Bool) : (stripsOf h k).mset r e x = stripsOf (h.mset r e x) k := by
  unfold Hart.mset
  dsimp only [stripsOf]
  split <;> rfl

theorem mputs_stripsOf (h k : Hart) (r : Nat) (items : List (Nat × Bool)) : (stripsOf h k).mputs r items = stripsOf (h.mputs r items) k := by
  induction items generalizing h with
  | nil => rfl
  | cons i items ih =>
    refine Eq.trans ?_ (ih (h.mset r i.1 i.2))
    rw [← mset_stripsOf]; rfl

/-- The results of a line, as the model writes them. -/
theorem takes_eq (h : Hart) (vd w : Nat) (rs : List (Nat × Elem)) :
    takes h vd w rs = (h.vputs vd w (rs.map (fun r => (r.1, r.2.val)))).raise (rs.foldl (fun a r => a ||| r.2.fl) 0) (rs.any (fun r => r.2.sat)) := by
  unfold takes Hart.raise
  rw [vputs_frame Hart.vfflags (fun _ _ _ => rfl), vputs_frame Hart.vxsat (fun _ _ _ => rfl)]

/-- The mask bits of a line, as the model writes them. -/
theorem takesBits_eq (h : Hart) (md : Nat) (rs : List (Nat × Bool × BitVec 5)) :
    takesBits h md rs = (h.mputs md (rs.map (fun r => (r.1, r.2.1)))).raise (rs.foldl (fun a r => a ||| r.2.2) 0) false := by
  unfold takesBits Hart.raise
  rw [mputs_frame Hart.vfflags (fun _ _ _ => rfl), Bool.or_false]

theorem takes_pc (h : Hart) (vd w : Nat) (rs : List (Nat × Elem)) : (takes h vd w rs).pc = h.pc := vputs_frame Hart.pc (fun _ _ _ => rfl) h vd w _
theorem takes_instret (h : Hart) (vd w : Nat) (rs : List (Nat × Elem)) : (takes h vd w rs).instret = h.instret :=
  vputs_frame Hart.instret (fun _ _ _ => rfl) h vd w _
theorem takesBits_pc (h : Hart) (md : Nat) (rs : List (Nat × Bool × BitVec 5)) : (takesBits h md rs).pc = h.pc :=
  mputs_frame Hart.pc (fun _ _ _ => rfl) h md _
theorem takesBits_instret (h : Hart) (md : Nat) (rs : List (Nat × Bool × BitVec 5)) : (takesBits h md rs).instret = h.instret :=
  mputs_frame Hart.instret (fun _ _ _ => rfl) h md _

/-- Results that raise nothing are only written. -/
theorem takes_plain (h : Hart) (vd w : Nat) {rs : List (Nat × Elem)} (hrs : ∀ r ∈ rs, r.2.fl = 0 ∧ r.2.sat = false) :
    takes h vd w rs = h.vputs vd w (rs.map (fun r => (r.1, r.2.val))) := by
  have hfl : rs.foldl (fun a r => a ||| r.2.fl) 0 = (0 : BitVec 5) := by
    induction rs with
    | nil => rfl
    | cons r rs ih =>
      rw [List.foldl_cons, (hrs r (by simp)).1]
      exact ih (fun x hx => hrs x (by simp [hx]))
  have hsat : rs.any (fun r => r.2.sat) = false := by
    rw [List.any_eq_false]
    exact fun r hr => by simp [(hrs r hr).2]
  rw [takes_eq, hfl, hsat]
  simp [Hart.raise]

section run
variable {u : State} {h k : Hart} (hu : u.hart = stripsOf h k)
include hu

theorem writeOver_run {f : Hart → Nat → Elem} {g : Nat → Elem} (es : List Nat) (vd w : Nat) (hf : ∀ e, f (stripsOf h k) e = g e) :
    writeOver es vd w f u = .ok { u with hart := stripsOf (takes h vd w (es.map (fun e => (e, g e)))) k } := by
  unfold writeOver
  dsimp only
  rw [takes_eq, hu, vputs_stripsOf, funext hf]
  rfl

theorem writeElems_run {f : Hart → Nat → Elem} {g : Nat → Elem} (b : Body) (vd w lo hi : Nat) (hf : ∀ e, f (stripsOf h k) e = g e) :
    writeElems b vd w lo hi f u = .ok { u with hart := stripsOf (takes h vd w ((h.actives b lo hi).map (fun e => (e, g e)))) k } := by
  refine Eq.trans ?_ (writeOver_run hu (h.actives b lo hi) vd w hf)
  unfold writeElems
  rw [hu]
  rfl

theorem writeBits_run {f : Hart → Nat → Bool × BitVec 5} {g : Nat → Bool × BitVec 5} (b : Body) (md lo hi : Nat)
    (hf : ∀ e, f (stripsOf h k) e = g e) :
    writeBits b md lo hi f u = .ok { u with hart := stripsOf (takesBits h md ((h.actives b lo hi).map (fun e => (e, g e)))) k } := by
  unfold writeBits
  dsimp only
  rw [takesBits_eq, hu, mputs_stripsOf, funext hf]
  rfl

end run

/-! ### Operands -/

/-- The low bits of a word. -/
theorem wfield_low (x : Word) (w : Nat) : wfield x 0 w = x.toNat % 2 ^ w := rfl

theorem vget_lt (h : Hart) (vb w e : Nat) : h.vget vb w e < 2 ^ w := Nat.mod_lt _ (Nat.two_pow_pos w)

theorem captured_getX (s : State) (r : Reg) : s.hart.captured.getX r = s.getX r := by
  unfold Captured.getX State.getX
  split
  · rw [if_pos (by assumption)]
  · rw [if_neg (by assumption)]
    have hr : r.toNat < s.hart.x.toList.length := by simp; omega
    simp only [Hart.captured]
    rw [List.getD_eq_getElem _ _ hr, Vector.getElem_toList]

theorem src2_eq_second (b : Body) (s : State) (k : Hart) (w e : Nat) : src2 b s.hart.captured (stripsOf s.hart k) w e = second b s w e := by
  unfold src2 second
  rw [captured_getX, wfield_low]
  rfl

theorem first_lt (b : Body) (s : State) (w e : Nat) : first b s w e < 2 ^ w := vget_lt _ _ _ _

theorem second_lt (b : Body) (s : State) (w e : Nat) : second b s w e < 2 ^ w := by
  unfold second
  split
  · exact Nat.mod_lt _ (Nat.two_pow_pos w)
  · exact vget_lt _ _ _ _

/-! ### Legality -/

theorem inI_of_mem {t : Nat} (h : t ∈ setI) : inI t = true := decide_eq_true h
theorem inIw_of_mem {t : Nat} (h : t ∈ setIw) : inIw t = true := decide_eq_true h
theorem inF_of_mem {t : Nat} (h : t ∈ setF) : inF t = true := decide_eq_true h
theorem inA_of_mem {t : Nat} (h : t ∈ setA) : inA t = true := by
  unfold inA
  rcases List.mem_append.1 h with h | h
  · rw [inI_of_mem h]; rfl
  · rw [inF_of_mem h, Bool.or_true]

theorem modBad_of_only {b : Body} {m : BitVec 12} (h : only b m) : modBad b m = false := decide_eq_false (not_not.2 h)
theorem modBad_zero {b : Body} (h : b.mod = 0) : modBad b 0#12 = false := modBad_of_only (by unfold only; rw [h]; rfl)

theorem src2Bad_of_oneSecond {b : Body} (h : oneSecond b) : src2Bad b = false := by
  unfold oneSecond at h
  unfold src2Bad
  split at h
  next hsx => rw [if_pos hsx, h]; rfl
  next hsx => rw [if_neg hsx, h]; rfl

/-- The checks that operations of two sources share (12 R323, R324). -/
theorem twoSources_good {b : Body} {m : BitVec 12} {inSet : Bool} (hset : inSet = true) (hmod : only b m) (hsecond : oneSecond b) :
    (!inSet || modBad b m || src2Bad b) = false := by
  rw [hset, modBad_of_only hmod, src2Bad_of_oneSecond hsecond]; rfl

theorem frmBad_of_modeOk {h : Hart} (hm : modeOk h) : frmBad h.captured = false :=
  decide_eq_false (by unfold modeOk at hm; simp only [Hart.captured]; omega)

/-- The check of the rounding mode of an operation that rounds under `vfrm` (11 R286). -/
theorem frm_good {h : Hart} {frm : Bool} (hfrm : frm = true → modeOk h) : (frm && frmBad h.captured) = false := by
  cases frm
  · rfl
  · exact frmBad_of_modeOk (hfrm rfl)

theorem wOf_pos_of_setA {b : Body} (h : tyOf b ∈ setA) : 0 < wOf b := by
  have hw : wOf b = eewOf (tyOf b) := rfl
  rw [hw]
  generalize tyOf b = t at h
  revert t
  decide

theorem wOf_pos_of_setI {b : Body} (h : tyOf b ∈ setI) : 0 < wOf b := wOf_pos_of_setA (List.mem_append_left _ h)

theorem setI_of_setIw {t : Nat} (h : t ∈ setIw) : t ∈ setI := by
  revert t
  decide

/-! ### Integers -/

theorem sextN_eq_signed {w x : Nat} (hw : 0 < w) (hx : x < 2 ^ w) : sextN w x = signed w x := by
  unfold sextN signed
  rw [if_neg (by omega), Nat.mod_eq_of_lt hx]

theorem signed_emod {w x : Nat} : signed w x % (2 ^ w : Nat) = x % (2 ^ w : Nat) := by
  unfold signed
  split
  · rfl
  · exact Int.sub_emod_right _ _

theorem wrapInt_eq_kept (w : Nat) (v : Int) : wrapInt w v = kept w (v, false) := rfl

theorem bits_eq_kept {w v : Nat} (h : v < 2 ^ w) : bits v = kept w ((v : Int), false) := by
  unfold bits kept
  rw [← Int.natCast_emod, Nat.mod_eq_of_lt h, Int.toNat_natCast]

theorem clampI_eq_clamped {v lo hi : Int} : (clampI v lo hi, decide (clampI v lo hi ≠ v)) = clamped lo hi v := by
  unfold clampI clamped
  split
  · simp; omega
  · split
    · simp; omega
    · simp

theorem satInt_signed (w : Nat) (v : Int) : satInt w true v = kept w (clampS w v) := by
  unfold clampS; rw [← clampI_eq_clamped]; rfl

theorem satInt_unsigned (w : Nat) (v : Int) : satInt w false v = kept w (clampU w v) := by
  unfold clampU; rw [← clampI_eq_clamped]; rfl

/-- The top bit of a remainder says whether it is half the modulus or more. -/
theorem testBit_top {r d : Nat} (hd : 0 < d) (hr : r < 2 ^ d) : r.testBit (d - 1) = decide (2 ^ d ≤ 2 * r) := by
  obtain ⟨n, rfl⟩ : ∃ n, d = n + 1 := ⟨d - 1, by omega⟩
  rw [Nat.pow_succ] at hr ⊢
  rw [Nat.add_sub_cancel]
  by_cases h : 2 ^ n ≤ r
  · rw [Nat.testBit_of_two_pow_le_and_two_pow_add_one_gt h (by rw [Nat.pow_succ]; omega)]
    simp; omega
  · rw [Nat.testBit_lt_two_pow (by omega)]
    simp; omega

theorem bitVec2_cases (rm : BitVec 2) : rm = 0 ∨ rm = 1 ∨ rm = 2 ∨ rm = 3 := by
  revert rm
  decide

/-- What lies above the half of a remainder whose top bit is set. -/
theorem mod_half {r d : Nat} (hd : 0 < d) (hr : r < 2 ^ d) (h : 2 ^ d ≤ 2 * r) : r % 2 ^ (d - 1) = r - 2 ^ (d - 1) ∧ 2 ^ d = 2 * 2 ^ (d - 1) := by
  obtain ⟨n, rfl⟩ : ∃ n, d = n + 1 := ⟨d - 1, by omega⟩
  rw [Nat.pow_succ] at hr h ⊢
  rw [Nat.add_sub_cancel]
  refine ⟨?_, by omega⟩
  rw [Nat.mod_eq_sub_mod (by omega), Nat.mod_eq_of_lt (by omega)]

/-- A value shifted right and rounded under `vxrm` (11 R288). -/
theorem fxShift_eq_rounded (rm : BitVec 2) (v : Int) (d : Nat) : fxShift rm v d = rounded rm v d := by
  unfold fxShift rounded
  split
  · rfl
  next hd =>
    dsimp only
    have hd' : 0 < d := Nat.pos_of_ne_zero hd
    rw [Int.shiftRight_eq_div_pow]
    have hp : (0 : Int) < (2 ^ d : Nat) := by exact_mod_cast Nat.two_pow_pos d
    obtain ⟨r, hr⟩ := Int.eq_ofNat_of_zero_le (Int.emod_nonneg v hp.ne')
    have hlt : r < 2 ^ d := by have := Int.emod_lt_of_pos v hp; omega
    rw [hr, Int.toNat_natCast, testBit_top hd' hlt]
    have hhalf := mod_half hd' hlt
    generalize v / ((2 ^ d : Nat) : Int) = q
    generalize 2 ^ d = p at *
    generalize 2 ^ (d - 1) = n at *
    congr 1
    rcases bitVec2_cases rm with rfl | rfl | rfl | rfl
    · simp; omega
    · by_cases h : p ≤ 2 * r
      · obtain ⟨h1, h2⟩ := hhalf h
        rw [h1]
        simp [h]; omega
      · simp [h]; omega
    · simp
    · simp; omega

end Sys2Proof.VectorProofs
end

section
/-!
PROOFS. The integer, fixed-point, compare, move and index instructions (14 R373 to R378).
-/
namespace Sys2Proof.VectorProofs
open Sys2Proof.Machine hiding takes
open Sys2Proof.Claims

/-! ### The results of the integer instructions -/

theorem narrow_sextN {w x : Nat} (hw : 0 < w) (hx : x < 2 ^ w) : wrapInt w (sextN w x) = kept w (x, false) := by
  rw [sextN_eq_signed hw hx, wrapInt_eq_kept]
  unfold kept
  rw [signed_emod]

/-- The answer of an element function agrees with the result of a line, for operands of `w` bits. -/
def Agrees (g : Captured → Nat → Nat → Nat → Elem) (f : BitVec 2 → Nat → Nat → Nat → Int × Bool) : Prop :=
  ∀ (c : Captured) (w x y : Nat), 0 < w → x < 2 ^ w → y < 2 ^ w → g c w x y = kept w (f c.vxrm w x y)

/-- An integer operation performs as its line of 14 Table 14.4 says. -/
theorem performs_intForm (make : Body → Instr) {g : Captured → Nat → Nat → Nat → Elem}
    {f : BitVec 2 → Nat → Nat → Nat → Int × Bool} (hg : Agrees g f) (b : Body) (s : State) : Performs (intForm make f) b s (intMember b g) where
  good := fun ⟨hty, hmod, hsecond⟩ => twoSources_good (inI_of_mem hty) hmod hsecond
  pc := takes_pc _ _ _ _
  instret := takes_instret _ _ _ _
  run hl _ u k hu := by
    obtain ⟨hty, -⟩ := hl
    dsimp only [intMember, Member.plain, intForm, cond_true, later]
    refine writeElems_run hu b _ _ _ _ fun e => ?_
    rw [src2_eq_second]
    exact hg _ _ _ _ (wOf_pos_of_setI hty) (first_lt b s _ e) (second_lt b s _ e)

theorem completes_intForm {make : Body → Instr} {f8 : BitVec 8} {g : Captured → Nat → Nat → Nat → Elem}
    {f : BitVec 2 → Nat → Nat → Nat → Int × Bool} (hexec : ∀ b s, exec (make b) s = lone 0 f8 b (intMember b g) s) (hg : Agrees g f) :
    (intForm make f).Completes :=
  completes_of_performs (m := fun b _ => intMember b g) hexec fun b s _ => performs_intForm make hg b s

/-- A widening operation performs as its line of 14 Table 14.5 says. -/
theorem performs_wideForm (make : Body → Instr) (reads : Bool) {g f : Nat → Nat → Nat → Nat → Int}
    (hg : ∀ w x y d, 0 < w → x < 2 ^ w → y < 2 ^ w → g w x y d = f w x y d) (b : Body) (s : State) :
    Performs (wideForm make reads f) b s (wideMember b reads g) where
  good := fun ⟨hty, hmod, hsecond⟩ => twoSources_good (inIw_of_mem hty) hmod hsecond
  pc := takes_pc _ _ _ _
  instret := takes_instret _ _ _ _
  run hl _ u k hu := by
    obtain ⟨hty, -⟩ := hl
    dsimp only [wideMember, Member.plain, wideForm, cond_true, later]
    refine writeElems_run hu b _ _ _ _ fun e => ?_
    rw [src2_eq_second, wrapInt_eq_kept]
    exact congrArg (fun v => kept _ (v, false))
      (hg _ _ _ _ (wOf_pos_of_setI (setI_of_setIw hty)) (first_lt b s _ e) (second_lt b s _ e))

theorem completes_wideForm {make : Body → Instr} {f8 : BitVec 8} {reads : Bool} {g f : Nat → Nat → Nat → Nat → Int}
    (hexec : ∀ b s, exec (make b) s = lone 0 f8 b (wideMember b reads g) s)
    (hg : ∀ w x y d, 0 < w → x < 2 ^ w → y < 2 ^ w → g w x y d = f w x y d) : (wideForm make reads f).Completes :=
  completes_of_performs (m := fun b _ => wideMember b reads g) hexec fun b s _ => performs_wideForm make reads hg b s

/-- A narrowing operation performs as its line says (14 R375). -/
theorem performs_narrowForm (make : Body → Instr) (isSigned : Bool) {g : Nat → Int → Elem} {f : Nat → Int → Int × Bool}
    (hg : ∀ w v, g w v = kept w (f w v)) (b : Body) (s : State) :
    Performs (narrowForm make isSigned f) b s (narrowMember b isSigned g) where
  good := fun ⟨hty, hmod, hsecond⟩ => twoSources_good (inIw_of_mem hty) hmod hsecond
  pc := takes_pc _ _ _ _
  instret := takes_instret _ _ _ _
  run hl _ u k hu := by
    obtain ⟨hty, -⟩ := hl
    dsimp only [narrowMember, Member.plain, narrowForm, cond_true, later]
    refine writeElems_run hu b _ _ _ _ fun e => ?_
    have hw := wOf_pos_of_setI (setI_of_setIw hty)
    rw [src2_eq_second, hg, fxShift_eq_rounded, sextN_eq_signed (by omega) (vget_lt _ _ _ _)]
    rfl

theorem completes_narrowForm {make : Body → Instr} {f8 : BitVec 8} {isSigned : Bool} {g : Nat → Int → Elem} {f : Nat → Int → Int × Bool}
    (hexec : ∀ b s, exec (make b) s = lone 0 f8 b (narrowMember b isSigned g) s) (hg : ∀ w v, g w v = kept w (f w v)) :
    (narrowForm make isSigned f).Completes :=
  completes_of_performs (m := fun b _ => narrowMember b isSigned g) hexec fun b s _ => performs_narrowForm make isSigned hg b s

/-- A compare performs as its line says (14 R376). -/
theorem performs_cmpForm (make : Body → Instr) {g f : Nat → Nat → Nat → Bool}
    (hg : ∀ w x y, 0 < w → x < 2 ^ w → y < 2 ^ w → g w x y = f w x y) (b : Body) (s : State) :
    Performs (cmpForm make f) b s (cmpMember b g) where
  good := fun ⟨hty, hmod, hsecond⟩ => twoSources_good (inI_of_mem hty) hmod hsecond
  pc := takesBits_pc _ _ _
  instret := takesBits_instret _ _ _
  run hl _ u k hu := by
    obtain ⟨hty, -⟩ := hl
    dsimp only [cmpMember, Member.plain, cmpForm, cond_true, later]
    refine writeBits_run hu b _ _ _ fun e => ?_
    rw [src2_eq_second]
    exact congrArg (fun v => (v, 0)) (hg _ _ _ (wOf_pos_of_setI hty) (first_lt b s _ e) (second_lt b s _ e))

theorem completes_cmpForm {make : Body → Instr} {f8 : BitVec 8} {g f : Nat → Nat → Nat → Bool}
    (hexec : ∀ b s, exec (make b) s = lone 0 f8 b (cmpMember b g) s)
    (hg : ∀ w x y, 0 < w → x < 2 ^ w → y < 2 ^ w → g w x y = f w x y) : (cmpForm make f).Completes :=
  completes_of_performs (m := fun b _ => cmpMember b g) hexec fun b s _ => performs_cmpForm make hg b s

/-- An index operation performs as its line says (14 R378). -/
theorem performs_indexForm (make : Body → Instr) {g : Captured → Nat → Nat} {f : Hart → Nat → Nat}
    (hg : ∀ (h : Hart) e, g h.captured e = f h e) (b : Body) (s : State) : Performs (indexForm make f) b s (indexMember b g) where
  good := by
    rintro ⟨hI, hmod, h1, h2, h3⟩
    simp [indexMember, Member.plain, inI_of_mem hI, modBad_zero hmod, h1, h2, h3]
  pc := takes_pc _ _ _ _
  instret := takes_instret _ _ _ _
  run _ _ u k hu := by
    dsimp only [indexMember, Member.plain, indexForm, cond_true, later]
    refine writeElems_run hu b _ _ _ _ fun e => ?_
    rw [hg]
    rfl

theorem completes_indexForm {make : Body → Instr} {f8 : BitVec 8} {g : Captured → Nat → Nat} {f : Hart → Nat → Nat}
    (hexec : ∀ b s, exec (make b) s = lone 0 f8 b (indexMember b g) s) (hg : ∀ (h : Hart) e, g h.captured e = f h e) :
    (indexForm make f).Completes :=
  completes_of_performs (m := fun b _ => indexMember b g) hexec fun b s _ => performs_indexForm make hg b s

/-! ### The statement -/

theorem min_eq_kept (w x y : Nat) (hw : 0 < w) (hx : x < 2 ^ w) (hy : y < 2 ^ w) :
    wrapInt w (min (sextN w x) (sextN w y)) = kept w ((if signed w y < signed w x then y else x : Int), false) := by
  rw [min_def, ← sextN_eq_signed hw hx, ← sextN_eq_signed hw hy]
  by_cases h : sextN w y < sextN w x
  · rw [if_pos h, if_neg (by omega), narrow_sextN hw hy]
  · rw [if_neg h, if_pos (by omega), narrow_sextN hw hx]

theorem max_eq_kept (w x y : Nat) (hw : 0 < w) (hx : x < 2 ^ w) (hy : y < 2 ^ w) :
    wrapInt w (max (sextN w x) (sextN w y)) = kept w ((if signed w x < signed w y then y else x : Int), false) := by
  rw [max_def, ← sextN_eq_signed hw hx, ← sextN_eq_signed hw hy]
  by_cases h : sextN w x < sextN w y
  · rw [if_pos h, if_pos (by omega), narrow_sextN hw hy]
  · by_cases h2 : sextN w x ≤ sextN w y
    · rw [if_pos h2, if_neg h, show sextN w y = sextN w x by omega, narrow_sextN hw hx]
    · rw [if_neg h2, if_neg h, narrow_sextN hw hx]

theorem bits_agrees {g : Nat → Nat → Nat → Nat} {f : Nat → Nat → Nat → Int} (hlt : ∀ w x y, x < 2 ^ w → y < 2 ^ w → g w x y < 2 ^ w)
    (heq : ∀ w x y, f w x y = (g w x y : Int)) : Agrees (fun _ w x y => bits (g w x y)) (fun _ w x y => (f w x y, false)) :=
  fun _ w x y _ hx hy => by dsimp only; rw [bits_eq_kept (hlt w x y hx hy), heq]

theorem wrap_agrees {g f : Nat → Nat → Nat → Int} (heq : ∀ w x y, 0 < w → x < 2 ^ w → y < 2 ^ w → g w x y = f w x y) :
    Agrees (fun _ w x y => wrapInt w (g w x y)) (fun _ w x y => (f w x y, false)) :=
  fun _ w x y hw hx hy => by dsimp only; rw [heq w x y hw hx hy, wrapInt_eq_kept]

/-- The lines of 14 Table 14.4. -/
theorem intForms_complete : ∀ p ∈ intForms, p.Completes := by
  simp only [intForms, wrapForm, List.forall_mem_cons, List.not_mem_nil, false_imp_iff, implies_true, and_true]
  refine ⟨completes_intForm (fun _ _ => rfl) ?vadd, completes_intForm (fun _ _ => rfl) ?vsub, completes_intForm (fun _ _ => rfl) ?vrsub,
    completes_intForm (fun _ _ => rfl) ?vmin, completes_intForm (fun _ _ => rfl) ?vmax, completes_intForm (fun _ _ => rfl) ?vminu,
    completes_intForm (fun _ _ => rfl) ?vmaxu, completes_intForm (fun _ _ => rfl) ?vand, completes_intForm (fun _ _ => rfl) ?vor,
    completes_intForm (fun _ _ => rfl) ?vxor, completes_intForm (fun _ _ => rfl) ?vsll, completes_intForm (fun _ _ => rfl) ?vsrl,
    completes_intForm (fun _ _ => rfl) ?vsra, completes_intForm (fun _ _ => rfl) ?vmul, completes_intForm (fun _ _ => rfl) ?vmulh,
    completes_intForm (fun _ _ => rfl) ?vmulhu, completes_intForm (fun _ _ => rfl) ?vmulhsu, completes_intForm (fun _ _ => rfl) ?vsadd,
    completes_intForm (fun _ _ => rfl) ?vsaddu, completes_intForm (fun _ _ => rfl) ?vssub, completes_intForm (fun _ _ => rfl) ?vssubu,
    completes_intForm (fun _ _ => rfl) ?vaadd, completes_intForm (fun _ _ => rfl) ?vaaddu⟩
  case vadd => exact wrap_agrees fun w x y _ _ _ => Int.natCast_add x y
  case vsub => exact wrap_agrees fun w x y _ _ _ => rfl
  case vrsub => exact wrap_agrees fun w x y _ _ _ => rfl
  case vmin => exact fun _ => min_eq_kept
  case vmax => exact fun _ => max_eq_kept
  case vminu => exact bits_agrees (fun w x y hx _ => lt_of_le_of_lt (min_le_left x y) hx) fun w x y => by rw [min_def]; split <;> split <;> omega
  case vmaxu => exact bits_agrees (fun w x y hx hy => max_lt hx hy) fun w x y => by rw [max_def]; split <;> split <;> omega
  case vand => exact bits_agrees (fun w x y _ hy => Nat.and_lt_two_pow x hy) fun _ _ _ => rfl
  case vor => exact bits_agrees (fun w x y hx hy => Nat.or_lt_two_pow hx hy) fun _ _ _ => rfl
  case vxor => exact bits_agrees (fun w x y hx hy => Nat.xor_lt_two_pow hx hy) fun _ _ _ => rfl
  case vsll => exact wrap_agrees fun w x y _ _ _ => by rw [Nat.shiftLeft_eq]
  case vsrl =>
    exact bits_agrees (g := fun w x y => x >>> (y % w)) (fun w x y hx _ => lt_of_le_of_lt (Nat.shiftRight_le x _) hx) fun w x y => by
      rw [Nat.shiftRight_eq_div_pow]
  case vsra => exact wrap_agrees fun w x y hw hx _ => by rw [sextN_eq_signed hw hx, Int.shiftRight_eq_div_pow]
  case vmul => exact wrap_agrees fun w x y _ _ _ => rfl
  case vmulh => exact wrap_agrees fun w x y hw hx hy => by rw [sextN_eq_signed hw hx, sextN_eq_signed hw hy, Int.shiftRight_eq_div_pow]
  case vmulhu =>
    exact bits_agrees (g := fun w x y => (x * y) >>> w)
      (fun w x y hx hy => by rw [Nat.shiftRight_eq_div_pow]; exact Nat.div_lt_of_lt_mul (Nat.mul_lt_mul'' hx hy)) fun w x y => by
      rw [Nat.shiftRight_eq_div_pow]
  case vmulhsu => exact wrap_agrees fun w x y hw hx _ => by rw [sextN_eq_signed hw hx, Int.shiftRight_eq_div_pow]
  case vsadd => exact fun _ w x y hw hx hy => by rw [sextN_eq_signed hw hx, sextN_eq_signed hw hy, satInt_signed]
  case vsaddu => exact fun _ w x y _ _ _ => by rw [satInt_unsigned, Int.natCast_add]
  case vssub => exact fun _ w x y hw hx hy => by rw [sextN_eq_signed hw hx, sextN_eq_signed hw hy, satInt_signed]
  case vssubu => exact fun _ w x y _ _ _ => satInt_unsigned w _
  case vaadd =>
    exact fun c w x y hw hx hy => by rw [sextN_eq_signed hw hx, sextN_eq_signed hw hy, fxShift_eq_rounded, wrapInt_eq_kept]
  case vaaddu => exact fun c w x y _ _ _ => by rw [fxShift_eq_rounded, wrapInt_eq_kept, Int.natCast_add]

/-- The lines of 14 Table 14.5. -/
theorem wideForms_complete : ∀ p ∈ wideForms, p.Completes := by
  simp only [wideForms, List.forall_mem_cons, List.not_mem_nil, false_imp_iff, implies_true, and_true]
  refine ⟨completes_wideForm (fun _ _ => rfl) ?vwadd, completes_wideForm (fun _ _ => rfl) ?vwaddu, completes_wideForm (fun _ _ => rfl) ?vwmul,
    completes_wideForm (fun _ _ => rfl) ?vwmulu, completes_wideForm (fun _ _ => rfl) ?vwmulsu, completes_wideForm (fun _ _ => rfl) ?vwmacc,
    completes_wideForm (fun _ _ => rfl) ?vwmaccu, completes_wideForm (fun _ _ => rfl) ?vwmaccsu⟩ <;> intro w x y d hw hx hy
  case vwaddu => exact Int.natCast_add x y
  case vwmulu | vwmaccu => rfl
  case vwadd | vwmul | vwmacc => rw [sextN_eq_signed hw hx, sextN_eq_signed hw hy]
  case vwmulsu | vwmaccsu => rw [sextN_eq_signed hw hx]

/-- The narrowing operations (14 R375). -/
theorem narrowForms_complete : ∀ p ∈ narrowForms, p.Completes := by
  simp only [narrowForms, List.forall_mem_cons, List.not_mem_nil, false_imp_iff, implies_true, and_true]
  exact ⟨completes_narrowForm (fun _ _ => rfl) wrapInt_eq_kept, completes_narrowForm (fun _ _ => rfl) wrapInt_eq_kept,
    completes_narrowForm (fun _ _ => rfl) satInt_signed, completes_narrowForm (fun _ _ => rfl) satInt_unsigned⟩

/-- The compares (14 R376). -/
theorem cmpForms_complete : ∀ p ∈ cmpForms, p.Completes := by
  simp only [cmpForms, List.forall_mem_cons, List.not_mem_nil, false_imp_iff, implies_true, and_true]
  refine ⟨completes_cmpForm (fun _ _ => rfl) ?vmseq, completes_cmpForm (fun _ _ => rfl) ?vmsne, completes_cmpForm (fun _ _ => rfl) ?vmslt,
    completes_cmpForm (fun _ _ => rfl) ?vmsltu, completes_cmpForm (fun _ _ => rfl) ?vmsle, completes_cmpForm (fun _ _ => rfl) ?vmsleu,
    completes_cmpForm (fun _ _ => rfl) ?vmsgt, completes_cmpForm (fun _ _ => rfl) ?vmsgtu⟩ <;> intro w x y hw hx hy
  case vmseq => rfl
  case vmsne => exact decide_not
  case vmsltu | vmsleu | vmsgtu => rfl
  case vmslt | vmsle | vmsgt => rw [sextN_eq_signed hw hx, sextN_eq_signed hw hy]

/-- The merge, the move and the index operations (14 R377, R378). -/
theorem moveForms_complete : ∀ p ∈ moveForms, p.Completes := by
  simp only [moveForms, List.forall_mem_cons, List.not_mem_nil, false_imp_iff, implies_true, and_true]
  refine ⟨completes_of_performs (m := fun b _ => vmergeMember b) (fun _ _ => rfl) fun b s _ => ?vmerge,
    completes_of_performs (m := fun b _ => vmvMember b) (fun _ _ => rfl) fun b s _ => ?vmv, completes_indexForm (fun _ _ => rfl) fun _ _ => rfl,
    completes_indexForm (fun _ _ => rfl) fun _ _ => rfl, completes_indexForm (fun _ _ => rfl) fun _ _ => rfl⟩
  case vmerge =>
    refine { good := ?_, pc := takes_pc _ _ _ _, instret := takes_instret _ _ _ _, run := fun _ _ u k hu => ?_ }
    · rintro ⟨hA, hmod, hsecond, hmen⟩
      change (!inA (tyOf b) || modBad b 1 || src2Bad b || !b.men) = false
      rw [twoSources_good (inA_of_mem hA) hmod hsecond, hmen]
      rfl
    · dsimp only [vmergeMember, Member.plain, cond_true]
      refine writeOver_run hu _ _ _ fun e => ?_
      rw [src2_eq_second]
      rfl
  case vmv =>
    refine { good := ?_, pc := takes_pc _ _ _ _, instret := takes_instret _ _ _ _, run := fun _ _ u k hu => ?_ }
    · rintro ⟨hA, hmod, h2, h13⟩
      change (!inA (tyOf b) || modBad b 1 || b.vs2 ≠ 0 || (if sxOf b then b.vs1 ≠ 0 else b.vs3 ≠ 0)) = false
      rw [inA_of_mem hA, modBad_of_only hmod, h2]
      cases hsx : sxOf b <;> simpa [hsx] using h13
    · dsimp only [vmvMember, Member.plain, cond_true, later]
      refine writeElems_run hu b _ _ _ _ fun e => ?_
      rw [captured_getX]
      rfl

/-- Settles O26: each line of the tables is a lone convoy of a member that performs as the line says. -/
theorem vectorIntegersComplete : Obligations.VectorIntegersComplete := by
  refine ⟨fun p hp => ?_, fun p hp => ?_⟩
  · rcases List.mem_append.1 hp with hp | hp
    · rcases List.mem_append.1 hp with hp | hp
      · exact intForms_complete p hp
      · exact wideForms_complete p hp
    · exact narrowForms_complete p hp
  · rcases List.mem_append.1 hp with hp | hp
    · exact cmpForms_complete p hp
    · exact moveForms_complete p hp

end Sys2Proof.VectorProofs
end

section
/-!
PROOFS. The floating-point instructions and the special functions (14 R379 to R381; 16 R438, R439).
-/
namespace Sys2Proof.VectorProofs
open Sys2Proof.Machine hiding takes
open Sys2Proof.Claims

/-! ### Floating-point forms -/

/-- A floating operation performs as its line says (14 R379). -/
theorem performs_floatForm (make : Body → Instr) (reads frm : Bool) {g f : Fmt → Nat → Nat → Nat → Nat → Elem}
    (hg : ∀ x m a y d, g x m a y d = f x m a y d) (b : Body) (s : State) :
    Performs (floatForm make reads frm f) b s (floatMember b reads frm g) where
  good := by
    rintro ⟨hF, hmod, hsecond, hfrm⟩
    change (!inF (tyOf b) || modBad b 1 || src2Bad b || (frm && frmBad s.hart.captured)) = false
    rw [twoSources_good (inF_of_mem hF) hmod hsecond, frm_good hfrm]
    rfl
  pc := takes_pc _ _ _ _
  instret := takes_instret _ _ _ _
  run _ _ u k hu := by
    dsimp only [floatMember, Member.plain, floatForm, cond_true, later]
    refine writeElems_run hu b _ _ _ _ fun e => ?_
    rw [src2_eq_second, hg]
    rfl

theorem completes_floatForm {make : Body → Instr} {cls : BitVec 4} {f8 : BitVec 8} {reads frm : Bool}
    {g f : Fmt → Nat → Nat → Nat → Nat → Elem} (hexec : ∀ b s, exec (make b) s = lone cls f8 b (floatMember b reads frm g) s) (hg : ∀ x m a y d, g x m a y d = f x m a y d) :
    (floatForm make reads frm f).Completes :=
  completes_of_performs (m := fun b _ => floatMember b reads frm g) hexec fun b s _ => performs_floatForm make reads frm hg b s

theorem completes_fusedForm {make : Body → Instr} {f8 : BitVec 8} {negProduct negOld : Bool}
    (hexec : ∀ b s, exec (make b) s = lone 1 f8 b (fmaMember b negProduct negOld) s) : (fusedForm make negProduct negOld).Completes :=
  completes_floatForm hexec fun _ _ _ _ _ => rfl

/-- The sign bit of an encoding. -/
theorem nbit_eq_div (x n : Nat) : nbit x n = decide (x / 2 ^ n % 2 = 1) := Nat.testBit_eq_decide_div_mod_eq

theorem width_sub_one (f : Fmt) : f.width - 1 = f.eb + f.mb := by unfold Fmt.width; omega

theorem signed_eq_add (f : Fmt) (neg : Bool) (v : Nat) : f.signed neg v = v + if neg then 2 ^ (f.eb + f.mb) else 0 := by
  unfold Fmt.signed
  cases neg <;> simp [Nat.add_comm]

theorem completes_signForm {make : Body → Instr} {f8 : BitVec 8} {sg : Bool → Bool → Bool}
    (hexec : ∀ b s, exec (make b) s = lone 1 f8 b (signMember b sg) s) : (signForm make sg).Completes :=
  completes_floatForm hexec fun f _ x y _ => by
    dsimp only
    rw [signed_eq_add, nbit_eq_div, nbit_eq_div, width_sub_one]
    split <;> rfl

theorem sig_eq (x : Fv) : x.sig = if x = .nan true then fNV else 0 := by
  cases x with
  | nan sig => cases sig <;> rfl
  | inf neg => rfl
  | num neg m e => rfl

/-- The flags of a compare that meets a NaN (14 R380, 11 R292). -/
theorem fcmp_flags (loud : Bool) (x y : Fv) :
    (if loud then fNV else x.sig ||| y.sig) = if loud || x = .nan true || y = .nan true then fNV else 0 := by
  rw [sig_eq, sig_eq]
  by_cases hx : x = .nan true <;> by_cases hy : y = .nan true <;> simp [hx, hy]

/-- A compare of floating values performs as its line says (14 R380). -/
theorem performs_fcmpForm (make : Body → Instr) (loud nan : Bool) (ok : Int → Bool) (b : Body) (s : State) :
    Performs (fcmpForm make loud nan ok) b s (fcmpMember b loud nan ok) where
  good := fun ⟨hty, hmod, hsecond⟩ => twoSources_good (inF_of_mem hty) hmod hsecond
  pc := takesBits_pc _ _ _
  instret := takesBits_instret _ _ _
  run _ _ u k hu := by
    dsimp only [fcmpMember, Member.plain, fcmpForm, cond_true, later]
    refine writeBits_run hu b _ _ _ fun e => ?_
    rw [src2_eq_second]
    exact ite_congr rfl (fun _ => congrArg (Prod.mk nan) (fcmp_flags loud _ _)) fun _ => rfl

theorem completes_fcmpForm {make : Body → Instr} {f8 : BitVec 8} {loud nan : Bool} {ok : Int → Bool}
    (hexec : ∀ b s, exec (make b) s = lone 1 f8 b (fcmpMember b loud nan ok) s) : (fcmpForm make loud nan ok).Completes :=
  completes_of_performs (m := fun b _ => fcmpMember b loud nan ok) hexec fun b s _ => performs_fcmpForm make loud nan ok b s

/-- A special function performs as its line says (16 R438). -/
theorem performs_specialForm (make : Body → Instr) (frm : Bool) (f : Fmt → Nat → Nat → Nat × BitVec 5) (b : Body) (s : State) :
    Performs (specialForm make frm f) b s (sfuMember b frm f) where
  good := by
    rintro ⟨hF, hmod, h2, h3, hfrm⟩
    simp [sfuMember, inF_of_mem hF, modBad_zero hmod, h2, h3, frm_good hfrm]
  pc := takes_pc _ _ _ _
  instret := takes_instret _ _ _ _
  run _ _ u k hu := by
    dsimp only [sfuMember, Member.plain, specialForm, cond_true, later]
    exact writeElems_run hu b _ _ _ _ fun e => rfl

theorem completes_specialForm {make : Body → Instr} {f8 : BitVec 8} {frm : Bool} {f : Fmt → Nat → Nat → Nat × BitVec 5}
    (hexec : ∀ b s, exec (make b) s = lone 6 f8 b (sfuMember b frm f) s) : (specialForm make frm f).Completes :=
  completes_of_performs (m := fun b _ => sfuMember b frm f) hexec fun b s _ => performs_specialForm make frm f b s

/-- The class of an encoding (14 R381). -/
theorem fclass_eq_classOf (f : Fmt) (x : Nat) : fclass f x = classOf f x := by
  unfold fclass classOf nfield
  rw [Nat.shiftRight_eq_div_pow]
  cases f.value x with
  | nan sig => cases sig <;> rfl
  | inf neg => cases neg <;> rfl
  | num neg m e => by_cases h : x / 2 ^ f.mb % 2 ^ f.eb = 0 <;> simp [h]

/-- The lines of 14 Table 14.6 and of 14 R379 to R381. -/
theorem floatForms_complete : ∀ p ∈ floatForms, p.Completes := by
  simp only [floatForms, List.forall_mem_cons, List.not_mem_nil, false_imp_iff, implies_true, and_true]
  refine ⟨completes_floatForm (fun _ _ => rfl) fun _ _ _ _ _ => rfl, completes_floatForm (fun _ _ => rfl) fun _ _ _ _ _ => rfl,
    completes_floatForm (fun _ _ => rfl) fun _ _ _ _ _ => rfl, completes_fusedForm fun _ _ => rfl, completes_fusedForm fun _ _ => rfl,
    completes_fusedForm fun _ _ => rfl, completes_fusedForm fun _ _ => rfl, completes_floatForm (fun _ _ => rfl) fun _ _ _ _ _ => rfl,
    completes_floatForm (fun _ _ => rfl) fun _ _ _ _ _ => rfl, completes_signForm fun _ _ => rfl, completes_signForm fun _ _ => rfl,
    completes_signForm fun _ _ => rfl, completes_fcmpForm fun _ _ => rfl, completes_fcmpForm fun _ _ => rfl, completes_fcmpForm fun _ _ => rfl,
    completes_fcmpForm fun _ _ => rfl, completes_fcmpForm fun _ _ => rfl,
    completes_of_performs (m := fun b _ => vfclassMember b) (fun _ _ => rfl) fun b s _ => ?vfclass⟩
  case vfclass =>
    refine { good := ?_, pc := takes_pc _ _ _ _, instret := takes_instret _ _ _ _, run := fun _ _ u k hu => ?_ }
    · rintro ⟨hF, hmod, h2, h3⟩
      simp [vfclassMember, Member.plain, inF_of_mem hF, modBad_zero hmod, h2, h3]
    · dsimp only [vfclassMember, Member.plain, cond_true, later]
      refine writeElems_run hu b _ _ _ _ fun e => ?_
      rw [fclass_eq_classOf]
      rfl

/-- The lines of 16 Tables 16.4 and 16.5. -/
theorem specialForms_complete : ∀ p ∈ specialForms, p.Completes := by
  simp only [specialForms, List.forall_mem_cons, List.not_mem_nil, false_imp_iff, implies_true, and_true]
  refine ⟨completes_specialForm fun _ _ => rfl, completes_specialForm fun _ _ => rfl, completes_specialForm fun _ _ => rfl,
    completes_specialForm fun _ _ => rfl, completes_specialForm fun _ _ => rfl, completes_specialForm fun _ _ => rfl,
    completes_specialForm fun _ _ => rfl, completes_of_performs (m := fun b _ => vdivMember b) (fun _ _ => rfl) fun b s _ => ?vdiv⟩
  case vdiv =>
    refine { good := ?_, pc := takes_pc _ _ _ _, instret := takes_instret _ _ _ _, run := fun _ _ u k hu => ?_ }
    · rintro ⟨hF, hmod, hsecond, hfrm⟩
      change (!inF (tyOf b) || modBad b 1 || src2Bad b || frmBad s.hart.captured) = false
      rw [twoSources_good (inF_of_mem hF) hmod hsecond, frmBad_of_modeOk (hfrm rfl)]
      rfl
    · dsimp only [vdivMember, floatForm, Member.plain, cond_true, later]
      refine writeElems_run hu b _ _ _ _ fun e => ?_
      rw [src2_eq_second]
      rfl

/-- Settles O27: each line of the tables is a lone convoy of a member that performs as the line says. -/
theorem vectorFloatsComplete : Obligations.VectorFloatsComplete := fun p hp =>
  (List.mem_append.1 hp).elim (floatForms_complete p) (specialForms_complete p)

end Sys2Proof.VectorProofs
end

section
/-!
PROOFS. The permutations (14 R386 to R389, R395, R396).
-/
namespace Sys2Proof.VectorProofs
open Sys2Proof.Machine hiding takes
open Sys2Proof.Claims

/-! ### What whole members write -/

theorem putsX_pc (h : Hart) (r : Reg) (v : Word) : (putsX h r v).pc = h.pc := by unfold putsX; split <;> rfl
theorem putsX_instret (h : Hart) (r : Reg) (v : Word) : (putsX h r v).instret = h.instret := by unfold putsX; split <;> rfl

theorem every_pairwise (b : Body) (h : Hart) : (every b h).Pairwise (· < ·) := (List.pairwise_lt_range' (s := 0) (n := h.vl.toNat - 0)).filter _

/-- The place of an element of a rising list is the number of elements below it. -/
theorem zipIdx_of_pairwise {l : List Nat} (hl : l.Pairwise (· < ·)) : l.zipIdx = l.map (fun e => (e, (l.filter (· < e)).length)) := by
  induction l with
  | nil => rfl
  | cons a t ih =>
    obtain ⟨ha, ht⟩ := List.pairwise_cons.1 hl
    have hfirst : (a :: t).filter (· < a) = [] := by
      rw [List.filter_eq_nil_iff]
      intro x hx
      rcases List.mem_cons.1 hx with rfl | hx
      · simp
      · have := ha x hx; simp; omega
    rw [List.zipIdx_cons, List.map_cons, hfirst, List.zipIdx_eq_map_add, ih ht, List.map_map]
    refine congrArg _ (List.map_congr_left fun e he => ?_)
    simp [ha e he, Nat.add_comm]

theorem zipIdx_map_eq_range {α : Type} (l : List Nat) (f : Nat → Nat → α) :
    l.zipIdx.map (fun p => f p.2 p.1) = (List.range l.length).map (fun i => f i (l.getD i 0)) := by
  apply List.ext_getElem
  · simp
  · intro i h1 h2
    simp at h1
    simp [h1]

theorem takes_nil (h : Hart) (vd w : Nat) : takes h vd w [] = h := takes_plain h vd w fun _ hr => absurd hr List.not_mem_nil

section run
variable {u : State} {h k : Hart} (hu : u.hart = stripsOf h k)
include hu

theorem setX_run (r : Reg) (v : Word) : u.setX r v = { u with hart := stripsOf (putsX h r v) k } := by
  unfold State.setX putsX
  rw [hu]
  by_cases hr : r = 0#5
  · rw [if_pos hr, if_pos (c := r = 0) hr, ← hu]
  · rw [if_neg hr, if_neg (c := r = 0) hr]; rfl

/-- Results that raise nothing, as a whole member writes them. -/
theorem vputs_run (vd w : Nat) {rs : List (Nat × Elem)} {items : List (Nat × Nat)} (hrs : ∀ r ∈ rs, r.2.fl = 0 ∧ r.2.sat = false)
    (hitems : items = rs.map (fun r => (r.1, r.2.val))) :
    MRes.ok { u with hart := u.hart.vputs vd w items } = .ok { u with hart := stripsOf (takes h vd w rs) k } := by
  rw [takes_plain h vd w hrs, hu, vputs_stripsOf, hitems]

/-- Results that saturate nothing, as a reduction writes them. -/
theorem raise_run (vd w : Nat) (rs : List (Nat × Nat × BitVec 5)) :
    MRes.ok { u with hart := (u.hart.vputs vd w (rs.map (fun r => (r.1, r.2.1)))).raise (rs.foldl (fun a r => a ||| r.2.2) 0) false }
      = .ok { u with hart := stripsOf (takes h vd w (rs.map (fun r => (r.1, felem r.2)))) k } := by
  rw [takes_eq, hu, vputs_stripsOf, List.map_map, List.foldl_map, List.any_map]
  have hsat : rs.any ((fun r : Nat × Elem => r.2.sat) ∘ fun r => (r.1, felem r.2)) = false :=
    List.any_eq_false.2 fun _ _ => Bool.false_ne_true
  rw [hsat]
  rfl

end run

/-! ### Permutations -/

/-- A slide performs as its line says (14 R386). -/
theorem performs_slideForm (make : Body → Instr) {from' : Nat → Nat → Nat → Option (Option Nat)}
    {f : Nat → Nat → Nat → (Nat → Nat) → Option Nat} (hf : ∀ vl k e get, f vl k e get = (from' vl k e).map (fun x => x.elim 0 get))
    (b : Body) (s : State) : Performs (slideForm make from') b s (slideMember b f) where
  good := by
    rintro ⟨hA, h2, hmod⟩
    change (!inA (tyOf b) || modBad b (if sxOf b then 1 else 0x7FE) || b.vs2 ≠ 0 || (!sxOf b && b.vs3 ≠ 0)) = false
    rw [inA_of_mem hA, h2]
    cases hsx : sxOf b
    · rw [hsx, if_neg Bool.false_ne_true] at hmod
      rw [if_neg Bool.false_ne_true, modBad_of_only hmod.1, hmod.2]
      rfl
    · rw [hsx, if_pos rfl] at hmod
      rw [if_pos rfl, modBad_of_only hmod]
      rfl
  pc := takes_pc _ _ _ _
  instret := takes_instret _ _ _ _
  run _ _ u k hu := by
    dsimp only [slideMember, wholeMember, slideForm, permForm]
    refine vputs_run hu _ _ (fun r hr => ?_) ?_
    · obtain ⟨e, -, he⟩ := List.mem_filterMap.1 hr
      obtain ⟨x, -, rfl⟩ := Option.map_eq_some_iff.1 he
      exact ⟨rfl, rfl⟩
    · rw [List.map_filterMap, hu, captured_getX, wfield_low]
      refine List.filterMap_congr fun e _ => ?_
      rw [hf]
      change Option.map _ (Option.map _ (from' s.hart.vl.toNat _ e)) = _
      cases from' s.hart.vl.toNat (if sxOf b = true then (s.getX b.vs3).toNat % 2 ^ wOf b else wfield b.mod 1 10) e with
      | none => rfl
      | some x => cases x <;> rfl

theorem completes_slideForm {make : Body → Instr} {f8 : BitVec 8} {from' : Nat → Nat → Nat → Option (Option Nat)}
    {f : Nat → Nat → Nat → (Nat → Nat) → Option Nat} (hexec : ∀ b s, exec (make b) s = lone 4 f8 b (slideMember b f) s)
    (hf : ∀ vl k e get, f vl k e get = (from' vl k e).map (fun x => x.elim 0 get)) : (slideForm make from').Completes :=
  completes_of_performs (m := fun b _ => slideMember b f) hexec fun b s _ => performs_slideForm make hf b s

/-- VPSWAP performs as its line says, for an odd and for an even number of columns (14 R388). -/
theorem performs_swapForm (whole : Bool) (b : Body) (s : State) : Performs (swapForm whole) b s (vpswapMember b whole) := by
  have hgood : (swapForm whole).legal b s.hart → (!inA (tyOf b) || modBad b 0 || b.vs2 ≠ 0 || b.vs3 ≠ 0
      || (dst b.vd (grpOf b) (wOf b)).regs &&& (src b.vs1 (grpOf b) (wOf b)).regs ≠ 0) = false := by
    rintro ⟨hA, h2, hmod, h3, -, hregs⟩
    simp [inA_of_mem hA, modBad_zero hmod, h2, h3, hregs]
  cases whole
  case true =>
    refine { good := hgood, pc := takes_pc _ _ _ _, instret := takes_instret _ _ _ _, run := fun _ _ u k hu => ?_ }
    simp only [vpswapMember, wholeMember, Member.plain, swapForm, permForm, if_true]
    exact writeElems_run hu b _ _ _ _ fun e => rfl
  case false =>
    refine { good := hgood, pc := takes_pc _ _ _ _, instret := takes_instret _ _ _ _, run := fun _ _ u k hu => ?_ }
    simp only [vpswapMember, Member.plain, swapForm, permForm, Bool.not_false, cond_true, Bool.false_eq_true, if_false]
    exact writeElems_run hu b _ _ _ _ fun e => rfl

theorem completes_swapForm (whole : Bool) : (swapForm whole).Completes :=
  completes_of_performs (m := fun b s => vpswapMember b (wbit s.hart.vcols 0)) (fun _ _ => rfl) fun b s hl => by
    obtain ⟨-, -, -, -, -, -, -, hodd, -⟩ := hl
    have hw : wbit s.hart.vcols 0 = whole := by
      rw [← hodd]
      simp [wbit, BitVec.getLsbD, Nat.testBit_zero]
    rw [hw]
    exact performs_swapForm whole b s

theorem zipIdx_map_eq_moved (l : List Nat) (g : Nat → Nat) :
    l.zipIdx.map (fun p => (p.2, g p.1)) = ((List.range l.length).map (fun i => (i, moved (g (l.getD i 0))))).map (fun r => (r.1, r.2.val)) := by
  rw [List.map_map]
  exact zipIdx_map_eq_range l fun i e => (i, g e)

/-- The permutations (14 R386 to R389, R395, R396). -/
theorem permForms_complete : ∀ p ∈ permForms, p.Completes := by
  simp only [permForms, List.forall_mem_cons, List.not_mem_nil, false_imp_iff, implies_true, and_true]
  refine ⟨completes_slideForm (fun _ _ => rfl) ?vslideup, completes_slideForm (fun _ _ => rfl) ?vslidedown,
    completes_of_performs (m := fun b _ => vrgatherMember b) (fun _ _ => rfl) fun b s _ => ?vrgather, completes_swapForm true,
    completes_swapForm false, completes_of_performs (m := fun b _ => vtransMember b) (fun _ _ => rfl) fun b s _ => ?vtrans,
    completes_of_performs (m := fun b _ => viotaMember b) (fun _ _ => rfl) fun b s _ => ?viota,
    completes_of_performs (m := fun b _ => vcompressMember b) (fun _ _ => rfl) fun b s _ => ?vcompress,
    completes_of_performs (m := fun b _ => vmvXSMember b) (fun _ _ => rfl) fun b s _ => ?vmvXS,
    completes_of_performs (m := fun b _ => vmvSXMember b) (fun _ _ => rfl) fun b s _ => ?vmvSX⟩
  case vslideup => intro vl k e get; split <;> rfl
  case vslidedown => intro vl k e get; split <;> simp [*]
  case vrgather =>
    refine { good := ?_, pc := takes_pc _ _ _ _, instret := takes_instret _ _ _ _, run := fun _ _ u k hu => ?_ }
    · exact fun ⟨hA, hmod, hsecond⟩ => twoSources_good (inA_of_mem hA) hmod hsecond
    · dsimp only [vrgatherMember, wholeMember, Member.plain, permForm, cond_false]
      refine writeElems_run hu b _ _ _ _ fun e => ?_
      rw [src2_eq_second]
      rfl
  case vtrans =>
    refine { good := ?_, pc := takes_pc _ _ _ _, instret := takes_instret _ _ _ _, run := fun _ _ u k hu => ?_ }
    · rintro ⟨hA, h2, hmod, h3⟩
      simp [vtransMember, wholeMember, Member.plain, inA_of_mem hA, modBad_zero hmod, h2, h3]
    · dsimp only [vtransMember, wholeMember, Member.plain, permForm, cond_false]
      exact writeElems_run hu b _ _ _ _ fun e => rfl
  case viota =>
    refine { good := ?_, pc := takes_pc _ _ _ _, instret := takes_instret _ _ _ _, run := fun _ _ u k hu => ?_ }
    · rintro ⟨hI, hmod, h1, h2, h3⟩
      simp [viotaMember, wholeMember, Member.plain, inI_of_mem hI, modBad_zero hmod, h1, h2, h3]
    · dsimp only [viotaMember, wholeMember, Member.plain]
      refine vputs_run hu _ _ (by simp [moved]) ?_
      rw [List.map_map, hu]
      exact (List.map_id _).trans (zipIdx_of_pairwise (every_pairwise b s.hart))
  case vcompress =>
    refine { good := ?_, pc := takes_pc _ _ _ _, instret := takes_instret _ _ _ _, run := fun _ _ u k hu => ?_ }
    · rintro ⟨hA, h2, hmod, h3⟩
      simp [vcompressMember, wholeMember, Member.plain, inA_of_mem hA, modBad_zero hmod, h2, h3]
    · dsimp only [vcompressMember, wholeMember, Member.plain, permForm]
      refine vputs_run hu _ _ (by simp [moved]) ?_
      rw [hu]
      exact zipIdx_map_eq_moved (every b s.hart) (first b s (wOf b))
  case vmvXS =>
    refine { good := ?_, pc := putsX_pc _ _ _, instret := putsX_instret _ _ _, run := fun hl _ u k hu => ?_ }
    · rintro ⟨hA, h2, hmod, h3, hmen⟩
      simp [vmvXSMember, wholeMember, Member.plain, inA_of_mem hA, modBad_zero hmod, h2, h3, hmen]
    · obtain ⟨hA, -⟩ := hl
      dsimp only [vmvXSMember, wholeMember, Member.plain, permForm]
      rw [sextN_eq_signed (wOf_pos_of_setA hA) (vget_lt _ _ _ _), setX_run hu, hu]
      rfl
  case vmvSX =>
    refine { good := ?_, pc := ?_, instret := ?_, run := fun _ hp u k hu => ?_ }
    · rintro ⟨hA, h2, hmod, h1, hmen⟩
      have hsx : sxOf b = true := by unfold sxOf; rw [hmod]; rfl
      have hm : modBad b 1#12 = false := modBad_of_only (by unfold only; rw [hmod]; rfl)
      simp [vmvSXMember, Member.plain, inA_of_mem hA, hm, hsx, h1, h2, hmen]
    · dsimp only [permForm]
      split
      · exact takes_pc _ _ _ _
      · rfl
    · dsimp only [permForm]
      split
      · exact takes_instret _ _ _ _
      · rfl
    · obtain ⟨-, hvl | hmx⟩ := hp
      · have hpos : 0 < s.hart.vl.toNat := Nat.pos_of_ne_zero fun e => hvl (BitVec.eq_of_toNat_eq e)
        dsimp only [vmvSXMember, Member.plain, permForm, cond_true]
        rw [captured_getX, wfield_low]
        refine (writeOver_run hu _ _ _ fun e => rfl).trans ?_
        by_cases hf : firstElem s.hart = 0
        · simp only [hf, hpos, decide_true, Bool.and_self, if_true]
          rfl
        · simp only [hf, decide_false, Bool.false_and, Bool.false_eq_true, if_false, List.map_nil, takes_nil]
      · cases hmx

end Sys2Proof.VectorProofs
end

section
/-!
PROOFS. The reductions and the mask instructions (14 R390 to R394).
-/
namespace Sys2Proof.VectorProofs
open Sys2Proof.Machine hiding takes
open Sys2Proof.Claims

/-! ### Reductions -/

theorem narrow_natCast (w n : Nat) : narrow w (n : Int) = n % 2 ^ w := by
  unfold narrow
  rw [← Int.natCast_emod, Int.toNat_natCast]

/-- The elements of a range with their values, each with whether it is active, as the model hands them to a reduction. -/
def rangeElems (b : Body) (s : State) (r : Nat × Nat × Nat) : List (Nat × Bool) :=
  (List.range' r.2.1 r.2.2).map (fun e => (first b s (wOf b) e, s.hart.active b e))

/-- A reduction writes, for each range, what its function makes of the range's elements (14 R390). -/
theorem redMember_run {s u : State} {k : Hart} (hu : u.hart = stripsOf s.hart k) (b : Body) (legal frm : Bool)
    (f : Captured → Nat → List (Nat × Bool) → Nat × BitVec 5) (lo hi : Nat) :
    (redMember b legal frm f).run s.hart.captured lo hi u = .ok { u with hart := stripsOf (takes s.hart b.vd.toNat (wOf b)
      ((ranges b s.hart.captured).map (fun r =>
        (r.1, felem (f s.hart.captured (s.hart.vget b.vs2.toNat (wOf b) r.1) (rangeElems b s r)))))) k } := by
  refine (Eq.trans ?_ (raise_run hu b.vd.toNat (wOf b) ((ranges b s.hart.captured).map (fun r =>
    (r.1, f s.hart.captured (s.hart.vget b.vs2.toNat (wOf b) r.1) (rangeElems b s r)))))).trans ?_
  · dsimp only [redMember, wholeMember, Member.plain]
    rw [hu]
    rfl
  · rw [List.map_map]
    rfl

/-- Folding the active elements of a range, each step kept modulo 2^w (14 R390). -/
theorem foldl_active {w : Nat} {g f : Nat → Nat → Nat} (get : Nat → Nat) (act : Nat → Bool)
    (hg : ∀ a e, a < 2 ^ w → narrow w (g a (get e)) = f a (get e)) (es : List Nat) (a : Nat) (ha : a < 2 ^ w) :
    (es.map (fun e => (get e, act e))).foldl (fun a e => if e.2 then narrow w (g a e.1) else a) a
      = (es.filter act).foldl (fun a e => f a (get e)) a := by
  induction es generalizing a with
  | nil => rfl
  | cons e es ih =>
    rw [List.map_cons, List.foldl_cons]
    cases he : act e
    · rw [List.filter_cons_of_neg (by simp [he])]
      exact ih a ha
    · rw [List.filter_cons_of_pos he, List.foldl_cons, ← hg a e ha]
      exact ih _ (by rw [narrow_natCast]; exact Nat.mod_lt _ (Nat.two_pow_pos w))

/-- An integer reduction performs as its line says (14 R390). -/
theorem performs_reduceForm (make : Body → Instr) {g f : Nat → Nat → Nat → Nat}
    (hg : ∀ w a x, 0 < w → a < 2 ^ w → x < 2 ^ w → narrow w (g w a x) = f w a x) (b : Body) (s : State) :
    Performs (reduceForm make f) b s (foldMember b g) where
  good := by
    rintro ⟨hI, hmod, h3⟩
    change (!inI (tyOf b) || modBad b 2 || b.vs3 ≠ 0 || (false && frmBad s.hart.captured)) = false
    rw [inI_of_mem hI, modBad_of_only hmod, h3]
    rfl
  pc := takes_pc _ _ _ _
  instret := takes_instret _ _ _ _
  run hl _ u k hu := by
    obtain ⟨hI, -⟩ := hl
    refine (redMember_run hu b _ _ _ _ _).trans ?_
    have hstep (a e : Nat) (ha : a < 2 ^ wOf b) := hg (wOf b) a (first b s (wOf b) e) (wOf_pos_of_setI hI) ha (first_lt b s _ e)
    simp only [rangeElems, foldl_active (first b s (wOf b)) (s.hart.active b) hstep _ _ (vget_lt _ _ _ _)]
    rfl

theorem completes_reduceForm {make : Body → Instr} {f8 : BitVec 8} {g f : Nat → Nat → Nat → Nat}
    (hexec : ∀ b s, exec (make b) s = lone 4 f8 b (foldMember b g) s)
    (hg : ∀ w a x, 0 < w → a < 2 ^ w → x < 2 ^ w → narrow w (g w a x) = f w a x) : (reduceForm make f).Completes :=
  completes_of_performs (m := fun b _ => foldMember b g) hexec fun b s _ => performs_reduceForm make hg b s

/-- A floating reduction performs as its line says (14 R390, R391). -/
theorem performs_freduceForm (make : Body → Instr) (frm : Bool) {g : Body → Captured → Nat → List (Nat × Bool) → Nat × BitVec 5}
    {f : Fmt → Nat → Nat → List (Nat × Bool) → Nat × BitVec 5} (hg : ∀ b c a es, g b c a es = f (fOf b) c.vfrm.toNat a es)
    (b : Body) (s : State) : Performs (freduceForm make frm f) b s (redMember b (inF (tyOf b)) frm (g b)) where
  good := by
    rintro ⟨hF, hmod, h3, hfrm⟩
    change (!inF (tyOf b) || modBad b 2 || b.vs3 ≠ 0 || (frm && frmBad s.hart.captured)) = false
    rw [inF_of_mem hF, modBad_of_only hmod, h3, frm_good hfrm]
    rfl
  pc := takes_pc _ _ _ _
  instret := takes_instret _ _ _ _
  run _ _ u k hu := by
    refine (redMember_run hu b _ _ _ _ _).trans ?_
    simp only [hg]
    rfl

theorem completes_freduceForm {make : Body → Instr} {f8 : BitVec 8} {frm : Bool}
    {g : Body → Captured → Nat → List (Nat × Bool) → Nat × BitVec 5} {f : Fmt → Nat → Nat → List (Nat × Bool) → Nat × BitVec 5}
    (hexec : ∀ b s, exec (make b) s = lone 4 f8 b (redMember b (inF (tyOf b)) frm (g b)) s)
    (hg : ∀ b c a es, g b c a es = f (fOf b) c.vfrm.toNat a es) : (freduceForm make frm f).Completes :=
  completes_of_performs (m := fun b _ => redMember b (inF (tyOf b)) frm (g b)) hexec fun b s _ => performs_freduceForm make frm hg b s

/-- The least, or the greatest, of the active elements of a range and the initial value (14 R390). -/
def extreme (isMax : Bool) (f : Fmt) (init : Nat) (es : List (Nat × Bool)) : Nat × BitVec 5 :=
  es.foldl (fun a e => if e.2 then ((f.minmax isMax a.1 e.1).1, a.2 ||| (f.minmax isMax a.1 e.1).2) else a) (f.canon init, (f.value init).sig)

theorem ffoldMember_eq (b : Body) (isMax : Bool) :
    ffoldMember b isMax = redMember b (inF (tyOf b)) false (fun _ => extreme isMax (fOf b)) := rfl

theorem completes_ffoldForm {make : Body → Instr} {f8 : BitVec 8} {isMax : Bool}
    {f : Fmt → Nat → Nat → List (Nat × Bool) → Nat × BitVec 5} (hexec : ∀ b s, exec (make b) s = lone 4 f8 b (ffoldMember b isMax) s)
    (hf : ∀ x m a es, extreme isMax x a es = f x m a es) : (freduceForm make false f).Completes :=
  completes_freduceForm (g := fun b _ => extreme isMax (fOf b)) (fun b s => by rw [hexec, ffoldMember_eq]) fun _ _ _ _ => hf _ _ _ _

theorem bsSum_stripsOf (b : Body) (mode : Nat) (h k : Hart) (vl n j : Nat) (a : Nat × BitVec 5) :
    bsSum b mode (stripsOf h k) vl n j a = bsSum b mode h vl n j a := by
  induction n generalizing j a with
  | zero => rfl
  | succ n ih => exact ih _ _

/-- The sum of blocks writes its sum to element 0 of its destination (14 R392, 11 R307). -/
theorem vfsumBs_run {s u : State} {k : Hart} (hu : u.hart = stripsOf s.hart k) (b : Body) (lo hi : Nat) :
    (vfsumBsMember b).run s.hart.captured lo hi u = .ok { u with hart := stripsOf (takes s.hart b.vd.toNat 32
      [(0, felem (bsSum b s.hart.vfrm.toNat s.hart s.hart.vl.toNat ((s.hart.vl.toNat + 31) / 32) 0 (s.hart.vget b.vs2.toNat 32 0, 0)))]) k } := by
  refine Eq.trans ?_ (raise_run hu b.vd.toNat 32
    [(0, bsSum b s.hart.vfrm.toNat s.hart s.hart.vl.toNat ((s.hart.vl.toNat + 31) / 32) 0 (s.hart.vget b.vs2.toNat 32 0, 0))])
  dsimp only [vfsumBsMember, wholeMember, Member.plain, List.foldl_cons, List.foldl_nil]
  have hfl (x : BitVec 5) : 0 ||| x = x := BitVec.zero_or
  rw [hu, bsSum_stripsOf, hfl]
  rfl

/-- The types of the sum of blocks (14 R392). -/
theorem sumType_of_mem {t : Nat} (h : t ∈ [10, 11, 12, 13, 14, 15, 17, 23]) : ((10 ≤ t && t ≤ 15) || t = 17 || t = 23) = true := by
  revert t
  decide

theorem or_and_eq_zero {n : Nat} {x y z : BitVec n} (hx : x &&& z = 0) (hy : y &&& z = 0) : (x ||| y) &&& z = 0 := by
  rw [BitVec.and_comm, BitVec.and_or_distrib_left, BitVec.and_comm z, BitVec.and_comm z, hx, hy]
  exact BitVec.or_self

/-! ### Mask instructions -/

theorem maskBody_of_maskFixed {b : Body} (h : maskFixed b) : maskBody b = true := by
  obtain ⟨hty, hgrp⟩ := h
  simp [maskBody, hty, hgrp]

/-- A mask logic operation performs as its line says (14 R393). -/
theorem performs_logicForm (make : Body → Instr) (two : Bool) (f : Bool → Bool → Bool) (b : Body) (s : State) :
    Performs (logicForm make two f) b s (logicMember b two f) where
  good := by
    rintro ⟨hfix, hmod, h3, h2⟩
    have h2' : (!two && decide (b.vs2 ≠ 0)) = false := by
      cases two
      · simp [h2 rfl]
      · rfl
    change (!maskBody b || modBad b 0 || b.vs3 ≠ 0 || (!two && b.vs2 ≠ 0)) = false
    rw [maskBody_of_maskFixed hfix, h2', h3]
    simp [modBad_zero hmod]
  pc := takesBits_pc _ _ _
  instret := takesBits_instret _ _ _
  run _ _ u k hu := by
    dsimp only [logicMember, Member.plain, logicForm, cond_true, later]
    exact writeBits_run hu b _ _ _ fun e => rfl

theorem completes_logicForm {make : Body → Instr} {f8 : BitVec 8} {two : Bool} {f : Bool → Bool → Bool}
    (hexec : ∀ b s, exec (make b) s = lone 4 f8 b (logicMember b two f) s) : (logicForm make two f).Completes :=
  completes_of_performs (m := fun b _ => logicMember b two f) hexec fun b s _ => performs_logicForm make two f b s

/-- A member that counts the active elements performs as its line says (14 R394). -/
theorem performs_countForm (make : Body → Instr) {g f : List Nat → Word} (hg : ∀ es, g es = f es) (b : Body) (s : State) :
    Performs (countForm make f) b s (countMember b g) where
  good := by
    rintro ⟨hfix, hmod, h1, h2, h3⟩
    simp [countMember, wholeMember, Member.plain, maskBody_of_maskFixed hfix, modBad_zero hmod, h1, h2, h3]
  pc := putsX_pc _ _ _
  instret := putsX_instret _ _ _
  run _ _ u k hu := by
    dsimp only [countMember, wholeMember, Member.plain, countForm]
    rw [hg, setX_run hu, hu]
    rfl

theorem completes_countForm {make : Body → Instr} {f8 : BitVec 8} {g f : List Nat → Word}
    (hexec : ∀ b s, exec (make b) s = lone 4 f8 b (countMember b g) s) (hg : ∀ es, g es = f es) : (countForm make f).Completes :=
  completes_of_performs (m := fun b _ => countMember b g) hexec fun b s _ => performs_countForm make hg b s

/-! ### The statement -/

/-- The reductions and the mask instructions (14 R390 to R394). -/
theorem reduceForms_complete : ∀ p ∈ reduceForms, p.Completes := by
  simp only [reduceForms, List.forall_mem_cons, List.not_mem_nil, false_imp_iff, implies_true, and_true]
  refine ⟨completes_reduceForm (fun _ _ => rfl) ?vredsum, completes_reduceForm (fun _ _ => rfl) ?vredmin,
    completes_reduceForm (fun _ _ => rfl) ?vredmax, completes_reduceForm (fun _ _ => rfl) ?vredminu, completes_reduceForm (fun _ _ => rfl) ?vredmaxu,
    completes_freduceForm (fun _ _ => rfl) ?vfredsum, completes_ffoldForm (fun _ _ => rfl) ?vfredmin,
    completes_ffoldForm (fun _ _ => rfl) ?vfredmax,
    completes_of_performs (m := fun b _ => vfsumBsMember b) (fun _ _ => rfl) fun b s _ => ?vfsumBs,
    completes_logicForm fun _ _ => rfl, completes_logicForm fun _ _ => rfl, completes_logicForm fun _ _ => rfl, completes_logicForm fun _ _ => rfl,
    completes_countForm (fun _ _ => rfl) fun _ => rfl, completes_countForm (fun _ _ => rfl) ?vfirst⟩
  case vredsum => exact fun w a x _ _ _ => narrow_natCast w (a + x)
  case vredmin | vredmax =>
    intro w a x hw ha hx
    rw [narrow_natCast, sextN_eq_signed hw ha, sextN_eq_signed hw hx]
    split
    · exact Nat.mod_eq_of_lt hx
    · exact Nat.mod_eq_of_lt ha
  case vredminu => exact fun w a x _ ha _ => (narrow_natCast w _).trans (Nat.mod_eq_of_lt (lt_of_le_of_lt (min_le_left a x) ha))
  case vredmaxu => exact fun w a x _ ha hx => (narrow_natCast w _).trans (Nat.mod_eq_of_lt (max_lt ha hx))
  case vfredsum => exact fun b c a es => rfl
  case vfredmin | vfredmax =>
    intro x m a es
    rw [List.foldl_filter]
    rfl
  case vfirst =>
    intro es
    cases es <;> rfl
  case vfsumBs =>
    refine { good := ?_, pc := takes_pc _ _ _ _, instret := takes_instret _ _ _ _, run := fun _ _ u k hu => vfsumBs_run hu b _ _ }
    rintro ⟨hty, hmod, hfrm, hd, h2, hregd, hreg2, hreg3⟩
    change (!((10 ≤ tyOf b && tyOf b ≤ 15) || tyOf b = 17 || tyOf b = 23) || modBad b 0 || frmBad s.hart.captured
      || ((single b.vd true).regs ||| (single b.vs2 true).regs ||| (single b.vs3 true).regs) &&& (src b.vs1 (grpOf b) (wOf b)).regs ≠ 0
      || b.vs3 = b.vd || b.vs3 = b.vs2) = false
    rw [sumType_of_mem hty, or_and_eq_zero (or_and_eq_zero hregd hreg2) hreg3]
    simp [modBad_zero hmod, frmBad_of_modeOk hfrm, hd, h2]

/-- Settles O29: each line of the tables is a lone convoy of a member that performs as the line says. -/
theorem vectorPermutationsAndReductionsComplete : Obligations.VectorPermutationsAndReductionsComplete := fun p hp =>
  (List.mem_append.1 hp).elim (permForms_complete p) (reduceForms_complete p)

end Sys2Proof.VectorProofs
end

section
/-!
PROOFS. The tile instructions (16 R430, R435, R436): what writing a tile leaves alone, and the lines of TZERO, TREAD, TWRITE and TDRAIN.
-/
namespace Sys2Proof.VectorProofs
open Sys2Proof.Machine hiding takes
open Sys2Proof.Claims

/-! ### Writing tiles -/

theorem setTile_frame {α : Type} (f : Hart → α) (hf : ∀ (h : Hart) a d, f { h with acc := a, vdirty := d } = f h) (h : Hart) (t v : Nat) :
    f (h.setTile t v) = f h := by
  unfold Hart.setTile
  split
  · exact hf h _ _
  · rfl

/-- What does not look at the tiles is the same after elements have been written to one. -/
theorem tputs_frame {α : Type} (f : Hart → α) (hf : ∀ (h : Hart) a d, f { h with acc := a, vdirty := d } = f h) (h : Hart) (t : Nat)
    (items : List (Nat × Nat × Nat)) : f (h.tputs t items) = f h := by
  unfold Hart.tputs
  split
  · rfl
  · exact setTile_frame f hf h t _

theorem setTile_stripsOf (h k : Hart) (t v : Nat) : (stripsOf h k).setTile t v = stripsOf (h.setTile t v) k := by
  unfold Hart.setTile
  split <;> rfl

theorem tputs_stripsOf (h k : Hart) (t : Nat) (items : List (Nat × Nat × Nat)) :
    (stripsOf h k).tputs t items = stripsOf (h.tputs t items) k := by
  unfold Hart.tputs
  split
  · rfl
  · exact setTile_stripsOf h k t _

theorem nfield_eq_div (v lo n : Nat) : nfield v lo n = v / 2 ^ lo % 2 ^ n := by rw [nfield, Nat.shiftRight_eq_div_pow]

/-- An element of a tile, as the model reads it (16 R427). -/
theorem tget_eq_tileElem (h : Hart) (t r c : Nat) : h.tget t r c = tileElem h t r c := by
  have h64 : 8 * (1024 * r + 8 * c) = 8192 * r + 64 * c := by omega
  have h32 : 8 * (512 * r + 4 * c) = 4096 * r + 32 * c := by omega
  unfold Hart.tget tileBits tileElem
  by_cases hk : h.tfKind = 3
  · simp only [hk, if_true, nfield_eq_div, h64]
  · simp only [hk, if_false, nfield_eq_div, h32]

/-! ### Checks -/

/-- As `completes_of_performs`, where that the member performs as its line says rests on operands that fit and on good registers too. -/
theorem completes_of_performs_clean {p : VForm} {cls : BitVec 4} {f8 : BitVec 8} {m : Body → State → Member}
    (hexec : ∀ b s, exec (p.make b) s = lone cls f8 b (m b s) s)
    (hm : ∀ b s, Clean s.hart → p.Legal b s.hart → p.Fits b s.hart → Performs p b s (m b s)) : p.Completes := by
  intro b s hw hdisp hclean hl hf
  rw [hexec]
  exact lone_completes (hm b s hclean hl hf) cls f8 hw hdisp hclean hl hf

/-- Marking a tile good as it is written changes nothing more where no tile holds an error (02 R53). -/
theorem goodTile_of_clean {h : Hart} (hc : Clean h) (t v : Nat) :
    { h.setTile t v with abad := bset h.abad t false, asoft := bset h.asoft t false } = h.setTile t v := by
  obtain ⟨-, habad, -, hasoft⟩ := hc
  have e1 : bset h.abad t false = (h.setTile t v).abad := by
    rw [setTile_frame Hart.abad (fun _ _ _ => rfl), habad]
    exact BitVec.zero_and
  have e2 : bset h.asoft t false = (h.setTile t v).asoft := by
    rw [setTile_frame Hart.asoft (fun _ _ _ => rfl), hasoft]
    exact BitVec.zero_and
  rw [e1, e2]

/-- A tile that the hart holds, with a shape (16 R429). -/
theorem tileBad_of_held {b : Body} {h : Hart} (ht : tileOf b < h.tiles.toNat) (hm : h.tsm ≠ 0) : tileBad b h true = false := by
  have ht' : mTile b < h.tiles.toNat := ht
  have hm' : ¬ h.tsm = 0#8 := hm
  simp [tileBad, ht', hm']

theorem rowsBad_of_rowsFit {b : Body} {h : Hart} (hr : rowsFit b h) : rowsBad b h.captured h = false :=
  decide_eq_false (Nat.not_lt.2 hr)

theorem tileShape_of_fits {b : Body} {h : Hart} (ht : tileOf b < h.tiles.toNat) (hm : h.tsm ≠ 0)
    (hw : wOf b = if h.tfKind = 3 then 64 else 32) (hr : rowsFit b h) : tileShape b h.captured h = none := by
  unfold tileShape
  rw [tileBad_of_held ht hm, rowsBad_of_rowsFit hr, ← hw]
  simp

/-- The checks of TREAD and TWRITE: of the three register fields without a role, each is 0 (16 R435). -/
theorem tileType_good {b : Body} {x y z : Reg} (hty : tyOf b ∈ [20, 21, 24, 25, 26, 27]) (hmod : only b 0xFE3) (hx : x = 0) (hy : y = 0)
    (hz : z = 0) : (!inTile (tyOf b) || modBad b 0xFE3 || x ≠ 0 || y ≠ 0 || z ≠ 0) = false := by
  rw [show inTile (tyOf b) = true from decide_eq_true hty, modBad_of_only hmod, hx, hy, hz]
  rfl

/-- The checks that members with lengths from the shape share (16 R429). -/
theorem mxu_good {b : Body} {bad : Bool} (hbad : bad = false) (hmen : b.men = false) (hty : b.ty = 0) (hgrp : b.grp = 0) (hd : b.vd = 0) :
    (bad || b.men || b.ty ≠ 0 || b.grp ≠ 0 || b.vd ≠ 0) = false := by
  rw [hbad, hmen, hty, hgrp, hd]
  rfl

/-- A check of the shape that passes (16 R429). -/
theorem shape_none {bad : Bool} (h : bad = false) : (if bad then some (0x0E : BitVec 8) else none) = none := by rw [h]; rfl

/-! ### The lines -/

/-- TZERO on a hart whose tiles hold no error (16 R430). -/
theorem tzeroMember_run {s u : State} {k : Hart} (hc : Clean s.hart) (hu : u.hart = stripsOf s.hart k) (b : Body) (c : Captured) (lo hi : Nat) :
    (tzeroMember b).run c lo hi u = .ok { u with hart := stripsOf (s.hart.setTile (tileOf b) 0) k } := by
  have hclean : Clean u.hart := by rw [hu]; exact clean_stripsOf hc
  refine (congrArg (fun h => MRes.ok { u with hart := h }) (goodTile_of_clean hclean (mTile b) 0)).trans ?_
  rw [hu, setTile_stripsOf]
  rfl

theorem sextN_vget {w : Nat} (hw : 0 < w) (h : Hart) (vb e : Nat) : sextN w (h.vget vb w e) = signed w (h.vget vb w e) :=
  sextN_eq_signed hw (vget_lt h vb w e)

theorem sextN_nfield {w : Nat} (hw : 0 < w) (v lo : Nat) : sextN w (nfield v lo w) = signed w (v / 2 ^ lo % 2 ^ w) := by
  rw [nfield_eq_div]
  exact sextN_eq_signed hw (Nat.mod_lt _ (Nat.two_pow_pos w))

/-- An element of a tile of 4-byte elements is a signed number of 32 bits. -/
theorem sextN_tget {h : Hart} (hk : h.tfKind ≠ 3) (t r c : Nat) : sextN 32 (h.tget t r c) = signed 32 (tileElem h t r c) := by
  rw [tget_eq_tileElem]
  refine sextN_eq_signed (by decide) ?_
  unfold tileElem
  rw [if_neg hk]
  exact Nat.mod_lt _ (Nat.two_pow_pos 32)

/-- TDRAIN clamps to INT8 or to UINT8 (16 R436). -/
theorem satInt_drain {t : Nat} (ht : t ≤ 1) (y : Int) : satInt 8 (tySigned t) y = kept 8 (if t = 0 then clampS 8 y else clampU 8 y) := by
  obtain rfl | rfl : t = 0 ∨ t = 1 := by omega
  · exact satInt_signed 8 y
  · exact satInt_unsigned 8 y

/-- TZERO, TREAD, TWRITE and TDRAIN (16 R430, R435, R436). -/
theorem tileForms_complete : ∀ p ∈ tileForms, p.Completes := by
  simp only [tileForms, List.forall_mem_cons, List.not_mem_nil, false_imp_iff, implies_true, and_true]
  refine ⟨completes_of_performs_clean (m := fun b _ => tzeroMember b) (fun _ _ => rfl) fun b s hc _ ⟨_, _, ht, _⟩ => ?tzero,
    completes_of_performs_clean (m := fun b _ => treadMember b) (fun _ _ => rfl) fun b s _ _ ⟨_, _, ht, hm, hw, hr⟩ => ?tread,
    completes_of_performs_clean (m := fun b _ => twriteMember b) (fun _ _ => rfl) fun b s _ _ ⟨_, _, ht, hm, hw, hr⟩ => ?twrite,
    completes_of_performs_clean (m := fun b _ => tdrainMember b) (fun _ _ => rfl) fun b s _ _ ⟨_, _, ht, hm, hk, hr, hc, hq⟩ => ?tdrain⟩
  case tzero =>
    refine { good := ?_, shape := fun _ => shape_none (bad := tileBad b s.hart false) ?_, pc := setTile_frame Hart.pc (fun _ _ _ => rfl) _ _ _
             instret := setTile_frame Hart.instret (fun _ _ _ => rfl) _ _ _, run := fun _ _ u k hu => tzeroMember_run hc hu b _ _ _ }
    · rintro ⟨hmen, hty, hgrp, hd, hmod, h1, h2, h3⟩
      exact mxu_good (by rw [modBad_of_only hmod, h1, h2, h3]; rfl) hmen hty hgrp hd
    · have ht' : mTile b < s.hart.tiles.toNat := ht
      simp [tileBad, ht']
  case tread =>
    refine { good := fun ⟨hty, hmod, h1, h2, h3⟩ => tileType_good hty hmod h1 h2 h3, shape := fun _ => tileShape_of_fits ht hm hw hr
             pc := takes_pc _ _ _ _, instret := takes_instret _ _ _ _, run := fun _ _ u k hu => ?_ }
    dsimp only [treadMember, Member.plain, cond_true, later]
    refine writeElems_run hu b _ _ _ _ fun e => ?_
    rw [tget_eq_tileElem]
    rfl
  case twrite =>
    refine { good := fun ⟨hty, hmod, hd, h2, h3⟩ => tileType_good hty hmod hd h2 h3, shape := fun _ => tileShape_of_fits ht hm hw hr
             pc := tputs_frame Hart.pc (fun _ _ _ => rfl) _ _ _, instret := tputs_frame Hart.instret (fun _ _ _ => rfl) _ _ _
             run := fun _ _ u k hu => ?_ }
    dsimp only [twriteMember, Member.plain, cond_true]
    rw [hu, tputs_stripsOf]
    rfl
  case tdrain =>
    have hk3 : s.hart.tfKind ≠ 3 := by rw [hk]; decide
    refine { good := ?_, shape := fun _ => shape_none ?_, pc := takes_pc _ _ _ _, instret := takes_instret _ _ _ _, run := fun hl _ u k hu => ?_ }
    · rintro ⟨hty, hmod, hregs⟩
      have hmod' : modBad b 0xFE3#12 = false := modBad_of_only hmod
      simpa [tdrainMember, Member.plain, hmod', hty] using hregs
    · have hc' : ¬ s.hart.vlb.toNat < 8 * s.hart.tsn.toNat := Nat.not_lt.2 hc
      have hq' : ¬ s.hart.vlb.toNat < 4 * cdiv s.hart.captured.vl s.hart.tsn.toNat := Nat.not_lt.2 hq
      rw [tileBad_of_held ht hm, rowsBad_of_rowsFit hr, hk]
      simp [hc', hq']
    · obtain ⟨hty, -⟩ := hl
      dsimp only [tdrainMember, Member.plain, cond_true, later]
      refine writeElems_run hu b _ _ _ _ fun e => ?_
      unfold drainElem
      rw [satInt_drain hty, fxShift_eq_rounded, sextN_vget (by decide), sextN_vget (by decide), sextN_nfield (by decide), sextN_nfield (by decide),
        sextN_tget (h := stripsOf s.hart k) hk3, nfield_eq_div, Nat.pow_zero, Nat.div_one]
      rfl

end Sys2Proof.VectorProofs
end

section
/-!
PROOFS. What an audit's sample of a matrix product leaves alone (09 R246 to R248): of the hart it changes the sampling register only.
-/
namespace Sys2Proof.VectorProofs
open Sys2Proof.Machine hiding takes
open Sys2Proof.Claims

theorem sendPacket_hart (s : State) (p : Packet) : (s.sendPacket p).2.hart = s.hart := by
  unfold State.sendPacket
  split
  · rfl
  · split
    · rfl
    · split
      · split <;> rfl
      · rfl

/-- A request sent under the next tag leaves the hart (01 R32). -/
theorem sendTagged_hart {s u : State} {p : Packet} {r : Sent} (h : s.newTag.2.sendPacket p = (r, u)) : u.hart = s.hart := by
  have hs := sendPacket_hart s.newTag.2 p
  rw [h] at hs
  exact hs

theorem hostWrite_hart (s : State) (addr : Nat) (data : List Byte) (w : Waiter) : (s.hostWrite addr data w).2.2.hart = s.hart := by
  unfold State.hostWrite
  dsimp only
  split
  · rfl
  · split
    · rfl
    · split
      · exact (sendPacket_hart s.newTag.2 _ :)
      · exact (sendPacket_hart s.newTag.2 _ :)

/-- A fault record leaves the hart (03 R77). -/
theorem postFault_hart (s : State) (c : BitVec 8) (r : FaultRec) : (s.postFault c r).hart = s.hart := by
  unfold State.postFault
  dsimp only
  split
  · rfl
  · split
    · rfl
    · split
      · rfl
      · split
        · rw [hostWrite_hart, State.modCtx_hart, State.putMem_hart]
        · rw [State.modCtx_hart, State.putMem_hart]

theorem auditFault_hart (s : State) (c : BitVec 8) (cl : BitVec 5) (cause : BitVec 8) (gang : BitVec 16) (addr pc : Word) :
    (s.auditFault c cl cause gang addr pc).hart = s.hart := by
  unfold State.auditFault
  dsimp only
  rw [State.modCtx_hart, State.modCluster_hart, postFault_hart]
  split <;> rfl

/-- What a unit asks for leaves the hart. -/
theorem askFor_hart {s u : State} {w : Waiter} {n : Need} {r : Option Reply} (h : s.askFor w n = (r, u)) : u.hart = s.hart := by
  rw [show u = (s.askFor w n).2 by rw [h]]
  unfold State.askFor
  dsimp only
  cases n with
  | request => dsimp only; split <;> rename_i heq <;> exact (sendTagged_hart heq :)
  | hostRead =>
    dsimp only
    split
    · rfl
    · split
      · rfl
      · split <;> rename_i heq <;> exact (sendTagged_hart heq :)
  | hostAtomic =>
    dsimp only
    split
    · rfl
    · split <;> rename_i heq <;> exact (sendTagged_hart heq :)
  | sau | halt | release | wait => rfl

/-- A unit's atomic needs its home's answer before it goes on (07 R192). -/
theorem unitRmwAt_nil_ne_ok (s u : State) (p : Place) (r : Rmw) (v : Nat) (rs : List Reply) : unitRmwAt s p r [] ≠ .ok v u rs := by
  cases p with
  | phys pa cls da =>
    unfold unitRmwAt
    dsimp only
    split <;> exact nofun
  | bank | peer | host | page => exact nofun

/-- See `unitRmwAt_nil_ne_ok`. -/
theorem unitRmw_nil_ne_ok (s u : State) (w : Who) (va : Word) (r : Rmw) (v : Nat) (rs : List Reply) : unitRmw s w va r [] ≠ .ok v u rs := by
  unfold unitRmw
  split
  · exact nofun
  · split
    · exact nofun
    · exact unitRmwAt_nil_ne_ok _ _ _ _ _ _
  · split
    · exact nofun
    · exact unitRmwAt_nil_ne_ok _ _ _ _ _ _
  · exact nofun

/-- A dropped sample leads to a state with the same hart (09 R248). It is stated of any property, and the definition unfolded before it is
applied, so that no check evaluates the sum that is the counter's address. -/
theorem dropSample_of {P : State → Prop} (s : State) (cl : BitVec 5) (hP : ∀ t : State, t.hart = s.hart → P t) : P (s.dropSample cl) := by
  have hdef : State.dropSample = State.dropSample := rfl
  conv at hdef =>
    rhs
    delta State.dropSample
  rw [hdef]
  beta_reduce
  extract_lets h va u
  have hu : u.hart = s.hart := State.count_hart s 0x15 1
  clear_value va u h
  split
  next heq => exact absurd heq (unitRmw_nil_ne_ok _ _ _ _ _ _ _)
  next =>
    split
    next heq => exact hP _ (by rw [auditFault_hart, askFor_hart heq, hu])
    next heq => exact hP _ (by rw [askFor_hart heq, hu])
  all_goals exact hP _ (by rw [auditFault_hart, hu])

/-- A dropped sample leaves the hart (09 R248). -/
theorem dropSample_hart (s : State) (cl : BitVec 5) : (s.dropSample cl).hart = s.hart :=
  dropSample_of (P := fun t => t.hart = s.hart) s cl fun _ h => h

/-- Of the hart an audit's sample changes only the sampling register (09 R247). -/
theorem auditRetire_hart (s : State) (x : Sample) : (s.auditRetire x).hart = { s.hart with aseed := (s.auditRetire x).hart.aseed } := by
  unfold State.auditRetire
  dsimp only
  split
  · rfl
  · split
    · rfl
    · split
      · rw [dropSample_hart]; rfl
      · rw [State.modCluster_hart, State.count_hart]; rfl

theorem auditRetire_of_unsampled {s : State} (h : s.hart.asampN = 0) (x : Sample) : s.auditRetire x = s := by
  unfold State.auditRetire
  exact if_pos (by simp [h])

end Sys2Proof.VectorProofs
end

section
/-!
PROOFS. The products (16 R431 to R433): what an integer product adds, the lines of TMAC and TOPA, and products of which an audit takes a sample.
-/
namespace Sys2Proof.VectorProofs
open Sys2Proof.Machine hiding takes
open Sys2Proof.Claims

/-! ### The integer product -/

/-- Adding to the signed value of a word, kept modulo 2^w, is adding to the number that the word keeps. -/
theorem narrow_sextN_add {w : Nat} (hw : 0 < w) (v x : Int) : narrow w (sextN w (narrow w v) + x) = narrow w (v + x) := by
  have hp : (0 : Int) < (2 ^ w : Nat) := by exact_mod_cast Nat.two_pow_pos w
  have hv : ((narrow w v : Nat) : Int) = v % (2 ^ w : Nat) := Int.toNat_of_nonneg (Int.emod_nonneg v hp.ne')
  have hlt : narrow w v < 2 ^ w := by
    have := Int.emod_lt_of_pos v hp
    omega
  rw [sextN_eq_signed hw hlt]
  unfold narrow at hv ⊢
  rw [Int.add_emod, signed_emod, hv, Int.emod_emod, ← Int.add_emod]

/-- The product of A(i, kk) and B(kk, j) of an integer TMAC (16 R432). -/
def intProduct (h : Hart) (a b : Nat → Nat × Nat) (k : Nat) : Int := mxInt h.tfA.toNat (a k).1 * mxInt h.tfB.toNat (b k).1

/-- An integer TMAC takes one integer step for its next 32 products (16 R432, 11 R306). -/
theorem tmacElem_succ {h : Hart} (hk : h.tfKind = 2) (a b : Nat → Nat × Nat) (n g acc : Nat) :
    tmacElem h a b (n + 1) g (acc, false)
      = tmacElem h a b n (g + 32) (intStep h.tfSat acc ((List.range' g 32).map (intProduct h a b)).sum) :=
  congrArg (tmacElem h a b n (g + 32)) ((if_pos hk).trans rfl)

/-- A step that does not saturate keeps the sum modulo 2^32 (11 R306). -/
theorem intStep_unsaturated (v x : Int) : intStep false (narrow 32 v) x = (narrow 32 (v + x), false) := by
  rw [← narrow_sextN_add (by decide)]
  rfl

/-- An unsaturated integer TMAC adds the products of its groups of 32, modulo 2^32 (16 R432, 11 R306). -/
theorem tmacElem_unsaturated {h : Hart} (hk : h.tfKind = 2) (hs : h.tfSat = false) (a b : Nat → Nat × Nat) (n g : Nat) (v : Int) :
    tmacElem h a b n g (narrow 32 v, false) = (narrow 32 (v + ((List.range' g (32 * n)).map (intProduct h a b)).sum), false) := by
  induction n generalizing g v with
  | zero => simp [tmacElem]
  | succ n ih =>
    have hsplit : List.range' g (32 * (n + 1)) = List.range' g 32 ++ List.range' (g + 32) (32 * n) := by
      rw [List.range'_append_1, Nat.mul_succ, Nat.add_comm]
    rw [tmacElem_succ hk, hs, intStep_unsaturated, ih, hsplit, List.map_append, List.sum_append, add_assoc]

/-- An integer TMAC that is not saturated adds the sum of its products modulo 2^32 (16 R432). -/
theorem tmacElem_eq_sum {h : Hart} (hk : h.tfKind = 2) (hs : h.tfSat = false) (hgroups : h.tsk.toNat % 32 = 0) (a b : Nat → Nat × Nat) (old : Nat) :
    (tmacElem h a b (h.tsk.toNat / 32) 0 (old % 2 ^ 32, false)).1
      = (((old : Int) + ((List.range h.tsk.toNat).map (intProduct h a b)).sum) % (2 ^ 32 : Nat)).toNat := by
  have hlen : 32 * (h.tsk.toNat / 32) = h.tsk.toNat := by omega
  rw [← narrow_natCast 32 old, tmacElem_unsaturated hk hs, hlen, ← List.range_eq_range']
  rfl

/-! ### The lines of the products -/

/-- TMAC's line (16 R431, R432). -/
noncomputable def tmacForm : VForm := productForms.head (List.cons_ne_nil _ _)

/-- TOPA's line (16 R433). -/
noncomputable def topaForm : VForm := productForms.getLast (List.cons_ne_nil _ _)

theorem forall_mem_productForms {q : VForm → Prop} (htmac : q tmacForm) (htopa : q topaForm) : ∀ p ∈ productForms, q p := by
  simp only [productForms, List.forall_mem_cons, List.not_mem_nil, false_imp_iff, implies_true, and_true]
  exact ⟨htmac, htopa⟩

theorem tmacElem_stripsOf (h k : Hart) (a b : Nat → Nat × Nat) (n g : Nat) (x : Nat × Bool) :
    tmacElem (stripsOf h k) a b n g x = tmacElem h a b n g x := by
  induction n generalizing g x with
  | zero => rfl
  | succ n ih => exact ih _ _

theorem tmacPart_stripsOf (h k : Hart) (b : Body) (lo hi : Nat) : (stripsOf h k).tmacPart b lo hi = stripsOf (h.tmacPart b lo hi) k := by
  unfold Hart.tmacPart
  simp only [tmacElem_stripsOf]
  rw [tputs_stripsOf]
  rfl

/-- What looks neither at the tiles nor at the flags is the same after rows of a TMAC. -/
theorem tmacPart_frame {α : Type} (f : Hart → α) (hf : ∀ (h : Hart) a d, f { h with acc := a, vdirty := d } = f h)
    (hr : ∀ (h : Hart) fl sat, f { h with vfflags := fl, vxsat := sat } = f h) (h : Hart) (b : Body) (lo hi : Nat) :
    f (h.tmacPart b lo hi) = f h := (hr _ _ _).trans (tputs_frame f hf h _ _)

/-- The first row that a TMAC performs: its steps before have completed those above (10 R272). -/
def firstRow (b : Body) (h : Hart) : Nat := min (tmacRows b h) ((h.rep.elim 0 (fun r => r.steps)) * h.rowsPerReg)

theorem tmacForm_effect_eq (b : Body) (s : State) :
    tmacForm.effect b s = { s.hart.tmacPart b (firstRow b s.hart) (tmacRows b s.hart) with rep := none } := rfl

/-- What looks neither at the tiles, at the flags nor at the repeat steps is the same after a TMAC. -/
theorem tmacForm_frame {α : Type} (f : Hart → α) (hf : ∀ (h : Hart) a d, f { h with acc := a, vdirty := d } = f h)
    (hr : ∀ (h : Hart) fl sat, f { h with vfflags := fl, vxsat := sat } = f h) (hrep : ∀ (h : Hart) r, f { h with rep := r } = f h) (b : Body)
    (s : State) : f (tmacForm.effect b s) = f s.hart := by
  rw [tmacForm_effect_eq, hrep, tmacPart_frame f hf hr]

/-- What looks neither at the tiles nor at the saturation flag is the same after a TOPA. -/
theorem topaForm_frame {α : Type} (f : Hart → α) (hf : ∀ (h : Hart) a d, f { h with acc := a, vdirty := d } = f h)
    (hr : ∀ (h : Hart) sat, f { h with vxsat := sat } = f h) (b : Body) (s : State) :
    f (topaForm.effect b s) = f s.hart := (hr _ _).trans (tputs_frame f hf s.hart _ _)

/-- A member leaves the hart of its line, and then the audit of its context may take a sample (16 R437, 09 R246). -/
def ThenSamples (p : VForm) (b : Body) (m : Member) : Prop :=
  ∀ c lo hi s, ∃ x, m.run c lo hi s = .ok (State.auditRetire { s with hart := p.effect b s } x)

theorem tmacMember_thenSamples (b : Body) (blocky : Bool) : ThenSamples tmacForm b (tmacMember b blocky) := by
  intro c lo hi s
  rw [tmacForm_effect_eq]
  change ∃ x, MRes.ok (tmacRun b s) = _
  unfold tmacRun firstRow
  exact ⟨_, rfl⟩

theorem raise_saturation (h : Hart) (sat : Bool) : h.raise 0 sat = { h with vxsat := h.vxsat || sat } := by
  unfold Hart.raise
  rw [show h.vfflags ||| 0 = h.vfflags from BitVec.or_zero]

/-- Results computed cell by cell, as the model writes them to a tile with their saturation. -/
theorem tputs_cells (h : Hart) (t : Nat) (cells : List (Nat × Nat)) (f : Nat × Nat → Nat × Bool) :
    (h.tputs t ((cells.zip (cells.map f)).map (fun (z : (Nat × Nat) × (Nat × Bool)) => (z.1.1, z.1.2, z.2.1)))).raise 0 ((cells.map f).any Prod.snd)
      = { h.tputs t (cells.map (fun c => (c.1, c.2, (f c).1))) with vxsat := h.vxsat || cells.any (fun c => (f c).2) } := by
  rw [← List.map_prod_left_eq_zip, List.map_map, List.any_map, raise_saturation, tputs_frame Hart.vxsat (fun _ _ _ => rfl)]
  rfl

theorem topaMember_thenSamples (b : Body) : ThenSamples topaForm b (topaMember b) := by
  intro c lo hi s
  refine ⟨_, congrArg (fun h => MRes.ok (State.auditRetire { s with hart := h } _)) ((tputs_cells s.hart _ _ _).trans ?_)⟩
  simp only [tget_eq_tileElem]
  rfl

theorem tmacForm_effect_stripsOf {s u : State} {k : Hart} (hu : u.hart = stripsOf s.hart k) (b : Body) :
    tmacForm.effect b u = stripsOf (tmacForm.effect b s) k := by
  have hrep (h : Hart) : { stripsOf h k with rep := none } = stripsOf { h with rep := none } k := rfl
  rw [tmacForm_effect_eq, tmacForm_effect_eq, hu, tmacPart_stripsOf]
  exact hrep _

theorem saturate_stripsOf (h k : Hart) (t : Nat) (items : List (Nat × Nat × Nat)) (sat : Bool) :
    { (stripsOf h k).tputs t items with vxsat := sat } = stripsOf { h.tputs t items with vxsat := sat } k :=
  congrArg (fun h : Hart => { h with vxsat := sat }) (tputs_stripsOf h k t items)

theorem topaForm_effect_stripsOf {s u : State} {k : Hart} (hu : u.hart = stripsOf s.hart k) (b : Body) :
    topaForm.effect b u = stripsOf (topaForm.effect b s) k := by
  rw [show topaForm.effect b u = topaForm.effect b { s with hart := u.hart } from rfl, hu]
  exact saturate_stripsOf s.hart k _ _ _

/-- A product of which no sample is taken leaves its line's hart. -/
theorem product_run {p : VForm} {b : Body} {m : Member} {s u : State} {k : Hart} (hm : ThenSamples p b m)
    (heffect : p.effect b u = stripsOf (p.effect b s) k) (hsample : (p.effect b s).asampN = 0) (c : Captured) (lo hi : Nat) :
    m.run c lo hi u = .ok { u with hart := stripsOf (p.effect b s) k } := by
  obtain ⟨x, hx⟩ := hm c lo hi u
  rw [heffect, auditRetire_of_unsampled hsample] at hx
  exact hx

/-- A line with other operands: that of TMAC does not name the scales, which a TMAC of block formats reads (16 R431). -/
def withOps (p : VForm) (ops : List Opnd) : VForm := { p with ops := fun _ => ops }

theorem mixed_of_aux {os : List Opnd} (h : ∀ o ∈ os, o.aux = true) : mixed os = false := by
  induction os with
  | nil => rfl
  | cons o os ih =>
    obtain ⟨ho, hos⟩ := List.forall_mem_cons.1 h
    simp [mixed, ho, ih hos]

/-- The scales of a TMAC: an even register and the next (16 R431). -/
theorem scales_good {r : Reg} (heven : wbit r 0 = false) : ∀ o ∈ [single r false, { single r false with reg := r.toNat + 1 }], o.bad = false := by
  revert r
  decide

/-- The operands of a TMAC are registers beside the groups, whose widths may differ (14 R371, 16 R431). -/
theorem tmacMember_aux (b : Body) (blocky : Bool) : ∀ o ∈ (tmacMember b blocky).ops, o.aux = true := by
  intro o ho
  rcases List.mem_append.1 ho with ho | ho
  · rcases List.mem_append.1 ho with ho | ho
    · obtain ⟨i, -, rfl⟩ := List.mem_map.1 ho
      rfl
    · rw [List.mem_singleton.1 ho]
  · cases blocky
    · cases ho
    · rcases List.mem_pair.1 ho with rfl | rfl <;> rfl

/-- A TMAC that its line calls legal is legal with its scales among its operands (16 R431). -/
theorem tmac_legal_withOps {b : Body} {h : Hart} (hl : tmacForm.Legal b h) : (withOps tmacForm (tmacMember b h.blocky).ops).Legal b h := by
  obtain ⟨hmask, hops, -, hlegal⟩ := hl
  refine ⟨hmask, fun o ho => ?_, mixed_of_aux (tmacMember_aux b h.blocky), hlegal⟩
  obtain ⟨-, -, -, -, heven, -⟩ := hlegal
  rcases List.mem_append.1 ho with ho | ho
  · exact hops o ho
  · cases hblocky : h.blocky
    · rw [hblocky] at ho
      cases ho
    · rw [hblocky] at ho
      exact scales_good (heven hblocky) o ho

/-- TMAC's member performs as its line says, when nothing is sampled (16 R431, R432). -/
theorem performs_tmac {b : Body} {s : State} (hf : tmacForm.Fits b s.hart) :
    Performs (withOps tmacForm (tmacMember b s.hart.blocky).ops) b s (tmacMember b s.hart.blocky) := by
  obtain ⟨-, -, -, hsample, hshape⟩ := hf
  refine { good := ?_, shape := fun _ => shape_none hshape, pc := ?_, instret := ?_, run := fun _ _ u k hu => ?_ }
  · rintro ⟨hmen, hty, hgrp, hd, heven, hzero⟩
    refine mxu_good ?_ hmen hty hgrp hd
    cases hblocky : s.hart.blocky
    · exact decide_eq_false (not_not.2 (hzero hblocky))
    · exact heven hblocky
  · exact tmacForm_frame Hart.pc (fun _ _ _ => rfl) (fun _ _ _ => rfl) (fun _ _ => rfl) b s
  · exact tmacForm_frame Hart.instret (fun _ _ _ => rfl) (fun _ _ _ => rfl) (fun _ _ => rfl) b s
  · exact product_run (tmacMember_thenSamples b _) (tmacForm_effect_stripsOf hu b)
      ((tmacForm_frame Hart.asampN (fun _ _ _ => rfl) (fun _ _ _ => rfl) (fun _ _ => rfl) b s).trans hsample) _ _ _

/-- TOPA's member performs as its line says, when nothing is sampled (16 R433). -/
theorem performs_topa {b : Body} {s : State} (hf : topaForm.Fits b s.hart) : Performs topaForm b s (topaMember b) := by
  obtain ⟨-, -, ht, hsample, hm, hblocky, ha, hb⟩ := hf
  refine { good := ?_, shape := fun _ => shape_none ?_, pc := ?_, instret := ?_, run := fun _ _ u k hu => ?_ }
  · rintro ⟨hmen, hty, hgrp, hd, hmod, h3⟩
    exact mxu_good (by rw [modBad_of_only hmod, h3]; rfl) hmen hty hgrp hd
  · have ha' : ¬ 8 * s.hart.vlb.toNat < s.hart.tsm.toNat * eewOf s.hart.tfA.toNat := Nat.not_lt.2 ha
    have hb' : ¬ 8 * s.hart.vlb.toNat < s.hart.tsn.toNat * eewOf s.hart.tfB.toNat := Nat.not_lt.2 hb
    simp [tileBad_of_held ht hm, hblocky, ha', hb']
  · exact topaForm_frame Hart.pc (fun _ _ _ => rfl) (fun _ _ => rfl) b s
  · exact topaForm_frame Hart.instret (fun _ _ _ => rfl) (fun _ _ => rfl) b s
  · exact product_run (topaMember_thenSamples b) (topaForm_effect_stripsOf hu b)
      ((topaForm_frame Hart.asampN (fun _ _ _ => rfl) (fun _ _ => rfl) b s).trans hsample) _ _ _

theorem completes_tmac : tmacForm.Completes := fun _ _ hw hdisp hclean hl hf =>
  lone_completes (performs_tmac hf) 5 0x01 hw hdisp hclean (tmac_legal_withOps hl) hf

theorem completes_topa : topaForm.Completes :=
  completes_of_performs_clean (m := fun b _ => topaMember b) (fun _ _ => rfl) fun _ _ _ _ hf => performs_topa hf

/-! ### Sampled products -/

theorem issueAll_stripsOf (s : State) (c : Captured) (done restart : BitVec 6) (p : Placed) :
    (s.issueAll c done restart [p]).hart = stripsOf s.hart (s.issueAll c done restart [p]).hart := issueAll_errors s c done restart p

/-- Every run of a member goes on, and leaves the pc. -/
def RunsOn (m : Member) (c : Captured) : Prop := ∀ lo hi u, ∃ t, m.run c lo hi u = .ok t ∧ t.hart.pc = u.hart.pc

/-- A convoy of one member that goes on ends without a trap. -/
theorem perform_goes_on {p : Placed} {c : Captured} {done restart : BitVec 6} {s : State} (hclean : Clean s.hart) (hrun : RunsOn p.m c) :
    ∃ t, perform [p] c false done restart s = .ok t ∧ t.hart.pc = s.hart.pc := by
  have hissued := issueAll_stripsOf s c done restart p
  have hpc : (s.issueAll c done restart [p]).hart.pc = s.hart.pc := by rw [hissued]; rfl
  by_cases hidle : wbit done 0 = true ∨ (c.vl = 0 ∧ p.m.mxu.isNone = true)
  · exact ⟨_, perform_idle hidle, hpc⟩
  · obtain ⟨hdone, hvl⟩ := not_or.1 hidle
    obtain ⟨t, ht, htpc⟩ := hrun (p.from c (wbit restart 0)) c.vl (s.issueAll c done restart [p])
    refine ⟨t, perform_runs (Bool.eq_false_of_not_eq_true hdone) (by simpa [Option.isSome_iff_ne_none] using hvl) ?_ ht, htpc.trans hpc⟩
    rw [hissued]
    exact clean_stripsOf hclean

/-- A lone convoy whose member goes on completes, whatever else its member changes (12 R321). -/
theorem lone_goes_on {cls : BitVec 4} {f8 : BitVec 8} {b : Body} {m : Member} {s : State} (hdisp : s.hart.disp = []) (hclean : Clean s.hart)
    (hl : m.illegal b s.hart.captured s.hart = false)
    (hs : m.shapeFault s.hart.captured s.hart (doneMark s.hart) (restartMark s.hart) = none) (hrun : RunsOn m s.hart.captured) :
    ∃ t, lone cls f8 b m s = .next t ∧ t.hart.pc = s.hart.pc + 12 := by
  obtain ⟨t, ht, hpc⟩ := perform_goes_on (p := { cls := cls.toNat, body := b, word := encodeBody cls f8 b, m := m }) hclean hrun
  exact ⟨_, lone_next hdisp hl hs ht, congrArg (· + 12) hpc⟩

/-- A product goes on whether or not a sample of it is taken. -/
theorem product_runsOn {p : VForm} {b : Body} {m : Member} (hm : ThenSamples p b m) (hpc : ∀ u, (p.effect b u).pc = u.hart.pc) (c : Captured) :
    RunsOn m c := by
  intro lo hi u
  obtain ⟨x, hx⟩ := hm c lo hi u
  refine ⟨_, hx, ?_⟩
  rw [auditRetire_hart]
  exact hpc u

/-- The state with the sampling of audits off. -/
def unsampled (s : State) : State := s.withHart fun h => { h with asampN := 0 }

/-- The checks of a TMAC and of a TOPA do not look at the sampling, and so they pass as they do without it. -/
theorem tmac_goes_on (b : Body) (s : State) (hdisp : s.hart.disp = []) (hclean : Clean s.hart) (hl : tmacForm.Legal b s.hart)
    (hf : tmacForm.Fits b (unsampled s).hart) : ∃ t, exec (tmacForm.make b) s = .next t ∧ t.hart.pc = s.hart.pc + 12 := by
  have hm := performs_tmac hf
  have hlegal := illegal_of_legal (s := unsampled s) hm (tmac_legal_withOps hl)
  have hshape := shapeFault_of_fits (s := unsampled s) hm hf
  exact lone_goes_on hdisp hclean hlegal hshape
    (product_runsOn (tmacMember_thenSamples b _) (tmacForm_frame Hart.pc (fun _ _ _ => rfl) (fun _ _ _ => rfl) (fun _ _ => rfl) b) _)

/-- See `tmac_goes_on`. -/
theorem topa_goes_on (b : Body) (s : State) (hdisp : s.hart.disp = []) (hclean : Clean s.hart) (hl : topaForm.Legal b s.hart)
    (hf : topaForm.Fits b (unsampled s).hart) : ∃ t, exec (topaForm.make b) s = .next t ∧ t.hart.pc = s.hart.pc + 12 := by
  have hm := performs_topa hf
  have hlegal := illegal_of_legal (s := unsampled s) hm hl
  have hshape := shapeFault_of_fits (s := unsampled s) hm hf
  exact lone_goes_on hdisp hclean hlegal hshape
    (product_runsOn (topaMember_thenSamples b) (topaForm_frame Hart.pc (fun _ _ _ => rfl) (fun _ _ => rfl) b) _)

/-! ### The statement -/

/-- Settles O30: each line is a lone convoy of a member that performs as the line says; an integer product adds group by group; and a sample that
an audit takes changes neither whether a product completes nor its pc. -/
theorem matrixInstructionsComplete : Obligations.MatrixInstructionsComplete := by
  refine ⟨fun p hp => ?_, fun h b i j old hk hs hgroups => tmacElem_eq_sum hk hs hgroups (h.mxA b i) (fun x => h.mxB b x j) old, ?_⟩
  · rcases List.mem_append.1 hp with hp | hp
    · exact tileForms_complete p hp
    · exact forall_mem_productForms completes_tmac completes_topa p hp
  · exact forall_mem_productForms tmac_goes_on topa_goes_on

end Sys2Proof.VectorProofs
end

section
/-!
PROOFS. Decoding what was encoded gives it back: the parcels of a scalar word, of a convoy and of a lone member (12 R312, R313, R321).
-/
namespace Sys2Proof.DecoderProofs
open Sys2Proof Sys2Proof.Laws.Codec

/-! ### Bytes of parcels -/

/-- Two fields of a word, side by side. -/
theorem field_append {m : Nat} (w : BitVec m) (lo n k : Nat) : field w (lo + n) k ++ field w lo n = field w lo (k + n) :=
  BitVec.extractLsb'_append_extractLsb'_eq_extractLsb' rfl

theorem field_whole {m : Nat} (w : BitVec m) : field w 0 m = w := BitVec.extractLsb'_eq_self

/-- A field of a field. -/
theorem field_field {m : Nat} (w : BitVec m) {lo n lo' n' : Nat} (h : lo' + n' ≤ n) : field (field w lo n) lo' n' = field w (lo + lo') n' := by
  apply BitVec.eq_of_getLsbD_eq
  intro i hi
  simp only [field, BitVec.getLsbD_extractLsb', hi, decide_true, Bool.true_and, Nat.lt_of_lt_of_le (Nat.add_lt_add_left hi lo') h, Nat.add_assoc]

/-- The four bytes of a parcel, put together. -/
theorem word_of_bytes (w : BitVec 32) : field w 24 8 ++ field w 16 8 ++ field w 8 8 ++ field w 0 8 = w := by
  rw [field_append w 16 8 8, field_append w 8 8 16, field_append w 0 8 24, field_whole]

/-- The eight bytes of a body's two parcels, put together. -/
theorem body_of_bytes (b : Word) :
    field (field b 32 32) 24 8 ++ field (field b 32 32) 16 8 ++ field (field b 32 32) 8 8 ++ field (field b 32 32) 0 8
      ++ field (field b 0 32) 24 8 ++ field (field b 0 32) 16 8 ++ field (field b 0 32) 8 8 ++ field (field b 0 32) 0 8 = b := by
  rw [field_field b (by decide), field_field b (by decide), field_field b (by decide), field_field b (by decide), field_field b (by decide),
    field_field b (by decide), field_field b (by decide), field_field b (by decide), field_append b 48 8 8, field_append b 40 8 16,
    field_append b 32 8 24, field_append b 24 8 32, field_append b 16 8 40, field_append b 8 8 48, field_append b 0 8 56, field_whole]

/-- The parcels of a convoy's bodies. -/
noncomputable def bodyParcels (bodies : List Word) : List (BitVec 32) := bodies.flatMap (fun b => [field b 0 32, field b 32 32])

theorem takeBodies_cons {n : Nat} {bs rest : List Byte} {ws : List Word} (h : takeBodies n bs = some (ws, rest)) (b0 b1 b2 b3 b4 b5 b6 b7 : Byte) :
    takeBodies (n + 1) (b0 :: b1 :: b2 :: b3 :: b4 :: b5 :: b6 :: b7 :: bs) = some ((b7 ++ b6 ++ b5 ++ b4 ++ b3 ++ b2 ++ b1 ++ b0) :: ws, rest) := by
  have e : takeBodies (n + 1) (b0 :: b1 :: b2 :: b3 :: b4 :: b5 :: b6 :: b7 :: bs) = match takeBodies n bs with
    | some (ws, rest) => some ((b7 ++ b6 ++ b5 ++ b4 ++ b3 ++ b2 ++ b1 ++ b0) :: ws, rest)
    | none => none := rfl
  rw [e, h]

/-- The bodies of a convoy are taken back from their bytes. -/
theorem takeBodies_bodyParcels (bodies : List Word) (rest : List Byte) :
    takeBodies bodies.length (parcelBytes (bodyParcels bodies) ++ rest) = some (bodies, rest) := by
  induction bodies with
  | nil => rfl
  | cons b bodies ih =>
    have hp : bodyParcels (b :: bodies) = field b 0 32 :: field b 32 32 :: bodyParcels bodies := rfl
    rw [hp]
    refine (takeBodies_cons ih ..).trans ?_
    exact congrArg (fun w => some (w :: bodies, rest)) (body_of_bytes b)

/-! ### Decoding parcels -/

theorem decode_word {w : BitVec 32} {i : Instr} (rest : List Byte) (hw : field w 0 7 ≠ 0x2B#7) (hd : decodeWord w = .ok i) :
    decode (parcelBytes [w] ++ rest) = .ok (i, rest) := by
  change decode (field w 0 8 :: field w 8 8 :: field w 16 8 :: field w 24 8 :: rest) = _
  unfold decode
  dsimp only
  rw [word_of_bytes, if_neg hw, hd]

theorem decode_convoy {hdr : BitVec 32} {bodies : List Word} (rest : List Byte) (hm : field hdr 0 7 = 0x2B#7)
    (hc : bodies.length = headerCount hdr) :
    decode (parcelBytes (hdr :: bodyParcels bodies) ++ rest) = .ok (.convoy hdr bodies, rest) := by
  change decode (field hdr 0 8 :: field hdr 8 8 :: field hdr 16 8 :: field hdr 24 8 :: (parcelBytes (bodyParcels bodies) ++ rest)) = _
  unfold decode
  dsimp only
  rw [word_of_bytes, if_pos hm, ← hc, takeBodies_bodyParcels]

theorem loneHeader_mark (cls : BitVec 4) : field (loneHeader cls) 0 7 = 0x2B#7 := by revert cls; decide

theorem loneHeader_count (cls : BitVec 4) : headerCount (loneHeader cls) = 1 := by revert cls; decide

/-! ### Every instruction -/

theorem statement_of_no_word {i : Instr} (h : encodeScalar i = none) : Statement i :=
  ⟨fun _ _ hw => absurd (h.symm.trans hw) nofun, fun _ _ _ hm => encodes_of_code hm⟩

/-- The encoder and the decoder agree on every instruction. -/
theorem statement (i : Instr) : Statement i := by
  induction i with
  | lui rd imm => exact lui rd imm
  | auipc rd imm => exact auipc rd imm
  | jal rd imm => exact jal rd imm
  | jalr rd rs1 imm => exact jalr rd rs1 imm
  | beq rs1 rs2 imm => exact beq rs1 rs2 imm
  | bne rs1 rs2 imm => exact bne rs1 rs2 imm
  | blt rs1 rs2 imm => exact blt rs1 rs2 imm
  | bge rs1 rs2 imm => exact bge rs1 rs2 imm
  | bltu rs1 rs2 imm => exact bltu rs1 rs2 imm
  | bgeu rs1 rs2 imm => exact bgeu rs1 rs2 imm
  | lb rd rs1 imm => exact lb rd rs1 imm
  | lh rd rs1 imm => exact lh rd rs1 imm
  | lw rd rs1 imm => exact lw rd rs1 imm
  | ld rd rs1 imm => exact ld rd rs1 imm
  | lbu rd rs1 imm => exact lbu rd rs1 imm
  | lhu rd rs1 imm => exact lhu rd rs1 imm
  | lwu rd rs1 imm => exact lwu rd rs1 imm
  | sb rs1 rs2 imm => exact sb rs1 rs2 imm
  | sh rs1 rs2 imm => exact sh rs1 rs2 imm
  | sw rs1 rs2 imm => exact sw rs1 rs2 imm
  | sd rs1 rs2 imm => exact sd rs1 rs2 imm
  | addi rd rs1 imm => exact addi rd rs1 imm
  | slti rd rs1 imm => exact slti rd rs1 imm
  | sltiu rd rs1 imm => exact sltiu rd rs1 imm
  | xori rd rs1 imm => exact xori rd rs1 imm
  | ori rd rs1 imm => exact ori rd rs1 imm
  | andi rd rs1 imm => exact andi rd rs1 imm
  | slli rd rs1 sh => exact slli rd rs1 sh
  | srli rd rs1 sh => exact srli rd rs1 sh
  | srai rd rs1 sh => exact srai rd rs1 sh
  | addiw rd rs1 imm => exact addiw rd rs1 imm
  | slliw rd rs1 sh => exact slliw rd rs1 sh
  | srliw rd rs1 sh => exact srliw rd rs1 sh
  | sraiw rd rs1 sh => exact sraiw rd rs1 sh
  | add rd rs1 rs2 => exact add rd rs1 rs2
  | sub rd rs1 rs2 => exact sub rd rs1 rs2
  | sll rd rs1 rs2 => exact sll rd rs1 rs2
  | slt rd rs1 rs2 => exact slt rd rs1 rs2
  | sltu rd rs1 rs2 => exact sltu rd rs1 rs2
  | xorr rd rs1 rs2 => exact xorr rd rs1 rs2
  | srl rd rs1 rs2 => exact srl rd rs1 rs2
  | sra rd rs1 rs2 => exact sra rd rs1 rs2
  | orr rd rs1 rs2 => exact orr rd rs1 rs2
  | andd rd rs1 rs2 => exact andd rd rs1 rs2
  | mul rd rs1 rs2 => exact mul rd rs1 rs2
  | mulh rd rs1 rs2 => exact mulh rd rs1 rs2
  | mulhsu rd rs1 rs2 => exact mulhsu rd rs1 rs2
  | mulhu rd rs1 rs2 => exact mulhu rd rs1 rs2
  | div rd rs1 rs2 => exact div rd rs1 rs2
  | divu rd rs1 rs2 => exact divu rd rs1 rs2
  | rem rd rs1 rs2 => exact rem rd rs1 rs2
  | remu rd rs1 rs2 => exact remu rd rs1 rs2
  | addw rd rs1 rs2 => exact addw rd rs1 rs2
  | subw rd rs1 rs2 => exact subw rd rs1 rs2
  | sllw rd rs1 rs2 => exact sllw rd rs1 rs2
  | srlw rd rs1 rs2 => exact srlw rd rs1 rs2
  | sraw rd rs1 rs2 => exact sraw rd rs1 rs2
  | mulw rd rs1 rs2 => exact mulw rd rs1 rs2
  | divw rd rs1 rs2 => exact divw rd rs1 rs2
  | divuw rd rs1 rs2 => exact divuw rd rs1 rs2
  | remw rd rs1 rs2 => exact remw rd rs1 rs2
  | remuw rd rs1 rs2 => exact remuw rd rs1 rs2
  | lr rd rs1 a => exact lr rd rs1 a
  | sc rd rs1 rs2 a => exact sc rd rs1 rs2 a
  | amoswap rd rs1 rs2 a => exact amoswap rd rs1 rs2 a
  | amoadd rd rs1 rs2 a => exact amoadd rd rs1 rs2 a
  | amoxor rd rs1 rs2 a => exact amoxor rd rs1 rs2 a
  | amoand rd rs1 rs2 a => exact amoand rd rs1 rs2 a
  | amoor rd rs1 rs2 a => exact amoor rd rs1 rs2 a
  | amomin rd rs1 rs2 a => exact amomin rd rs1 rs2 a
  | amomax rd rs1 rs2 a => exact amomax rd rs1 rs2 a
  | amominu rd rs1 rs2 a => exact amominu rd rs1 rs2 a
  | amomaxu rd rs1 rs2 a => exact amomaxu rd rs1 rs2 a
  | fence rd rs1 fm pred succ => exact fence rd rs1 fm pred succ
  | fenceTso rd rs1 => exact fenceTso rd rs1
  | pause => exact pause
  | fenceI rd rs1 imm => exact fenceI rd rs1 imm
  | ecall => exact ecall
  | ebreak => exact ebreak
  | csrrw rd rs1 csr => exact csrrw rd rs1 csr
  | csrrs rd rs1 csr => exact csrrs rd rs1 csr
  | csrrc rd rs1 csr => exact csrrc rd rs1 csr
  | csrrwi rd imm csr => exact csrrwi rd imm csr
  | csrrsi rd imm csr => exact csrrsi rd imm csr
  | csrrci rd imm csr => exact csrrci rd imm csr
  | vsetvl rd rs1 eew grp => exact vsetvl rd rs1 eew grp
  | vsetvlB rd rs1 eew grp => exact vsetvlB rd rs1 eew grp
  | vsetshape rd rs1 rs2 eew grp => exact vsetshape rd rs1 rs2 eew grp
  | vsetshapeB rd rs1 rs2 eew grp => exact vsetshapeB rd rs1 rs2 eew grp
  | tshape rd rs1 rs2 => exact tshape rd rs1 rs2
  | tfree rs1 => exact tfree rs1
  | ctload rd rs1 rs2 => exact ctload rd rs1 rs2
  | tqpush rd rs1 rs2 => exact tqpush rd rs1 rs2
  | tqpushP rd rs1 rs2 => exact tqpushP rd rs1 rs2
  | texit => exact texit
  | gbar => exact gbar
  | tyield => exact tyield
  | xcall rd rs1 rs2 => exact xcall rd rs1 rs2
  | fenceScoped rd scope => exact fenceScoped rd scope
  | fenceAcq scope => exact fenceAcq scope
  | fenceRel rd scope => exact fenceRel rd scope
  | viswait rs1 => exact viswait rs1
  | tkget rd rs1 => exact tkget rd rs1
  | tkwait rs1 rs2 => exact tkwait rs1 rs2
  | tkdone rs1 => exact tkdone rs1
  | stv rd rs1 rs2 => exact stv rd rs1 rs2
  | sxfer rd rs1 rs2 => exact sxfer rd rs1 rs2
  | sort rd rs1 rs2 => exact sort rd rs1 rs2
  | estat rd rs1 => exact estat rd rs1
  | ecancel rd rs1 => exact ecancel rd rs1
  | tret => exact tret
  | hwait rd rs1 rs2 => exact hwait rd rs1 rs2
  | sfenceT rs1 rs2 => exact sfenceT rs1 rs2
  | uiret => exact uiret
  | ctrig rs1 => exact ctrig rs1
  | tmark rs1 => exact tmark rs1
  | _ => exact statement_of_no_word rfl

/-- The parcels of an instruction that is not a convoy: its word, or a header and the one body. -/
noncomputable def plainParcels (i : Instr) : List (BitVec 32) :=
  (encodeScalar i).elim ((memberCode i).elim [] (fun m => loneHeader m.1 :: bodyParcels [encodeBody m.1 m.2.1 m.2.2])) (fun w => [w])

/-- A convoy has no word and no code of its own. -/
theorem encode_of_codes {i : Instr} (h : (encodeScalar i).isSome ∨ (memberCode i).isSome) : encode i = plainParcels i := by
  induction i with
  | convoy hdr bodies => exact h.elim (fun e => nomatch e) (fun e => nomatch e)
  | _ => rfl

theorem encode_of_word {i : Instr} {w : BitVec 32} (h : encodeScalar i = some w) : encode i = [w] := by
  rw [encode_of_codes (.inl (by rw [h]; rfl)), plainParcels, h]; rfl

/-- A vector instruction has no word of its own. -/
theorem word_or_code_none (i : Instr) : ((encodeScalar i).isNone || (memberCode i).isNone) = true := by
  induction i with
  | _ => exact (rfl : true = true)

theorem encode_of_memberCode {i : Instr} {cls : BitVec 4} {f : BitVec 8} {b : Body} (h : memberCode i = some (cls, f, b)) :
    encode i = loneHeader cls :: bodyParcels [encodeBody cls f b] := by
  have hw : encodeScalar i = none := by simpa [h] using word_or_code_none i
  rw [encode_of_codes (.inr (by rw [h]; rfl)), plainParcels, hw, h]; rfl

/-! ### The statement -/

/-- Settles O60: by the lemma of each instruction, and the parcels of a convoy taken back one by one. -/
theorem decodeEncode : Obligations.DecodeEncode := by
  intro i rest hwf
  refine ⟨?_, fun cls f b hm => ⟨?_, (statement i).2 cls f b hm⟩⟩
  · rintro (hs | ⟨hdr, bodies, rfl⟩)
    · obtain ⟨w, hw⟩ := Option.isSome_iff_exists.1 hs
      obtain ⟨hmark, hdec⟩ := (statement i).1 hwf w hw
      rw [encode_of_word hw]
      exact decode_word rest hmark hdec
    · have h : field hdr 0 7 = 0x2B#7 ∧ bodies.length = headerCount hdr := by simpa [Instr.wellFormed] using hwf
      exact decode_convoy rest h.1 h.2
  · rw [encode_of_memberCode hm]
    exact decode_convoy rest (loneHeader_mark cls) (loneHeader_count cls).symm

end Sys2Proof.DecoderProofs
end

section
/-!
PROOFS. Translation: where an address goes, and what a trace record and a translation may change (03 R83 to R91, 10 R274).
-/
namespace Sys2Proof.AccessProofs
open Sys2Proof Sys2Proof.Machine Sys2Proof.Claims

/-! ### Results that differ -/

theorem trap_ne_ok {α : Type} {cause : BitVec 8} {tval : Word} {x : α} {s : State} : (Res.trap cause tval : Res α) ≠ .ok x s := nofun

theorem need_ne_ok {α : Type} {n : Need} {x : α} {s : State} : (Res.need n : Res α) ≠ .ok x s := nofun

theorem error_ne_ok {ε α : Type} {e : ε} {x : α} : (Except.error e : Except ε α) ≠ .ok x := nofun

/-! ### Traces -/

/-- A core that does not trace writes no record. -/
theorem trace_of_untraced {s : State} (h : (s.core s.hart.core).dTren = false) (kind : Nat) (w : Word) : s.trace kind w = s := by
  unfold State.trace
  simp [h]

/-- Settles O7: from what a trace, and what a resolution, can do. -/
theorem tracesAndTranslationsReachLittle : Obligations.TracesAndTranslationsReachLittle :=
  ⟨fun s kind w => ⟨fun h => trace_of_untraced h kind w, fun hw => (trace_spec s kind w hw).1⟩, resolve_frame⟩

/-! ### Walks -/

theorem pteAt_congr {s t : State} (h : t.mem = s.mem) (p : Nat) : pteAt t p = pteAt s p := by
  unfold pteAt; rw [h]

/-- A walk reads nothing but memory. -/
theorem walkFrom_congr {s t : State} (h : t.mem = s.mem) (ptr : Nat → Option Word) (va l table : Nat) :
    walkFrom t ptr va l table = walkFrom s ptr va l table := by
  induction l generalizing table with
  | zero => simp only [walkFrom, pteAt_congr h]
  | succ l ih => simp only [walkFrom, pteAt_congr h, ih]

theorem walkReads_congr {s t : State} (h : t.mem = s.mem) (ptr : Nat → Option Word) (va l table : Nat) :
    walkReads t ptr va l table = walkReads s ptr va l table := by
  induction l generalizing table with
  | zero => simp only [walkReads, pteAt_congr h]
  | succ l ih => simp only [walkReads, pteAt_congr h, ih]

theorem walkHit_of_empty {s : State} {die : BitVec 2} (h : (s.die die).walks = []) (c : BitVec 8) (va : Nat) :
    walkHit s die c va = fun _ => none := by
  funext level
  simp [walkHit, h]

/-- What a walk finds in a state whose walk cache is empty. -/
noncomputable def walked (s : State) (c : BitVec 8) (va : Nat) : Walked :=
  if (walkReads s (fun _ => none) va 3 (rootOf s c)).any (fun r => poisoned s r.2 8) then .error
  else match walk s c va with
    | some (e, bits) => .leaf e bits
    | none => .fault

theorem walkOn_of_empty {s : State} {die : BitVec 2} (h : (s.die die).walks = []) (c : BitVec 8) (va : Nat) :
    (s.walkOn die c va).1 = walked s c va := by
  unfold State.walkOn
  simp only [walkHit_of_empty h]
  rfl

theorem walked_count (s : State) (ev n : Nat) (c : BitVec 8) (va : Nat) : walked (s.count ev n) c va = walked s c va := by
  have hm : (s.count ev n).mem = s.mem := State.count_mem ..
  have hp : (s.count ev n).poison = s.poison := State.count_poison ..
  have hr : rootOf (s.count ev n) c = rootOf s c := by
    unfold rootOf State.ctx; rw [State.count_ctxs]
  have hq (pa : Nat) : poisoned (s.count ev n) pa 8 = poisoned s pa 8 := by
    unfold poisoned; rw [hp]
  unfold walked walk
  simp only [walkReads_congr hm, walkFrom_congr hm, hr, hq]

/-- A translation that nothing cached answers is what the walk finds (03 R89 to R91). -/
theorem translate_of_uncached {s : State} {w : Who} (h : uncached s w) (va : Nat) : (Machine.translate s w va).1 = walked s w.ctx va := by
  obtain ⟨ht, hw, hl⟩ := h
  have hlk : lookedUp s w va = none := by
    unfold lookedUp; split
    · rfl
    · rw [hl]; rfl
  have hu : (if w.unit then s else s.count 0x0B 1).tlb = [] := by
    split
    · exact ht
    · rw [State.count_tlb]; exact ht
  have hd : ((if w.unit then s else s.count 0x0B 1).die (dieOf w.core)).walks = [] := by
    split
    · exact hw
    · rw [die_of_dies (State.count_dies ..)]; exact hw
  have he : walked (if w.unit then s else s.count 0x0B 1) w.ctx va = walked s w.ctx va := by
    split
    · rfl
    · exact walked_count ..
  unfold Machine.translate
  dsimp only
  rw [hlk, ht]
  dsimp only [List.find?_nil]
  generalize (if w.unit then s else s.count 0x0B 1) = u at hu hd he ⊢
  rw [hu, ← he, ← walkOn_of_empty hd]
  dsimp only [List.find?_nil]
  generalize u.walkOn (dieOf w.core) w.ctx va = q
  obtain ⟨r, v⟩ := q
  cases r <;> rfl

/-! ### Where an address goes -/

theorem wfield_high (va : Word) : wfield va 48 16 = va.toNat / 2 ^ 48 := by
  show (va.toNat >>> 48) % 2 ^ 16 = _
  rw [Nat.shiftRight_eq_div_pow]
  exact Nat.mod_eq_of_lt (Nat.div_lt_of_lt_mul va.isLt)

theorem wfield_low {va : Word} (h : va.toNat < 2 ^ 48) : ¬ wfield va 48 16 ≠ 0 := by
  rw [wfield_high, Nat.div_eq_of_lt h]
  exact not_not.2 rfl

theorem resolve_of_high {s : State} {w : Who} {va : Word} {k : Kind} (h : 2 ^ 48 ≤ va.toNat) :
    (resolve s w va k).1 = .error k.pageFault := by
  have : wfield va 48 16 ≠ 0 := by
    rw [wfield_high]
    exact (Nat.div_pos h (Nat.two_pow_pos 48)).ne'
  unfold resolve
  rw [if_pos this]

/-- Below the windows an uncached address goes where its walk says. -/
theorem resolve_of_uncached {s : State} {w : Who} {va : Word} {k : Kind} (hv : va.toNat < 0xFC0000000000) (h : uncached s w) :
    (resolve s w va k).1 = match walked s w.ctx va.toNat with
      | .fault => .error k.pageFault
      | .error => .error 0x15
      | .leaf e bits => if permits e k w.sup then leafPlace e bits va.toNat k else .error k.pageFault := by
  have h0 := wfield_low (Nat.lt_of_lt_of_le hv (by decide))
  have hw : resolveWindow s w va.toNat k = none := if_pos hv
  rw [← translate_of_uncached h]
  unfold resolve
  rw [if_neg h0, hw]
  dsimp only
  generalize Machine.translate s w va.toNat = q
  obtain ⟨r, v⟩ := q
  cases r <;> rfl

theorem walked_of_bad {s : State} {w : Who} {va : Word} (h : ¬ tablesGood s w va) : walked s w.ctx va.toNat = .error := by
  refine if_pos ?_
  unfold tablesGood at h
  simpa using h

theorem walked_of_good {s : State} {w : Who} {va : Word} (h : tablesGood s w va) :
    walked s w.ctx va.toNat = match walk s w.ctx va.toNat with
      | some (e, bits) => .leaf e bits
      | none => .fault := by
  refine if_neg ?_
  unfold tablesGood at h
  simpa using h

theorem leafPlace_local {e : Word} {bits va : Nat} {k : Kind} (h : wfield e 10 2 = 0) :
    leafPlace e bits va k = if contextTop ≤ wfield e 12 40 * 4096 + va % 2 ^ bits then .error k.accessFault
      else .ok (.phys (wfield e 12 40 * 4096 + va % 2 ^ bits) (field e 8 2) (wbit e 52)) := by
  unfold leafPlace
  rw [h]
  simp only [Nat.shiftLeft_eq]

theorem leafPlace_peer {e : Word} {bits va : Nat} {k : Kind} (h : wfield e 10 2 = 1) :
    leafPlace e bits va k = .ok (.peer (field e 40 12) (wfield e 12 28 * 4096 + va % 2 ^ bits) (field e 8 2)) := by
  unfold leafPlace
  rw [h]
  simp only [Nat.shiftLeft_eq]

theorem resolve_fetch_window {s : State} {w : Who} {va : Word} (hl : 0xFC0000000000 ≤ va.toNat) (hh : va.toNat < 2 ^ 48) :
    (resolve s w va .fetch).1 = .error 0x05 := by
  have h0 := wfield_low hh
  have hw : resolveWindow s w va.toNat .fetch = some (.error 0x05) := by
    unfold resolveWindow
    rw [if_neg (Nat.not_lt.2 hl), if_pos rfl]
  unfold resolve
  rw [if_neg h0, hw]

/-- Settles O3: by what an uncached translation finds, and the place its leaf gives. -/
theorem addressesResolve : Obligations.AddressesResolve := by
  unfold Obligations.AddressesResolve
  intro s w va k
  refine ⟨resolve_of_high, fun hv hu hb => ?_, fun hv hu hg => ⟨fun hn => ?_, fun e bits he => ⟨fun hp => ?_, fun hp => ⟨fun hl hc => ?_, fun hl hc => ?_, fun hl => ?_⟩⟩⟩,
    fun hl hh hk => hk ▸ resolve_fetch_window hl hh⟩
  · rw [resolve_of_uncached hv hu, walked_of_bad hb]
  all_goals rw [resolve_of_uncached hv hu, walked_of_good hg]
  · rw [hn]
  all_goals rw [he]; dsimp only
  · rw [hp]; rfl
  all_goals rw [if_pos hp]
  · rw [leafPlace_local hl, if_neg (Nat.not_le.2 hc)]
  · rw [leafPlace_local hl, if_pos hc]
  · exact leafPlace_peer hl

end Sys2Proof.AccessProofs
end

section
/-!
PROOFS. The scalar accesses to memory: loads, stores, atomics, LR and SC, where they reach local memory outside class L or a bank, and
loads and stores wherever they are answered (13 R342 to R344, 08 R210).
-/
namespace Sys2Proof.AccessProofs
open Sys2Proof Sys2Proof.Machine Sys2Proof.Claims

/-! ### Little-endian numbers -/

theorem leNat_lt (bs : List Byte) : leNat bs < 2 ^ (8 * bs.length) := by
  induction bs with
  | nil => exact Nat.one_pos
  | cons b bs ih =>
    have e : 2 ^ (8 * (b :: bs).length) = 256 * 2 ^ (8 * bs.length) := by
      rw [List.length_cons, Nat.mul_succ, Nat.pow_add, Nat.mul_comm]
    rw [e]
    refine Nat.lt_of_lt_of_le (Nat.add_lt_add_right b.isLt (256 * leNat bs)) ?_
    rw [Nat.add_comm]
    exact Nat.mul_le_mul_left 256 ih

theorem leNat_leBytes (n v : Nat) : leNat (leBytes n v) = v % 2 ^ (8 * n) := by
  induction n generalizing v with
  | zero => simp [leBytes, leNat, Nat.mod_one]
  | succ n ih =>
    have e : 2 ^ (8 * (n + 1)) = 256 * 2 ^ (8 * n) := by
      rw [Nat.mul_succ, Nat.pow_add, Nat.mul_comm]
    simp only [leBytes, leNat, ih, BitVec.toNat_ofNat, e, Nat.mod_mul]

theorem leBytes_mod (n v : Nat) : leBytes n (v % 2 ^ (8 * n)) = leBytes n v := by
  induction n generalizing v with
  | zero => rfl
  | succ n ih =>
    have e : 2 ^ (8 * (n + 1)) = 256 * 2 ^ (8 * n) := by
      rw [Nat.mul_succ, Nat.pow_add, Nat.mul_comm]
    have h1 : BitVec.ofNat 8 (v % (256 * 2 ^ (8 * n))) = BitVec.ofNat 8 v := by
      apply BitVec.eq_of_toNat_eq
      simp only [BitVec.toNat_ofNat]
      exact Nat.mod_mul_right_mod v 256 (2 ^ (8 * n))
    have h2 : v % (256 * 2 ^ (8 * n)) / 256 = v / 256 % 2 ^ (8 * n) := Nat.mod_mul_right_div_self v 256 (2 ^ (8 * n))
    simp only [leBytes, e, h1, h2, ih]

/-! ### Effective addresses and extensions -/

theorem effAddr_eq (s : State) (rs1 : Reg) (imm : BitVec 12) : effAddr s rs1 imm = addrOf s rs1 imm := by
  unfold effAddr addrOf sext12
  rw [BitVec.ofInt_add, BitVec.ofInt_toInt, BitVec.signExtend]

theorem signExtend_ofNat {n v : Nat} (hn : 0 < n) (hv : v < 2 ^ n) : (BitVec.ofNat n v).signExtend 64 = BitVec.ofInt 64 (signed n v) := by
  have e : 2 ^ n = 2 * 2 ^ (n - 1) := by rw [← Nat.pow_succ', Nat.succ_eq_add_one, Nat.sub_add_cancel hn]
  have : (BitVec.ofNat n v).toInt = signed n v := by
    unfold signed
    rw [BitVec.toInt_eq_toNat_cond, BitVec.toNat_ofNat, Nat.mod_eq_of_lt hv]
    rw [e]
    exact if_congr (Nat.mul_lt_mul_left Nat.two_pos) rfl rfl
  rw [BitVec.signExtend, this]

/-! ### What retiring and writing back may change -/

theorem onlyLooks_of_onlyHart {s t : State} (h : OnlyHart s t) : OnlyLooks s t := by
  obtain ⟨e, hc⟩ := h
  have hd : t.dies = s.dies := (congrArg State.dies e :)
  have hp : t.pkg = s.pkg := (congrArg State.pkg e :)
  refine ⟨?_, hc, fun d => by rw [die_of_dies hd], by rw [hp]⟩
  rw [e]

theorem onlyRetires_of_lookups {h u k : Hart} {pc : Word} {ls : List TlbEntry} (e : u = { h with lookups := ls }) (r : OnlyRetires u k pc) :
    OnlyRetires h k pc := by
  subst e
  exact r

theorem getX_of_translates {s u : State} (h : OnlyTranslates s u) (r : Reg) : u.getX r = s.getX r := getX_eq (congrArg Hart.x h.2 :) r

theorem pc_of_translates {s u : State} (h : OnlyTranslates s u) : u.hart.pc = s.hart.pc := (congrArg Hart.pc h.2 :)

/-- A write-back that follows accesses which store nothing. -/
theorem writeBack_of_translates {s u : State} (h : OnlyTranslates s u) (rd : Reg) (v : Word) :
    OnlyLooks s (u.setX rd v).retire ∧ Writes s (u.setX rd v).retire rd v ∧ OnlyRetires s.hart (u.setX rd v).retire.hart (s.hart.pc + 4) := by
  obtain ⟨ho, hw, hr⟩ := writesOnly_retireAt u rd v (s.hart.pc + 4)
  have e : (u.setX rd v).retire = (u.setX rd v).retireAt (s.hart.pc + 4) := by
    unfold State.retire; rw [setX_hart]; exact congrArg (fun p => (u.setX rd v).retireAt (p + 4)) (pc_of_translates h)
  rw [e]
  exact ⟨onlyLooks_trans h.1 (onlyLooks_of_onlyHart ho), fun r => by rw [hw r, getX_of_translates h], onlyRetires_of_lookups h.2 hr⟩

/-! ### Loads -/

theorem translates_of_reaches {s s' : State} {va : Word} {n : Nat} {k : Kind} {p : Place} (h : Reaches s va n k p s') : OnlyTranslates s s' :=
  resolve_spec h.1

/-- A scalar load that reaches a place reads there. -/
theorem hartLoadBy_of_reaches {s s' : State} {va : Word} {n : Nat} {p : Place} (h : Reaches s va n .load p s') :
    hartLoadBy true s va n = readPlace s' va p n .load := by
  obtain ⟨hr, hw, ht⟩ := h
  unfold hartLoadBy
  rw [hr]
  simp only [Bool.not_true, Bool.false_and, Bool.false_eq_true, if_false]
  unfold watched
  rw [show watchHit s' va.toNat n true false = none from hw, show transfersMet s' va.toNat n false = [] from ht]
  simp

theorem scalarLoad_of_read {s s' u : State} {rd rs1 : Reg} {imm : BitVec 12} {n : Nat} {ext : Nat → Word} {p : Place} {b : List Byte}
    (ha : (addrOf s rs1 imm).toNat % n = 0) (h : Reaches s (addrOf s rs1 imm) n .load p s')
    (hb : readPlace s' (addrOf s rs1 imm) p n .load = .ok b u) :
    scalarLoad rd rs1 imm n ext s = .next (u.setX rd (ext (leNat b))).retire := by
  unfold scalarLoad
  simp only [effAddr_eq, ha, ne_eq, not_true_eq_false, if_false, hartLoadBy_of_reaches h, hb]
  rfl

theorem onlyTranslates_softRead (s : State) (i off n : Nat) : OnlyTranslates s (s.softRead i off n) := onlyTranslates_sramUp _ _

/-- What an access of a core through its cache, or at the home, can do beside its bytes. -/
theorem near_frame (s : State) (cls : BitVec 2) (pa n : Nat) (da write : Bool) :
    OnlyTranslates s (if cls = 0 then s.cached s.hart.core pa n da write else s.atHome (some (dieOf s.hart.core)) pa n da write) := by
  split
  · exact cached_frame ..
  · exact atHome_frame ..

theorem mem_of_translates {s u : State} (h : OnlyTranslates s u) : u.mem = s.mem := (congrArg State.mem h.1.1 :)
theorem poison_of_translates {s u : State} (h : OnlyTranslates s u) : u.poison = s.poison := (congrArg State.poison h.1.1 :)
theorem banks_of_translates {s u : State} (h : OnlyTranslates s u) : u.banks = s.banks := (congrArg State.banks h.1.1 :)
theorem bank_of_translates {s u : State} (h : OnlyTranslates s u) (i : Nat) : u.bank i = s.bank i := by
  unfold State.bank; rw [banks_of_translates h]
theorem poisoned_of_translates {s u : State} (h : OnlyTranslates s u) (pa n : Nat) : poisoned u pa n = poisoned s pa n := by
  unfold poisoned; rw [poison_of_translates h]

theorem readPlace_phys {s : State} {va : Word} {pa n : Nat} {cls : BitVec 2} {da : Bool} (hc : cls ≠ 1) (hp : poisoned s pa n = false) :
    ∃ u, readPlace s va (.phys pa cls da) n .load = .ok (memRead s.mem pa n) u ∧ OnlyTranslates s u := by
  have hs := onlyTranslates_scrubbed s pa n
  have h := onlyTranslates_trans hs (near_frame (s.scrubbed pa n) cls pa n da false)
  refine ⟨_, ?_, h⟩
  rw [← mem_of_translates h]
  unfold readPlace
  simp only [hp, Bool.false_eq_true, if_false, hc]

theorem readPlace_bank {s : State} {va : Word} {i off n : Nat} (hn : off + n ≤ 24576) (hb : bankBad (s.bank i) off n = false) :
    readPlace s va (.bank i off) n .load = .ok (bankBytes (s.bank i) off n) ((s.softRead i off n).count 0x0E 1) := by
  unfold readPlace
  simp only [hb, Bool.false_eq_true, if_false, Nat.not_lt.2 hn]

theorem leNat_bankBytes (b : Bank) (off n : Nat) : leNat (bankBytes b off n) = b.data / 2 ^ (8 * off) % 2 ^ (8 * n) := by
  unfold bankBytes
  rw [leNat_leBytes, Nat.shiftRight_eq_div_pow]

theorem overlay_length (bs : List Byte) (pa : Nat) (w : LWrite) : (overlay bs pa w).length = bs.length := by
  unfold overlay
  rw [List.length_map, List.length_zipIdx]

theorem foldl_overlay_length (bs : List Byte) (pa : Nat) (ws : List LWrite) : (ws.foldl (fun b w => overlay b pa w) bs).length = bs.length := by
  induction ws generalizing bs with
  | nil => rfl
  | cons w ws ih => rw [List.foldl_cons, ih, overlay_length]

theorem lRead_length (s : State) (w : Who) (da : Bool) (pa n : Nat) : (s.lRead w da pa n).1.length = n := by
  unfold State.lRead
  dsimp only
  rw [foldl_overlay_length]
  split
  · split
    · exact leBytes_length ..
    · exact memRead_length ..
  · exact memRead_length ..

theorem take_length_le {α : Type} (l : List α) (n : Nat) : (l.take n).length ≤ n := by
  rw [List.length_take]; exact Nat.min_le_left ..

/-- A read of a peer's or the host's reply, taken by the hart, is no longer than asked. -/
theorem readReply_length {s u : State} {b : List Byte} {f : List Byte → List Byte} {n : Nat} {c : BitVec 8 → BitVec 8} {va : Word} {o : Need}
    (hf : ∀ d, (f d).length ≤ n)
    (h : (match s.takeReply with
      | some (r, s) => if r.status = 0 then .ok (f r.data) s else .trap (c r.status) va
      | none => .need o) = (.ok b u : Res (List Byte))) : b.length ≤ n := by
  split at h
  · split at h
    · exact (Res.ok.inj h).1 ▸ hf _
    · exact absurd h trap_ne_ok
  · exact absurd h need_ne_ok

/-- No read answers more bytes than it is asked for. -/
theorem readPlace_length {s u : State} {va : Word} {p : Place} {n : Nat} {b : List Byte} (h : readPlace s va p n .load = .ok b u) : b.length ≤ n := by
  cases p with
  | phys pa cls da =>
    simp only [readPlace] at h
    split at h
    · exact absurd h trap_ne_ok
    · split at h
      · rw [← (Res.ok.inj h).1, lRead_length]
      · rw [← (Res.ok.inj h).1, memRead_length]
  | bank i off =>
    simp only [readPlace] at h
    split at h
    · exact absurd h trap_ne_ok
    · split at h
      · exact absurd h trap_ne_ok
      · rw [← (Res.ok.inj h).1]; exact Nat.le_of_eq (leBytes_length ..)
  | page off =>
    simp only [readPlace] at h
    split at h
    · next hn =>
      rw [← (Res.ok.inj h).1]
      unfold pageRead
      dsimp only
      split
      · next e => rw [leBytes_length, e]
      · rw [leBytes_length]; omega
    · exact absurd h trap_ne_ok
  | peer dev pa cls =>
    simp only [readPlace] at h
    split at h
    · unfold readLeased at h
      dsimp only at h
      split at h
      · exact absurd h need_ne_ok
      · split at h
        · split at h
          · exact (Res.ok.inj h).1 ▸ take_length_le _ _
          · exact absurd h trap_ne_ok
        · split at h
          · exact (Res.ok.inj h).1 ▸ take_length_le _ _
          · exact absurd h need_ne_ok
    · exact readReply_length (fun d => take_length_le d n) h
  | host x => exact readReply_length (fun d => take_length_le d n) h

/-- A row of the loads: its instruction is the scalar load of its width, with its extension. -/
def LoadRow (p : (Reg → Reg → BitVec 12 → Instr) × Nat × (Nat → Word)) : Prop :=
  ∃ ext : Nat → Word, (∀ rd rs1 imm s, exec (p.1 rd rs1 imm) s = scalarLoad rd rs1 imm p.2.1 ext s) ∧ ∀ v, v < 2 ^ (8 * p.2.1) → ext v = p.2.2 v

theorem signedRow {c : Reg → Reg → BitVec 12 → Instr} {n w : Nat} (hw : 8 * n = w) (h0 : 0 < w)
    (he : ∀ rd rs1 imm s, exec (c rd rs1 imm) s = scalarLoad rd rs1 imm n (fun v => (BitVec.ofNat w v).signExtend 64) s) :
    LoadRow (c, n, fun v => BitVec.ofInt 64 (signed w v)) :=
  ⟨_, he, fun _ hv => signExtend_ofNat h0 (hw ▸ hv)⟩

theorem plainRow {c : Reg → Reg → BitVec 12 → Instr} {n : Nat} {f : Nat → Word}
    (he : ∀ rd rs1 imm s, exec (c rd rs1 imm) s = scalarLoad rd rs1 imm n f s) : LoadRow (c, n, f) :=
  ⟨f, he, fun _ _ => rfl⟩

theorem loadTable_rows : ∀ p ∈ loadTable, LoadRow p := by
  intro p hp
  simp only [loadTable, List.mem_cons, List.not_mem_nil, or_false] at hp
  rcases hp with rfl | rfl | rfl | rfl | rfl | rfl | rfl
  · exact signedRow rfl (by decide) (fun _ _ _ _ => rfl)
  · exact signedRow rfl (by decide) (fun _ _ _ _ => rfl)
  · exact signedRow rfl (by decide) (fun _ _ _ _ => rfl)
  · exact plainRow (fun _ _ _ _ => rfl)
  · exact plainRow (fun _ _ _ _ => rfl)
  · exact plainRow (fun _ _ _ _ => rfl)
  · exact plainRow (fun _ _ _ _ => rfl)

theorem LoadRow.completes {p : (Reg → Reg → BitVec 12 → Instr) × Nat × (Nat → Word)} (hp : LoadRow p) {rd rs1 : Reg} {imm : BitVec 12}
    {s s' u : State} {q : Place} {b : List Byte} (ha : (addrOf s rs1 imm).toNat % p.2.1 = 0)
    (h : Reaches s (addrOf s rs1 imm) p.2.1 .load q s') (hb : readPlace s' (addrOf s rs1 imm) q p.2.1 .load = .ok b u) :
    exec (p.1 rd rs1 imm) s = .next (u.setX rd (p.2.2 (leNat b))).retire := by
  obtain ⟨ext, he, hv⟩ := hp
  have hl : leNat b < 2 ^ (8 * p.2.1) :=
    Nat.lt_of_lt_of_le (leNat_lt b) (Nat.pow_le_pow_right Nat.two_pos (Nat.mul_le_mul_left 8 (readPlace_length hb)))
  rw [he, scalarLoad_of_read ha h hb, hv _ hl]

/-- Settles O4: a load completes with what its place answers. -/
theorem loadsComplete : Obligations.LoadsComplete := by
  unfold Obligations.LoadsComplete
  intro p hp rd rs1 imm s s' ha
  have row := loadTable_rows p hp
  refine ⟨fun pa cls da h hc hpo => ?_, fun i off h hn hb => ?_, fun q b u h hb => ?_⟩
  · have ht := translates_of_reaches h
    obtain ⟨u, hu, htu⟩ := readPlace_phys (va := addrOf s rs1 imm) (da := da) hc ((poisoned_of_translates ht pa p.2.1).trans hpo)
    refine ⟨_, row.completes ha h hu, ?_⟩
    rw [mem_of_translates ht]
    exact writeBack_of_translates (onlyTranslates_trans ht htu) rd _
  · have ht := translates_of_reaches h
    rw [← bank_of_translates ht i] at hb
    refine ⟨_, row.completes ha h (readPlace_bank hn hb), ?_⟩
    rw [leNat_bankBytes, bank_of_translates ht i]
    exact writeBack_of_translates (onlyTranslates_trans ht (onlyTranslates_trans (onlyTranslates_softRead ..) (onlyTranslates_count ..))) rd _
  · refine ⟨_, row.completes ha h hb, ?_⟩
    have hw := writesOnly_retireAt u rd (p.2.2 (leNat b)) (u.hart.pc + 4)
    unfold State.retire
    rw [setX_hart]
    exact hw

end Sys2Proof.AccessProofs
end

section
/-!
PROOFS. The scalar stores, where they reach local memory outside class L or a bank, and wherever they are answered (13 R342, R343; 08 R210).
-/
namespace Sys2Proof.AccessProofs
open Sys2Proof Sys2Proof.Machine Sys2Proof.Claims

/-! ### What a store puts into memory -/

theorem onlyBreaks_breakLinks (s : State) (lo hi : Nat) (mine : LinkEntry → Bool) : OnlyBreaks s (s.breakLinks lo hi mine) := by
  unfold OnlyBreaks State.breakLinks
  rw [List.map_map]
  refine List.map_congr_left (fun e _ => ?_)
  simp only [Function.comp]
  split <;> rfl

theorem onlyLooks_masked {s t u : State} (h : OnlyLooks s { t with mem := s.mem, poison := s.poison, linkTable := s.linkTable }) (k : OnlyHart t u) :
    OnlyLooks s { u with mem := s.mem, poison := s.poison, linkTable := s.linkTable } := by
  obtain ⟨e, hc⟩ := k
  refine onlyLooks_trans h (onlyLooks_of_onlyHart ⟨?_, hc⟩)
  exact congrArg (fun x : State => { x with mem := s.mem, poison := s.poison, linkTable := s.linkTable }) e

theorem onlyPuts_of_onlyHart {s t u : State} (h : OnlyPuts s t) (k : OnlyHart t u) : OnlyPuts s u := by
  obtain ⟨hl, hb, hp⟩ := h
  refine ⟨onlyLooks_masked hl k, ?_, ?_⟩
  · unfold OnlyBreaks
    rw [show u.linkTable = t.linkTable from (congrArg State.linkTable k.1 :)]
    exact hb
  · rw [show u.poison = t.poison from (congrArg State.poison k.1 :)]; exact hp

theorem stores_of_mem {s t u : State} {pa : Nat} {data : List Byte} (h : Stores s t pa data) (e : u.mem = t.mem) : Stores s u pa data := by
  unfold Stores; rw [e]; exact h

theorem stores_memWrite {s t : State} {pa : Nat} {data : List Byte} (hwf : Memory.wf s.mem = true) (h : t.mem = memWrite s.mem pa data) :
    Stores s t pa data := by
  intro a
  rw [h, memGet_memWrite _ _ _ hwf]
  by_cases h1 : pa ≤ a
  · rw [if_pos h1]
    by_cases h2 : a - pa < data.length
    · rw [dif_pos ⟨h1, h2⟩, List.getElem?_eq_getElem h2]; rfl
    · rw [dif_neg (fun c => h2 c.2), List.getElem?_eq_none (Nat.not_lt.1 h2)]; rfl
  · rw [if_neg h1, dif_neg (fun c => h1 c.1)]

/-- Memory after a write at a place that an access has reached: what was linked there by others is broken, then the bytes are stored. -/
noncomputable def stored (v : State) (pa n : Nat) (mine : LinkEntry → Bool) (data : List Byte) : State :=
  (v.breakLinks (pa / 128) ((pa + n - 1) / 128) mine).putMem pa data

theorem onlyPuts_stored {s v : State} (h : OnlyTranslates s v) (pa n : Nat) (mine : LinkEntry → Bool) (data : List Byte) :
    OnlyPuts s (stored v pa n mine data) := by
  obtain ⟨⟨e, hc, hd, hp⟩, hh⟩ := h
  have hl : v.linkTable = s.linkTable := (congrArg State.linkTable e :)
  have hq : v.poison = s.poison := (congrArg State.poison e :)
  have hm : { stored v pa n mine data with mem := s.mem, poison := s.poison, linkTable := s.linkTable } = v := by rw [e]; rfl
  refine ⟨by rw [hm]; exact ⟨e, hc, hd, hp⟩, ?_, fun g hg => ?_⟩
  · have := onlyBreaks_breakLinks v (pa / 128) ((pa + n - 1) / 128) mine
    unfold OnlyBreaks at this ⊢
    rw [← hl]
    exact this
  · rw [← hq]; exact (List.mem_filter.1 hg).1

theorem stores_stored {s v : State} (h : OnlyTranslates s v) (hwf : Memory.wf s.mem = true) (pa n : Nat) (mine : LinkEntry → Bool)
    (data : List Byte) : Stores s (stored v pa n mine data) pa data :=
  stores_memWrite hwf (by rw [← mem_of_translates h]; rfl)

theorem dtime_of_translates {s u : State} (h : OnlyTranslates s u) : u.pkg.dtime = s.pkg.dtime := (congrArg Pkg.dtime h.1.2.2.2 :)

/-- A write of local memory outside class L. -/
theorem writePlace_phys {s : State} {va : Word} {pa : Nat} {cls : BitVec 2} {da : Bool} {data : List Byte} (hc : cls ≠ 1) :
    ∃ v mine, OnlyTranslates s v ∧ writePlace s va (.phys pa cls da) data =
      .ok (some s.pkg.dtime.toNat) ((stored v pa data.length mine data).withHart (fun h => h.visible s.pkg.dtime.toNat)) := by
  obtain ⟨v, hv⟩ : ∃ v, v = if cls = 0 then s.cached s.hart.core pa data.length da true
    else s.atHome (some (dieOf s.hart.core)) pa data.length da true := ⟨_, rfl⟩
  refine ⟨v, v.hart.who.owns v.fab.devid, hv ▸ near_frame s cls pa data.length da true, ?_⟩
  simp only [writePlace, if_neg hc, ← hv]
  rfl

theorem writePlace_bank {s : State} {va : Word} {i off : Nat} {data : List Byte} (h : off + data.length ≤ 24576) :
    writePlace s va (.bank i off) data = .ok (some s.pkg.dtime.toNat)
      (((s.setBank i (bankWrite (s.bank i) off data)).withHart (fun h => h.visible s.pkg.dtime.toNat)).count 0x0E 1) := by
  simp only [writePlace, if_pos h]

/-! ### Bytes of a bank -/

theorem two_pow_eight (k : Nat) : 2 ^ (8 * k) = 256 ^ k := by rw [Nat.pow_mul]

theorem nsetField_bytes (v off n x : Nat) :
    nsetField v (8 * off) (8 * n) x = 256 ^ off * (256 ^ n * (v / 256 ^ (off + n)) + x % 256 ^ n) + v % 256 ^ off := by
  unfold nsetField
  rw [← Nat.mul_add, Nat.shiftLeft_eq, Nat.shiftLeft_eq, Nat.shiftRight_eq_div_pow, two_pow_eight, two_pow_eight, two_pow_eight, Nat.pow_add]
  ring

theorem byte_below {n o : Nat} (q r : Nat) (h : o < n) : (256 ^ n * q + r) / 256 ^ o % 256 = r / 256 ^ o % 256 := by
  obtain ⟨k, rfl⟩ := Nat.exists_eq_add_of_lt h
  have e : 256 ^ (o + k + 1) = 256 ^ o * (256 * 256 ^ k) := by rw [← Nat.pow_succ', ← Nat.pow_add]; rfl
  rw [e, Nat.mul_assoc, Nat.mul_add_div (Nat.pow_pos (by decide)), Nat.mul_assoc, Nat.mul_add_mod]

theorem byte_of_mod {n o : Nat} (v : Nat) (h : o < n) : v % 256 ^ n / 256 ^ o % 256 = v / 256 ^ o % 256 := by
  rw [← byte_below (v / 256 ^ n) (v % 256 ^ n) h, Nat.div_add_mod]

theorem byte_above {n o : Nat} (q r : Nat) (hr : r < 256 ^ n) (h : n ≤ o) : (256 ^ n * q + r) / 256 ^ o = q / 256 ^ (o - n) := by
  obtain ⟨k, rfl⟩ := Nat.exists_eq_add_of_le h
  rw [Nat.pow_add, Nat.add_sub_cancel_left, ← Nat.div_div_eq_div_mul, Nat.mul_add_div (Nat.pow_pos (by decide)), Nat.div_eq_of_lt hr, Nat.add_zero]

/-- A byte of a number below, in, or above a field that is set. -/
theorem nsetField_byte (v off n x o : Nat) :
    nsetField v (8 * off) (8 * n) x / 256 ^ o % 256 =
      if off ≤ o ∧ o < off + n then x / 256 ^ (o - off) % 256 else v / 256 ^ o % 256 := by
  have pos : ∀ k, 0 < 256 ^ k := fun k => Nat.pow_pos (by decide)
  rw [nsetField_bytes]
  by_cases h1 : off ≤ o
  · rw [byte_above _ _ (Nat.mod_lt _ (pos off)) h1]
    by_cases h2 : o < off + n
    · rw [if_pos ⟨h1, h2⟩, byte_below _ _ (Nat.sub_lt_left_of_lt_add h1 h2), byte_of_mod _ (Nat.sub_lt_left_of_lt_add h1 h2)]
    · rw [if_neg (fun c => h2 c.2), byte_above _ _ (Nat.mod_lt _ (pos n)) (Nat.le_sub_of_add_le' (Nat.not_lt.1 h2)), Nat.div_div_eq_div_mul, ← Nat.pow_add,
        Nat.sub_sub, Nat.add_sub_cancel' (Nat.not_lt.1 h2)]
  · rw [if_neg (fun c => h1 c.1), byte_below _ _ (Nat.not_le.1 h1), byte_of_mod _ (Nat.not_le.1 h1)]

/-! ### Stores of the hart -/

theorem hartStoreV_of_reaches {s s' : State} {va : Word} {data : List Byte} {p : Place} (h : Reaches s va data.length .store p s') :
    hartStoreV true s va data = writePlace s' va p data := by
  obtain ⟨hr, hw, ht⟩ := h
  unfold hartStoreV
  rw [hr]
  simp only [Bool.not_true, Bool.false_and, Bool.false_eq_true, if_false]
  unfold watched
  rw [show watchHit s' va.toNat data.length false true = none from hw, show transfersMet s' va.toNat data.length true = [] from ht]
  simp

theorem scalarStore_of_write {s s' u : State} {rs1 rs2 : Reg} {imm : BitVec 12} {n : Nat} {p : Place} {v : Option Nat}
    (ha : (addrOf s rs1 imm).toNat % n = 0) (h : Reaches s (addrOf s rs1 imm) n .store p s')
    (hb : writePlace s' (addrOf s rs1 imm) p (leBytes n (s.getX rs2).toNat) = .ok v u) : scalarStore rs1 rs2 imm n s = .next u.retire := by
  have h' : Reaches s (addrOf s rs1 imm) (leBytes n (s.getX rs2).toNat).length .store p s' := by rw [leBytes_length]; exact h
  unfold scalarStore
  simp only [effAddr_eq, ha, ne_eq, not_true_eq_false, if_false, hartStoreV_of_reaches h', hb]
  rfl

theorem storeTable_rows : ∀ p ∈ storeTable, ∀ rs1 rs2 imm s, exec (p.1 rs1 rs2 imm) s = scalarStore rs1 rs2 imm p.2 s := by
  intro p hp rs1 rs2 imm s
  simp only [storeTable, List.mem_cons, List.not_mem_nil, or_false] at hp
  rcases hp with rfl | rfl | rfl | rfl
  · rfl
  · rfl
  · rfl
  · rfl

/-- A store that retires after its write took a time. -/
theorem storeRetires_of_visible {s u t : State} {v : Nat} (h : u.hart = { s.hart with lookups := u.hart.lookups })
    (ht : t.hart = u.hart.visible v) : StoreRetires s.hart t.retire.hart v := by
  unfold StoreRetires State.retire
  rw [retireAt_hart, ht, h]
  rfl

theorem retire_onlyHart (s : State) : OnlyHart s s.retire := onlyHart_retireAt s _

theorem bank_setBank (s : State) (i j : Nat) (b : Bank) : (s.setBank i b).bank j = if j = i then b else s.bank j := by
  unfold State.bank State.setBank
  rw [tgetD_tset]

theorem mem_of_onlyHart {s t : State} (h : OnlyHart s t) : t.mem = s.mem := (congrArg State.mem h.1 :)

theorem bank_of_onlyHart {s t : State} (h : OnlyHart s t) (i : Nat) : t.bank i = s.bank i := by
  unfold State.bank; rw [show t.banks = s.banks from (congrArg State.banks h.1 :)]

/-- What a store to a bank changes beside the bank. -/
theorem onlyLooks_bankStore {s v t : State} (h : OnlyTranslates s v) (i : Nat) (b : Bank) (k : OnlyHart (v.setBank i b) t) :
    OnlyLooks s { t with banks := s.banks } := by
  have e : { v.setBank i b with banks := s.banks } = v := by rw [← banks_of_translates h]; rfl
  obtain ⟨k1, k2⟩ := k
  refine onlyLooks_trans h.1 (onlyLooks_of_onlyHart ⟨?_, k2⟩)
  exact (congrArg (fun x : State => { x with banks := s.banks }) k1).trans
    (congrArg (fun x : State => { x with hart := t.hart, cores := t.cores }) e)

/-- Settles O5: a store completes with the write of its place. -/
theorem storesComplete : Obligations.StoresComplete := by
  unfold Obligations.StoresComplete
  intro p hp rs1 rs2 imm s s' ha
  rw [storeTable_rows p hp]
  have hlen : (leBytes p.2 (s.getX rs2).toNat).length = p.2 := leBytes_length ..
  refine ⟨fun pa cls da h hc hwf => ?_, fun i off h hn => ?_, fun q v u h hb => ?_⟩
  · have ht := translates_of_reaches h
    obtain ⟨v, mine, hv, hw⟩ := writePlace_phys (s := s') (va := addrOf s rs1 imm) (pa := pa) (da := da)
      (data := leBytes p.2 (s.getX rs2).toNat) hc
    have hsv := onlyTranslates_trans ht hv
    refine ⟨_, scalarStore_of_write ha h hw, ?_, ?_, ?_⟩
    · exact onlyPuts_of_onlyHart (onlyPuts_of_onlyHart (onlyPuts_stored hsv ..) (onlyHart_withHart ..)) (retire_onlyHart _)
    · exact stores_of_mem (stores_stored hsv hwf _ _ _ _) (mem_of_onlyHart (onlyHart_trans (onlyHart_withHart ..) (retire_onlyHart _)))
    · rw [← dtime_of_translates ht]
      exact storeRetires_of_visible hsv.2 rfl
  · have ht := translates_of_reaches h
    obtain ⟨b, hb⟩ : ∃ b, b = bankWrite (s'.bank i) off (leBytes p.2 (s.getX rs2).toNat) := ⟨_, rfl⟩
    have hw := writePlace_bank (s := s') (va := addrOf s rs1 imm) (i := i) (by rw [hlen]; exact hn)
    rw [← hb] at hw
    have hk := onlyHart_trans (onlyHart_trans (onlyHart_withHart (s'.setBank i b) (fun h => h.visible s'.pkg.dtime.toNat)) (onlyHart_count _ 0x0E 1))
      (retire_onlyHart _)
    refine ⟨_, scalarStore_of_write ha h hw, onlyLooks_bankStore ht i b hk, ?_, fun j hj => ?_, fun o => ?_⟩
    · rw [← dtime_of_translates ht]
      exact storeRetires_of_visible ht.2 (State.count_hart ..)
    · rw [bank_of_onlyHart hk, bank_setBank, if_neg hj, bank_of_translates ht]
    · rw [bank_of_onlyHart hk, bank_setBank, if_pos rfl, hb, bank_of_translates ht]
      have hd : (bankWrite (s.bank i) off (leBytes p.2 (s.getX rs2).toNat)).data =
          nsetField (s.bank i).data (8 * off) (8 * p.2) ((s.getX rs2).toNat % 2 ^ (8 * p.2)) := by
        unfold bankWrite; rw [hlen, leNat_leBytes]
      rw [hd, nsetField_byte]
      by_cases ho : off ≤ o ∧ o < off + p.2
      · rw [if_pos ho, if_pos ho, two_pow_eight, byte_of_mod _ (Nat.sub_lt_left_of_lt_add ho.1 ho.2)]
      · rw [if_neg ho, if_neg ho]
  · refine ⟨_, scalarStore_of_write ha h hb, ?_⟩
    exact goesOn_retireAt u _

end Sys2Proof.AccessProofs
end

section
/-!
PROOFS. The scalar arithmetic: the results of 13 Table 13.1 as numbers, for words of every width, and the rows of its tables.
-/
namespace Sys2Proof.ScalarProofs
open Sys2Proof Sys2Proof.Machine Sys2Proof.Claims

/-! ### Results as numbers -/

section
variable {n : Nat} (a b : BitVec n)

theorem add_eq_ofInt : a + b = BitVec.ofInt n (a.toInt + b.toInt) := by rw [BitVec.ofInt_add, BitVec.ofInt_toInt, BitVec.ofInt_toInt]
theorem sub_eq_ofInt : a - b = BitVec.ofInt n (a.toInt - b.toInt) := by
  rw [Int.sub_eq_add_neg, BitVec.ofInt_add, BitVec.ofInt_neg, BitVec.ofInt_toInt, BitVec.ofInt_toInt, BitVec.sub_eq_add_neg]
theorem mul_eq_ofInt : a * b = BitVec.ofInt n (a.toInt * b.toInt) := by rw [BitVec.ofInt_mul, BitVec.ofInt_toInt, BitVec.ofInt_toInt]
theorem shiftLeft_eq_ofNat (k : Nat) : a <<< k = BitVec.ofNat n (a.toNat * 2 ^ k) := by
  apply BitVec.eq_of_toNat_eq
  rw [BitVec.toNat_shiftLeft, BitVec.toNat_ofNat, Nat.shiftLeft_eq]
theorem shiftRight_eq_ofNat (k : Nat) : a >>> k = BitVec.ofNat n (a.toNat / 2 ^ k) := by
  apply BitVec.eq_of_toNat_eq
  rw [BitVec.toNat_ushiftRight, BitVec.toNat_ofNat, Nat.shiftRight_eq_div_pow, Nat.mod_eq_of_lt (Nat.lt_of_le_of_lt (Nat.div_le_self ..) a.isLt)]
theorem sshiftRight_eq_ofInt (k : Nat) : a.sshiftRight k = BitVec.ofInt n (a.toInt / (2 ^ k : Nat)) := by
  rw [BitVec.sshiftRight, Int.shiftRight_eq_div_pow]
theorem sdiv_eq_ofInt : a.sdiv b = BitVec.ofInt n (a.toInt.tdiv b.toInt) := by
  apply BitVec.eq_of_toInt_eq
  rw [BitVec.toInt_sdiv, BitVec.toInt_ofInt]
theorem srem_eq_ofInt : a.srem b = BitVec.ofInt n (a.toInt.tmod b.toInt) := by rw [← BitVec.toInt_srem, BitVec.ofInt_toInt]
theorem udiv_eq_ofNat : a.udiv b = BitVec.ofNat n (a.toNat / b.toNat) := by
  rw [← BitVec.toNat_udiv, BitVec.ofNat_toNat, BitVec.setWidth_eq]; rfl
theorem umod_eq_ofNat : a.umod b = BitVec.ofNat n (a.toNat % b.toNat) := by
  rw [← BitVec.toNat_umod, BitVec.ofNat_toNat, BitVec.setWidth_eq]; rfl

end

theorem toNat_lowW (a : Word) : (lowW a).toNat = low32u a := BitVec.toNat_setWidth ..

theorem allOnes_eq_ofInt {n : Nat} : BitVec.allOnes n = BitVec.ofInt n (-1) := by
  rw [BitVec.ofInt_neg]; exact BitVec.neg_one_eq_allOnes.symm

theorem sextW_ofNat (v : Nat) : sextW (BitVec.ofNat 32 v) = word32 v := by unfold word32; rw [BitVec.ofInt_natCast]; rfl

theorem flag_decide (p : Prop) [Decidable p] : flag (decide p) = oneIf p := by
  unfold flag oneIf
  simp only [decide_eq_true_eq]

theorem divS_eq {n : Nat} (a b : BitVec n) : divS a b = if b = 0 then BitVec.ofInt n (-1) else BitVec.ofInt n (a.toInt.tdiv b.toInt) := by
  rw [divS, allOnes_eq_ofInt, sdiv_eq_ofInt]
theorem divU_eq {n : Nat} (a b : BitVec n) : divU a b = if b = 0 then BitVec.ofInt n (-1) else BitVec.ofNat n (a.toNat / b.toNat) := by
  rw [divU, allOnes_eq_ofInt, udiv_eq_ofNat]
theorem remS_eq {n : Nat} (a b : BitVec n) : remS a b = if b = 0 then a else BitVec.ofInt n (a.toInt.tmod b.toInt) := by
  rw [remS, srem_eq_ofInt]
theorem remU_eq {n : Nat} (a b : BitVec n) : remU a b = if b = 0 then a else BitVec.ofNat n (a.toNat % b.toNat) := by
  rw [remU, umod_eq_ofNat]

theorem low32_zero {b : Word} : lowW b = 0 ↔ low32 b = 0 := by
  rw [← BitVec.toInt_inj]; rfl
theorem low32u_zero {b : Word} : lowW b = 0 ↔ low32u b = 0 := by
  rw [← toNat_lowW, ← BitVec.toNat_inj]; rfl
theorem word32_low32 (a : Word) : sextW (lowW a) = word32 (low32 a) := by unfold word32 low32; rw [BitVec.ofInt_toInt]; rfl
theorem word32_low32u (a : Word) : sextW (lowW a) = word32 (low32u a) := by
  rw [← sextW_ofNat, ← toNat_lowW, BitVec.ofNat_toNat, BitVec.setWidth_eq]

theorem word_shiftLeft (a : Word) (k : Nat) : sextW (lowW a <<< k) = word32 (low32u a * 2 ^ k : Nat) := by
  rw [shiftLeft_eq_ofNat, sextW_ofNat, toNat_lowW]
theorem word_shiftRight (a : Word) (k : Nat) : sextW (lowW a >>> k) = word32 (low32u a / 2 ^ k : Nat) := by
  rw [shiftRight_eq_ofNat, sextW_ofNat, toNat_lowW]
theorem sllw_eq (a b : Word) : sextW (lowW a <<< (b.toNat % 32)) = word32 (low32u a * 2 ^ (b.toNat % 32) : Nat) := word_shiftLeft ..
theorem srlw_eq (a b : Word) : sextW (lowW a >>> (b.toNat % 32)) = word32 (low32u a / 2 ^ (b.toNat % 32) : Nat) := word_shiftRight ..
theorem divw_eq (a b : Word) :
    sextW (divS (lowW a) (lowW b)) = if low32 b = 0 then word32 (-1) else word32 ((low32 a).tdiv (low32 b)) := by
  rw [divS_eq, apply_ite sextW]
  exact if_congr low32_zero rfl rfl
theorem divuw_eq (a b : Word) :
    sextW (divU (lowW a) (lowW b)) = if low32u b = 0 then word32 (-1) else word32 (low32u a / low32u b : Nat) := by
  rw [divU_eq, apply_ite sextW, sextW_ofNat, toNat_lowW, toNat_lowW]
  exact if_congr low32u_zero rfl rfl
theorem remw_eq (a b : Word) :
    sextW (remS (lowW a) (lowW b)) = if low32 b = 0 then word32 (low32 a) else word32 ((low32 a).tmod (low32 b)) := by
  rw [remS_eq, apply_ite sextW, word32_low32]
  exact if_congr low32_zero rfl rfl
theorem remuw_eq (a b : Word) :
    sextW (remU (lowW a) (lowW b)) = if low32u b = 0 then word32 (low32u a) else word32 (low32u a % low32u b : Nat) := by
  rw [remU_eq, apply_ite sextW, sextW_ofNat, toNat_lowW, toNat_lowW, word32_low32u]
  exact if_congr low32u_zero rfl rfl
theorem toInt_sext12 (i : BitVec 12) : (sext12 i).toInt = i.toInt := BitVec.toInt_signExtend_of_le (by decide)
theorem addiw_eq (a : Word) (i : BitVec 12) : sextW (lowW (a + sext12 i)) = word32 (low32 a + i.toInt) := by
  have h : lowW (sext12 i) = i.signExtend 32 := by
    apply BitVec.eq_of_getLsbD_eq
    intro j hj
    simp only [lowW, sext12, BitVec.getLsbD_setWidth, BitVec.getLsbD_signExtend, hj, Nat.lt_trans hj (by decide : 32 < 64), decide_true, Bool.true_and]
  have e : lowW (a + sext12 i) = lowW a + lowW (sext12 i) := BitVec.setWidth_add _ _ (by decide)
  rw [e, add_eq_ofInt, h, BitVec.toInt_signExtend_of_le (by decide)]
  rfl
/-- An upper immediate as a number. -/
theorem upper_eq (imm : BitVec 20) : (imm ++ 0#12).signExtend 64 = BitVec.ofInt 64 (imm.toInt * 4096) := by
  rw [BitVec.signExtend, BitVec.toInt_append_zero, Int.mul_comm]
  rfl

/-! ### Rows of the tables -/

theorem opRow {c : Reg → Reg → Reg → Instr} {f g : Word → Word → Word} (h : ∀ a b, f a b = g a b)
    (he : ∀ rd rs1 rs2 s, exec (c rd rs1 rs2) s = s.putX rd (f (s.getX rs1) (s.getX rs2))) (rd rs1 rs2 : Reg) (s : State) :
    ∃ t, exec (c rd rs1 rs2) s = .next t ∧ WritesOnly s t rd (g (s.getX rs1) (s.getX rs2)) (s.hart.pc + 4) := by
  rw [he, h]
  exact putX_spec ..

theorem immRow {α β : Type} {r : α → β} {c : Reg → Reg → α → Instr} {f : Word → α → Word} {g : Word → β → Word} (h : ∀ a i, f a i = g a (r i))
    (he : ∀ rd rs1 i s, exec (c rd rs1 i) s = s.putX rd (f (s.getX rs1) i)) (rd rs1 : Reg) (i : α) (s : State) :
    ∃ t, exec (c rd rs1 i) s = .next t ∧ WritesOnly s t rd (g (s.getX rs1) (r i)) (s.hart.pc + 4) := by
  rw [he, h]
  exact putX_spec ..

/-- A table whose first row and whose others have a property. -/
theorem forall_mem_cons {α : Type} {P : α → Prop} {x : α} {l : List α} (h : P x) (k : ∀ y ∈ l, P y) : ∀ y ∈ x :: l, P y :=
  List.forall_mem_cons.2 ⟨h, k⟩

theorem registerArithmetic : RegisterArithmeticCompletes := by
  unfold RegisterArithmeticCompletes opTable
  refine forall_mem_cons (opRow add_eq_ofInt fun _ _ _ _ => rfl) ?_
  refine forall_mem_cons (opRow sub_eq_ofInt fun _ _ _ _ => rfl) ?_
  refine forall_mem_cons (opRow (fun a b => shiftLeft_eq_ofNat a (b.toNat % 64)) fun _ _ _ _ => rfl) ?_
  refine forall_mem_cons (opRow (fun a b => flag_decide (a.toInt < b.toInt)) fun _ _ _ _ => rfl) ?_
  refine forall_mem_cons (opRow (fun a b => flag_decide (a.toNat < b.toNat)) fun _ _ _ _ => rfl) ?_
  refine forall_mem_cons (opRow (fun a b => (rfl : a ^^^ b = _)) fun _ _ _ _ => rfl) ?_
  refine forall_mem_cons (opRow (fun a b => shiftRight_eq_ofNat a (b.toNat % 64)) fun _ _ _ _ => rfl) ?_
  refine forall_mem_cons (opRow (fun a b => sshiftRight_eq_ofInt a (b.toNat % 64)) fun _ _ _ _ => rfl) ?_
  refine forall_mem_cons (opRow (fun a b => (rfl : a ||| b = _)) fun _ _ _ _ => rfl) ?_
  refine forall_mem_cons (opRow (fun a b => (rfl : a &&& b = _)) fun _ _ _ _ => rfl) ?_
  refine forall_mem_cons (opRow mul_eq_ofInt fun _ _ _ _ => rfl) ?_
  refine forall_mem_cons (opRow (fun a b => (rfl : highProduct a.toInt b.toInt = _)) fun _ _ _ _ => rfl) ?_
  refine forall_mem_cons (opRow (fun a b => (rfl : highProduct a.toInt b.toNat = _)) fun _ _ _ _ => rfl) ?_
  refine forall_mem_cons (opRow (f := fun a b => highProduct a.toNat b.toNat) (fun a b => BitVec.ofInt_natCast ..) fun _ _ _ _ => rfl) ?_
  refine forall_mem_cons (opRow divS_eq fun _ _ _ _ => rfl) ?_
  refine forall_mem_cons (opRow divU_eq fun _ _ _ _ => rfl) ?_
  refine forall_mem_cons (opRow remS_eq fun _ _ _ _ => rfl) ?_
  refine forall_mem_cons (opRow remU_eq fun _ _ _ _ => rfl) ?_
  exact List.forall_mem_nil _

theorem wordArithmetic : WordArithmeticCompletes := by
  unfold WordArithmeticCompletes opTable32
  refine forall_mem_cons (opRow (fun a b => congrArg sextW (add_eq_ofInt (lowW a) (lowW b))) fun _ _ _ _ => rfl) ?_
  refine forall_mem_cons (opRow (fun a b => congrArg sextW (sub_eq_ofInt (lowW a) (lowW b))) fun _ _ _ _ => rfl) ?_
  refine forall_mem_cons (opRow sllw_eq fun _ _ _ _ => rfl) ?_
  refine forall_mem_cons (opRow srlw_eq fun _ _ _ _ => rfl) ?_
  refine forall_mem_cons (opRow (fun a b => congrArg sextW (sshiftRight_eq_ofInt (lowW a) (b.toNat % 32))) fun _ _ _ _ => rfl) ?_
  refine forall_mem_cons (opRow (fun a b => congrArg sextW (mul_eq_ofInt (lowW a) (lowW b))) fun _ _ _ _ => rfl) ?_
  refine forall_mem_cons (opRow divw_eq fun _ _ _ _ => rfl) ?_
  refine forall_mem_cons (opRow divuw_eq fun _ _ _ _ => rfl) ?_
  refine forall_mem_cons (opRow remw_eq fun _ _ _ _ => rfl) ?_
  refine forall_mem_cons (opRow remuw_eq fun _ _ _ _ => rfl) ?_
  exact List.forall_mem_nil _

theorem immediateArithmetic : ImmediateArithmeticCompletes := by
  refine ⟨?_, ?_, ?_, fun rd imm s => ?_, fun rd imm s => ?_⟩
  · unfold opImmTable
    refine forall_mem_cons (immRow (f := fun a i => a + sext12 i) (fun a i => (add_eq_ofInt a (sext12 i)).trans (by rw [toInt_sext12])) fun _ _ _ _ => rfl) ?_
    refine forall_mem_cons (immRow (f := fun a i => flag (a.slt (sext12 i)))
      (fun a i => (flag_decide (a.toInt < (sext12 i).toInt)).trans (by rw [toInt_sext12])) fun _ _ _ _ => rfl) ?_
    refine forall_mem_cons (immRow (f := fun a i => flag (a.ult (sext12 i))) (fun a i => flag_decide (a.toNat < (sext12 i).toNat)) fun _ _ _ _ => rfl) ?_
    refine forall_mem_cons (immRow (f := fun a i => a ^^^ sext12 i) (fun a i => rfl) fun _ _ _ _ => rfl) ?_
    refine forall_mem_cons (immRow (f := fun a i => a ||| sext12 i) (fun a i => rfl) fun _ _ _ _ => rfl) ?_
    refine forall_mem_cons (immRow (f := fun a i => a &&& sext12 i) (fun a i => rfl) fun _ _ _ _ => rfl) ?_
    refine forall_mem_cons (immRow (f := fun a i => sextW (lowW (a + sext12 i))) addiw_eq fun _ _ _ _ => rfl) ?_
    exact List.forall_mem_nil _
  · unfold shiftTable
    refine forall_mem_cons (immRow (f := fun (a : Word) (i : BitVec 6) => a <<< i.toNat) (fun a i => shiftLeft_eq_ofNat a i.toNat) fun _ _ _ _ => rfl) ?_
    refine forall_mem_cons (immRow (f := fun (a : Word) (i : BitVec 6) => a >>> i.toNat) (fun a i => shiftRight_eq_ofNat a i.toNat) fun _ _ _ _ => rfl) ?_
    refine forall_mem_cons (immRow (f := fun (a : Word) (i : BitVec 6) => a.sshiftRight i.toNat) (fun a i => sshiftRight_eq_ofInt a i.toNat) fun _ _ _ _ => rfl) ?_
    exact List.forall_mem_nil _
  · unfold shiftTable32
    refine forall_mem_cons (immRow (f := fun (a : Word) (i : BitVec 5) => sextW (lowW a <<< i.toNat)) (fun a i => word_shiftLeft a i.toNat) fun _ _ _ _ => rfl) ?_
    refine forall_mem_cons (immRow (f := fun (a : Word) (i : BitVec 5) => sextW (lowW a >>> i.toNat)) (fun a i => word_shiftRight a i.toNat) fun _ _ _ _ => rfl) ?_
    refine forall_mem_cons (immRow (f := fun (a : Word) (i : BitVec 5) => sextW ((lowW a).sshiftRight i.toNat))
      (fun a i => congrArg sextW (sshiftRight_eq_ofInt (lowW a) i.toNat)) fun _ _ _ _ => rfl) ?_
    exact List.forall_mem_nil _
  · rw [← upper_eq]; exact putX_spec ..
  · rw [BitVec.ofInt_add, BitVec.ofInt_toInt, ← upper_eq]; exact putX_spec ..

/-- Settles O1: row by row, each result as the number of 13 Table 13.1. -/
theorem scalarArithmeticCompletes : Obligations.ScalarArithmeticCompletes := ⟨registerArithmetic, wordArithmetic, immediateArithmetic⟩

end Sys2Proof.ScalarProofs
end

section
/-!
PROOFS. Branches and jumps, words that decode, and the invariants right after reset.
-/
namespace Sys2Proof.ScalarProofs
open Sys2Proof Sys2Proof.Machine Sys2Proof.Claims

/-! ### Jumps -/

theorem jump_aligned {s : State} {target : Word} (h : target.getLsbD 1 = false) (rd : Reg) :
    ∃ t, (s.jump target rd).finish s = .next t ∧ WritesOnly (s.trace 0 target) t rd (s.hart.pc + 4) target := by
  refine ⟨_, ?_, writesOnly_retireAt ..⟩
  unfold State.jump
  rw [h]
  rfl

theorem jump_misaligned {s : State} {target : Word} (h : target.getLsbD 1 = true) (rd : Reg) :
    (s.jump target rd).finish s = .next (s.takeTrap 0x01 target none) := by
  unfold State.jump
  rw [h]
  rfl

/-- What is written to x0 does not matter. -/
theorem goesOn_of_writesOnly {s t : State} {v pc : Word} (h : WritesOnly s t 0 v pc) : GoesOn s t pc := by
  obtain ⟨ho, hw, hr⟩ := h
  refine ⟨ho, fun r => ?_, hr⟩
  rw [hw r, if_neg (fun c => c.2 c.1), if_neg (fun c => c.2 c.1)]

theorem pcPlus_branch (s : State) (imm : BitVec 12) : s.hart.pc + (imm ++ 0#1).signExtend 64 = pcPlus s (2 * imm.toInt) := by
  rw [add_eq_ofInt, BitVec.toInt_signExtend_of_le (by decide), BitVec.toInt_append_zero]
  rfl

theorem pcPlus_jump (s : State) (imm : BitVec 20) : s.hart.pc + (imm ++ 0#1).signExtend 64 = pcPlus s (2 * imm.toInt) := by
  rw [add_eq_ofInt, BitVec.toInt_signExtend_of_le (by decide), BitVec.toInt_append_zero]
  rfl

/-! ### Branches -/

/-- What a branch does when its condition is `taken`. -/
def Branches (i : Instr) (s : State) (target : Word) (taken : Bool) : Prop :=
  (taken = false → ∃ t, exec i s = .next t ∧ GoesOn s t (s.hart.pc + 4))
    ∧ (taken = true → target.getLsbD 1 = false → ∃ t, exec i s = .next t ∧ GoesOn (s.trace 0 target) t target)
    ∧ (taken = true → target.getLsbD 1 = true → exec i s = .next (s.takeTrap 0x01 target none))

theorem branches_of_branch {i : Instr} {s : State} {imm : BitVec 12} {c d : Bool} (he : exec i s = (s.branch c imm).finish s) (h : c = d) :
    Branches i s (pcPlus s (2 * imm.toInt)) d := by
  subst h
  have hb : (s.branch c imm).finish s = if c then (s.jump (pcPlus s (2 * imm.toInt)) 0).finish s else .next s.retire := by
    unfold State.branch
    rw [pcPlus_branch]
    cases c <;> rfl
  rw [hb] at he
  refine ⟨fun h => ⟨_, ?_, goesOn_retireAt s _⟩, fun h ha => ?_, fun h hm => ?_⟩
  · rw [he, h]; rfl
  · obtain ⟨t, ht, hw⟩ := jump_aligned (s := s) ha 0
    exact ⟨t, by rw [he, h, if_pos rfl, ht], goesOn_of_writesOnly hw⟩
  · rw [he, h, if_pos rfl, jump_misaligned hm]

theorem branchRow {c : Reg → Reg → BitVec 12 → Instr} {f g : Word → Word → Bool} (h : ∀ a b, f a b = g a b)
    (he : ∀ rs1 rs2 imm s, exec (c rs1 rs2 imm) s = (s.branch (f (s.getX rs1) (s.getX rs2)) imm).finish s) (rs1 rs2 : Reg) (imm : BitVec 12)
    (s : State) : Branches (c rs1 rs2 imm) s (pcPlus s (2 * imm.toInt)) (g (s.getX rs1) (s.getX rs2)) :=
  branches_of_branch (he rs1 rs2 imm s) (h _ _)

theorem branches : BranchesComplete := by
  unfold BranchesComplete branchTable
  refine forall_mem_cons (branchRow (fun a b => (rfl : decide (a = b) = _)) fun _ _ _ _ => rfl) ?_
  refine forall_mem_cons (branchRow (fun a b => (rfl : decide (a ≠ b) = _)) fun _ _ _ _ => rfl) ?_
  refine forall_mem_cons (branchRow (fun a b => (rfl : a.slt b = _)) fun _ _ _ _ => rfl) ?_
  refine forall_mem_cons (branchRow (f := fun a b => decide (¬ a.slt b)) (fun a b => ?_) fun _ _ _ _ => rfl) ?_
  · exact decide_eq_decide.2 (by rw [BitVec.slt, decide_eq_true_eq, Int.not_lt])
  refine forall_mem_cons (branchRow (fun a b => (rfl : a.ult b = _)) fun _ _ _ _ => rfl) ?_
  refine forall_mem_cons (branchRow (f := fun a b => decide (¬ a.ult b)) (fun a b => ?_) fun _ _ _ _ => rfl) ?_
  · exact decide_eq_decide.2 (by rw [BitVec.ult, decide_eq_true_eq, Nat.not_lt])
  exact List.forall_mem_nil _

theorem jumps_of_jump {i : Instr} {s : State} {target : Word} {rd : Reg} (he : exec i s = (s.jump target rd).finish s) :
    (target.getLsbD 1 = false → ∃ t, exec i s = .next t ∧ WritesOnly (s.trace 0 target) t rd (s.hart.pc + 4) target)
      ∧ (target.getLsbD 1 = true → exec i s = .next (s.takeTrap 0x01 target none)) := by
  rw [he]
  exact ⟨fun h => jump_aligned h rd, fun h => jump_misaligned h rd⟩

/-- Settles O2: a branch is a jump, or goes on. -/
theorem branchesAndJumpsComplete : Obligations.BranchesAndJumpsComplete := by
  refine ⟨branches, fun rd rs1 imm20 imm12 s => ?_⟩
  refine forall_mem_cons (jumps_of_jump ?_) (forall_mem_cons (jumps_of_jump ?_) (List.forall_mem_nil _))
  · rw [← pcPlus_jump]; rfl
  · rw [← toInt_sext12, ← add_eq_ofInt]; rfl

/-! ### Decoded words, and reset -/

/-- Settles O55. -/
theorem decodeWords : Obligations.DecodeWords := by
  unfold Obligations.DecodeWords
  decide

/-- Settles O57. -/
theorem resetInvariant : Obligations.ResetInvariant := ⟨rfl, .nil, .nil⟩

end Sys2Proof.ScalarProofs
end

section
/-!
PROOFS. Traps, returns and the SYSTEM group (10 R252 to R256, R267, R271; 13 R346).
-/
namespace Sys2Proof.ScalarProofs
open Sys2Proof Sys2Proof.Machine Sys2Proof.Claims

/-! ### Counting -/

/-- Events are counted, by cores and dies, and nothing else happens. -/
def Counts (s t : State) : Prop :=
  t = { s with cores := t.cores, dies := t.dies } ∧ OnlyCounts s t ∧ ∀ d, t.die d = { s.die d with uncore := (t.die d).uncore }

theorem counts_refl (s : State) : Counts s s := ⟨rfl, onlyCounts_refl s, fun _ => rfl⟩

theorem counts_trans {s t u : State} (h : Counts s t) (k : Counts t u) : Counts s u := by
  obtain ⟨h1, h2, h3⟩ := h
  obtain ⟨k1, k2, k3⟩ := k
  exact ⟨k1.trans (congrArg (fun v : State => { v with cores := u.cores, dies := u.dies }) h1), onlyCounts_trans h2 k2,
    fun d => (k3 d).trans (congrArg (fun v : Die => { v with uncore := (u.die d).uncore }) (h3 d))⟩

theorem counts_count (s : State) (ev n : Nat) : Counts s (s.count ev n) :=
  ⟨(count_eq s ev n).trans (congrArg (fun d => { s with cores := (s.count ev n).cores, dies := d }) (State.count_dies s ev n).symm),
    onlyCounts_count s ev n, fun d => by rw [die_of_dies (State.count_dies s ev n)]⟩

theorem counts_uncount (s : State) (d : BitVec 2) (ev n : Nat) : Counts s (s.uncount d ev n) :=
  ⟨(uncount_eq s d ev n).trans (congrArg (fun c => { s with cores := c, dies := (s.uncount d ev n).dies }) (State.uncount_cores s d ev n).symm),
    onlyCounts_of_cores (State.uncount_cores s d ev n), uncount_die s d ev n⟩

theorem counts_countWalk (s : State) (cause : BitVec 8) (tval : Word) : Counts s (s.countWalk cause tval) := by
  unfold State.countWalk
  dsimp only
  split
  · exact counts_refl s
  · split
    · exact counts_count s 0x0B 1
    · exact counts_trans (counts_count s 0x0B 1) (counts_uncount _ _ 7 1)

/-! ### Taking a trap -/

/-- The machine after a trap has counted its error and its walk. -/
noncomputable def trapCounted (s : State) (cause : BitVec 8) (tval : Word) : State := (if cause = 0x15 then s.countUe else s).countWalk cause tval

theorem trapCounted_eq (s : State) (cause : BitVec 8) (tval : Word) :
    Counts { s with pkg := { s.pkg with ue := if cause = 0x15 then satUp s.pkg.ue else s.pkg.ue } } (trapCounted s cause tval) := by
  unfold trapCounted
  split
  · exact counts_countWalk s.countUe cause tval
  · exact counts_countWalk s cause tval

theorem takeTrap_of_canTrap {s : State} (h : CanTrap s) (cause : BitVec 8) (tval : Word) (cv : Option TrapCv) :
    s.takeTrap cause tval cv
      = { ((trapCounted s cause tval).count 0x13 1).trace 1 (cause.setWidth 64) with hart := s.hart.trapEntry cause tval cv } := by
  have hh : (trapCounted s cause tval).hart = s.hart := (congrArg State.hart (trapCounted_eq s cause tval).1 :)
  have ht : ¬ ((trapCounted s cause tval).hart.tact = true ∨ (trapCounted s cause tval).hart.stvec = 0) := by
    rw [hh, h.1]; exact fun c => c.elim Bool.false_ne_true h.2
  refine (if_neg ht).trans ?_
  rw [← hh]
  exact congrArg (fun k : Hart => ({ ((trapCounted s cause tval).count 0x13 1).trace 1 (cause.setWidth 64) with hart := k.trapEntry cause tval cv } : State))
    (trace_hart _ _ _ |>.trans (State.count_hart ..))

theorem takeTrap_of_not_canTrap {s : State} (h : ¬ CanTrap s) (cause : BitVec 8) (tval : Word) (cv : Option TrapCv) :
    s.takeTrap cause tval cv = (trapCounted s cause tval).fatalFault s.hart.ctx cause s.hart.gang s.hart.pc tval := by
  have hh : (trapCounted s cause tval).hart = s.hart := (congrArg State.hart (trapCounted_eq s cause tval).1 :)
  rw [← hh]
  refine if_pos ?_
  rw [CanTrap, ← hh] at h
  cases ht : (trapCounted s cause tval).hart.tact
  · exact .inr (not_not.1 fun c => h ⟨ht, c⟩)
  · exact .inl ht

theorem trapsEnterHandler : TrapsEnterHandler := by
  intro s cause tval cv h
  obtain ⟨h1, h2, h3⟩ := counts_trans (trapCounted_eq s cause tval) (counts_count _ 0x13 1)
  rw [takeTrap_of_canTrap h]
  refine ⟨_, h1, h2, h3, rfl, ?_⟩
  have hv : BitVec.ofNat 64 (4 * s.hart.stvec.toNat) = BitVec.ofNat 64 (s.hart.stvec.toNat * 4) := by rw [Nat.mul_comm]
  rw [hv]
  cases cv <;> rfl

/-! ### Fatal faults -/

/-- Packets and host traffic are queued, and nothing else happens. -/
def Queues (s t : State) : Prop := t = { s with fab := t.fab, links := t.links, hostOut := t.hostOut, agenda := t.agenda }

theorem queues_sendPacket (s : State) (p : Packet) : Queues s (s.sendPacket p).2 := by
  unfold State.sendPacket
  split
  · exact (rfl : Queues s s)
  · split
    · exact (rfl : Queues s (s.sendSelf p))
    · split
      · split
        · rfl
        · rfl
      · exact (rfl : Queues s s)

theorem queues_hostWrite (s : State) (addr : Nat) (data : List Byte) (w : Waiter) : Queues s (s.hostWrite addr data w).2.2 := by
  have hs (p : Packet) : Queues s (s.newTag.2.sendPacket p).2 := (queues_sendPacket s.newTag.2 p :)
  unfold State.hostWrite
  dsimp only
  split
  · rfl
  · split
    · rfl
    · split
      · exact (congrArg (fun u : State => u.await _) (hs _) :)
      · exact hs _

/-- A fault record is queued in the memory of its context, which counts it, and the host is told. -/
def Records (c : BitVec 8) (s t : State) : Prop :=
  t = { s with fab := t.fab, links := t.links, hostOut := t.hostOut, agenda := t.agenda, mem := t.mem, poison := t.poison, ctxs := t.ctxs }
    ∧ (∀ d, t.ctx d = { s.ctx d with fqlost := (t.ctx d).fqlost, fqtail := (t.ctx d).fqtail }) ∧ ∀ d, d ≠ c → t.ctx d = s.ctx d

theorem records_refl (c : BitVec 8) (s : State) : Records c s s := ⟨rfl, fun _ => rfl, fun _ _ => rfl⟩

theorem records_modCtx {s : State} {c : BitVec 8} {f : Ctx → Ctx} (hf : ∀ x, f x = { x with fqlost := (f x).fqlost, fqtail := (f x).fqtail }) :
    Records c s (s.modCtx c f) := by
  refine ⟨rfl, fun d => ?_, fun d hd => (ctx_modCtx ..).trans (if_neg hd)⟩
  rw [ctx_modCtx]
  split
  · next hd => rw [hd]; exact hf _
  · rfl

theorem records_trans {c : BitVec 8} {s t u : State} (h : Records c s t) (k : Records c t u) : Records c s u := by
  obtain ⟨h1, h2, h3⟩ := h
  obtain ⟨k1, k2, k3⟩ := k
  refine ⟨k1.trans ?_, fun d => (k2 d).trans ?_, fun d hd => (k3 d hd).trans (h3 d hd)⟩
  · exact (congrArg (fun v : State => { v with
      fab := u.fab, links := u.links, hostOut := u.hostOut, agenda := u.agenda, mem := u.mem, poison := u.poison, ctxs := u.ctxs }) h1 :)
  · exact (congrArg (fun x : Ctx => { x with fqlost := (u.ctx d).fqlost, fqtail := (u.ctx d).fqtail }) (h2 d) :)

theorem records_putMem (c : BitVec 8) (s : State) (a : Nat) (d : List Byte) : Records c s (s.putMem a d) := ⟨rfl, fun _ => rfl, fun _ _ => rfl⟩

theorem records_of_queues {s t : State} (c : BitVec 8) (h : Queues s t) : Records c s t := by
  have hc (d : BitVec 8) : t.ctx d = s.ctx d := by unfold State.ctx; rw [show t.ctxs = s.ctxs from (congrArg State.ctxs h :)]
  refine ⟨h.trans ?_, fun d => by rw [hc], fun d _ => hc d⟩
  rw [show t.ctxs = s.ctxs from (congrArg State.ctxs h :), show t.mem = s.mem from (congrArg State.mem h :),
    show t.poison = s.poison from (congrArg State.poison h :)]

theorem records_postFault (s : State) (c : BitVec 8) (r : FaultRec) : Records c s (s.postFault c r) := by
  unfold State.postFault
  dsimp only
  split
  · exact records_refl c s
  · split
    · exact records_modCtx fun _ => rfl
    · split
      · exact records_modCtx fun _ => rfl
      · have h (a : Nat) := records_trans (records_putMem c s a r.bytes) (records_modCtx (f := fun x => { x with fqtail := x.fqtail + 1 }) fun _ => rfl)
        split
        · exact records_trans (h _) (records_of_queues c (queues_hostWrite ..))
        · exact h _

/-- The record of a fatal fault (10 R254). -/
noncomputable def fatalRecord (s : State) (cause : BitVec 8) (gang : BitVec 16) (pc addr : Word) : FaultRec :=
  { time := s.pkg.dtime, kind := 1, cause := cause, gang := gang, handler := 0xFFFF, queue := 0xFFFF, addr := addr, pc := pc }

/-- A running context after its fatal fault: it dumps, or is dead where its dump region does not hold a header. -/
noncomputable def fatalCtx (dump : Bool) (r : FaultRec) (x : Ctx) : Ctx :=
  { x with state := if dump then .dumping else .dead, run := false, stopPending := false, dumpRecs := [r] }

/-- A hart of the context `c` halts. -/
noncomputable def haltOf (c : BitVec 8) (h : Hart) : Hart := if h.ctx = c then { h with wait := .halted } else h

theorem haltOf_ctx (c : BitVec 8) (h : Hart) : (haltOf c h).ctx = h.ctx := by
  unfold haltOf
  split
  · rfl
  · rfl

theorem haltOf_live (c : BitVec 8) (h : Hart) : (haltOf c h).live = h.live := by
  unfold haltOf
  split
  · rfl
  · rfl

theorem haltOf_wait {c : BitVec 8} {h : Hart} (hc : (haltOf c h).ctx = c) : (haltOf c h).wait = .halted := by
  rw [haltOf_ctx] at hc
  unfold haltOf
  rw [if_pos hc]

theorem mem_allHarts_mapHarts {s : State} {f : Hart → Hart} (hf : ∀ h, (f h).live = h.live) {h : Hart} (hm : h ∈ (s.mapHarts f).allHarts) :
    ∃ k, h = f k := by
  unfold State.mapHarts State.allHarts at hm
  cases hl : s.hart.live
  · simp only [hl, Bool.false_eq_true, if_false] at hm
    obtain ⟨k, -, hk⟩ := List.mem_map.1 hm
    exact ⟨k, hk.symm⟩
  · simp only [hl, if_true, hf] at hm
    obtain hk | hk := List.mem_cons.1 hm
    · exact ⟨_, hk⟩
    · obtain ⟨k, -, hk⟩ := List.mem_map.1 hk
      exact ⟨k, hk.symm⟩

/-- A context changes and its harts and gangs stop. -/
noncomputable def stopped (s : State) (c : BitVec 8) (f : Ctx → Ctx) : State := ((s.modCtx c f).mapHarts (haltOf c)).faultGangs c

theorem stopped_ctx (s : State) (c : BitVec 8) (f : Ctx → Ctx) (d : BitVec 8) : (stopped s c f).ctx d = if d = c then f (s.ctx c) else s.ctx d :=
  ctx_modCtx s c d f

theorem stopped_halted (s : State) (c : BitVec 8) (f : Ctx → Ctx) : ∀ h ∈ (stopped s c f).allHarts, h.ctx = c → h.wait = .halted := by
  intro h hm hc
  obtain ⟨k, rfl⟩ := mem_allHarts_mapHarts (s := s.modCtx c f) (haltOf_live c) hm
  exact haltOf_wait hc

theorem stopped_pc (s : State) (c : BitVec 8) (f : Ctx → Ctx) : (stopped s c f).hart.pc = s.hart.pc ∧ (stopped s c f).hart.x = s.hart.x := by
  change (if s.hart.live then haltOf c s.hart else s.hart).pc = _ ∧ (if s.hart.live then haltOf c s.hart else s.hart).x = _
  unfold haltOf
  cases s.hart.live
  · exact ⟨rfl, rfl⟩
  · rw [if_pos rfl]
    split
    · exact ⟨rfl, rfl⟩
    · exact ⟨rfl, rfl⟩

/-- A context's dump waits its turn, where it dumps. -/
noncomputable def queueDump (dump : Bool) (c : BitVec 8) (s : State) : State := if dump then { s with dumpWaiting := s.dumpWaiting ++ [c] } else s

theorem queueDump_frame {α : Type} (f : State → α) (hf : ∀ (s : State) w, f { s with dumpWaiting := w } = f s) (dump : Bool) (c : BitVec 8)
    (s : State) : f (queueDump dump c s) = f s := by
  cases dump
  · rfl
  · exact hf s _

theorem queueDump_waiting (dump : Bool) (c : BitVec 8) (s : State) :
    (queueDump dump c s).dumpWaiting = if dump then s.dumpWaiting ++ [c] else s.dumpWaiting := by
  cases dump
  · rfl
  · rfl

theorem fatalFault_of_running {s : State} {c : BitVec 8} (h : (s.ctx c).state = .running) (cause : BitVec 8) (gang : BitVec 16) (pc addr : Word) :
    ∃ u, Records c s u ∧ s.fatalFault c cause gang pc addr
      = queueDump (dumpFits u c) c (stopped u c (fatalCtx (dumpFits u c) (fatalRecord s cause gang pc addr))) := by
  refine ⟨_, records_postFault s c (fatalRecord s cause gang pc addr), ?_⟩
  have hr := congrArg Ctx.state ((records_postFault s c (fatalRecord s cause gang pc addr)).2.1 c)
  unfold State.fatalFault
  change (match ((s.postFault c (fatalRecord s cause gang pc addr)).ctx c).state with
    | .running => _ | .dumping => _ | _ => _) = _
  rw [hr.trans h]
  rfl

theorem dumpFits_of_records {s u : State} {c : BitVec 8} (h : Records c s u) (d : BitVec 8) : dumpFits u d = dumpFits s d := by
  unfold dumpFits
  rw [show u.gangs = s.gangs from (congrArg State.gangs h.1 :), show (u.ctx d).dumpsize = (s.ctx d).dumpsize from (congrArg Ctx.dumpsize (h.2.1 d) :)]

/-- What a fatal fault of a running context does. -/
theorem fatal_spec (v : State) (dump : Bool) (c : BitVec 8) (r : FaultRec) :
    let t := queueDump dump c (stopped v c (fatalCtx dump r))
    (∀ d, t.ctx d = if d = c then fatalCtx dump r (v.ctx c) else v.ctx d)
      ∧ (∀ h ∈ t.allHarts, h.ctx = c → h.wait = .halted)
      ∧ t.dumpWaiting = (if dump then v.dumpWaiting ++ [c] else v.dumpWaiting) ∧ t.hart.pc = v.hart.pc ∧ t.hart.x = v.hart.x := by
  refine ⟨fun d => ?_, ?_, queueDump_waiting .., ?_, ?_⟩
  · exact (queueDump_frame (·.ctx d) (fun _ _ => rfl) ..).trans (stopped_ctx ..)
  · rw [queueDump_frame State.allHarts (fun _ _ => rfl)]
    exact stopped_halted v c (fatalCtx dump r)
  · exact (queueDump_frame (·.hart.pc) (fun _ _ => rfl) ..).trans (stopped_pc ..).1
  · exact (queueDump_frame (·.hart.x) (fun _ _ => rfl) ..).trans (stopped_pc ..).2

/-- The machine that a trap has counted, and a fault record left, is as before in what a fatal fault reads. -/
theorem recorded_frame {s u v : State} {c : BitVec 8} {cause : BitVec 8} {tval : Word} (hu : u = trapCounted s cause tval) (hv : Records c u v) :
    v.hart = s.hart ∧ v.dumpWaiting = s.dumpWaiting ∧ dumpFits v c = dumpFits s c ∧ (∀ d, u.ctx d = s.ctx d) := by
  have hs := (trapCounted_eq s cause tval).1
  rw [← hu] at hs
  have hctx (d : BitVec 8) : u.ctx d = s.ctx d := by
    unfold State.ctx
    rw [show u.ctxs = s.ctxs from (congrArg State.ctxs hs :)]
  refine ⟨(congrArg State.hart hv.1 :).trans (congrArg State.hart hs :), (congrArg State.dumpWaiting hv.1 :).trans (congrArg State.dumpWaiting hs :), ?_, hctx⟩
  rw [dumpFits_of_records hv]
  unfold dumpFits
  rw [hctx, show u.gangs = s.gangs from (congrArg State.gangs hs :)]

theorem nestedTrapsAreFatal : NestedTrapsAreFatal := by
  intro s cause tval cv hct hrun
  rw [takeTrap_of_not_canTrap hct]
  obtain ⟨u, hu⟩ : ∃ u, u = trapCounted s cause tval := ⟨_, rfl⟩
  rw [← hu]
  have hx (v : State) (hv : Records s.hart.ctx u v) := recorded_frame hu hv
  have hc := (hx u (records_refl _ u)).2.2.2
  obtain ⟨v, hv, hf⟩ := fatalFault_of_running ((congrArg Ctx.state (hc s.hart.ctx)).trans hrun) cause s.hart.gang s.hart.pc tval
  obtain ⟨hh, hw, hd, -⟩ := hx v hv
  rw [hf, hd]
  obtain ⟨h1, h2, h3, h4, h5⟩ := fatal_spec v (dumpFits s s.hart.ctx) s.hart.ctx (fatalRecord u cause s.hart.gang s.hart.pc tval)
  rw [hh] at h4 h5
  rw [hw] at h3
  have h0 := (h1 s.hart.ctx).trans (if_pos rfl)
  exact ⟨congrArg Ctx.state h0, congrArg Ctx.run h0, congrArg (fun x : Ctx => x.dumpRecs.map _) h0, h2,
    fun d hne => ((h1 d).trans (if_neg hne)).trans ((hv.2.2 d hne).trans (hc d)), h3, h4, h5⟩

/-- Settles O10. -/
theorem trapsAreTaken : Obligations.TrapsAreTaken := ⟨trapsEnterHandler, nestedTrapsAreFatal⟩

/-! ### The SYSTEM group -/

theorem systemTraps : SystemTrapsComplete := by
  refine fun s w h => ⟨⟨_, rfl, trapsEnterHandler s _ _ _ h⟩, fun hd => ⟨_, ?_, trapsEnterHandler s _ _ _ h⟩, _, rfl, trapsEnterHandler s _ _ _ h⟩
  exact if_neg (by rw [hd]; exact Bool.false_ne_true)

theorem ebreakHalts : EbreakHalts := by
  intro s hd
  refine ⟨_, if_pos hd, rfl, fun c hc => ?_, ?_⟩
  · exact (core_modCore ..).trans (if_neg hc)
  · exact (core_modCore ..).trans (if_pos rfl)

/-- Settles O11. -/
theorem systemCallsComplete : Obligations.SystemCallsComplete := ⟨systemTraps, ebreakHalts⟩

/-! ### Returns -/

theorem traceRec_cores (s : State) (kind : Nat) (w : Word) : (s.traceRec kind w).cores = s.cores := by
  unfold State.traceRec
  simp only [State.modDie_cores, State.putMem_cores]

theorem trace_cores (s : State) (kind : Nat) (w : Word) : (s.trace kind w).cores = s.cores := by
  unfold State.trace
  dsimp only
  split
  · split
    · exact State.modDie_cores ..
    · split
      · exact traceRec_cores ..
      · rw [traceRec_cores, State.modDie_cores, traceRec_cores]
  · rfl

/-- Settles O9. -/
theorem returnsComplete : Obligations.ReturnsComplete := by
  refine fun s => ⟨fun hs ha => ?_, fun hs hm => ?_, fun hs ha => ?_, fun hs hm => ?_⟩
  · have e : exec .tret s = .next { ((s.trace 2 s.hart.sepc).count 1 1) with hart := s.hart.trapReturn } :=
      (if_neg (not_not.2 hs)).trans (if_neg (by rw [wbit, ha]; exact Bool.false_ne_true))
    refine ⟨_, e, rfl, ?_, ?_⟩
    · exact (congrArg (fun u : State => { u with hart := s.hart.trapReturn }) (count_eq ..) :)
    · exact onlyCounts_trans (onlyCounts_of_cores (trace_cores s 2 _)) (onlyCounts_count _ 1 1)
  · exact (if_neg (not_not.2 hs)).trans (if_pos hm)
  · have hb : (s.hart.uepc.setWidth 64).getLsbD 1 = false := by rw [BitVec.getLsbD_setWidth, ha, Bool.and_false]
    have e : exec .uiret s = .next ((s.withHart (fun h => { h with uieIe := h.uiePie })).retireAt (s.hart.uepc.setWidth 64)) :=
      (if_neg (by rw [hs]; exact Bool.false_ne_true)).trans (if_neg (by rw [wbit, hb]; exact Bool.false_ne_true))
    exact ⟨_, e, onlyHart_trans (onlyHart_withHart s _) (onlyHart_retireAt ..), retireAt_hart ..⟩
  · have hb : (s.hart.uepc.setWidth 64).getLsbD 1 = true := by rw [BitVec.getLsbD_setWidth, hm]; rfl
    exact (if_neg (by rw [hs]; exact Bool.false_ne_true)).trans (if_pos hb)

end Sys2Proof.ScalarProofs
end

section
/-!
PROOFS. Control and status registers (13 R347 to R349, Table 13.2): what a write leaves alone, and what a read of each register gives after it.
-/
namespace Sys2Proof.ScalarProofs
open Sys2Proof Sys2Proof.Machine Sys2Proof.Claims

/-! ### What a write to a CSR leaves -/

theorem foldl_frame {α β γ : Type} (f : α → γ) {g : α → β → α} (hg : ∀ a b, f (g a b) = f a) (l : List β) (a : α) : f (l.foldl g a) = f a := by
  induction l generalizing a with
  | nil => rfl
  | cons b l ih => exact (ih _).trans (hg a b)

theorem leaveC_hart (s : State) (core : BitVec 8) : (s.leaveC core).hart = s.hart := by
  refine foldl_frame State.hart (fun u v => ?_) _ s
  have hd (u : State) : (u.dropCopy core v).hart = u.hart := by
    unfold State.dropCopy
    split
    · rfl
    · split
      · rfl
      · rfl
  dsimp only
  split
  · exact hd _
  · rfl

theorem modHart_pc (s : State) (r : HartRef) {f : Hart → Hart} (hf : ∀ h, (f h).pc = h.pc) : (s.modHart r f).hart.pc = s.hart.pc := by
  unfold State.modHart
  split
  · exact hf _
  · rfl

theorem bkAnswer_pc (s : State) (b : BankCmd) (r : Nat) (e : Option (Word × Word)) : (s.bkAnswer b r e).hart.pc = s.hart.pc := by
  unfold State.bkAnswer
  split
  · rfl
  · exact modHart_pc s _ fun _ => rfl

theorem bkPut_pc (s : State) (cl : BitVec 5) (op i : Nat) (k : Bank) : (s.bkPut cl op i k).hart.pc = s.hart.pc := by
  unfold State.bkPut
  dsimp only
  split
  · exact congrArg Hart.pc (leaveC_hart _ _)
  · rfl

theorem bkRun_pc {s : State} {b : BankCmd} (hw : b.work = .command) : (s.bkRun b).hart.pc = s.hart.pc := by
  unfold State.bkRun
  rw [hw]
  dsimp only
  split
  · exact bkAnswer_pc ..
  · split
    · exact bkAnswer_pc ..
    · exact (bkAnswer_pc ..).trans (bkPut_pc ..)

theorem bkSubmit_pc {s : State} {b : BankCmd} (hw : b.work = .command) : (s.bkSubmit b).hart.pc = s.hart.pc := by
  have hb (u : State) : (u.bkDrain [b]).hart.pc = u.hart.pc := by
    unfold State.bkDrain
    split
    · rfl
    · exact bkRun_pc hw
  have hu : (if b.host = true then s.modCluster b.cl (fun c => { c with hbkcmd := bkReg b.val true 0 })
      else s.modHart b.ref (fun h => { h with bkcmd := bkReg b.val true 0 })).hart.pc = s.hart.pc := by
    split
    · rfl
    · exact modHart_pc s _ fun _ => rfl
  refine iteInduction (motive := fun t : State => t.hart.pc = s.hart.pc) (fun _ => rfl) fun _ => ?_
  generalize (if b.host = true then _ else _ : State) = u at hu ⊢
  split
  · exact (hb u).trans hu
  · exact hu

theorem fatalFault_pc (s : State) (c : BitVec 8) (cause : BitVec 8) (gang : BitVec 16) (pc addr : Word) :
    (s.fatalFault c cause gang pc addr).hart.pc = s.hart.pc := by
  have hp (r : FaultRec) : (s.postFault c r).hart.pc = s.hart.pc := (congrArg (fun t : State => t.hart.pc) (records_postFault s c r).1 :)
  unfold State.fatalFault
  dsimp only
  generalize ({ time := s.pkg.dtime, kind := 1, cause := cause, gang := gang, handler := 0xFFFF, queue := 0xFFFF, addr := addr, pc := pc } : FaultRec) = r
  replace hp := hp r
  generalize s.postFault c r = v at hp ⊢
  rw [← hp]
  generalize (v.ctx c).state = st
  cases st with
  | running => exact iteInduction (motive := fun t : State => t.hart.pc = v.hart.pc) (fun _ => (stopped_pc v c _).1) fun _ => (stopped_pc v c _).1
  | _ => rfl

theorem writeSstatus_pc (s : State) (v : Word) : (writeSstatus s v).hart.pc = s.hart.pc := by
  unfold writeSstatus
  dsimp only
  split
  · exact fatalFault_pc ..
  · rfl

theorem writePmSel_pc (s : State) (i : Nat) (v : Word) : (writePmSel s i v).hart.pc = s.hart.pc := by
  unfold writePmSel
  split
  · rfl
  · rfl

theorem writePmCnt_pc (s : State) (i : Nat) (v : Word) : (writePmCnt s i v).hart.pc = s.hart.pc := by
  unfold writePmCnt
  split
  · rfl
  · rfl

/-- One number of a match on numbers. -/
theorem natCase {α β : Type} {f : α → β} {y : β} {n k : Nat} {x : α} {b : ¬ n = k → α} (h : f x = y) (hb : ∀ h, f (b h) = y) :
    f (dite (n = k) (Eq.ndrec_symm (motive := fun _ => α) x) b) = y := by
  by_cases hk : n = k
  · subst hk
    rw [dif_pos rfl]
    exact h
  · rw [dif_neg hk]
    exact hb hk

theorem csrWrite_pc (s : State) (n : Nat) (v src : Word) : (csrWrite s n v src).hart.pc = s.hart.pc := by
  have key {k : Nat} {x : State} {b : ¬ n = k → State} := natCase (f := fun t : State => t.hart.pc) (y := s.hart.pc) (n := n) (k := k) (x := x) (b := b)
  -- the match itself is unfolded, to its chain of tests: the lemma that splits it is far larger
  unfold csrWrite csrWrite.match_1
  iterate 25 refine key rfl fun _ => ?_
  refine key (writeSstatus_pc s v) fun _ => ?_
  iterate 5 refine key rfl fun _ => ?_
  refine key (apply_ite (fun t : State => t.hart.pc) _ _ _ |>.trans (ite_self _)) fun _ => ?_
  refine key (bkSubmit_pc rfl) fun _ => ?_
  dsimp only
  split
  · exact writePmSel_pc ..
  · split
    · exact writePmCnt_pc ..
    · rfl

/-! ### CSR instructions -/

theorem writesOnly_of_goesOn {s t : State} {v pc : Word} (h : GoesOn s t pc) : WritesOnly s t 0 v pc := by
  obtain ⟨ho, hw, hr⟩ := h
  refine ⟨ho, fun r => ?_, hr⟩
  rw [hw r, if_neg (fun c => c.2 c.1), if_neg (fun c => c.2 c.1)]

theorem noteTime_pc (s : State) (n : Nat) (reads : Bool) : (s.noteTime n reads).hart.pc = s.hart.pc := by
  unfold State.noteTime
  split
  · rfl
  · rfl

/-- What a CSR instruction does that may access and has nothing to wait for. -/
def AccessesCsr (i : Instr) (rd : Reg) (csr : BitVec 12) (s : State) (src : Word) (reads writes : Bool) (f : Word → Word → Word) : Prop :=
  csrIllegal s csr.toNat writes = false → csrWaits s csr.toNat reads = false →
    ∃ old u t, csrRead s csr.toNat = some old
      ∧ u = (if writes then csrWrite (s.noteTime csr.toNat reads) csr.toNat (f old src) src else s.noteTime csr.toNat reads)
      ∧ exec i s = .next t ∧ WritesOnly u t (if reads then rd else 0) old (s.hart.pc + 4)

theorem accessesCsr {i : Instr} {f3 : BitVec 3} {rd rs1 : Reg} {csr : BitVec 12} {s : State} {src : Word} {reads writes : Bool}
    {f : Word → Word → Word} (he : exec i s = csrOp f3 rd rs1 csr src reads writes f s) : AccessesCsr i rd csr s src reads writes f := by
  intro hl hw
  have hr : (csrRead s csr.toNat).isSome = true := by
    unfold csrIllegal at hl
    rw [Bool.or_eq_false_iff, Bool.or_eq_false_iff] at hl
    exact (Option.not_isNone ..).symm.trans (congrArg not hl.1.1)
  obtain ⟨old, ho⟩ := Option.isSome_iff_exists.1 hr
  have hu : (if writes then csrWrite (s.noteTime csr.toNat reads) csr.toNat (f old src) src else s.noteTime csr.toNat reads).hart.pc = s.hart.pc := by
    split
    · exact (csrWrite_pc ..).trans (noteTime_pc ..)
    · exact noteTime_pc ..
  unfold csrOp at he
  dsimp only at he
  rw [hl, hw, ho] at he
  dsimp only [Option.getD] at he
  refine ⟨old, _, _, ho, rfl, he, ?_⟩
  rw [← hu]
  generalize (if writes then csrWrite _ _ _ _ else _ : State) = u
  cases reads
  · exact writesOnly_of_goesOn (goesOn_retireAt u _)
  · obtain ⟨t, ht, hw⟩ := putX_spec u rd old
    exact Host.Outcome.next.inj ht ▸ hw

/-- Settles O13. -/
theorem csrInstructionsComplete : Obligations.CsrInstructionsComplete := by
  intro rd rs1 imm csr s
  unfold csrTable
  refine forall_mem_cons (accessesCsr (f3 := 1) (rs1 := rs1) (f := fun _ v => v) rfl) ?_
  refine forall_mem_cons (accessesCsr (f3 := 2) (rs1 := rs1) (f := fun o v => o ||| v) rfl) ?_
  refine forall_mem_cons (accessesCsr (f3 := 3) (rs1 := rs1) (f := fun o v => o &&& ~~~ v) rfl) ?_
  refine forall_mem_cons (accessesCsr (f3 := 5) (rs1 := imm) (f := fun _ v => v) rfl) ?_
  refine forall_mem_cons (accessesCsr (f3 := 6) (rs1 := imm) (f := fun o v => o ||| v) rfl) ?_
  exact forall_mem_cons (accessesCsr (f3 := 7) (rs1 := imm) (f := fun o v => o &&& ~~~ v) rfl) (List.forall_mem_nil _)

/-! ### Illegal forms -/

/-- The accesses that 13 R348 makes illegal, at number `n`. -/
def BadAccess (s : State) (n : Nat) (writes : Bool) : Prop :=
  csrRead s n = none ∨ (writes = true ∧ n / 1024 = 3)
    ∨ (s.hart.sup = false ∧ n / 256 % 4 = 1 ∧ ¬ (0x520 ≤ n ∧ n ≤ 0x52F ∧ writes = false))

theorem csrIllegal_of_badAccess {s : State} {n : Nat} {writes : Bool} (h : BadAccess s n writes) : csrIllegal s n writes = true := by
  unfold csrIllegal nfield
  rw [Nat.shiftRight_eq_div_pow, Nat.shiftRight_eq_div_pow]
  obtain h | ⟨rfl, h⟩ | ⟨hs, h, hn⟩ := h
  · rw [h]; rfl
  · rw [show n / 2 ^ 10 = 3 from h]
    exact Bool.or_eq_true_iff.2 (.inl (Bool.or_true _))
  · rw [hs, show n / 2 ^ 8 % 2 ^ 2 = 1 from h]
    have hf : (decide (0x520 ≤ n) && decide (n ≤ 0x52F) && !writes) = false := Bool.eq_false_iff.2 fun c => hn (by simpa [and_assoc] using c)
    rw [hf]
    exact Bool.or_true _

theorem accessTraps {i : Instr} {f3 : BitVec 3} {rd rs1 : Reg} {csr : BitVec 12} {s : State} {src : Word} {reads writes : Bool}
    {f : Word → Word → Word} (he : exec i s = csrOp f3 rd rs1 csr src reads writes f s) (hw : encodeScalar i = some (encI csr rs1 f3 rd 0x73)) :
    BadAccess s csr.toNat writes → ∃ w, encodeScalar i = some w ∧ exec i s = .next (s.takeTrap 0x02 (w.setWidth 64) none) := by
  intro h
  exact ⟨_, hw, he.trans (congrArg (Res.finish · s) (if_pos (csrIllegal_of_badAccess h)))⟩

theorem csrAccessesTrap : CsrAccessesTrap := by
  intro rd rs1 imm csr s
  unfold csrTable
  refine forall_mem_cons (accessTraps (f3 := 1) (rs1 := rs1) (f := fun _ v => v) rfl rfl) ?_
  refine forall_mem_cons (accessTraps (f3 := 2) (rs1 := rs1) (f := fun o v => o ||| v) rfl rfl) ?_
  refine forall_mem_cons (accessTraps (f3 := 3) (rs1 := rs1) (f := fun o v => o &&& ~~~ v) rfl rfl) ?_
  refine forall_mem_cons (accessTraps (f3 := 5) (rs1 := imm) (f := fun _ v => v) rfl rfl) ?_
  refine forall_mem_cons (accessTraps (f3 := 6) (rs1 := imm) (f := fun o v => o ||| v) rfl rfl) ?_
  exact forall_mem_cons (accessTraps (f3 := 7) (rs1 := imm) (f := fun o v => o &&& ~~~ v) rfl rfl) (List.forall_mem_nil _)

theorem wfield_scope (w : Word) : wfield w 0 3 = w.toNat % 8 := rfl

theorem wrongModeTraps : WrongModeTraps := by
  intro rd rs1 rs2 s
  unfold illegalTable
  refine forall_mem_cons (fun h => ⟨_, rfl, ?_⟩) (forall_mem_cons (fun h => ⟨_, rfl, ?_⟩) (forall_mem_cons (fun h => ⟨_, rfl, ?_⟩)
    (forall_mem_cons (fun h => ⟨_, rfl, ?_⟩) (forall_mem_cons (fun h => ⟨_, rfl, ?_⟩) (List.forall_mem_nil _)))))
  · exact if_pos (Bool.eq_false_iff.1 h)
  · exact if_pos h
  · exact if_neg (Bool.eq_false_iff.1 h)
  · exact congrArg (Res.finish · s) (if_pos (h.imp_left Bool.eq_false_iff.1))
  · exact congrArg (Res.finish · s) ((if_pos rfl).trans (if_pos h))

/-- Settles O14. -/
theorem illegalFormsTrap : Obligations.IllegalFormsTrap := ⟨wrongModeTraps, csrAccessesTrap⟩

end Sys2Proof.ScalarProofs
end

section
/-!
PROOFS. What the registers of a hart hold after a write (13 Table 13.2).
-/
namespace Sys2Proof.ScalarProofs
open Sys2Proof Sys2Proof.Machine Sys2Proof.Claims

/-! ### Fields of a word as its masked bits -/

/-- The mask of the `n` bits from `lo`. -/
noncomputable def maskOf (lo n : Nat) : Word := BitVec.ofNat 64 ((2 ^ n - 1) <<< lo)

section
variable (v : Word)

theorem field_shift_eq (lo n : Nat) : BitVec.ofNat 64 ((field v lo n).toNat <<< lo) = v &&& maskOf lo n := by
  apply BitVec.eq_of_getLsbD_eq
  intro i hi
  unfold maskOf field
  rw [BitVec.getLsbD_and, BitVec.getLsbD_ofNat, BitVec.getLsbD_ofNat, Nat.testBit_shiftLeft, Nat.testBit_shiftLeft, Nat.testBit_two_pow_sub_one,
    BitVec.testBit_toNat, BitVec.getLsbD_extractLsb']
  by_cases hl : lo ≤ i
  · rw [Nat.add_sub_cancel' hl]
    simp [hi, hl, Bool.and_comm]
  · simp [hl]

theorem field_low_eq (n : Nat) : (field v 0 n).setWidth 64 = v &&& maskOf 0 n := (BitVec.ofNat_toNat ..).symm.trans (field_shift_eq v 0 n)

theorem word_eq : v = v &&& maskOf 0 64 := (BitVec.and_allOnes (x := v)).symm

theorem fields_low_eq (m n : Nat) : (field v n m ++ field v 0 n).setWidth 64 = v &&& maskOf 0 (m + n) := by
  rw [← field_low_eq]
  unfold field
  rw [BitVec.extractLsb'_append_extractLsb'_eq_extractLsb' (Nat.zero_add n).symm]

theorem appended_eq : (field v 2 46 ++ 0#2).setWidth 64 = v &&& maskOf 2 46 := by
  rw [← field_shift_eq, ← BitVec.ofNat_toNat, BitVec.toNat_append]
  exact congrArg (BitVec.ofNat 64) (Nat.or_zero _)

/-- A field above bits that are a masked word already. -/
theorem field_add_eq (lo n : Nat) {b : Nat} {m : Word} (hb : b < 2 ^ lo) (hm : BitVec.ofNat 64 b = v &&& m) :
    BitVec.ofNat 64 ((field v lo n).toNat <<< lo + b) = v &&& (maskOf lo n ||| m) := by
  rw [Nat.shiftLeft_add_eq_or_of_lt hb, BitVec.ofNat_or, field_shift_eq, hm, BitVec.and_or_distrib_left]

theorem wbit_toNat (i : Nat) : (wbit v i).toNat = (field v i 1).toNat := by
  unfold wbit field
  rw [BitVec.extractLsb'_toNat, Nat.shiftRight_eq_div_pow]
  exact Nat.toNat_testBit ..

theorem flag_eq : flag (wbit v 0) = v &&& maskOf 0 1 := by
  rw [← field_shift_eq, ← wbit_toNat]
  cases wbit v 0
  · rfl
  · rfl

theorem flags_eq : BitVec.ofNat 64 (2 * (wbit v 1).toNat + (wbit v 0).toNat) = v &&& (maskOf 1 1 ||| maskOf 0 1) := by
  rw [Nat.mul_comm, wbit_toNat, wbit_toNat, ← Nat.shiftLeft_eq _ 1]
  exact field_add_eq v 1 1 (field v 0 1).isLt (field_shift_eq v 0 1)

theorem cvidx_eq : BitVec.ofNat 64 ((field v 16 6).toNat <<< 16 + (field v 8 6).toNat <<< 8 + (field v 0 3).toNat)
    = v &&& (maskOf 16 6 ||| (maskOf 8 6 ||| maskOf 0 3)) := by
  have h0 : (field v 0 3).toNat < 2 ^ 8 := Nat.lt_of_lt_of_le (field v 0 3).isLt (by decide)
  have h1 : (field v 8 6).toNat <<< 8 + (field v 0 3).toNat < 2 ^ 16 := by
    rw [Nat.shiftLeft_eq]
    exact Nat.lt_of_lt_of_le (Nat.add_lt_add_left h0 _)
      (Nat.succ_mul (field v 8 6).toNat (2 ^ 8) ▸ Nat.mul_le_mul_right (2 ^ 8) (Nat.lt_of_lt_of_le (field v 8 6).isLt (by decide : 2 ^ 6 ≤ 2 ^ 8)))
  rw [Nat.add_assoc]
  exact field_add_eq v 16 6 h1 (field_add_eq v 8 6 h0 (field_shift_eq v 0 3))

end

/-! ### Stored registers -/

/-- What the registers of a hart read as, in the order of their numbers: from the hart and its context. -/
noncomputable def hartReads : List (Hart → Ctx → Word) :=
  [ fun h _ => h.vstart, fun h _ => h.vkeep.setWidth 64, fun h _ => h.vdirty.setWidth 64, fun h _ => (field h.vdirty 40 4).setWidth 64,
    fun h _ => h.vxrm.setWidth 64, fun h _ => h.vfrm.setWidth 64, fun h _ => flag h.vxsat, fun h _ => h.vfflags.setWidth 64,
    fun h _ => (h.vcarryFmt ++ h.vcarryRes).setWidth 64, fun h _ => h.atag.setWidth 64, fun h _ => flag h.sdisc,
    fun h _ => BitVec.ofNat 64 (2 * h.uiePie.toNat + h.uieIe.toNat), fun h _ => h.uepc.setWidth 64, fun h _ => h.ucause.setWidth 64,
    fun h _ => h.xtid.setWidth 64, fun h _ => h.xhandler.setWidth 64, fun h _ => h.xstat,
    fun h _ => BitVec.ofNat 64 (h.srbase.toNat <<< 12), fun h _ => h.srhead, fun h _ => h.srctl, fun h _ => h.asampN.setWidth 64,
    fun h _ => h.aseed, fun h _ => BitVec.ofNat 64 (h.ahist.toNat <<< 12), fun h _ => (h.athrBin ++ h.athrCount).setWidth 64,
    fun h x => BitVec.ofNat 64 (x.adis.toNat <<< 63 + h.actlHandler.toNat), fun h _ => h.instret, fun h _ => h.vl.setWidth 64,
    fun h _ => h.vrows.setWidth 64, fun h _ => h.vcols.setWidth 64, fun h _ => (h.vtEew ++ h.vtGrp).setWidth 64,
    fun h _ => h.vlb.setWidth 64, fun h _ => h.tsm.setWidth 64, fun h _ => h.tsn.setWidth 64, fun h _ => h.tsk.setWidth 64,
    fun h _ => h.tfmt, fun h _ => h.gang.setWidth 64, fun h _ => h.rank.setWidth 64, fun h _ => h.gsize.setWidth 64,
    fun h _ => h.ctx.setWidth 64, fun h _ => h.vispend, fun h _ => BitVec.ofNat 64 h.owed.length, fun h _ => h.sstatus,
    fun h _ => BitVec.ofNat 64 (h.stvec.toNat <<< 2), fun h _ => h.sepc, fun h _ => h.scause.setWidth 64, fun h _ => h.stval,
    fun h _ => h.cvidx, fun _ x => x.ssvpool, fun h _ => h.bkcmd, fun h _ => h.bkstat, fun h _ => h.bkfifo ]

theorem map_csrRead (s : State) : hartCsrs.map (csrRead s) = hartReads.map (fun r => some (r s.hart (s.ctx s.hart.ctx))) := rfl

/-- What of a hart a write to a register leaves: what does not read as registers `i` to `j`. -/
noncomputable def keptBut (i j : Nat) (h : Hart) (x : Ctx) : Vector Word 32 × Word × Bool × BitVec 8 × List (Option Word) × List (Option Word) :=
  (h.x, h.pc, h.sup, h.ctx, (hartReads.take i).map (fun r => some (r h x)), (hartReads.drop j).map (fun r => some (r h x)))

/-- The numbers that a write to `n` leaves. -/
noncomputable def otherCsrs (n : Nat) : List Nat := hartCsrs.filter fun m => m != n && !(n == 0x802 && m == 0x803)

theorem csrRead_of_kept {n i j m : Nat} {s t : State} (hn : otherCsrs n = hartCsrs.take i ++ hartCsrs.drop j)
    (h : keptBut i j t.hart (t.ctx t.hart.ctx) = keptBut i j s.hart (s.ctx s.hart.ctx)) (hm : m ∈ hartCsrs) (hmn : m ≠ n)
    (h3 : n = 0x802 → m ≠ 0x803) : csrRead t m = csrRead s m := by
  have ho : m ∈ otherCsrs n := List.mem_filter.2 ⟨hm, by simpa [hmn, imp_iff_not_or] using h3⟩
  have ht : (hartCsrs.take i).map (csrRead t) = (hartCsrs.take i).map (csrRead s) := by
    rw [List.map_take, List.map_take, map_csrRead, map_csrRead, ← List.map_take, ← List.map_take]
    exact congrArg (·.2.2.2.2.1) h
  have hd : (hartCsrs.drop j).map (csrRead t) = (hartCsrs.drop j).map (csrRead s) := by
    rw [List.map_drop, List.map_drop, map_csrRead, map_csrRead, ← List.map_drop, ← List.map_drop]
    exact congrArg (·.2.2.2.2.2) h
  rw [hn] at ho
  exact (List.mem_append.1 ho).elim (List.map_inj_left.1 ht m) (List.map_inj_left.1 hd m)

/-- What a write to a register does that holds some of the bits. -/
def HoldsWritten (n : Nat) (mask : Word) : Prop :=
  ∀ (s : State) (v src : Word),
    let t := csrWrite s n v src
    csrRead t n = some (v &&& mask) ∧ OnlyHart s t ∧ t.hart.x = s.hart.x ∧ t.hart.pc = s.hart.pc ∧ t.hart.sup = s.hart.sup
      ∧ ∀ m ∈ hartCsrs, m ≠ n → (n = 0x802 → m ≠ 0x803) → csrRead t m = csrRead s m

theorem holdsWritten {n : Nat} {mask : Word} {i j : Nat} {α : Type} {f : α → Hart → Hart} (val : Word → α)
    (hn : otherCsrs n = hartCsrs.take i ++ hartCsrs.drop j) (hf : ∀ s v src, csrWrite s n v src = State.withHart s (f (val v)))
    (hk : ∀ w h x, keptBut i j (f w h) x = keptBut i j h x) (hr : ∀ s v, csrRead (State.withHart s (f (val v))) n = some (v &&& mask)) :
    HoldsWritten n mask := by
  intro s v src
  have h := hk (val v) s.hart (s.ctx s.hart.ctx)
  have hc : (s.withHart (f (val v))).ctx (s.withHart (f (val v))).hart.ctx = s.ctx s.hart.ctx := congrArg s.ctx (congrArg (·.2.2.2.1) h)
  rw [hf]
  refine ⟨hr s v, onlyHart_withHart .., congrArg (·.1) h, congrArg (·.2.1) h, congrArg (·.2.2.1) h, fun m hm hmn h3 => ?_⟩
  exact csrRead_of_kept hn (hc ▸ h) hm hmn h3

/-- The registers of the vector unit, but for the carry and the tag (06 Table 6.4). -/
theorem vectorCsrs_hold :
    ∀ p ∈ ([(0x800, 0xFFFFFFFFFFFFFFFF), (0x801, 0xFFFFFFFF), (0x802, 0xFFFFFFFFFFF), (0x804, 3), (0x805, 7)] : List (Nat × Word)),
      HoldsWritten p.1 p.2 := by
  refine forall_mem_cons (holdsWritten (n := 0x800) (i := 0) (j := 1) (f := fun (w : Word) h => { h with vstart := w })
    (fun v => v) rfl (fun _ _ _ => rfl) (fun _ h x => Eq.refl (keptBut 0 1 h x))
    fun _ v => congrArg some (word_eq v)) ?_
  refine forall_mem_cons (holdsWritten (n := 0x801) (i := 1) (j := 2) (f := fun (w : BitVec 32) h => { h with vkeep := w })
    (fun v => field v 0 32) rfl (fun _ _ _ => rfl) (fun _ h x => Eq.refl (keptBut 1 2 h x))
    fun _ v => congrArg some (field_low_eq v 32)) ?_
  refine forall_mem_cons (holdsWritten (n := 0x802) (i := 2) (j := 4) (f := fun (w : BitVec 44) h => { h with vdirty := w })
    (fun v => field v 0 44) rfl (fun _ _ _ => rfl) (fun _ h x => Eq.refl (keptBut 2 4 h x))
    fun _ v => congrArg some (field_low_eq v 44)) ?_
  refine forall_mem_cons (holdsWritten (n := 0x804) (i := 4) (j := 5) (f := fun (w : BitVec 2) h => { h with vxrm := w })
    (fun v => field v 0 2) rfl (fun _ _ _ => rfl) (fun _ h x => Eq.refl (keptBut 4 5 h x))
    fun _ v => congrArg some (field_low_eq v 2)) ?_
  exact forall_mem_cons (holdsWritten (n := 0x805) (i := 5) (j := 6) (f := fun (w : BitVec 3) h => { h with vfrm := w })
    (fun v => field v 0 3) rfl (fun _ _ _ => rfl) (fun _ h x => Eq.refl (keptBut 5 6 h x))
    fun _ v => congrArg some (field_low_eq v 3)) (List.forall_mem_nil _)

/-- The flags, the carry and the tag of the vector unit. -/
theorem vectorFlags_hold :
    ∀ p ∈ ([(0x806, 1), (0x807, 0x1F), (0x808, 0x3FFFFFFFFF), (0x809, 0xFFFF)] : List (Nat × Word)),
      HoldsWritten p.1 p.2 := by
  refine forall_mem_cons (holdsWritten (n := 0x806) (i := 6) (j := 7) (f := fun (w : Bool) h => { h with vxsat := w })
    (fun v => wbit v 0) rfl (fun _ _ _ => rfl) (fun _ h x => Eq.refl (keptBut 6 7 h x))
    fun _ v => congrArg some (flag_eq v)) ?_
  refine forall_mem_cons (holdsWritten (n := 0x807) (i := 7) (j := 8) (f := fun (w : BitVec 5) h => { h with vfflags := w })
    (fun v => field v 0 5) rfl (fun _ _ _ => rfl) (fun _ h x => Eq.refl (keptBut 7 8 h x))
    fun _ v => congrArg some (field_low_eq v 5)) ?_
  refine forall_mem_cons (holdsWritten (n := 0x808) (i := 8) (j := 9) (f := fun (w : BitVec 6 × BitVec 32) h => { h with vcarryFmt := w.1, vcarryRes := w.2 })
    (fun v => (field v 32 6, field v 0 32)) rfl (fun _ _ _ => rfl) (fun _ h x => Eq.refl (keptBut 8 9 h x))
    fun _ v => congrArg some (fields_low_eq v 6 32)) ?_
  exact forall_mem_cons (holdsWritten (n := 0x809) (i := 9) (j := 10) (f := fun (w : BitVec 16) h => { h with atag := w })
    (fun v => field v 0 16) rfl (fun _ _ _ => rfl) (fun _ h x => Eq.refl (keptBut 9 10 h x))
    fun _ v => congrArg some (field_low_eq v 16)) (List.forall_mem_nil _)

/-- The registers of user interrupts (10 Table 10.3). -/
theorem interruptCsrs_hold :
    ∀ p ∈ ([(0x810, 3), (0x811, 0xFFFFFFFFFFFC), (0x812, 0xFF), (0x813, 0xFFFF), (0x814, 0xFFFFFFFFFFFF), (0x815, 0xFFFFFFFFFFFFFFFF)] : List (Nat × Word)),
      HoldsWritten p.1 p.2 := by
  refine forall_mem_cons (holdsWritten (n := 0x810) (i := 11) (j := 12) (f := fun (w : Bool × Bool) h => { h with uiePie := w.1, uieIe := w.2 })
    (fun v => (wbit v 1, wbit v 0)) rfl (fun _ _ _ => rfl) (fun _ h x => Eq.refl (keptBut 11 12 h x))
    fun _ v => congrArg some (flags_eq v)) ?_
  refine forall_mem_cons (holdsWritten (n := 0x811) (i := 12) (j := 13) (f := fun (w : BitVec 48) h => { h with uepc := w })
    (fun v => field v 2 46 ++ 0#2) rfl (fun _ _ _ => rfl) (fun _ h x => Eq.refl (keptBut 12 13 h x))
    fun _ v => congrArg some (appended_eq v)) ?_
  refine forall_mem_cons (holdsWritten (n := 0x812) (i := 13) (j := 14) (f := fun (w : BitVec 8) h => { h with ucause := w })
    (fun v => field v 0 8) rfl (fun _ _ _ => rfl) (fun _ h x => Eq.refl (keptBut 13 14 h x))
    fun _ v => congrArg some (field_low_eq v 8)) ?_
  refine forall_mem_cons (holdsWritten (n := 0x813) (i := 14) (j := 15) (f := fun (w : BitVec 16) h => { h with xtid := w })
    (fun v => field v 0 16) rfl (fun _ _ _ => rfl) (fun _ h x => Eq.refl (keptBut 14 15 h x))
    fun _ v => congrArg some (field_low_eq v 16)) ?_
  refine forall_mem_cons (holdsWritten (n := 0x814) (i := 15) (j := 16) (f := fun (w : BitVec 48) h => { h with xhandler := w })
    (fun v => field v 0 48) rfl (fun _ _ _ => rfl) (fun _ h x => Eq.refl (keptBut 15 16 h x))
    fun _ v => congrArg some (field_low_eq v 48)) ?_
  exact forall_mem_cons (holdsWritten (n := 0x815) (i := 16) (j := 17) (f := fun (w : Word) h => { h with xstat := w })
    (fun v => v) rfl (fun _ _ _ => rfl) (fun _ h x => Eq.refl (keptBut 16 17 h x))
    fun _ v => congrArg some (word_eq v)) (List.forall_mem_nil _)

/-- The registers of strip records and of audits (10 Table 10.13). -/
theorem recordCsrs_hold :
    ∀ p ∈ ([(0x818, 0xFFFFFFFFF000), (0x819, 0xFFFFFFFFFFFFFFFF), (0x822, 0xFFFFFFFFF000), (0x823, 0x1FFFFFFFFF)] : List (Nat × Word)),
      HoldsWritten p.1 p.2 := by
  refine forall_mem_cons (holdsWritten (n := 0x818) (i := 17) (j := 18) (f := fun (w : BitVec 36) h => { h with srbase := w })
    (fun v => field v 12 36) rfl (fun _ _ _ => rfl) (fun _ h x => Eq.refl (keptBut 17 18 h x))
    fun _ v => congrArg some (field_shift_eq v 12 36)) ?_
  refine forall_mem_cons (holdsWritten (n := 0x819) (i := 18) (j := 19) (f := fun (w : Word) h => { h with srhead := w })
    (fun v => v) rfl (fun _ _ _ => rfl) (fun _ h x => Eq.refl (keptBut 18 19 h x))
    fun _ v => congrArg some (word_eq v)) ?_
  refine forall_mem_cons (holdsWritten (n := 0x822) (i := 22) (j := 23) (f := fun (w : BitVec 36) h => { h with ahist := w })
    (fun v => field v 12 36) rfl (fun _ _ _ => rfl) (fun _ h x => Eq.refl (keptBut 22 23 h x))
    fun _ v => congrArg some (field_shift_eq v 12 36)) ?_
  exact forall_mem_cons (holdsWritten (n := 0x823) (i := 23) (j := 24) (f := fun (w : BitVec 5 × BitVec 32) h => { h with athrBin := w.1, athrCount := w.2 })
    (fun v => (field v 32 5, field v 0 32)) rfl (fun _ _ _ => rfl) (fun _ h x => Eq.refl (keptBut 23 24 h x))
    fun _ v => congrArg some (fields_low_eq v 5 32)) (List.forall_mem_nil _)

/-- The registers of traps (10 Table 10.2). -/
theorem trapCsrs_hold :
    ∀ p ∈ ([(0x501, 0xFFFFFFFFFFFC), (0x502, 0xFFFFFFFFFFFFFFFC), (0x503, 0xFF), (0x504, 0xFFFFFFFFFFFFFFFF), (0x505, 0x3F3F07)] : List (Nat × Word)),
      HoldsWritten p.1 p.2 := by
  refine forall_mem_cons (holdsWritten (n := 0x501) (i := 42) (j := 43) (f := fun (w : BitVec 46) h => { h with stvec := w })
    (fun v => field v 2 46) rfl (fun _ _ _ => rfl) (fun _ h x => Eq.refl (keptBut 42 43 h x))
    fun _ v => congrArg some (field_shift_eq v 2 46)) ?_
  refine forall_mem_cons (holdsWritten (n := 0x502) (i := 43) (j := 44) (f := fun (w : Word) h => { h with sepc := w })
    (fun v => v &&& ~~~ 3#64) rfl (fun _ _ _ => rfl) (fun _ h x => Eq.refl (keptBut 43 44 h x))
    fun _ _ => rfl) ?_
  refine forall_mem_cons (holdsWritten (n := 0x503) (i := 44) (j := 45) (f := fun (w : BitVec 8) h => { h with scause := w })
    (fun v => field v 0 8) rfl (fun _ _ _ => rfl) (fun _ h x => Eq.refl (keptBut 44 45 h x))
    fun _ v => congrArg some (field_low_eq v 8)) ?_
  refine forall_mem_cons (holdsWritten (n := 0x504) (i := 45) (j := 46) (f := fun (w : Word) h => { h with stval := w })
    (fun v => v) rfl (fun _ _ _ => rfl) (fun _ h x => Eq.refl (keptBut 45 46 h x))
    fun _ v => congrArg some (word_eq v)) ?_
  exact forall_mem_cons (holdsWritten (n := 0x505) (i := 46) (j := 47) (f := fun (w : BitVec 6 × BitVec 6 × BitVec 3) h => { h with cvRestart := w.1, cvDone := w.2.1, cvMember := w.2.2 })
    (fun v => (field v 16 6, field v 8 6, field v 0 3)) rfl (fun _ _ _ => rfl) (fun _ h x => Eq.refl (keptBut 46 47 h x))
    fun _ v => congrArg some (cvidx_eq v)) (List.forall_mem_nil _)

theorem csrsHoldWhatIsWritten : CsrsHoldWhatIsWritten := by
  change ∀ p ∈ storedCsrs, HoldsWritten p.1 p.2
  have h := List.forall_mem_append.2 ⟨interruptCsrs_hold, List.forall_mem_append.2 ⟨recordCsrs_hold, trapCsrs_hold⟩⟩
  exact List.forall_mem_append.2 ⟨vectorCsrs_hold, List.forall_mem_append.2 ⟨vectorFlags_hold, h⟩⟩

/-! ### Registers with rules of their own -/

theorem clampK_eq (k : Nat) : clampK k = BitVec.ofNat 5 (max 1 (min 20 k)) := by
  unfold clampK
  split
  · next h => rw [Nat.lt_one_iff.1 h]; rfl
  · next h1 =>
    split
    · next h => rw [Nat.min_eq_left (Nat.le_of_lt h)]; rfl
    · next h => rw [Nat.min_eq_right (Nat.not_lt.1 h), Nat.max_eq_right (Nat.not_lt.1 h1)]

theorem sampling_eq (v : Word) : (if 24 < wfield v 0 5 then 24 else field v 0 5) = BitVec.ofNat 5 (min 24 (v.toNat % 32)) := by
  have hf : field v 0 5 = BitVec.ofNat 5 (v.toNat % 32) := by
    apply BitVec.eq_of_toNat_eq
    unfold field
    rw [BitVec.extractLsb'_toNat, BitVec.toNat_ofNat, Nat.mod_mod]
    rfl
  rw [hf, show wfield v 0 5 = v.toNat % 32 from rfl]
  split
  · next h => rw [Nat.min_eq_left h.le]; rfl
  · next h => rw [Nat.min_eq_right (Nat.not_lt.1 h)]

theorem csrsWithTheirOwnRules : CsrsWithTheirOwnRules := by
  refine fun s v src => ⟨rfl, rfl, ?_, ?_, ?_, fun h => ?_⟩
  · have hk : clampK (wfield v 1 5) = BitVec.ofNat 5 (max 1 (min 20 (v.toNat / 2 % 32))) := by
      rw [clampK_eq, wfield, nfield, Nat.shiftRight_one]
      rfl
    exact congrArg (fun k => { s.hart with srEn := v.getLsbD 0, srFlt := v.getLsbD 8, srK := k }) hk
  · exact congrArg (fun n => { s.hart with asampN := n }) (sampling_eq v)
  · exact (ctx_modCtx ..).trans (if_pos rfl)
  · exact if_neg fun c => Bool.false_ne_true (h.symm.trans c.1)

/-- Settles O15. -/
theorem csrsKeepTheirRules : Obligations.CsrsKeepTheirRules := ⟨csrsHoldWhatIsWritten, csrsWithTheirOwnRules⟩

end Sys2Proof.ScalarProofs
end

section
/-!
PROOFS. Fences, the visibility wait and STV (08 R225 to R229; 13 R345, R354 to R356).
-/
namespace Sys2Proof.ScalarProofs
open Sys2Proof Sys2Proof.Machine Sys2Proof.Claims Sys2Proof.AccessProofs

/-! ### How a fence stands -/

theorem noTransfers_iff (s : State) : NoTransfers s ↔ s.hart.xfers.any (fun x => x.state = .running) = false := by
  rw [List.any_eq_false]
  exact forall₂_congr fun x _ => not_congr (decide_eq_true_iff.symm)

theorem noTransfers_of_fenceReady {s : State} (h : fenceReady s = true) : s.hart.xfers.any (fun x => x.state = .running) = false :=
  Bool.eq_false_iff.2 (of_decide_eq_true h).1

theorem fenceEnd_loads {s : State} (h : NoTransfers s) (start : Word) : fenceEnd s 0 start = .complete :=
  (if_neg (Bool.eq_false_iff.1 ((noTransfers_iff s).1 h))).trans (if_pos rfl)

/-- What a fence of writes stands at when the waits of a release of device scope are over. -/
theorem fenceEnd_ready {s : State} {scope : Nat} (h : fenceReady s = true) (hs : scope ≠ 0) (start : Word) :
    fenceEnd s scope start = if scope < 5 then .complete else
      match firstPosted s.hart.posted with
      | none => .complete
      | some p => if (s.hart.posted.any fun q => q.failed) ∨ start.toNat + lrTicks s ≤ s.pkg.dtime.toNat then .linkDown p else .waits :=
  (if_neg (Bool.eq_false_iff.1 (noTransfers_of_fenceReady h))).trans ((if_neg hs).trans (if_neg (not_not.2 h)))

theorem fenceEnd_writes {s : State} {scope : Nat} (h : fenceReady s = true) (hs : scope ≠ 0) (hp : scope < 5 ∨ s.hart.posted = [])
    (start : Word) : fenceEnd s scope start = .complete := by
  rw [fenceEnd_ready h hs]
  obtain hp | hp := hp
  · exact if_pos hp
  · rw [hp]
    exact ite_self _

theorem reportingFence_complete {rd : Reg} {scope : BitVec 3} {s u : State} (h : fenceEnd s scope.toNat (fenceStart s) = .complete)
    (hu : u = if scope = 0 then s else s.writeHome) : ∃ t, reportingFence rd scope s = .next t ∧ WritesOnly u t rd 0 (s.hart.pc + 4) := by
  have hh : u.hart = s.hart := by
    rw [hu]
    split
    · rfl
    · rfl
  obtain ⟨t, ht, hw⟩ := putX_spec u rd 0
  rw [hh] at hw
  refine ⟨t, ?_, hw⟩
  unfold reportingFence
  dsimp only
  rw [h, ← ht, hu]
  rfl

theorem fencesComplete : FencesComplete := by
  intro rd rs1 fm pred succ imm scope s
  refine ⟨fun h => ⟨_, ?_, goesOn_retireAt s _⟩, fun hp hs hw h => ⟨_, ?_, goesOn_retireAt s.writeHome _⟩,
    fun h => ⟨_, ?_, goesOn_retireAt s.writeHome _⟩, fun h => ⟨_, ?_, goesOn_retireAt s _⟩,
    fun h => ⟨_, if_pos h, goesOn_retireAt (s.writeHome.modCore s.hart.core _) _⟩, ?_⟩
  · change (if _ then _ else _ : Out) = _
    split
    · rfl
    · next hn =>
      obtain hp | hs | ⟨ht, h0, h2⟩ := h
      · exact absurd (.inl hp) hn
      · exact absurd (.inr hs) hn
      · have hw : ¬ (wbit pred 0 = true ∨ wbit pred 2 = true) := by
          unfold wbit
          rw [h0, h2]
          exact fun c => c.elim Bool.false_ne_true Bool.false_ne_true
        rw [if_neg hw, if_neg hw, fenceEnd_loads ht]
        rfl
  · have hw' : wbit pred 0 = true ∨ wbit pred 2 = true := hw
    change (if _ then _ else _ : Out) = _
    rw [if_neg (fun c => c.elim hp hs), if_pos hw', if_pos hw', fenceEnd_writes h (by decide) (.inl (by decide))]
    rfl
  · change execFenceTso rd rs1 s = _
    unfold execFenceTso
    rw [fenceEnd_writes h (by decide) (.inl (by decide))]
    rfl
  · exact if_neg (Bool.eq_false_iff.1 ((noTransfers_iff s).1 h))
  · have hc (i : Instr) (hi : exec i s = reportingFence rd scope s) :
        (scope = 0 → NoTransfers s → ∃ t, exec i s = .next t ∧ WritesOnly s t rd 0 (s.hart.pc + 4))
          ∧ (scope ≠ 0 → fenceReady s = true → scope.toNat < 5 ∨ s.hart.posted = [] →
            ∃ t, exec i s = .next t ∧ WritesOnly s.writeHome t rd 0 (s.hart.pc + 4)) := by
      rw [hi]
      refine ⟨fun h0 ht => ?_, fun h0 h hp => ?_⟩
      · exact reportingFence_complete (by rw [h0]; exact fenceEnd_loads ht _) (if_pos h0).symm
      · exact reportingFence_complete (fenceEnd_writes h (fun c => h0 (BitVec.eq_of_toNat_eq c)) hp _) (if_neg h0).symm
    exact forall_mem_cons (hc _ rfl) (forall_mem_cons (hc _ rfl) (List.forall_mem_nil _))

theorem forgetFailed_eq : Hart.forgetFailed = fun h => { h with posted := h.posted.filter (fun q => !q.failed) } :=
  funext fun h => congrArg (fun l => { h with posted := l }) (List.filter_congr fun q _ => by cases q.failed <;> rfl)

theorem qstore_hart (s : State) : s.qstore.hart = s.hart := by
  unfold State.qstore
  split
  · exact (State.uncount_hart ..).trans (State.freshImage_hart s 2)
  · rfl

theorem append_hart (s : State) (q : BitVec 16) (r : QRec) : (s.append q r).hart = s.hart := (State.modQueue_hart ..).trans (qstore_hart s)

theorem postEvent_hart (s : State) (c code : BitVec 8) (handler : BitVec 16) (x10 x11 x12 x13 x14 : Word) :
    (s.postEvent c code handler x10 x11 x12 x13 x14).hart = s.hart := by
  have hf (v : Prop) [Decidable v] (f : Ctx → Ctx) (r : FaultRec) : ((if v then s.modCtx c f else s).postFault c r).hart = s.hart := by
    rw [VectorProofs.postFault_hart]
    split
    · rfl
    · rfl
  unfold State.postEvent
  dsimp only
  refine iteInduction (motive := fun t : State => t.hart = s.hart) (fun _ => rfl) fun _ => ?_
  split
  · exact hf ..
  · refine iteInduction (motive := fun t : State => t.hart = s.hart) (fun _ => ?_) fun _ => ?_
    · exact hf ..
    · exact append_hart ..

theorem postLinkFault_hart (s : State) (c : BitVec 8) (port : BitVec 4) (addr : Word) : (s.postLinkFault c port addr).hart = s.hart :=
  (postEvent_hart ..).trans (VectorProofs.postFault_hart ..)

/-- What a fence reports when a posted write has failed, or not been answered in time (08 R228). -/
theorem reportingFence_linkDown {rd : Reg} {scope : BitVec 3} {s u : State} {p : Posted} (he : fenceEnd s scope.toNat (fenceStart s) = .linkDown p)
    (hu : u = (s.writeHome.postLinkFault s.hart.ctx p.port p.va).withHart Hart.forgetFailed) :
    reportingFence rd scope s = if (u.ctx s.hart.ctx).ftrap then .next (u.takeTrap 0x10 (p.port.setWidth 64) none)
      else u.putX rd (BitVec.ofNat 64 (1 + 256 * p.port.toNat)) := by
  have hc : u.hart.ctx = s.hart.ctx := by
    rw [hu]
    exact (congrArg Hart.ctx (postLinkFault_hart s.writeHome s.hart.ctx p.port p.va) :)
  unfold reportingFence
  dsimp only
  rw [he, Nat.mul_comm, ← Nat.shiftLeft_eq _ 8]
  dsimp only
  rw [← hu, hc]
  rfl

/-- How a system-scope fence stands once a posted write has failed or its limit has passed. -/
theorem fenceEnd_linkDown {s : State} {p : Posted} {start : Word} (h : fenceReady s = true) (hp : firstPosted s.hart.posted = some p)
    (hf : (∃ q ∈ s.hart.posted, q.failed = true) ∨ start.toNat + lrTicks s ≤ s.pkg.dtime.toNat) : fenceEnd s 5 start = .linkDown p := by
  rw [fenceEnd_ready h (by decide), if_neg (by decide), hp]
  exact if_pos (hf.imp_left List.any_eq_true.2)

/-- What completes a fence that reports a lost link. -/
theorem linkDown_reported {o : Out} {rd : Reg} {c : BitVec 8} {u : State} {p : Posted}
    (h : o = if (u.ctx c).ftrap then .next (u.takeTrap 0x10 (p.port.setWidth 64) none) else u.putX rd (BitVec.ofNat 64 (1 + 256 * p.port.toNat))) :
    ((u.ctx c).ftrap = false → ∃ t, o = .next t ∧ WritesOnly u t rd (BitVec.ofNat 64 (1 + 256 * p.port.toNat)) (u.hart.pc + 4))
      ∧ ((u.ctx c).ftrap = true → o = .next (u.takeTrap 0x10 (p.port.setWidth 64) none)) := by
  rw [h]
  refine ⟨fun h => ?_, fun h => if_pos h⟩
  rw [if_neg (Bool.eq_false_iff.1 h)]
  exact putX_spec u rd _

theorem failedFencesReport : FailedFencesReport := by
  intro rd s p h hp hf
  extract_lets u
  have hr := reportingFence_linkDown (rd := rd) (u := u) (scope := 5) (fenceEnd_linkDown h hp (.inl hf)) (congrArg (State.withHart _) forgetFailed_eq.symm)
  clear_value u
  exact forall_mem_cons (linkDown_reported hr) (forall_mem_cons (linkDown_reported hr) (List.forall_mem_nil _))

/-- Settles O16. -/
theorem fencesEnd : Obligations.FencesEnd := ⟨fencesComplete, failedFencesReport⟩

/-! ### PAUSE, VISWAIT and STV -/

theorem onlyRetires_of_eq {h k : Hart} {pc : Word} (x : Vector Word 32) (e : k = { h.retired with x := x, pc := pc }) : OnlyRetires h k pc := by
  subst e
  rfl

theorem pauseAndVisibilityWait : PauseAndVisibilityWait := by
  refine fun rs1 s => ⟨⟨_, rfl, ?_, ?_, ?_⟩, fun h => ⟨_, if_pos h, goesOn_retireAt s _⟩, fun h => if_neg (Nat.not_le.2 h)⟩
  · exact onlyHart_trans (onlyHart_retireAt s _) (onlyHart_withHart _ _)
  · exact onlyRetires_of_eq s.hart.x (congrArg (fun h : Hart => { h with pauseUntil := s.cycles + 32 }) (retireAt_hart s (s.hart.pc + 4)) :)
  · exact (congrArg Hart.x (retireAt_hart s (s.hart.pc + 4)) :)

section
variable {rd rs1 rs2 : Reg} {s s' u : State} {p : Place}

theorem stv_stores (h : Reaches s (s.getX rs1) 8 .store p s') {v : Option Nat} (hw : writePlace s' (s.getX rs1) p (leBytes 8 (s.getX rs2).toNat) = .ok v u) :
    hartStoreV true s (s.getX rs1) (leBytes 8 (s.getX rs2).toNat) = .ok v u := by
  have h' : Reaches s (s.getX rs1) (leBytes 8 (s.getX rs2).toNat).length .store p s' := by rw [leBytes_length]; exact h
  rw [hartStoreV_of_reaches h', hw]

theorem stv_seen (ha : (s.getX rs1).toNat % 8 = 0) (h : Reaches s (s.getX rs1) 8 .store p s') {t : Nat} (hw : writePlace s' (s.getX rs1) p (leBytes 8 (s.getX rs2).toNat) = .ok (some t) u) :
    exec (.stv rd rs1 rs2) s = u.putX rd (BitVec.ofNat 64 t) := by
  refine congrArg (a₂ := Res.ok () (u.setX rd (BitVec.ofNat 64 t)).retire) (Res.finish · s) ((if_neg (not_not.2 ha)).trans ?_)
  rw [stv_stores h hw]
  rfl

theorem stv_sent (ha : (s.getX rs1).toNat % 8 = 0) (h : Reaches s (s.getX rs1) 8 .store p s')
    (hw : writePlace s' (s.getX rs1) p (leBytes 8 (s.getX rs2).toNat) = .ok none u) (hrd : rd ≠ 0)
    (hf : u.hart.posted.any (fun p => p.failed && p.seq + 1 = u.hart.postSeq) = false) :
    exec (.stv rd rs1 rs2) s = .next (u.retire.withHart (fun h => { h with wait := .stv rd none })) := by
  refine congrArg (a₂ := Res.ok () (u.retire.withHart (fun h => { h with wait := .stv rd none }))) (Res.finish · s)
    ((if_neg (not_not.2 ha)).trans ?_)
  rw [stv_stores h hw]
  exact (if_neg (Bool.eq_false_iff.1 hf)).trans (congrArg (Res.ok ()) (if_neg hrd))

end

/-- A hart's write to a class L line, as it leaves for its home (08 R205). -/
noncomputable def leasedWrite (s : State) (pa : Nat) (da : Bool) (data : List Byte) : LWrite :=
  { core := s.hart.core, slot := s.hart.slot, ctx := s.hart.ctx, gang := s.hart.gang, rank := s.hart.rank, seq := s.hart.postSeq
    pa := pa, da := da, data := data, v := 0, performed := false, foreign := false }

/-- The machine after a write to a class L line has left. -/
noncomputable def sentWrite (s : State) (w : LWrite) : State :=
  { s with ltransit := s.ltransit ++ [w] }.withHart (fun h => { h with postSeq := h.postSeq + 1 })

theorem storeVisibleCompletes : StoreVisibleCompletes := by
  intro rd rs1 rs2 s s' ha
  refine ⟨fun pa cls da h hc hwf => ?_, fun pa da h hrd hq => ?_⟩
  · have ht := translates_of_reaches h
    obtain ⟨v, mine, hv, hw⟩ := writePlace_phys (s := s') (va := s.getX rs1) (pa := pa) (da := da) (data := leBytes 8 (s.getX rs2).toNat) hc
    have hsv := onlyTranslates_trans ht hv
    rw [dtime_of_translates ht] at hw
    obtain ⟨t, hp, hwo⟩ := putX_spec ((stored v pa (leBytes 8 (s.getX rs2).toNat).length mine (leBytes 8 (s.getX rs2).toNat)).withHart
      (fun h => h.visible s.pkg.dtime.toNat)) rd s.pkg.dtime
    obtain ⟨ho, hx, hr⟩ := hwo
    have hk := onlyHart_trans (onlyHart_withHart ..) ho
    refine ⟨t, ?_, onlyPuts_of_onlyHart (onlyPuts_stored hsv ..) hk, stores_of_mem (stores_stored hsv hwf _ _ _ _) (mem_of_onlyHart hk), ?_, ?_⟩
    · rw [stv_seen ha h hw, BitVec.ofNat_toNat, BitVec.setWidth_eq, hp]
    · intro r
      rw [hx r, getX_eq (s := s)]
      exact (congrArg Hart.x hsv.2 :)
    · exact hr.trans (congrArg (fun h : Hart => { (h.visible s.pkg.dtime.toNat).retired with x := t.hart.x, pc := h.pc + 4 }) hsv.2)
  · have ht := translates_of_reaches h
    have hs := stv_sent ha h (rfl : _ = Res.ok none (sentWrite s' (leasedWrite s' pa da (leBytes 8 (s.getX rs2).toNat)))) hrd ?_
    · generalize leBytes 8 (s.getX rs2).toNat = data at hs
      have hl : (sentWrite s' (leasedWrite s' pa da data)).ltransit = s.ltransit ++ [leasedWrite s' pa da data] :=
        congrArg (· ++ _) (congrArg State.ltransit ht.1.1 :)
      have hx : (sentWrite s' (leasedWrite s' pa da data)).hart.x = s.hart.x := (congrArg Hart.x ht.2 :)
      have hc : (sentWrite s' (leasedWrite s' pa da data)).hart.pc = s.hart.pc := (congrArg Hart.pc ht.2 :)
      refine ⟨_, leasedWrite s' pa da data, hs, ?_, rfl, rfl, ?_, ?_, ?_, rfl⟩
      · exact (State.retireAt_ltransit ..).trans hl
      · exact (State.retireAt_mem ..).trans (mem_of_translates ht :)
      · exact (congrArg Hart.x (retireAt_hart _ _)).trans hx
      · exact (congrArg Hart.pc (retireAt_hart _ _)).trans (congrArg (· + 4) hc)
    · have hp : s'.hart.posted = s.hart.posted := (congrArg Hart.posted ht.2 :)
      have hn : s'.hart.postSeq = s.hart.postSeq := (congrArg Hart.postSeq ht.2 :)
      change s'.hart.posted.any (fun p => p.failed && p.seq + 1 = s'.hart.postSeq + 1) = false
      rw [hp, hn, List.any_eq_false]
      exact fun p hp c => hq p hp (of_decide_eq_true (Bool.and_eq_true_iff.1 c).2)

/-- Settles O17. -/
theorem visibilityAndPauseComplete : Obligations.VisibilityAndPauseComplete := ⟨pauseAndVisibilityWait, storeVisibleCompletes⟩

end Sys2Proof.ScalarProofs
end

section
/-!
PROOFS. SFENCE.T, TMARK, CTRIG and HWAIT (13 R362 to R365).
-/
namespace Sys2Proof.ScalarProofs
open Sys2Proof Sys2Proof.Machine Sys2Proof.Claims

/-! ### The fence of translations -/

theorem tget_map {α β : Type} (f : Nat × α → β) (t : Table α) (n : Nat) :
    tget (t.map (fun p => (p.1, f p)) : Table β) n = (tget t n).map (fun a => f (n, a)) := by
  induction t with
  | nil => rfl
  | cons p t ih =>
    obtain ⟨k, a⟩ := p
    simp only [List.map_cons, tget]
    split
    · next h => rw [h]; rfl
    · exact ih

theorem forgetWalks_die (s : State) (core : BitVec 8) (scope : Nat) (c : BitVec 8) (d : BitVec 2) :
    (s.forgetWalks core scope c).die d = if 4 ≤ scope ∨ d.toNat = (dieOf core).toNat then (s.die d).forget c else s.die d := by
  unfold State.die State.forgetWalks tgetD
  dsimp only
  rw [tget_map (fun (d : Nat × Die) => if 4 ≤ scope ∨ d.1 = (dieOf core).toNat then d.2.forget c else d.2)]
  cases tget s.dies d.toNat with
  | none => exact (ite_self (Die.empty)).symm
  | some v => rfl

/-- The page that a fence names covers an entry. -/
def Covered (page : Option Nat) (e : TlbEntry) : Prop := ∀ va ∈ page, va >>> e.bits = e.base >>> e.bits

theorem covered_iff (s : State) (rs1 : Reg) (e : TlbEntry) :
    Covered (if rs1 = 0 then none else some ((wfield (s.getX rs1) 12 36) <<< 12)) e ↔ fenceCovers s rs1 e := by
  unfold Covered fenceCovers
  by_cases h : rs1 = 0
  · rw [if_pos h]
    exact ⟨fun _ => .inl h, fun _ _ hv => nomatch hv⟩
  · have e1 : wfield (s.getX rs1) 12 36 <<< 12 = (s.getX rs1).toNat % 2 ^ 48 / 4096 * 4096 := by
      rw [wfield, nfield, Nat.shiftLeft_eq, Nat.shiftRight_eq_div_pow]
      exact congrArg (· * 4096) (Nat.mod_mul_right_div_self _ (2 ^ 12) (2 ^ 36)).symm
    rw [if_neg h, e1, ← Nat.shiftRight_eq_div_pow, ← Nat.shiftRight_eq_div_pow]
    exact ⟨fun k => .inr (k _ rfl), fun k va hv => Option.some.inj hv ▸ k.resolve_left h⟩

theorem die_of_cluster : ∀ core : BitVec 8, ((clusterOf core).setWidth 8).toNat / 8 = (dieOf core).toNat := by decide

/-- An entry is near a core: one of its own, or a second-level one of its cluster. -/
def OwnEntry (core : BitVec 8) (e : TlbEntry) : Prop := if e.second then e.unit = (clusterOf core).setWidth 8 else e.unit = core

/-- A fence of a scope reaches the unit of an entry (13 R363). -/
noncomputable def unitReached (core : BitVec 8) (scope : Nat) (e : TlbEntry) : Bool :=
  if e.second then
    (if scope < 3 then e.unit = (clusterOf core).setWidth 8
     else if scope = 3 then e.unit.toNat / 8 = (dieOf core).toNat
     else true)
  else if scope < 2 then e.unit = core
  else if scope = 2 then clusterOf e.unit = clusterOf core
  else if scope = 3 then dieOf e.unit = dieOf core
  else true

theorem unitReached_of_own {core : BitVec 8} {e : TlbEntry} (h : OwnEntry core e) (scope : Nat) : unitReached core scope e = true := by
  unfold OwnEntry at h
  unfold unitReached
  cases hs : e.second
  · rw [hs] at h
    obtain h : e.unit = core := h
    simp only [h, Bool.false_eq_true, if_false, decide_true, ite_self]
  · rw [hs] at h
    obtain h : e.unit = (clusterOf core).setWidth 8 := h
    simp only [h, die_of_cluster, decide_true, if_true, ite_self]

theorem sfenceDrops_iff (core : BitVec 8) (scope : Nat) (page : Option Nat) (keepG : Bool) (c : BitVec 8) (e : TlbEntry) :
    sfenceDrops core scope page keepG c e = true
      ↔ ((e.ctx = c ∧ unitReached core scope e = true) ∧ ¬ (keepG = true ∧ wbit e.leaf 5 = true)) ∧ Covered page e := by
  change (decide (e.ctx = c) && unitReached core scope e && !(keepG && wbit e.leaf 5) && _) = true ↔ _
  rw [Bool.and_eq_true, Bool.and_eq_true, Bool.and_eq_true, decide_eq_true_eq, Bool.not_eq_true', ← Bool.not_eq_true, Bool.and_eq_true]
  refine and_congr Iff.rfl ?_
  cases page with
  | none => exact ⟨fun _ _ hv => (nomatch hv), fun _ => rfl⟩
  | some va => exact decide_eq_true_iff.trans ⟨fun k w hw => Option.some.inj hw ▸ k, fun k => k va rfl⟩

/-- The machine after SFENCE.T has discarded what it names. -/
noncomputable def fenced (s : State) (rs1 rs2 : Reg) : State :=
  let u := s.writeHome.forgetWalks s.hart.core (wfield (s.getX rs2) 0 3) s.hart.ctx
  { u with tlb := u.tlb.filter (fun t => ¬ sfenceDrops s.hart.core (wfield (s.getX rs2) 0 3)
      (if rs1 = 0 then none else some ((wfield (s.getX rs1) 12 36) <<< 12)) (wbit (s.getX rs2) 3) s.hart.ctx t) }

theorem sfenceT_next {s : State} {rs1 rs2 : Reg} (hs : s.hart.sup = true) (hk : (s.getX rs2).toNat % 8 < 6) (hd : s.hart.disp = [])
    (hn : seenAll s = true) : exec (.sfenceT rs1 rs2) s = .next (fenced s rs1 rs2).retire := by
  refine congrArg (a₂ := Res.ok () (fenced s rs1 rs2).retire) (Res.finish · s) ((if_neg ?_).trans ((if_neg ?_).trans ((if_neg ?_).trans rfl)))
  · exact fun c => c.elim (fun c => c hs) (Nat.not_le.2 hk)
  · rw [hd]; exact fun c => c rfl
  · exact not_not.2 hn

theorem mem_fenced {s : State} {rs1 rs2 : Reg} {e : TlbEntry} : e ∈ (fenced s rs1 rs2).tlb ↔ e ∈ s.tlb
    ∧ ¬ (((e.ctx = s.hart.ctx ∧ unitReached s.hart.core (wfield (s.getX rs2) 0 3) e = true)
      ∧ ¬ ((s.getX rs2).getLsbD 3 = true ∧ wbit e.leaf 5 = true)) ∧ fenceCovers s rs1 e) := by
  refine List.mem_filter.trans (and_congr Iff.rfl ?_)
  rw [decide_eq_true_eq, sfenceDrops_iff, covered_iff]
  rfl

theorem fenced_die (s : State) (rs1 rs2 : Reg) (d : BitVec 2) :
    (fenced s rs1 rs2).die d = if 4 ≤ wfield (s.getX rs2) 0 3 ∨ d.toNat = (dieOf s.hart.core).toNat then (s.die d).forget s.hart.ctx else s.die d :=
  forgetWalks_die ..

theorem translationFenceCompletes : TranslationFenceCompletes := by
  intro rs1 rs2 s hs hk hd hn keepG
  have ht : (fenced s rs1 rs2).retire.tlb = (fenced s rs1 rs2).tlb := State.retireAt_tlb ..
  have hdie : (fenced s rs1 rs2).retire.dies = (fenced s rs1 rs2).dies := State.retireAt_dies ..
  refine ⟨_, sfenceT_next hs hk hd hn, ?_, fun e he => ?_, fun e he h => ?_, fun e he hc hu => ?_, fun w hw => ?_, fun d => ?_⟩
  · rw [ht, hdie]
    exact goesOn_retireAt (fenced s rs1 rs2) _
  · rw [ht] at he
    exact (mem_fenced.1 he).1
  · rw [ht]
    refine mem_fenced.2 ⟨he, fun c => ?_⟩
    obtain ⟨⟨⟨hc, -⟩, hg⟩, hp⟩ := c
    exact h.elim (fun k => k hc) (fun k => k.elim hg (fun k => k hp))
  · rw [ht] at he
    have h := (mem_fenced.1 he).2
    by_contra k
    obtain ⟨k1, k2⟩ := not_or.1 k
    exact h ⟨⟨⟨hc, unitReached_of_own hu _⟩, k1⟩, not_not.1 k2⟩
  · rw [die_of_dies hdie, fenced_die, if_pos (.inr rfl)] at hw
    exact of_decide_eq_true (List.mem_filter.1 hw).2
  · rw [die_of_dies hdie, fenced_die]
    split
    · rfl
    · rfl

/-! ### Marks and triggers -/

theorem marksAndTriggersComplete : MarksAndTriggersComplete := by
  refine ⟨fun rs1 s => ⟨_, rfl, ?_⟩, fun rs1 s hs => ⟨_, if_pos hs, goesOn_retireAt (s.setTrigger _) _⟩⟩
  have h := goesOn_retireAt (s.trace 4 (s.getX rs1)) ((s.trace 4 (s.getX rs1)).hart.pc + 4)
  rw [trace_hart] at h
  unfold State.retire
  rw [trace_hart]
  exact h

/-! ### HWAIT -/

/-- What HWAIT answers, once it has looked at its word (13 R362): none while it goes on waiting. -/
noncomputable def hwaitAnswer (u : State) (v : Option Nat) (expect start : Word) : Option Word :=
  if v.any (fun n => n ≠ expect.toNat) then some 0 else if u.hart.interruptible then some 1
  else if 2 ^ 20 ≤ (u.pkg.dtime - start).toNat then some 2 else none

theorem hwaitLook_none (s : State) (expect start : Word) : hwaitLook s none expect start = .ok (hwaitAnswer s none expect start) s := by
  unfold hwaitLook hwaitAnswer
  rw [apply_ite (Res.ok · s), apply_ite (Res.ok · s), apply_ite (Res.ok · s)]
  rfl

theorem hwaitLook_some {w u : State} {a expect start : Word} {b : List Byte} (h : hartLoad w a 8 = .ok b u) :
    hwaitLook w (some a) expect start = .ok (hwaitAnswer u (some (leNat b)) expect start) u := by
  unfold hwaitLook hwaitAnswer
  rw [apply_ite (Res.ok · u), apply_ite (Res.ok · u), apply_ite (Res.ok · u)]
  dsimp only
  rw [h]
  simp only [Option.any_some, decide_eq_true_eq]
  rfl

/-- The state of a hart that goes on waiting in HWAIT. -/
noncomputable def hwaits (s : State) (rd rs1 rs2 : Reg) : State :=
  { s with hart := { s.hart with wait := .hwait (if rs1 = 0 then none else some (s.getX rs1)) (s.getX rs2) rd (hwaitStart s) } }

theorem hwaitAddr_of_near {s w : State} {a : Word} {p : Place} (ha : a.toNat % 8 = 0) (hr : resolve s s.hart.who a .load = (.ok p, w))
    (hp : p.near = true) : hwaitAddr s a = .ok () w := by
  unfold hwaitAddr
  rw [if_neg (not_not.2 ha), hr]
  exact if_pos hp

section
variable {rd rs1 rs2 : Reg} {s u : State} {v : Option Nat} (h : Looks s rs1 v u) (h0 : rs1 = 0 → rs2 = 0)
include h h0

theorem hwait_ends {r : Word} (hr : hwaitAnswer u v (s.getX rs2) (hwaitStart s) = some r) : exec (.hwait rd rs1 rs2) s = u.putX rd r := by
  refine congrArg (a₂ := Res.ok () (u.setX rd r).retire) (Res.finish · s) ?_
  obtain ⟨h1, rfl, rfl⟩ | ⟨h1, ha, p, w, b, hw, hp, hl, rfl⟩ := h
  · refine (if_pos h1).trans ((if_neg (not_not.2 (h0 h1))).trans ?_)
    change (hwaitLook u none _ _).bind _ = _
    rw [hwaitLook_none, hr]
    rfl
  · refine (if_neg h1).trans ?_
    rw [hwaitAddr_of_near ha hw hp]
    change (hwaitLook w (some _) _ _).bind _ = _
    rw [hwaitLook_some hl, hr]
    rfl

theorem hwait_goes_on (hr : hwaitAnswer u v (s.getX rs2) (hwaitStart s) = none) : exec (.hwait rd rs1 rs2) s = .next (hwaits s rd rs1 rs2) := by
  refine congrArg (a₂ := Res.need (.wait (.hwait (if rs1 = 0 then none else some (s.getX rs1)) (s.getX rs2) rd (hwaitStart s)))) (Res.finish · s) ?_
  obtain ⟨h1, rfl, rfl⟩ | ⟨h1, ha, p, w, b, hw, hp, hl, rfl⟩ := h
  · refine (if_pos h1).trans ((if_neg (not_not.2 (h0 h1))).trans ?_)
    change (hwaitLook u none _ _).bind _ = _
    rw [hwaitLook_none, hr, if_pos h1]
    rfl
  · refine (if_neg h1).trans ?_
    rw [hwaitAddr_of_near ha hw hp, if_neg h1]
    change (hwaitLook w (some _) _ _).bind _ = _
    rw [hwaitLook_some hl, hr]
    rfl

end

theorem hartWaitCompletes : HartWaitCompletes := by
  intro rd rs1 rs2 s u v h h0
  have he {r : Word} (hr : hwaitAnswer u v (s.getX rs2) (hwaitStart s) = some r) :
      ∃ t, exec (.hwait rd rs1 rs2) s = .next t ∧ WritesOnly u t rd r (u.hart.pc + 4) := by
    rw [hwait_ends h h0 hr]
    exact putX_spec u rd r
  have hsame (k : ∀ n, v = some n → n = (s.getX rs2).toNat) : ¬ v.any (fun n => n ≠ (s.getX rs2).toNat) = true := by
    cases v with
    | none => exact Bool.false_ne_true
    | some n => exact fun c => of_decide_eq_true c (k n rfl)
  refine ⟨fun ⟨n, hv, hn⟩ => he (if_pos ?_), fun k hi => he ?_, fun k hi ht => he ?_, fun k hi ht => hwait_goes_on h h0 ?_⟩
  · rw [hv]; exact decide_eq_true hn
  · exact (if_neg (hsame k)).trans (if_pos hi)
  · exact (if_neg (hsame k)).trans ((if_neg (Bool.eq_false_iff.1 hi)).trans (if_pos ht))
  · exact (if_neg (hsame k)).trans ((if_neg (Bool.eq_false_iff.1 hi)).trans (if_neg (Nat.not_le.2 ht)))

/-- Settles O12. -/
theorem marksFencesAndWaitsComplete : Obligations.MarksFencesAndWaitsComplete :=
  ⟨translationFenceCompletes, marksAndTriggersComplete, hartWaitCompletes⟩

end Sys2Proof.ScalarProofs
end

section
/-!
PROOFS. Tickets (13 R357 to R359).
-/
namespace Sys2Proof.ScalarProofs
open Sys2Proof Sys2Proof.Machine Sys2Proof.Claims Sys2Proof.AccessProofs

/-! ### The pairs of counters -/

theorem ticketKey_iff {t : Ticket} {c : BitVec 8} {cl : BitVec 5} {tile : BitVec 20} :
    ticketKey t c cl tile = true ↔ t.ctx = c ∧ t.cl = cl ∧ t.tile = tile := decide_eq_true_iff

theorem ticketKey_self (p : Ticket) : ticketKey p p.ctx p.cl p.tile = true := ticketKey_iff.2 ⟨rfl, rfl, rfl⟩

theorem putTicket_same (s : State) (p : Ticket) :
    (s.putTicket p).tickets.find? (fun t => ticketKey t p.ctx p.cl p.tile) = some p := List.find?_cons_of_pos (ticketKey_self p)

theorem putTicket_other (s : State) (p : Ticket) {c : BitVec 8} {d : BitVec 5} {u : BitVec 20} (h : ¬ (c = p.ctx ∧ d = p.cl ∧ u = p.tile)) :
    (s.putTicket p).tickets.find? (fun t => ticketKey t c d u) = s.tickets.find? (fun t => ticketKey t c d u) := by
  have hp : ¬ ticketKey p c d u = true := fun k => by
    obtain ⟨rfl, rfl, rfl⟩ := ticketKey_iff.1 k
    exact h ⟨rfl, rfl, rfl⟩
  refine (List.find?_cons_of_neg (p := fun t => ticketKey t c d u) hp).trans ?_
  rw [List.find?_filter]
  refine congrArg (List.find? · s.tickets) (funext fun t => ?_)
  by_cases hk : ticketKey t c d u = true
  · have hn : ¬ ticketKey t p.ctx p.cl p.tile = true := fun k => by
      obtain ⟨rfl, rfl, rfl⟩ := ticketKey_iff.1 hk
      exact h (ticketKey_iff.1 k)
    simp [hk, hn]
  · simp [hk]

theorem ticketAt_key (s : State) (cl : BitVec 5) (tile : BitVec 20) : ticketKey (ticketAt s cl tile) s.hart.ctx cl tile = true := by
  unfold ticketAt
  obtain h | ⟨p, h⟩ := Option.eq_none_or_eq_some (s.tickets.find? fun t => ticketKey t s.hart.ctx cl tile)
  · rw [h]
    exact ticketKey_iff.2 ⟨rfl, rfl, rfl⟩
  · rw [h]
    exact List.find?_some (p := fun t => ticketKey t s.hart.ctx cl tile) h

/-- The pair that TKDONE serves is one of the current context and the tile it names (13 R359). -/
theorem heldPair_key (s : State) (tile : BitVec 20) : ticketKey (heldPair s tile) s.hart.ctx (heldPair s tile).cl tile = true := by
  have hm : ∀ p ∈ s.tickets.filter (fun t => s.hart.holds t && t.tile = tile), ticketKey p s.hart.ctx p.cl tile = true := by
    intro p hp
    obtain ⟨hh, ht⟩ := Bool.and_eq_true_iff.1 (List.mem_filter.1 hp).2
    exact ticketKey_iff.2 ⟨of_decide_eq_true (Bool.and_eq_true_iff.1 hh).1, rfl, of_decide_eq_true ht⟩
  unfold heldPair
  generalize s.tickets.filter (fun t => s.hart.holds t && t.tile = tile) = mine at hm
  dsimp only
  obtain h | ⟨p, h⟩ := Option.eq_none_or_eq_some (mine.find? fun t => t.cl = clusterOf s.hart.core)
  · rw [h]
    cases mine with
    | nil =>
      have hk := ticketAt_key s (clusterOf s.hart.core) tile
      exact ticketKey_iff.2 ⟨(ticketKey_iff.1 hk).1, rfl, (ticketKey_iff.1 hk).2.2⟩
    | cons p ps => exact hm p List.mem_cons_self
  · rw [h]
    exact hm p (List.mem_of_find?_eq_some h)

/-- What putting one pair of the current context and a tile leaves of the counters. -/
theorem tickets_of_put {s t : State} {p : Ticket} {cl : BitVec 5} {tile : BitVec 20} (hp : ticketKey p s.hart.ctx cl tile = true)
    (ht : t.tickets = (s.putTicket p).tickets) (hc : t.hart.ctx = s.hart.ctx) : ticketAt t cl tile = p ∧ OtherTickets s t cl tile := by
  obtain ⟨h1, h2, h3⟩ := ticketKey_iff.1 hp
  subst h2 h3
  unfold ticketAt OtherTickets
  rw [hc, ht, ← h1]
  exact ⟨congrArg (Option.getD · _) (putTicket_same s p), fun c d u h => putTicket_other s p h⟩

/-! ### The tile that an instruction names -/

theorem tileOf_eq {s : State} {rs1 : Reg} {tile : BitVec 20} (h : (s.getX rs1).toNat = tile.toNat) : Machine.tileOf s rs1 = some tile := by
  unfold Machine.tileOf
  have ht := tile.isLt
  refine (if_pos ?_).trans (congrArg some (BitVec.eq_of_toNat_eq ?_))
  · unfold wfield nfield
    rw [h, Nat.shiftRight_eq_div_pow, Nat.div_eq_of_lt ht]
    rfl
  · unfold field
    rw [BitVec.extractLsb'_toNat, h]
    exact Nat.mod_eq_of_lt ht

theorem tileOf_none {s : State} {rs1 : Reg} (h : 2 ^ 20 ≤ (s.getX rs1).toNat) : Machine.tileOf s rs1 = none := by
  refine if_neg fun e => ?_
  unfold wfield nfield at e
  rw [Nat.shiftRight_eq_div_pow, Nat.mod_eq_of_lt (b := 2 ^ 44) (Nat.div_lt_of_lt_mul (s.getX rs1).isLt)] at e
  exact (Nat.div_pos h (Nat.two_pow_pos 20)).ne' e

/-! ### The instructions -/

theorem needPair_room {s : State} (h : ticketsFull s = false) (tile : BitVec 20) : needPair s tile = some s :=
  if_pos (Or.inr (Bool.eq_false_iff.1 h))

theorem mem_held (held : List (BitVec 20)) (tile u : BitVec 20) :
    u ∈ (if tile ∈ held then held else held ++ [tile]) ↔ u = tile ∨ u ∈ held := by
  by_cases h : tile ∈ held
  · rw [if_pos h]
    exact ⟨Or.inr, fun k => k.elim (· ▸ h) id⟩
  · rw [if_neg h, List.mem_append, List.mem_singleton, or_comm]

theorem retire_tickets (s : State) : s.retire.tickets = s.tickets := by
  unfold State.retire State.retireAt
  simp

theorem setX_tickets (s : State) (rd : Reg) (v : Word) : (s.setX rd v).tickets = s.tickets := by simp

theorem tkget_completes {rd rs1 : Reg} {s : State} {tile : BitVec 20} (h : (s.getX rs1).toNat = tile.toNat) (hr : ticketsFull s = false) :
    let p := ticketOf s tile
    ∃ t, exec (.tkget rd rs1) s = .next t ∧ WritesOnly { s with tickets := t.tickets } t rd (p.t.setWidth 64) (s.hart.pc + 4)
      ∧ ticketOf t tile = { p with t := p.t + 1 } ∧ OtherTickets s t (clusterOf s.hart.core) tile := by
  intro p
  obtain ⟨t, ht, hw⟩ := putX_spec (s.putTicket { p with t := p.t + 1 }) rd (p.t.setWidth 64)
  have hp : ticketKey { p with t := p.t + 1 } s.hart.ctx (clusterOf s.hart.core) tile = true := ticketAt_key s _ tile
  have htk : t.tickets = (s.putTicket { p with t := p.t + 1 }).tickets := by
    rw [← Host.Outcome.next.inj ht, retire_tickets, setX_tickets]
  obtain ⟨-, -, hret⟩ := id hw
  have hc : t.hart.ctx = s.hart.ctx := (congrArg Hart.ctx (show t.hart = _ from hret) :)
  have hcore : t.hart.core = s.hart.core := (congrArg Hart.core (show t.hart = _ from hret) :)
  obtain ⟨hat, hot⟩ := tickets_of_put hp htk hc
  refine ⟨t, Eq.trans ?_ ht, ?_, ?_, hot⟩
  · change execTkget rd rs1 s = _
    unfold execTkget
    rw [tileOf_eq h]
    dsimp only
    rw [needPair_room hr]
    rfl
  · rw [htk]
    exact hw
  · unfold ticketOf
    rw [hcore]
    exact hat

theorem execTkwait_eq {rs1 rs2 : Reg} {s : State} {tile : BitVec 20} (h : (s.getX rs1).toNat = tile.toNat) :
    let p := ticketOf s tile
    let k : BitVec 32 := (s.getX rs2).setWidth 32
    exec (.tkwait rs1 rs2) s = Res.finish (if (p.t - p.s).toNat ≤ (k - p.s).toNat then .trap 0x11 (s.getX rs1)
      else if p.s = k then .ok () (s.grantTile (clusterOf s.hart.core) tile)
      else .need (.wait (.ticket tile k (clusterOf s.hart.core)))) s := by
  intro p k
  have hk : field (s.getX rs2) 0 32 = k := BitVec.eq_of_toNat_eq rfl
  change execTkwait rs1 rs2 s = _
  unfold execTkwait
  rw [tileOf_eq h]
  dsimp only
  rw [hk]

theorem sub_self_toNat {w : Nat} (a : BitVec w) : (a - a).toNat = 0 := by rw [BitVec.sub_self]; rfl

theorem grantTile_at (s : State) (cl : BitVec 5) (tile : BitVec 20) :
    let t := s.grantTile cl tile
    GoesOn { s with tickets := t.tickets, hart := { s.hart with held := t.hart.held } } t (s.hart.pc + 4)
      ∧ (∀ u, u ∈ t.hart.held ↔ u = tile ∨ u ∈ s.hart.held)
      ∧ ticketAt t cl tile = { ticketAt s cl tile with holder := some (s.hart.gang, s.hart.rank) } ∧ OtherTickets s t cl tile
      ∧ t.hart.core = s.hart.core := by
  intro t
  have hp : ticketKey { ticketAt s cl tile with holder := some (s.hart.gang, s.hart.rank) } s.hart.ctx cl tile = true := ticketAt_key s _ tile
  have htk : t.tickets = (s.putTicket { ticketAt s cl tile with holder := some (s.hart.gang, s.hart.rank) }).tickets := retire_tickets _
  have hh : t.hart = _ := retireAt_hart _ _
  have hheld : t.hart.held = if tile ∈ s.hart.held then s.hart.held else s.hart.held ++ [tile] := (congrArg Hart.held hh :)
  obtain ⟨hat, hot⟩ := tickets_of_put hp htk (congrArg Hart.ctx hh :)
  refine ⟨?_, fun u => ?_, hat, hot, (congrArg Hart.core hh :)⟩
  · rw [htk, hheld]
    exact goesOn_retireAt _ _
  · rw [hheld]
    exact mem_held _ _ _

theorem grantTile_spec (s : State) (tile : BitVec 20) :
    let p := ticketOf s tile
    let t := s.grantTile (clusterOf s.hart.core) tile
    GoesOn { s with tickets := t.tickets, hart := { s.hart with held := t.hart.held } } t (s.hart.pc + 4)
      ∧ (∀ u, u ∈ t.hart.held ↔ u = tile ∨ u ∈ s.hart.held)
      ∧ ticketOf t tile = { p with holder := some (s.hart.gang, s.hart.rank) } ∧ OtherTickets s t (clusterOf s.hart.core) tile := by
  intro p t
  obtain ⟨hg, hheld, hat, hot, hcore⟩ := grantTile_at s (clusterOf s.hart.core) tile
  refine ⟨hg, hheld, ?_, hot⟩
  unfold ticketOf
  rw [hcore]
  exact hat

theorem doneTile_spec (s : State) (tile : BitVec 20) :
    let q := heldPair s tile
    let t := (s.doneTile tile).retire
    GoesOn { s with tickets := t.tickets, hart := { s.hart with held := t.hart.held } } t (s.hart.pc + 4)
      ∧ t.hart.held = (if ∃ r ∈ t.tickets, s.hart.holds r = true ∧ r.tile = tile then s.hart.held else s.hart.held.filter (· ≠ tile))
      ∧ ticketAt t q.cl tile = { q with s := q.s + 1, holder := none } ∧ OtherTickets s t q.cl tile := by
  intro q t
  have hp : ticketKey { q with s := q.s + 1, holder := none } s.hart.ctx q.cl tile = true := heldPair_key s tile
  have htk : t.tickets = (s.putTicket { q with s := q.s + 1, holder := none }).tickets := retire_tickets _
  have hh : t.hart = _ := retireAt_hart _ _
  have hheld : t.hart.held = if t.tickets.any (fun r => s.hart.holds r && r.tile = tile) then s.hart.held
      else s.hart.held.filter (· ≠ tile) := by
    rw [htk]
    exact (congrArg Hart.held hh :)
  refine ⟨?_, ?_, tickets_of_put hp htk (congrArg Hart.ctx hh :)⟩
  · have hg := goesOn_retireAt (s.doneTile tile) (s.hart.pc + 4)
    rw [hheld, htk]
    exact hg
  · rw [hheld]
    refine if_congr ?_ rfl rfl
    rw [List.any_eq_true]
    exact exists_congr fun r => and_congr_right fun _ => by rw [Bool.and_eq_true, decide_eq_true_iff]

theorem execTkdone_eq {rs1 : Reg} {s : State} {tile : BitVec 20} (h : (s.getX rs1).toNat = tile.toNat) :
    exec (.tkdone rs1) s = Res.finish (if tile ∈ s.hart.held then released s (fun s => .ok () (s.doneTile tile).retire)
      else .trap 0x11 (s.getX rs1)) s := by
  change execTkdone rs1 s = _
  unfold execTkdone
  rw [tileOf_eq h]

theorem servedTicketsComplete : ServedTicketsComplete := by
  intro rd rs1 rs2 s tile h
  refine ⟨tkget_completes h, fun hk hn => ⟨_, ?_, grantTile_spec s tile⟩, fun hlt hn => ?_, fun hle => ?_,
    fun hm hf => ⟨_, ?_, doneTile_spec s.writeHome tile⟩, fun hm => ?_⟩
  · rw [execTkwait_eq h]
    have hpos : ¬ ((ticketOf s tile).t - (ticketOf s tile).s).toNat ≤ ((s.getX rs2).setWidth 32 - (ticketOf s tile).s).toNat := by
      rw [← hk, sub_self_toNat]
      intro hz
      exact hn (sub_eq_zero.1 (BitVec.eq_of_toNat_eq (Nat.le_zero.1 hz)))
    exact congrArg (Res.finish · s) ((if_neg hpos).trans (if_pos hk))
  · rw [execTkwait_eq h]
    exact congrArg (Res.finish · s) ((if_neg (Nat.not_le.2 hlt)).trans (if_neg hn))
  · rw [execTkwait_eq h]
    exact congrArg (Res.finish · s) (if_pos hle)
  · rw [execTkdone_eq h]
    exact congrArg (Res.finish · s) ((if_pos hm).trans (if_pos hf))
  · rw [execTkdone_eq h]
    exact congrArg (Res.finish · s) (if_neg hm)

theorem ticketFaults : TicketFaults := by
  refine fun rd rs1 rs2 s => ⟨fun h => ?_, fun tile h hn => ?_⟩
  · have ht := tileOf_none (s := s) (rs1 := rs1) h
    refine List.forall_mem_cons.2 ⟨?_, List.forall_mem_cons.2 ⟨?_, List.forall_mem_singleton.2 ?_⟩⟩
    · change execTkget rd rs1 s = _
      unfold execTkget
      rw [ht]
      rfl
    · change execTkwait rs1 rs2 s = _
      unfold execTkwait
      rw [ht]
      rfl
    · change execTkdone rs1 s = _
      unfold execTkdone
      rw [ht]
      rfl
  · change execTkget rd rs1 s = _
    unfold execTkget
    rw [tileOf_eq h]
    dsimp only
    rw [hn]
    rfl

/-- Settles O18: each instruction by the branch its pair of counters takes; the pair it puts keeps its key, so that it is found again and no
other is touched. -/
theorem ticketsComplete : Obligations.TicketsComplete := ⟨servedTicketsComplete, ticketFaults⟩

end Sys2Proof.ScalarProofs
end

section
/-!
PROOFS. The atomic instructions, LR and SC at local memory outside class L (13 R344, 09 R245).
-/
namespace Sys2Proof.ScalarProofs
open Sys2Proof Sys2Proof.Machine Sys2Proof.Claims Sys2Proof.AccessProofs Sys2Proof.VectorProofs

/-! ### What a read-modify-write does at its place -/

theorem onlyTranslates_letGo (a : AmoBits) (s : State) : OnlyTranslates s (letGo a s) := by
  unfold letGo
  refine iteInduction (motive := OnlyTranslates s) (fun _ => ?_) (fun _ => onlyTranslates_refl s)
  unfold State.writeHome
  exact onlyTranslates_of rfl rfl

theorem sauq_of_homeFree {s : State} {pa : Nat} (h : homeFree s pa) : s.sauq.any (fun w => w.line = pa / 128) = false :=
  List.any_eq_false.2 fun w hw e => h w hw (of_decide_eq_true e)

theorem homeFree_of_translates {s u : State} (h : OnlyTranslates s u) {pa : Nat} (hf : homeFree s pa) : homeFree u pa := by
  unfold homeFree
  rw [show u.sauq = s.sauq from (congrArg State.sauq h.1.1 :)]
  exact hf

/-- A read-modify-write of local memory outside class L, by what it answers and stores. -/
theorem rmwPlace_phys {s : State} {va : Word} {pa : Nat} {cls : BitVec 2} {da : Bool} {r : Rmw} {o : Option Nat} {ret : Nat} (hc : cls ≠ 1)
    (hp : poisoned s pa r.bytes = false) (hf : homeFree s pa) (ha : r.act (memNat s.mem pa r.bytes) = (o, ret)) :
    ∃ v mine, OnlyTranslates s v ∧ rmwPlace s va (.phys pa cls da) r = .ok ret (o.elim v fun x =>
      (stored v pa r.bytes mine (leBytes r.bytes x)).withHart (fun h => h.visible s.pkg.dtime.toNat)) := by
  obtain ⟨w, hw⟩ : ∃ w, w = (s.scrubbed pa r.bytes).atHome (some (dieOf s.hart.core)) pa r.bytes da true := ⟨_, rfl⟩
  have ht : OnlyTranslates s w := hw ▸ onlyTranslates_trans (onlyTranslates_scrubbed s pa r.bytes) (atHome_frame ..)
  refine ⟨w.uncount (homeOf pa da).1 3 1, w.hart.who.owns w.fab.devid, onlyTranslates_trans ht (onlyTranslates_uncount ..), ?_⟩
  unfold rmwPlace
  dsimp only
  rw [if_neg hc, hp, sauq_of_homeFree hf]
  simp only [Bool.false_eq_true, if_false, ← hw]
  unfold State.sauPerform
  rw [ha, mem_of_translates ht, ha]
  cases o with
  | none => rfl
  | some x => rfl

/-! ### Register and links once the access is done -/

theorem onlyPuts_of_translates {s v : State} (h : OnlyTranslates s v) : OnlyPuts s v := by
  obtain ⟨e, hc, hd, hp⟩ := h.1
  refine ⟨?_, congrArg (List.map _) (congrArg State.linkTable e :), fun g hg => (congrArg State.poison e :) ▸ hg⟩
  have hm : { v with mem := s.mem, poison := s.poison, linkTable := s.linkTable } = v := by rw [e]
  rw [hm]
  exact h.1

/-- What changing the links and the hart beside adds to an access. -/
theorem onlyPuts_links {s w t : State} {l : List LinkEntry} {k : Hart} (h : OnlyPuts s w) (ht : OnlyHart { w with linkTable := l, hart := k } t) :
    OnlyPuts s { t with linkTable := s.linkTable } := by
  obtain ⟨hl, -, hp⟩ := h
  obtain ⟨e, hc⟩ := ht
  refine ⟨?_, rfl, ?_⟩
  · refine onlyLooks_trans hl (onlyLooks_of_onlyHart ⟨?_, hc⟩)
    exact congrArg (fun x : State => { x with mem := s.mem, poison := s.poison, linkTable := s.linkTable }) e
  · exact (congrArg State.poison e :) ▸ hp

theorem onlyLooks_links {s w t : State} {l : List LinkEntry} {k : Hart} (h : OnlyTranslates s w)
    (ht : OnlyHart { w with linkTable := l, hart := k } t) : OnlyLooks s { t with linkTable := s.linkTable } := by
  have hw : { w with linkTable := s.linkTable } = w := by rw [← show w.linkTable = s.linkTable from (congrArg State.linkTable h.1.1 :)]
  obtain ⟨e, hc⟩ := ht
  refine onlyLooks_trans h.1 (onlyLooks_of_onlyHart ⟨?_, hc⟩)
  exact (congrArg (fun x : State => { x with linkTable := s.linkTable }) e).trans
    (congrArg (fun x : State => { x with hart := t.hart, cores := t.cores }) hw)

theorem onlyHart_writeBack (s : State) (rd : Reg) (v : Word) : OnlyHart s (s.setX rd v).retire :=
  onlyHart_trans (onlyHart_setX s rd v) (retire_onlyHart _)

theorem hart_writeBack (s : State) (rd : Reg) (v : Word) :
    OnlyRetires s.hart (s.setX rd v).retire.hart (s.hart.pc + 4) ∧ Writes s (s.setX rd v).retire rd v := by
  obtain ⟨t, ht, -, hw, hr⟩ := putX_spec s rd v
  rw [Host.Outcome.next.inj ht]
  exact ⟨hr, hw⟩

theorem writes_of_x {s u t : State} {rd : Reg} {v : Word} (h : Writes u t rd v) (e : u.hart.x = s.hart.x) : Writes s t rd v :=
  fun r => (h r).trans (congrArg (ite _ _) (getX_eq e r))

theorem storeRetires_of_onlyRetires {h u k : Hart} {n : Nat} {ls : List TlbEntry} (e : u = { h with lookups := ls }.visible n)
    (r : OnlyRetires u k (h.pc + 4)) : StoreRetires { h with x := k.x } k n := by
  subst e
  exact r

/-- A store at a reached place, once it is visible. -/
theorem storedVisible {s v w : State} (h : OnlyTranslates s v) (hwf : Memory.wf s.mem = true) {pa n : Nat} {mine : LinkEntry → Bool}
    {data : List Byte} (hw : w = (stored v pa n mine data).withHart (fun h => h.visible s.pkg.dtime.toNat)) :
    OnlyPuts s w ∧ Stores s w pa data ∧ w.hart = { s.hart with lookups := v.hart.lookups }.visible s.pkg.dtime.toNat
      ∧ w.fab.devid = s.fab.devid := by
  have hk : OnlyHart (stored v pa n mine data) w := hw ▸ onlyHart_withHart ..
  subst hw
  exact ⟨onlyPuts_of_onlyHart (onlyPuts_stored h ..) hk, stores_of_mem (stores_stored h hwf pa n mine data) (mem_of_onlyHart hk),
    congrArg (Hart.visible · _) h.2, (congrArg (fun x : State => x.fab.devid) h.1.1 :)⟩

/-- What the write-back after a store at a reached place leaves. -/
theorem storeBack {s v w t : State} (h : OnlyTranslates s v) (hwf : Memory.wf s.mem = true) {pa n : Nat} {mine : LinkEntry → Bool}
    {data : List Byte} (hw : w = (stored v pa n mine data).withHart (fun h => h.visible s.pkg.dtime.toNat)) (rd : Reg) (x : Word)
    (ht : t = (w.setX rd x).retire) :
    OnlyPuts s t ∧ Stores s t pa data ∧ Writes s t rd x ∧ StoreRetires { s.hart with x := t.hart.x } t.hart s.pkg.dtime.toNat := by
  obtain ⟨hp, hs, hh, -⟩ := storedVisible h hwf hw
  have hk : OnlyHart w t := ht ▸ onlyHart_writeBack w rd x
  obtain ⟨hr, hx⟩ := hart_writeBack w rd x
  rw [← ht, show w.hart.pc = s.hart.pc from (congrArg Hart.pc hh :)] at hr
  rw [← ht] at hx
  exact ⟨onlyPuts_of_onlyHart hp hk, stores_of_mem hs (mem_of_onlyHart hk), writes_of_x hx (congrArg Hart.x hh :), storeRetires_of_onlyRetires hh hr⟩

/-! ### The atomic instructions -/

/-- A row of the atomics: its instruction is a read-modify-write of a function code, whose operation is the row's. -/
def AmoRow (p : (Reg → Reg → Reg → AmoBits → Instr) × (Nat → Nat → Nat → Nat)) : Prop :=
  ∃ code, (∀ rd rs1 rs2 a s, exec (p.1 rd rs1 rs2 a) s = scalarAmo code rd rs1 rs2 a s)
    ∧ ∀ w x y, 0 < w → x < 2 ^ w → intRmw code w x y = p.2 w x (y % 2 ^ w)

theorem signedMin_eq {w x y : Nat} (hw : 0 < w) (hx : x < 2 ^ w) (hy : y < 2 ^ w) :
    (if sextN w y < sextN w x then y else x) = if signed w x ≤ signed w y then x else y := by
  rw [sextN_eq_signed hw hx, sextN_eq_signed hw hy, ← ite_not]
  exact if_congr Int.not_lt rfl rfl

theorem signedMax_eq {w x y : Nat} (hw : 0 < w) (hx : x < 2 ^ w) (hy : y < 2 ^ w) :
    (if sextN w x < sextN w y then y else x) = if signed w x < signed w y then y else x := by
  rw [sextN_eq_signed hw hx, sextN_eq_signed hw hy]

theorem min_eq_lt (x y : Nat) : (if y < x then y else x) = min x y := by
  rw [Nat.min_def, ← ite_not]
  exact if_congr Nat.not_lt rfl rfl

theorem max_eq_lt (x y : Nat) : (if x < y then y else x) = max x y := by
  rw [Nat.max_def]
  obtain h | h | h := Nat.lt_trichotomy x y
  · rw [if_pos h, if_pos h.le]
  · rw [h, ite_self, ite_self]
  · rw [if_neg h.asymm, if_neg h.not_ge]

theorem amoRow {c : Reg → Reg → Reg → AmoBits → Instr} {f : Nat → Nat → Nat → Nat} (code : Nat)
    (he : ∀ rd rs1 rs2 a s, exec (c rd rs1 rs2 a) s = scalarAmo code rd rs1 rs2 a s)
    (ho : ∀ w x y, 0 < w → x < 2 ^ w → intRmw code w x y = f w x (y % 2 ^ w)) : AmoRow (c, f) := ⟨code, he, ho⟩

theorem amoTable_rows : ∀ p ∈ amoTable, AmoRow p := by
  have lt (y w : Nat) : y % 2 ^ w < 2 ^ w := Nat.mod_lt y (Nat.two_pow_pos w)
  refine forall_mem_cons (amoRow 8 (fun _ _ _ _ _ => rfl) (fun _ _ _ _ _ => rfl)) ?_
  refine forall_mem_cons (amoRow 0 (fun _ _ _ _ _ => rfl) (fun _ _ _ _ _ => rfl)) ?_
  refine forall_mem_cons (amoRow 3 (fun _ _ _ _ _ => rfl) (fun _ _ _ _ _ => rfl)) ?_
  refine forall_mem_cons (amoRow 1 (fun _ _ _ _ _ => rfl) (fun _ _ _ _ _ => rfl)) ?_
  refine forall_mem_cons (amoRow 2 (fun _ _ _ _ _ => rfl) (fun _ _ _ _ _ => rfl)) ?_
  refine forall_mem_cons (amoRow 4 (fun _ _ _ _ _ => rfl) (fun w _ y hw hx => signedMin_eq hw hx (lt y w))) ?_
  refine forall_mem_cons (amoRow 5 (fun _ _ _ _ _ => rfl) (fun w _ y hw hx => signedMax_eq hw hx (lt y w))) ?_
  refine forall_mem_cons (amoRow 6 (fun _ _ _ _ _ => rfl) (fun _ _ _ _ _ => min_eq_lt _ _)) ?_
  refine forall_mem_cons (amoRow 7 (fun _ _ _ _ _ => rfl) (fun _ _ _ _ _ => max_eq_lt _ _)) ?_
  exact List.forall_mem_nil _

theorem amoExt_eq {a : AmoBits} {v : Nat} (h : v < 2 ^ (8 * formBytes a)) : amoExt a v = formValue a v := by
  unfold formBytes at h
  unfold amoExt formValue
  cases ha : a.dbl with
  | true => exact (if_pos rfl).trans (if_pos rfl).symm
  | false =>
    rw [ha, if_neg Bool.false_ne_true, show 8 * 4 = 32 from rfl] at h
    rw [if_neg Bool.false_ne_true, if_neg Bool.false_ne_true]
    exact signExtend_ofNat (by decide) h

theorem memNat_lt (m : List Host.Cell) (pa n : Nat) : memNat m pa n < 2 ^ (8 * n) := by
  have h := leNat_lt (memRead m pa n)
  rw [memRead_length] at h
  exact h

theorem formBytes_pos (a : AmoBits) : 0 < 8 * formBytes a := by
  unfold formBytes
  split
  · decide
  · decide

/-- The release annotation of an instruction, once it has nothing to wait for. -/
theorem released_letGo {a : AmoBits} {s : State} (h : mayRelease a s) (k : State → Res Unit) :
    (if a.rl then released s k else k s) = k (letGo a s) := by
  unfold letGo
  cases hr : a.rl with
  | true => exact if_pos (h hr)
  | false => rfl

theorem watched_none {α : Type} {s : State} {va n : Nat} {ld st : Bool} (h : watchHit s va n ld st = none) (k : Res α) :
    watched s va n ld st k = k := by
  unfold watched
  rw [h]

theorem hartRmw_of_reaches {s s' : State} {va : Word} {r : Rmw} {p : Place} (h : Reaches s va r.bytes .amo p s') :
    hartRmw s va r = rmwPlace s' va p r := by
  obtain ⟨hr, hw, ht⟩ := h
  unfold hartRmw
  rw [hr]
  exact (watched_none hw _).trans (if_neg (not_not.2 ht))

theorem readModifyWritesComplete : ReadModifyWritesComplete := by
  intro p hp rd rs1 rs2 a s s' pa cls da hal hm hre hc hpo hf hwf w old
  obtain ⟨code, hex, hop⟩ := amoTable_rows p hp
  have hst := onlyTranslates_trans (onlyTranslates_letGo a s) (translates_of_reaches hre)
  obtain ⟨r, hr⟩ : ∃ r : Rmw, r = { code := code, dbl := a.dbl, a := s.getX rs2, b := 0
                                    act := fun old => (some (intRmw code (8 * amoBytes a) old (s.getX rs2).toNat), old) } := ⟨_, rfl⟩
  have hn : r.bytes = formBytes a := by rw [hr]; rfl
  have hact : r.act (memNat s'.mem pa r.bytes) = (some (p.2 w old ((s.getX rs2).toNat % 2 ^ w)), old) := by
    rw [hn, mem_of_translates hst, ← hop w old _ (formBytes_pos a) (memNat_lt _ _ _), hr]
    rfl
  obtain ⟨v, mine, hv, hrmw⟩ := rmwPlace_phys (va := s.getX rs1) (da := da) hc
    (by rw [hn, poisoned_of_translates hst]; exact hpo) (homeFree_of_translates hst hf) hact
  rw [hn, dtime_of_translates hst] at hrmw
  rw [← hn] at hre
  refine ⟨_, ?_, storeBack (n := formBytes a) (mine := mine) (onlyTranslates_trans hst hv) hwf (Eq.refl _) rd (formValue a old) (Eq.refl _)⟩
  rw [hex, ← amoExt_eq (memNat_lt s.mem pa _)]
  subst hr
  refine congrArg (a₂ := Res.ok () _) (Res.finish · s) ((if_neg (not_not.2 hal)).trans ((released_letGo hm _).trans ?_))
  rw [hartRmw_of_reaches hre, hrmw]
  rfl

/-! ### LR and SC -/

theorem same_linkEntry {s t : State} (hd : t.fab.devid = s.fab.devid) (hc : t.hart.ctx = s.hart.ctx) (hg : t.hart.gang = s.hart.gang)
    (hr : t.hart.rank = s.hart.rank) (scalar : Bool) (gen : BitVec 16) (line : Nat) (da : Bool) :
    linkEntry t scalar gen line da = linkEntry s scalar gen line da := by
  unfold linkEntry
  rw [hd, hc, hg, hr]

theorem linkEntry_of_translates {s u : State} (h : OnlyTranslates s u) (scalar : Bool) (gen : BitVec 16) (line : Nat) (da : Bool) :
    linkEntry u scalar gen line da = linkEntry s scalar gen line da :=
  same_linkEntry (s := s) (t := u) (congrArg (fun x : State => x.fab.devid) h.1.1 :) (congrArg Hart.ctx h.2 :) (congrArg Hart.gang h.2 :) (congrArg Hart.rank h.2 :) ..

theorem dropScalarLink_same (s : State) : ∀ e ∈ s.dropScalarLink.linkTable, e.same (linkEntry s true 0 0 false) = false := fun _ h =>
  Bool.eq_false_iff.2 (of_decide_eq_true (List.mem_filter.1 h).2)

/-- A table entered anew holds the entry, and beside it only what it held before. -/
theorem mem_addLink (s : State) (e : LinkEntry) : e ∈ (s.addLink e).linkTable ∧ ∀ f ∈ (s.addLink e).linkTable, f = e ∨ f ∈ s.linkTable := by
  unfold State.addLink
  refine ⟨List.mem_append_right _ List.mem_cons_self, fun f hf => ?_⟩
  obtain h | h := List.mem_append.1 hf
  · refine Or.inr ?_
    by_cases hl : 256 ≤ (sliceLinks s e).length
    · rw [if_pos hl] at h
      exact List.mem_of_mem_erase h
    · rw [if_neg hl] at h
      exact h
  · exact Or.inl (List.mem_singleton.1 h)

theorem reaches_watched {s s' : State} {va : Word} {n : Nat} {k : Kind} {p : Place} (h : Reaches s va n k p s') (c : Res Unit) :
    watched s' va.toNat n k.reads k.writes (if transfersMet s' va.toNat n k.writes ≠ [] then .need (.wait .transfer) else c) = c :=
  (watched_none h.2.1 _).trans (if_neg (not_not.2 h.2.2))

/-- The machine once LR has its line linked. -/
noncomputable def linked (v : State) (pa : Nat) (da : Bool) : State :=
  (v.dropScalarLink.addLink (linkEntry v true 0 (pa / 128) da)).withHart (fun h => { h with link := some (pa / 128) })

theorem linked_links {s v : State} (h : OnlyTranslates s v) (pa : Nat) (da : Bool) :
    linkEntry s true 0 (pa / 128) da ∈ (linked v pa da).linkTable
      ∧ ∀ e ∈ (linked v pa da).linkTable, e.same (linkEntry s true 0 0 false) = true → e = linkEntry s true 0 (pa / 128) da := by
  obtain ⟨hm, ho⟩ := mem_addLink v.dropScalarLink (linkEntry v true 0 (pa / 128) da)
  rw [linkEntry_of_translates h] at hm ho
  unfold linked
  rw [linkEntry_of_translates h]
  refine ⟨hm, fun e he hs => (ho e he).resolve_right fun hd => ?_⟩
  rw [← linkEntry_of_translates h] at hs
  exact absurd hs (Bool.eq_false_iff.1 (dropScalarLink_same v e hd))

theorem linked_back {s v t : State} (h : OnlyTranslates s v) (pa : Nat) (da : Bool) (rd : Reg) (x : Word)
    (ht : t = ((linked v pa da).setX rd x).retire) :
    OnlyLooks s { t with linkTable := s.linkTable } ∧ Writes s t rd x ∧ OnlyRetires { s.hart with link := some (pa / 128) } t.hart (s.hart.pc + 4)
      ∧ linkEntry s true 0 (pa / 128) da ∈ t.linkTable
      ∧ ∀ e ∈ t.linkTable, e.same (linkEntry s true 0 0 false) = true → e = linkEntry s true 0 (pa / 128) da := by
  have hk : OnlyHart (linked v pa da) t := ht ▸ onlyHart_writeBack _ rd x
  obtain ⟨hr, hw⟩ := hart_writeBack (linked v pa da) rd x
  rw [← ht] at hr hw
  have hl : t.linkTable = (linked v pa da).linkTable := (congrArg State.linkTable hk.1 :)
  have hh : (linked v pa da).hart = { { s.hart with link := some (pa / 128) } with lookups := v.hart.lookups } :=
    (congrArg (fun k : Hart => { k with link := some (pa / 128) }) h.2 :)
  have hpc : (linked v pa da).hart.pc = s.hart.pc := (congrArg Hart.pc hh :)
  rw [hpc] at hr
  rw [hl]
  exact ⟨onlyLooks_links (l := (linked v pa da).linkTable) (k := (linked v pa da).hart) h hk, writes_of_x hw (congrArg Hart.x hh :),
    onlyRetires_of_lookups hh hr, linked_links h pa da⟩

theorem loadReservedCompletes : LoadReservedCompletes := by
  intro rd rs1 a s s' pa cls da hal hm hre hc hpo hf
  have hst := onlyTranslates_trans (onlyTranslates_letGo a s) (translates_of_reaches hre)
  obtain ⟨r, hr⟩ : ∃ r : Rmw, r = { code := 14, dbl := a.dbl, a := 0, b := linkId s' true 0, act := fun old => (none, old) } := ⟨_, rfl⟩
  have hn : r.bytes = formBytes a := by rw [hr]; rfl
  have hact : r.act (memNat s'.mem pa r.bytes) = (none, memNat s.mem pa (formBytes a)) := by
    rw [hn, mem_of_translates hst, hr]
  obtain ⟨v, mine, hv, hrmw⟩ := rmwPlace_phys (va := s.getX rs1) (da := da) hc
    (by rw [hn, poisoned_of_translates hst]; exact hpo) (homeFree_of_translates hst hf) hact
  refine ⟨_, ?_, linked_back (onlyTranslates_trans hst hv) pa da rd _ (Eq.refl _)⟩
  rw [← amoExt_eq (memNat_lt s.mem pa _)]
  subst hr
  refine congrArg (a₂ := Res.ok () _) (Res.finish · s) ((if_neg (not_not.2 hal)).trans ((released_letGo hm _).trans ?_))
  unfold lrAt
  rw [hre.1]
  refine (reaches_watched hre _).trans ?_
  rw [hrmw]
  exact congrArg (fun x : State => Res.ok () (((x.withHart _).setX rd _).retire)) (if_neg hc)

/-- The machine once SC has dropped the hart's link. -/
theorem dropped_back {s w t : State} (hp : OnlyPuts s w) (hd : w.fab.devid = s.fab.devid) {k : Hart} (hh : w.hart = k) (hc : k.ctx = s.hart.ctx)
    (hg : k.gang = s.hart.gang) (hrk : k.rank = s.hart.rank) (hx : k.x = s.hart.x) (rd : Reg) (x : Word)
    (ht : t = (w.dropScalarLink.setX rd x).retire) :
    t.hart.link = none ∧ (∀ e ∈ t.linkTable, e.same (linkEntry s true 0 0 false) = false) ∧ OnlyPuts s { t with linkTable := s.linkTable }
      ∧ t.mem = w.mem ∧ Writes s t rd x ∧ OnlyRetires { k with link := none } t.hart (k.pc + 4) := by
  subst hh
  have hk : OnlyHart w.dropScalarLink t := ht ▸ onlyHart_writeBack _ rd x
  obtain ⟨hr, hw⟩ := hart_writeBack w.dropScalarLink rd x
  rw [← ht] at hr hw
  refine ⟨(congrArg Hart.link hr :), ?_, onlyPuts_links (l := w.dropScalarLink.linkTable) (k := w.dropScalarLink.hart) hp hk,
    (mem_of_onlyHart hk :), writes_of_x hw hx, hr⟩
  rw [show t.linkTable = w.dropScalarLink.linkTable from (congrArg State.linkTable hk.1 :), ← same_linkEntry hd hc hg hrk]
  exact dropScalarLink_same w

theorem linkIntact_iff {s u : State} (h : OnlyTranslates s u) (pa : Nat) (cls : BitVec 2) (da : Bool) :
    linkIntact u (.phys pa cls da) = true ↔ s.hart.link = some (pa / 128)
      ∧ ∃ e ∈ s.linkTable, e.same (linkEntry s true 0 0 false) = true ∧ e.line = pa / 128 ∧ e.intact = true := by
  unfold linkIntact
  rw [Bool.and_eq_true, beq_iff_eq, linkEntry_of_translates h, show u.linkTable = s.linkTable from (congrArg State.linkTable h.1.1 :),
    show u.hart.link = s.hart.link from (congrArg Hart.link h.2 :), List.any_eq_true]
  exact and_congr_right fun _ => exists_congr fun e => and_congr_right fun _ => decide_eq_true_iff

theorem execSc_of_reaches {s s' : State} {rd rs1 rs2 : Reg} {a : AmoBits} {pa : Nat} {cls : BitVec 2} {da : Bool}
    (hal : (s.getX rs1).toNat % formBytes a = 0) (hm : mayRelease a s)
    (hre : Reaches (letGo a s) (s.getX rs1) (formBytes a) .store (.phys pa cls da) s') :
    exec (.sc rd rs1 rs2 a) s = Res.finish
      (let done (ret : Nat) (s : State) : Res Unit := .ok () ((s.dropScalarLink).setX rd (if ret = 0 then 0 else 1)).retire
      if ¬ linkIntact s' (.phys pa cls da) ∧ ¬ homeAnswered s' (.phys pa cls da) then done 1 s'
      else
        (rmwPlace s' (s.getX rs1) (.phys pa cls da) { code := 15, dbl := a.dbl, a := (letGo a s).getX rs2, b := linkId s' true 0
                                                      act := fun _ => (some (((letGo a s).getX rs2).toNat % 2 ^ (8 * amoBytes a)), 0) }).bind done) s := by
  refine congrArg (Res.finish · s) ((if_neg (not_not.2 hal)).trans ((released_letGo hm _).trans ?_))
  unfold scAt
  rw [hre.1]
  exact reaches_watched hre _

theorem homeAnswered_phys {s : State} {pa : Nat} {cls : BitVec 2} {da : Bool} (hc : cls ≠ 1) : homeAnswered s (.phys pa cls da) = false := by
  have hb : (cls == 1) = false := beq_eq_false_iff_ne.2 hc
  exact (congrArg (!s.hart.replies.isEmpty && ·) hb).trans (Bool.and_false _)

/-- SC with its link intact stores. -/
theorem execSc_stores {s s' : State} {rd rs1 rs2 : Reg} {a : AmoBits} {pa : Nat} {cls : BitVec 2} {da : Bool} (hc : cls ≠ 1)
    (hal : (s.getX rs1).toNat % formBytes a = 0) (hm : mayRelease a s)
    (hre : Reaches (letGo a s) (s.getX rs1) (formBytes a) .store (.phys pa cls da) s') (hpo : poisoned s pa (formBytes a) = false)
    (hf : homeFree s pa) (hst : OnlyTranslates s s') (hl : linkIntact s' (.phys pa cls da) = true) :
    ∃ v mine w, OnlyTranslates s v
      ∧ w = (stored v pa (formBytes a) mine (leBytes (formBytes a) (s.getX rs2).toNat)).withHart (fun h => h.visible s.pkg.dtime.toNat)
      ∧ exec (.sc rd rs1 rs2 a) s = .next (w.dropScalarLink.setX rd 0).retire := by
  have hex := execSc_of_reaches (rd := rd) (rs2 := rs2) hal hm hre
  rw [getX_of_translates (onlyTranslates_letGo a s)] at hex
  obtain ⟨v, mine, hv, hrmw⟩ := rmwPlace_phys (s := s') (va := s.getX rs1) (pa := pa) (da := da) (ret := 0)
    (r := { code := 15, dbl := a.dbl, a := s.getX rs2, b := linkId s' true 0
            act := fun _ => (some ((s.getX rs2).toNat % 2 ^ (8 * amoBytes a)), 0) }) hc
    ((poisoned_of_translates hst pa _).trans hpo) (homeFree_of_translates hst hf) (Eq.refl _)
  rw [dtime_of_translates hst] at hrmw
  refine ⟨v, mine, _, onlyTranslates_trans hst hv, Eq.refl _, hex.trans ?_⟩
  dsimp only
  rw [if_neg (not_and_of_not_left _ (not_not.2 hl)), hrmw, ← leBytes_mod]
  rfl

theorem execSc_fails {s s' : State} {rd rs1 rs2 : Reg} {a : AmoBits} {pa : Nat} {cls : BitVec 2} {da : Bool} (hc : cls ≠ 1)
    (hal : (s.getX rs1).toNat % formBytes a = 0) (hm : mayRelease a s)
    (hre : Reaches (letGo a s) (s.getX rs1) (formBytes a) .store (.phys pa cls da) s') (hl : ¬ linkIntact s' (.phys pa cls da) = true) :
    exec (.sc rd rs1 rs2 a) s = .next (s'.dropScalarLink.setX rd 1).retire :=
  (execSc_of_reaches hal hm hre).trans (congrArg (Res.finish · s) (if_pos ⟨hl, Bool.eq_false_iff.1 (homeAnswered_phys hc)⟩))

theorem storeConditionalCompletes : StoreConditionalCompletes := by
  intro rd rs1 rs2 a s s' pa cls da hal hm hre hc hpo hf hwf good
  have hst := onlyTranslates_trans (onlyTranslates_letGo a s) (translates_of_reaches hre)
  have hg : _ ↔ good := linkIntact_iff hst pa cls da
  by_cases hgood : good
  · obtain ⟨v, mine, w, hsv, hw, hex⟩ := execSc_stores (rd := rd) (rs2 := rs2) hc hal hm hre hpo hf hst (hg.2 hgood)
    obtain ⟨hwp, hws, hwh, hwd⟩ := storedVisible hsv hwf hw
    exact ⟨_, hex, (dropped_back hwp hwd hwh rfl rfl rfl rfl rd 0 (Eq.refl _)).imp_right (And.imp_right (And.imp_right fun h =>
      ⟨fun _ => ⟨stores_of_mem hws h.1, h.2⟩, fun hn => absurd hgood hn⟩))⟩
  · exact ⟨_, execSc_fails hc hal hm hre fun h => hgood (hg.1 h), (dropped_back (onlyPuts_of_translates hst)
      (congrArg (fun x : State => x.fab.devid) hst.1.1 :) hst.2 rfl rfl rfl rfl rd 1 (Eq.refl _)).imp_right (And.imp_right (And.imp_right fun h =>
        ⟨fun hg => absurd hg hgood, fun _ => ⟨h.1.trans (mem_of_translates hst), h.2⟩⟩))⟩

/-- Settles O8: what the read-modify-write of the place answers and stores, followed by the write-back, with the links of LR and SC. -/
theorem atomicsComplete : Obligations.AtomicsComplete := ⟨readModifyWritesComplete, loadReservedCompletes, storeConditionalCompletes⟩

end Sys2Proof.ScalarProofs
end

section
/-!
PROOFS. Vector and matrix configuration: VSETVL and VSETSHAPE, TSHAPE, TFREE and CTLOAD (14 R367, R368; 16 R425, R426; 15 R407; 10 R278, R279).
-/
namespace Sys2Proof.ScalarProofs
open Sys2Proof Sys2Proof.Machine Sys2Proof.Claims Sys2Proof.AccessProofs

/-! ### Strips -/

/-- What closing strips leaves of a hart: all but the counts of its strip and the records that are due. -/
def ClosesStrips (h k : Hart) : Prop :=
  k = { h with stripDue := k.stripDue, stripStart := k.stripStart, stripCoins := k.stripCoins, stripArith := k.stripArith, stripMem := k.stripMem }

theorem closePoints_frame (c : Nat) (ds : List StripDue) (h : Hart) : ClosesStrips h (closePoints c ds h).2 := by
  induction ds generalizing h with
  | nil => exact Eq.refl h
  | cons d ds ih =>
    exact iteInduction (motive := fun p : List StripDue × Hart => ClosesStrips h p.2)
      (fun _ => ih { h with stripStart := c, stripCoins := 0, stripArith := 0, stripMem := 0 }) (fun _ => ih h)

theorem stripPoints_frame (h : Hart) (c : Nat) : ClosesStrips h (h.stripPoints c) := by
  have k := closePoints_frame c h.stripDue h
  unfold Hart.stripPoints
  generalize closePoints c h.stripDue h = p at k ⊢
  exact (congrArg (fun x : Hart => { x with stripDue := p.1 }) k :)

theorem closes_frame (h : Hart) (c : Nat) : ClosesStrips h (h.closes c) := by
  unfold Hart.closes
  split
  · exact stripPoints_frame { h with stripDue := _ } c
  · exact Eq.refl h

/-- A last strip whose counts are open takes those of the hart, when no earlier one waits for its own. -/
theorem closePoints_last {c : Nat} {ds : List StripDue} {h : Hart} {d : StripDue} (hd : ∀ e ∈ ds, e.counts ≠ none) (ha : d.ahead = 0)
    (hc : d.counts = none) :
    closePoints c (ds ++ [d]) h = (ds ++ [{ d with counts := some (c - h.stripStart, h.stripCoins, h.stripArith, h.stripMem) }]
                                  , { h with stripStart := c, stripCoins := 0, stripArith := 0, stripMem := 0 }) := by
  induction ds with
  | nil => exact if_pos ⟨ha, hc⟩
  | cons e ds ih =>
    have he := List.forall_mem_cons.1 hd
    refine (if_neg fun k => he.1 k.2).trans ?_
    exact congrArg (fun p : List StripDue × Hart => (e :: p.1, p.2)) (ih he.2)

theorem stripsClose : StripsClose := by
  refine fun h c => ⟨fun hs => if_neg (Bool.eq_false_iff.1 hs), fun hs hd hn => ?_⟩
  unfold Hart.closes
  rw [if_pos hs, hd]
  exact congrArg (fun p : List StripDue × Hart => { p.2 with stripDue := p.1 }) (closePoints_last
    (d := { pc := _, vrows := _, vcols := _, vl := _, ahead := 0, counts := none }) hn rfl rfl)

/-! ### Lengths -/

theorem elems_eq (vlb e g : Nat) : vlb * 8 * 2 ^ g / (8 * 2 ^ e) = vlb * 2 ^ g / 2 ^ e := by
  rw [show vlb * 8 * 2 ^ g = 8 * (vlb * 2 ^ g) by ring]
  exact Nat.mul_div_mul_left _ _ (by decide)

theorem field_eew {eew : BitVec 3} : field eew 0 2 = eew.setWidth 2 := rfl

/-- The hart once the lengths and the type are set. -/
noncomputable def withLengths (h : Hart) (eew : BitVec 3) (grp : BitVec 2) (r c : Nat) : Hart :=
  { h with vl := BitVec.ofNat 17 (r * c), vrows := BitVec.ofNat 17 r, vcols := BitVec.ofNat 17 c, vtEew := eew.setWidth 2, vtGrp := grp }

/-- Rows and columns of a request under `m` elements: of one row, or of a shape (14 R367). -/
noncomputable def lengthsOf (line : Bool) (rows cols m : Nat) : Nat × Nat := if line then (1, min cols m) else shaped rows cols m

theorem setLengths_retires (s : State) (rd : Reg) (eew : BitVec 3) (grp : BitVec 2) (line : Bool) (rows cols : Nat) :
    let rc := lengthsOf line rows cols (groupElems s.hart.vlb.toNat eew grp)
    ∃ t, (s.setLengths rd eew grp line rows cols).retire = t ∧ OnlyHart s t ∧ Writes s t rd (BitVec.ofNat 64 (rc.1 * rc.2))
      ∧ OnlyRetires (withLengths s.hart eew grp rc.1 rc.2) t.hart (s.hart.pc + 4) := by
  intro rc
  obtain ⟨t, ht, ho, hw, hr⟩ := putX_spec (s.withHart (fun h => withLengths h eew grp rc.1 rc.2)) rd (BitVec.ofNat 64 (rc.1 * rc.2))
  refine ⟨t, Eq.trans ?_ (Host.Outcome.next.inj ht), onlyHart_trans (onlyHart_withHart ..) ho, hw, hr⟩
  unfold State.setLengths
  rw [elems_eq]
  rfl

theorem vconfig_reserved {rd : Reg} {eew : BitVec 3} {grp : BitVec 2} {line bound : Bool} {rows cols : Nat} {s : State} (h : 3 < eew.toNat) :
    vconfig rd eew grp line bound rows cols s = .next (s.takeTrap 0x0D 0 none) := congrArg (Res.finish · s) (if_pos h)

theorem vconfig_completes {rd : Reg} {eew : BitVec 3} {grp : BitVec 2} {line : Bool} {rows cols : Nat} {s : State} (h : eew.toNat ≤ 3) :
    let rc := lengthsOf line rows cols (groupElems s.hart.vlb.toNat eew grp)
    ∃ t, vconfig rd eew grp line false rows cols s = .next t ∧ OnlyHart s t ∧ Writes s t rd (BitVec.ofNat 64 (rc.1 * rc.2))
      ∧ SetsLengths (s.hart.closes s.cycles) t.hart eew grp rc.1 rc.2 := by
  have hf := closes_frame s.hart s.cycles
  obtain ⟨t, ht, ho, hw, hr⟩ := setLengths_retires (s.withHart (fun h => h.closes s.cycles)) rd eew grp line rows cols
  rw [show (s.withHart (fun h => h.closes s.cycles)).hart.vlb = s.hart.vlb from (congrArg Hart.vlb hf :)] at hw hr
  refine ⟨t, ?_, onlyHart_trans (onlyHart_withHart ..) ho, writes_of_x hw (congrArg Hart.x hf :), hr⟩
  exact (congrArg (Res.finish · s) ((if_neg (Nat.not_lt.2 h)).trans (if_neg fun k => Bool.false_ne_true k.1))).trans
    (congrArg Host.Outcome.next ht)

theorem lengthsAreSet : LengthsAreSet := by
  refine fun rd rs1 rs2 eew grp s => ⟨fun h => ⟨?_, vconfig_completes (line := false) h⟩, fun h => ?_⟩
  · have k := vconfig_completes (rd := rd) (grp := grp) (line := true) (rows := 1) (cols := avlOf s rs1) (s := s) h
    have e (n : Nat) : lengthsOf true 1 (avlOf s rs1) n = (1, min (asked s rs1) n) := rfl
    rw [e] at k
    dsimp only at k
    rw [Nat.one_mul] at k
    exact k
  · exact forall_mem_cons (vconfig_reserved h) (forall_mem_cons (vconfig_reserved h) (forall_mem_cons (vconfig_reserved h)
      (forall_mem_cons (vconfig_reserved h) (List.forall_mem_nil _))))

/-- Settles O19: a strip closes by its list of records, and the configuration instructions set the lengths of the closed hart. -/
theorem vectorConfigurationCompletes : Obligations.VectorConfigurationCompletes := ⟨stripsClose, lengthsAreSet⟩

end Sys2Proof.ScalarProofs
end

section
/-!
PROOFS. The matrix shape and code tables: TSHAPE, TFREE and CTLOAD (16 R425, R426; 15 R407, 11 R301).
-/
namespace Sys2Proof.ScalarProofs
open Sys2Proof Sys2Proof.Machine Sys2Proof.Claims Sys2Proof.AccessProofs

/-! ### Granted shapes (16 R425) -/

theorem wfield_low (w : Word) (n : Nat) : wfield w 0 n = w.toNat % 2 ^ n := rfl

theorem wfield_div (w : Word) (lo n : Nat) : wfield w lo n = w.toNat / 2 ^ lo % 2 ^ n := by
  unfold wfield nfield
  rw [Nat.shiftRight_eq_div_pow]

theorem steps_fit {k x q a b : Nat} (h : k = min x (min (q / a) b) - min x (min (q / a) b) % 32) : k * a ≤ q ∧ k ≤ x ∧ k ≤ b ∧ k % 32 = 0 := by
  have hk : k ≤ min x (min (q / a) b) := h ▸ Nat.sub_le _ _
  obtain ⟨hx, hab⟩ := Nat.le_min.1 hk
  obtain ⟨ha, hb⟩ := Nat.le_min.1 hab
  exact ⟨(Nat.mul_le_mul_right a ha).trans (Nat.div_mul_le_self q a), hx, hb, h ▸ Nat.mod_eq_zero_of_dvd (Nat.dvd_sub_mod _)⟩

theorem cap_le (kind : BitVec 2) : (if kind = 3 then 64 else 128) ≤ 128 ∧ 0 < if kind = 3 then 64 else 128 := by
  split
  · decide
  · decide

/-- The sizes that a request is granted, once it has passed its checks. -/
theorem sizes_fit {vlb a b rm rn rk m n k x : Nat} {kind : BitVec 2} {t : Prop} (hx : x = min rk (min (vlb * 8 / a) (64 * vlb / (min rn 128 * b))))
    (e : (min rm (if kind = 3 then 64 else 128), min rn 128, x - x % 32, kind) = (m, n, k, kind)) (hk : 32 ≤ x - x % 32)
    (hc : t ∧ 0 < rm ∧ 0 < rn) :
    0 < m ∧ m ≤ rm ∧ m ≤ 128 ∧ (kind = 3 → m ≤ 64) ∧ 0 < n ∧ n ≤ rn ∧ n ≤ 128
      ∧ 32 ≤ k ∧ k ≤ rk ∧ k % 32 = 0 ∧ k * a ≤ 8 * vlb ∧ k * n * b ≤ 64 * vlb ∧ t := by
  obtain ⟨ht, hm, hn⟩ := hc
  obtain ⟨em, hnk⟩ := Prod.mk.inj e
  obtain ⟨en, hkk⟩ := Prod.mk.inj hnk
  obtain ⟨ek, -⟩ := Prod.mk.inj hkk
  rw [en] at hx
  rw [ek] at hk
  obtain ⟨hA, hK, hB, h32⟩ := steps_fit (hx ▸ ek.symm)
  obtain ⟨h128, h0⟩ := cap_le kind
  refine ⟨em ▸ Nat.lt_min.2 ⟨hm, h0⟩, em ▸ Nat.min_le_left .., em ▸ (Nat.min_le_right ..).trans h128, fun e => ?_,
    en ▸ Nat.lt_min.2 ⟨hn, by decide⟩, en ▸ Nat.min_le_left .., en ▸ Nat.min_le_right .., hk, hK, h32, Nat.mul_comm 8 vlb ▸ hA, ?_, ht⟩
  · rw [if_pos e] at em
    exact em ▸ Nat.min_le_right ..
  · rw [Nat.mul_assoc]
    exact (Nat.mul_le_mul_right _ hB).trans (Nat.div_mul_le_self _ _)

theorem some_of_ite {α : Type} {c : Prop} [Decidable c] {o : Option α} {a : α} (h : (if c then none else o) = some a) : ¬ c ∧ o = some a := by
  by_cases k : c
  · rw [if_pos k] at h
    exact nomatch h
  · rw [if_neg k] at h
    exact ⟨k, h⟩

/-- What the checks that a request passes say of its tiles and sizes. -/
theorem checks_passed {a : Bool} {ft tiles rm rn : Nat} {b : Bool} (h : ¬ (a || decide (tiles ≤ ft) || decide (rm = 0) || decide (rn = 0) || b) = true) :
    ft < tiles ∧ 0 < rm ∧ 0 < rn := by
  simp only [Bool.or_eq_true, decide_eq_true_iff, not_or] at h
  exact ⟨Nat.not_le.1 h.1.1.1.2, Nat.pos_of_ne_zero h.1.1.2, Nat.pos_of_ne_zero h.1.2⟩

theorem grantedShapesFit : GrantedShapesFit := by
  intro vlb tiles r1 r2 m n k kind h
  rw [shapeGrant, wfield_low, wfield_low, wfield_div, wfield_div, wfield_div, wfield_div] at h
  have hs := some_of_ite (some_of_ite h).2
  have he := Option.some.inj hs.2
  have hkind := (Prod.mk.inj (Prod.mk.inj (Prod.mk.inj he).2).2).2
  rw [hkind] at he
  exact sizes_fit (Eq.refl _) he (Nat.not_lt.1 hs.1) (checks_passed (some_of_ite h).1)

/-! ### TSHAPE and TFREE -/

/-- The hart with a matrix shape that has been granted (16 R425). -/
noncomputable def withShape (h : Hart) (r2 : Word) (m n k : Nat) (kind : BitVec 2) : Hart :=
  { h with tsm := BitVec.ofNat 8 m, tsn := BitVec.ofNat 8 n, tsk := BitVec.ofNat 16 k, tfKind := kind
           tfSat := r2.getLsbD 12, tfTile := field r2 10 2, tfB := field r2 5 5, tfA := field r2 0 5 }

/-- The hart once a TFREE has cleared its shape and dirty bits (16 R426). -/
noncomputable def freed (h : Hart) (mask : Word) : Hart :=
  { h.clearDirty mask with tsm := 0, tsn := 0, tsk := 0, tfKind := 0, tfSat := false, tfTile := 0, tfB := 0, tfA := 0 }

theorem execTshape_eq {rd rs1 rs2 : Reg} {s : State} (hd : s.hart.disp = []) {o : Option (Nat × Nat × Nat × BitVec 2)}
    (hg : shapeGrant s.hart.vlb.toNat s.hart.tiles.toNat (s.getX rs1) (s.getX rs2) = o) :
    exec (.tshape rd rs1 rs2) s = Res.finish (o.elim (.trap 0x0E 0) fun g =>
      .ok () ((s.withHart (fun h => withShape h (s.getX rs2) g.1 g.2.1 g.2.2.1 g.2.2.2)).setX rd (BitVec.ofNat 64 (g.1 + g.2.1 <<< 16 + g.2.2.1 <<< 32))).retire) s := by
  refine congrArg (Res.finish · s) ((if_neg ?_).trans ?_)
  · rw [hd]
    exact fun h => h rfl
  · rw [hg]
    cases o with
    | none => rfl
    | some g => rfl

theorem getLsbD_bset_false {n : Nat} (v : BitVec n) (j i : Nat) : (bset v j false).getLsbD i = (v.getLsbD i && !decide (i = j)) := by
  unfold bset
  rw [if_neg Bool.false_ne_true, BitVec.getLsbD_and, BitVec.getLsbD_not, BitVec.getLsbD_twoPow]
  by_cases h : i < n
  · by_cases e : i = j
    · subst e
      simp [h]
    · simp [h, e, Ne.symm e]
  · rw [BitVec.getLsbD_of_ge v i (Nat.not_lt.1 h), Bool.false_and, Bool.false_and]

/-- The dirty bits once those of the tiles that a mask names are cleared. -/
theorem clearDirty_bit (v : BitVec 44) (mask : Word) (n i : Nat) :
    ((List.range n).foldl (fun d j => if wbit mask j then bset d (40 + j) false else d) v).getLsbD i
      = (v.getLsbD i && !(decide (40 ≤ i ∧ i < 40 + n) && mask.getLsbD (i - 40))) := by
  induction n with
  | zero =>
    rw [decide_eq_false (p := 40 ≤ i ∧ i < 40 + 0) (fun k => Nat.not_lt.2 k.1 k.2), Bool.false_and, Bool.not_false, Bool.and_true]
    rfl
  | succ n ih =>
    have step (d : BitVec 44) : (if wbit mask n then bset d (40 + n) false else d).getLsbD i
        = (d.getLsbD i && !(decide (i = 40 + n) && mask.getLsbD n)) := by
      unfold wbit
      cases mask.getLsbD n
      · rw [if_neg Bool.false_ne_true, Bool.and_false, Bool.not_false, Bool.and_true]
      · rw [if_pos rfl, getLsbD_bset_false, Bool.and_true]
    rw [List.range_succ, List.foldl_append, List.foldl_cons, List.foldl_nil, step, ih, Bool.and_assoc]
    congr 1
    by_cases e : i = 40 + n
    · subst e
      simp
    · have : (40 ≤ i ∧ i < 40 + n) ↔ (40 ≤ i ∧ i < 40 + (n + 1)) :=
        and_congr_right fun _ => ⟨Nat.lt_succ_of_lt, fun k => Nat.lt_of_le_of_ne (Nat.le_of_lt_succ k) e⟩
      rw [decide_eq_false e, Bool.false_and, Bool.not_false, Bool.and_true, decide_eq_decide.2 this]

/-! ### CTLOAD -/

theorem wsum_eq (m n k : Nat) : m + n <<< 16 + k <<< 32 = m + n * 2 ^ 16 + k * 2 ^ 32 := by
  rw [Nat.shiftLeft_eq, Nat.shiftLeft_eq]

theorem ctFinish_idle {u : State} (h : decoding u u.hart.ctx u.hart.ref = false) (rd : Reg) (slot : Nat) (t : CodeTable) (bs : List Byte) :
    u.ctFinish rd slot t bs = ((u.putSlot u.hart.ctx slot { t with bytes := some bs, loading := none }).setX rd (t.gen.setWidth 64)).retire :=
  if_neg (Bool.eq_false_iff.1 h)

theorem slots_getD (x : Ctx) {i : Nat} (h : i < 4) (d : CodeTable) : x.slots.getD i d = x.codes.getD i CodeTable.empty := by
  unfold Ctx.slots
  rw [List.getD_eq_getElem?_getD, List.getElem?_map, List.getElem?_range h]
  rfl

theorem slots_set (x : Ctx) {i j : Nat} (hi : i < 4) (t d : CodeTable) :
    ({ x with codes := x.slots.set j t } : Ctx).slots.getD i d = if i = j then t else x.slots.getD i d := by
  rw [slots_getD _ hi]
  have hl : x.slots.length = 4 := by
    unfold Ctx.slots
    rw [List.length_map, List.length_range]
  change (x.slots.set j t).getD i CodeTable.empty = _
  rw [List.getD_eq_getElem?_getD, List.getElem?_set]
  by_cases e : j = i
  · rw [if_pos e, if_pos (e.symm ▸ hl.symm ▸ hi : j < _), if_pos e.symm]
    rfl
  · rw [if_neg e, if_neg (Ne.symm e), ← List.getD_eq_getElem?_getD, slots_getD _ hi, slots_getD _ hi]

theorem ctload_completes {rd rs1 rs2 : Reg} {s u : State} {bs : List Byte} {old : CodeTable} (ha : (s.getX rs1).toNat % 64 = 0)
    (hl : hartLoad s (s.getX rs1) 64 = .ok bs u) (ho : (s.ctx s.hart.ctx).slots.getD ((s.getX rs2).toNat % 4) CodeTable.empty = old)
    (hn : old.loading = none) (hd : decoding u u.hart.ctx u.hart.ref = false) :
    exec (.ctload rd rs1 rs2) s = .next
      (((u.putSlot u.hart.ctx ((s.getX rs2).toNat % 4) { bytes := some bs, gen := old.gen + 1, loading := none }).setX rd
        ((old.gen + 1).setWidth 64)).retire) := by
  change execCtload rd rs1 rs2 s = _
  unfold execCtload
  dsimp only
  rw [show wfield (s.getX rs2) 0 2 = (s.getX rs2).toNat % 4 from rfl, ho, hn]
  dsimp only
  refine (congrArg (a₂ := Res.ok () _) (Res.finish · s) ((if_neg (not_not.2 ha)).trans ?_)).trans
    (congrArg Host.Outcome.next (ctFinish_idle hd rd _ { old with gen := old.gen + 1 } bs))
  rw [hl]
  rfl

theorem putSlot_completes (u : State) (rd : Reg) (slot : Nat) (c : CodeTable) (v : Word) :
    let table (w : State) (i : Nat) : CodeTable := (w.ctx u.hart.ctx).slots.getD i CodeTable.empty
    ∃ t, (u.putSlot u.hart.ctx slot c).putX rd v = .next t ∧ WritesOnly { u with ctxs := t.ctxs } t rd v (u.hart.pc + 4)
      ∧ (∀ i < 4, table t i = if i = slot then c else table u i) ∧ ∀ d, d ≠ u.hart.ctx → t.ctx d = u.ctx d := by
  intro table
  obtain ⟨t, ht, hw⟩ := putX_spec (u.putSlot u.hart.ctx slot c) rd v
  have hx : t.ctxs = (u.putSlot u.hart.ctx slot c).ctxs := (congrArg State.ctxs hw.1.1 :)
  have hc (d : BitVec 8) : t.ctx d = if d = u.hart.ctx then { u.ctx u.hart.ctx with codes := (u.ctx u.hart.ctx).slots.set slot c } else u.ctx d :=
    (congrArg (fun l => tgetD l d.toNat Ctx.empty) hx).trans (ctx_modCtx u u.hart.ctx d (fun x => { x with codes := x.slots.set slot c }))
  refine ⟨t, ht, ?_, fun i hi => ?_, fun d hd => (hc d).trans (if_neg hd)⟩
  · rw [hx]
    exact hw
  · change (t.ctx u.hart.ctx).slots.getD i _ = _
    rw [hc, if_pos rfl]
    exact slots_set _ hi _ _

theorem execTfree_eq {rs1 : Reg} {s : State} (hd : s.hart.disp = []) :
    exec (.tfree rs1) s = .next (s.withHart (fun h => freed h (s.getX rs1))).retire := by
  refine congrArg (a₂ := Res.ok () _) (Res.finish · s) (if_neg ?_)
  rw [hd]
  exact fun h => h rfl

theorem tfree_retires (s : State) (mask : Word) :
    let t := (s.withHart (fun h => freed h mask)).retire
    OnlyHart s t ∧ t.hart.x = s.hart.x
      ∧ OnlyRetires { s.hart with vdirty := t.hart.vdirty, tsm := 0, tsn := 0, tsk := 0, tfKind := 0, tfSat := false, tfTile := 0, tfB := 0, tfA := 0 }
          t.hart (s.hart.pc + 4)
      ∧ ∀ i, t.hart.vdirty.getLsbD i = (s.hart.vdirty.getLsbD i && !(decide (40 ≤ i ∧ i < 40 + s.hart.tiles.toNat) && mask.getLsbD (i - 40))) := by
  intro t
  obtain ⟨ho, -, hr⟩ := goesOn_retireAt (s.withHart (fun h => freed h mask)) (s.hart.pc + 4)
  have hh : t.hart = _ := retireAt_hart (s.withHart (fun h => freed h mask)) (s.hart.pc + 4)
  have hv : t.hart.vdirty = (s.hart.clearDirty mask).vdirty := (congrArg Hart.vdirty hh :)
  rw [hv]
  exact ⟨onlyHart_trans (onlyHart_withHart ..) ho, (congrArg Hart.x hh :), hr, clearDirty_bit s.hart.vdirty mask s.hart.tiles.toNat⟩

theorem matrixAndCodeConfigurationComplete : MatrixAndCodeConfigurationComplete := by
  refine fun rd rs1 rs2 s => ⟨fun hd m n k kind hg => ?_, fun hd hg => execTshape_eq hd hg, fun hd => ?_, fun bs u ha hl => ?_⟩
  · obtain ⟨t, ht, ho, hw, hr⟩ := putX_spec (s.withHart (fun h => withShape h (s.getX rs2) m n k kind)) rd (BitVec.ofNat 64 (m + n * 2 ^ 16 + k * 2 ^ 32))
    refine ⟨t, (execTshape_eq hd hg).trans (Eq.trans ?_ ht), onlyHart_trans (onlyHart_withHart ..) ho, hw, hr⟩
    rw [← wsum_eq]
    rfl
  · exact ⟨_, (execTfree_eq hd :), tfree_retires s (s.getX rs1)⟩
  · intro slot old table hn hc
    obtain ⟨t, ht, hs⟩ := putSlot_completes u rd slot { bytes := some bs, gen := old.gen + 1, loading := none } ((old.gen + 1).setWidth 64)
    exact ⟨t, (ctload_completes ha hl rfl hn hc).trans ht, hs⟩

/-- Settles O21: the shape that is granted is set, the dirty bits fall tile by tile, and the slot of the context takes the table. -/
theorem matrixConfigurationCompletes : Obligations.MatrixConfigurationCompletes := ⟨matrixAndCodeConfigurationComplete, grantedShapesFit⟩

end Sys2Proof.ScalarProofs
end

section
/-!
PROOFS. The boundary forms of the vector configuration, and what a change of the granted length keeps (06 R155 to R157, 14 R367).
-/
namespace Sys2Proof.ScalarProofs
open Sys2Proof Sys2Proof.Machine Sys2Proof.Claims Sys2Proof.AccessProofs

/-! ### The registers at a change of length (06 R156) -/

/-- The registers below `n` are rebound, the others as they were. -/
def Rebound (old new n : Nat) (s u : State) : Prop :=
  u = { s with hart := u.hart, freshCount := u.freshCount } ∧ u.hart = { s.hart with v := u.hart.v, vdirty := u.hart.vdirty }
    ∧ (∀ i : Fin 32, i.val < n → s.hart.vkeep.getLsbD i = true → u.hart.v[i] = s.hart.v[i] % 2 ^ (8 * min old new))
    ∧ (∀ i : Fin 32, n ≤ i.val → u.hart.v[i] = s.hart.v[i])
    ∧ ∀ i, u.hart.vdirty.getLsbD i = (s.hart.vdirty.getLsbD i && !(decide (i < n) && !s.hart.vkeep.getLsbD i))

theorem nfield_low (v n : Nat) : nfield v 0 n = v % 2 ^ n := rfl

theorem rebound_zero (old new : Nat) (s : State) : Rebound old new 0 s s :=
  ⟨Eq.refl s, Eq.refl _, fun _ h => absurd h (Nat.not_lt_zero _), fun _ _ => rfl,
    fun i => by rw [decide_eq_false (Nat.not_lt_zero i), Bool.false_and, Bool.not_false, Bool.and_true]⟩

/-- The hart with one vector register set, and the dirty bits. -/
noncomputable def withReg (h : Hart) (n : Nat) (hn : n < 32) (x : Nat) (d : BitVec 44) : Hart := { h with v := h.v.set n x, vdirty := d }

theorem withReg_v (h : Hart) {n : Nat} (hn : n < 32) (x : Nat) (d : BitVec 44) (i : Fin 32) :
    (withReg h n hn x d).v[i] = if n = i.val then x else h.v[i] := Vector.getElem_set hn i.isLt

theorem rebindReg_eq (old new : Nat) (s : State) {n : Nat} (hn : n < 32) :
    ∃ x d f, rebindReg old new s n = { s with hart := withReg s.hart n hn x d, freshCount := f }
      ∧ (s.hart.vkeep.getLsbD n = true → x = s.hart.v[n] % 2 ^ (8 * min old new))
      ∧ ∀ i, d.getLsbD i = (s.hart.vdirty.getLsbD i && !(decide (i = n) && !s.hart.vkeep.getLsbD n)) := by
  cases hk : s.hart.vkeep.getLsbD n with
  | true =>
    refine ⟨_, s.hart.vdirty, s.freshCount, (dif_pos hn).trans (if_pos hk), fun _ => rfl, fun i => ?_⟩
    rw [Bool.not_true, Bool.and_false, Bool.not_false, Bool.and_true]
  | false =>
    refine ⟨_, _, _, (dif_pos hn).trans (if_neg (Bool.eq_false_iff.1 hk)), (nomatch ·), fun i => ?_⟩
    rw [Bool.not_false, Bool.and_true]
    exact getLsbD_bset_false ..

theorem dirty_succ {b c : Bool} {k : Nat → Bool} {i n : Nat} (hb : b = (c && !(decide (i < n) && !k i))) :
    (b && !(decide (i = n) && !k n)) = (c && !(decide (i < n + 1) && !k i)) := by
  rw [hb]
  by_cases e : i = n
  · subst e
    simp
  · rw [decide_eq_decide.2 (⟨Nat.lt_succ_of_lt, fun k => Nat.lt_of_le_of_ne (Nat.le_of_lt_succ k) e⟩), decide_eq_false e, Bool.false_and, Bool.not_false, Bool.and_true]

theorem rebound_succ {old new n : Nat} {s u : State} (hn : n < 32) (h : Rebound old new n s u) : Rebound old new (n + 1) s (rebindReg old new u n) := by
  obtain ⟨hf, hh, hkept, habove, hdirty⟩ := h
  have hkeep : u.hart.vkeep = s.hart.vkeep := (congrArg Hart.vkeep hh :)
  obtain ⟨x, d, f, he, hx, hd⟩ := rebindReg_eq old new u hn
  rw [hkeep] at hx hd
  rw [he]
  refine ⟨(congrArg (fun y : State => { y with hart := withReg u.hart n hn x d, freshCount := f }) hf :),
    (congrArg (fun y => withReg y n hn x d) hh :), fun i hi hki => ?_, fun i hi => ?_, fun i => (hd i).trans (dirty_succ (hdirty i))⟩
  · refine (withReg_v ..).trans ?_
    by_cases e : n = i.val
    · subst e
      rw [if_pos rfl, hx hki]
      exact congrArg (· % _) (habove i (Nat.le_refl _))
    · rw [if_neg e]
      exact hkept i (Nat.lt_of_le_of_ne (Nat.le_of_lt_succ hi) (Ne.symm e)) hki
  · exact (withReg_v ..).trans ((if_neg (Nat.ne_of_lt hi)).trans (habove i (Nat.le_of_succ_le hi)))

theorem rebound_all (old new : Nat) (s : State) : Rebound old new 32 s ((List.range 32).foldl (rebindReg old new) s) := by
  have h (n : Nat) (hn : n ≤ 32) : Rebound old new n s ((List.range n).foldl (rebindReg old new) s) := by
    induction n with
    | zero => exact rebound_zero old new s
    | succ n ih =>
      rw [List.range_succ, List.foldl_append]
      exact rebound_succ hn (ih (Nat.le_of_succ_le hn))
  exact h 32 (Nat.le_refl _)

/-- What a change of length keeps of a hart: the low bytes of its kept vector registers and of its masks, and everything else (06 R156). -/
def KeepsLow (h k : Hart) (new : Nat) : Prop :=
  k.vlb.toNat = new ∧ k = { h with v := k.v, m := k.m, vdirty := k.vdirty, vlb := k.vlb }
    ∧ (∀ i : Fin 32, (h.vkeep.getLsbD i = true → k.v[i] = h.v[i] % 2 ^ (8 * min h.vlb.toNat new) ∧ k.vdirty.getLsbD i = h.vdirty.getLsbD i)
        ∧ (h.vkeep.getLsbD i = false → k.vdirty.getLsbD i = false))
    ∧ (∀ i : Fin 8, k.m[i] = h.m[i] % 2 ^ (8 * min h.vlb.toNat new)) ∧ ∀ i, 32 ≤ i → k.vdirty.getLsbD i = h.vdirty.getLsbD i

theorem rebind_same {s : State} {new : Nat} (h : new = s.hart.vlb.toNat) : s.rebind new = s := if_pos h.symm

theorem rebind_changes {s : State} {new : Nat} (hn : new < 2 ^ 14) (h : new ≠ s.hart.vlb.toNat) :
    s.rebind new = { s with hart := (s.rebind new).hart, freshCount := (s.rebind new).freshCount } ∧ KeepsLow s.hart (s.rebind new).hart new := by
  obtain ⟨u, hu⟩ : ∃ u, u = (List.range 32).foldl (rebindReg s.hart.vlb.toNat new) s := ⟨_, rfl⟩
  have hr : Rebound s.hart.vlb.toNat new 32 s u := hu ▸ rebound_all _ _ s
  obtain ⟨hf, hh, hkept, -, hdirty⟩ := hr
  have e : s.rebind new = u.withHart (fun h => { h with m := h.m.map (fun x => nfield x 0 (8 * min s.hart.vlb.toNat new)), vlb := BitVec.ofNat 14 new }) := by
    rw [hu]
    exact if_neg (Ne.symm h)
  rw [e]
  refine ⟨(congrArg (State.withHart · _) hf :), (BitVec.toNat_ofNat ..).trans (Nat.mod_eq_of_lt hn), ?_,
    fun i => ⟨fun hk => ⟨hkept i i.isLt hk, (hdirty i).trans ?_⟩, fun hk => (hdirty i).trans ?_⟩, fun i => ?_, fun i hi => (hdirty i).trans ?_⟩
  · exact (congrArg (fun k : Hart => { k with m := u.hart.m.map (fun x => nfield x 0 (8 * min s.hart.vlb.toNat new)), vlb := BitVec.ofNat 14 new }) hh :)
  · rw [hk, Bool.not_true, Bool.and_false, Bool.not_false, Bool.and_true]
  · rw [hk, decide_eq_true i.isLt, Bool.not_false, Bool.and_true, Bool.not_true, Bool.and_false]
  · refine (Vector.getElem_map ..).trans ?_
    rw [nfield_low]
    exact congrArg (fun k : Vector Nat 8 => k[i] % _) (congrArg Hart.m hh :)
  · rw [decide_eq_false (Nat.not_lt.2 hi), Bool.false_and, Bool.not_false, Bool.and_true]

theorem lengthChangesKeep : LengthChangesKeep := fun _ _ hn => ⟨rebind_same, rebind_changes (Nat.lt_of_le_of_lt hn (by decide))⟩

/-! ### What lending storage and banks to the core changes (06 R157) -/

/-- Only banks, what reservations have left, and the lines of caches differ. -/
def Lends (s t : State) : Prop :=
  t = { s with banks := t.banks, clusters := t.clusters, dir := t.dir, lines := t.lines, freshCount := t.freshCount }
    ∧ ∀ c, t.cluster c = { s.cluster c with reserved := (t.cluster c).reserved }

theorem lends_refl (s : State) : Lends s s := ⟨Eq.refl s, fun _ => rfl⟩

theorem lends_trans {s t u : State} (h : Lends s t) (k : Lends t u) : Lends s u := by
  obtain ⟨e, hc⟩ := h
  refine ⟨k.1.trans (congrArg (fun x : State => { x with
    banks := u.banks, clusters := u.clusters, dir := u.dir, lines := u.lines, freshCount := u.freshCount }) e :), fun c => ?_⟩
  exact (k.2 c).trans (congrArg (fun x : Cluster => { x with reserved := (u.cluster c).reserved }) (hc c) :)

theorem cluster_of_clusters {s t : State} (h : t.clusters = s.clusters) (c : BitVec 5) : t.cluster c = s.cluster c := by
  unfold State.cluster
  rw [h]

theorem lends_of_clusters {s t : State} (h : t = { s with banks := t.banks, dir := t.dir, lines := t.lines, freshCount := t.freshCount }) :
    Lends s t := by
  have hc : t.clusters = s.clusters := (congrArg State.clusters h :)
  refine ⟨hc ▸ h, fun c => ?_⟩
  rw [cluster_of_clusters hc]

theorem lends_foldl {α : Type} {f : State → α → State} (hf : ∀ s a, Lends s (f s a)) (l : List α) (s : State) : Lends s (l.foldl f s) := by
  induction l generalizing s with
  | nil => exact lends_refl s
  | cons a l ih => exact lends_trans (hf s a) (ih _)

theorem lends_dropCopy (s : State) (core : BitVec 8) (v : Nat × Bool) : Lends s (s.dropCopy core v) := by
  unfold State.dropCopy
  refine iteInduction (motive := Lends s) (fun _ => lends_of_clusters (Eq.refl _)) (fun _ => ?_)
  cases tget s.lines v.1 with
  | none => exact lends_refl s
  | some x => exact lends_of_clusters (Eq.refl _)

theorem lends_leaveC (s : State) (core : BitVec 8) : Lends s (s.leaveC core) := by
  refine lends_foldl (fun u v => ?_) _ s
  have hu : Lends u u.freshBool.2 := lends_of_clusters (Eq.refl _)
  exact iteInduction (motive := Lends u) (fun _ => lends_trans hu (lends_dropCopy ..)) (fun _ => hu)

theorem lends_takeX (s : State) (core : BitVec 8) (bytes : Nat) : Lends s (s.takeX core bytes) :=
  iteInduction (motive := Lends s) (fun _ => lends_refl s)
    (fun _ => lends_trans (lends_foldl (fun _ _ => lends_of_clusters (Eq.refl _)) _ s) (lends_leaveC ..))

theorem lends_useStorage (s : State) (more : Nat) : Lends s (s.useStorage more) := by
  refine ⟨Eq.refl _, fun c => ?_⟩
  unfold State.useStorage
  dsimp only
  rw [cluster_modCluster]
  by_cases h : c = clusterOf s.hart.core
  · rw [if_pos h, h]
  · rw [if_neg h]

theorem lends_settleX {s : State} {core : BitVec 8} (h : (s.cluster (clusterOf core)).bankCmd = []) : Lends s (s.settleX core) := by
  unfold State.settleX
  rw [h]
  exact lends_foldl (fun _ _ => lends_of_clusters (Eq.refl _)) _ s

theorem bankCmd_of_lends {s t : State} (h : Lends s t) (c : BitVec 5) : (t.cluster c).bankCmd = (s.cluster c).bankCmd :=
  (congrArg Cluster.bankCmd (h.2 c) :)

/-! ### The length that a boundary instruction sets (06 R155) -/

theorem vlbNeed_eq (avl : Nat) (eew : BitVec 3) (grp : BitVec 2) : vlbNeed avl (2 ^ grp.toNat) (8 * 2 ^ eew.toNat) = lengthFor avl eew grp := by
  unfold vlbNeed lengthFor vlbSizes groupElems
  refine congrArg (fun p => (List.find? p _).getD 8192) (funext fun v => decide_eq_decide.2 ?_)
  rw [Nat.le_div_iff_mul_le (Nat.two_pow_pos _), show avl * (8 * 2 ^ eew.toNat) = 8 * (avl * 2 ^ eew.toNat) by ring,
    show v * 8 * 2 ^ grp.toNat = 8 * (v * 2 ^ grp.toNat) by ring]
  exact Nat.mul_le_mul_left_iff (by decide)

theorem vlbSizes_le : ∀ v ∈ vlbSizes, v ≤ 8192 := by decide

theorem lengthFor_le (avl : Nat) (eew : BitVec 3) (grp : BitVec 2) : lengthFor avl eew grp ≤ 8192 := by
  unfold lengthFor
  cases h : List.find? (fun v => decide (avl ≤ groupElems v eew grp)) [256, 512, 1024, 2048, 4096, 8192] with
  | none => exact Nat.le_refl _
  | some v => exact vlbSizes_le v (List.mem_of_find?_eq_some h)

/-- A length that the current hart can grow to (06 R155). -/
def Room (s : State) (need v : Nat) : Prop := v ∈ vlbSizes ∧ s.hart.vlb.toNat ≤ v ∧ v ≤ need ∧ fits s v = true

theorem mem_rooms {s : State} {need v : Nat} :
    v ∈ vlbSizes.filter (fun u => s.hart.vlb.toNat ≤ u && u ≤ need && fits s u) ↔ Room s need v := by
  rw [List.mem_filter, Bool.and_eq_true, Bool.and_eq_true, decide_eq_true_iff, decide_eq_true_iff, and_assoc]
  exact Iff.rfl

theorem le_getLast {l : List Nat} (hs : l.Pairwise (· ≤ ·)) {v : Nat} (hv : l.getLast? = some v) : ∀ u ∈ l, u ≤ v := by
  obtain ⟨k, rfl⟩ := List.getLast?_eq_some_iff.1 hv
  intro u hu
  obtain h | h := List.mem_append.1 hu
  · exact (List.pairwise_append.1 hs).2.2 u h v List.mem_cons_self
  · exact Nat.le_of_eq (List.mem_singleton.1 h)

theorem vlbTarget_enough {s : State} {need : Nat} (h : need ≤ s.hart.vlb.toNat) : vlbTarget s need = max s.hart.vlb0.toNat need :=
  if_neg (Nat.not_lt.2 h)

theorem vlbTarget_fixed {s : State} {need : Nat} (h : s.hart.vlb.toNat < need) (hg : s.hart.grow = false) : vlbTarget s need = s.hart.vlb.toNat :=
  (if_pos h).trans (if_neg (Bool.eq_false_iff.1 hg))

theorem vlbTarget_room {s : State} {need : Nat} (h : s.hart.vlb.toNat < need) (hg : s.hart.grow = true) (hr : ∃ v, Room s need v) :
    Room s need (vlbTarget s need) ∧ ∀ v, Room s need v → v ≤ vlbTarget s need := by
  have e : vlbTarget s need = _ := (if_pos h).trans (if_pos hg)
  obtain ⟨w, hw⟩ := hr
  obtain ⟨v, hv⟩ := Option.isSome_iff_exists.1 (List.getLast?_isSome.2 (List.ne_nil_of_mem (mem_rooms.2 hw)))
  rw [e, hv]
  have hp : vlbSizes.Pairwise (· ≤ ·) := by decide
  exact ⟨mem_rooms.1 (List.mem_of_getLast? hv), fun u hu => le_getLast (hp.filter _) hv u (mem_rooms.2 hu)⟩

theorem vlbTarget_stuck {s : State} {need : Nat} (h : s.hart.vlb.toNat < need) (hg : s.hart.grow = true) (hr : ∀ v, ¬ Room s need v) :
    vlbTarget s need = s.hart.vlb.toNat := by
  refine (if_pos h).trans ((if_pos hg).trans ?_)
  rw [List.eq_nil_iff_forall_not_mem.2 fun v hv => hr v (mem_rooms.1 hv)]
  rfl

theorem vlbTarget_lt {s : State} {need : Nat} (hn : need ≤ 8192) : vlbTarget s need < 2 ^ 14 := by
  by_cases h : s.hart.vlb.toNat < need
  · by_cases hg : s.hart.grow = true
    · by_cases hr : ∃ v, Room s need v
      · exact Nat.lt_of_le_of_lt (vlbSizes_le _ (vlbTarget_room h hg hr).1.1) (by decide)
      · rw [vlbTarget_stuck h hg (not_exists.1 hr)]
        exact s.hart.vlb.isLt
    · rw [vlbTarget_fixed h (Bool.eq_false_iff.2 hg)]
      exact s.hart.vlb.isLt
  · rw [vlbTarget_enough (Nat.not_lt.1 h)]
    exact Nat.max_lt.2 ⟨s.hart.vlb0.isLt, Nat.lt_of_le_of_lt hn (by decide)⟩

theorem coreStorage_eq {s u : State} (hs : u.harts = s.harts) (hl : u.hart.live = s.hart.live) (hc : u.hart.core = s.hart.core)
    (hv : u.hart.vlb = s.hart.vlb) (c : BitVec 8) : coreStorage u c = coreStorage s c := by
  unfold coreStorage State.allHarts
  rw [hl, hs]
  cases s.hart.live with
  | false => rfl
  | true =>
    rw [if_pos rfl, if_pos rfl, List.filter_cons, List.filter_cons, hc]
    split
    · rw [List.map_cons, List.map_cons, hv]
    · rfl

theorem vlbTarget_eq {s u : State} (hs : u.harts = s.harts) (hl : u.hart.live = s.hart.live) (hc : u.hart.core = s.hart.core)
    (hv : u.hart.vlb = s.hart.vlb) (h0 : u.hart.vlb0 = s.hart.vlb0) (hg : u.hart.grow = s.hart.grow) (hk : ∀ c, u.cluster c = s.cluster c)
    (hx : ∀ c, xRoom u c = xRoom s c) (need : Nat) : vlbTarget u need = vlbTarget s need := by
  unfold vlbTarget fits storageHeld
  rw [hv, h0, hg, hc, hk, hx, coreStorage_eq hs hl hc hv]

/-- The length that is set does not depend on the strip in progress. -/
theorem vlbTarget_closed (s : State) (c need : Nat) : vlbTarget (s.withHart (fun h => h.closes c)) need = vlbTarget s need := by
  have hf := closes_frame s.hart c
  exact vlbTarget_eq (s := s) (u := s.withHart (fun h => h.closes c)) (Eq.refl _) (congrArg Hart.live hf :) (congrArg Hart.core hf :) (congrArg Hart.vlb hf :) (congrArg Hart.vlb0 hf :)
    (congrArg Hart.grow hf :) (fun _ => rfl) (fun _ => rfl) need

/-! ### The boundary step -/

/-- What rebinding leaves of a hart, whether its length changes or not. -/
def Rebinds (h k : Hart) (new : Nat) : Prop :=
  k.vlb.toNat = new ∧ k = { h with v := k.v, m := k.m, vdirty := k.vdirty, vlb := k.vlb }
    ∧ (∀ i : Fin 32, h.vkeep.getLsbD i = true ∨ k.vlb = h.vlb →
        k.v[i] % 2 ^ (8 * min h.vlb.toNat new) = h.v[i] % 2 ^ (8 * min h.vlb.toNat new))
    ∧ ∀ i : Fin 8, k.m[i] % 2 ^ (8 * min h.vlb.toNat new) = h.m[i] % 2 ^ (8 * min h.vlb.toNat new)

theorem rebind_rebinds (s : State) {new : Nat} (hn : new < 2 ^ 14) :
    s.rebind new = { s with hart := (s.rebind new).hart, freshCount := (s.rebind new).freshCount } ∧ Rebinds s.hart (s.rebind new).hart new := by
  by_cases h : new = s.hart.vlb.toNat
  · rw [rebind_same h]
    exact ⟨Eq.refl _, h.symm, Eq.refl _, fun _ _ => rfl, fun _ => rfl⟩
  · obtain ⟨hf, hv, hh, hr, hm, -⟩ := rebind_changes hn h
    refine ⟨hf, hv, hh, fun i hi => ?_, fun i => by rw [hm i, Nat.mod_mod]⟩
    rw [((hr i).1 (hi.resolve_right fun e => h (hv.symm.trans (congrArg BitVec.toNat e)))).1, Nat.mod_mod]

theorem rebind_bankCmd {s g : State} {new : Nat} (hb : (s.cluster (clusterOf s.hart.core)).bankCmd = []) (hlt : new < 2 ^ 14) (hg : Lends s g) :
    ((g.rebind new).cluster (clusterOf s.hart.core)).bankCmd = [] := by
  have hr : (g.rebind new).clusters = g.clusters := (congrArg State.clusters (rebind_rebinds g hlt).1 :)
  rw [cluster_of_clusters hr]
  exact (bankCmd_of_lends hg _).trans hb

theorem boundaryStep_lends {s : State} (hb : (s.cluster (clusterOf s.hart.core)).bankCmd = []) {avl n w new : Nat}
    (hn : vlbTarget s (vlbNeed avl n w) = new) (hlt : new < 2 ^ 14) :
    ∃ g, Lends s g ∧ Lends (g.rebind new) (s.boundaryStep avl n w) := by
  unfold State.boundaryStep
  dsimp only
  rw [hn]
  generalize hu : (if s.hart.vlb.toNat < new then s.useStorage (32 * (new - s.hart.vlb.toNat)) else s) = u
  have hsu : Lends s u := hu ▸ iteInduction (motive := Lends s) (fun _ => lends_useStorage ..) (fun _ => lends_refl s)
  have hg := lends_trans hsu (lends_takeX u s.hart.core (storageAt s new))
  exact ⟨_, hg, lends_settleX (rebind_bankCmd hb hlt hg)⟩

/-- What a change of the hart between two lendings leaves of the machine. -/
theorem changed_of_lends {s g r b : State} (hg : Lends s g) (hr : r = { g with hart := r.hart, freshCount := r.freshCount }) (hb : Lends r b) :
    b = { s with hart := b.hart, banks := b.banks, clusters := b.clusters, dir := b.dir, lines := b.lines, freshCount := b.freshCount }
      ∧ ∀ c, b.cluster c = { s.cluster c with reserved := (b.cluster c).reserved } := by
  have hbh : b.hart = r.hart := (congrArg State.hart hb.1 :)
  have hrc : r.clusters = g.clusters := (congrArg State.clusters hr :)
  refine ⟨?_, fun c => ?_⟩
  · have e := hb.1.trans (congrArg (fun x : State => { x with
      banks := b.banks, clusters := b.clusters, dir := b.dir, lines := b.lines, freshCount := b.freshCount }) hr :)
    rw [← hbh] at e
    exact e.trans (congrArg (fun x : State => { x with
      hart := b.hart, banks := b.banks, clusters := b.clusters, dir := b.dir, lines := b.lines, freshCount := b.freshCount }) hg.1 :)
  · have e := hb.2 c
    rw [cluster_of_clusters hrc, hg.2 c] at e
    exact e

/-- What the boundary step leaves of the hart: its registers are rebound. -/
theorem rebinds_of_lends {s g r b : State} {new : Nat} (hg : Lends s g) (hr : Rebinds g.hart r.hart new) (hb : Lends r b) :
    Rebinds s.hart b.hart new := by
  rw [show b.hart = r.hart from (congrArg State.hart hb.1 :), ← show g.hart = s.hart from (congrArg State.hart hg.1 :)]
  exact hr

theorem boundaryStep_spec {s : State} (hb : (s.cluster (clusterOf s.hart.core)).bankCmd = []) {avl n w new : Nat}
    (hn : vlbTarget s (vlbNeed avl n w) = new) (hlt : new < 2 ^ 14) :
    ∃ b, s.boundaryStep avl n w = b ∧ Rebinds s.hart b.hart new
      ∧ b = { s with hart := b.hart, banks := b.banks, clusters := b.clusters, dir := b.dir, lines := b.lines, freshCount := b.freshCount }
      ∧ ∀ c, b.cluster c = { s.cluster c with reserved := (b.cluster c).reserved } := by
  obtain ⟨g, hg, hb⟩ := boundaryStep_lends hb hn hlt
  obtain ⟨hr, hh⟩ := rebind_rebinds g hlt
  exact ⟨_, rfl, rebinds_of_lends hg hh hb, changed_of_lends hg hr hb⟩

/-! ### The boundary forms -/

/-- What a boundary form leaves of the machine (06 R155, R156): `h1` is the hart with its strip closed, `lengths` the rows and columns under so
many elements. -/
def FormDone (s t : State) (h1 : Hart) (rd : Reg) (eew : BitVec 3) (grp : BitVec 2) (lengths : Nat → Nat × Nat) : Prop :=
  (let rc := lengths (groupElems t.hart.vlb.toNat eew grp)
   Writes s t rd (BitVec.ofNat 64 (rc.1 * rc.2)) ∧ t.hart.vl = BitVec.ofNat 17 (rc.1 * rc.2)
     ∧ t.hart.vrows = BitVec.ofNat 17 rc.1 ∧ t.hart.vcols = BitVec.ofNat 17 rc.2)
  ∧ OnlyRetires { h1 with
      v := t.hart.v, m := t.hart.m, vdirty := t.hart.vdirty, vlb := t.hart.vlb, vl := t.hart.vl, vrows := t.hart.vrows, vcols := t.hart.vcols
      vtEew := eew.setWidth 2, vtGrp := grp } t.hart (s.hart.pc + 4)
  ∧ (∀ i : Fin 32, s.hart.vkeep.getLsbD i = true ∨ t.hart.vlb = s.hart.vlb →
      t.hart.v[i] % 2 ^ (8 * min s.hart.vlb.toNat t.hart.vlb.toNat) = s.hart.v[i] % 2 ^ (8 * min s.hart.vlb.toNat t.hart.vlb.toNat))
  ∧ (∀ i : Fin 8, t.hart.m[i] % 2 ^ (8 * min s.hart.vlb.toNat t.hart.vlb.toNat) = s.hart.m[i] % 2 ^ (8 * min s.hart.vlb.toNat t.hart.vlb.toNat))
  ∧ t = { s with hart := t.hart, cores := t.cores, banks := t.banks, clusters := t.clusters, dir := t.dir, lines := t.lines
                 freshCount := t.freshCount }
  ∧ OnlyCounts s t ∧ ∀ c, t.cluster c = { s.cluster c with reserved := (t.cluster c).reserved }

/-- A hart that has retired, with its registers. -/
noncomputable def retiredHart (h : Hart) (x : Vector Word 32) (pc : Word) : Hart :=
  { h with x := x, pc := pc, instret := h.instret + 1, wpSkip := false, replies := [], wait := .none, relStart := none, lookups := [] }

theorem retires_rebound {h k l : Hart} {eew : BitVec 3} {grp : BitVec 2} {r c : Nat} {pc : Word}
    (hk : k = { h with v := k.v, m := k.m, vdirty := k.vdirty, vlb := k.vlb }) (hl : OnlyRetires (withLengths k eew grp r c) l pc) :
    OnlyRetires { h with v := l.v, m := l.m, vdirty := l.vdirty, vlb := l.vlb, vl := l.vl, vrows := l.vrows, vcols := l.vcols
                         vtEew := eew.setWidth 2, vtGrp := grp } l pc := by
  obtain ⟨x, hl⟩ : ∃ x, l = retiredHart (withLengths k eew grp r c) x pc := ⟨_, hl⟩
  subst hl
  exact congrArg (fun z => retiredHart (withLengths z eew grp r c) x pc) hk

/-- The state that a boundary form leaves beside the hart. -/
theorem frame_of_stepped {s b t : State}
    (hb : b = { s with hart := b.hart, banks := b.banks, clusters := b.clusters, dir := b.dir, lines := b.lines, freshCount := b.freshCount })
    (hc : ∀ c, b.cluster c = { s.cluster c with reserved := (b.cluster c).reserved }) (ho : OnlyHart b t) :
    t = { s with hart := t.hart, cores := t.cores, banks := t.banks, clusters := t.clusters, dir := t.dir, lines := t.lines
                 freshCount := t.freshCount }
      ∧ OnlyCounts s t ∧ ∀ c, t.cluster c = { s.cluster c with reserved := (t.cluster c).reserved } := by
  have hcnt : OnlyCounts s t := onlyCounts_trans (onlyCounts_of_cores (congrArg State.cores hb :)) ho.2
  obtain ⟨k, cs, ht⟩ : ∃ k cs, t = { b with hart := k, cores := cs } := ⟨_, _, ho.1⟩
  subst ht
  exact ⟨congrArg (fun x : State => { x with hart := k, cores := cs }) hb, hcnt, hc⟩

/-- The bytes of the vector and mask registers that two harts have alike where both lengths have them. -/
theorem bytes_congr {h h' k k' : Hart} {new : Nat} (ek : h'.vkeep = h.vkeep) (ev : h'.v = h.v) (em : h'.m = h.m) (eb : h'.vlb = h.vlb)
    (fv : k'.v = k.v) (fm : k'.m = k.m) (fb : k'.vlb = k.vlb) (hr : Rebinds h' k new) :
    (∀ i : Fin 32, h.vkeep.getLsbD i = true ∨ k'.vlb = h.vlb →
      k'.v[i] % 2 ^ (8 * min h.vlb.toNat k'.vlb.toNat) = h.v[i] % 2 ^ (8 * min h.vlb.toNat k'.vlb.toNat))
    ∧ ∀ i : Fin 8, k'.m[i] % 2 ^ (8 * min h.vlb.toNat k'.vlb.toNat) = h.m[i] % 2 ^ (8 * min h.vlb.toNat k'.vlb.toNat) := by
  obtain ⟨rfl, -, hV, hM⟩ := hr
  rw [ek, ev, eb] at hV
  rw [em, eb] at hM
  rw [fv, fm, fb]
  exact ⟨hV, hM⟩

theorem formDone {s b t : State} {h1 : Hart} {rd : Reg} {eew : BitVec 3} {grp : BitVec 2} {line : Bool} {rows cols new : Nat}
    (hf : ClosesStrips s.hart h1) (hB : Rebinds h1 b.hart new)
    (hb : b = { s with hart := b.hart, banks := b.banks, clusters := b.clusters, dir := b.dir, lines := b.lines, freshCount := b.freshCount })
    (hc : ∀ c, b.cluster c = { s.cluster c with reserved := (b.cluster c).reserved }) (ht : (b.setLengths rd eew grp line rows cols).retire = t) :
    t.hart.vlb.toNat = new ∧ FormDone s t h1 rd eew grp (lengthsOf line rows cols) := by
  obtain ⟨_, rfl, ho, hw, hr⟩ := setLengths_retires b rd eew grp line rows cols
  rw [ht] at ho hw hr
  have hvt : t.hart.vlb = b.hart.vlb := (congrArg Hart.vlb hr :)
  have hbytes := bytes_congr (h := s.hart) (k := b.hart) (k' := t.hart) (congrArg Hart.vkeep hf :) (congrArg Hart.v hf :) (congrArg Hart.m hf :) (congrArg Hart.vlb hf :)
    (congrArg Hart.v hr :) (congrArg Hart.m hr :) hvt hB
  have hx : b.hart.x = s.hart.x := (congrArg Hart.x hB.2.1 :).trans (congrArg Hart.x hf :)
  have hpc : b.hart.pc = s.hart.pc := (congrArg Hart.pc hB.2.1 :).trans (congrArg Hart.pc hf :)
  rw [← hvt] at hw hr
  rw [hpc] at hr
  exact ⟨hvt ▸ hB.1, ⟨writes_of_x hw hx, (congrArg Hart.vl hr :), (congrArg Hart.vrows hr :), (congrArg Hart.vcols hr :)⟩,
    retires_rebound hB.2.1 hr, hbytes.1, hbytes.2, frame_of_stepped hb hc ho⟩

theorem boundForm {rd : Reg} {eew : BitVec 3} {grp : BitVec 2} {line : Bool} {rows cols : Nat} {s : State} (he : eew.toNat ≤ 3)
    (hd : s.hart.disp = []) (hb : (s.cluster (clusterOf s.hart.core)).bankCmd = []) :
    ∃ t, vconfig rd eew grp line true rows cols s = .next t
      ∧ t.hart.vlb.toNat = vlbTarget s (lengthFor (if line then cols else rows * cols) eew grp)
      ∧ FormDone s t (s.hart.closes s.cycles) rd eew grp (lengthsOf line rows cols) := by
  have hf := closes_frame s.hart s.cycles
  obtain ⟨s1, h1⟩ : ∃ s1, s1 = s.withHart (fun h => h.closes s.cycles) := ⟨_, rfl⟩
  have hcore : clusterOf s1.hart.core = clusterOf s.hart.core := h1 ▸ congrArg clusterOf (congrArg Hart.core hf :)
  have hn := vlbTarget_closed s s.cycles (lengthFor (if line then cols else rows * cols) eew grp)
  rw [← h1, ← vlbNeed_eq] at hn
  rw [← vlbNeed_eq]
  have hb1 : (s1.cluster (clusterOf s1.hart.core)).bankCmd = [] := by
    rw [hcore, cluster_of_clusters (h1 ▸ rfl : s1.clusters = s.clusters)]
    exact hb
  obtain ⟨b, hbs, hB, hbe, hbc⟩ := boundaryStep_spec hb1 hn (vlbTarget_lt (vlbNeed_eq _ eew grp ▸ lengthFor_le ..))
  subst h1
  refine ⟨_, ?_, formDone hf hB hbe hbc rfl⟩
  refine congrArg (a₂ := Res.ok () _) (Res.finish · s) ((if_neg (Nat.not_lt.2 he)).trans ((if_neg ?_).trans ?_))
  · unfold boundaryWaits
    rw [hd, hb]
    exact fun k => k.2.elim (fun e => e rfl) Bool.false_ne_true
  · dsimp only
    rw [if_pos rfl, hbs]

theorem boundaryFormsComplete : BoundaryFormsComplete := by
  intro rd rs1 rs2 eew grp s he hd hb
  have step {line : Bool} {rows cols : Nat} {i : Instr} {n : Nat} {f : Nat → Nat × Nat} (hi : exec i s = vconfig rd eew grp line true rows cols s)
      (hf : f = lengthsOf line rows cols) (hn : n = if line then cols else rows * cols) :
      ∃ t, exec i s = .next t ∧ t.hart.vlb.toNat = vlbTarget s (lengthFor n eew grp) ∧ FormDone s t (s.hart.closes s.cycles) rd eew grp f :=
    hi ▸ hf ▸ hn ▸ boundForm he hd hb
  have split {i : Instr} {n : Nat} {f : Nat → Nat × Nat} (h : ∃ t, exec i s = .next t ∧ t.hart.vlb.toNat = vlbTarget s (lengthFor n eew grp)
      ∧ FormDone s t (s.hart.closes s.cycles) rd eew grp f) :
      let old := s.hart.vlb.toNat
      let need := lengthFor n eew grp
      ∃ t, exec i s = .next t
        ∧ (need ≤ old → t.hart.vlb.toNat = max s.hart.vlb0.toNat need)
        ∧ (old < need → s.hart.grow = false → t.hart.vlb = s.hart.vlb)
        ∧ (old < need → s.hart.grow = true → (∃ v, Room s need v) → Room s need t.hart.vlb.toNat ∧ ∀ v, Room s need v → v ≤ t.hart.vlb.toNat)
        ∧ (old < need → s.hart.grow = true → (∀ v, ¬ Room s need v) → t.hart.vlb = s.hart.vlb)
        ∧ FormDone s t (s.hart.closes s.cycles) rd eew grp f := by
    obtain ⟨t, ht, hv, hdone⟩ := h
    exact ⟨t, ht, fun h => hv.trans (vlbTarget_enough h), fun h hg => BitVec.eq_of_toNat_eq (hv.trans (vlbTarget_fixed h hg)),
      fun h hg hr => hv ▸ vlbTarget_room h hg hr, fun h hg hr => BitVec.eq_of_toNat_eq (hv.trans (vlbTarget_stuck h hg hr)), hdone⟩
  refine forall_mem_cons (split (step (line := true) rfl rfl rfl)) (forall_mem_cons (split (step (line := false) rfl rfl rfl)) (List.forall_mem_nil _))

/-- Settles O20: the boundary step lends storage and banks and rebinds the registers to the length that `vlbTarget` finds; the lengths are then
set as VSETVL and VSETSHAPE do. -/
theorem boundaryConfigurationCompletes : Obligations.BoundaryConfigurationCompletes := ⟨boundaryFormsComplete, lengthChangesKeep⟩

end Sys2Proof.ScalarProofs
end

section
/-!
PROOFS. One access of an element, and the step: what it runs, and the packages that have stopped (12 R312, R317; 02 R43, R54, R57).
-/
namespace Sys2Proof.ScalarProofs
open Sys2Proof Sys2Proof.Machine Sys2Proof.Claims Sys2Proof.AccessProofs

/-! ### One access of an element -/

theorem hartLoad_of_reaches {s s' : State} {va : Word} {n : Nat} {pa : Nat} {cls : BitVec 2} {da : Bool}
    (h : Reaches s va n .load (.phys pa cls da) s') : hartLoad s va n = readPlace s' va (.phys pa cls da) n .load := by
  obtain ⟨hr, hw, ht⟩ := h
  unfold hartLoad hartLoadBy
  rw [hr]
  exact (watched_none hw _).trans (if_neg fun k => k.1 ht)

theorem hartStore_of_reaches {s s' : State} {va : Word} {data : List Byte} {pa : Nat} {cls : BitVec 2} {da : Bool}
    (h : Reaches s va data.length .store (.phys pa cls da) s') :
    hartStore s va data = (writePlace s' va (.phys pa cls da) data).bind fun _ s => .ok () s := by
  obtain ⟨hr, hw, ht⟩ := h
  refine congrArg (Res.bind · _) ?_
  unfold hartStoreV
  rw [hr]
  exact (watched_none hw _).trans (if_neg (not_not.2 ht))

/-- The hart has what it stores visible at once, and may have looked pages up. -/
def SeenNow (s t : State) : Prop :=
  t.hart = { s.hart with vispend := BitVec.ofNat 64 (max s.hart.vispend.toNat s.pkg.dtime.toNat), lookups := t.hart.lookups }

theorem storedNow {s v : State} (h : OnlyTranslates s v) (hwf : Memory.wf s.mem = true) (pa n : Nat) (mine : LinkEntry → Bool) (data : List Byte) :
    let w := (stored v pa n mine data).withHart (fun h => h.visible s.pkg.dtime.toNat)
    OnlyPuts s w ∧ Stores s w pa data ∧ SeenNow s w := by
  intro w
  obtain ⟨hp, hs, hh, -⟩ := storedVisible h hwf (Eq.refl w)
  exact ⟨hp, hs, hh⟩

theorem store_access {s s' : State} {va : Word} {pa : Nat} {cls : BitVec 2} {da : Bool} (hc : cls ≠ 1) {data : List Byte}
    (h : Reaches s va data.length .store (.phys pa cls da) s') (hwf : Memory.wf s.mem = true) :
    ∃ t, hartStore s va data = .ok () t ∧ OnlyPuts s t ∧ Stores s t pa data ∧ SeenNow s t := by
  have ht := translates_of_reaches h
  obtain ⟨v, mine, hv, hw⟩ := writePlace_phys (s := s') (va := va) (pa := pa) (da := da) (data := data) hc
  rw [dtime_of_translates ht] at hw
  exact ⟨_, (hartStore_of_reaches h).trans (congrArg (Res.bind · _) hw), storedNow (onlyTranslates_trans ht hv) hwf pa data.length mine data⟩

theorem rmw_access {s s' : State} {va : Word} {pa : Nat} {cls : BitVec 2} {da : Bool} (hc : cls ≠ 1) {r : Rmw}
    (h : Reaches s va r.bytes .amo (.phys pa cls da) s') (hp : poisoned s pa r.bytes = false) (hf : homeFree s pa) (hwf : Memory.wf s.mem = true)
    {o : Option Nat} {ret : Nat} (ha : r.act (memNat s.mem pa r.bytes) = (o, ret)) :
    ∃ t, hartRmw s va r = .ok ret t ∧ OnlyPuts s t ∧ (∀ v, o = some v → Stores s t pa (leBytes r.bytes v) ∧ SeenNow s t)
      ∧ (o = none → t.mem = s.mem ∧ t.hart = { s.hart with lookups := t.hart.lookups }) := by
  have ht := translates_of_reaches h
  rw [← mem_of_translates ht] at ha
  obtain ⟨v, mine, hv, hw⟩ := rmwPlace_phys (va := va) (da := da) hc ((poisoned_of_translates ht pa _).trans hp) (homeFree_of_translates ht hf) ha
  rw [dtime_of_translates ht] at hw
  have htv := onlyTranslates_trans ht hv
  refine ⟨_, (hartRmw_of_reaches h).trans hw, ?_⟩
  cases o with
  | none => exact ⟨onlyPuts_of_translates htv, fun _ e => (nomatch e), fun _ => ⟨mem_of_translates htv, htv.2⟩⟩
  | some x =>
    have hs := storedNow htv hwf pa r.bytes mine (leBytes r.bytes x)
    exact ⟨hs.1, fun y e => Option.some.inj e ▸ hs.2, fun e => (nomatch e)⟩

/-- Settles O31: the access of an element is that of the place it reaches. -/
theorem elementAccessesComplete : Obligations.ElementAccessesComplete := by
  refine fun s s' va pa cls da hc => ⟨fun n h hp => ?_, fun _ => store_access hc, fun r h hp hf hwf => rmw_access hc h hp hf hwf rfl⟩
  have ht := translates_of_reaches h
  obtain ⟨u, hu, htu⟩ := readPlace_phys (va := va) (da := da) hc ((poisoned_of_translates ht pa n).trans hp)
  rw [mem_of_translates ht] at hu
  exact ⟨u, (hartLoad_of_reaches h).trans hu, onlyTranslates_trans ht htu⟩

/-! ### What a step runs -/

theorem stopOf_up {s : State} (h : Up s) (m : Option Move) : stopOf s m = none := by
  obtain ⟨hp, hs⟩ := h
  by_cases hm : m = some (.event .powerOnReset)
  · exact if_pos hm
  · exact (if_neg hm).trans ((if_neg (not_not.2 hp)).trans (if_neg fun k => Bool.false_ne_true (hs.symm.trans k.1)))

theorem step_moves {s : State} {m : Move} {rest : List Move} (h : stopOf s s.agenda.head? = none) (ha : s.agenda = m :: rest) :
    step s = runMove m { s with agenda := rest } := by
  unfold step
  rw [h, ha]

theorem packet_cases {P : Packet → Prop} (c : BitVec 3) (o : BitVec 5) (h : ∀ q : Packet, P { q with cls := c, op := o }) (p : Packet)
    (hc : p.cls.toNat = c.toNat) (ho : p.op.toNat = o.toNat) : P p := by
  have hp : { p with cls := c, op := o } = p := by rw [← BitVec.eq_of_toNat_eq hc, ← BitVec.eq_of_toNat_eq ho]
  exact hp ▸ h p

/-- A packet that has arrived is run as its row. -/
theorem deliver_arrival (p : Packet) (s : State) :
    ∀ x ∈ arrivals p, p.cls.toNat = x.1 → p.op.toNat = x.2.1 → x.2.2.1 = true → deliver p s = exec x.2.2.2 s := by
  have row (i : Packet → Instr) (c : BitVec 3) (o : BitVec 5) (h : ∀ q : Packet, deliver { q with cls := c, op := o } s = exec (i { q with cls := c, op := o }) s)
      (b : Bool) (hc : p.cls.toNat = c.toNat) (ho : p.op.toNat = o.toNat) (_ : b = true) : deliver p s = exec (i p) s :=
    packet_cases (P := fun q => deliver q s = exec (i q) s) c o h p hc ho
  have hw : pword p 0 = p.body.headD 0 := by
    unfold pword
    cases p.body with
    | nil => rfl
    | cons w ws => rfl
  have shared (i j : Packet → Instr) (c : BitVec 3) (o : BitVec 5) (k : Nat)
      (h : ∀ q : Packet, deliver { q with cls := c, op := o } s =
        if wbit (pword { q with cls := c, op := o } 0) k then exec (i { q with cls := c, op := o }) s else exec (j { q with cls := c, op := o }) s)
      (hc : p.cls.toNat = c.toNat) (ho : p.op.toNat = o.toNat) :
      deliver p s = if (p.body.headD 0).getLsbD k then exec (i p) s else exec (j p) s :=
    hw ▸ packet_cases (P := fun q => deliver q s = if wbit (pword q 0) k then exec (i q) s else exec (j q) s) c o h p hc ho
  have not_of_not {b : Bool} (h : (!b) = true) : ¬ b = true := by
    rw [Bool.not_eq_true'] at h
    exact Bool.eq_false_iff.1 h
  have insertOrCall := shared .queueInsertionArrival .invocationCall 2 0 32 (fun _ => rfl)
  have endOrArrival := shared .endReport .arrivalReport 2 1 21 (fun _ => rfl)
  unfold arrivals
  refine forall_mem_cons (row .memoryRead 0 0 (fun _ => rfl) true) ?_
  refine forall_mem_cons (row .memoryReadData 0 1 (fun _ => rfl) true) ?_
  refine forall_mem_cons (row .memoryWrite 0 2 (fun _ => rfl) true) ?_
  refine forall_mem_cons (row .memoryWriteAck 0 3 (fun _ => rfl) true) ?_
  refine forall_mem_cons (row .memoryErrorResponse 0 4 (fun _ => rfl) true) ?_
  refine forall_mem_cons (row .atomicRequest 1 0 (fun _ => rfl) true) ?_
  refine forall_mem_cons (row .atomicResponse 1 1 (fun _ => rfl) true) ?_
  refine forall_mem_cons (row .atomicErrorResponse 1 2 (fun _ => rfl) true) ?_
  refine forall_mem_cons (fun hc ho hb => (insertOrCall hc ho).trans (if_pos hb)) ?_
  refine forall_mem_cons (fun hc ho hb => (insertOrCall hc ho).trans (if_neg (not_of_not hb))) ?_
  refine forall_mem_cons (fun hc ho hb => (endOrArrival hc ho).trans (if_pos hb)) ?_
  refine forall_mem_cons (fun hc ho hb => (endOrArrival hc ho).trans (if_neg (not_of_not hb))) ?_
  refine forall_mem_cons (row .hostRead 3 0 (fun _ => rfl) true) ?_
  refine forall_mem_cons (row .hostReadData 3 1 (fun _ => rfl) true) ?_
  refine forall_mem_cons (row .hostWrite 3 2 (fun _ => rfl) true) ?_
  refine forall_mem_cons (row .hostWriteAck 3 3 (fun _ => rfl) true) ?_
  refine forall_mem_cons (row .insertionReport 3 4 (fun _ => rfl) true) ?_
  refine forall_mem_cons (row .hostErrorResponse 3 5 (fun _ => rfl) true) ?_
  refine forall_mem_cons (row .mgtRegisterRead 4 0 (fun _ => rfl) true) ?_
  refine forall_mem_cons (row .mgtRegisterWrite 4 2 (fun _ => rfl) true) ?_
  refine forall_mem_cons (row .mgtLinkEvent 4 4 (fun _ => rfl) true) ?_
  refine forall_mem_cons (row .timeStampRequest 5 0 (fun _ => rfl) true) ?_
  refine forall_mem_cons (row .timeStampResponse 5 1 (fun _ => rfl) true) ?_
  exact List.forall_mem_nil _

theorem turn_fetches {s : State} {rest : List Move} {r : HartRef} (h : MayFetch (atTurn s rest r) r) :
    turn r { s with agenda := rest } = fetchTurn (atTurn s rest r) := by
  change (let s := atTurn s rest r; (if ¬ s.hart.live ∨ s.hart.ref ≠ r ∨ (s.ctx s.hart.ctx).state ≠ .running then .done s
    else if stripCan s then .out (execStripClose s.hart.ref s)
    else if ¬ coreRuns s then haltedTurn s
    else if s.hart.wait = .none then restTurn s
    else waitTurn s : Turn)) = _
  generalize atTurn s rest r = u at h ⊢
  obtain ⟨hlive, href, hrun, hhalt, hwait, hrep, hpause, hdisp, hdue, hp2, hp3, hint⟩ := h
  have hsteps : stepsNow u = none := if_neg fun k => Bool.false_ne_true (hhalt.symm.trans k.1)
  have hstrip : ¬ stripCan u = true := by
    unfold stripCan
    rw [hdue]
    exact Bool.false_ne_true
  have hruns : coreRuns u = true := by
    unfold coreRuns
    rw [hhalt]
    rfl
  have hsave : ¬ savePoint u = true := by
    unfold savePoint
    rw [hp2, hp3]
    exact Bool.false_ne_true
  have hbegan : u.began = u := by
    unfold State.began
    rw [hsteps]
    rfl
  have hdone : ¬ stepDone u = true := by
    unfold stepDone
    rw [hsteps]
    exact Bool.false_ne_true
  have hrest : restTurn u = nextTurn u := by
    have hst : saveTurn u = none := if_neg (mt (fun k => k.2.2) hsave)
    unfold restTurn
    rw [hrep, hdisp, hst, hint]
    exact (if_neg fun k => k rfl).trans ((if_neg (Nat.not_lt.2 hpause)).trans ((if_neg fun k => k rfl).trans
      ((if_neg hdone).trans (if_neg fun k => Bool.false_ne_true k.1))))
  have hnext : nextTurn u = fetchTurn u := by
    unfold nextTurn
    rw [hsteps, hbegan]
    exact if_neg nofun
  dsimp only
  rw [if_neg (not_or.2 ⟨not_not.2 hlive, not_or.2 ⟨not_not.2 href, not_not.2 hrun⟩⟩), if_neg hstrip, if_neg (not_not.2 hruns), if_pos hwait, hrest, hnext]

theorem fetchTurn_bytes {u v : State} {bs : List Byte} (hf : u.fetch = (.bytes bs, v))
    (hb : breakHit v v.hart.pc (startSize (lineWord bs 0)) = none) :
    fetchTurn u = match decode bs with
      | .ok (i, _) => .run i v
      | .error .orphanBody => .done (v.fetchTrap 0x03 ((lineWord bs 0).setWidth 64) v.hart.pc 0)
      | .error _ => .run (.illegalInstruction (lineWord bs 0)) v := by
  unfold fetchTurn breakTurn
  rw [hf]
  dsimp only
  rw [hb]
  rfl

theorem scrubbed_hart (s : State) (pa n : Nat) : (s.scrubbed pa n).hart = s.hart := by
  exact iteInduction (motive := fun t : State => t.hart = s.hart) (fun _ => rfl) (fun _ => rfl)

theorem l2Drop_hart (s : State) (line : Nat) (da : Bool) : (s.l2Drop line da).hart = s.hart := by
  unfold State.l2Drop
  dsimp only
  split
  · rfl
  · exact iteInduction (motive := fun t : State => t.hart = s.hart) (fun _ => State.uncount_hart ..) (fun _ => rfl)

theorem evict_hart (s : State) (line : Nat) : (s.evict line).hart = s.hart := by
  have hd : (s.dirLines (line * 128) 128 (fun l _ => l.home true)).hart = s.hart := rfl
  unfold State.evict
  dsimp only
  generalize s.dirLines (line * 128) 128 (fun l _ => l.home true) = u at hd ⊢
  cases tget u.lines line with
  | none => exact (l2Drop_hart ..).trans ((l2Drop_hart ..).trans hd)
  | some x => exact (l2Drop_hart ..).trans hd

theorem l2Touch_hart (s : State) (dest : Option (BitVec 2)) (line : Nat) (da write : Bool) : (s.l2Touch dest line da write).hart = s.hart := by
  have h : (if dest.any (fun d => d ≠ (homeOf (line * 128) da).1) then s.uncount (homeOf (line * 128) da).1 6 1 else s).hart = s.hart :=
    iteInduction (motive := fun t : State => t.hart = s.hart) (fun _ => State.uncount_hart ..) (fun _ => rfl)
  unfold State.l2Touch
  dsimp only
  generalize (if dest.any (fun d => d ≠ (homeOf (line * 128) da).1) then s.uncount (homeOf (line * 128) da).1 6 1 else s) = u at h ⊢
  refine iteInduction (motive := fun t : State => t.hart = s.hart) (fun _ => (State.uncount_hart ..).trans h) (fun _ => ?_)
  have h2 : ((u.uncount (homeOf (line * 128) da).1 2 1).uncount (stackDie line) 4 1).hart = s.hart := by simp [h]
  generalize (u.uncount (homeOf (line * 128) da).1 2 1).uncount (stackDie line) 4 1 = w at h2 ⊢
  refine iteInduction (motive := fun t : State => t.hart = s.hart) (fun _ => h2) (fun _ => ?_)
  split
  · exact (evict_hart ..).trans h2
  · exact h2

theorem homeLines_hart (s : State) (dest : Option (BitVec 2)) (pa n : Nat) (da write : Bool) : (s.homeLines dest pa n da write).hart = s.hart :=
  foldl_frame State.hart (fun _ _ => l2Touch_hart ..) _ s

/-- A line that the core's instruction cache does not hold whole is fetched from memory, and is held then (12 R312, 07 R173). -/
theorem fetch_line {u v : State} {pa : Nat} {cls : BitVec 2} {da : Bool} (hr : resolve u u.hart.who u.hart.pc .fetch = (.ok (.phys pa cls da), v))
    (hp : poisoned v (pa / 128 * 128) 128 = false)
    (hc : pa / 128 ∈ (v.core v.hart.core).icBad ∨ tget (v.core v.hart.core).icache (pa / 128) = none)
    (ho : startOf (memRead v.mem (pa / 128 * 128) 128) (pa % 128) = pa % 128) :
    ∃ w x, u.fetch = (.bytes ((memRead v.mem (pa / 128 * 128) 128).drop (pa % 128)), w) ∧ OnlyLooks v x ∧ w = { x with cores := w.cores }
      ∧ w.hart = v.hart ∧ tget (w.core v.hart.core).icache (pa / 128) = some (leNat (memRead v.mem (pa / 128 * 128) 128)) := by
  have hm : (if pa / 128 ∈ (v.core v.hart.core).icBad then none else tget (v.core v.hart.core).icache (pa / 128)) = none := by
    by_cases k : pa / 128 ∈ (v.core v.hart.core).icBad
    · exact if_pos k
    · exact (if_neg k).trans (hc.resolve_left k)
  have hline : v.fetchLine pa da = (memRead v.mem (pa / 128 * 128) 128, v.fillLine da (pa / 128) (memRead v.mem (pa / 128 * 128) 128)) := by
    unfold State.fetchLine
    dsimp only
    rw [hm]
  obtain ⟨x, hx⟩ : ∃ x, x = (v.scrubbed (pa / 128 * 128) 128).homeLines (some (dieOf v.hart.core)) (pa / 128 * 128) 128 da false := ⟨_, rfl⟩
  have ht : OnlyTranslates v x := hx ▸ onlyTranslates_trans (onlyTranslates_scrubbed ..) (homeLines_frame ..)
  have hh : x.hart = v.hart := by rw [hx, homeLines_hart, scrubbed_hart]
  refine ⟨v.fillLine da (pa / 128) (memRead v.mem (pa / 128 * 128) 128), x, ?_, ht.1, ?_, ?_, ?_⟩
  · unfold State.fetch
    dsimp only
    rw [hr]
    dsimp only
    rw [hp, hline]
    exact (if_neg Bool.false_ne_true).trans (if_pos ho)
  · unfold State.fillLine
    rw [← hx]
    rfl
  · unfold State.fillLine
    rw [← hx]
    exact hh
  · unfold State.fillLine
    rw [← hx, core_modCore, if_pos rfl]
    exact (tget_tset ..).trans (if_pos rfl)

/-- Settles O54: an agenda's move is run as it is; the turn of a hart that may fetch is its fetch. -/
theorem stepRunsDecoded : Obligations.StepRunsDecoded := by
  intro s rest hup
  have hs {m : Move} (ha : s.agenda = m :: rest) : step s = runMove m { s with agenda := rest } := step_moves (stopOf_up hup _) ha
  refine ⟨fun i ha => hs ha, fun n ha => hs ha, fun e ha => hs ha, fun p ha x hx hc ho hb => (hs ha).trans (deliver_arrival p _ x hx hc ho hb), fun r ha => ?_⟩
  have ht : MayFetch (atTurn s rest r) r → step s = runTurn (fetchTurn (atTurn s rest r)) := fun hm =>
    (hs ha).trans (congrArg runTurn (turn_fetches hm))
  generalize atTurn s rest r = u at ht
  refine fun hm => ⟨fun bs v hf hb => ?_, fun c tval pc m v hf => ?_, fun pa cls da v hr hp hc => fetch_line hr hp hc⟩
  · have hk := (ht hm).trans (congrArg runTurn (fetchTurn_bytes hf hb))
    refine ⟨fun i more hd => ?_, fun hd => ?_, fun e hd he => ?_⟩
    · rw [hd] at hk
      exact hk
    · rw [hd] at hk
      exact hk
    · rw [hd] at hk
      cases e with
      | orphanBody => exact absurd rfl he
      | _ => exact hk
  · have hk := ht hm
    unfold fetchTurn at hk
    rw [hf] at hk
    exact hk

/-! ### Packages that have stopped, and reset -/

theorem atReset : AtReset State.reset := by
  refine ⟨rfl, rfl, rfl, rfl, rfl, rfl, rfl, rfl, rfl, rfl, rfl, rfl, fun _ => rfl, fun _ => rfl, ?_, rfl, rfl⟩
  exact fun h hh => (nomatch hh)

/-- What a stopped package still does (02 R43; log 50). -/
def StillDoes (i : Instr) : Prop :=
  i = .perstAssert ∨ i = .bootctlPkrst ∨ (∃ off half, i = .slotManagementAccess 0 .mgt off half none ∧ off.toNat < 0x50)
    ∨ ∃ half d, i = .slotManagementAccess 0 .mgt 8 half (some d) ∧ (carried half d).getLsbD 0 = true

theorem stoppedMove_access {slot : BitVec 4} {block : RegBlock} {off : BitVec 16} {half : Half} {wr : Option Word}
    (h : stoppedMove (.event (.slotManagementAccess slot block off half wr)) = true) : StillDoes (.slotManagementAccess slot block off half wr) := by
  by_cases hs : slot = 0
  · subst hs
    cases block with
    | mgt =>
      cases wr with
      | none => exact Or.inr (Or.inr (Or.inl ⟨_, _, rfl, of_decide_eq_true h⟩))
      | some d =>
        by_cases ho : off = 8
        · subst ho
          exact Or.inr (Or.inr (Or.inr ⟨_, _, rfl, h⟩))
        · unfold stoppedMove stoppedMove.match_1 at h
          change dite (off = 8) _ _ = true at h
          rw [dif_neg ho] at h
          exact absurd h Bool.false_ne_true
    | _ => exact absurd h Bool.false_ne_true
  · unfold stoppedMove stoppedMove.match_1 at h
    change dite (slot = 0) _ _ = true at h
    rw [dif_neg hs] at h
    exact absurd h Bool.false_ne_true

/-- Only the first forms of three constructors go on. -/
theorem stoppedMove_forms (i : Instr) : ([161, 162, 215].contains i.ctorIdx || !stoppedMove (.event i)) = true := by
  induction i with
  | _ => exact Eq.refl true

theorem stoppedMove_event {i : Instr} (h : stoppedMove (.event i) = true) : StillDoes i := by
  have hf := stoppedMove_forms i
  rw [h, Bool.not_true, Bool.or_false, List.contains_iff_mem, List.mem_cons, List.mem_cons, List.mem_singleton] at hf
  obtain hc | hc | hc := hf
  · exact Instr.perstAssert.elim (motive := StillDoes) i hc (Or.inl rfl)
  · exact Instr.bootctlPkrst.elim (motive := StillDoes) i hc (Or.inr (Or.inl rfl))
  · exact Instr.slotManagementAccess.elim (motive := fun i => stoppedMove (.event i) = true → StillDoes i) i hc (fun _ _ _ _ _ => stoppedMove_access) h

theorem stoppedMove_iff (m : Option Move) : m.any stoppedMove = true ↔ ∃ i, m = some (.event i) ∧ StillDoes i := by
  constructor
  · intro h
    cases m with
    | none => exact absurd h Bool.false_ne_true
    | some x =>
      cases x with
      | event i => exact ⟨i, rfl, stoppedMove_event h⟩
      | _ => exact absurd h Bool.false_ne_true
  · rintro ⟨i, rfl, rfl | rfl | ⟨off, half, rfl, h⟩ | ⟨half, d, rfl, h⟩⟩
    · rfl
    · rfl
    · exact decide_eq_true h
    · exact h

theorem stopOf_off {s : State} {m : Option Move} (h : s.pkg.powered = false) (hm : m ≠ some (.event .powerOnReset)) : stopOf s m = some .powerOff :=
  (if_neg hm).trans (if_pos (Bool.eq_false_iff.1 h))

theorem stopOf_stopped {s : State} {m : Option Move} (hp : s.pkg.powered = true) (hs : s.pkg.stopped = true) (hm : m ≠ some (.event .powerOnReset))
    (hr : m ≠ some (.event .powerRemoval)) :
    stopOf s m = if s.pkg.tripOut ∨ ¬ m.any stoppedMove then some .packageStopped else none := by
  unfold stopOf
  rw [if_neg hm, if_neg (not_not.2 hp)]
  exact if_congr (and_iff_right hs |>.trans (and_iff_right hr)) rfl rfl

theorem step_stops {s : State} {f : Fault} (h : stopOf s s.agenda.head? = some f) : step s = .fault f := by
  unfold step
  rw [h]

theorem stoppedPackagesStay : StoppedPackagesStay := by
  refine fun s => ⟨fun hp hm => step_stops (stopOf_off hp hm), fun hp hs hm hr => ?_, fun i rest hi ha => step_moves ?_ ha⟩
  · have hst := stopOf_stopped hp hs hm hr
    have hiff := stoppedMove_iff s.agenda.head?
    refine ⟨fun h => step_stops (hst.trans (if_pos (h.imp_right (mt hiff.1)))), fun ht hg i rest ha => step_moves (hst.trans (if_neg ?_)) ha⟩
    exact not_or.2 ⟨Bool.eq_false_iff.1 ht, not_not.2 (hiff.2 hg)⟩
  · rw [ha]
    obtain rfl | ⟨rfl, hp⟩ := hi
    · exact if_pos rfl
    · exact (if_neg nofun).trans ((if_neg (not_not.2 hp)).trans (if_neg fun k => k.2.1 rfl))

/-- Settles O56: reset by evaluation; a stopped package by the conditions of `stopOf`. -/
theorem resetState : Obligations.ResetState := ⟨atReset, stoppedPackagesStay⟩

end Sys2Proof.ScalarProofs
end

section
/-!
PROOFS. Queues and calls as a hart commands them: TQPUSH, TQPUSH.P and XCALL (05 R118 to R128; 04 R98 to R101).
-/
namespace Sys2Proof.ScalarProofs
open Sys2Proof Sys2Proof.Machine Sys2Proof.Claims Sys2Proof.AccessProofs

/-! ### What the instructions read -/

theorem loadTask_of_load {s u : State} {a : Word} {b : List Byte} (ha : a.toNat % 64 = 0) (h : hartLoad s a 64 = .ok b u) :
    loadTask s a = .ok (taskOfBytes b) u :=
  (if_neg (not_not.2 ha)).trans (congrArg (Res.bind · fun b s => .ok (taskOfBytes b) s) h)

/-- An instruction that begins with the record it reads. -/
theorem exec_loads_task {s u : State} {a : Word} {b : List Byte} (ha : a.toNat % 64 = 0) (h : hartLoad s a 64 = .ok b u)
    {k : TaskRec → State → Res Unit} {i : Instr} (hx : exec i s = ((loadTask s a).bind k).finish s) :
    exec i s = (k (taskOfBytes b) u).finish s :=
  hx.trans (congrArg (fun r : Res TaskRec => (r.bind k).finish s) (loadTask_of_load ha h))

theorem watched_ok {α : Type} {s : State} {va n : Nat} {ld st : Bool} {k : Res α} {x : α} {v : State} (h : watched s va n ld st k = .ok x v) :
    k = .ok x v := by
  unfold watched at h
  generalize watchHit s va n ld st = w at h
  cases w with
  | none => exact h
  | some a =>
    by_cases hd : (s.core s.hart.core).dWpact = true
    · exact absurd ((if_pos hd).symm.trans h) need_ne_ok
    · exact absurd ((if_neg hd).symm.trans h) trap_ne_ok

/-- Reaching a counter is a translation, and no more. -/
theorem counterAt_translates {s v : State} {va : Word} {pa : Nat} (h : counterAt s va = .ok pa v) : OnlyTranslates s v := by
  unfold counterAt at h
  by_cases ha : va.toNat % 8 = 0
  · rw [if_neg (not_not.2 ha)] at h
    cases hr : resolve s s.hart.who va .amo with
    | mk f u =>
      rw [hr] at h
      refine resolve_spec (f := f) (hr.trans ?_)
      cases f with
      | error c => exact absurd h trap_ne_ok
      | ok p =>
        cases p with
        | phys a cls da =>
          by_cases hc : cls = 0
          · have h := watched_ok ((if_pos hc).symm.trans h)
            by_cases hp : poisoned u a 8 = true
            · exact absurd ((if_pos hp).symm.trans h) trap_ne_ok
            · exact congrArg (Prod.mk _) (Res.ok.inj ((if_neg hp).symm.trans h)).2
          · exact absurd ((if_neg hc).symm.trans h) trap_ne_ok
        | _ => exact absurd h trap_ne_ok
  · exact absurd ((if_pos ha).symm.trans h) trap_ne_ok

/-! ### Queues -/

theorem qstore_queues (s : State) : s.qstore.queues = s.queues := by
  unfold State.qstore
  split
  · exact (State.uncount_queues ..).trans (State.freshImage_queues s 2)
  · rfl

theorem modQueue_of_some {s : State} {q : BitVec 16} {f : Queue → Queue} {d : Queue} (h : tget s.queues q.toNat = some d) :
    s.modQueue q f = { s with queues := tset s.queues q.toNat (f d) } := by
  unfold State.modQueue
  rw [h]

theorem append_of_some {s : State} {q : BitVec 16} {r : QRec} {d : Queue} (h : tget s.queues q.toNat = some d) :
    s.append q r = { s.qstore with queues := tset s.queues q.toNat { d with recs := d.recs ++ [r] } } := by
  have hq := qstore_queues s
  exact (modQueue_of_some ((congrArg (fun t => tget t q.toNat) hq).trans h)).trans
    (congrArg (fun t => { s.qstore with queues := tset t q.toNat { d with recs := d.recs ++ [r] } }) hq)

theorem pushTarget_found {s : State} {q : BitVec 16} {d : Queue} (h : pushTarget s q = .ok d) : tget s.queues q.toNat = some d := by
  unfold pushTarget at h
  cases hd : tget s.queues q.toNat with
  | none =>
    rw [hd] at h
    exact absurd h error_ne_ok
  | some e =>
    rw [hd] at h
    dsimp only at h
    by_cases h₁ : e.ctx ≠ s.hart.ctx ∧ (¬ e.opn ∨ ¬ ((s.ctx e.ctx).state = .running ∨ (s.ctx e.ctx).state = .stopped ∨ (s.ctx e.ctx).state = .resetting))
    · exact absurd ((if_pos h₁).symm.trans h) error_ne_ok
    · have h := (if_neg h₁).symm.trans h
      by_cases h₂ : (s.ctx e.ctx).state = .resetting
      · exact absurd ((if_pos h₂).symm.trans h) error_ne_ok
      · exact congrArg some (Except.ok.inj ((if_neg h₂).symm.trans h))

/-- What a push that has room leaves: the record at the end of its queue. -/
def Pushed (v t : State) (rd : Reg) (q : BitVec 16) (d : Queue) (r : QRec) : Prop :=
  WritesOnly { v.writeHome.qstore with queues := t.queues } t rd 0 (v.hart.pc + 4)
    ∧ (∀ k, k ≠ q.toNat → tget t.queues k = tget v.queues k) ∧ tget t.queues q.toNat = some { d with recs := d.recs ++ [r] }

theorem writesOnly_append {v w : State} {rd : Reg} {q : BitVec 16} {d : Queue} {r : QRec}
    (hw : w = { v.writeHome.qstore with queues := tset v.queues q.toNat { d with recs := d.recs ++ [r] } }) :
    ∃ t, w.putX rd 0 = .next t ∧ Pushed v t rd q d r := by
  obtain ⟨t, ht, ho, hx, hr⟩ := putX_spec w rd 0
  have hq : t.queues = w.queues := (congrArg State.queues ho.1 :)
  have hwq : w.queues = tset v.queues q.toNat { d with recs := d.recs ++ [r] } := (congrArg State.queues hw :)
  have hpc : w.hart.pc = v.hart.pc := ((congrArg (fun s : State => s.hart.pc) hw).trans (congrArg Hart.pc (qstore_hart v.writeHome)) :)
  refine ⟨t, ht, ?_, fun k hk => ?_, ?_⟩
  · have hs : { v.writeHome.qstore with queues := t.queues } = w := by rw [hq, hwq, hw]
    rw [hs, ← hpc]
    exact ⟨ho, hx, hr⟩
  · rw [hq, hwq, tget_tset, if_neg hk]
  · rw [hq, hwq, tget_tset, if_pos rfl]

theorem push_appends {v : State} {rd : Reg} {q : BitVec 16} {d : Queue} {r : QRec} (hd : tget v.queues q.toNat = some d) :
    ∃ t, (v.writeHome.append q r).putX rd 0 = .next t ∧ Pushed v t rd q d r :=
  writesOnly_append (append_of_some (s := v.writeHome) hd)

/-- A push parks its record: what is parked grows by it, and nothing else happens. -/
theorem push_parks {v : State} {rd : Reg} {p : Parked} :
    ∃ t, ({ v.writeHome.qstore with park := v.park ++ [p] }).putX rd 0 = .next t
      ∧ WritesOnly { v.writeHome.qstore with park := v.park ++ [p] } t rd 0 (v.hart.pc + 4) := by
  have h := putX_spec { v.writeHome.qstore with park := v.park ++ [p] } rd 0
  exact (congrArg Hart.pc (qstore_hart v.writeHome) :) ▸ h

/-- A push into a queue of `d`, which may have room. -/
noncomputable def pushHere (rd : Reg) (q : BitVec 16) (t : TaskRec) (u : State) (d : Queue) : Res Unit :=
  if d.hwm.toNat ≤ d.depth then .ok () (u.setX rd 1).retire
  else .ok () ((u.writeHome.append q (pushRec u d t)).setX rd 0).retire

/-- A record that waits for its counter. -/
noncomputable def parkedRec (v : State) (q : BitVec 16) (t : TaskRec) (pa : Nat) : Parked :=
  { pa := pa, qid := q, task := t, pusher := v.hart.ctx, released := false, rel := some v.hart.release, bad := false }

/-- A push behind the counter at `pa`. -/
noncomputable def pushBehind (rd : Reg) (q : BitVec 16) (t : TaskRec) (d : Queue) (pa : Nat) (v : State) : Res Unit :=
  if v.sauq.any (fun w => w.line = pa / 128) then .need (.wait .transfer)
  else if memNat v.mem pa 8 = 0 then pushHere rd q t v d
  else if 262144 ≤ v.park.length then .ok () (v.setX rd 1).retire
  else .ok () (({ v.writeHome.qstore with park := v.park ++ [parkedRec v q t pa] } : State).setX rd 0).retire

/-- What a push does with the task it has read: `into` says what it does with a queue that takes it. -/
noncomputable def pushTask (rd : Reg) (a : Word) (q : BitVec 16) (into : TaskRec → State → Queue → Res Unit) (t : TaskRec) (u : State) : Res Unit :=
  if ¬ taskOk (plainTask t) then .trap 0x0E a
  else match pushTarget u q with
    | .error r => .ok () (u.setX rd r).retire
    | .ok d => into (plainTask t) u d

/-- What TQPUSH.P does with a queue that takes its task. -/
noncomputable def pushCounted (rd : Reg) (w : Word) (q : BitVec 16) (t : TaskRec) (u : State) (d : Queue) : Res Unit :=
  (counterAt u w).bind (pushBehind rd q t d)

section
variable {rd : Reg} {a : Word} {q : BitVec 16} {into : TaskRec → State → Queue → Res Unit} {t : TaskRec} {u : State}

theorem pushTask_bad (h : taskOk (plainTask t) = false) : pushTask rd a q into t u = .trap 0x0E a := if_pos (Bool.eq_false_iff.1 h)

theorem pushTask_refused (h : taskOk (plainTask t) = true) {r : Word} (hr : pushTarget u q = .error r) :
    pushTask rd a q into t u = .ok () (u.setX rd r).retire := by
  unfold pushTask
  rw [if_neg (not_not.2 h), hr]

theorem pushTask_taken (h : taskOk (plainTask t) = true) {d : Queue} (hd : pushTarget u q = .ok d) :
    pushTask rd a q into t u = into (plainTask t) u d := by
  unfold pushTask
  rw [if_neg (not_not.2 h), hd]
end

theorem pushHere_full {rd : Reg} {q : BitVec 16} {t : TaskRec} {u s : State} {d : Queue} (h : d.hwm.toNat ≤ d.recs.length) :
    ∃ w, (pushHere rd q t u d).finish s = .next w ∧ WritesOnly u w rd 1 (u.hart.pc + 4) := by
  rw [pushHere, Queue.depth, if_pos h]
  exact putX_spec u rd 1

theorem pushHere_room {rd : Reg} {q : BitVec 16} {t : TaskRec} {u s : State} {d : Queue} (hd : tget u.queues q.toNat = some d)
    (h : d.recs.length < d.hwm.toNat) : ∃ w, (pushHere rd q t u d).finish s = .next w ∧ Pushed u w rd q d (pushRec u d t) := by
  rw [pushHere, Queue.depth, if_neg (Nat.not_le.2 h)]
  exact push_appends hd

section
variable {rd : Reg} {q : BitVec 16} {t : TaskRec} {d : Queue} {pa : Nat} {v : State} (hf : homeFree v pa)
include hf

theorem pushBehind_zero (hz : memNat v.mem pa 8 = 0) : pushBehind rd q t d pa v = pushHere rd q t v d :=
  (if_neg (Bool.eq_false_iff.1 (sauq_of_homeFree hf))).trans (if_pos hz)

theorem pushBehind_noRoom (hz : memNat v.mem pa 8 ≠ 0) (hp : 262144 ≤ v.park.length) : pushBehind rd q t d pa v = .ok () (v.setX rd 1).retire :=
  (if_neg (Bool.eq_false_iff.1 (sauq_of_homeFree hf))).trans ((if_neg hz).trans (if_pos hp))

theorem pushBehind_parks (hz : memNat v.mem pa 8 ≠ 0) (hp : v.park.length < 262144) : pushBehind rd q t d pa v
    = .ok () (({ v.writeHome.qstore with park := v.park ++ [parkedRec v q t pa] } : State).setX rd 0).retire :=
  (if_neg (Bool.eq_false_iff.1 (sauq_of_homeFree hf))).trans ((if_neg hz).trans (if_neg (Nat.not_le.2 hp)))
end

/-- The word that names a counter is the part of x[rs1] above the queue's number. -/
theorem counterWord (x : Word) : BitVec.ofNat 64 (wfield x 16 48) = BitVec.ofNat 64 (x.toNat / 2 ^ 16) :=
  congrArg (BitVec.ofNat 64) ((wfield_div ..).trans (Nat.mod_eq_of_lt (Nat.div_lt_of_lt_mul x.isLt)))

/-- Settles O22: both pushes read their task and find their queue; what they then do is `pushHere` or `pushBehind`. -/
theorem pushesComplete : Obligations.PushesComplete := by
  intro rd rs1 rs2 s u b ha h task q pushed
  have hp : exec (.tqpush rd rs1 rs2) s = (pushTask rd (s.getX rs2) q (pushHere rd q) (taskOfBytes b) u).finish s :=
    exec_loads_task ha h (k := pushTask rd (s.getX rs2) q (pushHere rd q)) rfl
  have hc : exec (.tqpushP rd rs1 rs2) s
      = (pushTask rd (s.getX rs2) q (fun t u => pushCounted rd (BitVec.ofNat 64 (wfield (u.getX rs1) 16 48)) q t u) (taskOfBytes b) u).finish s :=
    exec_loads_task ha h (k := pushTask rd (s.getX rs2) q fun t u => pushCounted rd (BitVec.ofNat 64 (wfield (u.getX rs1) 16 48)) q t u) rfl
  have hpushed {v t : State} {d : Queue} (hr : Pushed v t rd q d (pushRec v d task)) : pushed v t d :=
    ⟨hr.1, hr.2.1, _, hr.2.2, rfl, rfl, rfl, rfl⟩
  refine ⟨fun hb => forall_mem_cons (hp.trans ?_) (forall_mem_cons (hc.trans ?_) (List.forall_mem_nil _)), fun r hok hr =>
    forall_mem_cons ?_ (forall_mem_cons ?_ (List.forall_mem_nil _)), fun d hok hd => ?_⟩
  · rw [pushTask_bad hb]; rfl
  · rw [pushTask_bad hb]; rfl
  · rw [hp, pushTask_refused hok hr]; exact putX_spec u rd r
  · rw [hc, pushTask_refused hok hr]; exact putX_spec u rd r
  have hfound := pushTarget_found hd
  rw [pushTask_taken hok hd] at hp hc
  refine ⟨fun hr => ?_, fun hr => hp ▸ pushHere_full hr, fun pa v hv hf => ?_⟩
  · obtain ⟨t, ht, hr⟩ := pushHere_room (rd := rd) (t := task) (s := s) hfound hr
    exact ⟨t, hp.trans ht, hpushed hr⟩
  have hc : exec (.tqpushP rd rs1 rs2) s = (pushBehind rd q task d pa v).finish s :=
    hc.trans (congrArg (fun r : Res Nat => (r.bind (pushBehind rd q task d)).finish s) ((congrArg (counterAt u) (counterWord _)).trans hv))
  have hq : v.queues = u.queues := (congrArg State.queues (counterAt_translates hv).1.1 :)
  refine ⟨fun hz hr => ?_, fun hz hr => ?_, fun hz hr => ?_, fun hz hr => ?_⟩
  · rw [hc, pushBehind_zero hf hz]; exact pushHere_full hr
  · rw [hc, pushBehind_noRoom hf hz hr]; exact putX_spec v rd 1
  · obtain ⟨t, ht, hr⟩ := pushHere_room (rd := rd) (t := task) (s := s) ((congrArg (fun t => tget t q.toNat) hq).trans hfound) hr
    exact ⟨t, hc.trans ((congrArg (Res.finish · s) (pushBehind_zero hf hz)).trans ht), hpushed hr⟩
  · obtain ⟨t, ht, hk⟩ := push_parks (v := v) (rd := rd) (p := parkedRec v q task pa)
    exact ⟨t, parkedRec v q task pa, hc.trans ((congrArg (Res.finish · s) (pushBehind_parks hf hz hr)).trans ht), hk, rfl, rfl, rfl, rfl, rfl, rfl⟩

/-! ### XCALL -/

/-- The entry that an XCALL makes at `i`. -/
noncomputable def callEntry (u : State) (d : TaskRec) (tag : BitVec 16) (i : Nat) : SendEntry :=
  sendEntryOf u d tag (tgetD (u.core u.hart.core).sendGen i 0 + 1) (((u.core u.hart.core).send.map (fun e => e.2.order + 1)).foldl max 0)

/-- The machine with the entry in the send queue. -/
noncomputable def called (u : State) (d : TaskRec) (tag : BitVec 16) (i : Nat) : State :=
  u.writeHome.modCore u.hart.core fun c =>
    { c with send := tset c.send i (callEntry u d tag i), sendGen := tset c.sendGen i (tgetD (u.core u.hart.core).sendGen i 0 + 1) }

theorem enter_none {u : State} {d : TaskRec} {tag : BitVec 16} (h : freeEntry (u.core u.hart.core).send = none) : u.enter d tag = (1, u) := by
  unfold State.enter
  dsimp only
  rw [h]

theorem enter_some {u : State} {d : TaskRec} {tag : BitVec 16} {i : Nat} (h : freeEntry (u.core u.hart.core).send = some i) :
    u.enter d tag = (0, called u d tag i) := by
  unfold State.enter
  dsimp only
  rw [h]
  rfl

theorem freeEntry_none {t : Table SendEntry} (h : ∀ i < 64, (tget t i).isSome = true) : freeEntry t = none :=
  List.find?_eq_none.2 fun i hi => by rw [← Option.not_isSome, h i (List.mem_range.1 hi)]; decide

theorem freeEntry_first {t : Table SendEntry} {i : Nat} (hi : i < 64) (h : tget t i = none) (hj : ∀ j < i, (tget t j).isSome = true) :
    freeEntry t = some i := by
  refine List.find?_range_eq_some.2 ⟨by rw [h]; rfl, List.mem_range.2 hi, fun j k => ?_⟩
  rw [← Option.not_isSome, Bool.not_not]
  exact hj j k

/-- What XCALL does with the descriptor that it has read. -/
noncomputable def callTask (rd : Reg) (a : Word) (tag : BitVec 16) (d : TaskRec) (u : State) : Res Unit :=
  if descBad d then .trap 0x0F a else .ok () ((u.enter d tag).2.setX rd (u.enter d tag).1).retire

theorem called_frame {u t : State} {d : TaskRec} {tag : BitVec 16} {i : Nat} (h : OnlyHart (called u d tag i) t) :
    t = { u with hart := t.hart, cores := t.cores, dir := t.dir } := by
  have hd : t.dir = (called u d tag i).dir := (congrArg State.dir h.1 :)
  rw [hd]
  exact h.1

theorem called_core (u : State) (d : TaskRec) (tag : BitVec 16) (i : Nat) (c : BitVec 8) :
    (called u d tag i).core c = if c = u.hart.core then { u.core u.hart.core with
        send := tset (u.core u.hart.core).send i (callEntry u d tag i)
        sendGen := tset (u.core u.hart.core).sendGen i (tgetD (u.core u.hart.core).sendGen i 0 + 1) } else u.core c := core_modCore ..

/-- An instruction is counted by its own core. -/
theorem count_core_other {s : State} {ev n : Nat} {d : BitVec 8} (h : d ≠ s.hart.core) : (s.count ev n).core d = s.core d := by
  unfold State.count
  generalize tget s.cores s.hart.core.toNat = o
  cases o with
  | none => rfl
  | some c => exact (tgetD_tset ..).trans (if_neg fun e => h (BitVec.eq_of_toNat_eq e))

theorem retireAt_core_other {s : State} {pc : Word} {d : BitVec 8} (h : d ≠ s.hart.core) : (s.retireAt pc).core d = s.core d :=
  (count_core_other (s := { s with hart := { s.hart.retired with pc := pc } }) h).trans (core_of_cores rfl d)

theorem setX_cores (s : State) (rd : Reg) (v : Word) : (s.setX rd v).cores = s.cores := by
  unfold State.setX
  split
  · rfl
  · rfl

theorem putX_core_other {s t : State} {rd : Reg} {v : Word} (h : s.putX rd v = .next t) {d : BitVec 8} (hd : d ≠ s.hart.core) :
    t.core d = s.core d := by
  have hh : (s.setX rd v).hart.core = s.hart.core := (congrArg Hart.core (setX_hart s rd v) :)
  rw [← Host.Outcome.next.inj h]
  exact (retireAt_core_other (hh ▸ hd)).trans (core_of_cores (setX_cores s rd v) d)

/-- Settles O23: the call enters the send queue or not, and the rest is a register write. -/
theorem xcallCompletes : Obligations.XcallCompletes := by
  intro rd rs1 rs2 s u b ha h c
  have hx : exec (.xcall rd rs1 rs2) s = (callTask rd (s.getX rs1) ((s.getX rs2).setWidth 16) (taskOfBytes b) u).finish s :=
    exec_loads_task ha h (k := callTask rd (s.getX rs1) ((s.getX rs2).setWidth 16)) rfl
  refine ⟨fun hb => hx.trans (congrArg (Res.finish · s) (if_pos hb)), fun hb hf => ?_, fun i hi hb hn hf => ?_⟩
  · rw [hx, callTask, if_neg (Bool.eq_false_iff.1 hb), enter_none (freeEntry_none hf)]
    exact putX_spec u rd 1
  · rw [callTask, if_neg (Bool.eq_false_iff.1 hb), enter_some (freeEntry_first hi hn hf)] at hx
    obtain ⟨t, ht, ho, hw, hr⟩ := putX_spec (called u (taskOfBytes b) ((s.getX rs2).setWidth 16) i) rd 0
    have hc := called_core u (taskOfBytes b) ((s.getX rs2).setWidth 16) i
    refine ⟨t, callEntry u (taskOfBytes b) ((s.getX rs2).setWidth 16) i, hx.trans ht, hw, hr, called_frame ho, fun d hd => ?_, ?_, rfl, rfl, rfl, rfl, rfl, rfl, rfl, rfl⟩
    · exact (putX_core_other ht hd).trans ((hc d).trans (if_neg hd))
    · exact (ho.2 u.hart.core).trans (congrArg (fun k : Core => { k with pm := (t.core u.hart.core).pm }) ((hc u.hart.core).trans (if_pos rfl)))

end Sys2Proof.ScalarProofs
end

section
/-!
PROOFS. GBAR, TYIELD and TEXIT (05 R129, R134; 04 R108).
-/
namespace Sys2Proof.ScalarProofs
open Sys2Proof Sys2Proof.Machine Sys2Proof.Claims Sys2Proof.AccessProofs

/-! ### GBAR -/

/-- Events are counted by cores, and nothing else happens. -/
def CountsCores (s t : State) : Prop := t = { s with cores := t.cores } ∧ OnlyCounts s t

theorem countsCores_trans {s t u : State} (h : CountsCores s t) (k : CountsCores t u) : CountsCores s u :=
  ⟨k.1.trans (congrArg (fun v : State => { v with cores := u.cores }) h.1), onlyCounts_trans h.2 k.2⟩

theorem countsCores_countFor (s : State) (h : Hart) (ev n : Nat) : CountsCores s (s.countFor h ev n) :=
  ⟨(congrArg (fun v : State => { v with hart := s.hart }) (count_eq { s with hart := h } ev n) :), onlyCounts_count { s with hart := h } ev n⟩

theorem countsCores_foldl (l : List Hart) (s : State) : CountsCores s (l.foldl (fun s h => s.countFor h 1 1) s) := by
  induction l generalizing s with
  | nil => exact ⟨Eq.refl s, onlyCounts_refl s⟩
  | cons h l ih => exact countsCores_trans (countsCores_countFor s h 1 1) (ih _)

theorem modGang_of_some {s : State} {id : BitVec 16} {f : Gang → Gang} {g : Gang} (h : tget s.gangs id.toNat = some g) :
    s.modGang id f = { s with gangs := tset s.gangs id.toNat (f g) } := by
  unfold State.modGang
  rw [h]

/-- A hart that waits in the barrier of a gang passes it. -/
noncomputable def passes (id : BitVec 16) (h : Hart) : Hart := if h.gang = id ∧ h.wait = .gbar then passedBarrier h else h

theorem passBarrier_spec {s : State} {id : BitVec 16} {g : Gang} (h : tget s.gangs id.toNat = some g) :
    CountsCores ({ s with gangs := tset s.gangs id.toNat { g with barGen := g.barGen + 1, barArr := 0 } }.mapHarts (passes id)) (s.passBarrier id) := by
  unfold State.passBarrier
  rw [modGang_of_some h]
  exact countsCores_foldl _ _

/-- The machine that has passed a barrier at its own hart. -/
theorem retire_passes {s v t : State} {id : BitVec 16} {gs : Table Gang} (hw : s.hart.wait ≠ .gbar)
    (h : CountsCores ({ s with gangs := gs }.mapHarts (passes id)) v) (ht : t = v.retire) :
    t.hart = passedBarrier s.hart ∧ t.harts = s.harts.map (passes id) ∧ t.gangs = gs
      ∧ t = { s with hart := t.hart, harts := t.harts, gangs := t.gangs, cores := t.cores } ∧ OnlyCounts s t := by
  have hh : ({ s with gangs := gs }.mapHarts (passes id)).hart = s.hart :=
    (ite_eq_right_iff.2 fun _ => if_neg fun k => hw k.2 : (if s.hart.live then passes id s.hart else s.hart) = s.hart)
  have hv : v.hart = s.hart := (congrArg State.hart h.1 :).trans hh
  obtain ⟨ho, hr⟩ := onlyHart_retireAt v (v.hart.pc + 4)
  have hth := retireAt_hart v (v.hart.pc + 4)
  subst ht
  have e1 : v.retire.harts = s.harts.map (passes id) := (congrArg State.harts ho).trans (congrArg State.harts h.1)
  have e2 : v.retire.gangs = gs := (congrArg State.gangs ho).trans (congrArg State.gangs h.1)
  refine ⟨hth.trans (hv ▸ rfl), e1, e2, ?_, onlyCounts_trans (onlyCounts_trans (onlyCounts_of_cores rfl) h.2) hr⟩
  rw [e1, e2]
  exact ho.trans (congrArg (fun x : State => { x with hart := v.retire.hart, cores := v.retire.cores }) h.1)

/-- What GBAR does once nothing is left that a release waits for, in a gang that is there. -/
theorem exec_gbar {s : State} {g : Gang} (hg : tget s.gangs s.hart.gang.toNat = some g) (hf : fenceReady s = true) :
    exec .gbar s = if g.ended ≠ 0 then .next (s.writeHome.takeTrap 0x17 0 none)
      else if g.barArr ||| BitVec.twoPow 64 s.hart.rank.toNat = ranksOf g ∧ g.savedRanks = 0 then .next (s.writeHome.passBarrier s.hart.gang).retire
      else .next ((s.writeHome.modGang s.hart.gang fun x => { x with barArr := g.barArr ||| BitVec.twoPow 64 s.hart.rank.toNat }).applyNeed
        (.wait .gbar)) := by
  refine Eq.trans (b := execGbar s) rfl ?_
  unfold execGbar
  rw [if_neg (not_not.2 hf)]
  dsimp only
  rw [show tget s.writeHome.gangs s.writeHome.hart.gang.toNat = some g from hg]
  rfl

theorem barrierCompletes : BarrierCompletes := by
  intro s g hg hf arrived
  have hx := exec_gbar hg hf
  refine ⟨fun he ha hs hw => ?_, fun he ha => ?_, fun he => hx.trans (if_pos he)⟩
  · have hx := hx.trans ((if_neg (not_not.2 he)).trans (if_pos ⟨ha, hs⟩))
    exact ⟨_, hx, retire_passes (s := s.writeHome) hw (passBarrier_spec (s := s.writeHome) hg) rfl⟩
  · refine hx.trans ((if_neg (not_not.2 he)).trans ((if_neg fun k => ha k.1).trans ?_))
    rw [modGang_of_some (s := s.writeHome) hg]
    rfl

/-! ### TYIELD -/

theorem yieldCompletes : YieldCompletes := by
  refine fun s => ⟨fun h => ⟨s.retire, if_neg fun k => ?_, goesOn_retireAt s _⟩, fun hp hd hr => ⟨s.retire, goesOn_retireAt s _, ?_⟩⟩
  · exact h.elim (fun e => Bool.eq_false_iff.1 e k.1) k.2
  · exact (if_pos ⟨hp, Bool.eq_false_iff.1 hd⟩).trans (if_pos hr)

/-! ### TEXIT -/

/-- Storage, banks, tiles, links and purses are free again, and nothing else happens. -/
def Frees (s t : State) : Prop :=
  t = { s with linkTable := t.linkTable, cores := t.cores, clusters := t.clusters, banks := t.banks, ctxs := t.ctxs }

theorem frees_refl (s : State) : Frees s s := Eq.refl s

theorem frees_trans {s t u : State} (h : Frees s t) (k : Frees t u) : Frees s u :=
  k.trans (congrArg (fun x : State => { x with
    linkTable := u.linkTable, cores := u.cores, clusters := u.clusters, banks := u.banks, ctxs := u.ctxs }) h)

theorem frees_foldl {α : Type} {f : State → α → State} (hf : ∀ s a, Frees s (f s a)) (l : List α) (s : State) : Frees s (l.foldl f s) := by
  induction l generalizing s with
  | nil => exact frees_refl s
  | cons a l ih => exact frees_trans (hf s a) (ih _)

theorem frees_settleX (s : State) (c : BitVec 8) : Frees s (s.settleX c) :=
  iteInduction (motive := Frees s) (fun _ => frees_foldl (fun s _ => Eq.refl (s.setBank ..)) _ s)
    (fun _ => iteInduction (motive := Frees s) (fun _ => frees_refl s) (fun _ => Eq.refl (s.queueWork ..)))

theorem frees_settlePurse (s : State) (c : BitVec 8) (k : Nat) : Frees s (s.settlePurse c k) :=
  iteInduction (motive := Frees s) (fun _ => frees_refl s) (fun _ => Eq.refl (s.modCore c _))

theorem frees_freeGangBanks (s : State) (g : Gang) : Frees s (s.freeGangBanks g) :=
  iteInduction (motive := Frees s) (fun _ => frees_foldl (fun s _ => Eq.refl (s.freeBank _)) _ s)
    (fun _ => iteInduction (motive := Frees s) (fun _ => frees_refl s) (fun _ => Eq.refl (s.queueWork ..)))

theorem frees_freeFrame (s : State) (g : Gang) : Frees s (freeFrame s g) := by
  unfold freeFrame
  generalize g.frame = o
  cases o with
  | none => exact frees_refl s
  | some f => exact Eq.refl (s.modCtx g.ctx _)

theorem frees_stopDone (s : State) (c : BitVec 8) : Frees s (s.stopDone c) :=
  iteInduction (motive := Frees s) (fun _ => Eq.refl (s.modCtx c _)) (fun _ => frees_refl s)

/-- The machine without a hart. -/
noncomputable def without (s : State) (h : Hart) : State :=
  if s.hart.live ∧ s.hart.ref = h.ref then { s with hart := { Hart.empty with core := h.core, slot := h.slot } }
  else { s with harts := s.harts.filter (fun g => ¬ (g.live ∧ g.ref = h.ref)) }

/-- A hart is gone, and what it held is free. -/
theorem freeHart_frees (s : State) (h : Hart) : Frees (without s h) (s.freeHart h) := by
  unfold State.freeHart without
  generalize (if s.hart.live ∧ s.hart.ref = h.ref then { s with hart := { Hart.empty with core := h.core, slot := h.slot } }
    else { s with harts := s.harts.filter (fun g => ¬ (g.live ∧ g.ref = h.ref)) } : State) = u
  have hu (c : BitVec 8) (m : LinkEntry → Bool) (f : Core → Core) : Frees u (((u.breakLinks 0 (2 ^ 52) m).modCore c f).settleX c) :=
    frees_trans (Eq.refl ((u.breakLinks 0 (2 ^ 52) m).modCore c f)) (frees_settleX ..)
  cases h.purse s with
  | none => exact hu ..
  | some k => exact frees_trans (hu ..) (frees_settlePurse ..)

/-- The gang that a rank has left. -/
noncomputable def leftGang (h : Hart) (g : Gang) : Gang :=
  { g with ended := g.ended ||| BitVec.twoPow 64 h.rank.toNat, userEnd := g.userEnd && !h.sup }

/-- The machine that the current hart leaves, which is to end. -/
noncomputable def leaving (s : State) (g : Gang) : State :=
  { s.writeHome.doneTiles with gangs := tset s.gangs s.hart.gang.toNat (leftGang s.hart g) }

/-- The machine without the hart. -/
noncomputable def left (s : State) (g : Gang) : State := (leaving s g).freeHart (leaving s g).hart

theorem endHart_eq {s : State} {g : Gang} (hg : tget s.gangs s.hart.gang.toNat = some g) :
    s.endHart = match tget (left s g).gangs s.hart.gang.toNat with
      | none => left s g
      | some x => if x.ended = ranksOf x then (left s g).endTask s.hart.gang x else (left s g).breakBarrier s.hart.gang := by
  unfold State.endHart
  dsimp only
  rw [modGang_of_some (s := s.writeHome.doneTiles) hg]
  rfl

theorem left_frees {s : State} {g : Gang} (hl : s.hart.live = true) :
    Frees { leaving s g with hart := { Hart.empty with core := s.hart.core, slot := s.hart.slot } } (left s g) :=
  (congrArg (Frees · (left s g)) (if_pos ⟨hl, rfl⟩)).mp (freeHart_frees (leaving s g) (leaving s g).hart)

/-- What the hart leaves as it was. -/
def LeavesAlone (s t : State) : Prop := t.hart.live = false ∧ t.harts = s.harts ∧ t.mem = s.mem

theorem left_alone {s : State} {g : Gang} (hl : s.hart.live = true) : LeavesAlone s (left s g) := by
  have h := left_frees (g := g) hl
  exact ⟨(congrArg (fun x : State => x.hart.live) h :), (congrArg State.harts h :), (congrArg State.mem h :)⟩

theorem left_gangs {s : State} {g : Gang} (hl : s.hart.live = true) : (left s g).gangs = tset s.gangs s.hart.gang.toNat (leftGang s.hart g) :=
  (congrArg State.gangs (left_frees (g := g) hl) :)

theorem exec_texit {s : State} {g : Gang} (hl : s.hart.live = true) (hr : exitReady s = true) (hg : tget s.gangs s.hart.gang.toNat = some g) :
    exec .texit s = .next (if (leftGang s.hart g).ended = ranksOf g then (left s g).endTask s.hart.gang (leftGang s.hart g)
      else (left s g).breakBarrier s.hart.gang) := by
  refine (if_pos hr).trans (congrArg Host.Outcome.next ((endHart_eq hg).trans ?_))
  rw [left_gangs hl, tget_tset, if_pos rfl]
  rfl

/-- What is owed after the last rank. -/
noncomputable def endOf (id : BitVec 16) (g : Gang) : TaskEnd :=
  { ctx := g.ctx, gang := id, queue := g.queue, join := g.task.w2, rslot := wfield g.task.w0 48 16, outcome := if g.userEnd then 1 else 2, rels := [] }

/-- The machine that owes what is left of a task. -/
noncomputable def owing (s : State) (id : BitVec 16) (g : Gang) : State :=
  { s with gangs := tdel s.gangs id.toNat
           ends := if g.task.w2 ≠ 0 then s.ends ++ [endOf id g] else s.ends
           reports := if wbit g.task.w0 47 then s.reports ++ [endOf id g] else s.reports }

theorem endTask_frees (s : State) (id : BitVec 16) (g : Gang) : Frees (owing s id g) (s.endTask id g) := by
  have hf : Frees s (freeFrame (s.freeGangBanks g) g) := frees_trans (frees_freeGangBanks s g) (frees_freeFrame _ g)
  unfold State.endTask
  dsimp only
  generalize freeFrame (s.freeGangBanks g) g = v at hf
  have ho : Frees (owing s id g) (owing v id g) :=
    (congrArg (fun x : State => owing x id g) hf :)
  refine frees_trans ho ((congrArg (fun x : State => Frees (owing v id g) (x.stopDone g.ctx)) ?_).mpr (frees_stopDone _ _))
  unfold owing
  by_cases h₁ : g.task.w2 ≠ 0
  · by_cases h₂ : wbit g.task.w0 47 = true
    · simp only [if_pos h₁, if_pos h₂]; rfl
    · simp only [if_pos h₁, if_neg h₂]; rfl
  · by_cases h₂ : wbit g.task.w0 47 = true
    · simp only [if_neg h₁, if_pos h₂]; rfl
    · simp only [if_neg h₁, if_neg h₂]

/-! ### A broken barrier -/

/-- Which ranks of a gang have ended, and whether all in user mode. -/
noncomputable def endedIn (gs : Table Gang) (id : BitVec 16) : Option (BitVec 64 × Bool) := (tget gs id.toNat).map fun x => (x.ended, x.userEnd)

theorem traceRec_gangs (s : State) (kind : Nat) (w : Word) : (s.traceRec kind w).gangs = s.gangs := by
  unfold State.traceRec
  exact (State.modDie_gangs ..).trans ((State.putMem_gangs ..).trans (State.putMem_gangs ..))

theorem trace_gangs (s : State) (kind : Nat) (w : Word) : (s.trace kind w).gangs = s.gangs := by
  unfold State.trace
  dsimp only
  split
  · split
    · exact State.modDie_gangs ..
    · split
      · exact traceRec_gangs ..
      · exact (traceRec_gangs ..).trans ((State.modDie_gangs ..).trans (traceRec_gangs ..))
  · rfl

theorem trapCounted_gangs (s : State) (cause : BitVec 8) (tval : Word) : (trapCounted s cause tval).gangs = s.gangs :=
  (congrArg State.gangs (trapCounted_eq s cause tval).1 :)

/-- A fatal fault changes nothing of a gang but the flags of its task. -/
theorem faultGangs_map {α : Type} {φ : Gang → α} (hφ : ∀ g t, φ { g with task := t } = φ g) (s : State) (c : BitVec 8) (id : Nat) :
    (tget (s.faultGangs c).gangs id).map φ = (tget s.gangs id).map φ := by
  unfold State.faultGangs
  dsimp only
  generalize s.gangs = gs
  induction gs with
  | nil => rfl
  | cons p gs ih =>
    rw [List.map_cons]
    split
    · unfold tget
      split
      · exact congrArg some (hφ ..)
      · exact ih
    · unfold tget
      split
      · rfl
      · exact ih

theorem fatalFault_map {α : Type} {φ : Gang → α} (hφ : ∀ g t, φ { g with task := t } = φ g) (s : State) (c cause : BitVec 8) (gang : BitVec 16)
    (pc addr : Word) (id : Nat) : (tget (s.fatalFault c cause gang pc addr).gangs id).map φ = (tget s.gangs id).map φ := by
  unfold State.fatalFault
  dsimp only
  generalize ({ time := s.pkg.dtime, kind := 1, cause := cause, gang := gang, handler := 0xFFFF, queue := 0xFFFF, addr := addr, pc := pc } : FaultRec) = r
  rw [show s.gangs = (s.postFault c r).gangs from (congrArg State.gangs (records_postFault s c r).1 :).symm]
  generalize s.postFault c r = v
  generalize (v.ctx c).state = st
  cases st with
  | running => exact iteInduction (motive := fun u : State => (tget u.gangs id).map φ = _) (fun _ => faultGangs_map hφ ..) (fun _ => faultGangs_map hφ ..)
  | _ => rfl

/-- A fatal fault does not say that a rank has ended. -/
theorem fatalFault_ended (s : State) (c cause : BitVec 8) (gang : BitVec 16) (pc addr : Word) (id : BitVec 16) :
    endedIn (s.fatalFault c cause gang pc addr).gangs id = endedIn s.gangs id := fatalFault_map (fun _ _ => rfl) ..

theorem takeTrap_ended (s : State) (cause : BitVec 8) (tval : Word) (cv : Option TrapCv) (id : BitVec 16) :
    endedIn (s.takeTrap cause tval cv).gangs id = endedIn s.gangs id := by
  by_cases h : CanTrap s
  · rw [takeTrap_of_canTrap h]
    exact congrArg (endedIn · id) ((trace_gangs ..).trans ((State.count_gangs ..).trans (trapCounted_gangs ..)))
  · rw [takeTrap_of_not_canTrap h, fatalFault_ended, trapCounted_gangs]

theorem select_gangs (s : State) (r : HartRef) : (s.select r).gangs = s.gangs := by
  unfold State.select
  split
  · rfl
  · split
    · rfl
    · rfl

theorem breakBarrier_ended (s : State) (g id : BitVec 16) : endedIn (s.breakBarrier g).gangs id = endedIn s.gangs id :=
  foldl_frame (fun v : State => endedIn v.gangs id) (fun v _ => iteInduction (motive := fun u : State => endedIn u.gangs id = endedIn v.gangs id)
    (fun _ => (takeTrap_ended ..).trans (congrArg (endedIn · id) (select_gangs ..))) (fun _ => rfl)) _ s

theorem breakBarrier_none {s : State} {g : BitVec 16} (hl : s.hart.live = false) (h : ∀ k ∈ s.harts, k.gang = g → k.wait ≠ .gbar) :
    s.breakBarrier g = s := by
  have hf : (s.gangHarts g).filter (fun h => h.wait = .gbar) = [] := List.filter_eq_nil_iff.2 fun k hk hw => by
    unfold State.gangHarts State.allHarts at hk
    rw [if_neg (Bool.eq_false_iff.1 hl)] at hk
    exact h k (List.mem_filter.1 hk).1 (of_decide_eq_true (List.mem_filter.1 hk).2) (of_decide_eq_true hw)
  unfold State.breakBarrier
  rw [hf]
  rfl

theorem exitCompletes : ExitCompletes := by
  intro s g hl hr hg ended user
  have hx := exec_texit hl hr hg
  obtain ⟨a1, a2, a3⟩ := left_alone (g := g) hl
  have hgs := left_gangs (g := g) hl
  refine ⟨fun he => ⟨_, hx.trans (congrArg Host.Outcome.next (if_neg he)), ?_, fun hn => ?_⟩, fun he =>
    ⟨_, hx.trans (congrArg Host.Outcome.next (if_pos he)), ?_⟩⟩
  · refine (breakBarrier_ended ..).trans ?_
    unfold endedIn
    rw [hgs, tget_tset, if_pos rfl]
    rfl
  · rw [breakBarrier_none a1 (a2.symm ▸ hn)]
    exact ⟨a1, a2, a3⟩
  · have hf := endTask_frees (left s g) s.hart.gang (leftGang s.hart g)
    have he : (left s g).ends = s.ends := (congrArg State.ends (left_frees (g := g) hl) :)
    have hrp : (left s g).reports = s.reports := (congrArg State.reports (left_frees (g := g) hl) :)
    have hte := (congrArg State.ends hf).trans (congrArg (fun l => if g.task.w2 ≠ 0 then l ++ [endOf s.hart.gang (leftGang s.hart g)] else l) he :)
    have htr := (congrArg State.reports hf).trans
      (congrArg (fun l => if wbit g.task.w0 47 then l ++ [endOf s.hart.gang (leftGang s.hart g)] else l) hrp :)
    refine ⟨(congrArg (fun x : State => x.hart.live) hf).trans a1, (congrArg State.harts hf).trans a2, (congrArg State.mem hf).trans a3,
      (congrArg State.gangs hf).trans (congrArg (fun x => tdel x s.hart.gang.toNat) hgs), fun h0 => hte.trans (if_neg (not_not.2 h0)),
      fun h0 => ⟨_, hte.trans (if_pos h0), rfl, rfl⟩, fun h0 => htr.trans (if_neg (Bool.eq_false_iff.1 h0)),
      fun h0 => ⟨_, htr.trans (if_pos h0), ?_, rfl⟩⟩
    exact (wfield_div ..).trans (Nat.mod_eq_of_lt (Nat.div_lt_of_lt_mul g.task.w0.isLt))

/-- Settles O24. -/
theorem barriersYieldsAndExitsComplete : Obligations.BarriersYieldsAndExitsComplete := ⟨barrierCompletes, yieldCompletes, exitCompletes⟩

end Sys2Proof.ScalarProofs
end

section
/-!
PROOFS. SXFER, SORT, ESTAT and ECANCEL (09 R230 to R239; 15 R421 to R423).
-/
namespace Sys2Proof.ScalarProofs
open Sys2Proof Sys2Proof.Machine Sys2Proof.Claims Sys2Proof.AccessProofs

/-! ### An engine's queue -/

theorem engQueue_set (s : State) (e : EngineRef) (q : List EngXfer) : engQueue (s.setEngQueue e q) e = q := by
  cases e with
  | stream c => exact congrArg Cluster.stream ((cluster_modCluster ..).trans (if_pos rfl))
  | sort d => exact congrArg Die.sort ((die_modDie ..).trans (if_pos rfl))

theorem engQueue_of_same {s t : State} (hc : t.clusters = s.clusters) (hd : t.dies = s.dies) (e : EngineRef) : engQueue t e = engQueue s e := by
  cases e with
  | stream c => exact congrArg Cluster.stream (cluster_of_clusters hc c)
  | sort d => exact congrArg Die.sort (die_of_dies hd d)

theorem engQueue_of_onlyHart {s t : State} (h : OnlyHart s t) (e : EngineRef) : engQueue t e = engQueue s e :=
  engQueue_of_same (congrArg State.clusters h.1 :) (congrArg State.dies h.1 :) e

theorem setEngQueue_hart (s : State) (e : EngineRef) (q : List EngXfer) : (s.setEngQueue e q).hart = s.hart := by cases e <;> rfl
theorem setEngQueue_harts (s : State) (e : EngineRef) (q : List EngXfer) : (s.setEngQueue e q).harts = s.harts := by cases e <;> rfl
theorem setEngQueue_mem (s : State) (e : EngineRef) (q : List EngXfer) : (s.setEngQueue e q).mem = s.mem := by cases e <;> rfl

/-! ### Accepting a transfer -/

/-- The transfer that SXFER and SORT submit. -/
noncomputable def submitted (h : Hart) (id : BitVec 16) (b : TaskRec) (count : Nat) : EngXfer :=
  { core := h.core, slot := h.slot, ctx := h.ctx, gang := h.gang, rank := h.rank, id := id, sup := h.sup, blk := b, count := count
    rel := { h.release with xfers := [] }, started := false, left := List.range count, cur := none, cancelled := false, replies := []
    waiting := false, maxV := 0 }

/-- Its entry in the hart's table. -/
noncomputable def submittedEntry (id : BitVec 16) (b : TaskRec) (sort : Bool) : Xfer :=
  { id := id, state := .running, code := 0, addr := 0, irq := blkIrq b, handler := blkHandler b, sort := sort, order := 0 }

/-- A transfer has joined its engine's queue and the hart's table. -/
def Accepts (s t : State) (e : EngineRef) (x : EngXfer) (k : Xfer) : Prop :=
  t.hart = { s.hart with xfers := s.hart.xfers ++ [k] } ∧ t.mem = s.mem ∧ engQueue t e = engQueue s e ++ [x]

theorem setBank_frame {s w : State} (h : w = { s with banks := w.banks }) (i : Nat) (b : Bank) :
    w.setBank i b = { s with banks := (w.setBank i b).banks } := (congrArg (fun v : State => { v with banks := (w.setBank i b).banks }) h :)

theorem enterWriters_frame (s : State) (x : EngXfer) : s.enterWriters x = { s with banks := (s.enterWriters x).banks } :=
  List.foldlRecOn (motive := fun w : State => w = { s with banks := w.banks }) _ _ (Eq.refl s) fun _ h i _ => setBank_frame h i _

/-- Room for one more transfer. -/
def XferRoom (s : State) (e : EngineRef) : Prop := s.hart.xfers.length < 32 ∧ (s.core s.hart.core).arit.length < 32 ∧ (engQueue s e).length < 32

theorem accept_noRoom {s : State} {e : EngineRef} (h : ¬ XferRoom s e) (id : BitVec 16) (b : TaskRec) (sort : Bool) (n : Nat) :
    s.accept e id b sort n = none := by
  refine if_pos ?_
  rw [XferRoom, not_and_or, not_and_or, Nat.not_lt, Nat.not_lt, Nat.not_lt] at h
  exact h

/-- The engine has the transfer, and the core and the hart note it. -/
theorem accepts_noted (s : State) (e : EngineRef) (x : EngXfer) (k : Xfer) (f : Core → Core) :
    Accepts s (((s.setEngQueue e (engQueue s e ++ [x])).modCore s.hart.core f).withHart fun h => { h with xfers := h.xfers ++ [k] }) e x k := by
  have hh := setEngQueue_hart s e (engQueue s e ++ [x])
  have hm := setEngQueue_mem s e (engQueue s e ++ [x])
  have hq := engQueue_set s e (engQueue s e ++ [x])
  generalize s.setEngQueue e (engQueue s e ++ [x]) = v at hh hm hq
  exact ⟨(congrArg (fun h : Hart => { h with xfers := h.xfers ++ [k] }) hh :), hm,
    (engQueue_of_same (Eq.refl v.clusters) (Eq.refl v.dies) e).trans hq⟩

theorem accepts_enterWriters {s t : State} {e : EngineRef} {x : EngXfer} {k : Xfer} (h : Accepts s t e x k) (y : EngXfer) :
    Accepts s (t.enterWriters y) e x k := by
  have hf := enterWriters_frame t y
  generalize t.enterWriters y = v at hf
  exact ⟨(congrArg State.hart hf :).trans h.1, (congrArg State.mem hf :).trans h.2.1,
    (engQueue_of_same (congrArg State.clusters hf :) (congrArg State.dies hf :) e).trans h.2.2⟩

theorem accept_room {s : State} {e : EngineRef} (h : XferRoom s e) {id : BitVec 16} {b : TaskRec} {sort : Bool} {n : Nat}
    (hn : if sort then pairsOf b ≠ 0 else n ≠ 0) :
    ∃ t, s.accept e id b sort n = some t ∧ Accepts s t e (submitted s.hart id b n) (submittedEntry id b sort) := by
  obtain ⟨h1, h2, h3⟩ := h
  have hr : ¬ (32 ≤ s.hart.xfers.length ∨ 32 ≤ (s.core s.hart.core).arit.length ∨ 32 ≤ (engQueue s e).length) :=
    not_or.2 ⟨Nat.not_le.2 h1, not_or.2 ⟨Nat.not_le.2 h2, Nat.not_le.2 h3⟩⟩
  have ha := accepts_noted s e (submitted s.hart id b n) (submittedEntry id b sort)
  cases sort with
  | true => exact ⟨_, (if_neg hr).trans ((if_pos rfl).trans (if_neg hn)), ha _⟩
  | false => exact ⟨_, (if_neg hr).trans ((if_neg Bool.false_ne_true).trans (if_neg hn)), accepts_enterWriters (ha _) _⟩

/-- The engine that SXFER or SORT commands. -/
noncomputable def engineOf (u : State) (sort : Bool) : EngineRef :=
  if sort then .sort (dieOf u.hart.core) else .stream (clusterOf u.hart.core)

/-- What SXFER and SORT do with a transfer that is accepted, or not. -/
noncomputable def answerAccept (rd : Reg) (u : State) (o : Option State) : Res Unit :=
  match o with
  | none => .ok () (u.setX rd 1).retire
  | some t => .ok () (t.setX rd 0).retire

/-- What they do with the block they have read. -/
noncomputable def submitTask (rd : Reg) (p : Word) (id : BitVec 16) (sort : Bool) (b : TaskRec) (u : State) : Res Unit :=
  if u.hart.xfers.any (fun x => x.id = id) then .trap 0x0F p
  else if !(if sort then sortOk b else streamOk b) then .trap 0x0F p
  else answerAccept rd u (u.accept (engineOf u sort) id b sort (if sort then 1 else u.hart.vl.toNat))

theorem exec_submit {rd rs1 rs2 : Reg} {s u : State} {b : List Byte} (sort : Bool) (ha : (s.getX rs1).toNat % 64 = 0)
    (h : hartLoad s (s.getX rs1) 64 = .ok b u) :
    exec (if sort then .sort rd rs1 rs2 else .sxfer rd rs1 rs2) s
      = (submitTask rd (s.getX rs1) ((s.getX rs2).setWidth 16) sort (taskOfBytes b) u).finish s := by
  cases sort with
  | true => exact exec_loads_task ha h (k := submitTask rd (s.getX rs1) ((s.getX rs2).setWidth 16) true) rfl
  | false => exact exec_loads_task ha h (k := submitTask rd (s.getX rs1) ((s.getX rs2).setWidth 16) false) rfl

theorem idFree_iff (l : List Xfer) (id : BitVec 16) : (∀ x ∈ l, x.id ≠ id) ↔ ¬ l.any (fun x => x.id = id) = true := by
  rw [Bool.not_eq_true, List.any_eq_false]
  exact forall₂_congr fun x _ => (decide_eq_true_iff.not).symm

theorem transfersAreAccepted : TransfersAreAccepted := by
  intro rd rs1 rs2 s u b sort ha h blk id i e ok free room
  have hx := exec_submit (rd := rd) (rs2 := rs2) sort ha h
  have hfree := idFree_iff u.hart.xfers id
  have hgo (hok : ok = true) (hf : free) : exec i s
      = (answerAccept rd u (u.accept e id blk sort (if sort then 1 else u.hart.vl.toNat))).finish s :=
    hx.trans (congrArg (Res.finish · s) ((if_neg (hfree.1 hf)).trans (if_neg fun k => by rw [Bool.not_eq_true'] at k; exact absurd (hok.symm.trans k) nofun)))
  refine ⟨fun hb => hx.trans (congrArg (a₂ := .trap 0x0F (s.getX rs1)) (Res.finish · s) ?_), fun hok hf hn => ?_, fun hok hf hr hn => ?_⟩
  · by_cases hf : u.hart.xfers.any (fun x => x.id = id) = true
    · exact if_pos hf
    · refine (if_neg hf).trans (if_pos (show (!ok) = true from ?_))
      rw [hb.resolve_right (not_not.2 (hfree.2 hf))]
      rfl
  · rw [hgo hok hf, accept_noRoom hn]
    exact putX_spec u rd 1
  · obtain ⟨v, hv, hvh, hvm, hvq⟩ := accept_room (e := e) hr (id := id) (b := blk) (sort := sort) (n := if sort then 1 else u.hart.vl.toNat)
      (by cases sort with
        | true => exact hn
        | false => exact fun k => hn (BitVec.eq_of_toNat_eq k))
    obtain ⟨t, ht, ho, hw, hret⟩ := putX_spec v rd 0
    have hgo := hgo hok hf
    rw [hv] at hgo
    refine ⟨t, submitted u.hart id blk _, submittedEntry id blk sort, hgo.trans ht, fun r => (hw r).trans ?_, (congrArg State.mem ho.1 :).trans hvm, ?_, (engQueue_of_onlyHart ho e).trans hvq,
      rfl, rfl, rfl, rfl, rfl, rfl, rfl, rfl, rfl⟩
    · rw [getX_eq (congrArg Hart.x hvh :) r]
    · rw [hvh] at hret
      exact hret

/-! ### Status and cancelling -/

theorem ownerOf_current {s : State} {y : EngXfer} (hl : s.hart.live = true) (hg : y.gang = s.hart.gang) (hr : y.rank = s.hart.rank) :
    ownerOf s y = some s.hart := by
  unfold ownerOf State.allHarts
  rw [if_pos hl]
  exact List.find?_cons_of_pos (by rw [hg, hr, decide_eq_true rfl, decide_eq_true rfl]; rfl)

/-- What a transfer that has ended leaves of its hart, memory and queue. -/
def EndsOwn (s t : State) (e : EngineRef) (y : EngXfer) (h : Hart) : Prop :=
  t.hart = h ∧ t.mem = s.mem ∧ engQueue t e = (engQueue s e).filter (fun z => !z.same y)

/-- A hart whose transfer has ended is told, and so is its core. -/
theorem tellsOwner {s w : State} {e : EngineRef} {y : EngXfer} (hh : w.hart = s.hart) (hm : w.mem = s.mem)
    (hq : engQueue w e = (engQueue s e).filter (fun z => !z.same y)) (hl : s.hart.live = true) (c : BitVec 8) (f : Core → Core) (k : Hart → Hart) :
    EndsOwn s ((w.modCore c f).modHart w.hart.ref k) e y (k s.hart) := by
  have hs : (w.modCore c f).modHart w.hart.ref k = { w.modCore c f with hart := k w.hart } := if_pos ⟨hh ▸ hl, rfl⟩
  rw [hs]
  exact ⟨congrArg k hh, hm, (engQueue_of_same (Eq.refl w.clusters) (Eq.refl w.dies) e).trans hq⟩

/-- A transfer of the current hart's own that its engine ends leaves the queue, and its entry tells how it ended. -/
theorem endXfer_own {s : State} {e : EngineRef} {y : EngXfer} {st : XferState} {code : BitVec 8} {addr : Word} (hl : s.hart.live = true)
    (hg : y.gang = s.hart.gang) (hr : y.rank = s.hart.rank) (hc : code ≠ 5) :
    EndsOwn s (s.endXfer e y st code addr) e y (s.hart.endXfer y.id st code (field addr 0 48)) := by
  have hh := setEngQueue_hart s e ((engQueue s e).filter fun z => !z.same y)
  have hm := setEngQueue_mem s e ((engQueue s e).filter fun z => !z.same y)
  have hq := engQueue_set s e ((engQueue s e).filter fun z => !z.same y)
  unfold State.endXfer
  dsimp only
  rw [if_neg hc]
  generalize s.setEngQueue e ((engQueue s e).filter fun z => !z.same y) = v at hh hm hq
  generalize (tget (v.dropWriter y).gangs y.gang.toNat).any (fun g => wbit g.savedRanks y.rank.toNat) = saved
  have hw (k : Gang → Gang) : ∃ w, (if saved = true then (v.dropWriter y).modGang y.gang k else v.dropWriter y) = w ∧ w.hart = s.hart ∧ w.mem = s.mem
      ∧ engQueue w e = (engQueue s e).filter (fun z => !z.same y) := by
    refine ⟨_, rfl, ?_⟩
    split
    · exact ⟨(State.modGang_hart ..).trans hh, (State.modGang_mem ..).trans hm,
        (engQueue_of_same (State.modGang_clusters ..) (State.modGang_dies ..) e).trans hq⟩
    · exact ⟨hh, hm, hq⟩
  obtain ⟨w, e1, hwh, hwm, hwq⟩ := hw _
  rw [e1, ownerOf_current (hwh ▸ hl) (hwh ▸ hg) (hwh ▸ hr)]
  exact tellsOwner hwh hwm hwq hl _ _ _

/-- The transfer that the hart names, running in an engine, is its own. -/
theorem runningXfer_own {s : State} {id : BitVec 16} {e : EngineRef} {y : EngXfer} (h : runningXfer s id = some (e, y)) :
    y.gang = s.hart.gang ∧ y.rank = s.hart.rank ∧ y.id = id := by
  have hm {l : List EngXfer} {f : EngXfer → EngineRef × EngXfer} (hf : ∀ x, (f x).2 = x)
      (k : (l.find? fun x => x.gang = s.hart.gang && x.rank = s.hart.rank && x.id = id).map f = some (e, y)) :
      y.gang = s.hart.gang ∧ y.rank = s.hart.rank ∧ y.id = id := by
    obtain ⟨x, hx, he⟩ := Option.map_eq_some_iff.1 k
    have hp := List.find?_some hx
    rw [Bool.and_eq_true, Bool.and_eq_true] at hp
    have hy : x = y := (hf x).symm.trans (congrArg Prod.snd he)
    exact hy ▸ ⟨of_decide_eq_true hp.1.1, of_decide_eq_true hp.1.2, of_decide_eq_true hp.2⟩
  unfold runningXfer at h
  obtain h | ⟨_, h⟩ := Option.or_eq_some_iff.1 (Option.orElse_eq_or .. ▸ h)
  · obtain ⟨c, _, hc⟩ := List.exists_of_findSome?_eq_some h
    exact hm (fun _ => rfl) hc
  · obtain ⟨d, _, hd⟩ := List.exists_of_findSome?_eq_some h
    exact hm (fun _ => rfl) hd

/-- The entry of a transfer in its hart's table. -/
noncomputable def entryOfXfer (s : State) (id : BitVec 16) : Option Xfer := s.hart.xfers.find? fun x => x.id = id

/-- What ESTAT does with an entry of its hart's table. -/
noncomputable def statusOf (rd : Reg) (s : State) (o : Option Xfer) : Out :=
  match o with
  | none => s.putX rd 0
  | some x => (if x.state ≠ .running ∧ ¬ x.irq then s.withHart (fun h => { h with xfers := h.xfers.erase x }) else s).putX rd (BitVec.ofNat 64 x.status)

theorem exec_estat {rd rs1 : Reg} {s : State} {o : Option Xfer} (h : entryOfXfer s ((s.getX rs1).setWidth 16) = o) :
    exec (.estat rd rs1) s = statusOf rd s o := by
  subst h
  rfl

/-- What ECANCEL does with a transfer that an engine runs. -/
noncomputable def cancelRunning (rd : Reg) (s : State) (p : EngineRef × EngXfer) : Out :=
  let quiet := !p.2.waiting && p.2.maxV ≤ s.pkg.dtime.toNat
  if p.2.left.isEmpty then
    if quiet then .next ((s.finishXfer p.1 p.2).setX rd 1).retire else .next (s.applyNeed (.wait .transfer))
  else if quiet then .next ((s.freshWord.2.endXfer p.1 p.2 .failed 8 s.freshWord.1).setX rd 0).retire
  else .next ((s.putXfer p.1 { p.2 with cancelled := true }).applyNeed (.wait .transfer))

/-- What ECANCEL does with an entry of its hart's table, and with what an engine runs. -/
noncomputable def cancelOf (rd : Reg) (s : State) (r : Option (EngineRef × EngXfer)) (o : Option Xfer) : Out :=
  match o with
  | none => s.putX rd 2
  | some x => if x.state ≠ .running then s.putX rd 1 else match r with
    | none => s.putX rd 1
    | some p => cancelRunning rd s p

theorem exec_ecancel {rd rs1 : Reg} {s : State} {o : Option Xfer} (h : entryOfXfer s ((s.getX rs1).setWidth 16) = o)
    {r : Option (EngineRef × EngXfer)} (hr : runningXfer s ((s.getX rs1).setWidth 16) = r) : exec (.ecancel rd rs1) s = cancelOf rd s r o := by
  refine Eq.trans (b := execEcancel rd rs1 s) rfl ?_
  unfold execEcancel
  dsimp only
  rw [show s.hart.xfers.find? (fun x => x.id = field (s.getX rs1) 0 16) = o from h, show runningXfer s (field (s.getX rs1) 0 16) = r from hr]
  cases o with
  | none => rfl
  | some x => cases r <;> rfl

theorem cancelled_table (h : Hart) (id : BitVec 16) (a : BitVec 48) :
    (h.endXfer id .failed 8 a).xfers.map (fun z => (z.id, z.state, z.code))
      = h.xfers.map fun z => if z.id = id ∧ z.state = .running then (z.id, XferState.failed, (8 : BitVec 8)) else (z.id, z.state, z.code) := by
  refine (List.map_map ..).trans (List.map_congr_left fun z _ => ?_)
  exact iteInduction (motive := fun x : Xfer => (x.id, x.state, x.code) = if z.id = id ∧ z.state = .running
    then (z.id, XferState.failed, (8 : BitVec 8)) else (z.id, z.state, z.code)) (fun k => (if_pos k).symm) (fun k => (if_neg k).symm)

theorem cancelRunning_quiet {rd : Reg} {s : State} {id : BitVec 16} {e : EngineRef} {y : EngXfer} (hr : runningXfer s id = some (e, y))
    (hleft : y.left ≠ []) (hw : y.waiting = false) (hv : y.maxV ≤ s.pkg.dtime.toNat) (hl : s.hart.live = true) :
    ∃ t, cancelRunning rd s (e, y) = .next t ∧ Writes s t rd 0 ∧ t.mem = s.mem ∧ t.hart.pc = s.hart.pc + 4
      ∧ (∀ z ∈ engQueue t e, z.same y = false)
      ∧ t.hart.xfers.map (fun z => (z.id, z.state, z.code)) = s.hart.xfers.map (fun z =>
          if z.id = id ∧ z.state = .running then (z.id, XferState.failed, (8 : BitVec 8)) else (z.id, z.state, z.code)) := by
  obtain ⟨hg, hk, rfl⟩ := runningXfer_own hr
  obtain ⟨h1, h2, h3⟩ := endXfer_own (s := s.freshWord.2) (e := e) (st := .failed) (code := 8) (addr := s.freshWord.1) hl hg hk (by decide)
  have hx : cancelRunning rd s (e, y) = (s.freshWord.2.endXfer e y .failed 8 s.freshWord.1).putX rd 0 :=
    (if_neg (by rw [List.isEmpty_iff]; exact hleft)).trans (if_pos (by rw [hw, decide_eq_true hv]; rfl))
  generalize s.freshWord.2.endXfer e y .failed 8 s.freshWord.1 = v at h1 h2 h3 hx
  obtain ⟨t, ht, ho, hx', hret⟩ := putX_spec v rd 0
  have hxs : t.hart.xfers = v.hart.xfers := (congrArg Hart.xfers hret :)
  refine ⟨t, hx.trans ht, fun r => (hx' r).trans ?_, (congrArg State.mem ho.1 :).trans h2, (congrArg Hart.pc hret :).trans ?_, fun z hz => ?_, ?_⟩
  · rw [getX_eq (t := v) (s := s) (congrArg Hart.x h1 :) r]
  · exact (congrArg (fun h : Hart => h.pc + 4) h1 :)
  · rw [engQueue_of_onlyHart ho, h3] at hz
    exact (Bool.not_eq_true' _).mp (List.mem_filter.1 hz).2
  · rw [hxs, h1]
    exact cancelled_table s.hart y.id _

theorem transferStatusAndCancelComplete : TransferStatusAndCancelComplete := by
  intro rd rs1 s id entry
  refine ⟨fun hn => ⟨?_, ?_⟩, fun x hs => ⟨fun hx => ?_, fun hx hi => ?_, fun hx => ?_, fun e y hx hr hleft hw hv hl => ?_⟩⟩
  · rw [exec_estat hn]; exact putX_spec s rd 0
  · rw [exec_ecancel hn rfl]; exact putX_spec s rd 2
  · have hk : ¬ (x.state ≠ .running ∧ ¬ x.irq = true) := fun k => hx.elim k.1 k.2
    rw [exec_estat hs]
    exact (congrArg (fun v : State => ∃ t, v.putX rd (BitVec.ofNat 64 x.status) = .next t
      ∧ WritesOnly s t rd (BitVec.ofNat 64 x.status) (s.hart.pc + 4)) (if_neg hk)).mpr (putX_spec s rd _)
  · have hk : x.state ≠ .running ∧ ¬ x.irq = true := ⟨hx, Bool.eq_false_iff.1 hi⟩
    rw [exec_estat hs]
    exact (congrArg (fun v : State => ∃ t, v.putX rd (BitVec.ofNat 64 x.status) = .next t
      ∧ WritesOnly { s with hart := { s.hart with xfers := s.hart.xfers.erase x } } t rd (BitVec.ofNat 64 x.status) (s.hart.pc + 4)) (if_pos hk)).mpr
      (putX_spec (s.withHart fun h => { h with xfers := h.xfers.erase x }) rd _)
  · rw [exec_ecancel hs rfl]
    obtain ⟨t, ht, h⟩ := putX_spec s rd 1
    exact ⟨t, (if_pos hx).trans ht, h⟩
  · have he : exec (.ecancel rd rs1) s = cancelRunning rd s (e, y) := (exec_ecancel hs hr).trans (if_neg (not_not.2 hx))
    obtain ⟨t, ht, h⟩ := cancelRunning_quiet (rd := rd) hr hleft hw hv hl
    exact ⟨t, he.trans ht, h⟩

/-- Settles O25. -/
theorem transferCommandsComplete : Obligations.TransferCommandsComplete := ⟨transfersAreAccepted, transferStatusAndCancelComplete⟩

end Sys2Proof.ScalarProofs
end

section
/-!
PROOFS. The conversions (14 R382 to R384; 11 R303).
-/
namespace Sys2Proof.ConvertProofs
open Sys2Proof.Machine hiding takes
open Sys2Proof.Claims Sys2Proof.VectorProofs

/-! ### What the conversions share -/

theorem pairGroup_eq (b : Body) (w v : Nat) : pairGroup b w v = if w ≤ v ∨ v = 0 then grpOf b else grpOf b * (w / v) := by
  unfold pairGroup
  exact if_congr (by rw [Bool.or_eq_true, decide_eq_true_iff, decide_eq_true_iff]) rfl rfl

theorem groupD_eq (b : Body) : pairGroup b (wOf b) (eewOf (stypeOf b)) = groupD b := pairGroup_eq ..

theorem groupS_eq (b : Body) : pairGroup b (eewOf (stypeOf b)) (wOf b) = groupS b := pairGroup_eq ..

theorem cvtOps_eq (b : Body) : cvtOps b = [dst b.vd (groupD b) (wOf b), src b.vs1 (groupS b) (sw b)] := by
  unfold cvtOps
  dsimp only
  rw [groupD_eq, groupS_eq]
  rfl

theorem groups_eq (b : Body) : max (pairGroup b (wOf b) (eewOf (stypeOf b))) (pairGroup b (eewOf (stypeOf b)) (wOf b)) = max (groupD b) (groupS b) := by
  rw [groupD_eq, groupS_eq]

section
variable {b : Body} {m : BitVec 12}

theorem satOf_of_only (h : only b m) (hm : wbit m 1 = false) : satOf b = false := by
  have hb := congrArg (fun x : BitVec 12 => x.getLsbD 1) h
  have hn : (~~~ m).getLsbD 1 = true := by rw [BitVec.getLsbD_not, show m.getLsbD 1 = false from hm]; rfl
  rw [BitVec.getLsbD_and, hn, Bool.and_true] at hb
  exact hb

theorem efOf_of_only (h : only b m) (hm : wbit m 2 = false) : efOf b = false := by
  have hb := congrArg (fun x : BitVec 12 => x.getLsbD 2) h
  have hn : (~~~ m).getLsbD 2 = true := by rw [BitVec.getLsbD_not, show m.getLsbD 2 = false from hm]; rfl
  rw [BitVec.getLsbD_and, hn, Bool.and_true] at hb
  exact hb

/-- Fewer modifiers are admitted where more are. -/
theorem only_of_le {n : BitVec 12} (h : only b m) (hmn : ~~~ m &&& ~~~ n = ~~~ n) : only b n := by
  unfold only at *
  rw [← hmn, ← BitVec.and_assoc, h]
  exact BitVec.zero_and
end

/-- The checks of a conversion (12 R323, R324; 14 R382). -/
theorem convert_good {b : Body} {h : Hart} {m : BitVec 12} {legal : Bool} (hl : legal = true) (hm : only b m) (h2 : b.vs2 = 0) (h3 : b.vs3 = 0)
    (hr : modeOk h) : (!legal || modBad b m || decide (b.vs2 ≠ 0) || decide (b.vs3 ≠ 0) || frmBad h.captured) = false := by
  rw [hl, modBad_of_only hm, frmBad_of_modeOk hr, decide_eq_false (not_not.2 h2), decide_eq_false (not_not.2 h3)]
  rfl

/-- A conversion of each element by itself performs as its line says (14 R382). -/
theorem performs_convertEach {make : Body → Instr} {mods mods' : BitVec 12} {pair : Body → Prop} {f : Body → Nat → Nat → Nat × BitVec 5}
    {b : Body} {s : State} {legal : Bool} {g : Nat → Nat → Elem} (hl : legal = true) (hm : only b mods → only b mods')
    (hg : ∀ mode v, g mode v = felem (f b mode v)) : Performs (convertForm make mods pair (convertEach f)) b s (cvtMember b mods' legal g) where
  ops := cvtOps_eq b
  group := groups_eq b
  good := fun h => by
    obtain ⟨-, hmod, h2, h3, hr⟩ := h
    exact convert_good hl (hm hmod) h2 h3 hr
  pc := takes_pc _ _ _ _
  instret := takes_instret _ _ _ _
  run _ _ u k hu := by
    dsimp only [cvtMember, Member.plain, convertForm, convertEach, cond_true, later]
    exact writeElems_run hu b _ _ _ _ fun e => hg _ _

/-! ### Sets of types -/

theorem inS_of_mem {t : Nat} (h : t ∈ setS) : inS t = true := decide_eq_true h
theorem inB_of_mem {t : Nat} (h : t ∈ setB) : inB t = true := decide_eq_true h
theorem inQ_of_mem {t : Nat} (h : t ∈ setQ) : inQ t = true := by
  unfold inQ
  rw [Bool.or_eq_true, Bool.or_eq_true, decide_eq_true_iff, decide_eq_true_iff]
  obtain h | h := List.mem_append.1 h
  · exact .inl (.inl (inI_of_mem h))
  · obtain h | h := List.mem_pair.1 h
    · exact .inl (.inr h)
    · exact .inr h

theorem inSF_of_mem {t : Nat} (h : t ∈ setS ∨ t ∈ setF) : (inS t || inF t) = true :=
  Bool.or_eq_true _ _ ▸ h.imp inS_of_mem inF_of_mem

/-- The types that are converted element by element are not those of blocks. -/
theorem notB_of_mem {t : Nat} (h : t ∈ setS ∨ t ∈ setF ∨ t = 28) : inB t = false ∧ (t ∈ setS ∨ t ∈ setF → t ≠ 28) := by
  have hall : ∀ t ∈ 28 :: (setS ++ setF), inB t = false ∧ (t ∈ setS ∨ t ∈ setF → t ≠ 28) := by decide
  refine hall t (List.mem_cons.2 ?_)
  rw [List.mem_append]
  exact h.elim (fun h => .inr (.inl h)) fun h => h.elim (fun h => .inr (.inr h)) .inl

/-! ### To and from integers, and widening (14 R382, R383) -/

theorem completes_vfcvtFX : (convertForm .vfcvtFX 0x3F2 (fun b => (tyOf b ∈ setS ∨ tyOf b ∈ setF) ∧ sty b ∈ setQ)
    (convertEach (fun b mode v => (format (tyOf b)).round mode (wbit b.mod 1) (elemValue (sty b) v)))).Completes :=
  completes_of_performs (m := fun b _ => vfcvtFXMember b) (fun _ _ => rfl) fun b s hl =>
    performs_convertEach (by
      obtain ⟨_, _, _, ⟨hd, ht⟩, _⟩ := hl
      rw [inSF_of_mem hd]
      exact inQ_of_mem ht) id fun _ _ => rfl

theorem completes_vfcvtXF : (convertForm .vfcvtXF 0x3F0 (fun b => tyOf b ∈ setQ ∧ (sty b ∈ setS ∨ sty b ∈ setF))
    (convertEach (fun b mode v => toInt (wOf b) (tySigned (tyOf b)) mode (elemValue (sty b) v)))).Completes :=
  completes_of_performs (m := fun b _ => vfcvtXFMember b) (fun _ _ => rfl) fun b s hl =>
    performs_convertEach (by
      obtain ⟨_, _, _, ⟨hd, ht⟩, _⟩ := hl
      rw [inQ_of_mem hd]
      exact inSF_of_mem ht) id fun _ _ => rfl

/-- The legality of a widening conversion. -/
noncomputable def widenLegal (b : Body) : Bool :=
  inF (tyOf b) && (inS (sty b) || inB (sty b) || inF (sty b) || decide (sty b = 28)) && decide (sw b < wOf b)

theorem vfwcvtMember_each {b : Body} (h : inB (sty b) = false) :
    vfwcvtMember b = cvtMember b 0x3F0 (widenLegal b) fun mode v => felem ((format (tyOf b)).round mode false (elemValue (sty b) v)) :=
  if_neg (Bool.eq_false_iff.1 h)

theorem widenLegal_of {b : Body} (hd : tyOf b ∈ setF) (ht : (inS (sty b) || inB (sty b) || inF (sty b) || decide (sty b = 28)) = true)
    (hw : sw b < wOf b) : widenLegal b = true := by
  unfold widenLegal
  rw [inF_of_mem hd, ht, decide_eq_true hw]
  rfl

theorem completes_vfwcvt : (convertForm .vfwcvt 0x3F0 (fun b => tyOf b ∈ setF ∧ (sty b ∈ setS ∨ sty b ∈ setF ∨ sty b = 28) ∧ sw b < wOf b)
    (convertEach (fun b mode v => (format (tyOf b)).round mode false (elemValue (sty b) v)))).Completes :=
  completes_of_performs (m := fun b _ => vfwcvtMember b) (fun _ _ => rfl) fun b s hl => by
    obtain ⟨_, _, _, ⟨hd, ht, hw⟩, _⟩ := hl
    rw [vfwcvtMember_each (notB_of_mem ht).1]
    refine performs_convertEach (widenLegal_of hd ?_ hw) id fun _ _ => rfl
    obtain h | h | h := ht
    · rw [inS_of_mem h]; rfl
    · rw [inF_of_mem h, Bool.or_true]; rfl
    · rw [decide_eq_true h, Bool.or_true]

/-! ### Narrowing (14 R382) -/

/-- The legality of a narrowing conversion that is not of blocks. -/
noncomputable def narrowLegal (b : Body) : Bool :=
  (inS (tyOf b) || inF (tyOf b) || decide (tyOf b = 28)) && inF (sty b) && decide (wOf b ≤ sw b) && decide (tyOf b ≠ sty b)
    && !(decide (tyOf b = 28) && satOf b) && !(efOf b && !(decide (sty b = 20) && (decide (tyOf b = 18) || decide (tyOf b = 19) || inS (tyOf b))))

/-- The member of a narrowing conversion that is not of blocks. -/
noncomputable def narrowMember (b : Body) : Member :=
  cvtMember b 0x3F6 (narrowLegal b) fun mode v =>
    if tyOf b = 28 then felem (toE8M0 (elemValue (sty b) v)) else felem ((format (tyOf b)).round mode (satOf b) (elemValue (sty b) v))

theorem vfncvtMember_each {b : Body} (hb : inB (tyOf b) = false) (he : efOf b = false) : vfncvtMember b = narrowMember b :=
  (if_neg (Bool.eq_false_iff.1 hb)).trans (if_neg (Bool.eq_false_iff.1 he))

theorem vfncvtMember_chain {b : Body} (hb : inB (tyOf b) = false) (he : efOf b = true) : vfncvtMember b = { narrowMember b with run := efRun b } :=
  (if_neg (Bool.eq_false_iff.1 hb)).trans (if_pos he)

theorem narrowLegal_of {b : Body} (hd : (inS (tyOf b) || inF (tyOf b) || decide (tyOf b = 28)) = true) (ht : sty b ∈ setF) (hw : wOf b ≤ sw b)
    (hne : tyOf b ≠ sty b) (hs : (decide (tyOf b = 28) && satOf b) = false)
    (he : (efOf b && !(decide (sty b = 20) && (decide (tyOf b = 18) || decide (tyOf b = 19) || inS (tyOf b)))) = false) :
    narrowLegal b = true := by
  unfold narrowLegal
  rw [hd, inF_of_mem ht, decide_eq_true hw, decide_eq_true hne, hs, he]
  rfl

theorem completes_vfncvt : (convertForm .vfncvt 0x3F2 (fun b => (tyOf b ∈ setS ∨ tyOf b ∈ setF) ∧ sty b ∈ setF ∧ wOf b ≤ sw b ∧ tyOf b ≠ sty b)
    (convertEach (fun b mode v => (format (tyOf b)).round mode (wbit b.mod 1) (elemValue (sty b) v)))).Completes :=
  completes_of_performs (m := fun b _ => vfncvtMember b) (fun _ _ => rfl) fun b s hl => by
    obtain ⟨_, _, _, ⟨hd, ht, hw, hne⟩, hm, _⟩ := hl
    have hb := notB_of_mem (hd.imp_right .inl)
    have he := efOf_of_only hm rfl
    rw [vfncvtMember_each hb.1 he]
    refine performs_convertEach (narrowLegal_of ?_ ht hw hne ?_ ?_) (only_of_le · (by decide)) fun _ _ => if_neg (hb.2 hd)
    · rw [inSF_of_mem hd]; rfl
    · rw [decide_eq_false (hb.2 hd)]; rfl
    · rw [he]; rfl

theorem eew_le_of_setF {t : Nat} (h : t ∈ setF) : eewOf 28 ≤ eewOf t ∧ 28 ≠ t := by
  revert t
  decide

theorem completes_toScale : (convertForm .vfncvt 0x3F0 (fun b => tyOf b = 28 ∧ sty b ∈ setF)
    (convertEach (fun b _ v => toE8M0 (elemValue (sty b) v)))).Completes :=
  completes_of_performs (m := fun b _ => vfncvtMember b) (fun _ _ => rfl) fun b s hl => by
    obtain ⟨_, _, _, ⟨hd, ht⟩, hm, _⟩ := hl
    have he := efOf_of_only hm rfl
    obtain ⟨hw, hne⟩ := eew_le_of_setF ht
    rw [vfncvtMember_each (notB_of_mem (.inr (.inr hd))).1 he]
    refine performs_convertEach (narrowLegal_of ?_ ht ?_ (hd ▸ hne) ?_ ?_) (only_of_le · (by decide)) fun _ _ => if_pos hd
    · rw [decide_eq_true hd, Bool.or_true]
    · unfold wOf; exact (congrArg eewOf hd).trans_le hw
    · rw [satOf_of_only hm rfl, Bool.and_false]
    · rw [he]; rfl

/-! ### Error-feedback narrowing (11 R303) -/

theorem efChain_stripsOf (f : Fmt) (mode : Nat) (sat : Bool) (h k : Hart) (v : Nat) (es : List Nat) (c : Nat) :
    efChain f mode sat (stripsOf h k) v es c = efChain f mode sat h v es c := by
  induction es generalizing c with
  | nil => rfl
  | cons e es ih =>
    exact congrArg (fun r : List (Nat × Elem) × Nat => ((e, felem _) :: r.1, r.2)) (ih _)

theorem efChain_sat (f : Fmt) (mode : Nat) (sat : Bool) (h : Hart) (v : Nat) (es : List Nat) (c : Nat) :
    (efChain f mode sat h v es c).1.any (fun r => r.2.sat) = false := by
  induction es generalizing c with
  | nil => rfl
  | cons e es ih => exact ih _

/-- The carry that a chain starts from. -/
noncomputable def carryIn (b : Body) (h : Hart) : Nat := if h.vcarryFmt = b.ty then h.vcarryRes.toNat else 0

/-- What a chain leaves of its hart. -/
noncomputable def chained (b : Body) (h : Hart) (r : List (Nat × Elem) × Nat) : Hart :=
  { takes h b.vd.toNat (wOf b) r.1 with vcarryFmt := b.ty, vcarryRes := BitVec.ofNat 32 r.2 }

/-- The chain of a hart from its first element on. -/
noncomputable def chainOf (b : Body) (h : Hart) : List (Nat × Elem) × Nat :=
  efChain (format (tyOf b)) h.vfrm.toNat (wbit b.mod 1) h b.vs1.toNat (later b h) (carryIn b h)

/-- What the model's chain leaves of its hart. -/
noncomputable def chainHart (b : Body) (h : Hart) (r : List (Nat × Elem) × Nat) : Hart :=
  { (h.vputs b.vd.toNat (wOf b) (r.1.map fun i => (i.1, i.2.val))).raise (r.1.foldl (fun a i => a ||| i.2.fl) 0) false with
    vcarryFmt := b.ty, vcarryRes := BitVec.ofNat 32 r.2 }

theorem chainHart_stripsOf (b : Body) (h k : Hart) {r : List (Nat × Elem) × Nat} (hr : r.1.any (fun x => x.2.sat) = false) :
    chainHart b (stripsOf h k) r = stripsOf (chained b h r) k := by
  unfold chained chainHart
  rw [takes_eq, hr, vputs_stripsOf]
  rfl

theorem efRun_eq {b : Body} {c : Captured} {lo hi : Nat} {u : State} (h : ¬ hi < c.vl) {r : List (Nat × Elem) × Nat}
    (hr : efChain (format (tyOf b)) c.vfrm.toNat (satOf b) u.hart b.vs1.toNat (u.hart.actives b lo hi) (carryIn b u.hart) = r) :
    efRun b c lo hi u = .ok { u with hart := chainHart b u.hart r } := by
  subst hr
  exact if_neg (by rw [Bool.and_eq_true, decide_eq_true_iff]; exact fun k => h k.2)

theorem efRun_chain {b : Body} {s u : State} {k : Hart} (hu : u.hart = stripsOf s.hart k) :
    efRun b s.hart.captured (firstElem s.hart) s.hart.vl.toNat u = .ok { u with hart := stripsOf (chained b s.hart (chainOf b s.hart)) k } := by
  have hc : efChain (format (tyOf b)) s.hart.captured.vfrm.toNat (satOf b) u.hart b.vs1.toNat (u.hart.actives b (firstElem s.hart) s.hart.vl.toNat)
      (carryIn b u.hart) = chainOf b s.hart := by
    rw [hu]
    exact efChain_stripsOf (format (tyOf b)) s.hart.vfrm.toNat (satOf b) s.hart k b.vs1.toNat (later b s.hart) (carryIn b s.hart)
  refine (efRun_eq (Nat.lt_irrefl _) hc).trans (congrArg (fun h => MRes.ok { u with hart := h }) ?_)
  rw [hu]
  exact chainHart_stripsOf b s.hart k (efChain_sat ..)

theorem performs_chain {b : Body} {s : State} {mods : BitVec 12} {pair : Body → Prop} (hl : narrowLegal b = true) (hm : only b mods → only b 0x3F6) :
    Performs (convertForm .vfncvt mods pair fun b s => chained b s.hart (chainOf b s.hart)) b s { narrowMember b with run := efRun b } where
  ops := cvtOps_eq b
  group := groups_eq b
  good := fun h => by
    obtain ⟨-, hmod, h2, h3, hr⟩ := h
    exact convert_good hl (hm hmod) h2 h3 hr
  pc := takes_pc _ _ _ _
  instret := takes_instret _ _ _ _
  run _ _ _ _ hu := efRun_chain hu

theorem ef_types {d t : Nat} (ht : t = 20) (hd : d = 18 ∨ d = 19 ∨ d ∈ setS) :
    t ∈ setF ∧ (inS d || inF d || decide (d = 28)) = true ∧ eewOf d ≤ eewOf t ∧ d ≠ t ∧ d ≠ 28 ∧ inB d = false
      ∧ (decide (t = 20) && (decide (d = 18) || decide (d = 19) || inS d)) = true := by
  subst ht
  have hall : ∀ d ∈ 18 :: 19 :: setS, 20 ∈ setF ∧ (inS d || inF d || decide (d = 28)) = true ∧ eewOf d ≤ eewOf 20 ∧ d ≠ 20 ∧ d ≠ 28 ∧ inB d = false
      ∧ (decide (20 = 20) && (decide (d = 18) || decide (d = 19) || inS d)) = true := by decide
  exact hall d (List.mem_cons.2 (hd.imp_right fun h => List.mem_cons.2 h))

theorem completes_chain : (convertForm .vfncvt 0x3F6 (fun b => wbit b.mod 2 = true ∧ sty b = 20 ∧ (tyOf b = 18 ∨ tyOf b = 19 ∨ tyOf b ∈ setS))
    fun b s => chained b s.hart (chainOf b s.hart)).Completes :=
  completes_of_performs (m := fun b _ => vfncvtMember b) (fun _ _ => rfl) fun b s hl => by
    obtain ⟨_, _, _, ⟨he, ht, hd⟩, _⟩ := hl
    obtain ⟨hF, hS, hw, hne, h28, hB, hpair⟩ := ef_types ht hd
    rw [vfncvtMember_chain hB he]
    refine performs_chain (narrowLegal_of hS hF hw hne ?_ ?_) id
    · rw [decide_eq_false h28]; rfl
    · rw [hpair, Bool.not_true, Bool.and_false]

/-! ### Blocks (14 R384) -/

/-- The results of one block, and its scale, written to a hart. -/
noncomputable def putBlock (b : Body) (h : Hart) (r : Nat × List (Nat × Elem) × Option Nat) : Hart :=
  let k := h.vputs b.vd.toNat (wOf b) (r.2.1.map (fun i => (i.1, i.2.val)))
  match r.2.2 with
  | some x => k.vset b.vs3.toNat 8 r.1 x
  | none => k

theorem putBlock_frame {α : Type} (f : Hart → α) (hf : ∀ (h : Hart) v d, f { h with v := v, vdirty := d } = f h) (b : Body) (h : Hart)
    (r : Nat × List (Nat × Elem) × Option Nat) : f (putBlock b h r) = f h := by
  have hv := vputs_frame f hf h b.vd.toNat (wOf b) (r.2.1.map fun i => (i.1, i.2.val))
  unfold putBlock
  split
  · exact (vset_frame f hf ..).trans hv
  · exact hv

theorem putBlocks_frame {α : Type} (f : Hart → α) (hf : ∀ (h : Hart) v d, f { h with v := v, vdirty := d } = f h) (b : Body) (h : Hart)
    (rs : List (Nat × List (Nat × Elem) × Option Nat)) : f (rs.foldl (putBlock b) h) = f h := by
  induction rs generalizing h with
  | nil => rfl
  | cons r rs ih => exact (ih _).trans (putBlock_frame f hf b h r)

theorem putBlocks_stripsOf (b : Body) (h k : Hart) (rs : List (Nat × List (Nat × Elem) × Option Nat)) :
    rs.foldl (putBlock b) (stripsOf h k) = stripsOf (rs.foldl (putBlock b) h) k := by
  induction rs generalizing h with
  | nil => rfl
  | cons r rs ih =>
    refine (congrArg (List.foldl (putBlock b) · rs) ?_).trans (ih _)
    unfold putBlock
    dsimp only
    rw [vputs_stripsOf]
    cases r.2.2 with
    | none => rfl
    | some x => exact vset_stripsOf ..

/-- The blocks of a hart that a block conversion performs, with their results. -/
noncomputable def blocksOf (len : Nat) (f : Nat → List (Nat × Elem) × Option Nat) (h : Hart) : List (Nat × List (Nat × Elem) × Option Nat) :=
  (List.range' (firstElem h / len) (h.vl.toNat / len - firstElem h / len)).map (fun j => (j, f j))

/-- A hart with the results of blocks, and the flags that they raise. -/
noncomputable def withBlocks (b : Body) (h : Hart) (rs : List (Nat × List (Nat × Elem) × Option Nat)) : Hart :=
  (rs.foldl (putBlock b) h).raise ((rs.flatMap fun r => r.2.1).foldl (fun a i => a ||| i.2.fl) 0) false

theorem withBlocks_stripsOf (b : Body) (h k : Hart) (rs : List (Nat × List (Nat × Elem) × Option Nat)) :
    withBlocks b (stripsOf h k) rs = stripsOf (withBlocks b h rs) k := by
  unfold withBlocks
  rw [putBlocks_stripsOf]
  rfl

theorem takesBlocks_eq (b : Body) (len : Nat) (f : Nat → List (Nat × Elem) × Option Nat) (h : Hart) :
    takesBlocks b len f h = withBlocks b h (blocksOf len f h) := by
  have hfl := putBlocks_frame Hart.vfflags (fun _ _ _ => rfl) b h (blocksOf len f h)
  unfold withBlocks Hart.raise
  rw [hfl, Bool.or_false]
  rfl

theorem captured_start {h : Hart} (hr : restartMark h = false) : h.captured.start = firstElem h := by
  unfold firstElem
  rw [if_neg (Bool.eq_false_iff.1 hr)]
  rfl

/-- Whole blocks pass the check of shape (15 R404). -/
theorem block_shape {h : Hart} {len : Nat} (hw : wholeBlocks len h) :
    (if h.captured.vl % len ≠ 0 || (!(doneMark h || restartMark h) && h.captured.start % len ≠ 0) then some (0x0D : BitVec 8) else none) = none := by
  refine if_neg ?_
  obtain ⟨hv, hs⟩ := hw
  rw [Bool.or_eq_true, Bool.and_eq_true, decide_eq_true_iff, decide_eq_true_iff, Bool.not_eq_true', Bool.or_eq_false_iff]
  rintro (h0 | ⟨⟨hd, hr⟩, h0⟩)
  · exact h0 hv
  · rw [captured_start hr] at h0
    exact h0 (hs hd hr)

/-- A block conversion performs as its line says (14 R384). -/
theorem performs_block {make : Body → Instr} {t : Body → Nat} {writes frm : Bool} {pair : Body → Prop}
    {f : Body → State → Nat → List (Nat × Elem) × Option Nat} {b : Body} {s : State} {legal : Bool}
    {run : Captured → Hart → Nat → List (Nat × Elem) × Option Nat} (hl : legal = true) (hf : ∀ k j, run s.hart.captured (stripsOf s.hart k) j = f b s j) :
    Performs (blockForm make t writes frm pair f) b s (blockMember b (t b) 0x3F0 frm legal writes run) where
  ops := congrArg (· ++ [single b.vs3 writes]) (cvtOps_eq b)
  group := groups_eq b
  good := by
    rintro ⟨_, hmod, h2, hmen, hr, hops⟩
    have ho : (cvtOps b).any (fun o => o.regs &&& (single b.vs3 writes).regs ≠ 0) = false := by
      rw [cvtOps_eq, List.any_eq_false]
      exact fun o ho k => of_decide_eq_true k (hops o ho)
    change (!legal || modBad b 0x3F0 || decide (b.vs2 ≠ 0) || b.men || (frm && frmBad s.hart.captured)
      || (cvtOps b).any (fun o => o.regs &&& (single b.vs3 writes).regs ≠ 0)) = false
    rw [hl, modBad_of_only hmod, decide_eq_false (not_not.2 h2), hmen, frm_good hr, ho]
    rfl
  shape := block_shape
  pc := (congrArg Hart.pc (takesBlocks_eq ..)).trans (putBlocks_frame Hart.pc (fun _ _ _ => rfl) ..)
  instret := (congrArg Hart.instret (takesBlocks_eq ..)).trans (putBlocks_frame Hart.instret (fun _ _ _ => rfl) ..)
  run := by
    intro _ _ u k hu
    have hb : (List.range' (firstElem s.hart / blockLen (t b)) (s.hart.vl.toNat / blockLen (t b) - firstElem s.hart / blockLen (t b))).map
        (fun j => (j, run s.hart.captured u.hart j)) = blocksOf (blockLen (t b)) (f b s) s.hart :=
      List.map_congr_left fun j _ => by rw [hu, hf]
    have he : (blockForm make t writes frm pair f).effect b s = takesBlocks b (blockLen (t b)) (f b s) s.hart := rfl
    rw [he, takesBlocks_eq]
    refine (congrArg (fun rs => MRes.ok { u with hart := withBlocks b u.hart rs }) hb).trans ?_
    rw [hu, withBlocks_stripsOf]

theorem vfwcvtMember_block {b : Body} (h : inB (sty b) = true) :
    vfwcvtMember b = blockMember b (sty b) 0x3F0 true (widenLegal b) false fun c h j =>
      ((blockOf (sty b) j).map (fun e =>
        (e, felem ((format (tyOf b)).round c.vfrm.toNat false (blockValue (sty b) (h.vget b.vs1.toNat (sw b) e) (h.scale b.vs3 j))))), none) :=
  if_pos h

theorem completes_widenBlock : (blockForm .vfwcvt sty false true (fun b => tyOf b ∈ setF ∧ sty b ∈ setB ∧ sw b < wOf b) (fun b s j =>
      ((blockOf (sty b) j).map (fun e =>
        let r := (format (tyOf b)).round s.hart.vfrm.toNat false (blockValue (sty b) (first b s (sw b) e) (s.hart.scale b.vs3 j))
        (e, { val := r.1, fl := r.2, sat := false })), none))).Completes :=
  completes_of_performs (m := fun b _ => vfwcvtMember b) (fun _ _ => rfl) fun b s hl => by
    obtain ⟨_, _, _, ⟨hd, ht, hw⟩, _⟩ := hl
    rw [vfwcvtMember_block (inB_of_mem ht)]
    refine performs_block (widenLegal_of hd ?_ hw) fun _ _ => rfl
    rw [inB_of_mem ht, Bool.or_true]
    rfl

theorem vfncvtMember_block {b : Body} (h : inB (tyOf b) = true) :
    vfncvtMember b = blockMember b (tyOf b) 0x3F0 false (decide (tyOf b ≤ 16) && decide (sty b = 20)) true fun _ h j =>
      ((blockOf (tyOf b) j).zip (toBlock (tyOf b) ((blockOf (tyOf b) j).map fun e => fp32.value (h.vget b.vs1.toNat 32 e))).1,
        some (toBlock (tyOf b) ((blockOf (tyOf b) j).map fun e => fp32.value (h.vget b.vs1.toNat 32 e))).2) := if_pos h

theorem block_types {t : Nat} (h : t ∈ [10, 11, 12, 13, 14, 15, 16]) : inB t = true ∧ t ≤ 16 := by
  revert t
  decide

theorem completes_toBlock : (blockForm .vfncvt tyOf true false (fun b => tyOf b ∈ [10, 11, 12, 13, 14, 15, 16] ∧ sty b = 20) (fun b s j =>
      let r := toBlock (tyOf b) ((blockOf (tyOf b) j).map (fun e => fp32.value (first b s 32 e)))
      ((blockOf (tyOf b) j).zip r.1, some r.2))).Completes :=
  completes_of_performs (m := fun b _ => vfncvtMember b) (fun _ _ => rfl) fun b s hl => by
    obtain ⟨_, _, _, ⟨hd, ht⟩, _⟩ := hl
    obtain ⟨hB, h16⟩ := block_types hd
    rw [vfncvtMember_block hB]
    refine performs_block ?_ fun _ _ => rfl
    rw [decide_eq_true h16, decide_eq_true ht]
    rfl

/-- Settles O28. -/
theorem vectorConversionsComplete : Obligations.VectorConversionsComplete := by
  refine List.forall_mem_cons.2 ⟨completes_vfcvtFX, List.forall_mem_cons.2 ⟨completes_vfcvtXF, List.forall_mem_cons.2 ⟨completes_vfwcvt,
    List.forall_mem_cons.2 ⟨completes_widenBlock, List.forall_mem_cons.2 ⟨completes_vfncvt, List.forall_mem_cons.2 ⟨completes_toScale,
    List.forall_mem_cons.2 ⟨completes_chain, List.forall_mem_cons.2 ⟨completes_toBlock, List.forall_mem_nil _⟩⟩⟩⟩⟩⟩⟩⟩

end Sys2Proof.ConvertProofs
end

section
/-!
PROOFS. Resets, power, temperature, and the errors that belong to no access (02 R43, R53 to R57; 01 R19, R21).
-/
namespace Sys2Proof.ScalarProofs
open Sys2Proof Sys2Proof.Machine Sys2Proof.Claims Sys2Proof.AccessProofs

theorem aged_cluster (s : State) (cl : BitVec 5) : s.packageReset.cluster cl = (s.cluster cl).aged := by
  unfold State.cluster tgetD
  rw [show s.packageReset.clusters = s.clusters.map (fun c => (c.1, c.2.aged)) from rfl, tget_map (fun p : Nat × Cluster => p.2.aged)]
  cases tget s.clusters cl.toNat <;> rfl

theorem afterReset (s : State) : AfterReset s s.packageReset := ⟨Eq.refl s.packageReset, fun cl => aged_cluster s cl⟩

theorem satUp_eq (c : BitVec 16) : satUp c = oneMore c := by
  unfold satUp oneMore
  split
  next h => rw [h]; rfl
  next h =>
    have hc : c.toNat < 65535 := Nat.lt_of_le_of_ne (Nat.le_of_lt_succ c.isLt) fun k => h (BitVec.eq_of_toNat_eq k)
    rw [min_eq_right (show c.toNat + 1 ≤ 65535 from hc), BitVec.ofNat_add, BitVec.ofNat_toNat, BitVec.setWidth_eq]
    rfl

/-! ### The thermal control register -/

/-- A number in two halves of 32 bits. -/
theorem halves (a x : Nat) (h : x < 2 ^ 32) : (a * 2 ^ 32 + x) % 2 ^ 64 / 2 ^ 32 = a % 2 ^ 32 ∧ (a * 2 ^ 32 + x) % 2 ^ 64 % 2 ^ 32 = x := by
  have hd : (a * 2 ^ 32 + x) / 2 ^ 32 = a := by
    rw [Nat.mul_comm, Nat.mul_add_div (by decide), Nat.div_eq_of_lt h, Nat.add_zero]
  have hm : (a * 2 ^ 32 + x) % 2 ^ 32 = x := by rw [Nat.mul_comm, Nat.mul_add_mod, Nat.mod_eq_of_lt h]
  exact ⟨(Nat.mod_mul_right_div_self (a * 2 ^ 32 + x) (2 ^ 32) (2 ^ 32)).trans (congrArg (· % 2 ^ 32) hd), (Nat.mod_mul_left_mod (a * 2 ^ 32 + x) (2 ^ 32) (2 ^ 32)).trans hm⟩

/-- The high byte of 40 and the low word of 16 are fields of the halves. -/
theorem halves_fields {v a x : Nat} (h : v / 2 ^ 32 = a ∧ v % 2 ^ 32 = x) : v / 2 ^ 40 % 2 ^ 8 = a / 2 ^ 8 % 2 ^ 8 ∧ v / 2 ^ 16 % 2 ^ 16 = x / 2 ^ 16 := by
  obtain ⟨rfl, rfl⟩ := h
  exact ⟨congrArg (· % 2 ^ 8) (Nat.div_div_eq_div_mul v (2 ^ 32) (2 ^ 8)).symm, (Nat.mod_mul_right_div_self v (2 ^ 16) (2 ^ 16)).symm⟩

theorem setLow_halves (w d : Word) :
    (wsetField w 0 32 (wfield d 0 32)).toNat / 2 ^ 32 = w.toNat / 2 ^ 32 ∧ (wsetField w 0 32 (wfield d 0 32)).toNat % 2 ^ 32 = d.toNat % 2 ^ 32 := by
  have e : nsetField w.toNat 0 32 (wfield d 0 32) = w.toNat / 2 ^ 32 * 2 ^ 32 + d.toNat % 2 ^ 32 := by
    unfold nsetField
    rw [wfield_low, Nat.shiftRight_eq_div_pow, Nat.zero_add, Nat.shiftLeft_eq, Nat.shiftLeft_zero, Nat.mod_mod, Nat.pow_zero, Nat.mod_one, Nat.add_zero]
  have h := halves (w.toNat / 2 ^ 32) (d.toNat % 2 ^ 32) (Nat.mod_lt _ (by decide))
  rw [← e, Nat.mod_eq_of_lt (Nat.div_lt_of_lt_mul w.isLt : w.toNat / 2 ^ 32 < 2 ^ 32)] at h
  exact h

theorem setHigh_halves (w d : Word) :
    (wsetField w 32 32 (wfield d 0 32)).toNat / 2 ^ 32 = d.toNat % 2 ^ 32 ∧ (wsetField w 32 32 (wfield d 0 32)).toNat % 2 ^ 32 = w.toNat % 2 ^ 32 := by
  have e : nsetField w.toNat 32 32 (wfield d 0 32) = d.toNat % 2 ^ 32 * 2 ^ 32 + w.toNat % 2 ^ 32 := by
    unfold nsetField
    rw [wfield_low, Nat.shiftRight_eq_div_pow, Nat.shiftLeft_eq, Nat.shiftLeft_eq, Nat.mod_mod,
      Nat.div_eq_of_lt (w.isLt : w.toNat < 2 ^ (32 + 32)), Nat.zero_mul, Nat.zero_add]
  have h := halves (d.toNat % 2 ^ 32) (w.toNat % 2 ^ 32) (Nat.mod_lt _ (by decide))
  rw [← e, Nat.mod_mod] at h
  exact h

theorem thermctl_throttle (p : Pkg) : p.thermctl.toNat / 2 ^ 40 % 2 ^ 8 = p.tthrot.toNat := by
  have h : p.thermctl.extractLsb' 40 8 = p.tthrot := by
    unfold Pkg.thermctl
    rw [BitVec.extractLsb'_append_eq_of_le (by decide), BitVec.extractLsb'_append_eq_of_le (by decide), BitVec.extractLsb'_append_eq_of_le (by decide),
      BitVec.extractLsb'_append_eq_of_le (by decide)]
    exact BitVec.extractLsb'_append_eq_right
  exact (congrArg (· % 2 ^ 8) (Nat.shiftRight_eq_div_pow p.thermctl.toNat 40)).symm.trans ((BitVec.extractLsb'_toNat ..).symm.trans (congrArg BitVec.toNat h))

theorem thermctl_cap (p : Pkg) : p.thermctl.toNat / 2 ^ 16 % 2 ^ 16 = p.pcap.toNat := by
  have h : p.thermctl.extractLsb' 16 16 = p.pcap := by
    unfold Pkg.thermctl
    rw [BitVec.extractLsb'_append_eq_of_le (by decide), BitVec.extractLsb'_append_eq_of_le (by decide)]
    exact BitVec.extractLsb'_append_eq_right
  exact (congrArg (· % 2 ^ 16) (Nat.shiftRight_eq_div_pow p.thermctl.toNat 16)).symm.trans ((BitVec.extractLsb'_toNat ..).symm.trans (congrArg BitVec.toNat h))

/-- What a write of THERMCTL sets (02 R57). -/
noncomputable def withThermal (s : State) (throttle cap : Nat) : State :=
  { s with pkg := { s.pkg with tthrot := BitVec.ofNat 8 (min throttle (s.pkg.ttrip.toNat - 5)), pcap := BitVec.ofNat 16 (min 2000 (max 600 cap)) } }

theorem exec_thermctl (half : Half) (data : Word) (s : State) (h : half ≠ .odd) {a b : Nat}
    (ha : (mergeHalf half s.pkg.thermctl data).toNat / 2 ^ 40 % 2 ^ 8 = a) (hb : (mergeHalf half s.pkg.thermctl data).toNat / 2 ^ 16 % 2 ^ 16 = b) :
    exec (.thermctlWrite half data) s = .next (withThermal s a b) := by
  subst ha
  subst hb
  refine (congrArg Host.Outcome.next (if_neg h)).trans ?_
  rw [wfield_div, wfield_div]
  rfl

theorem thermctl_low (s : State) (data : Word) :
    exec (.thermctlWrite .low data) s = .next (withThermal s s.pkg.tthrot.toNat (data.toNat / 2 ^ 16 % 65536)) := by
  obtain ⟨ha, hb⟩ := halves_fields (setLow_halves s.pkg.thermctl data)
  exact exec_thermctl .low data s nofun (ha.trans ((halves_fields ⟨rfl, rfl⟩).1.symm.trans (thermctl_throttle s.pkg)))
    (hb.trans (Nat.mod_mul_right_div_self data.toNat (2 ^ 16) (2 ^ 16)))

theorem thermctl_high (s : State) (data : Word) :
    exec (.thermctlWrite .high data) s = .next (withThermal s (data.toNat / 2 ^ 8 % 256) s.pkg.pcap.toNat) := by
  obtain ⟨ha, hb⟩ := halves_fields (setHigh_halves s.pkg.thermctl data)
  have hd : data.toNat % 2 ^ 32 / 2 ^ 8 = data.toNat / 2 ^ 8 % 2 ^ 24 := Nat.mod_mul_right_div_self data.toNat (2 ^ 8) (2 ^ 24)
  exact exec_thermctl .high data s nofun (ha.trans ((congrArg (· % 2 ^ 8) hd).trans (Nat.mod_mul_left_mod (data.toNat / 2 ^ 8) (2 ^ 16) (2 ^ 8))))
    (hb.trans ((halves_fields ⟨rfl, rfl⟩).2.symm.trans (thermctl_cap s.pkg)))

/-! ### Throttling (02 R57) -/

/-- The clock after a throttle step. -/
noncomputable def clockAfter (p : Pkg) (tj : BitVec 8) (watts : Nat) : Nat :=
  if p.tthrot.toNat ≤ tj.toNat ∨ p.pcap.toNat < watts then max 50 (p.clkpct.toNat - 5)
  else if tj.toNat + 3 ≤ p.tthrot.toNat ∧ watts < p.pcap.toNat then min 100 (p.clkpct.toNat + 5) else p.clkpct.toNat

theorem clockAfter_steady {p : Pkg} {tj : BitVec 8} {watts : Nat} (h1 : tj.toNat < p.tthrot.toNat) (h2 : watts ≤ p.pcap.toNat)
    (h3 : p.tthrot.toNat < tj.toNat + 3 ∨ watts = p.pcap.toNat) : clockAfter p tj watts = p.clkpct.toNat := by
  unfold clockAfter
  rw [if_neg (not_or.2 ⟨Nat.not_le.2 h1, Nat.not_lt.2 h2⟩),
    if_neg fun k => h3.elim (fun h => absurd k.1 (Nat.not_le.2 h)) fun h => absurd k.2 (h ▸ Nat.lt_irrefl _)]

theorem clockAfter_up {p : Pkg} {tj : BitVec 8} {watts : Nat} (h1 : tj.toNat + 3 ≤ p.tthrot.toNat) (h2 : watts < p.pcap.toNat) :
    clockAfter p tj watts = min 100 (p.clkpct.toNat + 5) := by
  unfold clockAfter
  rw [if_neg (not_or.2 ⟨Nat.not_le.2 (Nat.lt_of_lt_of_le (Nat.lt_add_of_pos_right (by decide)) h1), Nat.not_lt.2 h2.le⟩), if_pos ⟨h1, h2⟩]

/-! ### A patrol scrub -/

theorem scrub_nothing {s : State} {g : Nat} (h : g ∉ s.correctable) : s.scrubbed (g * 32) 32 = s := by
  refine if_pos ?_
  rw [List.length_eq_zero_iff, List.filter_eq_nil_iff]
  intro k hk hd
  obtain ⟨h1, h2⟩ := of_decide_eq_true hd
  have e1 : k < g + 1 := Nat.lt_of_mul_lt_mul_right (a := 32) (by rw [Nat.succ_mul]; exact h1)
  have e2 : g < k + 1 := Nat.lt_of_mul_lt_mul_right (a := 32) (by rw [Nat.succ_mul]; exact h2)
  exact h (Nat.le_antisymm (Nat.le_of_lt_succ e1) (Nat.le_of_lt_succ e2) ▸ hk)

theorem scrubbed_pkg (s : State) (pa n : Nat) : s.scrubbed pa n = { s with pkg := { s.pkg with hbmce := (s.scrubbed pa n).pkg.hbmce } } :=
  iteInduction (motive := fun t : State => t = { s with pkg := { s.pkg with hbmce := t.pkg.hbmce } }) (fun _ => rfl) (fun _ => rfl)

/-- Settles O36: most events are evaluated; the rest is the thermal register's fields, and what a scrub repairs. -/
theorem resetsAndPowerComplete : Obligations.ResetsAndPowerComplete := by
  intro s
  have hue : satUp s.pkg.ue = oneMore s.pkg.ue := satUp_eq _
  refine ⟨forall_mem_cons ⟨_, rfl, afterReset s⟩ (forall_mem_cons ⟨_, rfl, afterReset s⟩ (List.forall_mem_nil _)), fun h => ⟨_, ?_, afterReset s⟩,
    fun h => ?_, rfl, fun data => exec_thermctl .whole data s nofun rfl rfl, fun data => ⟨thermctl_low s data, thermctl_high s data, rfl⟩,
    fun tj watts h => ⟨_, _, if_pos h, Nat.mod_lt _ (by decide), rfl⟩, fun tj watts h => ⟨clockAfter s.pkg tj watts, if_neg (Nat.not_le.2 h),
      fun h => if_pos h, clockAfter_up, clockAfter_steady⟩,
    fun cl sensor tj => ⟨fun h => ?_, fun h => congrArg Host.Outcome.next (if_pos h)⟩, ?_, rfl, fun r => ?_, fun pa => ⟨fun h => ?_, fun h => ?_⟩⟩
  · exact congrArg Host.Outcome.next (if_pos ⟨h.1, Bool.eq_false_iff.1 h.2.1, h.2.2⟩)
  · exact congrArg Host.Outcome.next (if_neg fun k => h ⟨k.1, Bool.eq_false_iff.2 k.2.1, k.2.2⟩)
  · refine (congrArg Host.Outcome.next (if_neg (Nat.not_lt.2 h))).trans ?_
    cases sensor <;> rfl
  · exact congrArg (fun c => Host.Outcome.next { s with pkg := { s.pkg with ue := c, stopped := true, failcode := 5 } }) hue
  · exact congrArg (fun c => Host.Outcome.next { s with pkg := { s.pkg with dreplay := c } }) (satUp_eq s.pkg.dreplay)
  · exact (if_pos h).trans (congrArg (fun c => Host.Outcome.next { s with pkg := { s.pkg with ue := c, scrubLog := s.pkg.scrubLog ++ [pa / 32 * 32] } }) hue)
  · refine ⟨{ s.pkg with hbmce := (s.scrubbed (pa / 32 * 32) 32).pkg.hbmce }, (if_neg h).trans ?_, rfl, fun hc => ?_⟩
    · exact congrArg (fun t : State => Host.Outcome.next { t with correctable := s.correctable.filter fun k => k ≠ pa / 32 }) (scrubbed_pkg s (pa / 32 * 32) 32)
    · exact congrArg (fun t : State => t.pkg.hbmce) (scrub_nothing hc)

end Sys2Proof.ScalarProofs
end

section
/-!
REFUTATION. Vector loads and stores (15 R401 to R412): VLEFF writes a scalar register, which a core counts as event 0x11 when a convoy issues; the
statement's state after issuing has not counted it.
-/
namespace Sys2Proof.VectorMemory
open Sys2Proof Sys2Proof.Machine Sys2Proof.Claims

/-- A machine after reset whose current hart has no elements, on a core with one counter, for event 0x11. -/
noncomputable def countingCore : State :=
  { State.reset with
    hart := { Hart.empty with live := true, vcols := 4, vtEew := 2 }
    cores := [(0, { Core.empty with pm := [(0, { en := true, ctx := 0, u := true, s := true, event := 0x11, count := 0, shadow := 0 })] })] }

/-- VLEFF of INT32 elements into v8, with its length to x13. -/
noncomputable def firstFaultLoad : Body := { ty := 24, vd := 8, vs1 := 0, vs2 := 13, vs3 := 0, men := false, pol := false, msk := 0, grp := 0, mod := 0 }

/-- What core 0 has counted. -/
noncomputable def coreCounts (s : State) : List (BitVec 48) := (s.core 0).pm.map fun p => p.2.count

/-- What core 0 has counted when an instruction goes on. -/
noncomputable def outCounts (o : Out) : List (BitVec 48) :=
  match o with
  | .next s => coreCounts s
  | _ => []

theorem vleff_counts : outCounts (exec (.vleff firstFaultLoad) countingCore) = [1] := by decide +kernel

/-- The state in which a load has issued, as the statement has it. -/
theorem issued_counts (p : MForm) (hw : p.w firstFaultLoad = 32) (hn : p.n firstFaultLoad = 1) (hc : p.cls = 2)
    (ha : p.applied = fun _ _ _ => 0) : coreCounts (p.issued firstFaultLoad countingCore) = [0] := by
  unfold MForm.issued
  rw [hw, hn, hc, ha]
  decide +kernel

/-- No form of VLEFF completes as `MForm.Completes` has it. -/
theorem not_completes_of_vleff (p : MForm) (hm : p.make = .vleff) (hw : p.w firstFaultLoad = 32) (hn : p.n firstFaultLoad = 1) (hc : p.cls = 2)
    (ha : p.applied = fun _ _ _ => 0) (legal : p.toV.Legal firstFaultLoad countingCore.hart)
    (fits : p.toV.Fits firstFaultLoad countingCore.hart) : ¬ p.Completes := by
  intro h
  have loads := (h firstFaultLoad countingCore rfl legal fits).1 (.inr rfl)
  have counts := congrArg outCounts (hm ▸ loads)
  have issued := issued_counts p hw hn hc ha
  exact absurd ((vleff_counts.symm.trans counts).trans issued) (by decide)

/-- Refutes O32: with a counter for event 0x11, VLEFF without elements counts one more than the statement admits. -/
theorem not_vectorLoadsAndStoresComplete : ¬ Obligations.VectorLoadsAndStoresComplete := by
  intro h
  have firstFault := (List.forall_mem_cons.1 (List.forall_mem_cons.1 (List.forall_mem_cons.1 (List.forall_mem_append.1 h).2).2).2).1
  exact not_completes_of_vleff _ rfl rfl rfl rfl rfl
    (by simp only [MForm.toV, VForm.Legal, loadForm, memOnly, only]; decide)
    (by simp only [MForm.toV, VForm.Fits, loadForm]; decide) firstFault

end Sys2Proof.VectorMemory
end

section
/-!
PROOFS. Linked gathers and scatters, vector atomics and graphics (15 R413 to R419, 16 R441 to R446): a convoy of one member that accesses memory
issues as the statement has it, and ends with what the run of its line does.
-/
namespace Sys2Proof.VectorMemory
open Sys2Proof.Machine hiding takes
open Sys2Proof.Claims Sys2Proof.VectorProofs Sys2Proof.ScalarProofs

/-! ### Issuing -/

/-- Two members that are charged and counted alike. -/
structure ChargedAlike (p q : Placed) : Prop where
  cls : p.cls = q.cls
  width : p.m.w = q.m.w
  group : p.m.n = q.m.n
  mxu : p.m.mxu = q.m.mxu
  applied : p.m.applied = q.m.applied
  scalar : p.m.scalar = q.m.scalar

theorem groups_of_chargedAlike {p q : Placed} (h : ChargedAlike p q) (c : Captured) (restart : Bool) : p.groups c restart = q.groups c restart := by
  unfold Placed.groups Placed.charged
  rw [h.mxu, h.width]

theorem coins_of_chargedAlike {p q : Placed} (h : ChargedAlike p q) (c : Captured) (restart : Bool) (k : Hart) :
    p.coins c restart k = q.coins c restart k := by
  unfold Placed.coins Placed.charged
  rw [h.mxu, h.applied, h.width, h.group]

theorem cycles_of_chargedAlike {p q : Placed} (h : ChargedAlike p q) (c : Captured) (restart : Bool) (k : Hart) :
    p.cycles c restart k = q.cycles c restart k := by
  unfold Placed.cycles
  rw [groups_of_chargedAlike h, h.cls, h.mxu, h.width]

theorem issueAll_of_chargedAlike {p q : Placed} (h : ChargedAlike p q) (s : State) (c : Captured) (done restart : BitVec 6) :
    s.issueAll c done restart [p] = s.issueAll c done restart [q] := by
  have hi : ∀ (u : State) r, u.issue p c r = u.issue q c r := fun u r => by
    unfold State.issue
    rw [coins_of_chargedAlike h, cycles_of_chargedAlike h, groups_of_chargedAlike h, h.cls]
  unfold State.issueAll scalarDrain
  simp only [List.zipIdx_cons, List.zipIdx_nil, List.foldl_cons, List.foldl_nil, List.any_cons, List.any_nil, hi, h.scalar]

/-! ### A lone convoy -/

/-- A member accesses memory as a line of the tables says: its description is the line's, the line's conditions pass its checks, and from a hart
whose strip counts alone have moved it runs as the line does. -/
structure Accesses (p : MForm) (b : Body) (s : State) (m : Member) : Prop where
  ops : m.ops = p.ops b := by rfl
  width : m.w = p.w b := by rfl
  group : m.n = p.n b := by rfl
  mxu : m.mxu = none := by rfl
  starts : m.starts = p.starts := by rfl
  whole : m.whole = !p.starts := by rfl
  applied : m.applied = p.applied b := by rfl
  scalar : m.scalar = false := by rfl
  good : p.legal b s.hart → m.bad s.hart.captured s.hart = false
  shape : p.fits b s.hart → m.shape s.hart.captured s.hart (doneMark s.hart || restartMark s.hart) = none := by exact fun _ => rfl
  run : p.legal b s.hart → ∀ u k, u.hart = stripsOf s.hart k →
    m.run s.hart.captured (bif p.starts then firstElem s.hart else 0) s.hart.vl.toNat u = p.run b u

/-- The member without its run and its charge. -/
noncomputable def description (m : Member) : Member := { m with applied := fun _ _ => 0, run := fun _ _ _ u => .ok u }

/-- The checks of a member that accesses memory are those of a line of the other tables. -/
theorem performs_description {p : MForm} {b : Body} {s : State} {m : Member} (hm : Accesses p b s m) : Performs p.toV b s (description m) where
  ops := hm.ops
  width := hm.width
  group := hm.group
  mxu := hm.mxu
  starts := hm.starts
  whole := by
    change (m.whole || m.mxu.isSome) = !p.starts
    rw [hm.whole, hm.mxu, Option.isSome_none, Bool.or_false]
  good := hm.good
  shape := hm.shape
  pc := rfl
  instret := rfl
  run _ _ u k hu := congrArg (fun h => MRes.ok { u with hart := h }) hu

theorem issued_eq {p : MForm} {b : Body} {s : State} {m : Member} (hm : Accesses p b s m) (word : Word) :
    p.issued b s = s.issueAll s.hart.captured (s.hart.cvUse.1 &&& 1) (s.hart.cvUse.2 &&& 1 &&& ~~~(s.hart.cvUse.1 &&& 1))
      [{ cls := p.cls, body := b, word := word, m := m }] :=
  issueAll_of_chargedAlike
    (p := { cls := p.cls, body := b, word := 0, m := { Member.plain [] false (p.w b) (p.n b) (fun _ _ _ u => .ok u) with applied := p.applied b } })
    (q := { cls := p.cls, body := b, word := word, m := m }) ⟨rfl, hm.width.symm, hm.group.symm, hm.mxu.symm, hm.applied.symm, hm.scalar.symm⟩ _ _ _ _

/-- A lone convoy of a member that accesses memory as its line says completes. -/
theorem lone_accesses {p : MForm} {b : Body} {s : State} {m : Member} (hm : Accesses p b s m) (cls : BitVec 4) (f8 : BitVec 8)
    (hcls : cls.toNat = p.cls) (hdisp : s.hart.disp = []) (hl : p.toV.Legal b s.hart) (hf : p.toV.Fits b s.hart) :
    (doneMark s.hart = true ∨ s.hart.vl = 0 →
      lone cls f8 b m s = .next ((p.issued b s).withHart (fun h => { h.drained with pc := h.pc + 12 })))
    ∧ ∀ u, doneMark s.hart = false → s.hart.vl ≠ 0 → Clean s.hart → p.run b (p.issued b s) = .ok u →
      lone cls f8 b m s = .next (u.withHart (fun h => { h.drained with pc := h.pc + 12 })) := by
  have hd := performs_description hm
  have hnext := fun t => lone_next (t := t) (m := m) (cls := cls) (f8 := f8) hdisp (illegal_of_legal hd hl :) (shapeFault_of_fits hd hf :)
  have hissued := issued_eq hm (encodeBody cls f8 b)
  rw [← hcls] at hissued
  obtain ⟨-, -, -, hlegal⟩ := hl
  refine ⟨fun hidle => ?_, fun u hdone hvl hclean hrun => hnext _ (perform_runs ((wbit_done _).trans hdone) ?_ ?_ ?_)⟩
  · rw [hissued]
    refine hnext _ (perform_idle (hidle.imp (wbit_done _).trans fun hv => ⟨?_, ?_⟩))
    · exact congrArg BitVec.toNat hv
    · change m.mxu.isNone = true
      rw [hm.mxu]; rfl
  · have hv : s.hart.vl.toNat ≠ 0 := fun e => hvl (BitVec.eq_of_toNat_eq e)
    change (decide (s.hart.vl.toNat = 0) && _) = false
    rw [decide_eq_false hv, Bool.false_and]
  · rw [issueAll_errors]
    exact clean_stripsOf (k := State.hart (s.issueAll _ _ _ _)) hclean
  · rw [← hissued]
    have hh : (p.issued b s).hart = stripsOf s.hart (p.issued b s).hart := by rw [hissued]; exact issueAll_errors _ _ _ _ _
    have hfrom := from_eq hd cls.toNat (encodeBody cls f8 b)
    rw [← wbit_restart] at hfrom
    exact ((congrArg (m.run _ · _ _) hfrom).trans (hm.run hlegal _ _ hh)).trans hrun

/-- A line of these tables completes when its instruction is a lone convoy of a member that accesses memory as the line says. -/
theorem completes_of_accesses {p : MForm} {cls : BitVec 4} {f8 : BitVec 8} {m : Body → Member} (hcls : cls.toNat = p.cls)
    (hexec : ∀ b s, exec (p.make b) s = lone cls f8 b (m b) s) (hm : ∀ b s, Accesses p b s (m b)) : p.Completes := by
  intro b s hdisp hl hf
  rw [hexec]
  exact lone_accesses (hm b s) cls f8 hcls hdisp hl hf

/-! ### The fields of a body -/

theorem memModBad_of_memOnly {b : Body} {m : BitVec 12} (h : memOnly b m) : memModBad b m = false := by
  obtain ⟨honly, hscope, hbeside⟩ := h
  have hs : (scopeOf b).toNat = wfield b.mod 3 3 := by simp [scopeOf, field, wfield, nfield, Nat.shiftRight_eq_div_pow]
  have hz : scopeOf b ≠ 0 → wfield b.mod 3 3 ≠ 0 := fun hn e => hn (BitVec.eq_of_toNat_eq (hs.trans e))
  unfold memModBad
  rw [modBad_of_only honly, hs, decide_eq_false (Nat.not_le.2 hscope), Bool.or_false, Bool.false_or]
  by_cases h0 : scopeOf b = 0
  · rw [h0]; rfl
  · rcases hbeside (hz h0) with h1 | h2
    · rw [h1]; simp
    · rw [show rlOf b = true from h2]; simp

theorem inP_of_mem {t : Nat} (h : t ∈ setP) : inP t = true := decide_eq_true h

/-- A mask that is not the status. -/
theorem mask_good {b : Body} (h : b.men = true → b.msk.toNat ≠ wfield b.mod 8 3) : (b.men && decide (b.msk.toNat = stOf b)) = false := by
  cases hm : b.men
  · rfl
  · exact decide_eq_false (h hm)

theorem getX_of_strips {s u : State} {k : Hart} (hu : u.hart = stripsOf s.hart k) (r : Reg) : u.getX r = s.hart.captured.getX r := by
  rw [← captured_getX, hu]; rfl

theorem later_of_strips {s u : State} {k : Hart} (hu : u.hart = stripsOf s.hart k) (b : Body) :
    later b u.hart = u.hart.actives b (firstElem s.hart) s.hart.vl.toNat := by
  unfold later
  rw [hu]; rfl

theorem indexAddr_of_strips {s u : State} {k : Hart} (hu : u.hart = stripsOf s.hart k) (b : Body) : indexAt b u = indexAddr b s.hart.captured := by
  unfold indexAt indexAddr vbase baseOf
  rw [getX_of_strips hu]; rfl

theorem captured_of_strips {s u : State} {k : Hart} (hu : u.hart = stripsOf s.hart k) : u.hart.captured = s.hart.captured := by rw [hu]; rfl

/-! ### Links and atomics -/

theorem groupV_eq (b : Body) : idxData b = groupV b := by
  have hv : (8 * 2 ^ wfield b.mod 6 2 : Nat) ≠ 0 := Nat.mul_ne_zero (by decide) (Nat.two_pow_pos _).ne'
  unfold idxData pairGroup groupV iwOf iw
  rw [decide_eq_false hv]
  simp only [Bool.or_false, decide_eq_true_eq]

theorem groupI_eq (b : Body) : pairGroup b (iwOf b) (wOf b) = groupI b := by
  unfold pairGroup groupI
  simp only [Bool.or_eq_true, decide_eq_true_eq]
  rfl

theorem idxOp_eq (b : Body) : idxOp b = src b.vs2 (groupI b) (iw b) := congrArg (src b.vs2 · (iw b)) (groupI_eq b)

theorem widened_group (b : Body) : max (idxData b) (pairGroup b (iwOf b) (wOf b)) = max (groupV b) (groupI b) := by rw [groupV_eq, groupI_eq]

/-- The hart of a linked gather that begins or goes on with its set of links, as the line of the tables has it. -/
theorem openLinks_eq (h : Hart) :
    { h with vlinkOpen := true, vlinkGen := if h.vstart = 0 ∨ ¬ h.vlinkOpen then h.vlinkGen + 1 else h.vlinkGen } = h.openLinks (decide (h.vstart = 0)) := by
  unfold Hart.openLinks
  simp only [decide_eq_true_eq]

/-- The line of VGL, with the model's word for opening a set of links. -/
noncomputable def gatherForm : MForm :=
  indexed { loadForm .vgl 0x0FA (fun b => (dst b.vd (groupV b) (wOf b)).regs &&& (src b.vs2 (groupI b) (iw b)).regs = 0) indexAt with
      run := fun b u => overElems (fun e s => aligned (eb b) (indexAt b u s.hart e)
        ((gatherElem s (indexAt b u s.hart e) (eb b)).bind fun v s => .ok () (vputs s [(b.vd.toNat, wOf b, e, v)]))) (later b u.hart)
        (u.withHart (fun h => h.openLinks (decide (h.vstart = 0)))) }
      (fun b => dst b.vd (groupV b) (wOf b))

theorem accesses_vgl (b : Body) (s : State) : Accesses gatherForm b s (vglMember b) where
  ops := congrArg₂ (fun n o => [dst b.vd n (wOf b), o]) (groupV_eq b) (idxOp_eq b)
  group := widened_group b
  good := fun h => by
    obtain ⟨hty, hmem, h1, hdisjoint⟩ := h
    change (!inP (tyOf b) || memModBad b (mAq ||| mIw) || decide (b.vs1 ≠ 0) || decide ((dst b.vd (idxData b) (wOf b)).regs &&& (idxOp b).regs ≠ 0)) = false
    rw [inP_of_mem hty, memModBad_of_memOnly (m := mAq ||| mIw) hmem, h1, groupV_eq, idxOp_eq, decide_eq_false (not_not.2 hdisjoint)]
    rfl
  run := fun _ u k hu => by
    change overElems (fun e t => if (indexAddr b s.hart.captured t.hart e).toNat % eb b ≠ 0 then _ else _)
        (u.hart.actives b (firstElem s.hart) s.hart.vl.toNat) (u.withHart fun h => h.openLinks (decide (s.hart.vstart = 0)))
      = overElems _ (later b u.hart) (u.withHart fun h => h.openLinks (decide (h.vstart = 0)))
    rw [later_of_strips hu, ← indexAddr_of_strips hu]
    refine congrArg₂ (overElems · _ ·) (funext fun e => funext fun t => ite_not ..) (congrArg (fun k => { u with hart := k }) ?_)
    rw [hu]
    rfl

/-- What VSC does once its release has ended: the elements without a link are cleared, the others are stored, line by line, and at the end of the
vector the links close. -/
noncomputable def scatterPass (b : Body) (c : Captured) (addr : Hart → Nat → Word) (lo hi : Nat) (close : Prop) [Decidable close] (s : State) : MRes :=
  let h := s.hart.clearStatus b c
  let es := (h.actives b lo hi).filter (fun e => !h.mget (stOf b) e)
  match scatterLines addr (eb b) (stOf b) (fun h e => h.vget b.vd.toNat (wOf b) e) es.length es { s with hart := h } with
  | .ok s => .ok (if close then s.withHart (fun h => { h with vlinkOpen := false }) else s)
  | r => r

theorem scatterPass_closes {b : Body} {c : Captured} {addr : Hart → Nat → Word} {lo hi : Nat} {close : Prop} [hd : Decidable close] (h : close) :
    scatterPass b c addr lo hi close = scatterPass b c addr lo hi True := by
  obtain rfl := eq_true h
  congr!

/-- The line of VSC. -/
noncomputable def scatterForm : MForm :=
  { make := .vsc, cls := 3
    ops := fun b => [src b.vd (groupV b) (wOf b), src b.vs2 (groupI b) (iw b), { mdst 0 with reg := wfield b.mod 8 3, reads := true }]
    legal := fun b _ => tyOf b ∈ setP ∧ memOnly b 0x7FE ∧ b.vs1 = 0 ∧ (b.men = true → b.msk.toNat ≠ wfield b.mod 8 3)
    w := fun b => max (wOf b) (iw b), n := fun b => max (groupV b) (groupI b), applied := appliedOf
    run := fun b u => vreleased b u (scatterPass b u.hart.captured (indexAt b u) (firstElem u.hart) u.hart.vl.toNat True) }

theorem accesses_vsc (b : Body) (s : State) : Accesses scatterForm b s (vscMember b) where
  ops := congrArg₂ (fun n o => [src b.vd n (wOf b), o, { mdst 0 with reg := stOf b, reads := true }]) (groupV_eq b) (idxOp_eq b)
  group := widened_group b
  good := fun h => by
    obtain ⟨hty, hmem, h1, hmask⟩ := h
    change (!inP (tyOf b) || memModBad b (mAq ||| mRl ||| mIw ||| mSt) || decide (b.vs1 ≠ 0) || (b.men && decide (b.msk.toNat = stOf b))) = false
    rw [inP_of_mem hty, memModBad_of_memOnly (m := mAq ||| mRl ||| mIw ||| mSt) hmem, h1, mask_good hmask]
    rfl
  run := fun _ u k hu => by
    change vreleased b u (scatterPass b s.hart.captured (indexAddr b s.hart.captured) (firstElem s.hart) s.hart.vl.toNat (s.hart.vl.toNat = s.hart.vl.toNat))
      = vreleased b u (scatterPass b u.hart.captured (indexAt b u) (firstElem u.hart) u.hart.vl.toNat True)
    rw [scatterPass_closes rfl, captured_of_strips hu, indexAddr_of_strips hu, show firstElem u.hart = firstElem s.hart by rw [hu]; rfl,
      show u.hart.vl = s.hart.vl by rw [hu]; rfl]

theorem meet_good {o p : Opnd} (h : o.regs &&& p.regs = 0) : decide (o.regs &&& p.regs ≠ 0) = false := decide_eq_false (not_not.2 h)

theorem accesses_vamo (make : Body → Instr) (k : VAmo) (b : Body) (s : State) : Accesses (vamoForm make k.code k.types k.fx) b s (amoMember k b) where
  ops := congrArg₂ (fun n o => (if wbit b.mod 11 then [dst b.vd n (wOf b)] else [])
    ++ [src b.vs1 n (wOf b), o, { mdst 0 with reg := stOf b, reads := true }]) (groupV_eq b) (idxOp_eq b)
  group := widened_group b
  good := fun h => by
    obtain ⟨hty, hmem, hsrc, hret, hmask⟩ := h
    have hmods : memModBad b (mAq ||| mRl ||| mIw ||| mSt ||| (if k.fx then 0 else 0x801)) = false := by
      refine memModBad_of_memOnly ?_
      cases hk : k.fx <;> rw [hk] at hmem <;> exact hmem
    dsimp only [amoMember, widened, Member.plain]
    rw [hmods, groupV_eq, idxOp_eq, mask_good hmask, meet_good hsrc, decide_eq_true hty]
    cases hr : wbit b.mod 11
    · rw [hr] at hret
      rw [show b.vd = 0 from hret]
      rfl
    · rw [hr] at hret
      obtain ⟨h1, h2⟩ := hret
      rw [meet_good h1, meet_good h2]
      rfl
  run := fun _ u j hu => by
    dsimp only [amoMember, widened, Member.plain, vamoForm]
    rw [captured_of_strips hu, show firstElem u.hart = firstElem s.hart by rw [hu]; rfl, show u.hart.vl = s.hart.vl by rw [hu]; rfl]
    rfl

/-- A vector atomic completes. -/
theorem vamo_completes (make : Body → Instr) (k : VAmo) (f8 : BitVec 8) (hexec : ∀ b s, exec (make b) s = lone 3 f8 b (amoMember k b) s) :
    (vamoForm make k.code k.types k.fx).Completes :=
  completes_of_accesses (m := amoMember k) rfl hexec fun b s => accesses_vamo make k b s

theorem vamoForms_complete : ∀ p ∈ vamoForms, p.Completes :=
  forall_mem_cons (vamo_completes _ ⟨0, amoInts, false⟩ _ fun _ _ => rfl) <| forall_mem_cons (vamo_completes _ ⟨1, amoInts, false⟩ _ fun _ _ => rfl) <|
  forall_mem_cons (vamo_completes _ ⟨2, amoInts, false⟩ _ fun _ _ => rfl) <| forall_mem_cons (vamo_completes _ ⟨3, amoInts, false⟩ _ fun _ _ => rfl) <|
  forall_mem_cons (vamo_completes _ ⟨4, amoInts, false⟩ _ fun _ _ => rfl) <| forall_mem_cons (vamo_completes _ ⟨5, amoInts, false⟩ _ fun _ _ => rfl) <|
  forall_mem_cons (vamo_completes _ ⟨6, amoInts, false⟩ _ fun _ _ => rfl) <| forall_mem_cons (vamo_completes _ ⟨7, amoInts, false⟩ _ fun _ _ => rfl) <|
  forall_mem_cons (vamo_completes _ ⟨8, amoFloats ++ amoInts, false⟩ _ fun _ _ => rfl) <|
  forall_mem_cons (vamo_completes _ ⟨10, amoFloats, false⟩ _ fun _ _ => rfl) <|
  forall_mem_cons (vamo_completes _ ⟨11, amoFloats, false⟩ _ fun _ _ => rfl) <|
  forall_mem_cons (vamo_completes _ ⟨12, amoFloats, false⟩ _ fun _ _ => rfl) <|
  forall_mem_cons (vamo_completes _ ⟨13, [20], true⟩ _ fun _ _ => rfl) (List.forall_mem_nil _)

theorem linkMemForms_complete : ∀ p ∈ linkMemForms, p.Completes := by
  have hg : gatherForm.Completes := completes_of_accesses (cls := 2) (m := vglMember) rfl (fun _ _ => rfl) accesses_vgl
  have hs : scatterForm.Completes := completes_of_accesses (cls := 3) (m := vscMember) rfl (fun _ _ => rfl) accesses_vsc
  unfold linkMemForms
  simp only [openLinks_eq]
  exact forall_mem_cons hg (forall_mem_cons hs (List.forall_mem_nil _))

/-! ### Graphics -/

theorem accesses_graphics (make : Body → Instr) (mods : BitVec 12) (ops : Body → List Opnd) (run : Body → State → MRes) (b : Body) (s : State)
    (bad : Bool) (mrun : Captured → Nat → Nat → State → MRes) (hbad : (mods ≠ 0 → b.men = true → b.msk.toNat ≠ wfield b.mod 8 3) → bad = false)
    (hrun : ∀ u k, u.hart = stripsOf s.hart k → mrun s.hart.captured (firstElem s.hart) s.hart.vl.toNat u = run b u) :
    Accesses (graphicsForm make mods ops run) b s (gfxMember b 20 (ops b) mods bad mrun) := by
  refine { good := fun h => ?_, run := fun _ => hrun }
  obtain ⟨hty, hmod, hmeets, hmask⟩ := h
  change (decide (tyOf b ≠ 20) || modBad b mods || bad || outMeetsIn (ops b)) = false
  rw [hty, modBad_of_only hmod, hbad hmask, hmeets]
  rfl

theorem graphics_complete : ∀ p ∈ graphicsForms, p.Completes := by
  unfold graphicsForms
  refine forall_mem_cons ?_ (forall_mem_cons ?_ (forall_mem_cons ?_ (List.forall_mem_nil _)))
  · refine completes_of_accesses (cls := 6) (m := vtexMember) rfl (fun _ _ => rfl) fun b s =>
      accesses_graphics _ _ _ _ _ _ _ _ (fun _ => rfl) fun u k hu => ?_
    rw [later_of_strips hu, vbase, getX_of_strips hu]
    rfl
  · refine completes_of_accesses (cls := 6) (m := vrayboxMember) rfl (fun _ _ => rfl) fun b s =>
      accesses_graphics _ _ _ _ _ _ _ _ (fun h => mask_good (h (by decide))) fun u k hu => ?_
    rw [later_of_strips hu, captured_of_strips hu]
  · refine completes_of_accesses (cls := 6) (m := vraytriMember) rfl (fun _ _ => rfl) fun b s =>
      accesses_graphics _ _ _ _ _ _ _ _ (fun h => mask_good (h (by decide))) fun u k hu => ?_
    rw [later_of_strips hu, captured_of_strips hu]

/-! ### Coverage -/

/-- Whether a triangle of six words covers the pixel of an element, in rows of `cols`, from an origin in two halves of a word. -/
noncomputable def coversPixel (words : Nat → Int) (edge : Bool) (x y : Int) (cols e : Nat) : Bool :=
  covered ((List.range 6).map words) edge ((x + (e % cols : Nat)) * 256 + 128) ((y + (e / cols : Nat)) * 256 + 128)

/-- The hart with the covered ones of some elements written, and the mask of all. -/
noncomputable def coveredHart (b : Body) (h : Hart) (inside : Nat → Bool) (word : Nat) (es : List Nat) : Hart :=
  (h.vputs b.vd.toNat 32 ((es.filter inside).map (fun e => (e, word)))).mputs (stOf b) (es.map (fun e => (e, inside e)))

theorem coveredHart_stripsOf (b : Body) (h k : Hart) (inside : Nat → Bool) (word : Nat) (es : List Nat) :
    coveredHart b (stripsOf h k) inside word es = stripsOf (coveredHart b h inside word es) k := by
  unfold coveredHart
  rw [vputs_stripsOf, mputs_stripsOf]

theorem filter_covered (es : List Nat) (inside : Nat → Bool) (word : Nat) :
    ((es.map fun e => (e, inside e)).filter fun r => r.2).map (fun r => (r.1, word)) = (es.filter inside).map (fun e => (e, word)) := by
  rw [List.filter_map, List.map_map]
  rfl

theorem sextN_word (h : Hart) (r e : Nat) : sextN 32 (h.vget r 32 e) = signed 32 (h.vget r 32 e) := sextN_eq_signed (by decide) (vget_lt _ _ _ _)

theorem sextN_low (x : Word) : sextN 32 (wfield x 0 32) = signed 32 (x.toNat % 2 ^ 32) := sextN_eq_signed (by decide) (Nat.mod_lt _ (by decide))

theorem sextN_high (x : Word) : sextN 32 (wfield x 32 32) = signed 32 (x.toNat / 2 ^ 32) := by
  have hx : x.toNat / 2 ^ 32 < 2 ^ 32 := Nat.div_lt_of_lt_mul x.isLt
  rw [show wfield x 32 32 = x.toNat / 2 ^ 32 from (wfield_div x 32 32).trans (Nat.mod_eq_of_lt hx)]
  exact sextN_eq_signed (by decide) hx

/-- The element test of VCOVER, in the words of its line. -/
theorem inside_eq (b : Body) (s : State) (e : Nat) :
    coversPixel (fun i => sextN 32 (s.hart.vget b.vs1.toNat 32 i)) (wbit b.mod 1) (sextN 32 (wfield (s.hart.captured.getX b.vs3) 0 32))
        (sextN 32 (wfield (s.hart.captured.getX b.vs3) 32 32)) s.hart.vcols.toNat e
      = coversPixel (fun i => signed 32 (s.hart.vget b.vs1.toNat 32 i)) (wbit b.mod 1) (signed 32 ((s.getX b.vs3).toNat % 2 ^ 32))
        (signed 32 ((s.getX b.vs3).toNat / 2 ^ 32)) s.hart.vcols.toNat e := by
  rw [sextN_low, sextN_high, captured_getX]
  exact congrArg (coversPixel · _ _ _ _ _) (funext fun i => sextN_word _ _ _)

theorem cover_run {s u : State} {k : Hart} (hu : u.hart = stripsOf s.hart k) (b : Body) :
    (vcoverMember b).run s.hart.captured (firstElem s.hart) s.hart.vl.toNat u = .ok { u with hart := stripsOf (coverForm.effect b s) k } := by
  have hi := funext (inside_eq b s)
  change MRes.ok { u with hart := ((u.hart.vputs b.vd.toNat 32 _).mputs (stOf b) _) } = _
  rw [filter_covered, hu]
  refine congrArg (fun h => MRes.ok { u with hart := h }) ?_
  refine (coveredHart_stripsOf b s.hart k (coversPixel _ _ _ _ _) _ _).trans ?_
  exact congrArg (fun inside => stripsOf (coveredHart b s.hart inside (s.hart.vget b.vs1.toNat 32 6) (later b s.hart)) k) hi

theorem cover_completes : coverForm.Completes := by
  refine completes_of_performs (cls := 6) (m := fun b _ => vcoverMember b) (fun _ _ => rfl) fun b s _ => ?_
  refine { good := fun h => ?_, pc := ?_, instret := ?_, run := fun _ _ u k hu => cover_run hu b }
  · obtain ⟨hty, hmod, h2, hmask, hmeets⟩ := h
    change (decide (tyOf b ≠ 24) || modBad b 0x702 || ((b.men && decide (b.msk.toNat = stOf b)) || decide (b.vs2 ≠ 0)) || outMeetsIn _) = false
    rw [hty, modBad_of_only hmod, mask_good hmask, h2]
    exact hmeets
  · exact (mputs_frame Hart.pc (fun _ _ _ => rfl) _ _ _).trans (vputs_frame Hart.pc (fun _ _ _ => rfl) _ _ _ _)
  · exact (mputs_frame Hart.instret (fun _ _ _ => rfl) _ _ _).trans (vputs_frame Hart.instret (fun _ _ _ => rfl) _ _ _ _)

/-- Settles O33: their members are charged, checked and run as their lines say. -/
theorem vectorLinksAndAtomicsComplete : Obligations.VectorLinksAndAtomicsComplete :=
  List.forall_mem_append.2 ⟨linkMemForms_complete, vamoForms_complete⟩

/-- Settles O34: their members are charged, checked and run as their lines say. -/
theorem graphicsInstructionsComplete : Obligations.GraphicsInstructionsComplete := ⟨graphics_complete, cover_completes⟩

end Sys2Proof.VectorMemory
end

section
/-!
PROOFS. Packets on their way, time stamps and request timeouts (01 R33, R34, R36, R40).
-/
namespace Sys2Proof.LinkProofs
open Sys2Proof Sys2Proof.Machine Sys2Proof.Claims

/-! ### Links and requests -/

theorem onlyLink_modLink (s : State) (port : BitVec 4) (f : Link → Link) : OnlyLink s (s.modLink port f) port (f (s.link port)) :=
  ⟨rfl, by rw [link_modLink, if_pos rfl], fun q hq => by rw [link_modLink, if_neg hq]⟩

/-- The low four bits of a route entry. -/
theorem field_port (e : BitVec 8) : field e 0 4 = BitVec.ofNat 4 (e.toNat % 16) := BitVec.eq_of_toNat_eq (by simp [field])

/-- A list loses its first element that meets a condition. -/
theorem erase_first {α : Type} [DecidableEq α] {P : α → Prop} {a b : List α} {r : α} (hr : P r) (ha : ∀ x ∈ a, ¬ P x) : (a ++ r :: b).erase r = a ++ b := by
  rw [List.erase_append_right _ fun h => ha r h hr, List.erase_cons_head]

theorem find_first {α : Type} {P : α → Prop} [DecidablePred P] {a b : List α} {r : α} (hr : P r) (ha : ∀ x ∈ a, ¬ P x) :
    (a ++ r :: b).find? (fun x => P x) = some r := by
  rw [List.find?_append, List.find?_eq_none.2 (fun x hx => by simpa using ha x hx), Option.none_or, List.find?_cons_of_pos (by simpa using hr)]

theorem find_none {α : Type} {P : α → Prop} [DecidablePred P] {l : List α} (h : ∀ x ∈ l, ¬ P x) : l.find? (fun x => P x) = none :=
  List.find?_eq_none.2 fun x hx => by simpa using h x hx

theorem dropReq_first {s : State} {P : Request → Prop} {a b : List Request} {r : Request} (h : s.fab.reqs = a ++ r :: b) (hr : P r) (ha : ∀ x ∈ a, ¬ P x) :
    s.dropReq r = { s with fab := { s.fab with reqs := a ++ b } } := by
  unfold State.dropReq
  rw [h, erase_first hr ha]

/-! ### Forwarding -/

theorem drops_dropPacket (s : State) (port : BitVec 4) : Drops s (s.dropPacket port) port := rfl

theorem malformed_iff (p : Packet) :
    malformed p (packetLen p) = true ↔ packetOps p.cls.toNat ≤ p.op.toNat ∨ (p.dst = 0xFFF ∧ isNeighbour p = false) := by
  simp [malformed]

theorem forward_malformed {s : State} {p : Packet} (h : malformed p (packetLen p) = true) : s.forward p = s.dropPacket p.port := by
  unfold State.forward
  rw [if_pos h]

theorem forward_unnamed {s : State} {p : Packet} (hm : ¬ malformed p (packetLen p) = true) (hn : isNeighbour p = false) (hd : s.fab.devid = 0xFFF) :
    s.forward p = s.dropPacket p.port := by
  unfold State.forward
  rw [if_neg hm, if_neg (by simp [hn]), if_pos hd]

theorem forward_arrives {s : State} {p : Packet} (hm : ¬ malformed p (packetLen p) = true)
    (h : isNeighbour p = true ∨ (p.dst = s.fab.devid ∧ s.fab.devid ≠ 0xFFF)) : s.forward p = { s with agenda := s.agenda ++ [.packet p] } := by
  unfold State.forward
  rw [if_neg hm]
  split
  · rfl
  next hn =>
    obtain ⟨hdst, hdev⟩ := h.resolve_left hn
    rw [if_neg hdev, if_pos hdst]

theorem forward_leaves {s : State} {p : Packet} {port : BitVec 4} (hm : ¬ malformed p (packetLen p) = true) (hn : isNeighbour p = false)
    (hd : s.fab.devid ≠ 0xFFF) (hdst : p.dst ≠ s.fab.devid) (hr : routePort s p.dst = some port) (hops : p.hops ≠ 0) :
    s.forward p = s.enqueue port { p with hops := p.hops - 1, port := port } := by
  unfold State.forward
  rw [if_neg hm, if_neg (by simp [hn]), if_neg hd, if_neg hdst, hr]
  exact if_neg hops

theorem forward_stops {s : State} {p : Packet} (hm : ¬ malformed p (packetLen p) = true) (hn : isNeighbour p = false) (hd : s.fab.devid ≠ 0xFFF)
    (hdst : p.dst ≠ s.fab.devid) (h : routePort s p.dst = none ∨ p.hops = 0) : s.forward p = s.dropPacket p.port := by
  unfold State.forward
  rw [if_neg hm, if_neg (by simp [hn]), if_neg hd, if_neg hdst]
  cases hr : routePort s p.dst with
  | none => rfl
  | some port => exact if_pos (h.resolve_left (by simp [hr]))

theorem routePort_eq (s : State) (dst : BitVec 12) :
    routePort s dst = if (tgetD s.fab.route dst.toNat 0).getLsbD 7 then some (BitVec.ofNat 4 ((tgetD s.fab.route dst.toNat 0).toNat % 16)) else none := by
  rw [← field_port]
  rfl

theorem packetsAreForwarded : PacketsAreForwarded := by
  intro s p bad e port
  have hbad : malformed p (packetLen p) = true ↔ bad := malformed_iff p
  refine ⟨fun h => ⟨_, congrArg Host.Outcome.next (forward_malformed (hbad.2 h)), drops_dropPacket _ _⟩,
    fun h ha => congrArg Host.Outcome.next (forward_arrives (hbad.not.2 h) ha),
    fun h hn hd => ⟨_, congrArg Host.Outcome.next (forward_unnamed (hbad.not.2 h) hn hd), drops_dropPacket _ _⟩,
    fun h hn hd hdst => ⟨fun h7 hops => ?_, fun hdrop => ?_⟩⟩
  · exact ⟨_, congrArg Host.Outcome.next (forward_leaves (hbad.not.2 h) hn hd hdst ((routePort_eq s p.dst).trans (if_pos h7)) hops), onlyLink_modLink _ _ _⟩
  · have hnone : e.getLsbD 7 = false → routePort s p.dst = none := fun h7 => (routePort_eq s p.dst).trans (if_neg (ne_true_of_eq_false h7))
    exact ⟨_, congrArg Host.Outcome.next (forward_stops (hbad.not.2 h) hn hd hdst (hdrop.imp_left hnone)), drops_dropPacket _ _⟩

/-! ### Time stamps -/

/-- The error of a device's time lies on one side of the estimate. -/
theorem skew_sides (est room k : Nat) (hk : k ≤ 2 * room) :
    ∃ ahead behind, (ahead = 0 ∨ behind = 0) ∧ ahead + behind = max k room - min k room ∧ ahead + behind ≤ room ∧ est + k - room = est + ahead - behind := by
  rcases Nat.le_total room k with h | h
  · exact ⟨k - room, 0, .inr rfl, by rw [Nat.max_eq_left h, Nat.min_eq_right h]; rfl,
      Nat.sub_le_of_le_add (Nat.two_mul room ▸ hk), Nat.add_sub_assoc h est⟩
  · exact ⟨0, room - k, .inl rfl, by rw [Nat.max_eq_right h, Nat.min_eq_left h, Nat.zero_add],
      (Nat.zero_add _).le.trans (Nat.sub_le _ _), (Nat.sub_sub_right est h).symm⟩

/-- The request that a time stamp answers. -/
abbrev Stamps (p : Packet) (r : Request) : Prop := r.tag = p.tag ∧ r.waiter = .stamp ∧ r.port = p.port

theorem timeStampResponse_none {s : State} {p : Packet} (h : ∀ r ∈ s.fab.reqs, ¬ Stamps p r) : execTimeStampResponse p s = .next s := by
  unfold execTimeStampResponse
  rw [find_none (P := Stamps p) h]

/-- The state with the time that a stamp gives, once its request is gone. -/
noncomputable def stampedState (s : State) (sent got since bound k : Nat) : State :=
  { s with pkg := { s.pkg with dtime := BitVec.ofNat 64 (got + (sent - since) / 2 + k - (100 - bound)) }
           fab := { s.fab with skew := some (bound + (max k (100 - bound) - min k (100 - bound))) }
           freshCount := s.freshCount + 1 }

theorem timeStampResponse_some {s : State} {p : Packet} {r : Request} {a b : List Request} (hreqs : s.fab.reqs = a ++ r :: b) (hr : Stamps p r)
    (ha : ∀ x ∈ a, ¬ Stamps p x) :
    execTimeStampResponse p s
      = if s.fab.bridge ∨ 100 < (p.body.getD 2 0).toNat then .next { s with fab := { s.fab with reqs := a ++ b } }
        else .next (stampedState { s with fab := { s.fab with reqs := a ++ b } } s.pkg.dtime.toNat (p.body.getD 1 0).toNat r.since (p.body.getD 2 0).toNat
          (Config.freeNat s.freshCount % 2 ^ 32 % (2 * (100 - (p.body.getD 2 0).toNat) + 1))) := by
  unfold execTimeStampResponse
  rw [hreqs, find_first hr ha]
  dsimp only
  rw [dropReq_first hreqs hr ha]
  rfl

/-- The request that a tag names. -/
abbrev Tagged (tag : BitVec 10) (r : Request) : Prop := r.tag = tag

theorem requestTimeout_none {s : State} {tag : BitVec 10} (h : ∀ r ∈ s.fab.reqs, r.tag ≠ tag) : execRequestTimeout tag s = .next s := by
  unfold execRequestTimeout State.findReq
  rw [find_none (P := Tagged tag) h]

theorem requestTimeout_some {s : State} {tag : BitVec 10} {r : Request} {a b : List Request} (hreqs : s.fab.reqs = a ++ r :: b) (hr : r.tag = tag)
    (ha : ∀ x ∈ a, x.tag ≠ tag) :
    execRequestTimeout tag s = .next (if r.away s.fab.devid ∧ r.since + 2 * lrTicks s ≤ s.pkg.dtime.toNat then s.failReq r false else s) := by
  unfold execRequestTimeout State.findReq
  rw [hreqs, find_first (P := Tagged tag) hr ha]

theorem failReq_stamp {s : State} {r : Request} (h : r.waiter = .stamp) (down : Bool) : s.failReq r down = s.dropReq r := by
  unfold State.failReq State.finishReq
  rw [h]

theorem away_iff (r : Request) (devid : BitVec 12) : r.away devid = true ↔ r.waiter = .stamp ∨ r.waiter = .nbcmd ∨ r.dst ≠ devid := by
  unfold Request.away
  simp only [Bool.or_eq_true, decide_eq_true_eq]
  rw [or_comm (a := r.waiter = .nbcmd), or_assoc]

/-- A packet to the device at the other end of a link. -/
noncomputable def neighbourPacket (s : State) (port : BitVec 4) (cls : BitVec 3) (op : BitVec 5) (tag : BitVec 10) (body : List Word) : Packet :=
  { s.mkPacket 0xFFF cls op tag 0 body with hops := 0, port := port }

theorem sendNeighbour_eq (s : State) (port : BitVec 4) (cls : BitVec 3) (op : BitVec 5) (tag : BitVec 10) (body : List Word) :
    s.sendNeighbour port cls op tag body = s.enqueue port (neighbourPacket s port cls op tag body) := rfl

theorem onlyLink_sendNeighbour (s : State) (port : BitVec 4) (cls : BitVec 3) (op : BitVec 5) (tag : BitVec 10) (body : List Word) :
    OnlyLink s (s.sendNeighbour port cls op tag body) port
      { s.link port with txq := (s.link port).txq ++ [neighbourPacket s port cls op tag body] } :=
  onlyLink_modLink s port fun l => { l with txq := l.txq ++ [neighbourPacket s port cls op tag body] }

theorem stampExchange_spec (s : State) (port : BitVec 4) (h : (s.link port).state = .active) : ∃ t p, exec (.timeStampExchange port) s = .next t
    ∧ t.fab.reqs = s.fab.reqs ++ [{ tag := s.fab.nextTag, dst := 0xFFF, port := port, since := s.pkg.dtime.toNat, waiter := .stamp, lease := none }]
    ∧ t.link port = { s.link port with txq := (s.link port).txq ++ [p], stamped := s.pkg.dtime.toNat } ∧ p.cls = 5 ∧ p.op = 0 ∧ p.tag = s.fab.nextTag
    ∧ p.dst = 0xFFF ∧ p.hops = 0 ∧ p.body = [s.pkg.dtime] ∧ t = { s with links := t.links, fab := t.fab } := by
  refine ⟨_, neighbourPacket s port 5 0 s.fab.nextTag [s.pkg.dtime], if_neg (not_not.2 h), rfl, ?_, rfl, rfl, rfl, rfl, rfl, rfl, rfl⟩
  rw [sendNeighbour_eq]
  unfold State.enqueue
  rw [link_modLink, if_pos rfl, link_modLink, if_pos rfl]
  rfl

theorem stampRequest_spec (s : State) (q : Packet) (hq : isNeighbour q = true) :
    ∃ p, MakesLink (.timeStampRequest q) s q.port { s.link q.port with txq := (s.link q.port).txq ++ [p] }
      ∧ p.cls = q.cls ∧ p.op = 1 ∧ p.tag = q.tag ∧ p.body = [q.body.headD 0, s.pkg.dtime, (s.timeBound.map (BitVec.ofNat 64)).getD (BitVec.allOnes 64)] := by
  have hbound : (match s.timeBound with | some b => BitVec.ofNat 64 b | none => BitVec.allOnes 64)
      = (s.timeBound.map (BitVec.ofNat 64)).getD (BitVec.allOnes 64) := by cases s.timeBound <;> rfl
  exact ⟨neighbourPacket s q.port q.cls 1 q.tag _, ⟨_, congrArg Host.Outcome.next (if_pos hq), onlyLink_sendNeighbour ..⟩, rfl, rfl, rfl,
    congrArg (fun x => [q.body.headD 0, s.pkg.dtime, x]) hbound⟩

theorem timeStampsAndTimeouts : TimeStampsAndTimeouts := by
  refine fun s => ⟨fun port h => if_pos h, fun port h => stampExchange_spec s port h, fun q hq => stampRequest_spec s q hq,
    fun p h => timeStampResponse_none h, fun p r a b hreqs hr ha => ?_, fun tag h => requestTimeout_none h,
    fun tag r a b hreqs hr ha => ⟨fun h => ?_, fun haway h => ?_⟩⟩
  · intro bound
    refine ⟨fun h => (timeStampResponse_some hreqs hr ha).trans (if_pos h), fun hb h => ?_⟩
    refine ⟨_, (timeStampResponse_some hreqs hr ha).trans (if_neg (by rw [hb]; exact (not_or.2 ⟨nofun, Nat.not_lt.2 h⟩))), rfl, rfl, ?_⟩
    obtain ⟨ahead, behind, hside, hsum, hroom, htime⟩ := skew_sides ((p.body.getD 1 0).toNat + (s.pkg.dtime.toNat - r.since) / 2) (100 - bound)
      (Config.freeNat s.freshCount % 2 ^ 32 % (2 * (100 - bound) + 1)) (Nat.le_of_lt_succ (Nat.mod_lt _ (Nat.succ_pos _)))
    exact ⟨ahead, behind, hside, (Nat.add_assoc ..).le.trans (Nat.add_le_of_le_sub' h hroom), congrArg some ((congrArg (bound + ·) hsum.symm).trans (Nat.add_assoc ..).symm), congrArg (BitVec.ofNat 64) htime⟩
  · exact (requestTimeout_some hreqs hr ha).trans (congrArg Host.Outcome.next (if_neg fun h2 => Nat.not_le.2 h h2.2))
  · have hfail := (requestTimeout_some hreqs hr ha).trans (congrArg Host.Outcome.next (if_pos ⟨(away_iff r _).2 haway, h⟩))
    exact ⟨hfail, fun hw => hfail.trans (congrArg Host.Outcome.next ((failReq_stamp hw _).trans (dropReq_first (P := Tagged tag) hreqs hr ha)))⟩

/-- Settles O39. -/
theorem packetsAndTimeComplete : Obligations.PacketsAndTimeComplete := ⟨packetsAreForwarded, timeStampsAndTimeouts⟩

end Sys2Proof.LinkProofs
end

section
/-!
PROOFS. Boot, staging, maintenance and attestation (02 R44 to R52, R58 to R60; 03 R63).
-/
namespace Sys2Proof.LinkProofs
open Sys2Proof Sys2Proof.Machine Sys2Proof.Claims Sys2Proof.ScalarProofs

/-! ### Boot -/

theorem imageSigned_iff (img : List Byte) : imageSigned img = true ↔ Signed img := by
  unfold imageSigned signatureOk
  exact Bool.and_eq_true_iff

theorem boot_unsigned {s : State} {a b : Bool} (h0 : s.pkg.bootState = 0) (h : ¬ Signed s.pkg.flash) : execBoot a b s = .next (s.recover 1) :=
  (if_neg (not_not.2 h0)).trans (if_pos ((imageSigned_iff _).not.2 h))

theorem boot_low {s : State} {a b : Bool} (h0 : s.pkg.bootState = 0) (h : Signed s.pkg.flash)
    (hlow : (Config.imageSecver s.pkg.flash).toNat < s.pkg.minver.toNat) : execBoot a b s = .next (s.recover 2) :=
  (if_neg (not_not.2 h0)).trans ((if_neg (not_not.2 ((imageSigned_iff _).2 h))).trans (if_pos hlow))

theorem boot_untrained {s : State} {b : Bool} (h0 : s.pkg.bootState = 0) (h : Signed s.pkg.flash)
    (hlow : ¬ (Config.imageSecver s.pkg.flash).toNat < s.pkg.minver.toNat) : execBoot false b s = .next (s.recover 3) :=
  (if_neg (not_not.2 h0)).trans ((if_neg (not_not.2 ((imageSigned_iff _).2 h))).trans ((if_neg hlow).trans (if_pos Bool.false_ne_true)))

/-- Memory after its training. -/
noncomputable def scrubbedState (s : State) : State := { s with mem := [], poison := [], correctable := [] }

theorem boot_unlinked {s : State} (h0 : s.pkg.bootState = 0) (h : Signed s.pkg.flash)
    (hlow : ¬ (Config.imageSecver s.pkg.flash).toNat < s.pkg.minver.toNat) : execBoot true false s = .next ((scrubbedState s).recover 4) :=
  (if_neg (not_not.2 h0)).trans ((if_neg (not_not.2 ((imageSigned_iff _).2 h))).trans ((if_neg hlow).trans
    ((if_neg (not_not.2 rfl)).trans (if_pos Bool.false_ne_true))))

/-- The image runs, with its keys. -/
noncomputable def bootedState (s : State) : State :=
  State.newKeys { scrubbedState s with pkg := s.pkg.ready s.pkg.flash (Config.imageSecver s.pkg.flash) }

theorem boot_runs {s : State} (h0 : s.pkg.bootState = 0) (h : Signed s.pkg.flash)
    (hlow : ¬ (Config.imageSecver s.pkg.flash).toNat < s.pkg.minver.toNat) :
    execBoot true true s = .next ((List.range 16).foldl (fun s n => s.linkDetect (BitVec.ofNat 4 n)) (bootedState s)) :=
  (if_neg (not_not.2 h0)).trans ((if_neg (not_not.2 ((imageSigned_iff _).2 h))).trans ((if_neg hlow).trans
    ((if_neg (not_not.2 rfl)).trans (if_neg (not_not.2 rfl)))))

/-- What the detection of links leaves as it is. -/
def SameButLinks (s t : State) : Prop := t.hart = s.hart ∧ t.harts = s.harts ∧ t.mem = s.mem ∧ t.poison = s.poison ∧ t.pkg = s.pkg

theorem linkDetect_links (s : State) (port : BitVec 4) : SameButLinks s (s.linkDetect port) := by
  unfold State.linkDetect
  split <;> exact ⟨rfl, rfl, rfl, rfl, rfl⟩

theorem sameButLinks_trans {s t u : State} (h : SameButLinks s t) (k : SameButLinks t u) : SameButLinks s u := by
  obtain ⟨h1, h2, h3, h4, h5⟩ := h
  obtain ⟨k1, k2, k3, k4, k5⟩ := k
  exact ⟨k1.trans h1, k2.trans h2, k3.trans h3, k4.trans h4, k5.trans h5⟩

theorem detectAll_links (s : State) (ns : List Nat) : SameButLinks s (ns.foldl (fun s n => s.linkDetect (BitVec.ofNat 4 n)) s) :=
  List.foldlRecOn (motive := SameButLinks s) ns _ ⟨rfl, rfl, rfl, rfl, rfl⟩ fun _ h _ _ => sameButLinks_trans h (linkDetect_links _ _)

theorem ready_minver (p : Pkg) (img : List Byte) (v : BitVec 16) :
    (p.ready img v).minver = if p.minver < v ∧ p.fuseRaises < 63 then v else p.minver := by
  unfold Pkg.ready
  simp only [decide_eq_true_eq]
  rfl

/-- What the machine is when its image runs. -/
theorem booted_facts {s t : State} (h : SameButLinks (bootedState s) t) : t.mem = [] ∧ t.poison = [] ∧ t.pkg.bootState = 4
    ∧ t.pkg.keys = some (Config.freeNat s.freshCount % 2 ^ 384, Config.freeNat (s.freshCount + 1) % 2 ^ 96)
    ∧ t.pkg.secver = Config.imageSecver s.pkg.flash ∧ t.pkg.image = s.pkg.flash ∧ t.hart = s.hart ∧ t.harts = s.harts
    ∧ t.pkg.minver = (if s.pkg.minver < Config.imageSecver s.pkg.flash ∧ s.pkg.fuseRaises < 63 then Config.imageSecver s.pkg.flash else s.pkg.minver) := by
  obtain ⟨hhart, hharts, hmem, hpoison, hpkg⟩ := h
  rw [hpkg]
  exact ⟨hmem, hpoison, rfl, rfl, rfl, rfl, hhart, hharts, ready_minver s.pkg s.pkg.flash _⟩

theorem boots {s : State} (h0 : s.pkg.bootState = 0) (h : Signed s.pkg.flash) (hlow : ¬ (Config.imageSecver s.pkg.flash).toNat < s.pkg.minver.toNat) :
    ∃ t, execBoot true true s = .next t ∧ SameButLinks (bootedState s) t :=
  ⟨_, boot_runs h0 h hlow, detectAll_links _ _⟩

/-! ### The mailbox -/

/-- Bytes that are put one after another from a place on. -/
theorem tget_putBytes {α : Type} (bs : List α) (t : Table α) (at' k a : Nat) :
    tget ((bs.zipIdx k).foldl (fun t b => tset t (at' + b.2) b.1) t) a
      = if at' + k ≤ a then (bs[a - (at' + k)]?).or (tget t a) else tget t a := by
  induction bs generalizing t k with
  | nil => simp
  | cons b bs ih =>
    rw [List.zipIdx_cons, List.foldl_cons, ih, tget_tset, ← Nat.add_assoc at' k 1]
    dsimp only
    rcases Nat.lt_trichotomy a (at' + k) with h | h | h
    · rw [if_neg (Nat.not_le.2 (h.trans (Nat.lt_succ_self _))), if_neg h.ne, if_neg (Nat.not_le.2 h)]
    · subst h
      rw [if_neg (Nat.not_succ_le_self _), if_pos rfl, if_pos le_rfl, Nat.sub_self]
      rfl
    · obtain ⟨n, rfl⟩ := Nat.exists_eq_add_of_lt h
      rw [if_pos (Nat.succ_le_succ (Nat.le_add_right (at' + k) n)), if_neg h.ne', if_pos h.le, Nat.add_assoc (at' + k) n 1, Nat.add_sub_cancel_left,
        List.getElem?_cons_succ, show at' + k + (n + 1) - (at' + k + 1) = n from
          (Nat.add_sub_add_right (at' + k + n) 1 (at' + k)).trans (Nat.add_sub_cancel_left ..)]

theorem getElem?_leBytes (n v i : Nat) : (leBytes n v)[i]? = if i < n then some (BitVec.ofNat 8 (v / 256 ^ i)) else none := by
  induction n generalizing v i with
  | zero => rfl
  | succ n ih =>
    cases i with
    | zero => simp [leBytes]
    | succ i => rw [leBytes, List.getElem?_cons_succ, ih, Nat.div_div_eq_div_mul, ← Nat.pow_succ']; simp only [Nat.add_lt_add_iff_right]

theorem tget_mailed (t : Table Byte) (v at' n a : Nat) (hn : n ≤ 8) :
    tget (((leBytes 8 v).take n).zipIdx.foldl (fun t b => tset t (at' + b.2) b.1) t) a
      = if at' ≤ a ∧ a < at' + n then some (BitVec.ofNat 8 (v / 256 ^ (a - at'))) else tget t a := by
  rw [tget_putBytes, Nat.add_zero, List.getElem?_take, getElem?_leBytes]
  by_cases h : at' ≤ a
  · by_cases hlt : a < at' + n
    · have hi := (tsub_lt_iff_left h).2 hlt
      rw [if_pos h, if_pos hi, if_pos (Nat.lt_of_lt_of_le hi hn), if_pos ⟨h, hlt⟩]
      rfl
    · rw [if_pos h, if_neg fun hi => hlt ((tsub_lt_iff_left h).1 hi), if_neg fun hc => hlt hc.2]
      rfl
  · rw [if_neg h, if_neg fun hc => h hc.1]

theorem mailbox_idle {s : State} {off : BitVec 16} {half : Half} {data : Word}
    (h : off.toNat < 0x1000 ∨ 0x2000 ≤ off.toNat ∨ badAccess off.toNat half = true) : execMailboxWrite off half data s = .next s := if_pos h

theorem badAccess_iff (off : Nat) (half : Half) : badAccess off half = true ↔ off % 8 ≠ 0 ∨ half = .odd := by
  unfold badAccess
  simp only [Bool.or_eq_true, decide_eq_true_eq]

theorem mailbox_completes (s : State) (off : BitVec 16) (half : Half) (data : Word) : ∃ t, exec (.mailboxWrite off half data) s = .next t
    ∧ t = { s with pkg := { s.pkg with staged := t.pkg.staged } }
    ∧ (off.toNat < 0x1000 ∨ 0x2000 ≤ off.toNat ∨ off.toNat % 8 ≠ 0 ∨ half = .odd → t = s)
    ∧ (0x1000 ≤ off.toNat → off.toNat < 0x2000 → off.toNat % 8 = 0 → half ≠ .odd → ∀ a,
        let at' := s.pkg.mbxbase.toNat + (off.toNat - 0x1000)
        let lo := match half with | .high => at' + 4 | _ => at'
        let hi := match half with | .low => at' + 4 | _ => at' + 8
        tget t.pkg.staged a = if lo ≤ a ∧ a < hi then some (BitVec.ofNat 8 (data.toNat / 256 ^ (a - lo))) else tget s.pkg.staged a) := by
  by_cases hbad : off.toNat < 0x1000 ∨ 0x2000 ≤ off.toNat ∨ badAccess off.toNat half = true
  · refine ⟨s, mailbox_idle hbad, rfl, fun _ => rfl, fun h1 h2 h3 h4 => ?_⟩
    rw [badAccess_iff] at hbad
    exact absurd hbad (not_or.2 ⟨Nat.not_lt.2 h1, not_or.2 ⟨Nat.not_le.2 h2, not_or.2 ⟨not_not.2 h3, h4⟩⟩⟩)
  · refine ⟨_, if_neg hbad, rfl, fun h => absurd ?_ hbad, fun _ _ _ hodd a => ?_⟩
    · rw [badAccess_iff]
      exact h
    · cases half with
      | whole => exact tget_mailed s.pkg.staged data.toNat _ 8 a le_rfl
      | low => exact tget_mailed s.pkg.staged data.toNat _ 4 a (by decide)
      | high => exact tget_mailed s.pkg.staged data.toNat _ 4 a (by decide)
      | odd => exact absurd rfl hodd

/-! ### Staging and maintenance windows -/

theorem staging_completes (s : State) (h : s.pkg.stage = true) : ∃ t, exec .stagingComplete s = .next t ∧ t.pkg.stage = false ∧ t.hart = s.hart ∧ t.mem = s.mem
    ∧ (let img := stagedImage s.pkg.staged
       let good := Signed img ∧ s.pkg.minver.toNat ≤ (Config.imageSecver img).toNat
       (good → t.pkg.failcode = 0 ∧ t.pkg.flash = img) ∧ (¬ good → t.pkg.failcode ≠ 0 ∧ t.pkg.flash = s.pkg.flash)) := by
  refine ⟨_, if_neg (not_not.2 h), rfl, rfl, rfl, ?_⟩
  intro img good
  by_cases hs : Signed img
  · have hsigned := not_not.2 ((imageSigned_iff img).2 hs)
    by_cases hv : (Config.imageSecver img).toNat < s.pkg.minver.toNat
    · have hwhy : (if ¬ imageSigned img = true then 1 else if (Config.imageSecver img).toNat < s.pkg.minver.toNat then 2 else 0 : BitVec 16) = 2 :=
        (if_neg hsigned).trans (if_pos hv)
      refine ⟨fun hg => absurd hv (Nat.not_lt.2 hg.2), fun _ => ?_⟩
      dsimp only [State.freshBool]
      rw [hwhy]
      exact ⟨by cases Config.freeBool s.freshCount <;> decide, rfl⟩
    · have hwhy : (if ¬ imageSigned img = true then 1 else if (Config.imageSecver img).toNat < s.pkg.minver.toNat then 2 else 0 : BitVec 16) = 0 :=
        (if_neg hsigned).trans (if_neg hv)
      refine ⟨fun _ => ?_, fun hg => absurd ⟨hs, Nat.not_lt.1 hv⟩ hg⟩
      dsimp only [State.freshBool]
      rw [hwhy]
      exact ⟨rfl, rfl⟩
  · have hwhy : (if ¬ imageSigned img = true then 1 else if (Config.imageSecver img).toNat < s.pkg.minver.toNat then 2 else 0 : BitVec 16) = 1 :=
      if_pos ((imageSigned_iff img).not.2 hs)
    refine ⟨fun hg => absurd hg.1 hs, fun _ => ?_⟩
    dsimp only [State.freshBool]
    rw [hwhy]
    exact ⟨by cases Config.freeBool s.freshCount <;> decide, rfl⟩

theorem reopen_pkg (s : State) (cl : BitVec 5) : (s.reopenCluster cl).pkg.maintCl = if cl = 31 then none else some (cl + 1) := by
  unfold State.reopenCluster
  dsimp only
  split <;> rfl

theorem reopen_frame {α : Type} (f : State → α) (hf : ∀ (s : State) p c g, f { s with pkg := p, clusters := c, gangs := g } = f s) (s : State) (cl : BitVec 5) :
    f (s.reopenCluster cl) = f s := by
  unfold State.reopenCluster
  dsimp only
  split
  · exact hf s _ _ s.gangs
  · exact hf s _ _ _

theorem closeCluster_cluster (s : State) (cl k : BitVec 5) :
    (s.closeCluster cl).cluster k = if k = cl then { s.cluster cl with closed := some s.pkg.dtime.toNat } else s.cluster k :=
  (cluster_of_clusters rfl k).trans (cluster_modCluster s cl k fun c => { c with closed := some s.pkg.dtime.toNat })

theorem reopen_cluster (s : State) (cl : BitVec 5) : (s.reopenCluster cl).cluster cl = { s.cluster cl with closed := none } := by
  have hc : (s.modCluster cl fun c => { c with closed := none }).cluster cl = { s.cluster cl with closed := none } := by
    rw [cluster_modCluster, if_pos rfl]
  unfold State.reopenCluster
  dsimp only
  split
  · exact hc
  · exact (closeCluster_cluster _ _ _).trans ((if_neg fun e => absurd (left_eq_add.1 e) (by decide)).trans hc)

/-- A cluster that has been measured. -/
noncomputable def measuredState (s : State) (cl : BitVec 5) (num den : Nat) (told : Bool) : State :=
  let t := s.modCluster cl fun c => c.measured num den
  if told then { t with hostOut := t.hostOut ++ [.health cl] } else t

theorem measure_next {s : State} {cl : BitVec 5} (num den : Nat) (h : s.pkg.maintCl = some cl) (hb : clusterBusy s cl = false) :
    ∃ told, execMaintClusterMeasure cl num den s = .next ((measuredState s cl num den told).reopenCluster cl) := by
  by_cases htold : ((s.modCluster cl fun c => c.measured num den).cluster cl).ageIdx = 255 ∧ (s.cluster cl).ageIdx ≠ 255
  · exact ⟨true, (if_neg (by simp [h, hb])).trans (congrArg (fun t : State => Host.Outcome.next (t.reopenCluster cl)) (if_pos htold))⟩
  · exact ⟨false, (if_neg (by simp [h, hb])).trans (congrArg (fun t : State => Host.Outcome.next (t.reopenCluster cl)) (if_neg htold))⟩

theorem measured_cluster (s : State) (cl : BitVec 5) (num den : Nat) (told : Bool) :
    (measuredState s cl num den told).cluster cl = (s.cluster cl).measured num den := by
  have hc : (s.modCluster cl fun c => c.measured num den).cluster cl = (s.cluster cl).measured num den := by
    rw [cluster_modCluster, if_pos rfl]
  cases told <;> exact hc

theorem measure_completes {s : State} {cl : BitVec 5} (num den : Nat) (h : s.pkg.maintCl = some cl) (hb : clusterBusy s cl = false) :
    ∃ t, exec (.maintClusterMeasure cl num den) s = .next t
      ∧ (t.cluster cl).mwin = (s.cluster cl).mwin + 1 ∧ (t.cluster cl).closed = none
      ∧ (t.cluster cl).guard = BitVec.ofNat 8 (min 255 (20 + (8 * num + den - 1) / den))
      ∧ (t.cluster cl).ageIdx = BitVec.ofNat 8 (min 255 ((51 * num + den - 1) / den))
      ∧ t.pkg.maintCl = (if cl = 31 then none else some (cl + 1)) ∧ t.hart = s.hart ∧ t.mem = s.mem := by
  obtain ⟨told, hnext⟩ := measure_next num den h hb
  have hc := reopen_cluster (measuredState s cl num den told) cl
  rw [measured_cluster] at hc
  refine ⟨_, hnext, ?_, ?_, ?_, ?_, reopen_pkg _ _, ?_, ?_⟩
  · rw [hc]; rfl
  · rw [hc]
  · rw [hc]; rfl
  · rw [hc]; rfl
  · rw [reopen_frame State.hart fun _ _ _ _ => rfl]
    cases told <;> rfl
  · rw [reopen_frame State.mem fun _ _ _ _ => rfl]
    cases told <;> rfl

theorem timeout_completes {s : State} {cl : BitVec 5} {t0 : Nat} (hc : (s.cluster cl).closed = some t0) (h : s.pkg.maintCl = some cl)
    (hb : clusterBusy s cl = true) (ht : t0 + 1000000000 ≤ s.pkg.dtime.toNat) :
    ∃ t, exec (.maintClusterTimeout cl) s = .next t ∧ (t.cluster cl).closed = none ∧ (t.cluster cl).mwin = (s.cluster cl).mwin
      ∧ t.pkg.maintCl = (if cl = 31 then none else some (cl + 1)) := by
  have hnext : execMaintClusterTimeout cl s = .next (s.reopenCluster cl) := by
    unfold execMaintClusterTimeout
    rw [hc]
    exact congrArg Host.Outcome.next (if_pos ⟨h, hb, ht⟩)
  exact ⟨_, hnext, by rw [reopen_cluster], by rw [reopen_cluster], reopen_pkg _ _⟩

theorem bootAndMaintenanceComplete : BootAndMaintenanceComplete := by
  intro s
  refine ⟨fun a b h => if_pos h, fun a b h0 => ?_, mailbox_completes s, fun h => ?_, fun hm hs => ?_, fun hm hs => ?_, fun h => if_pos (by simp [h]),
    fun h => staging_completes s h, fun cl num den => ⟨fun h => if_pos h, fun h hb => measure_completes num den h hb,
      fun t0 hc h hb ht => timeout_completes hc h hb ht, fun h => ?_⟩⟩
  · intro img low
    refine ⟨fun h => boot_unsigned h0 h, fun h hl => boot_low h0 h hl, fun h hl => ⟨boot_untrained h0 h hl, boot_unlinked h0 h hl, ?_⟩⟩
    obtain ⟨t, ht, hlinks⟩ := boots h0 h hl
    exact ⟨t, ht, booted_facts hlinks⟩
  · exact ⟨congrArg Host.Outcome.next (if_pos h), congrArg Host.Outcome.next (if_pos h)⟩
  · exact congrArg Host.Outcome.next (if_neg (by simp [hm, hs]))
  · exact ⟨_, congrArg Host.Outcome.next (if_neg (by simp [hm, hs])), rfl, by rw [closeCluster_cluster, if_pos rfl], rfl⟩
  · change execMaintClusterTimeout cl s = _
    unfold execMaintClusterTimeout
    rw [h]

/-! ### Attestation -/

/-- A request and its answer join the transcript, and the answer goes to the host. -/
noncomputable def answered (s : State) (req ans : List Nat) : State :=
  { s with pkg := { s.pkg with spdmLog := s.pkg.spdmLog ++ req ++ ans }, hostOut := s.hostOut ++ [.spdm ans] }

theorem spdmReady_iff (s : State) : spdmReady s = true ↔ s.fab.bridge = true ∧ s.pkg.bootState = 4 ∧ s.pkg.keys ≠ none := by
  unfold spdmReady
  rw [Bool.and_eq_true_iff, Bool.and_eq_true_iff, decide_eq_true_eq, and_assoc, Option.isSome_iff_ne_none]

section ready
variable {s : State} (h : spdmReady s = true)
include h

theorem spdmAnswer_ready (req ans : List Nat) : s.spdmAnswer req ans = answered s req ans := if_pos h

theorem spdmAfter_ready (ha : s.pkg.spdmAlgos = true) (req ans : List Nat) : s.spdmAfter req ans = .next (answered s req ans) := by
  unfold State.spdmAfter
  rw [if_pos ha, spdmAnswer_ready h]

theorem spdmAfter_early (ha : s.pkg.spdmAlgos = false) (req ans : List Nat) : s.spdmAfter req ans = .next (answered s req [0x7F, 4]) := by
  unfold State.spdmAfter
  rw [if_neg (by simp [ha]), spdmAnswer_ready h]
  rfl

end ready

theorem certificate_part (chain : List Byte) (slot : BitVec 3) (off len : Nat) :
    [0x02, slot.toNat, ((chain.drop off).take len).length, (chain.drop off).length - ((chain.drop off).take len).length]
        ++ byteFields ((chain.drop off).take len)
      = [0x02, slot.toNat, min len (chain.length - off), chain.length - off - min len (chain.length - off)]
        ++ ((chain.drop off).take len).map BitVec.toNat := by
  rw [List.length_take, List.length_drop]
  rfl

theorem spdmAnswer_idle {s : State} (h : spdmReady s = false) (req ans : List Nat) : s.spdmAnswer req ans = s := if_neg (ne_true_of_eq_false h)

theorem spdmAfter_idle {s : State} (h : spdmReady s = false) (req ans : List Nat) : s.spdmAfter req ans = .next s :=
  congrArg Host.Outcome.next (spdmAnswer_idle h _ _)

theorem attestationCompletes : AttestationCompletes := by
  intro s ready said fresh
  refine ⟨fun hr => ?_, fun hr => ?_⟩
  · have h := (spdmReady_iff s).2 hr
    refine ⟨?_, congrArg Host.Outcome.next (spdmAnswer_ready h _ _), fun a b => ?_, fun code => congrArg Host.Outcome.next (spdmAnswer_ready h _ _),
      fun ha => ⟨spdmAfter_early h ha _ _, fun _ _ _ => spdmAfter_early h ha _ _, fun _ _ => spdmAfter_early h ha _ _,
        fun _ _ => spdmAfter_early h ha _ _⟩,
      fun ha => ⟨spdmAfter_ready h ha _ _, fun slot off len => ?_, fun slot nonce hs => ?_, fun index nonce hi => ?_⟩⟩
    · exact congrArg Host.Outcome.next ((if_pos h).trans (spdmAnswer_ready (s := fresh) h _ _))
    · refine congrArg Host.Outcome.next ((if_pos h).trans ?_)
      rw [spdmAnswer_ready h]
      rfl
    · refine ⟨_, spdmAfter_ready h ha _ _, fun hs => if_neg (Nat.not_le.2 hs), fun hs => (if_pos hs).trans ?_⟩
      exact certificate_part _ _ _ _
    · exact ⟨_, _, (spdmAfter_ready h ha _ _).trans (congrArg (fun a => Host.Outcome.next (answered s _ a)) (if_pos hs)), rfl, rfl⟩
    · exact ⟨_, (spdmAfter_ready h ha _ _).trans (congrArg (fun a => Host.Outcome.next (answered s _ a)) (if_pos hi)), fun h0 => if_pos h0,
        fun h2 => by rw [h2]; rfl⟩
  · have h : spdmReady s = false := Bool.eq_false_iff.2 ((spdmReady_iff s).not.2 hr)
    intro a b slot off len nonce index code
    exact forall_mem_cons (congrArg Host.Outcome.next (if_neg (ne_true_of_eq_false h))) <|
      forall_mem_cons (congrArg Host.Outcome.next (spdmAnswer_idle h _ _)) <|
      forall_mem_cons (congrArg Host.Outcome.next (if_neg (ne_true_of_eq_false h))) <|
      forall_mem_cons (spdmAfter_idle h _ _) <| forall_mem_cons (spdmAfter_idle h _ _) <| forall_mem_cons (spdmAfter_idle h _ _) <|
      forall_mem_cons (spdmAfter_idle h _ _) <| forall_mem_cons (congrArg Host.Outcome.next (spdmAnswer_idle h _ _)) (List.forall_mem_nil _)

/-- Settles O37: by the branch that each event takes. -/
theorem bootAndAttestationComplete : Obligations.BootAndAttestationComplete := ⟨bootAndMaintenanceComplete, attestationCompletes⟩

end Sys2Proof.LinkProofs
end

section
/-!
PROOFS. The ends of waits, user interrupts and strip records (08 R226 to R229; 10 R256, R278, R279; 13 R354 to R359, R362).
-/
namespace Sys2Proof.ScalarProofs
open Sys2Proof Sys2Proof.Machine Sys2Proof.Claims Sys2Proof.AccessProofs

/-! ### Events of one hart -/

theorem asHart_of_is {s u : State} {r : HartRef} (h : Is s u r) (f : State → Out) : s.asHart r f = f u := by
  obtain ⟨rfl, hl, hr⟩ := h
  exact if_pos ⟨hl, hr⟩

theorem asHart_none {s : State} {r : HartRef} (h : ∀ u, ¬ Is s u r) (f : State → Out) : s.asHart r f = .next s :=
  if_neg fun k => h _ ⟨rfl, k⟩

/-! ### The reply to an STV -/

/-- What the reply makes of the hart that it finds (13 R356). -/
noncomputable def replied (h : Hart) : Hart :=
  match h.wait with
  | .stv rd (some v) => { h.putX rd v with wait := .none }
  | _ => h

theorem putX_setX (s : State) (rd : Reg) (v : Word) : (s.hart.putX rd v).x = (s.setX rd v).hart.x := by
  unfold Hart.putX State.setX
  by_cases h : rd = 0#5
  · rw [if_pos h]
    exact congrArg Hart.x (if_pos h)
  · rw [if_neg h]
    exact congrArg Hart.x (if_neg h)

theorem putX_others (h : Hart) (rd : Reg) (v : Word) : { h.putX rd v with wait := .none } = { h with x := (h.putX rd v).x, wait := .none } := by
  unfold Hart.putX
  split
  · rfl
  · rfl

theorem stvReply_eq {s : State} {r : HartRef} (hl : s.hart.live = true) (hr : s.hart.ref = r) :
    exec (.stvReply r) s = .next { s with hart := replied s.hart } := congrArg Host.Outcome.next (if_pos ⟨hl, hr⟩)

theorem stv_replied {s : State} {r : HartRef} {rd : Reg} {v : Word} (hl : s.hart.live = true) (hr : s.hart.ref = r)
    (hw : s.hart.wait = .stv rd (some v)) : ∃ t, exec (.stvReply r) s = .next t ∧ t = { s with hart := t.hart }
      ∧ Writes s t rd v ∧ t.hart = { s.hart with x := t.hart.x, wait := .none } := by
  have he : replied s.hart = { s.hart with x := (s.hart.putX rd v).x, wait := .none } := by
    rw [← putX_others]
    unfold replied
    rw [hw]
  refine ⟨_, (stvReply_eq hl hr).trans (by rw [he]), rfl, fun q => ?_, rfl⟩
  exact (getX_eq (putX_setX s rd v) q).trans (getX_setX s rd q v)

theorem stv_not_replied {s : State} {r : HartRef} (hl : s.hart.live = true) (hr : s.hart.ref = r)
    (hw : ∀ rd v, s.hart.wait ≠ .stv rd (some v)) : exec (.stvReply r) s = .next s := by
  have he : replied s.hart = s.hart := by
    unfold replied
    generalize s.hart.wait = w at hw ⊢
    cases w with
    | stv rd v =>
      cases v with
      | none => rfl
      | some v => exact absurd rfl (hw rd v)
    | _ => rfl
  rw [stvReply_eq hl hr, he]

/-! ### Fences that wait -/

section
variable {s u : State} {r : HartRef}

theorem fenceWaitEnd_eq (h : Is s u r) {scope : BitVec 3} {rd : Reg} {report : Bool} {start : Word} (hw : u.hart.wait = .fence scope rd report start) :
    exec (.fenceWaitEnd r) s = if fenceEnd u scope.toNat start ≠ .waits then
      (if report then reportingFence rd scope u else .next (u.withHart Hart.wake)) else .next u := by
  change execFenceWaitEnd r s = _
  refine (asHart_of_is h _).trans ?_
  unfold fenceOver
  rw [hw]
  dsimp only
  simp only [decide_eq_true_eq]
  cases report
  · rfl
  · rfl

/-- The answer of a fence's timeout: only a lost link, for a fence that reports, ends it. -/
noncomputable def timedOut (e : FenceEnd) (report : Bool) (rd : Reg) (u : State) : Out :=
  match e, report with
  | .linkDown _, true => reportingFence rd 5 u
  | _, _ => .next u

theorem systemFenceTimeout_eq (h : Is s u r) {rd : Reg} {report : Bool} {start : Word} (hw : u.hart.wait = .fence 5 rd report start) :
    exec (.systemFenceTimeout r) s = timedOut (fenceEnd u 5 start) report rd u := by
  change execSystemFenceTimeout r s = _
  refine (asHart_of_is h _).trans ?_
  rw [hw]
  rfl

theorem systemFenceTimeout_other (h : Is s u r) (hw : ∀ rd report start, u.hart.wait ≠ .fence 5 rd report start) :
    exec (.systemFenceTimeout r) s = .next u := by
  change execSystemFenceTimeout r s = _
  refine (asHart_of_is h _).trans ?_
  generalize u.hart.wait = w at hw ⊢
  cases w with
  | fence scope rd report start =>
    unfold execSystemFenceTimeout.match_4
    exact dif_neg fun e => hw rd report start (congrArg (Wait.fence · rd report start) e)
  | _ => rfl

/-- The timeout changes nothing while no posted write is lost, nor for a fence that does not report. -/
theorem systemFenceTimeout_quiet (h : Is s u r) {scope : BitVec 3} {rd : Reg} {report : Bool} {start : Word}
    (hw : u.hart.wait = .fence scope rd report start) (hq : report = false ∨ ∀ p, fenceEnd u scope.toNat start ≠ .linkDown p) :
    exec (.systemFenceTimeout r) s = .next u := by
  by_cases h5 : scope = 5
  · subst h5
    rw [systemFenceTimeout_eq h hw]
    unfold timedOut
    change _ ∨ ∀ p, fenceEnd u 5 start ≠ .linkDown p at hq
    generalize fenceEnd u 5 start = e at hq ⊢
    cases e with
    | linkDown p =>
      cases report with
      | false => rfl
      | true => exact absurd rfl (hq.resolve_left Bool.noConfusion p)
    | _ => rfl
  · refine systemFenceTimeout_other h fun rd' report' start' e => h5 ?_
    rw [hw] at e
    injection e

theorem fenceStart_of_wait {scope : BitVec 3} {rd : Reg} {report : Bool} {start : Word} (hw : u.hart.wait = .fence scope rd report start) :
    fenceStart u = start := by
  unfold fenceStart
  rw [hw]

theorem fenceWaitEnd_complete (h : Is s u r) {scope : BitVec 3} {rd : Reg} {start : Word} (hw : u.hart.wait = .fence scope rd true start)
    (he : fenceEnd u scope.toNat start = .complete) : ∃ t, exec (.fenceWaitEnd r) s = .next t
      ∧ WritesOnly (if scope = 0 then u else u.writeHome) t rd 0 (u.hart.pc + 4) := by
  rw [fenceWaitEnd_eq h hw, he, if_pos (fun e => nomatch e)]
  exact reportingFence_complete (by rw [fenceStart_of_wait hw]; exact he) rfl

/-- Both events end a system-scope fence that reports a lost link. -/
theorem fence_linkDown (h : Is s u r) {rd : Reg} {start : Word} {p : Posted} (hw : u.hart.wait = .fence 5 rd true start)
    (he : fenceEnd u 5 start = .linkDown p) : ∀ i ∈ [Instr.fenceWaitEnd r, .systemFenceTimeout r], exec i s = reportingFence rd 5 u := by
  refine forall_mem_cons ?_ (forall_mem_cons ?_ (List.forall_mem_nil _))
  · refine (fenceWaitEnd_eq h hw).trans ((if_pos fun e => ?_).trans rfl)
    exact nomatch he.symm.trans e
  · rw [systemFenceTimeout_eq h hw, he]
    rfl

theorem fence_reports_linkDown (h : Is s u r) {rd : Reg} {start : Word} {p : Posted} (hw : u.hart.wait = .fence 5 rd true start)
    (hr : fenceReady u = true) (hp : firstPosted u.hart.posted = some p)
    (hf : (∃ q ∈ u.hart.posted, q.failed = true) ∨ start.toNat + lrTicks u ≤ u.pkg.dtime.toNat) :
    let v := (u.writeHome.postLinkFault u.hart.ctx p.port p.va).withHart (fun h => { h with posted := h.posted.filter (fun q => !q.failed) })
    ∀ i ∈ [Instr.fenceWaitEnd r, .systemFenceTimeout r],
      ((v.ctx u.hart.ctx).ftrap = false → ∃ t, exec i s = .next t ∧ WritesOnly v t rd (BitVec.ofNat 64 (1 + 256 * p.port.toNat)) (v.hart.pc + 4))
      ∧ ((v.ctx u.hart.ctx).ftrap = true → exec i s = .next (v.takeTrap 0x10 (p.port.setWidth 64) none)) := by
  intro v i hi
  have he := fenceEnd_linkDown (start := start) hr hp hf
  have hv : v = (u.writeHome.postLinkFault u.hart.ctx p.port p.va).withHart Hart.forgetFailed := congrArg (State.withHart _) forgetFailed_eq.symm
  clear_value v
  refine linkDown_reported ((fence_linkDown h hw he i hi).trans (reportingFence_linkDown ?_ hv))
  rw [fenceStart_of_wait hw]
  exact he

theorem fenceI_eq (h : Is s u r) (hw : u.hart.wait = .fenceI) :
    exec (.fenceWaitEnd r) s = if seenAll u then .next (u.withHart Hart.wake) else .next u := by
  change execFenceWaitEnd r s = _
  refine (asHart_of_is h _).trans ?_
  unfold fenceOver
  rw [hw]

theorem fenceOver_other (hw : ∀ scope rd report start, u.hart.wait ≠ .fence scope rd report start) (hi : u.hart.wait ≠ .fenceI) :
    fenceOver u = false := by
  unfold fenceOver
  cases hc : u.hart.wait with
  | fence scope rd report start => exact absurd hc (hw _ _ _ _)
  | fenceI => exact absurd hc hi
  | _ => rfl

theorem fenceWaitEnd_other (h : Is s u r) (hw : ∀ scope rd report start, u.hart.wait ≠ .fence scope rd report start) (hi : u.hart.wait ≠ .fenceI) :
    exec (.fenceWaitEnd r) s = .next u := by
  change execFenceWaitEnd r s = _
  exact (asHart_of_is h _).trans (if_neg (Bool.eq_false_iff.1 (fenceOver_other hw hi)))

/-! ### Times, tickets and looks that wait -/

theorem viswaitEnd_eq (h : Is s u r) {t : Word} (hw : u.hart.wait = .viswait t) : exec (.viswaitEnd r) s =
    if t.toNat ≤ u.pkg.dtime.toNat then .next (u.withHart Hart.wake) else .next u := by
  change execViswaitEnd r s = _
  refine (asHart_of_is h _).trans ?_
  rw [hw]

theorem viswaitEnd_other (h : Is s u r) (hw : ∀ t, u.hart.wait ≠ .viswait t) : exec (.viswaitEnd r) s = .next u := by
  change execViswaitEnd r s = _
  refine (asHart_of_is h _).trans ?_
  generalize u.hart.wait = w at hw ⊢
  cases w with
  | viswait a => exact absurd rfl (hw a)
  | _ => rfl

theorem tkwaitGrant_eq (h : Is s u r) {tile : BitVec 20} {k : BitVec 32} {cl : BitVec 5} (hw : u.hart.wait = .ticket tile k cl) :
    exec (.tkwaitGrant r) s = if (ticketAt u cl tile).s = k then .next (u.grantTile cl tile) else .next u := by
  change execTkwaitGrant r s = _
  refine (asHart_of_is h _).trans ?_
  rw [hw]

theorem tkwaitGrant_other (h : Is s u r) (hw : ∀ tile k cl, u.hart.wait ≠ .ticket tile k cl) : exec (.tkwaitGrant r) s = .next u := by
  change execTkwaitGrant r s = _
  refine (asHart_of_is h _).trans ?_
  generalize u.hart.wait = w at hw ⊢
  cases w with
  | ticket a b c => exact absurd rfl (hw a b c)
  | _ => rfl

theorem ticket_granted (h : Is s u r) {tile : BitVec 20} {k : BitVec 32} {cl : BitVec 5} (hw : u.hart.wait = .ticket tile k cl)
    (hk : (ticketAt u cl tile).s = k) : ∃ t, exec (.tkwaitGrant r) s = .next t
      ∧ GoesOn { u with tickets := t.tickets, hart := { u.hart with held := t.hart.held } } t (u.hart.pc + 4)
      ∧ (∀ x, x ∈ t.hart.held ↔ x = tile ∨ x ∈ u.hart.held)
      ∧ ticketAt t cl tile = { ticketAt u cl tile with holder := some (u.hart.gang, u.hart.rank) } := by
  obtain ⟨hg, hheld, hat, -, -⟩ := grantTile_at u cl tile
  exact ⟨_, (tkwaitGrant_eq h hw).trans (if_pos hk), hg, hheld, hat⟩

theorem hwaitWake_eq (h : Is s u r) {a : Option Word} {expect start : Word} {rd : Reg} (hw : u.hart.wait = .hwait a expect rd start)
    {v : State} {res : Option Word} (hl : hwaitLook u a expect start = .ok res v) : exec (.hwaitWake r) s = v.putX rd (res.getD 2) := by
  change execHwaitWake r s = _
  refine (asHart_of_is h _).trans ?_
  rw [hw]
  dsimp only
  rw [hl]
  rfl

/-- What an HWAIT that is woken answers. -/
theorem hwaitAnswer_getD (v : State) (n : Option Nat) (expect start : Word) : (hwaitAnswer v n expect start).getD 2 =
    if n.any (fun n => n ≠ expect.toNat) then 0 else if v.hart.interruptible then 1 else 2 := by
  unfold hwaitAnswer
  split
  · rfl
  · split
    · rfl
    · split
      · rfl
      · rfl

theorem hwait_woken (h : Is s u r) {a : Option Word} {expect start : Word} {rd : Reg} (hw : u.hart.wait = .hwait a expect rd start)
    {v : State} {n : Option Nat} (hl : hwaitLook u a expect start = .ok (hwaitAnswer v n expect start) v) :
    ∃ t, exec (.hwaitWake r) s = .next t
      ∧ WritesOnly v t rd (if n.any (fun n => n ≠ expect.toNat) then 0 else if v.hart.interruptible then 1 else 2) (v.hart.pc + 4) := by
  rw [hwaitWake_eq h hw hl, hwaitAnswer_getD]
  exact putX_spec ..

theorem hwaitWake_other (h : Is s u r) (hw : ∀ a expect rd start, u.hart.wait ≠ .hwait a expect rd start) : exec (.hwaitWake r) s = .next u := by
  change execHwaitWake r s = _
  refine (asHart_of_is h _).trans ?_
  generalize u.hart.wait = w at hw ⊢
  cases w with
  | hwait a b c d => exact absurd rfl (hw a b c d)
  | _ => rfl

end

theorem waitsEnd : WaitsEnd := by
  intro s r
  refine ⟨fun h => ?_, fun rd v => stv_replied, stv_not_replied, fun u h => ⟨fun scope rd report start hw => ⟨fun he => ⟨?_, ?_⟩, fun hr he => ?_, fun hr => ?_,
    fun hr he => ⟨?_, ?_⟩, fun hr h5 _ hy p hp hf => ?_⟩, fun hw => ⟨fun he => ?_, fun he => ?_⟩, fun hw => ⟨?_, fenceWaitEnd_other h hw⟩,
    fun t hw => ⟨fun ht => ?_, fun ht => ?_⟩, viswaitEnd_other h, fun tile k cl hw => ⟨ticket_granted h hw, fun hk => ?_⟩, tkwaitGrant_other h,
    fun expect rd start hw => ?_, fun a expect rd start b v hw hl => ?_, hwaitWake_other h⟩⟩
  · exact forall_mem_cons (asHart_none h _ : execFenceWaitEnd r s = _) (forall_mem_cons (asHart_none h _ : execSystemFenceTimeout r s = _)
      (forall_mem_cons (asHart_none h _ : execViswaitEnd r s = _) (forall_mem_cons (asHart_none h _ : execTkwaitGrant r s = _)
        (forall_mem_cons (asHart_none h _ : execHwaitWake r s = _) (List.forall_mem_nil _)))))
  · exact (fenceWaitEnd_eq h hw).trans (if_neg (not_not.2 he))
  · refine systemFenceTimeout_quiet h hw (.inr fun p e => ?_)
    exact nomatch he.symm.trans e
  · subst hr
    exact (fenceWaitEnd_eq h hw).trans (if_pos he)
  · exact systemFenceTimeout_quiet h hw (.inl hr)
  · refine systemFenceTimeout_quiet h hw (.inr fun p e => ?_)
    exact nomatch he.symm.trans e
  · subst hr
    exact fenceWaitEnd_complete h hw he
  · subst hr h5
    exact fence_reports_linkDown h hw hy hp hf
  · exact (fenceI_eq h hw).trans (if_pos he)
  · exact (fenceI_eq h hw).trans (if_neg (Bool.eq_false_iff.1 he))
  · exact systemFenceTimeout_other h (hw 5)
  · exact (viswaitEnd_eq h hw).trans (if_pos ht)
  · exact (viswaitEnd_eq h hw).trans (if_neg (Nat.not_le.2 ht))
  · exact (tkwaitGrant_eq h hw).trans (if_neg hk)
  · exact hwait_woken h hw (n := none) (hwaitLook_none u expect start)
  · obtain ⟨t, ht, hwr⟩ := hwait_woken h hw (hwaitLook_some hl)
    simp only [Option.any_some, decide_eq_true_eq] at hwr
    exact ⟨t, ht, hwr⟩

/-! ### User interrupts -/

/-- The earlier of two ended transfers, as `Hart.nextOwed` takes it. -/
noncomputable def earlier (b : Option Xfer) (x : Xfer) : Option Xfer :=
  match b with
  | none => some x
  | some y => if x.order < y.order then some x else some y

/-- A fold for the earliest finds the one that is before all others. -/
theorem foldl_earlier {x : Xfer} (l : List Xfer) (b : Option Xfer) (hl : ∀ y ∈ l, y ≠ x → x.order < y.order)
    (hb : b = some x ∨ x ∈ l ∧ ∀ y, b = some y → x.order < y.order) : l.foldl earlier b = some x := by
  induction l generalizing b with
  | nil => exact hb.elim id fun h => absurd h.1 List.not_mem_nil
  | cons z l ih =>
    have hz := hl z List.mem_cons_self
    refine ih _ (fun y hy => hl y (List.mem_cons_of_mem _ hy)) ?_
    obtain rfl | ⟨hx, hb⟩ := hb
    · refine .inl (if_neg fun hlt => ?_)
      by_cases hzx : z = x
      · exact absurd (hzx ▸ hlt) (Nat.lt_irrefl _)
      · exact absurd (hz hzx) (Nat.lt_asymm hlt)
    · by_cases hzx : z = x
      · subst hzx
        cases b with
        | none => exact .inl rfl
        | some y => exact .inl (if_pos (hb y rfl))
      · refine .inr ⟨(List.mem_cons.1 hx).resolve_left (Ne.symm hzx), fun y hy => ?_⟩
        cases b with
        | none => exact Option.some.inj hy ▸ hz hzx
        | some w =>
          obtain ⟨-, e⟩ | ⟨-, e⟩ := ite_eq_iff.1 hy
          · exact Option.some.inj e ▸ hz hzx
          · exact Option.some.inj e ▸ hb w rfl

theorem mem_owed {h : Hart} {x : Xfer} : x ∈ h.owed ↔ x ∈ h.xfers ∧ x.irq = true ∧ x.state ≠ .running := by
  unfold Hart.owed
  rw [List.mem_filter, decide_eq_true_iff]

theorem interruptible_iff {h : Hart} : h.interruptible = true ↔ h.sup = false ∧ h.uieIe = true ∧ h.owed ≠ [] := by
  unfold Hart.interruptible
  rw [Bool.and_eq_true, Bool.and_eq_true, Bool.not_eq_true', Bool.not_eq_true', List.isEmpty_eq_false_iff, and_assoc]

theorem event_eq (x : Xfer) : x.event = if x.sort then (if x.state = .done then 3 else 4) else if x.state = .done then 1 else 2 := by
  unfold Xfer.event
  cases x.sort
  · cases x.state <;> rfl
  · cases x.state <;> rfl

theorem nextOwed_eq {h : Hart} {x : Xfer} (hx : x ∈ h.owed) (hm : ∀ y ∈ h.owed, y ≠ x → x.order < y.order) : h.nextOwed = some x :=
  foldl_earlier h.owed none hm (.inr ⟨hx, fun _ e => nomatch e⟩)

theorem interrupt_eq {h : Hart} {x : Xfer} (hx : h.nextOwed = some x) (hi : h.uieIe = true) : h.interrupt = { h with
    uepc := h.pc.setWidth 48
    ucause := if x.sort then (if x.state = .done then 3 else 4) else if x.state = .done then 1 else 2
    xtid := x.id, xhandler := x.handler, xstat := BitVec.ofNat 64 x.status, xfers := h.xfers.erase x, uiePie := true, uieIe := false
    pc := x.handler.setWidth 64, wait := .none, replies := [], relStart := none, lookups := [] } := by
  have hpc : field h.pc 0 48 = h.pc.setWidth 48 := BitVec.eq_of_toNat_eq rfl
  unfold Hart.interrupt
  rw [hx]
  dsimp only
  rw [hi, event_eq, hpc]

theorem userInterrupt_waits {s u : State} {r : HartRef} (h : Is s u r) (hn : u.hart.sup = true ∨ u.hart.uieIe = false
    ∨ (∀ x, ¬ (x ∈ u.hart.xfers ∧ x.irq = true ∧ x.state ≠ .running)) ∨ u.hart.disp ≠ [] ∨ u.hart.wait ≠ .none ∨ u.hart.replies ≠ []) :
    exec (.userInterruptEntry r) s = .next u := by
  change execUserInterruptEntry r s = _
  refine (asHart_of_is h _).trans (if_neg fun k => ?_)
  obtain ⟨hi, hd, hw, hr⟩ := k
  obtain ⟨hs, he, ho⟩ := interruptible_iff.1 hi
  obtain hn | hn | hn | hn | hn | hn := hn
  · exact Bool.false_ne_true (hs.symm.trans hn)
  · exact Bool.false_ne_true (hn.symm.trans he)
  · exact ho (List.eq_nil_iff_forall_not_mem.2 fun x hx => hn x (mem_owed.1 hx))
  · exact hn (List.isEmpty_iff.1 hd)
  · exact hn hw
  · exact hn (List.isEmpty_iff.1 hr)

theorem userInterrupt_taken {s u : State} {r : HartRef} (h : Is s u r) (hs : u.hart.sup = false) (hi : u.hart.uieIe = true) (hd : u.hart.disp = [])
    (hw : u.hart.wait = .none) (hr : u.hart.replies = []) {x : Xfer} (hx : x ∈ u.hart.owed) :
    ∃ t, exec (.userInterruptEntry r) s = .next t ∧ OnlyHart u t ∧ t.hart = u.hart.interrupt := by
  change ∃ t, execUserInterruptEntry r s = .next t ∧ _
  refine ⟨(u.count 0x12 1).withHart Hart.interrupt, (asHart_of_is h _).trans (if_pos ⟨interruptible_iff.2 ⟨hs, hi, List.ne_nil_of_mem hx⟩, ?_, hw, ?_⟩),
    onlyHart_trans (onlyHart_count ..) (onlyHart_withHart ..), congrArg Hart.interrupt (State.count_hart ..)⟩
  · rw [hd]; rfl
  · rw [hr]; rfl

/-! ### The record of a strip -/

theorem stripBytes_eq (d : StripDue) (cycles coins arith mem : Nat) : stripBytes d (cycles, coins, arith, mem) =
    leBytes 8 (d.pc.toNat % 2 ^ 48) ++ leBytes 8 (d.vrows * 2 ^ 34 + d.vcols * 2 ^ 17 + d.vl)
      ++ leBytes 8 (min cycles (2 ^ 32 - 1) * 2 ^ 32 + min coins (2 ^ 32 - 1)) ++ leBytes 8 (min arith (2 ^ 32 - 1) * 2 ^ 32 + min mem (2 ^ 32 - 1)) := by
  unfold stripBytes wfield nfield
  simp only [Nat.shiftLeft_eq, Nat.shiftRight_zero]

theorem stripBytes_length (d : StripDue) (c : Nat × Nat × Nat × Nat) : (stripBytes d c).length = 32 := by
  obtain ⟨cycles, coins, arith, mem⟩ := c
  rw [stripBytes_eq]
  simp only [List.length_append, leBytes_length]

/-- A hart whose oldest strip's record is stored; the pages its instruction has looked up are those of before. -/
noncomputable def recorded (rest : List StripDue) (lookups : List TlbEntry) (h : Hart) : Hart :=
  { h with stripDue := rest, srhead := h.srhead + 1, lookups := lookups }

/-- What closing a strip does when its store ends so. -/
noncomputable def stripClosed (u : State) (rest : List StripDue) (r : Res (Option Nat)) : Out :=
  match r with
  | .ok _ t => .next (t.withHart (recorded rest u.hart.lookups))
  | .trap _ _ => .next (u.withHart (fun h => { h with stripDue := rest, srFlt := true, srEn := false }))
  | .need _ => .next u

section
variable {s u : State} {r : HartRef} {d : StripDue} {rest : List StripDue}

theorem stripClose_idle (h : Is s u r) (hd : u.hart.stripDue = []) : exec (.stripClose r) s = .next u := by
  change execStripClose r s = _
  refine (asHart_of_is h _).trans ?_
  rw [hd]

theorem stripClose_early (h : Is s u r) (hd : u.hart.stripDue = d :: rest) (hc : d.counts = none) : exec (.stripClose r) s = .next u := by
  change execStripClose r s = _
  refine (asHart_of_is h _).trans ?_
  rw [hd]
  dsimp only
  rw [hc]

variable {c : Nat × Nat × Nat × Nat}

theorem stripClose_eq (h : Is s u r) (hd : u.hart.stripDue = d :: rest) (hc : d.counts = some c) :
    exec (.stripClose r) s = stripClosed u rest (stripStore u (stripSlot u.hart) (stripBytes d c)) := by
  change execStripClose r s = _
  refine (asHart_of_is h _).trans ?_
  rw [hd]
  dsimp only
  rw [hc]
  dsimp only
  generalize stripStore u (stripSlot u.hart) (stripBytes d c) = res
  cases res
  · rfl
  · rfl
  · rfl

theorem stripStore_fault {a : Word} {data : List Byte} {e : BitVec 8} {v : State} (hr : resolve u u.hart.who a .store = (.error e, v)) :
    stripStore u a data = .trap e a := by
  unfold stripStore
  rw [hr]

theorem stripStore_eq {a : Word} {data : List Byte} {p : Place} {v : State} (hr : resolve u u.hart.who a .store = (.ok p, v)) :
    stripStore u a data = if transfersMet v a.toNat data.length true ≠ [] then .need (.wait .transfer) else writePlace v a p data := by
  unfold stripStore
  rw [hr]

theorem stored_hart (v : State) (pa n : Nat) (mine : LinkEntry → Bool) (data : List Byte) : (stored v pa n mine data).hart = v.hart := rfl

theorem hart_closed {h k : Hart} {n : Nat} (e : k = { h with lookups := k.lookups }) :
    recorded rest h.lookups (k.visible n) = { h with stripDue := rest, srhead := h.srhead + 1, vispend := BitVec.ofNat 64 (max h.vispend.toNat n) } := by
  generalize k.lookups = l at e
  subst e
  rfl

theorem strip_stored (h : Is s u r) (hd : u.hart.stripDue = d :: rest) (hc : d.counts = some c) {pa : Nat} {cls : BitVec 2} {da : Bool} {v : State}
    (hr : resolve u u.hart.who (stripSlot u.hart) .store = (.ok (.phys pa cls da), v)) (hm : transfersMet v (stripSlot u.hart).toNat 32 true = [])
    (hcls : cls ≠ 1) (hwf : Memory.wf u.mem = true) :
    ∃ t, exec (.stripClose r) s = .next t ∧ OnlyPuts u t ∧ Stores u t pa (stripBytes d c)
      ∧ t.hart = { u.hart with stripDue := rest, srhead := u.hart.srhead + 1, vispend := BitVec.ofNat 64 (max u.hart.vispend.toNat u.pkg.dtime.toNat) } := by
  have ht := resolve_spec hr
  obtain ⟨w, mine, hw, he⟩ := writePlace_phys (s := v) (va := stripSlot u.hart) (pa := pa) (da := da) (data := stripBytes d c) hcls
  have huw := onlyTranslates_trans ht hw
  have hs := (stripStore_eq (data := stripBytes d c) hr).trans ((if_neg (not_not.2 (by rw [stripBytes_length]; exact hm))).trans he)
  have hputs := onlyPuts_stored huw pa (stripBytes d c).length mine (stripBytes d c)
  have hstores := stores_stored huw hwf pa (stripBytes d c).length mine (stripBytes d c)
  have hy : (stored w pa (stripBytes d c).length mine (stripBytes d c)).hart = w.hart := stored_hart ..
  generalize stored w pa (stripBytes d c).length mine (stripBytes d c) = y at hs hputs hstores hy
  have hk := onlyHart_trans (onlyHart_withHart y (fun h => h.visible v.pkg.dtime.toNat)) (onlyHart_withHart _ (recorded rest u.hart.lookups))
  have hh : recorded rest u.hart.lookups (y.hart.visible v.pkg.dtime.toNat) = _ := hy ▸ hart_closed huw.2
  exact ⟨_, (stripClose_eq h hd hc).trans (congrArg (stripClosed u rest) hs), onlyPuts_of_onlyHart hputs hk, stores_of_mem hstores (mem_of_onlyHart hk),
    hh.trans (by rw [dtime_of_translates ht])⟩

end

theorem interruptsAndStripsComplete : InterruptsAndStripsComplete := by
  intro s r
  refine ⟨fun h => ⟨(asHart_none h _ : execUserInterruptEntry r s = _), (asHart_none h _ : execStripClose r s = _)⟩, fun u h => ?_⟩
  intro k owed
  refine ⟨userInterrupt_waits h, fun hs hi hd hw hr x hx hm => ?_, stripClose_idle h, fun d rest hd => ⟨stripClose_early h hd, fun cycles coins arith mem hc => ?_⟩⟩
  · obtain ⟨t, ht, ho, hh⟩ := userInterrupt_taken h hs hi hd hw hr (mem_owed.2 hx)
    exact ⟨t, ht, ho, hh.trans (interrupt_eq (nextOwed_eq (mem_owed.2 hx) fun y hy => hm y (mem_owed.1 hy)) hi)⟩
  · intro a top
    refine ⟨fun c v hr => ?_, fun p v hr hm => ?_, fun pa cls da v hr hm hcls hwf => ?_⟩
    · exact (stripClose_eq h hd hc).trans (congrArg (stripClosed u rest) (stripStore_fault hr))
    · refine (stripClose_eq h hd hc).trans (congrArg (stripClosed u rest) ((stripStore_eq hr).trans (if_pos ?_)))
      rw [stripBytes_length]
      exact hm
    · rw [← stripBytes_eq]
      exact strip_stored h hd hc hr hm hcls hwf

/-- Settles O52. -/
theorem waitsAndInterruptsEnd : Obligations.WaitsAndInterruptsEnd := ⟨waitsEnd, interruptsAndStripsComplete⟩

end Sys2Proof.ScalarProofs
end

section
/-!
REFUTATION. Host insertions (03 R66 to R70, 05 R119): an insertion that joins its queue is an operation on QSTORE, which a die counts as uncore event 8
(10 R276); the statement lets only queues differ.
-/
namespace Sys2Proof.LinkProofs
open Sys2Proof Sys2Proof.Machine Sys2Proof.Claims

/-- An empty queue of context 0 with room for 16 records. -/
noncomputable def emptyQueue : Queue :=
  { ctx := 0, weight := 0, pri := 0, policy := 0, keyed := false, binned := false, opn := false, cap := 0, aff := 0, hwm := 16, recs := [] }

/-- A machine after reset whose die 0 counts operations on QSTORE, with queue 0 of the running context 0. -/
noncomputable def countingDie : State :=
  { State.reset with
    queues := [(0, emptyQueue)]
    ctxs := [(0, { Ctx.empty with state := .running })]
    dies := [(0, { Die.empty with uncore := [(0, { sel := 0x8000000000000008, count := 0, shadow := 0 })] })] }

/-- The record of a task with one rank and no demands. -/
noncomputable def plainRecord : TaskRec := { w0 := 0, w1 := 0, w2 := 0, w3 := 0, w4 := 0, w5 := 0, w6 := 0, w7 := 0 }

/-- The packet that inserts it into queue 0, from the bridge. -/
noncomputable def insertion : Packet :=
  { dst := 0xFFF, src := 0xFFF, cls := 2, op := 0, tag := 0, len := 1, ctx := 0, hops := 15, chan := 2, body := 0x100000000 :: wordsOf plainRecord, port := 0 }

/-- An operation on QSTORE that a die counts takes a free value: the die it is counted at (10 R276, log 1). -/
theorem append_freshCount {s : State} (h : s.dies.any (fun d => d.2.counts 8) = true) (q : BitVec 16) (r : QRec) :
    (s.append q r).freshCount = s.freshCount + 1 := by
  have hq : s.qstore = _ := if_pos h
  unfold State.append
  rw [State.modQueue_freshCount, hq, State.uncount_freshCount]
  rfl

theorem insertion_accepted : exec (.queueInsertionArrival insertion) countingDie = .next (countingDie.append 0 (qrec plainRecord none 0 0)) := by
  have hm : insertMeets countingDie 0 plainRecord = (0, countingDie.append 0 (qrec plainRecord none 0 0)) := rfl
  change execQueueInsertionArrival insertion countingDie = _
  unfold execQueueInsertionArrival
  rw [if_neg (by decide), if_neg (by decide)]
  exact congrArg (fun m : Nat × State => if m.1 = 0 then Host.Outcome.next m.2 else _) hm

/-- Refutes O41: where a die counts operations on QSTORE, accepting an insertion changes its count and takes a free value. -/
theorem not_hostTrafficCompletes : ¬ Obligations.HostTrafficCompletes := by
  intro ⟨_, h⟩
  have arrival := (h countingDie).2.2.2.2.2.2.1 insertion plainRecord (by decide) rfl rfl
  obtain ⟨t, r, ht, hq, -⟩ := (arrival.2 emptyQueue rfl (.inl rfl)).1 (by decide) (by decide)
  have counted : t.freshCount = 1 := Host.Outcome.next.inj (insertion_accepted.symm.trans ht) ▸ append_freshCount (s := countingDie) (by decide) 0 _
  have kept : t.freshCount = 0 := (congrArg State.freshCount hq :)
  exact absurd (counted.symm.trans kept) (by decide)

end Sys2Proof.LinkProofs
end

section
/-!
REFUTATIONS. Copies of lines that leave a core's cache (07 R173, R177; 08 R198, R202). The statements about them hold of every table of directory
entries, and one that lists a line twice can give a core a copy that its first entry does not have: dropping that copy takes the first entry away, and
the second one comes to light.
-/
namespace Sys2Proof.LineProofs
open Sys2Proof Sys2Proof.Machine Sys2Proof.Claims

/-! ### A line that is listed twice -/

/-- A line of which core 0 holds a clean copy. -/
noncomputable def sharedLine : DirLine :=
  { state := .S, seq := 0, copies := [{ core := 0, written := 0, mask := 0, held := true }], tenures := [], pending := [] }

/-- A machine after reset whose directory lists line 64 as held by no core, and `k` times more as held by core 0; the banks of core 0 from `n` on are
in mode S. -/
noncomputable def hiddenCopies (n k : Nat) : State :=
  { State.reset with
    dir := (64, DirLine.empty) :: List.replicate k (64, sharedLine)
    banks := (List.range' n (16 - n)).map (fun i => (i, { Bank.reset i with mode := .S })) }

/-- The copy of line 64 that core 0 holds, as its cache lists it. -/
noncomputable def hiddenCopy : Nat × Bool := (64, true)

/-- Whichever copy the free value picks, it is the one that all of them are (07 R173; log 1). -/
theorem makeRoom_replicate {s : State} {core : BitVec 8} {line k : Nat} {v : Nat × Bool}
    (full : cWays s core < (coreLines s core (line % 64)).length)
    (same : (coreLines s core (line % 64)).filter (fun w => w.1 ≠ line) = List.replicate (k + 1) v) :
    s.makeRoom core line = { s with freshCount := s.freshCount + 1 }.dropCopy core v := by
  have pick (i : Nat) : (List.replicate (k + 1) v)[i % (List.replicate (k + 1) v).length]? = some v := by
    rw [List.getElem?_replicate, List.length_replicate]
    exact if_pos (Nat.mod_lt _ (Nat.succ_pos k))
  unfold State.makeRoom
  dsimp only
  rw [if_neg (Nat.not_le.2 full), same, pick]
  rfl

/-- The one copy of a core leaves with the last bank of its cache, whatever the free value says (07 R177; log 1). -/
theorem leaveC_single {s : State} {core : BitVec 8} {v : Nat × Bool} (all : (List.range 64).flatMap (coreLines s core) = [v])
    (full : cWays s core < (coreLines s core (v.1 % 64)).length) : s.leaveC core = { s with freshCount := s.freshCount + 1 }.dropCopy core v := by
  unfold State.leaveC
  rw [all]
  exact if_pos (.inr full)

/-- No dropping of copies makes an entry that lists none one that lists a copy. -/
theorem not_dropsCopies {s t : State} {core : BitVec 8} (hs : dirOf s 64 = DirLine.empty) (ht : dirOf t 64 = sharedLine) : ¬ DropsCopies s t core := by
  rintro ⟨-, h, -⟩
  have none_left : DirLine.empty.evictCopy core = DirLine.empty := rfl
  have h64 := h 64
  rw [hs, ht, none_left, or_self] at h64
  exact absurd (congrArg DirLine.copies h64) (List.cons_ne_nil _ _)

/-! ### A fill -/

theorem fill_drops_hidden : exec (.lineFill 0 0 0) (hiddenCopies 0 1) = .next ({ hiddenCopies 0 1 with freshCount := 1 }.dropCopy 0 hiddenCopy) :=
  congrArg Host.Outcome.next (makeRoom_replicate (s := hiddenCopies 0 1) (k := 0) (by decide +kernel) (by decide +kernel))

/-- Refutes O49: a fill makes room by dropping a copy of a line that the directory lists twice. -/
theorem not_linesChangeHands : ¬ Obligations.LinesChangeHands := by
  intro h
  have filled := ((h (hiddenCopies 0 1)).2.1 0 0 0).2.2.1 (List.forall_mem_nil _)
  obtain ⟨t, ht, drops, -⟩ := filled
  have dropped := Host.Outcome.next.inj (fill_drops_hidden.symm.trans ht)
  exact not_dropsCopies rfl (dropped ▸ by decide +kernel) drops

/-! ### The end of a TOS -/

/-- A TOS of bank 0, given by the host. -/
noncomputable def tosCommand : BankCmd := { host := true, cl := 0, ref := { core := 0, slot := 0 }, val := 0x0000FFFF20000000 }

/-- Cluster 0 is at work on the TOS. -/
noncomputable def tosInProgress : State := { hiddenCopies 1 1 with clusters := [(0, { Cluster.empty with bankCmd := [tosCommand] })] }

/-- Bank 0 is a pool bank, as the TOS leaves it. -/
noncomputable def tosPut : State := tosInProgress.setBank 0 { Bank.reset 0 with mode := .S }

theorem tosComplete_dir {t : State} (ht : exec (.tosComplete 0) tosInProgress = .next t) : t.dir = (tosPut.leaveC 0).dir := by
  have hx : exec (.tosComplete 0) tosInProgress = .next (((tosInProgress.bkRun tosCommand).modCluster 0 (fun c => { c with bankCmd := [] })).bkDrain []) := rfl
  rw [← Host.Outcome.next.inj (hx.symm.trans ht)]
  rfl

/-- Refutes O47: the last bank of a core's cache leaves it while the directory lists a line of the core twice. -/
theorem not_bankCommandsComplete : ¬ Obligations.BankCommandsComplete := by
  intro h
  obtain ⟨u, t, ht, drops, ⟨same, -⟩, -⟩ := ((h tosInProgress (.host 0) (fun e => nomatch e)).2.2.2.2 0 tosCommand 0 rfl rfl rfl rfl (by decide)
    ⟨by decide, .inl ⟨by decide, by decide, by decide⟩⟩).1 (by decide +kernel)
  have kept : t.dir = u.dir := (congrArg State.dir same :)
  have dropped := leaveC_single (s := tosPut) (core := 0) (v := hiddenCopy) (by decide +kernel) (by decide +kernel)
  have shown : u.dir = [(64, sharedLine)] := by
    rw [← kept, tosComplete_dir ht, dropped]
    decide +kernel
  have held : dirOf u 64 = sharedLine := congrArg (tgetD · 64 DirLine.empty) shown
  exact not_dropsCopies rfl held drops

/-! ### The answer to a lease -/

/-- A read of line 0 of another device, made for a lease by the hart in slot 0 of core 0. -/
noncomputable def leaseRequest : Request := { tag := 0, dst := 1, port := 0, since := 100, waiter := .hart { core := 0, slot := 0 }, lease := some 0 }

/-- Its answer: a status of 0, no time beyond the request's, and 128 bytes. -/
noncomputable def leaseAnswer : Packet :=
  { dst := 0xFFF, src := 1, cls := 0, op := 1, tag := 0, len := 2, ctx := 0, hops := 15, chan := 1, body := List.replicate 17 0, port := 0 }

/-- The machine that waits for the answer. -/
noncomputable def leaseAsked : State := { hiddenCopies 1 4 with fab := { Fabric.reset with reqs := [leaseRequest] } }

/-- The core has the line; room for it has still to be made. -/
noncomputable def leaseTaken : State := (leaseAsked.dropReq leaseRequest).putCopy false 0 { core := 0, expiry := 100, data := leNat (pdata leaseAnswer) }

theorem modHart_dir (s : State) (r : HartRef) (f : Hart → Hart) : (s.modHart r f).dir = s.dir := by
  unfold State.modHart
  split
  · rfl
  · rfl

theorem replied_dir (s : State) (rest : List Request) (ref : HartRef) (q : Reply) : (Replied s rest ref q).dir = s.dir := modHart_dir ..

theorem keepLease_some {s : State} {r : Request} {core : BitVec 8} {d l : Nat} {data : List Byte} (hl : r.lease = some l)
    (hit : s.pkg.dtime.toNat + 8 < r.since + d ∧ data.length = 128 ∧ 0 < cWays s core) :
    s.keepLease r core d data = (s.putCopy false l { core := core, expiry := r.since + d, data := leNat data }).makeRoom core l := by
  unfold State.keepLease
  rw [hl]
  exact if_pos hit

theorem memoryReadData_dir {s t : State} {p : Packet} {r : Request} {ref : HartRef} (hr : s.answered p = some r) (hw : r.waiter = .hart ref)
    (hs : pstatus p = 0) (ht : exec (.memoryReadData p) s = .next t) :
    t.dir = ((s.dropReq r).keepLease r ref.core (wfield (pword p 0) 0 17) (pdata p)).dir := by
  have hx : exec (.memoryReadData p) s = .next (s.finishBy p (pstatus p) (pdata p) (wfield (pword p 0) 0 17)) := rfl
  rw [← Host.Outcome.next.inj (hx.symm.trans ht), hs]
  unfold State.finishBy
  rw [hr]
  unfold State.finishReq
  dsimp only
  rw [hw]
  exact modHart_dir ..

theorem leaseAnswer_dir {t : State} (ht : exec (.memoryReadData leaseAnswer) leaseAsked = .next t) : t.dir = List.replicate 4 (64, sharedLine) := by
  have kept : _ = leaseTaken.makeRoom 0 0 := keepLease_some (s := leaseAsked.dropReq leaseRequest) (r := leaseRequest) (core := 0) (d := 0)
    (data := pdata leaseAnswer) rfl (by decide +kernel)
  have dropped : leaseTaken.makeRoom 0 0 = _ := makeRoom_replicate (k := 3) (v := hiddenCopy) (by decide +kernel) (by decide +kernel)
  refine (memoryReadData_dir (r := leaseRequest) (ref := { core := 0, slot := 0 }) (by decide +kernel) rfl (by decide +kernel) ht).trans ?_
  have h0 : wfield (pword leaseAnswer 0) 0 17 = 0 := by decide +kernel
  rw [h0, kept, dropped]
  decide +kernel

/-- Refutes O51: a leased line takes a place in the cache of a core that has more copies of a line than the directory's first entry lists. -/
theorem not_remoteRequestsComplete : ¬ Obligations.RemoteRequestsComplete := by
  intro ⟨h, _⟩
  have answered := (h leaseAsked).2.2.1 leaseAnswer leaseRequest [] { core := 0, slot := 0 } ⟨[], [], rfl, rfl, ⟨rfl, rfl⟩, List.forall_mem_nil _⟩ rfl
  obtain ⟨v, drops, -, ht⟩ := (answered.2.2 0 rfl (by decide +kernel) (by decide +kernel)).2 (by decide +kernel) (by decide +kernel)
  have shown : v.dir = List.replicate 4 (64, sharedLine) := (replied_dir ..).symm.trans (leaseAnswer_dir ht)
  have held : dirOf v 64 = sharedLine := congrArg (tgetD · 64 DirLine.empty) shown
  exact not_dropsCopies rfl held drops

end Sys2Proof.LineProofs
end

section
/-!
PROOFS. Barriers, pre-emption, saving, purses and rebinding (05 R129, R134, R136; 06 R155; 10 R260 to R265).
-/
namespace Sys2Proof.GangProofs
open Sys2Proof Sys2Proof.Machine Sys2Proof.Claims Sys2Proof.ScalarProofs Sys2Proof.AccessProofs

/-! ### The barrier -/

theorem gbarComplete_none {s : State} {g : BitVec 16} (h : tget s.gangs g.toNat = none) : exec (.gbarComplete g) s = .next s := by
  change execGbarComplete g s = _
  unfold execGbarComplete
  rw [h]

theorem ranksOf_eq (g : Gang) : ranksOf g = allRanks g := by
  unfold ranksOf allRanks gszOf
  exact congrArg (fun n => BitVec.ofNat 64 (2 ^ (n + 1) - 1)) (wfield_div ..)

theorem gbarComplete_some {s : State} {g : BitVec 16} {x : Gang} (h : tget s.gangs g.toNat = some x) :
    exec (.gbarComplete g) s = if x.barArr = allRanks x ∧ x.ended = 0 ∧ x.savedRanks = 0 then .next (s.passBarrier g) else .next s := by
  change execGbarComplete g s = _
  unfold execGbarComplete
  rw [h, ← ranksOf_eq]

theorem allHarts_mapHarts (s : State) {f : Hart → Hart} (hf : ∀ h, (f h).live = h.live) : (s.mapHarts f).allHarts = s.allHarts.map f := by
  unfold State.mapHarts State.allHarts
  cases hl : s.hart.live
  · exact if_neg (ne_true_of_eq_false hl)
  · exact if_pos ((hf _).trans hl)

theorem passes_live (id : BitVec 16) (h : Hart) : (passes id h).live = h.live := iteInduction (motive := fun k : Hart => k.live = h.live) (fun _ => rfl) fun _ => rfl

theorem passBarrier_passes {s : State} {g : BitVec 16} {x : Gang} (h : tget s.gangs g.toNat = some x) :
    s.passBarrier g = { s with gangs := (s.passBarrier g).gangs, hart := (s.passBarrier g).hart, harts := (s.passBarrier g).harts, cores := (s.passBarrier g).cores }
      ∧ OnlyCounts s (s.passBarrier g)
      ∧ (∀ k, tget (s.passBarrier g).gangs k = if k = g.toNat then some { x with barGen := x.barGen + 1, barArr := 0 } else tget s.gangs k)
      ∧ (s.passBarrier g).allHarts = s.allHarts.map (passes g) := by
  obtain ⟨ht, hc⟩ := passBarrier_spec h
  generalize s.passBarrier g = t at ht hc
  rw [ht]
  exact ⟨rfl, hc, fun k => tget_tset .., allHarts_mapHarts { s with gangs := _ } (passes_live g)⟩

/-! ### Pre-emption -/

theorem mem_put {before : Nat × Gang → Nat × Gang → Bool} {a p : Nat × Gang} {l : List (Nat × Gang)} (h : p ∈ victims.put before a l) :
    p = a ∨ p ∈ l := by
  induction l with
  | nil => exact .inl (List.mem_singleton.1 h)
  | cons b l ih =>
    unfold victims.put at h
    split at h
    · exact List.mem_cons.1 h
    · exact (List.mem_cons.1 h).elim (fun e => .inr (e ▸ List.mem_cons_self)) fun k => (ih k).imp_right (List.mem_cons_of_mem b)

/-- A gang that may be saved for a head of priority `prio`. -/
theorem mem_victims {s : State} {cl : BitVec 5} {prio : Nat} {p : Nat × Gang} (h : p ∈ victims s cl prio) :
    p ∈ s.gangs ∧ p.2.cluster = cl ∧ p.2.saved = false ∧ p.2.prio.toNat < prio ∧ p.2.policy ≠ 0 ∧ p.2.frame.isSome = true := by
  have hf : ∀ (vs : List (Nat × Gang)) (b : Nat × Gang → Nat × Gang → Bool), p ∈ vs.foldr (victims.put b) [] → p ∈ vs := by
    intro vs b hp
    induction vs with
    | nil => exact hp
    | cons v vs ih => exact List.mem_cons.2 ((mem_put hp).imp_right ih)
  obtain ⟨hm, hp⟩ := List.mem_filter.1 (hf _ _ h)
  simp only [Bool.and_eq_true, decide_eq_true_eq, Bool.not_eq_true'] at hp
  obtain ⟨⟨⟨⟨hc, hs⟩, hl⟩, hq⟩, hi⟩ := hp
  exact ⟨hm, hc, hs, hl, hq, hi⟩

theorem headId_eq (c : Cand) : headId c = c.head.id := by
  obtain ⟨key, prio, weight, head⟩ := c
  cases head <;> rfl

theorem preemptable_spec {s : State} {cl : BitVec 5} {gs : List (Nat × Gang)} (h : preemptable s cl = some gs) :
    ∃ c ring r, winner s cl = some (c, ring) ∧ (s.cluster cl).reserved = some r ∧ r.key = c.key ∧ r.head = headId c
      ∧ r.since + 20000 ≤ s.pkg.dtime.toNat ∧ roomFor s cl c.head = false ∧ roomFor (withoutGangs s gs) cl c.head = true
      ∧ ∀ p ∈ gs, p ∈ s.gangs ∧ p.2.cluster = cl ∧ p.2.saved = false ∧ p.2.prio.toNat < c.prio ∧ p.2.policy ≠ 0 ∧ p.2.frame.isSome = true := by
  unfold preemptable at h
  cases hw : winner s cl with
  | none =>
    rw [hw] at h
    exact (Option.some_ne_none gs h.symm).elim
  | some w =>
    cases hr : (s.cluster cl).reserved with
    | none =>
      rw [hw, hr] at h
      exact (Option.some_ne_none gs h.symm).elim
    | some r =>
      rw [hw, hr] at h
      obtain ⟨hc, h⟩ := Option.ite_none_right_eq_some.1 h
      obtain ⟨hres, hsince, hroom⟩ := hc
      unfold reservedFor at hres
      rw [hr] at hres
      obtain ⟨hkey, hhead⟩ := Bool.and_eq_true_iff.1 hres
      obtain ⟨he, -⟩ := Option.filter_eq_some_iff.1 h
      obtain ⟨hfits, i, hi⟩ := List.find?_eq_some_iff_append.1 he
      obtain ⟨n, -, rfl⟩ := List.mem_map.1 (List.mem_of_find?_eq_some he)
      exact ⟨w.1, w.2, r, rfl, rfl, of_decide_eq_true hkey, (headId_eq w.1).symm ▸ of_decide_eq_true hhead, hsince, Bool.eq_false_iff.2 hroom, hfits,
        fun p hp => mem_victims (List.mem_of_mem_take hp)⟩

/-- Gangs change, and each as `f` says. -/
def ChangesGangs (f : Nat → Gang → Gang) (s t : State) : Prop := t = { s with gangs := t.gangs } ∧ ∀ k, tget t.gangs k = (tget s.gangs k).map (f k)

theorem changesGangs_trans {f g : Nat → Gang → Gang} {s t u : State} (h : ChangesGangs f s t) (k : ChangesGangs g t u) :
    ChangesGangs (fun n => g n ∘ f n) s u :=
  ⟨k.1.trans (congrArg (fun v : State => { v with gangs := u.gangs }) h.1),
    fun n => (k.2 n).trans ((congrArg (Option.map (g n)) (h.2 n)).trans (Option.map_map ..))⟩

theorem modGang_changes (s : State) (id : BitVec 16) (f : Gang → Gang) :
    ChangesGangs (fun k y => if id.toNat = k then f y else y) s (s.modGang id f) := by
  unfold State.modGang
  cases h : tget s.gangs id.toNat with
  | none =>
    refine ⟨rfl, fun k => ?_⟩
    by_cases hk : id.toNat = k
    · rw [← hk, h]
      rfl
    · simp only [if_neg hk, Option.map_id']
  | some g =>
    refine ⟨rfl, fun k => (tget_tset ..).trans ?_⟩
    by_cases hk : id.toNat = k
    · rw [← hk, if_pos rfl, h]
      exact congrArg some (if_pos rfl).symm
    · simp only [if_neg hk, if_neg (Ne.symm hk), Option.map_id']

/-- A gang that is to be saved. -/
noncomputable def marked (g : Gang) : Gang := { g with preempt := true }

theorem marks_change (gs : List (Nat × Gang)) (s : State) :
    ChangesGangs (fun k y => if gs.any (fun p => p.1 % 65536 = k) then marked y else y) s
      (gs.foldl (fun s p => s.modGang (BitVec.ofNat 16 p.1) marked) s) := by
  induction gs generalizing s with
  | nil => exact ⟨rfl, fun k => Option.map_id'.symm⟩
  | cons p gs ih =>
    refine cast (congrArg (ChangesGangs · s _) (funext fun k => funext fun y => ?_)) (changesGangs_trans (modGang_changes s _ marked) (ih _))
    rw [List.any_cons]
    change (if _ then marked (if p.1 % 65536 = k then marked y else y) else if p.1 % 65536 = k then marked y else y)
      = if (decide (p.1 % 65536 = k) || gs.any _) = true then marked y else y
    by_cases hp : p.1 % 65536 = k
    · rw [if_pos hp, decide_eq_true hp]
      exact ite_self _
    · rw [if_neg hp, decide_eq_false hp]
      rfl

theorem preemptionRequest_some {s : State} {cl : BitVec 5} {gs : List (Nat × Gang)} (h : preemptable s cl = some gs) :
    exec (.preemptionRequest cl) s = .next (gs.foldl (fun s p => s.modGang (BitVec.ofNat 16 p.1) marked) s) := by
  change execPreemptionRequest cl s = _
  unfold execPreemptionRequest
  rw [h]
  rfl

theorem preemptionRequest_none {s : State} {cl : BitVec 5} (h : preemptable s cl = none) : exec (.preemptionRequest cl) s = .next s := by
  change execPreemptionRequest cl s = _
  unfold execPreemptionRequest
  rw [h]

/-! ### Purses -/

theorem foldl_refill (share : Nat → Int) (ks : List Nat) (hn : ks.Nodup) (ps : Table Int) (k : Nat) :
    tgetD (ks.foldl (fun ps k => tset ps k (min (tgetD ps k 0 + ((1 : Nat) : Int) * share k) (2 * share k))) ps) k 0
      = if k ∈ ks then min (tgetD ps k 0 + share k) (2 * share k) else tgetD ps k 0 := by
  induction ks generalizing ps with
  | nil => rfl
  | cons c ks ih =>
    obtain ⟨hc, hks⟩ := List.nodup_cons.1 hn
    rw [List.foldl_cons, ih hks, tgetD_tset]
    by_cases hk : k = c
    · subst hk
      rw [if_neg hc, if_pos rfl, if_pos List.mem_cons_self, Nat.cast_one, one_mul]
    · simp only [List.mem_cons, hk, false_or, if_false]

/-- A core whose purses have had their shares. -/
noncomputable def refilled (ks : List Nat) (share : Nat → Int) (c : Core) : Core :=
  { c with purses := ks.foldl (fun ps k => tset ps k (min (tgetD ps k 0 + ((1 : Nat) : Int) * share k) (2 * share k))) c.purses }

/-- What a purse of a core gets at a refill. -/
noncomputable def shareOf (s : State) (core : BitVec 8) (k : Nat) : Int :=
  if ((purseKeys s core).map (purseWeight s)).sum = 0 then 0
  else ((32768 * purseWeight s k / ((purseKeys s core).map (purseWeight s)).sum : Nat) : Int)

theorem purseRefill_eq (s : State) (core : BitVec 8) :
    exec (.purseRefill core) s = .next (if purseKeys s core = [] then s else s.modCore core (refilled (purseKeys s core) (shareOf s core))) := by
  refine congrArg Host.Outcome.next ?_
  unfold State.refill
  by_cases h : purseKeys s core = []
  · exact (if_pos (.inr h)).trans (if_pos h).symm
  · exact (if_neg fun k => k.elim nofun h).trans (if_neg h).symm

theorem nodup_eraseDups (l : List Nat) : l.eraseDups.Nodup :=
  match l with
  | [] => List.nodup_nil
  | a :: l => by
    rw [List.eraseDups_cons]
    refine List.nodup_cons.2 ⟨fun h => ?_, nodup_eraseDups _⟩
    have := (List.mem_filter.1 (List.mem_eraseDups.1 h)).2
    rw [beq_self_eq_true] at this
    exact nomatch this
termination_by l.length
decreasing_by exact Nat.lt_succ_of_le (List.length_filter_le ..)

/-! ### What a save writes -/

/-- Bytes are written in memory, and nothing else happens but that the cores' copies of their lines go. -/
def WritesFrame (s t : State) : Prop := t = { s with mem := t.mem, poison := t.poison, dir := t.dir }

theorem writesFrame_refl (s : State) : WritesFrame s s := Eq.refl s

theorem writesFrame_trans {s t u : State} (h : WritesFrame s t) (k : WritesFrame t u) : WritesFrame s u :=
  k.trans (congrArg (fun x : State => { x with mem := u.mem, poison := u.poison, dir := u.dir }) h)

theorem writesFrame_frameWrite {c : BitVec 8} {fuel va : Nat} {bs : List Byte} {s t : State} (h : frameWrite s c fuel va bs = .ok t) :
    WritesFrame s t := by
  induction fuel generalizing va bs s with
  | zero => exact Except.ok.inj h ▸ writesFrame_refl s
  | succ fuel ih =>
    unfold frameWrite at h
    split at h
    · exact Except.ok.inj h ▸ writesFrame_refl s
    · dsimp only at h
      split at h
      · exact absurd h error_ne_ok
      · exact writesFrame_trans (Eq.refl (State.putMem (State.homeRange ..) ..)) (ih h)

theorem bind_ok {ε α β : Type} {x : Except ε α} {f : α → Except ε β} {b : β} (h : x >>= f = .ok b) : ∃ a, x = .ok a ∧ f a = .ok b := by
  cases x with
  | error e => exact absurd h error_ne_ok
  | ok a => exact ⟨a, rfl, h⟩

theorem guarded_ok {ε β : Type} {p : Prop} [Decidable p] {e : ε} {f : Unit → Except ε β} {b : β}
    (h : (if p then Except.error e >>= f else Except.ok () >>= f) = .ok b) : f () = .ok b := by
  split at h
  · exact absurd h error_ne_ok
  · exact h

theorem writesFrame_foldlM {α : Type} {f : State → α → Except FrameFault State} (hf : ∀ {s a t}, f s a = .ok t → WritesFrame s t) (l : List α)
    {s t : State} (h : l.foldlM f s = .ok t) : WritesFrame s t := by
  induction l generalizing s with
  | nil => exact Except.ok.inj h ▸ writesFrame_refl s
  | cons a l ih =>
    obtain ⟨u, hu, h⟩ := bind_ok h
    exact writesFrame_trans (hf hu) (ih h)

/-- Bytes that are written where a condition holds. -/
theorem writesFrame_ite {p : Prop} [Decidable p] {c : BitVec 8} {va : Nat} {bs : List Byte} {s t : State}
    (h : (if p then fput c va bs s else .ok s) = .ok t) : WritesFrame s t := by
  split at h
  · exact writesFrame_frameWrite h
  · exact Except.ok.inj h ▸ writesFrame_refl s

/-- A gang whose frame holds a rank's images. -/
noncomputable def framing (h : Hart) (g : Gang) : Gang := { g with framed := g.framed ||| BitVec.twoPow 64 h.rank.toNat }

theorem saveImages_ok {s t : State} {g : Gang} {f : Nat} (h : saveImages s g f = .ok t) :
    ∃ u, WritesFrame s u ∧ t = u.modGang s.hart.gang (framing s.hart) := by
  unfold saveImages at h
  dsimp only at h
  have h := guarded_ok h
  obtain ⟨old, -, h⟩ := bind_ok h
  obtain ⟨a, ha, h⟩ := bind_ok h
  obtain ⟨b, hb, h⟩ := bind_ok h
  obtain ⟨c, hc, h⟩ := bind_ok h
  obtain ⟨d, hd, h⟩ := bind_ok h
  obtain ⟨e, he, h⟩ := bind_ok h
  refine ⟨e, ?_, (Except.ok.inj h).symm⟩
  exact writesFrame_trans (writesFrame_frameWrite ha) (writesFrame_trans (writesFrame_frameWrite hb) (writesFrame_trans
    (writesFrame_foldlM writesFrame_ite _ hc) (writesFrame_trans (writesFrame_foldlM writesFrame_ite _ hd) (writesFrame_foldlM writesFrame_ite _ he))))

theorem gangFrame_ok {s t : State} {id : Nat} {g : Gang} {f : Nat} (h : (do endedWords (← saveGang s id g f) g f) = .ok t) : WritesFrame s t := by
  obtain ⟨u, hu, h⟩ := bind_ok h
  unfold saveGang at hu
  obtain ⟨v, hv, hu⟩ := bind_ok hu
  unfold endedWords at h
  exact writesFrame_trans (writesFrame_frameWrite hv) (writesFrame_trans (writesFrame_foldlM writesFrame_ite _ hu)
    (writesFrame_foldlM writesFrame_ite _ h))

/-! ### A hart is saved -/

/-- A gang one of whose ranks is saved. -/
noncomputable def rankSaved (h : Hart) (cycles : Nat) (boundary : Bool) (g : Gang) : Gang :=
  { g with savedRanks := g.savedRanks ||| BitVec.twoPow 64 h.rank.toNat
           boundary := if boundary then g.boundary ||| BitVec.twoPow 64 h.rank.toNat else g.boundary
           carry := tset g.carry h.rank.toNat (h.carry cycles) }

/-- What a saved hart is. -/
noncomputable def savedHart (h : Hart) : Hart := { h with wait := .saved, vdirty := 0, link := none, vlinkOpen := false }

/-- The machine whose hart, as it was, is saved. -/
noncomputable def savedState (v : State) (h : Hart) (b : Bool) : State :=
  State.withHart { v.modGang h.gang (rankSaved h v.cycles b) with
    linkTable := (v.modGang h.gang (rankSaved h v.cycles b)).linkTable.filter
      (fun e => ¬ h.who.owns (v.modGang h.gang (rankSaved h v.cycles b)).fab.devid e) } savedHart

theorem saveHart_eq {s v : State} {g : Gang} {f : Nat} (hg : tget s.gangs s.hart.gang.toNat = some g) (hf : g.frame = some f)
    (hv : saveImages s g f = .ok v) (b : Bool) : s.saveHart b = savedState v s.hart b := by
  unfold State.saveHart
  simp only [hg, hf, hv]
  rfl

theorem savedState_spec {s v : State} {g : Gang} {f : Nat} (hg : tget s.gangs s.hart.gang.toNat = some g)
    (hv : saveImages s g f = .ok v) (b : Bool) :
    tget (savedState v s.hart b).gangs s.hart.gang.toNat = some (rankSaved s.hart v.cycles b (framing s.hart g))
      ∧ (savedState v s.hart b).hart = savedHart s.hart ∧ (savedState v s.hart b).mem = v.mem ∧ (savedState v s.hart b).ctxs = v.ctxs := by
  obtain ⟨w, hw, rfl⟩ := saveImages_ok hv
  obtain ⟨h1, h2⟩ := modGang_changes w s.hart.gang (framing s.hart)
  generalize w.modGang s.hart.gang (framing s.hart) = v at h1 h2
  obtain ⟨k1, k2⟩ := modGang_changes v s.hart.gang (rankSaved s.hart v.cycles b)
  refine ⟨(k2 _).trans ?_, congrArg savedHart ((congrArg State.hart k1 :).trans ((congrArg State.hart h1 :).trans (congrArg State.hart hw :))),
    (congrArg State.mem k1 :), (congrArg State.ctxs k1 :)⟩
  rw [h2, show w.gangs = s.gangs from (congrArg State.gangs hw :), hg]
  simp only [Option.map_some, if_true]

theorem saveNow_eq {s t : State} {k : Gang} {b : Bool} (ht : s.saveHart b = t) (hk : tget t.gangs s.hart.gang.toNat = some k) :
    s.saveNow b = if allSaved k ∧ (t.ctx k.ctx).state = .running then t.saveGangEnd s.hart.gang else t := by
  unfold State.saveNow
  simp only [ht, hk]

/-! ### A gang is saved -/

theorem fatalError_spec {s : State} {c cause : BitVec 8} {gang : BitVec 16} {pc addr : Word} (h : (s.ctx c).state = .running) {α : Type} {φ : Gang → α}
    (hφ : ∀ g t, φ { g with task := t } = φ g) (id : Nat) :
    (((s.fatalError c cause gang pc addr).ctx c).state = .dumping ∨ ((s.fatalError c cause gang pc addr).ctx c).state = .dead)
      ∧ (tget (s.fatalError c cause gang pc addr).gangs id).map φ = (tget s.gangs id).map φ := by
  have key (u : State) (hu : (u.ctx c).state = .running) (hgs : u.gangs = s.gangs) :
      (((u.fatalFault c cause gang pc addr).ctx c).state = .dumping ∨ ((u.fatalFault c cause gang pc addr).ctx c).state = .dead)
        ∧ (tget (u.fatalFault c cause gang pc addr).gangs id).map φ = (tget s.gangs id).map φ := by
    refine ⟨?_, hgs ▸ fatalFault_map hφ ..⟩
    obtain ⟨v, -, e⟩ := fatalFault_of_running hu cause gang pc addr
    rw [e, (fatal_spec v _ c _).1 c, if_pos rfl]
    unfold fatalCtx
    cases dumpFits v c
    · exact .inr rfl
    · exact .inl rfl
  unfold State.fatalError
  split
  · exact key s.countUe h rfl
  · exact key s h rfl

theorem without_dead {s : State} (h : Hart) (hl : s.hart.live = false) : (without s h).hart.live = false := by
  unfold without
  rw [if_neg fun k => Bool.eq_false_iff.1 hl k.1]
  exact hl

theorem freeHarts_spec (l : List Hart) {s : State} (hl : s.hart.live = false) :
    (l.foldl (fun s h => s.freeHart h) s).hart.live = false ∧ (l.foldl (fun s h => s.freeHart h) s).gangs = s.gangs := by
  induction l generalizing s with
  | nil => exact ⟨hl, rfl⟩
  | cons h l ih =>
    have hf := freeHart_frees s h
    have hg : (without s h).gangs = s.gangs := iteInduction (motive := fun u : State => u.gangs = s.gangs) (fun _ => rfl) fun _ => rfl
    obtain ⟨h1, h2⟩ := ih ((congrArg (fun u : State => u.hart.live) hf :).trans (without_dead h hl))
    exact ⟨h1, h2.trans ((congrArg State.gangs hf :).trans hg)⟩

theorem freeGang_spec {s : State} {id : BitVec 16} (hl : s.hart.live = true) (hg : s.hart.gang = id) :
    ((s.gangHarts id).foldl (fun s h => s.freeHart h) s).hart.live = false ∧ ((s.gangHarts id).foldl (fun s h => s.freeHart h) s).gangs = s.gangs := by
  have hh : s.gangHarts id = s.hart :: s.harts.filter (fun h => h.gang = id) := by
    unfold State.gangHarts State.allHarts
    rw [if_pos hl]
    exact List.filter_cons_of_pos (decide_eq_true hg)
  have hf := freeHart_frees s s.hart
  have hw : without s s.hart = { s with hart := { Hart.empty with core := s.hart.core, slot := s.hart.slot } } := if_pos ⟨hl, rfl⟩
  rw [hw] at hf
  rw [hh]
  obtain ⟨h1, h2⟩ := freeHarts_spec (s.harts.filter (fun h => h.gang = id)) (s := s.freeHart s.hart) (congrArg (fun u : State => u.hart.live) hf :)
  exact ⟨h1, h2.trans (congrArg State.gangs hf :)⟩

/-- A gang all of whose living ranks are saved. -/
noncomputable def gangSaved (g : Gang) : Gang := { g with saved := true, preempt := false, banks := [] }

theorem saveGangEnd_eq {s : State} {id : BitVec 16} {g : Gang} {f : Nat} (hg : tget s.gangs id.toNat = some g) (hf : g.frame = some f) :
    s.saveGangEnd id = let t := frameOr s g.ctx id 0 (do endedWords (← saveGang s id.toNat g f) g f)
      if (t.ctx g.ctx).state ≠ .running then t
      else (((((t.gangHarts id).foldl (fun s h => s.freeHart h) t).freeGangBanks g).modGang id gangSaved).stopDone g.ctx) := by
  unfold State.saveGangEnd
  simp only [hg, hf]
  rfl

/-- What the end of a gang's save leaves: a gang with its ranks, whose context has stopped on a fault, or which is saved. -/
theorem saveGangEnd_spec {s : State} {g : Gang} {f : Nat} (hl : s.hart.live = true) (hg : tget s.gangs s.hart.gang.toNat = some g) (hf : g.frame = some f)
    (hr : (s.ctx g.ctx).state = .running) : ∃ k, tget (s.saveGangEnd s.hart.gang).gangs s.hart.gang.toNat = some k ∧ k.savedRanks = g.savedRanks
      ∧ k.ended = g.ended ∧ (((s.saveGangEnd s.hart.gang).ctx g.ctx).state ≠ .dumping → ((s.saveGangEnd s.hart.gang).ctx g.ctx).state ≠ .dead →
        k.saved = true ∧ k.preempt = false ∧ k.banks = [] ∧ (s.saveGangEnd s.hart.gang).hart.live = false) := by
  rw [saveGangEnd_eq hg hf]
  cases hx : (do endedWords (← saveGang s s.hart.gang.toNat g f) g f) with
  | error e =>
    obtain ⟨hs, hm⟩ := fatalError_spec (cause := e.1) (gang := s.hart.gang) (pc := 0) (addr := e.2) hr (φ := fun g => (g.savedRanks, g.ended))
      (fun _ _ => rfl) s.hart.gang.toNat
    generalize ht : s.fatalError g.ctx e.1 s.hart.gang 0 e.2 = t at hs hm
    have hn : (t.ctx g.ctx).state ≠ .running := by
      obtain hs | hs := hs
      · rw [hs]; decide
      · rw [hs]; decide
    rw [hg] at hm
    obtain ⟨k, hk, hk'⟩ := Option.map_eq_some_iff.1 hm
    obtain ⟨h1, h2⟩ := Prod.mk.inj hk'
    dsimp only [frameOr]
    rw [ht, if_pos hn]
    exact ⟨k, hk, h1, h2, fun a b => (hs.elim a b).elim⟩
  | ok t =>
    have hw := gangFrame_ok hx
    have hrun : (t.ctx g.ctx).state = .running := (congrArg (fun u : State => (u.ctx g.ctx).state) hw :).trans hr
    have hh : t.hart = s.hart := (congrArg State.hart hw :)
    obtain ⟨h1, h2⟩ := freeGang_spec (s := t) (id := s.hart.gang) (hh ▸ hl) (congrArg Hart.gang hh)
    dsimp only [frameOr]
    rw [if_neg (not_not.2 hrun)]
    generalize (t.gangHarts s.hart.gang).foldl (fun s h => s.freeHart h) t = u at h1 h2
    have hb := frees_freeGangBanks u g
    obtain ⟨m1, m2⟩ := modGang_changes (u.freeGangBanks g) s.hart.gang gangSaved
    generalize (u.freeGangBanks g).modGang s.hart.gang gangSaved = v at m1 m2
    have hd := frees_stopDone v g.ctx
    have e : tget (v.stopDone g.ctx).gangs s.hart.gang.toNat = some (gangSaved g) := by
      rw [show (v.stopDone g.ctx).gangs = v.gangs from (congrArg State.gangs hd :), m2,
        show (u.freeGangBanks g).gangs = s.gangs from (congrArg State.gangs hb :).trans (h2.trans (congrArg State.gangs hw :)), hg]
      exact congrArg some (if_pos rfl)
    exact ⟨_, e, rfl, rfl, fun _ _ => ⟨rfl, rfl, rfl, (congrArg (fun x : State => x.hart.live) hd :).trans
      ((congrArg (fun x : State => x.hart.live) m1 :).trans ((congrArg (fun x : State => x.hart.live) hb :).trans h1))⟩⟩

theorem hartSave_saves {s v : State} {g : Gang} {f : Nat} (hl : s.hart.live = true) (hg : tget s.gangs s.hart.gang.toNat = some g) (hf : g.frame = some f)
    (hv : saveImages s g f = .ok v) (hrun : (v.ctx g.ctx).state = .running) (b : Bool) :
    let ranks := g.savedRanks ||| BitVec.twoPow 64 s.hart.rank.toNat
    ∃ k, tget (s.saveNow b).gangs s.hart.gang.toNat = some k ∧ k.savedRanks = ranks ∧ k.ended = g.ended
      ∧ (ranks ||| g.ended ≠ allRanks g → k.saved = g.saved ∧ (s.saveNow b).mem = v.mem ∧ (s.saveNow b).hart = savedHart s.hart)
      ∧ (ranks ||| g.ended = allRanks g → ((s.saveNow b).ctx g.ctx).state ≠ .dumping → ((s.saveNow b).ctx g.ctx).state ≠ .dead →
          k.saved = true ∧ k.preempt = false ∧ k.banks = [] ∧ (s.saveNow b).hart.live = false) := by
  intro ranks
  obtain ⟨hk, hh, hm, hc⟩ := savedState_spec hg hv b
  have hr : ((savedState v s.hart b).ctx g.ctx).state = .running := by
    unfold State.ctx at hrun ⊢
    rw [hc]
    exact hrun
  rw [saveNow_eq (saveHart_eq hg hf hv b) hk]
  generalize savedState v s.hart b = t at hk hh hm hr
  have hall : allSaved (rankSaved s.hart v.cycles b (framing s.hart g)) = true ↔ ranks ||| g.ended = allRanks g := by
    rw [← ranksOf_eq]
    exact decide_eq_true_iff
  by_cases ha : ranks ||| g.ended = allRanks g
  · rw [if_pos ⟨hall.2 ha, hr⟩]
    have hgt : t.hart.gang = s.hart.gang := (congrArg Hart.gang hh :)
    obtain ⟨k, h1, h2, h3, h4⟩ := saveGangEnd_spec (s := t) (g := rankSaved s.hart v.cycles b (framing s.hart g)) ((congrArg Hart.live hh :).trans hl) (hgt.symm ▸ hk) hf hr
    rw [hgt] at h1 h4
    exact ⟨k, h1, h2, h3, fun hn => absurd ha hn, fun _ => h4⟩
  · rw [if_neg fun h => ha (hall.1 h.1)]
    exact ⟨_, hk, rfl, rfl, fun _ => ⟨rfl, hm, hh⟩, fun h => absurd h ha⟩

theorem hartSave_eq {s u : State} {r : HartRef} (h : Is s u r) : exec (.hartSave r) s
    = if savePoint u ∧ ¬ (u.core u.hart.core).dHalted ∧ u.hart.rep.isNone ∧ saveReady u then .next (u.saveNow (u.hart.wait = .none ∧ atBoundary u))
      else .next u := by
  change execHartSave r s = _
  exact asHart_of_is h _

theorem hartSave_none {s : State} {r : HartRef} (h : ∀ u, ¬ Is s u r) : exec (.hartSave r) s = .next s := by
  change execHartSave r s = _
  exact asHart_none h _

theorem vlbRebind_none {s : State} {r : HartRef} (h : ∀ u, ¬ Is s u r) : exec (.vlbRebind r) s = .next s := by
  change execVlbRebind r s = _
  exact asHart_none h _

theorem savePoint_iff (u : State) : savePoint u = true ↔ (preempted u 3 = true ∧ savableWait u.hart.wait true = true)
    ∨ (preempted u 2 = true ∧ savableWait u.hart.wait false = true ∧ (u.hart.wait ≠ .none ∨ atPoint u = true)) := by
  unfold savePoint
  simp only [Bool.or_eq_true, Bool.and_eq_true, decide_eq_true_eq, and_assoc]

/-- The boundary forms (06 R155). -/
def Boundary (i : Instr) : Prop := (∃ rd rs1 eew grp, i = .vsetvlB rd rs1 eew grp) ∨ ∃ rd rs1 rs2 eew grp, i = .vsetshapeB rd rs1 rs2 eew grp

theorem vlbRebind_drains {s u : State} {r : HartRef} (h : Is s u r) (hd : u.hart.disp ≠ []) : exec (.vlbRebind r) s = .next u := by
  change execVlbRebind r s = _
  exact (asHart_of_is h _).trans (if_pos fun k => hd (List.isEmpty_iff.1 k))

theorem vlbRebind_boundary {s u t : State} {r : HartRef} {bs rest : List Byte} {i : Instr} (h : Is s u r) (hd : u.hart.disp = [])
    (hf : u.fetch = (.bytes bs, t)) (hi : decode bs = .ok (i, rest)) (hb : Boundary i) : exec (.vlbRebind r) s = exec i t := by
  change execVlbRebind r s = _
  refine (asHart_of_is h _).trans ((if_neg (by rw [hd]; decide)).trans ?_)
  obtain ⟨rd, rs1, eew, grp, rfl⟩ | ⟨rd, rs1, rs2, eew, grp, rfl⟩ := hb
  · rw [hf]
    dsimp only
    rw [hi]
    rfl
  · rw [hf]
    dsimp only
    rw [hi]
    rfl

theorem vlbRebind_other {s u t : State} {r : HartRef} {bs rest : List Byte} {i : Instr} (h : Is s u r) (hd : u.hart.disp = [])
    (hf : u.fetch = (.bytes bs, t)) (hi : decode bs = .ok (i, rest)) (hb : ¬ Boundary i) : exec (.vlbRebind r) s = .next u := by
  change execVlbRebind r s = _
  refine (asHart_of_is h _).trans ((if_neg (by rw [hd]; decide)).trans ?_)
  rw [hf]
  dsimp only
  rw [hi]
  clear hi hf hd h
  revert hb
  induction i with
  | vsetvlB rd rs1 eew grp => exact fun hb => absurd (.inl ⟨rd, rs1, eew, grp, rfl⟩) hb
  | vsetshapeB rd rs1 rs2 eew grp => exact fun hb => absurd (.inr ⟨rd, rs1, rs2, eew, grp, rfl⟩) hb
  | _ => exact fun _ => (rfl : (Host.Outcome.next u : Out) = .next u)

/-- Settles O46. -/
theorem gangsWaitAndAreSaved : Obligations.GangsWaitAndAreSaved := by
  intro s
  refine ⟨fun g => gbarComplete_none, fun g x hx => ⟨fun h => (gbarComplete_some hx).trans (if_neg h), fun h1 h2 h3 => ?_⟩, fun cl => preemptionRequest_none,
    fun cl gs h => ⟨preemptable_spec h, _, preemptionRequest_some h, marks_change gs s⟩, fun r h => ⟨hartSave_none h, vlbRebind_none h⟩,
    fun u r h => ?_, fun core h => (purseRefill_eq s core).trans (congrArg _ (if_pos h)), fun core h => ?_, fun u r h =>
    ⟨vlbRebind_drains h, fun hd bs t i rest hf hi => ⟨fun rd rs1 eew grp e => vlbRebind_boundary h hd hf hi (.inl ⟨rd, rs1, eew, grp, e⟩),
      fun rd rs1 rs2 eew grp e => vlbRebind_boundary h hd hf hi (.inr ⟨rd, rs1, rs2, eew, grp, e⟩), fun h1 h2 => vlbRebind_other h hd hf hi ?_⟩⟩⟩
  · obtain ⟨p1, p2, p3, p4⟩ := passBarrier_passes hx
    exact ⟨_, (gbarComplete_some hx).trans (if_pos ⟨h1, h2, h3⟩), p1, p2, p3, p4⟩
  · intro precise boundary may
    have hp : (savePoint u ∧ ¬ (u.core u.hart.core).dHalted ∧ u.hart.rep.isNone ∧ saveReady u) ↔ (precise ∨ boundary) ∧ may := by
      rw [savePoint_iff, Bool.not_eq_true, Option.isNone_iff_eq_none]
    refine ⟨fun hn => (hartSave_eq h).trans (if_neg (hp.not.2 hn)), fun hb hm g f v hg hf hv hrun => ?_⟩
    obtain ⟨k, hk⟩ := hartSave_saves h.2.1 hg hf hv hrun (u.hart.wait = .none ∧ atBoundary u)
    exact ⟨_, k, (hartSave_eq h).trans (if_pos (hp.2 ⟨hb, hm⟩)), hk⟩
  · intro ks total share
    refine ⟨_, (purseRefill_eq s core).trans (congrArg _ (if_neg h)), rfl, fun c hc => (core_modCore ..).trans (if_neg hc), ?_, fun k => ?_⟩
    · rw [core_modCore, if_pos rfl]
      rfl
    · rw [core_modCore, if_pos rfl]
      exact foldl_refill (shareOf s core) ks (nodup_eraseDups _) _ k
  · rintro (⟨rd, rs1, eew, grp, e⟩ | ⟨rd, rs1, rs2, eew, grp, e⟩)
    · exact h1 rd rs1 eew grp e
    · exact h2 rd rs1 rs2 eew grp e

end Sys2Proof.GangProofs
end
